-- ==== Sys2Proof/Syntax.lean ====
section
/-!
DEFINITION. Sys2Proof/Syntax.lean: every step the opcode table of the Solminis K77 lists, as one inductive.
A row with bits is one 16-bit word of a strand's program (R271): the six prefix words, the words of page 0 (R280) and
those of page 1 (R281); its arguments are the fields of its row, `m` being the switch marker (R89).  The page-1 words
take their page from PLATCH (R92), so one constructor is one issued word and a prefix word is an instruction of its own
(R317).  A row without bits is a step the module takes by itself or at the request of the host, the reeve, a debug
session or another module; its arguments name what the step acts on.
-/
namespace Sys2Proof

/-- The two strands of a task on a tile (R75). -/
inductive Side where
  | a
  | e
  deriving DecidableEq, Repr

/-- A firmware image as the boot ROM sees it (R242): whether its LMS signature verifies, its security version, its
SHA-256 hash, and whether it was written whole. -/
structure Image where
  signed  : Bool
  version : Nat
  hash    : BitVec 256
  whole   : Bool
  deriving DecidableEq, Repr

/-- What a tenant may do through its debug session (R241): read and patch saves and records (tasks, continuations, frames, fibres,
Granary cells), read the field store, write the breakpoint registers. -/
inductive DebugCmd where
  | readField  (tile : Nat) (addr : Nat) (bytes : Nat)
  | patchField (tile : Nat) (addr : Nat) (value : BitVec 64)
  | readTask   (handle : BitVec 64) (word : Nat)
  | patchTask  (handle : BitVec 64) (word : Nat) (value : BitVec 64)
  | readCont   (handle : BitVec 64) (word : Nat)
  | patchCont  (handle : BitVec 64) (word : Nat) (value : BitVec 64)
  | readFrame  (handle : BitVec 64) (word : Nat)
  | patchFrame (handle : BitVec 64) (word : Nat) (value : BitVec 64)
  | readFibre  (fibre : BitVec 16) (word : Nat)
  | patchFibre (fibre : BitVec 16) (word : Nat) (value : BitVec 64)
  | readCell   (handle : BitVec 64) (word : Nat)
  | patchCell  (handle : BitVec 64) (word : Nat) (value : BitVec 64)
  | breakpoint (n : Nat) (va : BitVec 64)
  | control    (value : BitVec 64)
  deriving DecidableEq, Repr

/-- One assignment of a context by the reeve (R229): its clusters (die and cluster number) with the virtual tile
number of each tile, the key that the tenant's session supplies instead of the reeve's random source (R230), its second-tier
key entries (controller, key id), its window entries (R235: number and two words), and the registers it writes. -/
structure Assignment where
  ctx      : Nat
  clusters : List (Nat × Nat)
  vtiles   : List (Nat × BitVec 10)
  tenantKey : Option Nat
  keyIds   : List (Nat × Nat)
  windows  : List (Nat × BitVec 64 × BitVec 64)
  xlroot   : BitVec 64
  rotbase  : BitVec 64
  tbudget  : BitVec 64
  prectl   : BitVec 64
  deriving DecidableEq, Repr

/-- A write of a register that has no row of its own (REGISTER_WRITE), by the reeve or by the host through a service
core. -/
inductive RegWrite where
  | xlroot  (ctx : Nat) (v : BitVec 64)
  | rotbase (ctx : Nat) (v : BitVec 64)
  | tbudget (ctx : Nat) (v : BitVec 64)
  | prectl  (ctx : Nat) (v : BitVec 64)
  | rktab   (ctx : Nat) (v : BitVec 64)
  | qpri    (ctx : Nat) (v : BitVec 64)
  | kvrb    (ctx : Nat) (v : BitVec 64)
  | fsctx   (tile : Nat) (v : BitVec 64)
  | keyTable (ctrl keyId : Nat) (valid : Bool) (ctx : BitVec 4)
  | beamSet (die set : Nat) (ctx : BitVec 4)
  | lroute  (module : Nat) (ports : BitVec 16)
  | hdm     (base size : Nat)
  | hostPrivate (page : Nat) (priv : Bool)
  deriving DecidableEq, Repr

/-- A part of a remote module's access as it arrives at a target drill (R236): its window, its key, its stream and
sequence number (R266), the address within the second tier, and the data of a write. -/
structure RemotePart where
  drill   : Nat
  source  : Nat
  target  : Nat
  stream  : Nat
  seq     : Nat
  window  : Nat
  key     : BitVec 64
  write   : Bool
  pa      : Nat
  bytes   : Nat
  data    : List (BitVec 8)
  hops    : Nat
  deriving DecidableEq, Repr

/-- One direction of a module-link port: the one that sends (out) or the one that receives (R233, R264). -/
structure LinkEnd where
  port : Nat
  out  : Bool
  deriving DecidableEq, Repr

/-- One step of the module: every row of spec/opcode_table.json. -/
inductive Instr where
  /-- XIMM (R274). Prefix word that supplies eight more immediate bits to the next non-prefix word and latches into PLATCH. -/
  | ximm (i : BitVec 8)
  /-- XREG (R273). Prefix word that supplies high register bits and a third register b, and latches into PLATCH. -/
  | xreg (d : Bool) (a : Bool) (b : BitVec 5)
  /-- PAGE (R275). Prefix word that selects opcode page 1 for the next non-prefix word. -/
  | page (p : BitVec 2)
  /-- MEMQ (R275). Prefix word that supplies stream, scope and acquire or release to a far, fence or Granary instruction. -/
  | memq (s : BitVec 4) (c : BitVec 3) (q : Bool)
  /-- NFMT (R100). Prefix word that supplies the format codes of operands A and B. -/
  | nfmt (a : BitVec 4) (b : BitVec 4)
  /-- GUARD (R278). Prefix word that makes the next instruction conditional on a predicate; a false guard nullifies it. -/
  | guard (p : BitVec 3) (n : Bool)
  /-- NOP (R318). Issues in one cycle and does nothing. -/
  | nop (m : Bool)
  /-- END (R319). Ends the issuing strand; the second END checks queue residue and lets the task retire once drained. -/
  | endStrand (m : Bool)
  /-- BR (R320). Branches relative to the next word when a predicate, possibly negated, holds. -/
  | br (m : Bool) (p : BitVec 3) (n : Bool) (o : BitVec 4)
  /-- JMP (R320). Jumps relative to the next word. -/
  | jmp (m : Bool) (o : BitVec 8)
  /-- CALL (R320). Writes the return address to s31 and jumps relative to the next word. -/
  | call (m : Bool) (o : BitVec 8)
  /-- RET (R321). Transfers to the absolute address held in s31. -/
  | ret (m : Bool)
  /-- JMPR (R321). Transfers to the absolute address held in s[a]. -/
  | jmpr (m : Bool) (a : BitVec 4)
  /-- JMPT (R226). Branches through a table of 2-byte offsets in the field store, with a default entry at index n. -/
  | jmpt (m : Bool) (d : BitVec 4) (a : BitVec 4)
  /-- LOOP (R323). Opens a zero-overhead loop counted by a loop register, or skips the body when the count is 0. -/
  | loop (m : Bool) (l : BitVec 3) (e : BitVec 5)
  /-- BRQ (R324). Pops the incoming outcome queue and branches when the bit, possibly negated, is 1. -/
  | brq (m : Bool) (n : Bool) (o : BitVec 7)
  /-- PUSHO (R324). Pushes a predicate into the outgoing outcome queue toward the other strand. -/
  | pusho (m : Bool) (p : BitVec 3)
  /-- AWAIT (R381). Ends the strand with a continuation that waits on completion registers, a landing counter, a future or a Granary counter, or falls through when no record is free. -/
  | await (m : Bool) (p : BitVec 3) (x : BitVec 5)
  /-- CHAIN (R380). Records a task handle to be armed at the end of the run. -/
  | chain (m : Bool) (a : BitVec 4)
  /-- TRAP (R325). Raises trap code TRAP precisely, with imm8 as subcode. -/
  | trap (m : Bool) (i : BitVec 8)
  /-- RESTARTPT (R362). Makes a restart point jointly with the other strand's RESTARTPT, recording PCs, live scalars, st, completion registers and PXCTR. -/
  | restartpt (m : Bool) (i : BitVec 8)
  /-- FENCE (R312). Inserts ordering markers into the named far channels of the strand at the given scope. -/
  | fence (m : Bool) (s : BitVec 8)
  /-- MOV (R326). Copies one scalar register to another. -/
  | mov (m : Bool) (d : BitVec 4) (a : BitVec 4)
  /-- MOVI (R326). Writes a sign-extended immediate to a scalar register. -/
  | movi (m : Bool) (d : BitVec 4) (i : BitVec 4)
  /-- LDC (R327). Loads an 8-byte literal from the task's instruction store. -/
  | ldc (m : Bool) (d : BitVec 4) (i : BitVec 4)
  /-- ADD (R328). Adds two 64-bit values modulo 2^64. -/
  | add (m : Bool) (d : BitVec 4) (a : BitVec 4)
  /-- SUB (R328). Subtracts two 64-bit values modulo 2^64. -/
  | sub (m : Bool) (d : BitVec 4) (a : BitVec 4)
  /-- ADDI (R329). Adds a sign-extended immediate to a scalar register. -/
  | addi (m : Bool) (d : BitVec 4) (i : BitVec 4)
  /-- MUL (R328). Writes the low 64 bits of a product, latency 4. -/
  | mul (m : Bool) (d : BitVec 4) (a : BitVec 4)
  /-- MULH (R328). Writes the high 64 bits of a signed 128-bit product, latency 4. -/
  | mulh (m : Bool) (d : BitVec 4) (a : BitVec 4)
  /-- MADD (R330). Adds the product of s[a] and s[b] to s[d], latency 4. -/
  | madd (m : Bool) (d : BitVec 4) (a : BitVec 4)
  /-- DIV (R331). Signed division toward zero with defined results for zero and overflow, latency 20. -/
  | div (m : Bool) (d : BitVec 4) (a : BitVec 4)
  /-- REM (R331). Signed remainder with defined results for zero and overflow, latency 20. -/
  | rem (m : Bool) (d : BitVec 4) (a : BitVec 4)
  /-- AND (R328). Bitwise and of two scalars. -/
  | and (m : Bool) (d : BitVec 4) (a : BitVec 4)
  /-- OR (R328). Bitwise or of two scalars. -/
  | or (m : Bool) (d : BitVec 4) (a : BitVec 4)
  /-- XOR (R328). Bitwise exclusive or of two scalars. -/
  | xor (m : Bool) (d : BitVec 4) (a : BitVec 4)
  /-- ANDI (R329). Ands a scalar with a sign-extended immediate. -/
  | andi (m : Bool) (d : BitVec 4) (i : BitVec 4)
  /-- SHL (R328). Shifts left by the low six bits of the amount register. -/
  | shl (m : Bool) (d : BitVec 4) (a : BitVec 4)
  /-- SHR (R328). Shifts right with zero fill. -/
  | shr (m : Bool) (d : BitVec 4) (a : BitVec 4)
  /-- SRA (R328). Shifts right with sign fill. -/
  | sra (m : Bool) (d : BitVec 4) (a : BitVec 4)
  /-- SHLI (R329). Shifts left by an immediate 0 to 63. -/
  | shli (m : Bool) (d : BitVec 4) (i : BitVec 4)
  /-- SHRI (R329). Shifts right with zero fill by an immediate 0 to 63. -/
  | shri (m : Bool) (d : BitVec 4) (i : BitVec 4)
  /-- SRAI (R329). Shifts right with sign fill by an immediate 0 to 63. -/
  | srai (m : Bool) (d : BitVec 4) (i : BitVec 4)
  /-- ROTL (R328). Rotates a scalar left. -/
  | rotl (m : Bool) (d : BitVec 4) (a : BitVec 4)
  /-- MIN (R328). Signed minimum of two scalars. -/
  | min (m : Bool) (d : BitVec 4) (a : BitVec 4)
  /-- MAX (R328). Signed maximum of two scalars. -/
  | max (m : Bool) (d : BitVec 4) (a : BitVec 4)
  /-- MINU (R328). Unsigned minimum of two scalars. -/
  | minu (m : Bool) (d : BitVec 4) (a : BitVec 4)
  /-- MAXU (R328). Unsigned maximum of two scalars. -/
  | maxu (m : Bool) (d : BitVec 4) (a : BitVec 4)
  /-- CLZ (R332). Counts leading zero bits of a scalar. -/
  | clz (m : Bool) (d : BitVec 4) (a : BitVec 4)
  /-- POPC (R332). Counts one bits of a scalar. -/
  | popc (m : Bool) (d : BitVec 4) (a : BitVec 4)
  /-- EXT (R333). Extracts a bit field whose position and length come from s[b]. -/
  | ext (m : Bool) (d : BitVec 4) (a : BitVec 4)
  /-- INS (R333). Inserts a bit field whose position and length come from s[b]. -/
  | ins (m : Bool) (d : BitVec 4) (a : BitVec 4)
  /-- CMPEQ (R334). Sets a predicate when two scalars are equal. -/
  | cmpeq (m : Bool) (p : BitVec 3) (a : BitVec 5)
  /-- CMPNE (R334). Sets a predicate when two scalars differ. -/
  | cmpne (m : Bool) (p : BitVec 3) (a : BitVec 5)
  /-- CMPLT (R334). Sets a predicate on signed less-than. -/
  | cmplt (m : Bool) (p : BitVec 3) (a : BitVec 5)
  /-- CMPLE (R334). Sets a predicate on signed less-or-equal. -/
  | cmple (m : Bool) (p : BitVec 3) (a : BitVec 5)
  /-- CMPLTU (R334). Sets a predicate on unsigned less-than. -/
  | cmpltu (m : Bool) (p : BitVec 3) (a : BitVec 5)
  /-- CMPLEU (R334). Sets a predicate on unsigned less-or-equal. -/
  | cmpleu (m : Bool) (p : BitVec 3) (a : BitVec 5)
  /-- PLOG (R335). Combines two predicates by and, or, xor or andnot. -/
  | plog (m : Bool) (d : BitVec 3) (a : BitVec 3) (o : BitVec 2)
  /-- PSET (R335). Sets a predicate to a constant. -/
  | pset (m : Bool) (p : BitVec 3) (v : Bool)
  /-- PGET (R335). Copies all eight predicates into a scalar register. -/
  | pget (m : Bool) (d : BitVec 4)
  /-- PPUT (R335). Writes predicates p1 to p7 from a scalar register. -/
  | pput (m : Bool) (a : BitVec 4)
  /-- LDB (R292). Loads one byte from the field store, zero-extended, latency 14. -/
  | ldb (m : Bool) (d : BitVec 4) (a : BitVec 4)
  /-- LDH (R292). Loads two bytes from the field store, zero-extended, latency 14. -/
  | ldh (m : Bool) (d : BitVec 4) (a : BitVec 4)
  /-- LDW (R292). Loads four bytes from the field store, zero-extended, latency 14. -/
  | ldw (m : Bool) (d : BitVec 4) (a : BitVec 4)
  /-- LDD (R292). Loads eight bytes from the field store, latency 14. -/
  | ldd (m : Bool) (d : BitVec 4) (a : BitVec 4)
  /-- LDV (R294). Reads a 256-byte row into a load queue entry filled 14 cycles after issue. -/
  | ldv (m : Bool) (q : BitVec 2) (a : BitVec 4)
  /-- STB (R293). Stores one byte into the field store through the store buffer. -/
  | stb (m : Bool) (d : BitVec 4) (a : BitVec 4)
  /-- STH (R293). Stores two bytes into the field store through the store buffer. -/
  | sth (m : Bool) (d : BitVec 4) (a : BitVec 4)
  /-- STW (R293). Stores four bytes into the field store through the store buffer. -/
  | stw (m : Bool) (d : BitVec 4) (a : BitVec 4)
  /-- STD (R293). Stores eight bytes into the field store through the store buffer. -/
  | std (m : Bool) (d : BitVec 4) (a : BitVec 4)
  /-- STV (R295). Pops a store queue entry and writes its 256 bytes to a row of the field store. -/
  | stv (m : Bool) (q : Bool) (a : BitVec 4)
  /-- WLD (R298). Reads one unit through a walker into a load queue entry and advances the walker. -/
  | wld (m : Bool) (q : BitVec 2) (w : BitVec 3) (k : BitVec 3)
  /-- WST (R298). Pops a store queue entry, writes it through a walker and advances the walker. -/
  | wst (m : Bool) (q : Bool) (w : BitVec 3)
  /-- WSET (R297). Loads a walker from a 64-byte descriptor in the field store. -/
  | wset (m : Bool) (w : BitVec 3) (a : BitVec 4)
  /-- WFEED (R299). Starts a feed of 64-byte entries from a walker into MX port mA or mB. -/
  | wfeed (m : Bool) (w : BitVec 3) (t : Bool) (n : BitVec 4)
  /-- ZEROF (R296). Writes zeros over a granule-aligned range of the field store, one row per cycle. -/
  | zerof (m : Bool) (d : BitVec 4) (a : BitVec 4)
  /-- WSTAT (R300). Returns a walker's four indices. -/
  | wstat (m : Bool) (d : BitVec 4) (w : BitVec 3)
  /-- CPY (R301). Issues a copy from a far VA into the issuing tile's field store. -/
  | cpy (m : Bool) (c : BitVec 3) (a : BitVec 4)
  /-- CPYW (R301). Issues a copy from the issuing tile's field store to a far VA. -/
  | cpyw (m : Bool) (c : BitVec 3) (a : BitVec 4)
  /-- CPYM (R301). Issues a multicast copy from a far VA into selected gang members. -/
  | cpym (m : Bool) (c : BitVec 3) (a : BitVec 4)
  /-- CPYX (R303). Cancels the copy, walk or far access pending on a completion register. -/
  | cpyx (m : Bool) (c : BitVec 3)
  /-- HWALK (R306). Starts or queues a harrow walk described by 64 bytes in the field store. -/
  | hwalk (m : Bool) (c : BitVec 3) (a : BitVec 4)
  /-- HPERMIT (R307). Gives one permit for a slot of a harrow walk's ring. -/
  | hpermit (m : Bool) (d : BitVec 4) (a : BitVec 4)
  /-- LNDSET (R309). Sets a landing counter's target, clears its count and overflow, atomically with credits. -/
  | lndset (m : Bool) (d : BitVec 4) (a : BitVec 4)
  /-- FLD (R310). Reads 8 bytes at a far VA and lands them in the issuing tile's field store. -/
  | fld (m : Bool) (c : BitVec 3) (a : BitVec 5)
  /-- FST (R311). Writes 8 bytes of a scalar to a far VA. -/
  | fst (m : Bool) (d : BitVec 4) (a : BitVec 4)
  /-- CSTAT (R304). Returns the state fields of all completion registers and joins those that have completed. -/
  | cstat (m : Bool) (d : BitVec 4)
  /-- CMOV (R305). Returns one completion register whole and joins its operation when completed. -/
  | cmov (m : Bool) (d : BitVec 4) (c : BitVec 3)
  /-- LEASE (R313). Leases the lowest run of free contiguous field-store units to the running task's fibre. -/
  | lease (m : Bool) (d : BitVec 4) (a : BitVec 4)
  /-- VADD (R339). Adds FP32 lanes. -/
  | vadd (m : Bool) (d : BitVec 4) (a : BitVec 4)
  /-- VSUB (R339). Subtracts FP32 lanes. -/
  | vsub (m : Bool) (d : BitVec 4) (a : BitVec 4)
  /-- VMUL (R339). Multiplies FP32 lanes. -/
  | vmul (m : Bool) (d : BitVec 4) (a : BitVec 4)
  /-- VFMA (R339). Fused multiply-add of FP32 lanes into the destination. -/
  | vfma (m : Bool) (d : BitVec 4) (a : BitVec 4)
  /-- VMAX (R340). IEEE maximum of FP32 lanes. -/
  | vmax (m : Bool) (d : BitVec 4) (a : BitVec 4)
  /-- VMIN (R340). IEEE minimum of FP32 lanes. -/
  | vmin (m : Bool) (d : BitVec 4) (a : BitVec 4)
  /-- VCMP (R341). Writes an all-ones or zero mask per lane by a float or integer condition. -/
  | vcmp (m : Bool) (d : BitVec 4) (a : BitVec 4)
  /-- VSEL (R342). Selects lanes of a or b by the nonzero lanes of the destination. -/
  | vsel (m : Bool) (d : BitVec 4) (a : BitVec 4)
  /-- VLOGIC (R343). Bitwise and, or, xor or andnot over whole vectors. -/
  | vlogic (m : Bool) (d : BitVec 4) (a : BitVec 4)
  /-- VSHIFT (R344). Shifts or rotates each 32-bit lane by a per-lane amount. -/
  | vshift (m : Bool) (d : BitVec 4) (a : BitVec 4)
  /-- VCVT (R345). Converts each lane between the formats that NFMT names. -/
  | vcvt (m : Bool) (d : BitVec 4) (a : BitVec 4)
  /-- VRED (R346). Reduces 64 lanes by a fixed tree into a scalar. -/
  | vred (m : Bool) (d : BitVec 4) (a : BitVec 4)
  /-- VSCAN (R347). Writes inclusive FP32 prefix sums in lane order. -/
  | vscan (m : Bool) (d : BitVec 4) (a : BitVec 4)
  /-- VPERM (R348). Gathers bytes of one vector by byte indices from another. -/
  | vperm (m : Bool) (d : BitVec 4) (a : BitVec 4)
  /-- VBCAST (R349). Broadcasts the low 32 bits of a scalar to every lane. -/
  | vbcast (m : Bool) (d : BitVec 4) (a : BitVec 4)
  /-- VEXT (R349). Extracts one lane into a scalar. -/
  | vext (m : Bool) (d : BitVec 4) (a : BitVec 4)
  /-- VIOTA (R349). Writes each lane's index as INT32. -/
  | viota (m : Bool) (d : BitVec 4)
  /-- VEXP2 (R350). Applies the shared exp2 algorithm to each lane. -/
  | vexp2 (m : Bool) (d : BitVec 4) (a : BitVec 4)
  /-- VRCP (R351). Correctly rounded reciprocal of each lane. -/
  | vrcp (m : Bool) (d : BitVec 4) (a : BitVec 4)
  /-- VFKEY (R126). Maps each FP16 lane to an order-preserving 16-bit key. -/
  | vfkey (m : Bool) (d : BitVec 4) (a : BitVec 4)
  /-- MZERO (R117). MX command that sets every cell of an accumulator to +0. -/
  | mzero (m : Bool) (n : BitVec 2)
  /-- MMA (R116). MX command that multiplies port operands over K steps into an accumulator with exact chunk sums. -/
  | mma (m : Bool) (n : BitVec 2) (k : BitVec 3)
  /-- MMAS (R116). MX command like MMA with E8 block scales popped before each chunk. -/
  | mmas (m : Bool) (n : BitVec 2) (k : BitVec 3)
  /-- MDRAIN (R117). MX command that drains an accumulator as 16 vectors into registers or a store queue. -/
  | mdrain (m : Bool) (n : BitVec 2) (d : BitVec 5)
  /-- CBLOAD (R118). Writes a codebook from the low halves of lanes 0 to 15 of a vector. -/
  | cbload (m : Bool) (n : BitVec 2) (a : BitVec 5)
  /-- ATTN (R121). MX command that folds one 32 x 32 block of rotated, masked attention into the running softmax state. -/
  | attn (m : Bool) (n : BitVec 2) (x : BitVec 5)
  /-- ATTNFIN (R125). MX command that divides accumulator rows by l and writes the m and l vector. -/
  | attnfin (m : Bool) (n : BitVec 2) (d : BitVec 5)
  /-- QROT (R120). Rotates one packed BF16 query row by a rotation row. -/
  | qrot (m : Bool) (d : BitVec 4) (a : BitVec 4)
  /-- FADD (R354). Scalar FP32 add. -/
  | fadd (m : Bool) (d : BitVec 4) (a : BitVec 4)
  /-- FSUB (R354). Scalar FP32 subtract. -/
  | fsub (m : Bool) (d : BitVec 4) (a : BitVec 4)
  /-- FMUL (R354). Scalar FP32 multiply. -/
  | fmul (m : Bool) (d : BitVec 4) (a : BitVec 4)
  /-- FMA (R354). Scalar FP32 fused multiply-add into s[d]. -/
  | fma (m : Bool) (d : BitVec 4) (a : BitVec 4)
  /-- FDIV (R354). Scalar FP32 divide. -/
  | fdiv (m : Bool) (d : BitVec 4) (a : BitVec 4)
  /-- FSQRT (R354). Scalar FP32 square root. -/
  | fsqrt (m : Bool) (d : BitVec 4) (a : BitVec 4)
  /-- FMIN (R340). Scalar IEEE minimum. -/
  | fmin (m : Bool) (d : BitVec 4) (a : BitVec 4)
  /-- FMAX (R340). Scalar IEEE maximum. -/
  | fmax (m : Bool) (d : BitVec 4) (a : BitVec 4)
  /-- FCMPEQ (R355). Sets a predicate on FP32 equality. -/
  | fcmpeq (m : Bool) (p : BitVec 3) (a : BitVec 5)
  /-- FCMPLT (R355). Sets a predicate on FP32 less-than. -/
  | fcmplt (m : Bool) (p : BitVec 3) (a : BitVec 5)
  /-- FCMPLE (R355). Sets a predicate on FP32 less-or-equal. -/
  | fcmple (m : Bool) (p : BitVec 3) (a : BitVec 5)
  /-- FCVT (R356). Converts a scalar between the formats that NFMT names. -/
  | fcvt (m : Bool) (d : BitVec 4) (a : BitVec 4)
  /-- FCLASS (R357). Writes a one-hot class of an FP32 scalar. -/
  | fclass (m : Bool) (d : BitVec 4) (a : BitVec 4)
  /-- DIVU (R331). Unsigned division, latency 20. -/
  | divu (m : Bool) (d : BitVec 4) (a : BitVec 4)
  /-- REMU (R331). Unsigned remainder, latency 20. -/
  | remu (m : Bool) (d : BitVec 4) (a : BitVec 4)
  /-- VRSQRT (R351). Correctly rounded reciprocal square root of each lane. -/
  | vrsqrt (m : Bool) (d : BitVec 4) (a : BitVec 4)
  /-- VHIST (R127). Counts one 4-bit digit of keys that match a prefix into 16 lanes. -/
  | vhist (m : Bool) (d : BitVec 4) (a : BitVec 4)
  /-- VTOPK (R128). Merges 64 keyed candidates into a running top-64 list. -/
  | vtopk (m : Bool) (d : BitVec 4) (a : BitVec 4)
  /-- VSAMP (R130). Samples a lane from 64 logits at a temperature using Philox and advances PXCTR. -/
  | vsamp (m : Bool) (d : BitVec 4) (a : BitVec 4)
  /-- QSTAT (R336). Returns the occupancy of the tile's queues. -/
  | qstat (m : Bool) (d : BitVec 4)
  /-- ARRIVE (R369). Marks the member arrived on the gang's barrier channel. -/
  | arrive (m : Bool)
  /-- WAITB (R369). Waits while the member's barrier arrival is outstanding. -/
  | waitb (m : Bool)
  /-- GATOM (R372). Applies a GFTAB atomic function to a plain Granary cell and returns the old value. -/
  | gatom (m : Bool) (d : BitVec 4) (a : BitVec 4)
  /-- GCAS (R372). Compare-and-swap on a plain Granary cell. -/
  | gcas (m : Bool) (d : BitVec 4) (a : BitVec 4)
  /-- GRED (R373). Contributes an FP32 value to a reduction object. -/
  | gred (m : Bool) (d : BitVec 4) (a : BitVec 4)
  /-- FUTW (R374). Writes a future FULL and releases its waiting readers. -/
  | futw (m : Bool) (d : BitVec 4) (a : BitVec 4)
  /-- FUTR (R375). Reads a future, or ends the strand waiting on it when EMPTY. -/
  | futr (m : Bool) (p : BitVec 3) (x : BitVec 5)
  /-- SALLOC (R370). Claims a run of Granary cells as plain cells, futures or a reduction object. -/
  | salloc (m : Bool) (p : BitVec 3) (d : BitVec 5)
  /-- SFREE (R371). Frees a run of Granary cells, poisoning its waiters. -/
  | sfree (m : Bool) (a : BitVec 4)
  /-- SIGNAL (R177). Decrements a task record's dependence counter and readies it when armed and at or below zero. -/
  | signal (m : Bool) (a : BitVec 4)
  /-- TCLAIM (R377). Claims the lowest FREE task record of the die. -/
  | tclaim (m : Bool) (p : BitVec 3) (d : BitVec 5)
  /-- TPATCH (R378). Writes one word of a CLAIMED task record. -/
  | tpatch (m : Bool) (d : BitVec 4) (a : BitVec 4)
  /-- TARM (R177). Checks a record's shape, adds its arm count and makes it ARMED or READY. -/
  | tarm (m : Bool) (a : BitVec 4)
  /-- BOOK (R382). Returns a task record's state and its latest booking. -/
  | book (m : Bool) (d : BitVec 4) (a : BitVec 4)
  /-- CALQ (R383). Reads the issuing tile's Almanac slice or its lease state. -/
  | calq (m : Bool) (d : BitVec 4) (a : BitVec 4)
  /-- UNLEASE (R314). Releases leased units of the running task's fibre. -/
  | unlease (m : Bool) (d : BitVec 4) (a : BitVec 4)
  /-- GPARAM (R376). Reads a graph-parameter register. -/
  | gparam (m : Bool) (d : BitVec 4) (i : BitVec 4)
  /-- GPSET (R376). Writes a graph-parameter register. -/
  | gpset (m : Bool) (d : BitVec 4) (i : BitVec 4)
  /-- TFREE (R176). Frees a CLAIMED task record, or sends it DRAINING while references are in flight. -/
  | tfree (m : Bool) (a : BitVec 4)
  /-- FPUSH (R198). Pushes a new frame on a parent with spans and an ancestor mask, and rewrites the visibility set. -/
  | fpush (m : Bool) (d : BitVec 4) (a : BitVec 4)
  /-- FRET (R201). Returns a result span from the top frame into its parent or a detached frame. -/
  | fret (m : Bool) (d : BitVec 4) (a : BitVec 4)
  /-- FSHARE (R197). Adds a reference to a frame. -/
  | fshare (m : Bool) (a : BitVec 4)
  /-- FDROP (R197). Drops a reference to a frame, popping or freeing it as its count requires. -/
  | fdrop (m : Bool) (a : BitVec 4)
  /-- FAPPEND (R200). Appends a token to the top frame and its token log. -/
  | fappend (m : Bool) (d : BitVec 4) (a : BitVec 4)
  /-- FCOMPACT (R202). Ends the strand with a continuation while the Sheaf compacts the top frame's rows. -/
  | fcompact (m : Bool) (p : BitVec 3) (a : BitVec 5)
  /-- FINFO (R386). Reads a descriptor word, a row VA, the fibre's stack, or rewrites the visibility set. -/
  | finfo (m : Bool) (d : BitVec 4) (a : BitVec 4)
  /-- BEAMMAP (R204). Permutes or sets slots of a beam set as one atomic operation. -/
  | beammap (m : Bool) (a : BitVec 4)
  /-- PFXLOOK (R207). Starts a prefix-table lookup of a prompt that replies through a future. -/
  | pfxlook (m : Bool) (a : BitVec 4)
  /-- PFXPUT (R208). Writes or clears a prefix-table entry. -/
  | pfxput (m : Bool) (d : BitVec 4) (a : BitVec 4)
  /-- PFXPIN (R208). Pins a prefix entry and returns its frame with a reference. -/
  | pfxpin (m : Bool) (d : BitVec 4) (a : BitVec 4)
  /-- PFXUNPIN (R208). Unpins a prefix entry and drops its frame reference. -/
  | pfxunpin (m : Bool) (a : BitVec 4)
  /-- BHASH (R206). Hashes one 16-token block into a chain value. -/
  | bhash (m : Bool) (d : BitVec 4) (a : BitVec 4)
  /-- CPYF (R50). Issues a frame-tagged copy of frame rows, with optional rotation rows, into the field store. -/
  | cpyf (m : Bool) (c : BitVec 3) (a : BitVec 4)
  /-- SYSRD (R367). Reads a system register into a scalar. -/
  | sysrd (m : Bool) (d : BitVec 4) (i : BitVec 4)
  /-- SYSWR (R367). Writes a scalar into a system register, with scope-dependent cost. -/
  | syswr (m : Bool) (d : BitVec 4) (i : BitVec 4)
  /-- RETT (R384). Ends the handler strand and returns a TRAPPED continuation, optionally reloaded from a save image. -/
  | rett (m : Bool) (d : BitVec 4) (a : BitVec 4)
  /-- XPROBE (R315). Reads a row's tags and a granule's in-flight bit. -/
  | xprobe (m : Bool) (d : BitVec 4) (a : BitVec 4)
  /-- RESERVED_ENCODING (R279). A strand issues a word with a reserved opcode or page, such as 0x7F00 from erased code, and traps ILLEGAL in stage 1. -/
  | reservedEncoding (w : BitVec 16)
  /-- VERDICT_RETURN (R212). An instruction's late verdict returns, committing it and its successors or discarding them with a precise trap. -/
  | verdictReturn (k : Nat) (σ : Side)
  /-- RESULT_WRITE (R88). An unchecked result reaches its destination register at its listed latency. -/
  | resultWrite (k : Nat) (σ : Side)
  /-- LOAD_QUEUE_FILL (R79). A reserved load or store queue entry is filled at the pushing instruction's latency. -/
  | loadQueueFill (k q : Nat)
  /-- STORE_DRAIN (R137). The oldest committed store-buffer entry is written into its bank with parity update. -/
  | storeDrain (k : Nat)
  /-- FEED_ACCESS (R84). A walker feed reads up to four entries in a free A-core pipeline cycle. -/
  | feedAccess (k : Nat) (port : Bool)
  /-- FEED_ENTRY_LAND (R84). Feed entries land in mA or mB 14 cycles after their access. -/
  | feedEntryLand (k : Nat) (port : Bool)
  /-- FEED_POISON (R212). A feed or MX operand read meets an unrebuildable granule and raises POISON at the next boundary. -/
  | feedPoison (k : Nat) (σ : Side)
  /-- MX_COMMAND_START (R114). The next queued MX command starts after the previous busy period and owed pushes. -/
  | mxCommandStart (k : Nat)
  /-- MX_OWED_PUSH (R117). An MDRAIN or ATTNFIN vector owed to sq0 or sq1 is pushed once room appears. -/
  | mxOwedPush (k : Nat)
  /-- ATTN_ROW_READ (R121). The MX operand pipe reads a key, rotation or value row of an ATTN block at its fixed offset. -/
  | attnRowRead (k : Nat)
  /-- MX_COMMAND_END (R131). An MX command's busy period ends and its accumulator or flags complete. -/
  | mxCommandEnd (k : Nat)
  /-- TASK_RETIRE (R180). A task whose strands have all ended retires once drained, signalling its successor and arming its CHAIN. -/
  | taskRetire (run : Nat)
  /-- BARRIER_COMPLETE (R369). A barrier episode completes 12 cycles after the last arrival and clears every member's flag. -/
  | barrierComplete (run : Nat)
  /-- HOME_UNIT_PERFORM (R364). A home-unit request is performed at its unit in that unit's single order and its verdict sent back. -/
  | homeUnitPerform (req : Nat)
  /-- FUTURE_WAITER_WALK (R185). After a FUTW the waiting list is walked and each waiter receives the value and is readied. -/
  | futureWaiterWalk (walk : Nat)
  /-- CONTINUATION_READY (R184). A continuation whose strands have ended and whose wait is met becomes READY and arms its task. -/
  | continuationReady (die idx : Nat)
  /-- FURROW_BOUNDARY (R160). At each furrow boundary each die frees retired bookings, starts tasks, begins standby transfers, compacts and books. -/
  | furrowBoundary (die : Nat)
  /-- CODE_STAGING (R157). A ready task takes or shares a staging entry and the drills fetch its code range. -/
  | codeStaging (die idx : Nat)
  /-- STAGING_COMPLETE (R157). A staging fetch completes and the task becomes bookable, or it faults and ends as CODE-RANGE. -/
  | stagingComplete (die entry : Nat)
  /-- OVERRUN_CHECK (R166). At cycle 192 of a task's last furrow it is extended by grace or both strands take OVERRUN. -/
  | overrunCheck (run : Nat)
  /-- TRAP_DELIVERY (R214). A trap stops both strands, writes the trap save, claims a TRAPPED continuation and returns the record to CLAIMED. -/
  | trapDelivery (run : Nat)
  /-- HANDLER_ARM (R214). Once pending operations of a trapped task complete, the fibre's handler is patched and armed. -/
  | handlerArm (id : Nat)
  /-- DEBUG_STOP (R241). A breakpoint match or single step stops the strand as a trap with code 0x00 and no handler. -/
  | debugStop (k : Nat) (σ : Side) (sub : Nat)
  /-- COPY_PART_SEND (R43). The A-core sends one 64 KiB part of a copy per cycle as an active message to its colour's drill. -/
  | copyPartSend (op : Nat)
  /-- PAGE_WALK (R29). A page walker translates a VA through three levels, setting the dirty bit on a first write. -/
  | pageWalk (op part : Nat)
  /-- CHANNEL_PERFORM (R143). The head entry of a far channel is performed when no acquire or fence holds it. -/
  | channelPerform (op part piece : Nat)
  /-- VISIBILITY_WIDEN (R142). A performed far write widens its visibility by one level. -/
  | visibilityWiden (write : Nat)
  /-- GRANULE_LANDING (R139). Port B writes one 32-byte granule and credits its landing counter. -/
  | granuleLanding (op part granule : Nat)
  /-- MEMBER_ACCEPT (R49). A CPYM member accepts its part and sets its in-flight bits. -/
  | memberAccept (op part member : Nat)
  /-- COPY_COMPLETE (R45). When every part has finished, a copy or walk completes its register in state 2, 3, 4 or 5. -/
  | copyComplete (op : Nat)
  /-- HARROW_WALK_START (R53). The harrow starts the next queued walk, writing its slot headers and granting or applying permits. -/
  | harrowWalkStart (k : Nat)
  /-- HARROW_TILE_START (R53). A fetch slot whose permits are held moves to FILLING for the next tile. -/
  | harrowTileStart (k : Nat)
  /-- SLOT_DRAINED (R53). A DRAINING slot's tile has been written at scope and it returns to EMPTY. -/
  | slotDrained (op slot : Nat)
  /-- CANCELLATION_DONE (R56). Every part of a cancelled operation has stopped, counters are debited and the register reads 4. -/
  | cancellationDone (op : Nat)
  /-- FRET_ROW_MOVE (R201). The drills move a returned result span's rows after FRET's reply. -/
  | fretRowMove (job : Nat)
  /-- COMPACTION_ROW_MOVE (R202). The Sheaf moves the next listed row of a compacting frame and finishes by reopening it. -/
  | compactionRowMove (job : Nat)
  /-- PREFIX_LOOKUP (R207). The Sheaf hashes the prompt, verifies candidate entries and writes the lookup's future. -/
  | prefixLookup (job : Nat)
  /-- KV_REBUILD_START (R209). An uncorrectable row page of a frame is marked REBUILDING and the registered rebuild task is armed. -/
  | kvRebuildStart (op part : Nat)
  /-- KV_REBUILD_DONE (R209). On the rebuild future becoming FULL the fresh page replaces the old and REBUILDING clears. -/
  | kvRebuildDone (job : Nat)
  /-- INVALIDATION_ARRIVAL (R33). An invalidation reaches drills and walkers, removing covered entries and discarding covered walks. -/
  | invalidationArrival (inv drill : Nat)
  /-- INVALIDATION_COMPLETE (R33). An invalidation completes once every operation using a removed translation has ended. -/
  | invalidationComplete (inv : Nat)
  /-- CUT (R222). A restartable task is cut at its restart point, making a WAITING continuation with code PREEMPT. -/
  | cut (run : Nat)
  /-- SPILL (R74). When no task of a pre-empted context runs, pending operations are cancelled and leased units spilled with their tags. -/
  | spill (ctx : Nat)
  /-- BAND_COOL_HOLD (R245). A die moves to a cooler band after one second of samples below the limit minus hysteresis. -/
  | bandCoolHold (die : Nat)
  /-- TIMING_SET_SWITCH (R248). A die's controllers switch to the warm timing set and refresh within 2 ms, or back to cold at a furrow boundary. -/
  | timingSetSwitch (die : Nat)
  /-- MESSAGE_DELIVERY (R228). A router delivers a mesh message into its tile, discarding one whose context does not own the tile. -/
  | messageDelivery (msg : Nat)
  /-- HOST_REQUEST_PERFORM (R151). A service core performs the head request of its host queue at system level. -/
  | hostRequestPerform (core : Nat)
  /-- TAIL_UPDATE (R263). An update of a ring's tail cell sends an interrupt when the count is reached or starts the coalescing timer. -/
  | tailUpdate (ctx ring : Nat)
  /-- COALESCING_TIMER (R263). The ring's coalescing timer expires and sends an interrupt if the tail has advanced. -/
  | coalescingTimer (ctx ring : Nat)
  /-- PORT_B_READ (R64). Port B reads a source granule for a CPYW or a harrow write-back walk and credits its landing counter. -/
  | portBRead (op part granule : Nat)
  /-- RESIDUE_CHECK (R391). A result's residue check completes 32 cycles after it is readable. -/
  | residueCheck (k : Nat) (bad : Bool)
  /-- LINK_FLIT_RECEIVE (R264). A module-link flit is checked by CRC and GCM tag and retried from the replay buffer on failure: one that
  this module sent (out), or one that comes in. -/
  | linkFlitReceive (port : LinkEnd) (good : Bool)
  /-- BARRIER_TREE_DISAGREE (R267). A barrier tree that disagrees with the other within 1 ms is logged and taken out of service. -/
  | barrierTreeDisagree (die tree : Nat)
  /-- PATROL_SCRUB (R247). Patrol scrub reads, corrects and rewrites second-tier lines so every row is rewritten every 64 s. -/
  | patrolScrub (line : Nat)
  /-- DMA_TIMEOUT_ABORT (R238). An in-flight DMA on a private host page is aborted with kind 5 when its PCIe completion timeout expires. -/
  | dmaTimeoutAbort (op part : Nat)
  /-- SENSOR_SAMPLE (R244). Every 10 microseconds each die samples its sensors, updates TEMPSENSE and moves to a warmer band when a limit is exceeded. -/
  | sensorSample (die : Nat)
  /-- POWER_SAMPLE (R255). Every 10 microseconds the module measures power and applies or lifts the booking and budget holds. -/
  | powerSample
  /-- COOLANT_LOW (R252). Flow below 7 g/s for 100 ms sends the module from RUN or RETREAT to DRAIN. -/
  | coolantLow
  /-- SOAK_DONE (R252). Sensors held below 90 K with small gradient for 60 s move the module from SOAK to TRAIN. -/
  | soakDone
  /-- TRAINING_DONE (R252). Training of timing sets, UCIe links and ports completes into CONFIG_OPEN or fails into WARM. -/
  | trainingDone (ok : Bool)
  /-- LOCK_DISTRIBUTED (R252). The configuration lock reaches every die and the module enters RUN or RETREAT. -/
  | lockDistributed
  /-- DRAIN_DONE (R252). No task running and nothing pending moves the module from DRAIN to PARK. -/
  | drainDone
  /-- PARK_EXIT (R252). Every die COLD or COOL for 1 s with no drain outstanding returns the module from PARK to RUN or RETREAT. -/
  | parkExit
  /-- BOOT_VERIFY (R242). At power-on the boot ROM verifies the firmware signature and security version, or stays in OFF. -/
  | bootVerify
  /-- HOST_IMAGE_LOAD (R242). After failed verification the boot ROM accepts and verifies a host-supplied image over port 0. -/
  | hostImageLoad (img : Image)
  /-- FIRMWARE_UPDATE (R242). A firmware update is written whole and takes effect at the next power-on. -/
  | firmwareUpdate (img : Image)
  /-- ATTESTATION_REQUEST (R243). The reeve signs an attestation report with its next LMS index, or answers KEYS-SPENT. -/
  | attestationRequest (ctx : Nat) (nonce : BitVec 256)
  /-- SPDM_SESSION_OPEN (R239). A tenant opens an SPDM secured session with the reeve bound to one context. -/
  | spdmSessionOpen (ctx : Nat)
  /-- DEBUG_COMMAND (R241). A session command reads or patches saves and records, reads the field store or writes breakpoint registers. -/
  | debugCommand (ctx : Nat) (cmd : DebugCmd)
  /-- DEBUG_RESUME (R241). A session resumes a stopped continuation as RETT does. -/
  | debugResume (ctx : Nat) (cont : BitVec 64) (save : BitVec 64)
  /-- CONTEXT_ASSIGN (R229). The reeve assigns a context's clusters, keys, translation root and registers in order. -/
  | contextAssign (a : Assignment)
  /-- WINTAB_WRITE (R236). A reeve write to a window entry completes once parts checked against the old entry are served. -/
  | wintabWrite (n : Nat) (word0 word1 : BitVec 64)
  /-- REGISTER_WRITE (R229). A write to a reeve- or host-written register that has no row of its own. -/
  | registerWrite (w : RegWrite)
  /-- ERRSTAT_READ (R269). A host read of ERRSTAT returns and clears its counts. -/
  | errstatRead (core : Nat)
  /-- REMOTE_PART_ARRIVAL (R236). A remote part arriving at a target drill is checked against the window table and served. -/
  | remotePartArrival (part : RemotePart)
  /-- LINK_PORT_DOWN (R266). A port whose retries fail for 100 microseconds goes down and its parts are resent on the next port. -/
  | linkPortDown (port : Nat)
  /-- LINK_PART_TIMEOUT (R266). A part that cannot reach its target within 1 ms fails with kind 5. -/
  | linkPartTimeout (op part : Nat)
  /-- LINK_REKEY (R233). The reeves exchange new link keys that apply from an agreed sequence number. -/
  | linkRekey (port : LinkEnd) (seq : Nat)
  /-- CXL_SNOOP (R257). A host snoop is answered as invalid. -/
  | cxlSnoop (port : Nat) (addr : Nat)
  /-- SERVICE_WATCHDOG (R260). A service core's 1 ms watchdog expires, restarting it and completing accepted commands CORE-RESET. -/
  | serviceWatchdog (core : Nat)
  /-- FIBRE_SETUP (R259). Mailbox command 0x01 writes a free fibre record. -/
  | fibreSetup (core : Nat)
  /-- FIBRE_TEARDOWN (R259). Mailbox command 0x02 tears down a fibre with no booked or running tasks. -/
  | fibreTeardown (core : Nat)
  /-- PAGE_POOL (R195). Mailbox command 0x03 sets a context's page pool on a die. -/
  | pagePool (core : Nat)
  /-- RECORD_WRITE (R259). Mailbox command 0x04 writes masked bits of a CLAIMED task record word. -/
  | recordWrite (core : Nat)
  /-- GP_WRITE (R189). Mailbox command 0x05 writes a graph-parameter register. -/
  | gpWrite (core : Nat)
  /-- GO (R189). Mailbox command 0x06 checks a list of head records and arms them in order. -/
  | go (core : Nat)
  /-- INVALIDATE_BY_PAGE (R32). Mailbox command 0x07 invalidates a context's translations covering a VA. -/
  | invalidateByPage (core : Nat)
  /-- INVALIDATE_BY_TENANT (R32). Mailbox command 0x08 invalidates a context's non-global translations. -/
  | invalidateByTenant (core : Nat)
  /-- PRE_EMPT (R224). Mailbox command 0x09 pre-empts a context from the next furrow boundary. -/
  | preEmpt (core : Nat)
  /-- RESUME (R225). Mailbox command 0x0A resumes a pre-empted context on tiles, restoring and re-issuing its state. -/
  | resume (core : Nat)
  /-- TEARDOWN (R232). Mailbox command 0x0B tears a context down, destroying its keys and records. -/
  | teardown (core : Nat)
  /-- COMPACTION_RESUME (R203). Mailbox command 0x0C continues a compaction stopped by a page fault. -/
  | compactionResume (core : Nat)
  /-- POISON_CLEAR (R35). Mailbox command 0x0D clears a POISON page by zero-filling it. -/
  | poisonClear (core : Nat)
  /-- CONFIGURATION_WRITE (R254). Mailbox command 0x0E writes a locked configuration register only in CONFIG_OPEN. -/
  | configurationWrite (core : Nat)
  /-- LOCK (R252). Mailbox command 0x0F locks configuration and moves CONFIG_OPEN to CONFIG_LOCKED. -/
  | lock (core : Nat)
  /-- DRAIN (R252). Mailbox command 0x10 moves the module to DRAIN, unbooking unstarted tasks. -/
  | drain (core : Nat)
  /-- SHUTDOWN (R252). Mailbox command 0x11 moves the module to WARM from CONFIG_OPEN, CONFIG_LOCKED or PARK. -/
  | shutdown (core : Nat)
  /-- RING_SETUP (R261). Mailbox command 0x12 writes a token ring's TRING registers and stops its timer. -/
  | ringSetup (core : Nat)
  /-- UNKNOWN_COMMAND (R259). A mailbox command with an unlisted code completes CFG-BAD. -/
  | unknownCommand (core : Nat)
  /-- POWER_ON (R252). The host power-on command with sufficient coolant flow moves OFF to CHILL. -/
  | powerOn
  /-- LOCK_INTERFACE (R237). TDISP request that locks a context's interface. -/
  | lockInterface (ctx : Nat)
  /-- GET_DEVICE_INTERFACE_REPORT (R237). TDISP request that returns a report listing the context's clusters. -/
  | getDeviceInterfaceReport (ctx : Nat)
  /-- START_INTERFACE (R237). TDISP request that moves a context's interface to RUN. -/
  | startInterface (ctx : Nat)
  /-- STOP_INTERFACE (R237). TDISP request that stops the interface and tears the context down. -/
  | stopInterface (ctx : Nat)
  deriving DecidableEq, Repr

/-- Why the decoder rejects a word (R271, R275, R276, R279). -/
inductive Reject where
  /-- a reserved major opcode of the page (R271, R279) -/
  | reservedOpcode
  /-- PAGE 2, or a page that does not exist (R279) -/
  | reservedPage
  /-- a nonzero field that the word's layout marks zero (R279) -/
  | nonzeroField
  /-- a prefix word with M = 1 (R276) -/
  | prefixMarker
  /-- fewer bytes than one word -/
  | tooShort
  deriving DecidableEq, Repr

end Sys2Proof
end

