-- ==== Sys2Proof/Decode.lean ====
section
/-!
DEFINITION. Sys2Proof/Decode.lean: the instruction word (R271), the two opcode maps (R280, R281) and the prefix words
(R275), as a decoder that is total on any word and rejects by name, and after it the encoder written from the same
tables.  A word is decoded under the page that PLATCH holds (R92); bytes are laid out little-endian (R3).
-/
namespace Sys2Proof

/-- Bits [lo + n - 1 : lo] of an instruction word. -/
def field (w : BitVec 16) (lo n : Nat) : BitVec n := w.extractLsb' lo n

/-- Bit `i` of an instruction word. -/
def bit (w : BitVec 16) (i : Nat) : Bool := w.getLsbD i

/-- The major opcode, bits [14:8] (R271). -/
def majorOpcode (w : BitVec 16) : Nat := (field w 8 7).toNat

/-- The prefix words, 0x70 to 0x75 on every page (R271, R275); M must be 0 (R276).  Field values that are illegal in the
word itself (PAGE 0 or 3, MEMQ scope 6 or 7) decode, and the prefix word's own meaning raises ILLEGAL (R317). -/
def decodePrefix (w : BitVec 16) : Except Reject Instr :=
  if bit w 15 then .error .prefixMarker
  else
    match majorOpcode w with
    | 0x70 => .ok (.ximm (field w 0 8))
    | 0x71 => if w &&& 0x0080#16 = 0#16 then .ok (.xreg (bit w 6) (bit w 5) (field w 0 5)) else .error .nonzeroField
    | 0x72 => if w &&& 0x00FC#16 = 0#16 then .ok (.page (field w 0 2)) else .error .nonzeroField
    | 0x73 => .ok (.memq (field w 4 4) (field w 1 3) (bit w 0))
    | 0x74 => .ok (.nfmt (field w 4 4) (field w 0 4))
    | 0x75 => if w &&& 0x000F#16 = 0#16 then .ok (.guard (field w 5 3) (bit w 4)) else .error .nonzeroField
    | _ => .error .reservedOpcode

/-- Page 0 (R280), opcodes 0x00 to 0x0F. -/
def decodePage00 (w : BitVec 16) : Except Reject Instr :=
  match majorOpcode w with
  | 0x00 => if w &&& 0x00FF#16 = 0#16 then .ok (.nop (bit w 15)) else .error .nonzeroField
  | 0x01 => if w &&& 0x00FF#16 = 0#16 then .ok (.endStrand (bit w 15)) else .error .nonzeroField
  | 0x02 => .ok (.br (bit w 15) (field w 5 3) (bit w 4) (field w 0 4))
  | 0x03 => .ok (.jmp (bit w 15) (field w 0 8))
  | 0x04 => .ok (.call (bit w 15) (field w 0 8))
  | 0x05 => if w &&& 0x00FF#16 = 0#16 then .ok (.ret (bit w 15)) else .error .nonzeroField
  | 0x06 => if w &&& 0x00F0#16 = 0#16 then .ok (.jmpr (bit w 15) (field w 0 4)) else .error .nonzeroField
  | 0x07 => .ok (.jmpt (bit w 15) (field w 4 4) (field w 0 4))
  | 0x08 => .ok (.loop (bit w 15) (field w 5 3) (field w 0 5))
  | 0x09 => .ok (.brq (bit w 15) (bit w 7) (field w 0 7))
  | 0x0A => if w &&& 0x001F#16 = 0#16 then .ok (.pusho (bit w 15) (field w 5 3)) else .error .nonzeroField
  | 0x0B => .ok (.await (bit w 15) (field w 5 3) (field w 0 5))
  | 0x0C => if w &&& 0x00F0#16 = 0#16 then .ok (.chain (bit w 15) (field w 0 4)) else .error .nonzeroField
  | 0x0D => .ok (.trap (bit w 15) (field w 0 8))
  | 0x0E => .ok (.restartpt (bit w 15) (field w 0 8))
  | 0x0F => .ok (.fence (bit w 15) (field w 0 8))
  | _ => .error .reservedOpcode

/-- Page 0 (R280), opcodes 0x10 to 0x1F. -/
def decodePage01 (w : BitVec 16) : Except Reject Instr :=
  match majorOpcode w with
  | 0x10 => .ok (.mov (bit w 15) (field w 4 4) (field w 0 4))
  | 0x11 => .ok (.movi (bit w 15) (field w 4 4) (field w 0 4))
  | 0x12 => .ok (.ldc (bit w 15) (field w 4 4) (field w 0 4))
  | 0x13 => .ok (.add (bit w 15) (field w 4 4) (field w 0 4))
  | 0x14 => .ok (.sub (bit w 15) (field w 4 4) (field w 0 4))
  | 0x15 => .ok (.addi (bit w 15) (field w 4 4) (field w 0 4))
  | 0x16 => .ok (.mul (bit w 15) (field w 4 4) (field w 0 4))
  | 0x17 => .ok (.mulh (bit w 15) (field w 4 4) (field w 0 4))
  | 0x18 => .ok (.madd (bit w 15) (field w 4 4) (field w 0 4))
  | 0x19 => .ok (.div (bit w 15) (field w 4 4) (field w 0 4))
  | 0x1A => .ok (.rem (bit w 15) (field w 4 4) (field w 0 4))
  | 0x1B => .ok (.and (bit w 15) (field w 4 4) (field w 0 4))
  | 0x1C => .ok (.or (bit w 15) (field w 4 4) (field w 0 4))
  | 0x1D => .ok (.xor (bit w 15) (field w 4 4) (field w 0 4))
  | 0x1E => .ok (.andi (bit w 15) (field w 4 4) (field w 0 4))
  | 0x1F => .ok (.shl (bit w 15) (field w 4 4) (field w 0 4))
  | _ => .error .reservedOpcode

/-- Page 0 (R280), opcodes 0x20 to 0x2F. -/
def decodePage02 (w : BitVec 16) : Except Reject Instr :=
  match majorOpcode w with
  | 0x20 => .ok (.shr (bit w 15) (field w 4 4) (field w 0 4))
  | 0x21 => .ok (.sra (bit w 15) (field w 4 4) (field w 0 4))
  | 0x22 => .ok (.shli (bit w 15) (field w 4 4) (field w 0 4))
  | 0x23 => .ok (.shri (bit w 15) (field w 4 4) (field w 0 4))
  | 0x24 => .ok (.srai (bit w 15) (field w 4 4) (field w 0 4))
  | 0x25 => .ok (.rotl (bit w 15) (field w 4 4) (field w 0 4))
  | 0x26 => .ok (.min (bit w 15) (field w 4 4) (field w 0 4))
  | 0x27 => .ok (.max (bit w 15) (field w 4 4) (field w 0 4))
  | 0x28 => .ok (.minu (bit w 15) (field w 4 4) (field w 0 4))
  | 0x29 => .ok (.maxu (bit w 15) (field w 4 4) (field w 0 4))
  | 0x2A => .ok (.clz (bit w 15) (field w 4 4) (field w 0 4))
  | 0x2B => .ok (.popc (bit w 15) (field w 4 4) (field w 0 4))
  | 0x2C => .ok (.ext (bit w 15) (field w 4 4) (field w 0 4))
  | 0x2D => .ok (.ins (bit w 15) (field w 4 4) (field w 0 4))
  | 0x2E => .ok (.cmpeq (bit w 15) (field w 5 3) (field w 0 5))
  | 0x2F => .ok (.cmpne (bit w 15) (field w 5 3) (field w 0 5))
  | _ => .error .reservedOpcode

/-- Page 0 (R280), opcodes 0x30 to 0x3F. -/
def decodePage03 (w : BitVec 16) : Except Reject Instr :=
  match majorOpcode w with
  | 0x30 => .ok (.cmplt (bit w 15) (field w 5 3) (field w 0 5))
  | 0x31 => .ok (.cmple (bit w 15) (field w 5 3) (field w 0 5))
  | 0x32 => .ok (.cmpltu (bit w 15) (field w 5 3) (field w 0 5))
  | 0x33 => .ok (.cmpleu (bit w 15) (field w 5 3) (field w 0 5))
  | 0x34 => .ok (.plog (bit w 15) (field w 5 3) (field w 2 3) (field w 0 2))
  | 0x35 => if w &&& 0x001E#16 = 0#16 then .ok (.pset (bit w 15) (field w 5 3) (bit w 0)) else .error .nonzeroField
  | 0x36 => if w &&& 0x000F#16 = 0#16 then .ok (.pget (bit w 15) (field w 4 4)) else .error .nonzeroField
  | 0x37 => if w &&& 0x00F0#16 = 0#16 then .ok (.pput (bit w 15) (field w 0 4)) else .error .nonzeroField
  | 0x38 => .ok (.ldb (bit w 15) (field w 4 4) (field w 0 4))
  | 0x39 => .ok (.ldh (bit w 15) (field w 4 4) (field w 0 4))
  | 0x3A => .ok (.ldw (bit w 15) (field w 4 4) (field w 0 4))
  | 0x3B => .ok (.ldd (bit w 15) (field w 4 4) (field w 0 4))
  | 0x3C => if w &&& 0x0030#16 = 0#16 then .ok (.ldv (bit w 15) (field w 6 2) (field w 0 4)) else .error .nonzeroField
  | 0x3D => .ok (.stb (bit w 15) (field w 4 4) (field w 0 4))
  | 0x3E => .ok (.sth (bit w 15) (field w 4 4) (field w 0 4))
  | 0x3F => .ok (.stw (bit w 15) (field w 4 4) (field w 0 4))
  | _ => .error .reservedOpcode

/-- Page 0 (R280), opcodes 0x40 to 0x4F. -/
def decodePage04 (w : BitVec 16) : Except Reject Instr :=
  match majorOpcode w with
  | 0x40 => .ok (.std (bit w 15) (field w 4 4) (field w 0 4))
  | 0x41 => if w &&& 0x0070#16 = 0#16 then .ok (.stv (bit w 15) (bit w 7) (field w 0 4)) else .error .nonzeroField
  | 0x42 => .ok (.wld (bit w 15) (field w 6 2) (field w 3 3) (field w 0 3))
  | 0x43 => if w &&& 0x0047#16 = 0#16 then .ok (.wst (bit w 15) (bit w 7) (field w 3 3)) else .error .nonzeroField
  | 0x44 => if w &&& 0x0010#16 = 0#16 then .ok (.wset (bit w 15) (field w 5 3) (field w 0 4)) else .error .nonzeroField
  | 0x45 => .ok (.wfeed (bit w 15) (field w 5 3) (bit w 4) (field w 0 4))
  | 0x46 => .ok (.zerof (bit w 15) (field w 4 4) (field w 0 4))
  | 0x47 => if w &&& 0x0008#16 = 0#16 then .ok (.wstat (bit w 15) (field w 4 4) (field w 0 3)) else .error .nonzeroField
  | 0x48 => if w &&& 0x0010#16 = 0#16 then .ok (.cpy (bit w 15) (field w 5 3) (field w 0 4)) else .error .nonzeroField
  | 0x49 => if w &&& 0x0010#16 = 0#16 then .ok (.cpyw (bit w 15) (field w 5 3) (field w 0 4)) else .error .nonzeroField
  | 0x4A => if w &&& 0x0010#16 = 0#16 then .ok (.cpym (bit w 15) (field w 5 3) (field w 0 4)) else .error .nonzeroField
  | 0x4B => if w &&& 0x001F#16 = 0#16 then .ok (.cpyx (bit w 15) (field w 5 3)) else .error .nonzeroField
  | 0x4C => if w &&& 0x0010#16 = 0#16 then .ok (.hwalk (bit w 15) (field w 5 3) (field w 0 4)) else .error .nonzeroField
  | 0x4D => .ok (.hpermit (bit w 15) (field w 4 4) (field w 0 4))
  | 0x4E => .ok (.lndset (bit w 15) (field w 4 4) (field w 0 4))
  | 0x4F => .ok (.fld (bit w 15) (field w 5 3) (field w 0 5))
  | _ => .error .reservedOpcode

/-- Page 0 (R280), opcodes 0x50 to 0x5F. -/
def decodePage05 (w : BitVec 16) : Except Reject Instr :=
  match majorOpcode w with
  | 0x50 => .ok (.fst (bit w 15) (field w 4 4) (field w 0 4))
  | 0x51 => if w &&& 0x000F#16 = 0#16 then .ok (.cstat (bit w 15) (field w 4 4)) else .error .nonzeroField
  | 0x52 => if w &&& 0x0008#16 = 0#16 then .ok (.cmov (bit w 15) (field w 4 4) (field w 0 3)) else .error .nonzeroField
  | 0x53 => .ok (.lease (bit w 15) (field w 4 4) (field w 0 4))
  | 0x54 => .ok (.vadd (bit w 15) (field w 4 4) (field w 0 4))
  | 0x55 => .ok (.vsub (bit w 15) (field w 4 4) (field w 0 4))
  | 0x56 => .ok (.vmul (bit w 15) (field w 4 4) (field w 0 4))
  | 0x57 => .ok (.vfma (bit w 15) (field w 4 4) (field w 0 4))
  | 0x58 => .ok (.vmax (bit w 15) (field w 4 4) (field w 0 4))
  | 0x59 => .ok (.vmin (bit w 15) (field w 4 4) (field w 0 4))
  | 0x5A => .ok (.vcmp (bit w 15) (field w 4 4) (field w 0 4))
  | 0x5B => .ok (.vsel (bit w 15) (field w 4 4) (field w 0 4))
  | 0x5C => .ok (.vlogic (bit w 15) (field w 4 4) (field w 0 4))
  | 0x5D => .ok (.vshift (bit w 15) (field w 4 4) (field w 0 4))
  | 0x5E => .ok (.vcvt (bit w 15) (field w 4 4) (field w 0 4))
  | 0x5F => .ok (.vred (bit w 15) (field w 4 4) (field w 0 4))
  | _ => .error .reservedOpcode

/-- Page 0 (R280), opcodes 0x60 to 0x6F. -/
def decodePage06 (w : BitVec 16) : Except Reject Instr :=
  match majorOpcode w with
  | 0x60 => .ok (.vscan (bit w 15) (field w 4 4) (field w 0 4))
  | 0x61 => .ok (.vperm (bit w 15) (field w 4 4) (field w 0 4))
  | 0x62 => .ok (.vbcast (bit w 15) (field w 4 4) (field w 0 4))
  | 0x63 => .ok (.vext (bit w 15) (field w 4 4) (field w 0 4))
  | 0x64 => if w &&& 0x000F#16 = 0#16 then .ok (.viota (bit w 15) (field w 4 4)) else .error .nonzeroField
  | 0x65 => .ok (.vexp2 (bit w 15) (field w 4 4) (field w 0 4))
  | 0x66 => .ok (.vrcp (bit w 15) (field w 4 4) (field w 0 4))
  | 0x67 => .ok (.vfkey (bit w 15) (field w 4 4) (field w 0 4))
  | 0x68 => if w &&& 0x00FC#16 = 0#16 then .ok (.mzero (bit w 15) (field w 0 2)) else .error .nonzeroField
  | 0x69 => if w &&& 0x0007#16 = 0#16 then .ok (.mma (bit w 15) (field w 6 2) (field w 3 3)) else .error .nonzeroField
  | 0x6A => if w &&& 0x0007#16 = 0#16 then .ok (.mmas (bit w 15) (field w 6 2) (field w 3 3)) else .error .nonzeroField
  | 0x6B => if w &&& 0x0020#16 = 0#16 then .ok (.mdrain (bit w 15) (field w 6 2) (field w 0 5)) else .error .nonzeroField
  | 0x6C => if w &&& 0x0020#16 = 0#16 then .ok (.cbload (bit w 15) (field w 6 2) (field w 0 5)) else .error .nonzeroField
  | 0x6D => if w &&& 0x0020#16 = 0#16 then .ok (.attn (bit w 15) (field w 6 2) (field w 0 5)) else .error .nonzeroField
  | 0x6E => if w &&& 0x0020#16 = 0#16 then .ok (.attnfin (bit w 15) (field w 6 2) (field w 0 5)) else .error .nonzeroField
  | 0x6F => .ok (.qrot (bit w 15) (field w 4 4) (field w 0 4))
  | _ => .error .reservedOpcode

/-- Page 0 (R280): the whole map, by the opcode's upper digit. -/
def decodePage0 (w : BitVec 16) : Except Reject Instr :=
  match majorOpcode w / 16 with
  | 0 => decodePage00 w
  | 1 => decodePage01 w
  | 2 => decodePage02 w
  | 3 => decodePage03 w
  | 4 => decodePage04 w
  | 5 => decodePage05 w
  | 6 => decodePage06 w
  | _ => .error .reservedOpcode

/-- Page 1 (R281), opcodes 0x00 to 0x0F. -/
def decodePage10 (w : BitVec 16) : Except Reject Instr :=
  match majorOpcode w with
  | 0x00 => .ok (.fadd (bit w 15) (field w 4 4) (field w 0 4))
  | 0x01 => .ok (.fsub (bit w 15) (field w 4 4) (field w 0 4))
  | 0x02 => .ok (.fmul (bit w 15) (field w 4 4) (field w 0 4))
  | 0x03 => .ok (.fma (bit w 15) (field w 4 4) (field w 0 4))
  | 0x04 => .ok (.fdiv (bit w 15) (field w 4 4) (field w 0 4))
  | 0x05 => .ok (.fsqrt (bit w 15) (field w 4 4) (field w 0 4))
  | 0x06 => .ok (.fmin (bit w 15) (field w 4 4) (field w 0 4))
  | 0x07 => .ok (.fmax (bit w 15) (field w 4 4) (field w 0 4))
  | 0x08 => .ok (.fcmpeq (bit w 15) (field w 5 3) (field w 0 5))
  | 0x09 => .ok (.fcmplt (bit w 15) (field w 5 3) (field w 0 5))
  | 0x0A => .ok (.fcmple (bit w 15) (field w 5 3) (field w 0 5))
  | 0x0B => .ok (.fcvt (bit w 15) (field w 4 4) (field w 0 4))
  | 0x0C => .ok (.fclass (bit w 15) (field w 4 4) (field w 0 4))
  | 0x0D => .ok (.divu (bit w 15) (field w 4 4) (field w 0 4))
  | 0x0E => .ok (.remu (bit w 15) (field w 4 4) (field w 0 4))
  | _ => .error .reservedOpcode

/-- Page 1 (R281), opcodes 0x10 to 0x1F. -/
def decodePage11 (w : BitVec 16) : Except Reject Instr :=
  match majorOpcode w with
  | 0x10 => .ok (.vrsqrt (bit w 15) (field w 4 4) (field w 0 4))
  | 0x11 => .ok (.vhist (bit w 15) (field w 4 4) (field w 0 4))
  | 0x12 => .ok (.vtopk (bit w 15) (field w 4 4) (field w 0 4))
  | 0x13 => .ok (.vsamp (bit w 15) (field w 4 4) (field w 0 4))
  | 0x14 => if w &&& 0x000F#16 = 0#16 then .ok (.qstat (bit w 15) (field w 4 4)) else .error .nonzeroField
  | _ => .error .reservedOpcode

/-- Page 1 (R281), opcodes 0x20 to 0x2F. -/
def decodePage12 (w : BitVec 16) : Except Reject Instr :=
  match majorOpcode w with
  | 0x20 => if w &&& 0x00FF#16 = 0#16 then .ok (.arrive (bit w 15)) else .error .nonzeroField
  | 0x21 => if w &&& 0x00FF#16 = 0#16 then .ok (.waitb (bit w 15)) else .error .nonzeroField
  | 0x22 => .ok (.gatom (bit w 15) (field w 4 4) (field w 0 4))
  | 0x23 => .ok (.gcas (bit w 15) (field w 4 4) (field w 0 4))
  | 0x24 => .ok (.gred (bit w 15) (field w 4 4) (field w 0 4))
  | 0x25 => .ok (.futw (bit w 15) (field w 4 4) (field w 0 4))
  | 0x26 => .ok (.futr (bit w 15) (field w 5 3) (field w 0 5))
  | 0x27 => .ok (.salloc (bit w 15) (field w 5 3) (field w 0 5))
  | 0x28 => if w &&& 0x00F0#16 = 0#16 then .ok (.sfree (bit w 15) (field w 0 4)) else .error .nonzeroField
  | 0x29 => if w &&& 0x00F0#16 = 0#16 then .ok (.signal (bit w 15) (field w 0 4)) else .error .nonzeroField
  | _ => .error .reservedOpcode

/-- Page 1 (R281), opcodes 0x30 to 0x3F. -/
def decodePage13 (w : BitVec 16) : Except Reject Instr :=
  match majorOpcode w with
  | 0x30 => .ok (.tclaim (bit w 15) (field w 5 3) (field w 0 5))
  | 0x31 => .ok (.tpatch (bit w 15) (field w 4 4) (field w 0 4))
  | 0x32 => if w &&& 0x00F0#16 = 0#16 then .ok (.tarm (bit w 15) (field w 0 4)) else .error .nonzeroField
  | 0x33 => .ok (.book (bit w 15) (field w 4 4) (field w 0 4))
  | 0x34 => .ok (.calq (bit w 15) (field w 4 4) (field w 0 4))
  | 0x35 => .ok (.unlease (bit w 15) (field w 4 4) (field w 0 4))
  | 0x36 => .ok (.gparam (bit w 15) (field w 4 4) (field w 0 4))
  | 0x37 => .ok (.gpset (bit w 15) (field w 4 4) (field w 0 4))
  | 0x38 => if w &&& 0x00F0#16 = 0#16 then .ok (.tfree (bit w 15) (field w 0 4)) else .error .nonzeroField
  | _ => .error .reservedOpcode

/-- Page 1 (R281), opcodes 0x40 to 0x4F. -/
def decodePage14 (w : BitVec 16) : Except Reject Instr :=
  match majorOpcode w with
  | 0x40 => .ok (.fpush (bit w 15) (field w 4 4) (field w 0 4))
  | 0x41 => .ok (.fret (bit w 15) (field w 4 4) (field w 0 4))
  | 0x42 => if w &&& 0x00F0#16 = 0#16 then .ok (.fshare (bit w 15) (field w 0 4)) else .error .nonzeroField
  | 0x43 => if w &&& 0x00F0#16 = 0#16 then .ok (.fdrop (bit w 15) (field w 0 4)) else .error .nonzeroField
  | 0x44 => .ok (.fappend (bit w 15) (field w 4 4) (field w 0 4))
  | 0x45 => .ok (.fcompact (bit w 15) (field w 5 3) (field w 0 5))
  | 0x46 => .ok (.finfo (bit w 15) (field w 4 4) (field w 0 4))
  | 0x47 => if w &&& 0x00F0#16 = 0#16 then .ok (.beammap (bit w 15) (field w 0 4)) else .error .nonzeroField
  | 0x48 => if w &&& 0x00F0#16 = 0#16 then .ok (.pfxlook (bit w 15) (field w 0 4)) else .error .nonzeroField
  | 0x49 => .ok (.pfxput (bit w 15) (field w 4 4) (field w 0 4))
  | 0x4A => .ok (.pfxpin (bit w 15) (field w 4 4) (field w 0 4))
  | 0x4B => if w &&& 0x00F0#16 = 0#16 then .ok (.pfxunpin (bit w 15) (field w 0 4)) else .error .nonzeroField
  | 0x4C => .ok (.bhash (bit w 15) (field w 4 4) (field w 0 4))
  | 0x4D => if w &&& 0x0010#16 = 0#16 then .ok (.cpyf (bit w 15) (field w 5 3) (field w 0 4)) else .error .nonzeroField
  | _ => .error .reservedOpcode

/-- Page 1 (R281), opcodes 0x60 to 0x6F. -/
def decodePage16 (w : BitVec 16) : Except Reject Instr :=
  match majorOpcode w with
  | 0x60 => .ok (.sysrd (bit w 15) (field w 4 4) (field w 0 4))
  | 0x61 => .ok (.syswr (bit w 15) (field w 4 4) (field w 0 4))
  | 0x62 => .ok (.rett (bit w 15) (field w 4 4) (field w 0 4))
  | 0x63 => .ok (.xprobe (bit w 15) (field w 4 4) (field w 0 4))
  | _ => .error .reservedOpcode

/-- Page 1 (R281): the whole map, by the opcode's upper digit. -/
def decodePage1 (w : BitVec 16) : Except Reject Instr :=
  match majorOpcode w / 16 with
  | 0 => decodePage10 w
  | 1 => decodePage11 w
  | 2 => decodePage12 w
  | 3 => decodePage13 w
  | 4 => decodePage14 w
  | 6 => decodePage16 w
  | _ => .error .reservedOpcode

/-- One word of a strand's program under the page PLATCH holds (R92): 0 when no PAGE word is latched. -/
def decode (page : Nat) (w : BitVec 16) : Except Reject Instr :=
  if 0x70 ≤ majorOpcode w ∧ majorOpcode w ≤ 0x75 then decodePrefix w
  else if page = 0 then decodePage0 w
  else if page = 1 then decodePage1 w
  else .error .reservedPage

/-- The word that stands at the head of some bytes, byte a holding bits [7:0] (R271, R3). -/
def wordOfBytes (lo hi : BitVec 8) : BitVec 16 := hi ++ lo

/-- The first word of a run of bytes under a page, with the bytes that follow it. -/
def decodeBytes (page : Nat) : List (BitVec 8) → Except Reject (Instr × List (BitVec 8))
  | lo :: hi :: rest =>
    match decode page (wordOfBytes lo hi) with
    | .ok i => .ok (i, rest)
    | .error r => .error r
  | _ => .error .tooShort

/-- The bytes of a word in the order memory holds them. -/
def bytesOfWord (w : BitVec 16) : List (BitVec 8) := [w.extractLsb' 0 8, w.extractLsb' 8 8]

/-- The page a word sets for the word after it: PAGE's field, else none (R275). -/
def pageOfWord (w : BitVec 16) : Option Nat :=
  match decodePrefix w with
  | .ok (.page p) => some p.toNat
  | _ => none

/-- A one-word instruction, or a PAGE word and the page-1 word behind it, from its bytes in memory order. -/
def decodeRun (bs : List (BitVec 8)) : Except Reject (Instr × List (BitVec 8)) :=
  match bs with
  | b0 :: b1 :: b2 :: b3 :: rest =>
    if pageOfWord (wordOfBytes b0 b1) = some 1 then decodeBytes 1 (b2 :: b3 :: rest)
    else decodeBytes 0 (b0 :: b1 :: b2 :: b3 :: rest)
  | _ => decodeBytes 0 bs

/-- The words of an instruction of the opcode table whose number there is `w` of `nbits` bits.  The table writes a
page-1 row as the number 0x7201xxxx: its PAGE word, the first word in memory, is the upper half. -/
def tableWords (nbits w : Nat) : List (BitVec 16) :=
  if nbits = 16 then [BitVec.ofNat 16 w]
  else if nbits = 32 then [BitVec.ofNat 16 (w / 65536), BitVec.ofNat 16 w]
  else []

/-- The instruction the decoder reads from an opcode-table number: its words laid out in memory order, given to the
decoder. -/
def decodeTableWord (nbits w : Nat) : Option Instr :=
  match decodeRun ((tableWords nbits w).flatMap bytesOfWord) with
  | .ok (i, _) => some i
  | .error _ => none

/-! ## The encoder -/

/-- A field of `n` bits placed at bit `lo` of a word. -/
def place (lo : Nat) (x : BitVec n) : BitVec 16 := x.setWidth 16 <<< lo

/-- A bit placed at bit `i` of a word. -/
def placeBit (i : Nat) (b : Bool) : BitVec 16 := place i (BitVec.ofBool b)

/-- The PAGE 1 word, 0x7201 (R275). -/
def pageOneWord : BitVec 16 := 0x7201#16

/-- The word of a prefix instruction (R275). -/
def encodePrefix : Instr → Option (BitVec 16)
  | .ximm i => some (0x7000#16 ||| place 0 i)
  | .xreg d a b => some (0x7100#16 ||| placeBit 6 d ||| placeBit 5 a ||| place 0 b)
  | .page p => some (0x7200#16 ||| place 0 p)
  | .memq s c q => some (0x7300#16 ||| place 4 s ||| place 1 c ||| placeBit 0 q)
  | .nfmt a b => some (0x7400#16 ||| place 4 a ||| place 0 b)
  | .guard p n => some (0x7500#16 ||| place 5 p ||| placeBit 4 n)
  | _ => none

/-- The word of a page-0 instruction (R280). -/
def encodePage0 : Instr → Option (BitVec 16)
  | .nop m => some (0x0000#16 ||| placeBit 15 m)
  | .endStrand m => some (0x0100#16 ||| placeBit 15 m)
  | .br m p n o => some (0x0200#16 ||| placeBit 15 m ||| place 5 p ||| placeBit 4 n ||| place 0 o)
  | .jmp m o => some (0x0300#16 ||| placeBit 15 m ||| place 0 o)
  | .call m o => some (0x0400#16 ||| placeBit 15 m ||| place 0 o)
  | .ret m => some (0x0500#16 ||| placeBit 15 m)
  | .jmpr m a => some (0x0600#16 ||| placeBit 15 m ||| place 0 a)
  | .jmpt m d a => some (0x0700#16 ||| placeBit 15 m ||| place 4 d ||| place 0 a)
  | .loop m l e => some (0x0800#16 ||| placeBit 15 m ||| place 5 l ||| place 0 e)
  | .brq m n o => some (0x0900#16 ||| placeBit 15 m ||| placeBit 7 n ||| place 0 o)
  | .pusho m p => some (0x0A00#16 ||| placeBit 15 m ||| place 5 p)
  | .await m p x => some (0x0B00#16 ||| placeBit 15 m ||| place 5 p ||| place 0 x)
  | .chain m a => some (0x0C00#16 ||| placeBit 15 m ||| place 0 a)
  | .trap m i => some (0x0D00#16 ||| placeBit 15 m ||| place 0 i)
  | .restartpt m i => some (0x0E00#16 ||| placeBit 15 m ||| place 0 i)
  | .fence m s => some (0x0F00#16 ||| placeBit 15 m ||| place 0 s)
  | .mov m d a => some (0x1000#16 ||| placeBit 15 m ||| place 4 d ||| place 0 a)
  | .movi m d i => some (0x1100#16 ||| placeBit 15 m ||| place 4 d ||| place 0 i)
  | .ldc m d i => some (0x1200#16 ||| placeBit 15 m ||| place 4 d ||| place 0 i)
  | .add m d a => some (0x1300#16 ||| placeBit 15 m ||| place 4 d ||| place 0 a)
  | .sub m d a => some (0x1400#16 ||| placeBit 15 m ||| place 4 d ||| place 0 a)
  | .addi m d i => some (0x1500#16 ||| placeBit 15 m ||| place 4 d ||| place 0 i)
  | .mul m d a => some (0x1600#16 ||| placeBit 15 m ||| place 4 d ||| place 0 a)
  | .mulh m d a => some (0x1700#16 ||| placeBit 15 m ||| place 4 d ||| place 0 a)
  | .madd m d a => some (0x1800#16 ||| placeBit 15 m ||| place 4 d ||| place 0 a)
  | .div m d a => some (0x1900#16 ||| placeBit 15 m ||| place 4 d ||| place 0 a)
  | .rem m d a => some (0x1A00#16 ||| placeBit 15 m ||| place 4 d ||| place 0 a)
  | .and m d a => some (0x1B00#16 ||| placeBit 15 m ||| place 4 d ||| place 0 a)
  | .or m d a => some (0x1C00#16 ||| placeBit 15 m ||| place 4 d ||| place 0 a)
  | .xor m d a => some (0x1D00#16 ||| placeBit 15 m ||| place 4 d ||| place 0 a)
  | .andi m d i => some (0x1E00#16 ||| placeBit 15 m ||| place 4 d ||| place 0 i)
  | .shl m d a => some (0x1F00#16 ||| placeBit 15 m ||| place 4 d ||| place 0 a)
  | .shr m d a => some (0x2000#16 ||| placeBit 15 m ||| place 4 d ||| place 0 a)
  | .sra m d a => some (0x2100#16 ||| placeBit 15 m ||| place 4 d ||| place 0 a)
  | .shli m d i => some (0x2200#16 ||| placeBit 15 m ||| place 4 d ||| place 0 i)
  | .shri m d i => some (0x2300#16 ||| placeBit 15 m ||| place 4 d ||| place 0 i)
  | .srai m d i => some (0x2400#16 ||| placeBit 15 m ||| place 4 d ||| place 0 i)
  | .rotl m d a => some (0x2500#16 ||| placeBit 15 m ||| place 4 d ||| place 0 a)
  | .min m d a => some (0x2600#16 ||| placeBit 15 m ||| place 4 d ||| place 0 a)
  | .max m d a => some (0x2700#16 ||| placeBit 15 m ||| place 4 d ||| place 0 a)
  | .minu m d a => some (0x2800#16 ||| placeBit 15 m ||| place 4 d ||| place 0 a)
  | .maxu m d a => some (0x2900#16 ||| placeBit 15 m ||| place 4 d ||| place 0 a)
  | .clz m d a => some (0x2A00#16 ||| placeBit 15 m ||| place 4 d ||| place 0 a)
  | .popc m d a => some (0x2B00#16 ||| placeBit 15 m ||| place 4 d ||| place 0 a)
  | .ext m d a => some (0x2C00#16 ||| placeBit 15 m ||| place 4 d ||| place 0 a)
  | .ins m d a => some (0x2D00#16 ||| placeBit 15 m ||| place 4 d ||| place 0 a)
  | .cmpeq m p a => some (0x2E00#16 ||| placeBit 15 m ||| place 5 p ||| place 0 a)
  | .cmpne m p a => some (0x2F00#16 ||| placeBit 15 m ||| place 5 p ||| place 0 a)
  | .cmplt m p a => some (0x3000#16 ||| placeBit 15 m ||| place 5 p ||| place 0 a)
  | .cmple m p a => some (0x3100#16 ||| placeBit 15 m ||| place 5 p ||| place 0 a)
  | .cmpltu m p a => some (0x3200#16 ||| placeBit 15 m ||| place 5 p ||| place 0 a)
  | .cmpleu m p a => some (0x3300#16 ||| placeBit 15 m ||| place 5 p ||| place 0 a)
  | .plog m d a o => some (0x3400#16 ||| placeBit 15 m ||| place 5 d ||| place 2 a ||| place 0 o)
  | .pset m p v => some (0x3500#16 ||| placeBit 15 m ||| place 5 p ||| placeBit 0 v)
  | .pget m d => some (0x3600#16 ||| placeBit 15 m ||| place 4 d)
  | .pput m a => some (0x3700#16 ||| placeBit 15 m ||| place 0 a)
  | .ldb m d a => some (0x3800#16 ||| placeBit 15 m ||| place 4 d ||| place 0 a)
  | .ldh m d a => some (0x3900#16 ||| placeBit 15 m ||| place 4 d ||| place 0 a)
  | .ldw m d a => some (0x3A00#16 ||| placeBit 15 m ||| place 4 d ||| place 0 a)
  | .ldd m d a => some (0x3B00#16 ||| placeBit 15 m ||| place 4 d ||| place 0 a)
  | .ldv m q a => some (0x3C00#16 ||| placeBit 15 m ||| place 6 q ||| place 0 a)
  | .stb m d a => some (0x3D00#16 ||| placeBit 15 m ||| place 4 d ||| place 0 a)
  | .sth m d a => some (0x3E00#16 ||| placeBit 15 m ||| place 4 d ||| place 0 a)
  | .stw m d a => some (0x3F00#16 ||| placeBit 15 m ||| place 4 d ||| place 0 a)
  | .std m d a => some (0x4000#16 ||| placeBit 15 m ||| place 4 d ||| place 0 a)
  | .stv m q a => some (0x4100#16 ||| placeBit 15 m ||| placeBit 7 q ||| place 0 a)
  | .wld m q w k => some (0x4200#16 ||| placeBit 15 m ||| place 6 q ||| place 3 w ||| place 0 k)
  | .wst m q w => some (0x4300#16 ||| placeBit 15 m ||| placeBit 7 q ||| place 3 w)
  | .wset m w a => some (0x4400#16 ||| placeBit 15 m ||| place 5 w ||| place 0 a)
  | .wfeed m w t n => some (0x4500#16 ||| placeBit 15 m ||| place 5 w ||| placeBit 4 t ||| place 0 n)
  | .zerof m d a => some (0x4600#16 ||| placeBit 15 m ||| place 4 d ||| place 0 a)
  | .wstat m d w => some (0x4700#16 ||| placeBit 15 m ||| place 4 d ||| place 0 w)
  | .cpy m c a => some (0x4800#16 ||| placeBit 15 m ||| place 5 c ||| place 0 a)
  | .cpyw m c a => some (0x4900#16 ||| placeBit 15 m ||| place 5 c ||| place 0 a)
  | .cpym m c a => some (0x4A00#16 ||| placeBit 15 m ||| place 5 c ||| place 0 a)
  | .cpyx m c => some (0x4B00#16 ||| placeBit 15 m ||| place 5 c)
  | .hwalk m c a => some (0x4C00#16 ||| placeBit 15 m ||| place 5 c ||| place 0 a)
  | .hpermit m d a => some (0x4D00#16 ||| placeBit 15 m ||| place 4 d ||| place 0 a)
  | .lndset m d a => some (0x4E00#16 ||| placeBit 15 m ||| place 4 d ||| place 0 a)
  | .fld m c a => some (0x4F00#16 ||| placeBit 15 m ||| place 5 c ||| place 0 a)
  | .fst m d a => some (0x5000#16 ||| placeBit 15 m ||| place 4 d ||| place 0 a)
  | .cstat m d => some (0x5100#16 ||| placeBit 15 m ||| place 4 d)
  | .cmov m d c => some (0x5200#16 ||| placeBit 15 m ||| place 4 d ||| place 0 c)
  | .lease m d a => some (0x5300#16 ||| placeBit 15 m ||| place 4 d ||| place 0 a)
  | .vadd m d a => some (0x5400#16 ||| placeBit 15 m ||| place 4 d ||| place 0 a)
  | .vsub m d a => some (0x5500#16 ||| placeBit 15 m ||| place 4 d ||| place 0 a)
  | .vmul m d a => some (0x5600#16 ||| placeBit 15 m ||| place 4 d ||| place 0 a)
  | .vfma m d a => some (0x5700#16 ||| placeBit 15 m ||| place 4 d ||| place 0 a)
  | .vmax m d a => some (0x5800#16 ||| placeBit 15 m ||| place 4 d ||| place 0 a)
  | .vmin m d a => some (0x5900#16 ||| placeBit 15 m ||| place 4 d ||| place 0 a)
  | .vcmp m d a => some (0x5A00#16 ||| placeBit 15 m ||| place 4 d ||| place 0 a)
  | .vsel m d a => some (0x5B00#16 ||| placeBit 15 m ||| place 4 d ||| place 0 a)
  | .vlogic m d a => some (0x5C00#16 ||| placeBit 15 m ||| place 4 d ||| place 0 a)
  | .vshift m d a => some (0x5D00#16 ||| placeBit 15 m ||| place 4 d ||| place 0 a)
  | .vcvt m d a => some (0x5E00#16 ||| placeBit 15 m ||| place 4 d ||| place 0 a)
  | .vred m d a => some (0x5F00#16 ||| placeBit 15 m ||| place 4 d ||| place 0 a)
  | .vscan m d a => some (0x6000#16 ||| placeBit 15 m ||| place 4 d ||| place 0 a)
  | .vperm m d a => some (0x6100#16 ||| placeBit 15 m ||| place 4 d ||| place 0 a)
  | .vbcast m d a => some (0x6200#16 ||| placeBit 15 m ||| place 4 d ||| place 0 a)
  | .vext m d a => some (0x6300#16 ||| placeBit 15 m ||| place 4 d ||| place 0 a)
  | .viota m d => some (0x6400#16 ||| placeBit 15 m ||| place 4 d)
  | .vexp2 m d a => some (0x6500#16 ||| placeBit 15 m ||| place 4 d ||| place 0 a)
  | .vrcp m d a => some (0x6600#16 ||| placeBit 15 m ||| place 4 d ||| place 0 a)
  | .vfkey m d a => some (0x6700#16 ||| placeBit 15 m ||| place 4 d ||| place 0 a)
  | .mzero m n => some (0x6800#16 ||| placeBit 15 m ||| place 0 n)
  | .mma m n k => some (0x6900#16 ||| placeBit 15 m ||| place 6 n ||| place 3 k)
  | .mmas m n k => some (0x6A00#16 ||| placeBit 15 m ||| place 6 n ||| place 3 k)
  | .mdrain m n d => some (0x6B00#16 ||| placeBit 15 m ||| place 6 n ||| place 0 d)
  | .cbload m n a => some (0x6C00#16 ||| placeBit 15 m ||| place 6 n ||| place 0 a)
  | .attn m n x => some (0x6D00#16 ||| placeBit 15 m ||| place 6 n ||| place 0 x)
  | .attnfin m n d => some (0x6E00#16 ||| placeBit 15 m ||| place 6 n ||| place 0 d)
  | .qrot m d a => some (0x6F00#16 ||| placeBit 15 m ||| place 4 d ||| place 0 a)
  | _ => none

/-- The word of a page-1 instruction, without its PAGE word (R281). -/
def encodePage1 : Instr → Option (BitVec 16)
  | .fadd m d a => some (0x0000#16 ||| placeBit 15 m ||| place 4 d ||| place 0 a)
  | .fsub m d a => some (0x0100#16 ||| placeBit 15 m ||| place 4 d ||| place 0 a)
  | .fmul m d a => some (0x0200#16 ||| placeBit 15 m ||| place 4 d ||| place 0 a)
  | .fma m d a => some (0x0300#16 ||| placeBit 15 m ||| place 4 d ||| place 0 a)
  | .fdiv m d a => some (0x0400#16 ||| placeBit 15 m ||| place 4 d ||| place 0 a)
  | .fsqrt m d a => some (0x0500#16 ||| placeBit 15 m ||| place 4 d ||| place 0 a)
  | .fmin m d a => some (0x0600#16 ||| placeBit 15 m ||| place 4 d ||| place 0 a)
  | .fmax m d a => some (0x0700#16 ||| placeBit 15 m ||| place 4 d ||| place 0 a)
  | .fcmpeq m p a => some (0x0800#16 ||| placeBit 15 m ||| place 5 p ||| place 0 a)
  | .fcmplt m p a => some (0x0900#16 ||| placeBit 15 m ||| place 5 p ||| place 0 a)
  | .fcmple m p a => some (0x0A00#16 ||| placeBit 15 m ||| place 5 p ||| place 0 a)
  | .fcvt m d a => some (0x0B00#16 ||| placeBit 15 m ||| place 4 d ||| place 0 a)
  | .fclass m d a => some (0x0C00#16 ||| placeBit 15 m ||| place 4 d ||| place 0 a)
  | .divu m d a => some (0x0D00#16 ||| placeBit 15 m ||| place 4 d ||| place 0 a)
  | .remu m d a => some (0x0E00#16 ||| placeBit 15 m ||| place 4 d ||| place 0 a)
  | .vrsqrt m d a => some (0x1000#16 ||| placeBit 15 m ||| place 4 d ||| place 0 a)
  | .vhist m d a => some (0x1100#16 ||| placeBit 15 m ||| place 4 d ||| place 0 a)
  | .vtopk m d a => some (0x1200#16 ||| placeBit 15 m ||| place 4 d ||| place 0 a)
  | .vsamp m d a => some (0x1300#16 ||| placeBit 15 m ||| place 4 d ||| place 0 a)
  | .qstat m d => some (0x1400#16 ||| placeBit 15 m ||| place 4 d)
  | .arrive m => some (0x2000#16 ||| placeBit 15 m)
  | .waitb m => some (0x2100#16 ||| placeBit 15 m)
  | .gatom m d a => some (0x2200#16 ||| placeBit 15 m ||| place 4 d ||| place 0 a)
  | .gcas m d a => some (0x2300#16 ||| placeBit 15 m ||| place 4 d ||| place 0 a)
  | .gred m d a => some (0x2400#16 ||| placeBit 15 m ||| place 4 d ||| place 0 a)
  | .futw m d a => some (0x2500#16 ||| placeBit 15 m ||| place 4 d ||| place 0 a)
  | .futr m p x => some (0x2600#16 ||| placeBit 15 m ||| place 5 p ||| place 0 x)
  | .salloc m p d => some (0x2700#16 ||| placeBit 15 m ||| place 5 p ||| place 0 d)
  | .sfree m a => some (0x2800#16 ||| placeBit 15 m ||| place 0 a)
  | .signal m a => some (0x2900#16 ||| placeBit 15 m ||| place 0 a)
  | .tclaim m p d => some (0x3000#16 ||| placeBit 15 m ||| place 5 p ||| place 0 d)
  | .tpatch m d a => some (0x3100#16 ||| placeBit 15 m ||| place 4 d ||| place 0 a)
  | .tarm m a => some (0x3200#16 ||| placeBit 15 m ||| place 0 a)
  | .book m d a => some (0x3300#16 ||| placeBit 15 m ||| place 4 d ||| place 0 a)
  | .calq m d a => some (0x3400#16 ||| placeBit 15 m ||| place 4 d ||| place 0 a)
  | .unlease m d a => some (0x3500#16 ||| placeBit 15 m ||| place 4 d ||| place 0 a)
  | .gparam m d i => some (0x3600#16 ||| placeBit 15 m ||| place 4 d ||| place 0 i)
  | .gpset m d i => some (0x3700#16 ||| placeBit 15 m ||| place 4 d ||| place 0 i)
  | .tfree m a => some (0x3800#16 ||| placeBit 15 m ||| place 0 a)
  | .fpush m d a => some (0x4000#16 ||| placeBit 15 m ||| place 4 d ||| place 0 a)
  | .fret m d a => some (0x4100#16 ||| placeBit 15 m ||| place 4 d ||| place 0 a)
  | .fshare m a => some (0x4200#16 ||| placeBit 15 m ||| place 0 a)
  | .fdrop m a => some (0x4300#16 ||| placeBit 15 m ||| place 0 a)
  | .fappend m d a => some (0x4400#16 ||| placeBit 15 m ||| place 4 d ||| place 0 a)
  | .fcompact m p a => some (0x4500#16 ||| placeBit 15 m ||| place 5 p ||| place 0 a)
  | .finfo m d a => some (0x4600#16 ||| placeBit 15 m ||| place 4 d ||| place 0 a)
  | .beammap m a => some (0x4700#16 ||| placeBit 15 m ||| place 0 a)
  | .pfxlook m a => some (0x4800#16 ||| placeBit 15 m ||| place 0 a)
  | .pfxput m d a => some (0x4900#16 ||| placeBit 15 m ||| place 4 d ||| place 0 a)
  | .pfxpin m d a => some (0x4A00#16 ||| placeBit 15 m ||| place 4 d ||| place 0 a)
  | .pfxunpin m a => some (0x4B00#16 ||| placeBit 15 m ||| place 0 a)
  | .bhash m d a => some (0x4C00#16 ||| placeBit 15 m ||| place 4 d ||| place 0 a)
  | .cpyf m c a => some (0x4D00#16 ||| placeBit 15 m ||| place 5 c ||| place 0 a)
  | .sysrd m d i => some (0x6000#16 ||| placeBit 15 m ||| place 4 d ||| place 0 i)
  | .syswr m d i => some (0x6100#16 ||| placeBit 15 m ||| place 4 d ||| place 0 i)
  | .rett m d a => some (0x6200#16 ||| placeBit 15 m ||| place 4 d ||| place 0 a)
  | .xprobe m d a => some (0x6300#16 ||| placeBit 15 m ||| place 4 d ||| place 0 a)
  | _ => none

/-- The words of an instruction in memory order: one word, or PAGE 1 and the word; none for a step that no word
stands for. -/
def encode (i : Instr) : List (BitVec 16) :=
  match encodePrefix i with
  | some w => [w]
  | none =>
    match encodePage0 i with
    | some w => [w]
    | none =>
      match encodePage1 i with
      | some w => [pageOneWord, w]
      | none => []

end Sys2Proof
end

