-- ==== Sys2Proof/Word.lean ====
section
/-!
DEFINITION. Sys2Proof/Word.lean: the data widths of R4 and R11.
-/
namespace Sys2Proof

/-- A byte (R4). -/
abbrev Byte := BitVec 8
/-- A double, and the width of an s register (R4, R11). -/
abbrev Word := BitVec 64
/-- A lane of a vector register (R11). -/
abbrev Lane := BitVec 32
/-- A vector register: 64 lanes of 32 bits, lane i in bits [32 i + 31 : 32 i] (R11, R99). -/
abbrev Vec := BitVec 2048
/-- An entry of an MX operand port: 64 bytes (R11). -/
abbrev Entry := BitVec 512
/-- An accumulator: 32 rows of 32 FP32 cells, cell (i, j) in lane 32 i + j (R11). -/
abbrev Acc := BitVec 32768

end Sys2Proof
end

