-- ==== Sys2Proof/Config.lean ====
section
/-!
DEFINITION. Sys2Proof/Config.lean: what the spec leaves open, as constants without a body.  Nothing in Lean can
evaluate them, so a statement about the machine holds whatever they are.
-/
namespace Sys2Proof.Config

/-- The n-th choice among moves that R135 leaves in any order: the chosen move is number `freeChoice n` modulo the number
of enabled moves (log entry 3). -/
opaque freeChoice : Nat → Nat

/-- What byte `a` of a place enciphered under key `k` deciphers to under key `k'` (R67, R231: bytes that carry no meaning;
log entry 4). -/
opaque garbledByte : (k : Nat) → (k' : Nat) → (a : Nat) → Byte

/-- The word that the `a`-th result left without a value by the spec holds, `n` naming the place: 9 is FINFO's row address where
the page list cannot be read (R386; log entry 5). -/
opaque unstatedWord : (n : Nat) → (a : Nat) → Word

/-- The reeve's key material: the key a fresh random draw gives, and the bytes of an LMS signature over a report
(R230, R243; log entry 6). -/
opaque lmsSignature : (q : Nat) → (report : Nat) → List Byte

/-- SHA-256 of the reeve-written configuration of a context (R243), from the configuration's words (log entry 6). -/
opaque sha256 : List Word → BitVec 256

/-- How many choices an enabled move waits at the most before it is taken (R135: it is taken eventually; log entry 3). -/
opaque patience : Nat

end Sys2Proof.Config
end

