-- ==== Sys2Proof/Machine/State.lean ====
section
/-!
DEFINITION. Sys2Proof/Machine/State.lean: everything the spec gives the module, as plain data; the reasons a step can
stop; and the state after reset.

A pool, a set of tiles or any other large collection is a list of (key, value) pairs with rising keys; a key that is not
listed stands for the reset value of its slot.  Times are module cycles unless a field says otherwise.
-/
namespace Sys2Proof.Machine

/-- Faults of the model.  No row of the opcode table stops a task of the module with one of these: a strand's traps are
next states (R210). -/
inductive Fault where
  /-- An instruction word was executed though no running strand is in focus (`State.who`).  The module issues words only
  in running strands (R75, R87), and `step` focuses one before it calls `exec`.  Safe. -/
  | noStrand
  deriving DecidableEq, Repr

/-- Refusals of the model. -/
inductive Refusal where
  /-- A row of the opcode table that has no meaning yet; raised by no meaning.  Safe. -/
  | notModelled (mnemonic : String)
  deriving DecidableEq, Repr

/-! ## One strand (R75, R77, R91, R92) -/

/-- An entry of the loop stack (R85). -/
structure LoopEntry where
  start : Word
  stop  : Word
  l     : Nat
  deriving DecidableEq, Repr

/-- A loaded walker (R82): base, PE, counts, strides and indices of its four dimensions. -/
structure Walker where
  base    : BitVec 22
  pe      : Bool
  counts  : Vector (BitVec 16) 4
  strides : Vector (BitVec 32) 4
  idx     : Vector (BitVec 16) 4
  deriving DecidableEq, Repr

/-- Where an outstanding result goes (R88).  `counts` is a QSTAT's result from its issue until both strands have issued in that
cycle, when it takes the queue counts (R336). -/
inductive ResVal where
  | s  (n : Nat) (v : Word)
  | counts (n : Nat)
  | p  (n : Nat) (b : Bool)
  | v  (n : Nat) (x : Vec)
  | cb (n : Nat) (x : BitVec 256)
  | w  (n : Nat) (x : Walker)
  | fd (x : Vector (BitVec 128) 4)
  | none
  deriving DecidableEq, Repr

/-- An unchecked result from issue until it is written (R88).  `due` is the cycle it is written in; a vector of an MX
command that has not been produced yet has none, and `cmd` names the command (R359).  `flags` are ORed into st with it
(R91), invalid in bit 4 down to inexact in bit 0. -/
structure Pending where
  due   : Option Nat
  cmd   : Nat
  val   : ResVal
  flags : BitVec 5
  deriving DecidableEq, Repr

/-- The registers of one strand: s, p, l, st, PLATCH, LIVE, the program counter with the address of the run of words it
stands in, the loop stack (innermost first), and the outstanding results. -/
structure Regs where
  s      : Vector Word 32
  p      : BitVec 8
  l      : Vector Word 8
  st     : BitVec 16
  platch : BitVec 128
  live   : BitVec 32
  pc     : Word
  runPc  : Word
  loops  : List LoopEntry
  out    : List Pending
  deriving DecidableEq, Repr

/-- A trap or stop as a strand takes it (R210, R211, R215): code, subcode, trap PC, faulting address, fault kind, the
word it resumes at, whether an instruction raised it, whether it resumes at a restart point when one is recorded, and
whether it is a debug stop (R241). -/
structure TrapInfo where
  code      : BitVec 8
  sub       : BitVec 8
  pc        : Word
  addr      : Word
  kind      : BitVec 4
  resume    : Word
  sync      : Bool
  atRestart : Bool
  debug     : Bool
  deriving DecidableEq, Repr

/-- When a store issues and when it commits (R212). -/
structure StoreTime where
  since  : Nat
  commit : Nat
  deriving DecidableEq, Repr

/-- One store of an entry of the store buffer: the bytes it writes in its granule, its issue and its commit (R212). -/
structure SbPart extends StoreTime where
  mask   : BitVec 32
  data   : BitVec 256
  deriving DecidableEq, Repr

/-- An entry of the store buffer: one granule write (R62).  `mask` bit i: byte i is written.  It may drain from cycle
`commit` on, when every store merged into it has committed (R212).  `parts`: those stores, oldest first; a reader
other than the A-core sees the ones that have committed (R136). -/
structure SbEntry where
  id      : Nat
  granule : Nat
  mask    : BitVec 32
  data    : BitVec 256
  commit  : Nat
  parts   : List SbPart
  deriving DecidableEq, Repr

/-- A verdict that has not returned (R212), in program order; `fail` is the trap it brings.  Until it does the strand goes on issuing
(log entry 11).  `owner`: the number under which a copy whose checks fail has set in-flight bits, which its trap clears (R301). -/
structure Verdict where
  due   : Nat
  fail  : Option TrapInfo
  owner : Option Nat
  deriving DecidableEq, Repr

/-- How far a strand is (R75, R178, R211). -/
inductive Phase where
  | off
  | run
  | ended (byAwait : Bool)
  | trapped (t : TrapInfo)
  | stopped
  deriving DecidableEq, Repr

/-- What a strand returns to when a verdict of its traps (R212): its registers, with the results of its earlier instructions that are
outstanding, and the walkers that later ones have changed, as they were at the issue of the instruction that traps; the cycle of that issue,
and the number of the next queue or store-buffer entry then. -/
structure Undo where
  regs    : Regs
  walkers : List (Nat × Option Walker)
  since   : Nat
  mark    : Nat
  deriving DecidableEq, Repr

/-- One strand of a tile: registers, phase, the first cycle its next word may issue in (R86, R363), the verdicts that have
not returned, what the first of them that traps will undo (R212), the home-unit request whose verdict it waits for (R363), whether it waits at
RESTARTPT with the index it names (R362), the rows a ZEROF has still to enter (R296: next address, end address), whether it waits in WAITB
(R369), and whether it has issued an instruction since single-stepping was last set (R241). -/
structure Strand where
  regs     : Regs
  phase    : Phase
  readyAt  : Nat
  verdicts : List Verdict
  undo     : Option Undo
  home     : Option Nat
  restart  : Option Nat
  zerof    : Option (Nat × Nat)
  waitb    : Bool
  issued   : Bool
  deriving DecidableEq, Repr

/-! ## One tile -/

/-- An entry of lq or sq (R78, R79): reserved at issue, filled in cycle `due`. -/
structure QEntry where
  id     : Nat
  due    : Nat
  data   : Vec
  filled : Bool
  deriving DecidableEq, Repr

/-- A queue, head first, with the entries popped in cycle `popCycle`, which stay occupied until the next cycle (R79). -/
structure Queue where
  ents     : List QEntry
  popCycle : Nat
  popCount : Nat
  deriving DecidableEq, Repr

/-- An MX operand port (R78, R84): landed entries, entries in flight with their landing cycle. -/
structure Port where
  ents     : List Entry
  flight   : List (Nat × Entry)
  popCycle : Nat
  popCount : Nat
  deriving DecidableEq, Repr

/-- An outcome queue (R78, R324), head first, each bit with the cycle of its push. -/
structure OutQueue where
  ents     : List (Bool × Nat)
  popCycle : Nat
  popCount : Nat
  deriving DecidableEq, Repr

/-- A walker feed (R84): the walker, the entries left, the WFEED's issue cycle (the first access is made after it), the
cycle of its last access, 0 before the first (log entry 92), and the WFEED's address. -/
structure Feed where
  w    : Nat
  left : Nat
  since : Nat
  last : Nat
  pc   : Word
  deriving DecidableEq, Repr

/-- An MX command with what it latched at issue (R114, R118, R122, R358, R359). -/
inductive MxOp where
  | mzero (n : Nat)
  | mma (scaled : Bool) (n k : Nat) (fa fb : Nat) (cb : Vector (BitVec 256) 4)
  | mdrain (n : Nat) (bf16 : Bool) (d : Nat)
  | attn (n : Nat) (x : Word) (fd : Vector (BitVec 128) 4) (scale : Lane)
  | attnfin (n d : Nat)
  deriving DecidableEq, Repr

/-- A queued or running MX command: its number, the address of its instruction, its issue cycle. -/
structure MxCmd where
  id    : Nat
  pc    : Word
  issue : Nat
  op    : MxOp
  deriving DecidableEq, Repr

/-- A row of an ATTN block as the operand pipe read it (R121): number 0 to 31 a key with its rotation row, 32 to 63 a
value; the key's frame and position tags (R69). -/
structure AttnRow where
  n    : Nat
  data : Vec
  rot  : Vec
  ftag : Nat
  ptag : Nat
  deriving DecidableEq, Repr

/-- The running MX command: its start cycle, the cycles of its busy period done, what it has popped from each port and read;
the row of an ATTN block it reads in this field cycle, the key row it has read whose rotation row found no slot free, and the
cycles a delayed field cycle still holds it (R61). -/
structure MxRun where
  cmd   : MxCmd
  start : Nat
  done  : Nat
  ea    : List Entry
  eb    : List Entry
  rows  : List AttnRow
  want  : Option Nat
  half  : Option AttnRow
  stall : Nat
  deriving DecidableEq, Repr

/-- A vector of an MDRAIN or ATTNFIN that is still to be written (R114, R117): its cycle, its command, 0–27 a register, 28 or
29 a push, its data and flags. -/
structure Owed where
  due  : Nat
  cmd  : Nat
  d    : Nat
  data : Vec
  flags : BitVec 5
  deriving DecidableEq, Repr

/-- The MX of a tile (R114): queue behind the running command, owed vectors, the flags of MMAs whose accumulator is not yet
complete with the cycle it is (R131), the accumulators (R11), the attention state m and l (R124), the number of the next command. -/
structure Mx where
  queue : List MxCmd
  run   : Option MxRun
  owed  : List Owed
  flags : List (Nat × BitVec 5)
  acc   : Vector Acc 4
  m     : BitVec 1024
  l     : BitVec 1024
  nextId : Nat
  deriving DecidableEq, Repr

/-- A bank of instruction store (R37, R158): the code range's VA base and length, and its bytes by offset. -/
structure Bank where
  base : Nat
  len  : Nat
  mem  : List Host.Cell
  deriving DecidableEq, Repr

/-- A restart point (R221, R362) of one tile: per strand the PC, the mask, the s registers and st; c0–c7; PXCTR; the
number the next engine operation would have had. -/
structure RestartPt where
  pcA   : Word
  pcE   : Word
  maskA : BitVec 32
  maskE : BitVec 32
  sA    : Vector Word 32
  sE    : Vector Word 32
  stA   : BitVec 16
  stE   : BitVec 16
  c     : Vector Word 8
  pxctr : BitVec 128
  opMark : Nat
  deriving DecidableEq, Repr

/-- The field store of a tile (R59–R73): its bytes as the key that wrote them deciphers them; for each granule the key it
was enciphered under (R67); for each row its frame and position tags, NOTAG rows unlisted (R69); the granules in flight, each
with the operations that set its bit (R48); granules with a correctable and with an uncorrectable error, a parity granule being
named as 131072 + 4096 · group + its place in the bank (R59, R65); leased units with their fibre and held units (R71, R73);
the LNDSETs made so far on a counter (R56, R309). -/
structure Field where
  mem    : List Host.Cell
  keys   : List (Nat × Nat)
  tags   : List (Nat × Nat × Nat)
  flight : List (Nat × List Nat)
  worn   : List Nat
  dead   : List Nat
  lease  : List (Nat × BitVec 16)
  held   : List Nat
  resets : List (Nat × Nat)
  deriving DecidableEq, Repr

/-- What a row held before an LNDSET of a cycle wrote 16 bytes of it: the cycle, the field address, the bytes, the row's tags.  A read
that comes before the A-strand's access of that cycle sees these (R136). -/
structure OldBytes where
  cycle : Nat
  addr  : Nat
  bytes : Nat
  tags  : Nat × Nat
  deriving DecidableEq, Repr

/-- A port-A access of the current field cycle: its cycle, the banks whose slots it takes, whether it writes (R60, R61). -/
structure PortUse where
  cycle : Nat
  banks : BitVec 32
  write : Bool
  deriving DecidableEq, Repr

/-- A tile (R12, R66, R75, R77, R78, R129, R194, R227, R369).  `checks` are the cycles in which its residue checks are complete, rising,
`residue` the one of a check that fails (R268, R391). -/
structure Tile where
  owner   : Option (BitVec 4)
  keyOk   : Bool
  vtile   : BitVec 10
  fsctx   : BitVec 4
  key     : Nat
  run     : Option Nat
  rank    : Nat
  a       : Strand
  e       : Strand
  w       : Vector (Option Walker) 8
  c       : Vector Word 8
  v       : Vector Vec 28
  cb      : Vector (BitVec 256) 4
  fd      : Vector (BitVec 128) 4
  ascale  : Word
  fplane  : Word
  pxseed  : Word
  pxctr   : BitVec 128
  lq      : Vector Queue 4
  sq      : Vector Queue 2
  mA      : Port
  mB      : Port
  oqAE    : OutQueue
  oqEA    : OutQueue
  sb      : List SbEntry
  nextId  : Nat
  mx      : Mx
  feedA   : Option Feed
  feedB   : Option Feed
  store   : Bank
  standby : Option (Nat × Bank)
  arrived : Bool
  uses    : List PortUse
  jmptAt  : Option (Nat × BitVec 32)
  point   : Option RestartPt
  checks  : List Nat
  residue : Option Nat
  poisonA : Option (Word × Word)
  poisonE : Option (Word × Word)
  before  : Option OldBytes
  field   : Field
  deriving DecidableEq, Repr

/-! ## Runs, tasks, continuations, cells, frames (R172–R208) -/

/-- Why a run is being stopped (R166, R220, R222, R232, R268). -/
inductive StopWhy where
  | overrun
  | preempt
  | band
  | residue
  | teardown
  deriving DecidableEq, Repr

/-- A running task: its record, context, fibre, mask, gang, code range, scratch units, barrier channel, recorded CHAIN
(R179), claimed continuation (R178), RETTs with their save images (R384), a pending barrier completion (R369), an
asynchronous stop that is under way, the strand whose trap is delivered (R213), whether the strands issue nothing
more because of a stop or a trap of an earlier cycle (R211, R398), and the cycle of that trap or stop (R215). -/
structure Run where
  die      : Nat
  idx      : Nat
  handle   : Word
  ctx      : Nat
  fibre    : BitVec 16
  mask     : BitVec 16
  origin   : Nat
  width    : Nat
  height   : Nat
  codeBase : Nat
  codeLen  : Nat
  scratch  : Nat × Nat
  chan     : Option Nat
  chain    : Option Word
  cont     : Option (Nat × Nat)
  awaitSide : Option Side
  retts    : List (Word × Option (List Byte))
  barrier  : Option Nat
  stop     : Option StopWhy
  culprit  : Option (Nat × Side)
  halting  : Bool
  haltAt   : Nat
  deriving DecidableEq, Repr

/-- A task record (R174) with its slot's generation (R22), the furrow it became ready in (R161), references in flight
(R176) and the staging entry it holds (R157). -/
structure TaskRec where
  gen   : BitVec 16
  w     : Vector Word 16
  ready : Nat
  refs  : Nat
  stage : Option Nat
  deriving DecidableEq, Repr

/-- A continuation record (R183) and what the module keeps beside it: whether its wait is met, whether it waits for its
context to run again (R222; a FREE record: whether it is reserved, R397); st, PXCTR and c0–c7 where its resumption restores them (R218, R222, R393); the pending
operations that report to its completion registers (R182, R222); rebuild futures it waits for (R209); the trap it resumes
with (R185, R202); the run whose far channels it goes on with (R152, R222); the context of one that no task has (R219); the references to it in
flight (R22). -/
structure ContRec where
  gen   : BitVec 16
  w     : Vector Word 24
  met   : Bool
  held  : Bool
  st    : Option (BitVec 16 × BitVec 16)
  pxctr : Option (BitVec 128)
  cregs : Option (Vector Word 8)
  ops   : List (Nat × Nat)
  rebuild : List Word
  trap  : Option (BitVec 8 × BitVec 8)
  from_ : Option Nat
  ctx   : Option Nat
  refs  : Nat
  deriving DecidableEq, Repr

/-- What a Granary cell is (R370); a freed cell is DRAINING while references are in flight (R22, R371). -/
inductive CellKind where
  | free
  | draining
  | plain
  | future
  | header
  | contrib
  deriving DecidableEq, Repr

/-- A Granary cell (R185–R188, R370): its two words; the context and the run of cells it belongs to; the waiters of a
counter or header (R186); the presence bits of a contribution cell (R188); poison of the cell itself (R267); the references to
its run in flight, counted in the first cell (R22). -/
structure Cell where
  gen      : BitVec 16
  kind     : CellKind
  w0       : Word
  w1       : Word
  ctx      : Nat
  first    : Nat
  len      : Nat
  waiters  : List Word
  present  : BitVec 4
  poison   : Bool
  refs     : Nat
  deriving DecidableEq, Repr

/-- A frame descriptor (R193) with its pages in the order the frame took them (R394) and the parts of copies that still
have to read it (R50, R195); whether it holds a reference on its parent (R196); while it is COMPACTING, w2 and w3 as they stood
when it was last OPEN (R202). -/
structure Frame where
  gen   : BitVec 16
  w     : Vector Word 8
  pages : List Word
  refs  : Nat
  holds : Bool
  was   : Option (Word × Word)
  deriving DecidableEq, Repr

/-- A fibre record (R172), its held LANDING-OVERFLOW event: tile and counter (R219), and the cycle and task index of the last
run that wrote PXCTR back (R173). -/
structure Fibre where
  w    : Vector Word 8
  held : Option (Nat × Nat)
  wrote : Option (Nat × Nat)
  deriving DecidableEq, Repr

/-- A beam set (R204): the context it is assigned to and its 64 slots. -/
structure BeamSet where
  ctx   : Nat
  slots : Vector Word 64
  deriving DecidableEq, Repr

/-- A staging entry (R157): its key, the bytes fetched so far, the 64-byte lines left to fetch, and whether all are there. -/
structure Stage where
  ctx   : Nat
  base  : Nat
  len   : Nat
  mem   : List Host.Cell
  left  : List Nat
  done  : Bool
  deriving DecidableEq, Repr

/-- A booking (R159) of a task record: origin, gang, mask, start and end furrow, lead, barrier channel, whether its
standby transfer has begun and whether it has started or retired (with the furrow it retired in). -/
structure Booking where
  die    : Nat
  idx    : Nat
  origin : Nat
  width  : Nat
  height : Nat
  mask   : BitVec 16
  start  : Nat
  stop   : Nat
  lead   : Nat
  chan   : Option Nat
  scratch : Nat × Nat
  begun  : Bool
  started : Bool
  gone   : Bool
  deriving DecidableEq, Repr

/-- A band of a die (R245). -/
inductive Band where
  | cold
  | cool
  | warm
  | hot
  deriving DecidableEq, Repr

/-- One field die: its pools by slot, its staging entries, its page pools by context (KVPOOL, KVFREE, R195), ALMSTAT
(R170), the walkers' cache of non-leaf entries (R30: context, level, index, entry), its sensors (R244) with the reference
time since which every sample lay below the limit to cool (R245), its band, the timing set of its controllers
with a switch that is due (R248), whether they refresh (R247), the barrier trees in service, those whose deliveries have bad parity, and
those that have disagreed with the other, with the reference time (R267), and the records that a double error has failed, each as a class
and an index (R267): a handle's class, a prefix entry's index being 64 · context + entry; 6 a fibre record; 7 a beam set; 8, on die 0, a
parameter register, 64 · context + n (log entry 103). -/
structure Die where
  tasks  : List (Nat × TaskRec)
  conts  : List (Nat × ContRec)
  cells  : List (Nat × Cell)
  frames : List (Nat × Frame)
  fibres : List (Nat × Fibre)
  beams  : List (Nat × BeamSet)
  stages : List (Nat × Stage)
  pools  : List (Nat × Word × Word)
  almstat : Word
  walkCache : List (Nat × Nat × Nat × Word)
  sensors : List Nat
  tempsense : Word
  band   : Band
  coolSince : Option Nat
  warmSet : Bool
  switchBy : Option Nat
  refresh : Bool
  trees  : BitVec 2
  treeBad : BitVec 2
  odd    : List (Nat × Nat)
  spoiled : List (Nat × Nat)
  deriving DecidableEq, Repr

/-! ## Translation, controllers, far memory -/

/-- Where a VA page leads (R27): target space, physical page, remote module, and the key-table entry. -/
structure Trans where
  target : Nat
  ppn    : Nat
  module : Nat
  keyId  : Nat
  w      : Bool
  rd     : Bool
  x      : Bool
  dirty  : Bool
  window : Option (Word × Nat)
  deriving DecidableEq, Repr

/-- A TLB entry (R30): context, base VA page, pages covered, G, and the translation of its first page. -/
structure TlbEntry where
  ctx    : Nat
  page   : Nat
  pages  : Nat
  global : Bool
  tr     : Trans
  deriving DecidableEq, Repr

/-- An entry of a controller's key table (R230), with the key it holds. -/
structure KeyEntry where
  valid : Bool
  ctx   : BitVec 4
  key   : Nat
  deriving DecidableEq, Repr

/-- A memory controller with its drill (R15, R30, R230, R258): TLB, key table, the bytes each context has had served
in the current furrow (R58), and its count of correctable errors (R35). -/
structure Ctrl where
  tlb   : List TlbEntry
  keys  : Vector KeyEntry 16
  spent : List (Nat × Nat)
  corrected : Nat
  deriving DecidableEq, Repr

/-- Far memory spaces (R23). -/
inductive Space where
  | tier
  | host
  | remote (module : Nat)
  deriving DecidableEq, Repr

/-- A performed far write of at most 8 bytes that is not yet visible at system level (R142): its issuer, the stream of its
operation (16 for a walk, which has none) and its level, 0 tile to 5 system. -/
structure FarWrite where
  id    : Nat
  op    : Nat
  run   : Nat
  side  : Side
  stream : Nat
  space : Space
  addr  : Nat
  bytes : List Byte
  key   : Nat
  tile  : Nat
  level : Nat
  deriving DecidableEq, Repr

/-- The engine operations (R133). -/
inductive OpKind where
  | cpy
  | cpyw
  | cpym
  | cpyf
  | hwalk
  | fld
  | fst
  deriving DecidableEq, Repr

/-- How far a part is: not sent, sent and untranslated or being served, failed (kind and VA), stopped on a REBUILDING
page, dropped by cancellation, finished. -/
inductive PartPhase where
  | unsent
  | live
  | failed (kind : Nat) (va : Word)
  | rebuild (frame : Word) (entry : Nat)
  | dropped
  | done
  deriving DecidableEq, Repr

/-- A part of a copy (R43), a tile of a walk (R52), or the one access of FLD or FST.  `va` is its first far address, `off`
its offset in the copy's far range; `trans` its translations by VA page; `got` the pieces read with their data;
`put` the far pieces written; `landed` the (member, granule) landings made; `read` the source granules port B read;
`accepted` the members that accepted it; `bad` the pages that a walk's tile failed on, each with the kind and its lowest VA
(R34); `image` the field bytes that a write of far memory reads, as they stood at their place in the tile's order (R138, R308);
`since` the reference time of its first send on a link port and `nums` its sequence number, each by target module (R266). -/
structure Part where
  va       : Nat
  bytes    : Nat
  off      : Nat
  rot      : Bool
  phase    : PartPhase
  trans    : List (Nat × Trans)
  got      : List (Nat × Word)
  put      : List Nat
  landed   : List (Nat × Nat)
  read     : List Nat
  accepted : List Nat
  sent     : Nat
  port     : Option Nat
  bad      : List (Nat × Nat × Nat)
  image    : Nat
  since    : List (Nat × Nat)
  nums     : List (Nat × Nat)
  deriving DecidableEq, Repr

/-- A credit an operation made (R47, R56): the counter, its generation and LNDSET count then, the bytes, and the granule. -/
structure Credit where
  tile  : Nat
  addr  : Nat
  gen   : BitVec 16
  reset : Nat
  bytes : Nat
  granule : Nat
  deriving DecidableEq, Repr

/-- A harrow walk (R51–R54): whether it runs, the number of the next tile of a fetch walk, the permits held, the permits
recorded while it was queued (R307), how many tiles each slot has begun, the slots FILLING or DRAINING, the tiles left to
finish, and the counter generation each DRAINING slot began with (R53).  A slot of one member is named by slot + 65536 · tile id. -/
structure Walk where
  running : Bool
  next    : Nat
  permits : List Nat
  early   : List Nat
  begun   : List (Nat × Nat)
  busy    : List Nat
  left    : Nat
  gens    : List (Nat × Nat)
  deriving DecidableEq, Repr

/-- An engine operation (R133, R138, R301): its kind, issuer and completion register; the image of its descriptor; stream,
scope, acquire and release (R144); its place in its strand's channels; the tile's store-buffer mark at issue
(R63, R137); a CPYF's frame, position base, first token and plane (R50); its parts; what it credited and landed; cancellation (R56, R57). -/
structure Op where
  kind    : OpKind
  tile    : Nat
  side    : Side
  run     : Nat
  ctx     : Nat
  fibre   : BitVec 16
  creg    : Nat
  desc    : List Word
  issue   : Nat
  seq     : Nat
  sbMark  : Nat
  length  : Nat
  src     : Nat
  dst     : Nat
  rotDst  : Option Nat
  counter : Option Nat
  stream  : Nat
  scope   : Nat
  acquire : Bool
  release : Bool
  members : List Nat
  frame   : Option (Word × Nat × Nat)
  plane   : Nat
  sendAt  : Nat
  value   : Word
  parts   : List Part
  credits : List Credit
  landed  : Nat
  cancel  : Bool
  spilled : Bool
  walk    : Option Walk
  deriving DecidableEq, Repr

/-- A FENCE marker set (R144): the strand, its place among the strand's far operations, the stream mask and the scope. -/
structure FenceMark where
  tile  : Nat
  side  : Side
  run   : Nat
  seq   : Nat
  mask  : BitVec 16
  scope : Nat
  deriving DecidableEq, Repr

/-! ## Requests on their way -/

/-- A home-unit request with its operands as read at issue (R363); `read` is the trap that a RETT's read of its image meets. -/
inductive HomeOp where
  | gatom   (fn : Nat) (h v : Word) (d : Nat)
  | gcas    (h expected new : Word) (d : Nat)
  | gred    (h v : Word) (d : Nat)
  | futw    (h v : Word)
  | futr    (h : Word) (x pf : Nat) (cont : Option Nat)
  | salloc  (req : Word) (d pf : Nat)
  | sfree   (h : Word)
  | gparam  (n d : Nat)
  | gpset   (n : Nat) (v : Word)
  | await   (x0 x1 : Word) (x pf : Nat) (cont : Option Nat)
  | tclaim  (d pf : Nat)
  | tpatch  (h k v : Word)
  | tarm    (h : Word)
  | tfree   (h : Word)
  | signal  (h : Word)
  | chain   (h : Word)
  | book    (h : Word) (d : Nat)
  | rett    (save h : Word) (image : Option (List Byte)) (read : Option (BitVec 8 × BitVec 8 × Word))
  | fpush   (x : Vector Word 6) (d : Nat)
  | fret    (x : Word) (d : Nat)
  | fshare  (h : Word)
  | fdrop   (h : Word)
  | fappend (tok : Word) (d : Nat)
  | fcompact (h sel : Word) (pf : Nat) (cont : Option Nat)
  | finfo   (h sel : Word) (d : Nat)
  | beammap (x : List Word)
  | pfxlook (va b fut : Word)
  | pfxput  (n frame hash depth : Word)
  | pfxpin  (h : Word) (d : Nat)
  | pfxunpin (h : Word)
  deriving DecidableEq, Repr

/-- What a performed home-unit request answers: a trap (code, subcode, address), results to write, and whether the strand
ends (R178). -/
structure HomeReply where
  trap : Option (BitVec 8 × BitVec 8 × Word)
  res  : List ResVal
  ends : Bool
  deriving DecidableEq, Repr

/-- A home-unit request under way (R363, R364): who issued it and when; a check that the tile's own operands fail (R365
steps 2 and 3); the live registers of both strands at issue (R183); whether it is a release form; the cycles from its
sending to its performance, verdict and result; the cycle it was sent in, none while a release form waits (R149) for
the stores older than `sbMark`; its reply once it is performed. -/
structure HomeReq where
  tile    : Nat
  side    : Side
  run     : Nat
  op      : HomeOp
  issue   : Nat
  bad     : Option (BitVec 8 × BitVec 8 × Word)
  live    : Nat
  release : Bool
  reach   : Nat
  cost    : Nat
  lat     : Nat
  sentAt  : Option Nat
  sbMark  : Nat
  reply   : Option HomeReply
  deriving DecidableEq, Repr

/-- A walk of a future's waiting list after FUTW (R185, R374): the next waiter, the value; poison resumes TRAPPED. -/
structure WaitWalk where
  head  : Word
  value : Word
  poison : Bool
  deriving DecidableEq, Repr

/-- A handler to arm once the pending operations of a trapped task have completed (R214 steps 5 and 6, R219): the fibre and
context, the operations waited for, w8–w11, the origin, the field address of the saves with the tiles that hold one, the
trapped task, whether it is a debug stop, which arms no handler (R241), and whether the handler is placed at the origin (R38). -/
structure Handler where
  fibre  : BitVec 16
  ctx    : Nat
  ops    : List Nat
  w8     : Word
  w9     : Word
  w10    : Word
  w11    : Word
  origin : Nat
  saveAt : Nat
  saved  : List Nat
  self   : Word
  debug  : Bool
  place  : Bool
  deriving DecidableEq, Repr

/-- Row moves of a FRET (R201): rows still to move, each a source and a destination VA, the callee they come from and the
frame that receives them. -/
structure FretJob where
  ctx   : Nat
  moves : List (Word × Word)
  from_ : Word
  into  : Word
  seq   : Nat
  deriving DecidableEq, Repr

/-- A compaction (R202): die, frame index, fibre, continuation, whether the list has been read, whether a page fault has
stopped it (R203), the lines of the row in progress that have been moved, and the continuations of earlier FCOMPACTs of the frame, whose
waits are met with its own (R183). -/
structure CompactJob where
  die   : Nat
  frame : Nat
  fibre : BitVec 16
  cont  : Word
  list  : Option (List Nat)
  halted : Bool
  step  : Nat
  conts : List Word
  deriving DecidableEq, Repr

/-- A KV rebuild under way (R209): context, frame, page-list entry, the fresh page, the future it waits for. -/
structure RebuildJob where
  ctx   : Nat
  frame : Word
  entry : Nat
  page  : Word
  fut   : Word
  deriving DecidableEq, Repr

/-- An invalidation under way (R32, R33): requester (a service core's mailbox, or none for the reeve), context, page (none:
by tenant), whether entries with G go too, the drills and walkers it has reached, the parts it waits for, and the VA pages of
private host pages whose translations it has removed (R238). -/
structure Invalidation where
  core    : Option (Nat × Nat)
  ctx     : Nat
  va      : Option Word
  withG   : Bool
  arrived : List Nat
  waits   : List (Nat × Nat)
  refuse  : List Nat
  deriving DecidableEq, Repr

/-- A mesh message that its router has not delivered (R228): the sender's context (none: the reeve's tag), the
destination tile, the part it stands for. -/
structure Message where
  ctx  : Option Nat
  tile : Nat
  op   : Nat
  part : Nat
  deriving DecidableEq, Repr

/-! ## Contexts, host, module -/

/-- A token ring (R261, R263): its two words, the signalled value, the reference time its timer expires at, and the last
tail value seen. -/
structure Tring where
  w0    : Word
  w1    : Word
  q     : Word
  timer : Option Nat
  seen  : Word
  deriving DecidableEq, Repr

/-- An entry of the prefix table (R205) with its generation (R22). -/
structure PrefixEnt where
  gen : BitVec 16
  w   : Vector Word 4
  deriving DecidableEq, Repr

/-- A prefix lookup (R207): context, prompt VA, blocks, future, and the table as it stands at the lookup's place (R388). -/
structure LookupJob where
  ctx : Nat
  va  : Word
  b   : Nat
  fut : Word
  table : List (Nat × PrefixEnt)
  deriving DecidableEq, Repr

/-- TDISP interface states (R237). -/
inductive Tdisp where
  | unlocked
  | locked
  | run
  deriving DecidableEq, Repr

/-- How far a pre-emption is (R224, R225, R232): asked for; running since a boundary, with the boundary at which a teardown takes or has
taken effect; a teardown whose invalidation is under way with the key, the key-table entries (controller, key id) and the window entries it has cleared, spilled, or stopped by a fault
of its spill. -/
inductive PreState where
  | none
  | asked (teardown : Bool)
  | running (teardown : Option Nat) (since : Nat)
  | dying (inval key : Nat) (entries : List (Nat × Nat × KeyEntry)) (windows : List (Nat × Word × Word))
  | spilled
  | spillFault
  deriving DecidableEq, Repr

/-- A tile of a context in its spill (R74): its virtual tile number, its place in the spill area and the key that its pages there
are enciphered under (R223), the leased units, the key of each granule, the granules that could not be rebuilt. -/
structure SpillTile where
  tile  : Nat
  vtile : BitVec 10
  place : Nat
  key   : Nat
  lease : List (Nat × BitVec 16)
  keys  : List (Nat × Nat)
  dead  : List Nat
  deriving DecidableEq, Repr

/-- A tenant context's registers and tables, with its pre-emption: who asked for it, whether it began from a spill fault, and the bookings
it has taken back (R224, R260), and the window entries that its assignment has written and whose writes are not complete (R229, R236) (R25, R58, R162, R187, R189, R205, R209, R223, R229, R234, R237, R239, R240,
R250, R261). -/
structure Ctx where
  live    : Bool
  key     : Nat
  xlroot  : Word
  rotbase : Word
  tbudget : Word
  prectl  : Word
  rktab   : Word
  qpri    : Word
  gftab   : Word
  bandfut : Word
  kvrb    : Word
  tring   : Vector Tring 4
  gp      : Vector Word 64
  dbgbp   : Vector Word 4
  dbgctl  : Word
  pfx     : List (Nat × PrefixEnt)
  tdisp   : Tdisp
  session : Bool
  pre     : PreState
  preCore : Option (Nat × Nat)
  retry   : Bool
  unbooked : List Booking
  opening : List Nat
  spill   : List SpillTile
  deriving DecidableEq, Repr

/-- A request the host sends a service core (R258, R257): a mailbox whose go was written, over a context's stream or the
reeve's (none), or a CXL.mem access. -/
inductive HostReq where
  | mail (slot : Nat) (stream : Option Nat)
  | read (pa n : Nat)
  | write (pa : Nat) (bytes : List Byte)
  deriving DecidableEq, Repr

/-- A service core (R258–R260): its eight mailboxes, its queue of accepted requests, the mailbox command being performed
with its stream, the commands it has begun and not completed, and the reference time its watchdog expires at. -/
structure Core where
  mail  : Vector (Vector Word 8) 8
  queue : List HostReq
  cur   : Option (Nat × Option Nat)
  open_ : List Nat
  deriving DecidableEq, Repr

/-- One direction of a module-link port (R233, R264): the next packet sequence number, the key in use, the sequence number a new key
applies from with that key, and the reference time since which its flits have failed. -/
structure LinkDir where
  seq   : Nat
  key   : Nat
  rekey : Option (Nat × Nat)
  since : Option Nat
  deriving DecidableEq, Repr

/-- What a packet carries: a line of a part of this module's own (operation, part, line), a part passed on for another module, the
answer to a part that has arrived (the asking module, the part's sequence number, fault kind, bytes), or a line that the Sheaf, a row
move or staging accesses (module, address there) (R23, R236, R265). -/
inductive LinkItem where
  | line (op part line : Nat)
  | forward (part : RemotePart)
  | answer (source seq kind : Nat) (bytes : List Byte)
  | access (module pa : Nat)
  deriving DecidableEq, Repr

/-- A packet that has been sent and is not acknowledged: its sequence number, the key that enciphers it, what it carries (R233, R264). -/
structure Packet where
  seq  : Nat
  key  : Nat
  item : LinkItem
  deriving DecidableEq, Repr

/-- A module-link port (R233, R264–R266): up, its two directions, the packets in its replay buffer, oldest first, what waits for a place
there, the bytes each context sent in this furrow (R58). -/
structure LinkPort where
  up     : Bool
  tx     : LinkDir
  rx     : LinkDir
  replay : List Packet
  queue  : List LinkItem
  spent  : List (Nat × Nat)
  deriving DecidableEq, Repr

/-- A part of another module as the drill of its page holds it (R58, R236): the entry it was checked against on arrival, the fault kind of
that check, whether the entry has been written since, the lines served and the bytes read. -/
structure RemoteJob where
  part  : RemotePart
  entry : Word × Word
  kind  : Option Nat
  old   : Bool
  lines : Nat
  got   : List Byte
  deriving DecidableEq, Repr

/-- The MSI-X capability of a host port's function (R258): its Enable and Function Mask bits, the vectors whose Mask bit is
0, the vectors whose Pending bit is 1. -/
structure MsixFn where
  enable  : Bool
  fnMask  : Bool
  open_   : List Nat
  pending : List Nat
  deriving DecidableEq, Repr

/-- States of the module (R251). -/
inductive MState where
  | off
  | chill
  | soak
  | train
  | configOpen
  | configLocked
  | run
  | retreat
  | drain
  | park
  | warm
  deriving DecidableEq, Repr

/-- What the module sends out: an MSI-X message (R258, R263), a mailbox completion (R258), reports to the host
(R203, R216, R224), attestation and TDISP reports (R237, R243), a CXL.mem answer, a snoop answer (R257), a debug answer
(R241), entries of the reeve's log (R228, R254, R267), packets and key exchanges on links (R233), and to the reeve the completion of an
invalidation it asked for (R33) and of a write of a window entry (R236). -/
inductive Output where
  | msix (port vector : Nat)
  | mailDone (core slot : Nat) (status : Nat)
  | fibreFault (core : Nat) (w8 w9 w10 w11 : Word)
  | compactionFault (core : Nat) (frame va : Word)
  | spillFault (ctx : Nat)
  | preempted (ctx : Nat)
  | resumed (ctx : Nat)
  | tornDown (ctx : Nat)
  | report (bytes : List Byte)
  | keysSpent (ctx : Nat)
  | tdispReport (ctx : Nat) (clusters : List (Nat × Nat))
  | cxlData (core : Nat) (bytes : List Byte)
  | cxlDone (core : Nat)
  | cxlFailed (core : Nat)
  | snoopInvalid (port addr : Nat)
  | debugData (ctx : Nat) (value : Word)
  | noSession (ctx : Nat)
  | logDiscard (tile : Nat)
  | logCfg (reg : Word)
  | logTree (die tree : Nat)
  | errstat (core : Nat) (value : Word)
  | remoteReply (source : Nat) (seq : Nat) (kind : Nat) (bytes : List Byte)
  | remoteForward (port : Nat) (part : RemotePart)
  | kexLink (port : Nat) (out : Bool) (seq : Nat)
  | linkPacket (port : Nat) (nonce : BitVec 96) (key : Nat) (item : LinkItem)
  | invalidated (ctx : Nat) (va : Option Word)
  | windowWritten (n : Nat)
  deriving DecidableEq, Repr

/-- What happens outside and reaches the module at a given reference time: a step the outside asks for, a go write to a
mailbox, a CXL.mem request, readings of sensors, flow and power, host memory written by the host, damage, an
answer of a link, a write to a function's MSI-X control bits or to a vector's Mask bit (R258), a write that another module
performs in a second tier beyond this module, what a remote window answers (R236: fault kind, 0 where it serves), an
invalidation the reeve requests (R32), an error in the result whose residue check is the nth under way (R391), and a barrier tree whose
deliveries have bad parity or good parity again (R267). -/
inductive Input where
  | event (i : Instr)
  | go (core slot : Nat) (words : Vector Word 8) (stream : Option Nat)
  | request (core : Nat) (r : HostReq)
  | sensors (die : Nat) (k16 : List Nat)
  | flow (centigrams : Nat)
  | power (watts : Nat)
  | hostWrite (pa : Nat) (bytes : List Byte)
  | remoteWrite (module pa : Nat) (bytes : List Byte)
  | remoteWindow (module window kind : Nat)
  | reeveInvalidate (ctx : Nat) (va : Option Word)
  | fieldError (tile granule : Nat) (dead : Bool)
  | lineError (line : Nat) (symbols : Nat)
  | cellError (die idx : Nat)
  | recordError (die cls idx : Nat)
  | sramError
  | residueError (tile n : Nat)
  | treeFault (die tree : Nat) (bad : Bool)
  | msixControl (port : Nat) (enable fnMask : Bool)
  | msixVector (port vector : Nat) (mask : Bool)
  deriving DecidableEq, Repr

/-- What the step does next within a cycle: an event while it is enabled, or the issue of a strand's next word. -/
inductive Turn where
  | ev (i : Instr)
  | issue (k : Nat) (σ : Side)
  | mx (k : Nat)
  | plan (phase : Nat)
  deriving DecidableEq, Repr

/-- Locked configuration (R254): BANDTH, the two timing sets, module id and port enables, the host-port configuration
with the HDM range (R257), the power limit (R255), LROUTE (R265). -/
structure LockedCfg where
  bandth   : Word
  timing   : Word × Word
  moduleId : BitVec 12
  ports    : BitVec 16
  hostPort : Word
  hdm      : Nat × Nat
  power    : Nat
  lroute   : List (Nat × BitVec 16)
  deriving DecidableEq, Repr

/-- Firmware and keys of the reeve (R242, R243): the image that runs, an update waiting for the next power-on, the fused
minimum version, the next one-time key, whether the boot verification has been made and has passed. -/
structure Reeve where
  image    : Option Image
  update   : Option Image
  fusedMin : Nat
  q        : Nat
  tried    : Bool
  bootOk   : Bool
  nextKey  : Nat
  deriving DecidableEq, Repr

/-- The whole module.

`cycle` counts the module's cycles from the first entry to RUN (R153), `time` is the reference clock in units of one
COLD cycle (R7, R244); `choice` counts the free choices made and `seq` the far and field operations numbered so far.
`poison` holds the second-tier pages marked POISON, `soft` and `hard` the lines with a correctable and with an uncorrectable
error that no read has met yet, each with the 8-byte pieces written over since (R35); `remotes` the second tiers of other
modules by module id and `refusing` the windows there that refuse this module's parts, with the fault kind (R23, R236);
`remoteSeq` and `remoteHeld` are the next sequence number of each incoming stream and the parts that have arrived and are not served,
`windowWrites` the window entries whose write is not complete (R236), `linkSeq` the next number of each outgoing stream (R266);
`selfRefresh` says that the second tier is in self-refresh (R253); `waiting` the moves (none: the tick of the clock) that are enabled and not yet taken, with the number of the choice since when (R135); `who` is the strand in focus while a word is executed, `todo` what is left to do in this cycle, `inputs` what the
outside will do.  The rest is the spec's own state. -/
structure State where
  cycle    : Nat
  time     : Nat
  clockOn  : Bool
  everRun  : Bool
  choice   : Nat
  seq      : Nat
  waiting  : List (Option Instr × Nat)
  who      : Option (Nat × Side)
  todo     : List Turn
  inputs   : List (Nat × Input)
  sent     : List Output
  tiles    : List (Nat × Tile)
  dies     : Vector Die 4
  ctxs     : Vector Ctx 16
  ctrls    : Vector Ctrl 24
  cores    : Vector Core 16
  msix     : Vector MsixFn 2
  links    : Vector LinkPort 16
  runs     : List (Nat × Run)
  bookings : List Booking
  ops      : List (Nat × Op)
  fences   : List FenceMark
  writes   : List FarWrite
  tier     : List Host.Cell
  tierKeys : List (Nat × Nat)
  host     : List Host.Cell
  remotes  : List (Nat × List Host.Cell)
  refusing : List ((Nat × Nat) × Nat)
  hostPriv : List Nat
  poison   : List Nat
  soft     : List (Nat × Nat)
  hard     : List (Nat × Nat)
  homes    : List (Nat × HomeReq)
  walks    : List (Nat × WaitWalk)
  handlers : List (Nat × Handler)
  frets    : List (Nat × FretJob)
  compacts : List (Nat × CompactJob)
  lookups  : List (Nat × LookupJob)
  rebuilds : List (Nat × RebuildJob)
  invals   : List (Nat × Invalidation)
  messages : List (Nat × Message)
  wintab   : Vector (Word × Word) 64
  remoteSeq : List ((Nat × Nat) × Nat)
  remoteHeld : List RemoteJob
  windowWrites : List Nat
  linkSeq  : List ((Nat × Nat) × Nat)
  harrowSpent : List ((Nat × Nat) × Nat)
  hostSpent : List ((Nat × Nat) × Nat)
  mstate   : MState
  cause    : BitVec 8
  since    : Option Nat
  flowLow  : Option Nat
  drainCmd : Bool
  selfRefresh : Bool
  bandReg  : Word
  clockSlow : Bool
  errstat  : Word
  coolflow : Word
  flow     : Nat
  power    : List Nat
  powerNow : Nat
  holdBook : Bool
  cfg      : LockedCfg
  reeve    : Reeve
  freeCount : Nat
  deriving DecidableEq, Repr

/-! ## Reset -/

/-- A strand that runs nothing. -/
def Regs.reset : Regs :=
  { s := Vector.replicate 32 0#64, p := 0#8, l := Vector.replicate 8 0#64, st := 0#16, platch := 0#128, live := 0#32,
    pc := 0#64, runPc := 0#64, loops := [], out := [] }

def Strand.reset : Strand :=
  { regs := Regs.reset, phase := .off, readyAt := 0, verdicts := [], undo := none, home := none, restart := none, zerof := none,
    waitb := false, issued := false }

def Queue.reset : Queue := { ents := [], popCycle := 0, popCount := 0 }
def Port.reset : Port := { ents := [], flight := [], popCycle := 0, popCount := 0 }
def OutQueue.reset : OutQueue := { ents := [], popCycle := 0, popCount := 0 }

def Mx.reset : Mx :=
  { queue := [], run := none, owed := [], flags := [], acc := Vector.replicate 4 0#32768, m := 0#1024, l := 0#1024, nextId := 1 }

def Bank.reset : Bank := { base := 0, len := 0, mem := [] }

def Field.reset : Field :=
  { mem := [], keys := [], tags := [], flight := [], worn := [], dead := [], lease := [], held := [], resets := [] }

/-- The reset value of ASCALE (R123). -/
def ascaleReset : Word := 0x3E0293EE#64

/-- A tile after reset: unassigned, no key, nothing running. -/
def Tile.reset : Tile :=
  { owner := none, keyOk := false, vtile := 0#10, fsctx := 0#4, key := 0, run := none, rank := 0, a := Strand.reset,
    e := Strand.reset, w := Vector.replicate 8 none, c := Vector.replicate 8 0#64, v := Vector.replicate 28 0#2048,
    cb := Vector.replicate 4 0#256, fd := Vector.replicate 4 0#128, ascale := ascaleReset, fplane := 0#64,
    pxseed := 0#64, pxctr := 0#128, lq := Vector.replicate 4 Queue.reset, sq := Vector.replicate 2 Queue.reset,
    mA := Port.reset, mB := Port.reset, oqAE := OutQueue.reset, oqEA := OutQueue.reset, sb := [], nextId := 1,
    mx := Mx.reset, feedA := none, feedB := none, store := Bank.reset, standby := none, arrived := false,
    uses := [], jmptAt := none, point := none, checks := [], residue := none, poisonA := none, poisonE := none,
    before := none, field := Field.reset }

def TaskRec.reset : TaskRec := { gen := 0#16, w := Vector.replicate 16 0#64, ready := 0, refs := 0, stage := none }

def ContRec.reset : ContRec :=
  { gen := 0#16, w := Vector.replicate 24 0#64, met := false, held := false, st := none, pxctr := none,
    cregs := none, ops := [], rebuild := [], trap := none, from_ := none, ctx := none, refs := 0 }

def Cell.reset : Cell :=
  { gen := 0#16, kind := .free, w0 := 0#64, w1 := 0#64, ctx := 0, first := 0, len := 0, waiters := [], present := 0#4, poison := false,
    refs := 0 }

def Frame.reset : Frame := { gen := 0#16, w := Vector.replicate 8 0#64, pages := [], refs := 0, holds := false, was := none }
def Fibre.reset : Fibre := { w := Vector.replicate 8 0#64, held := none, wrote := none }

/-- A die after reset.  Its band field reads 3 (R246: BAND resets to 0xFF in [9:2] and 0b11 in [1:0]). -/
def Die.reset : Die :=
  { tasks := [], conts := [], cells := [], frames := [], fibres := [], beams := [], stages := [], pools := [],
    almstat := 0#64, walkCache := [], sensors := [], tempsense := 0#64, band := .hot, coolSince := none,
    warmSet := false, switchBy := none, refresh := false, trees := 3#2, treeBad := 0#2, odd := [], spoiled := [] }

def KeyEntry.reset : KeyEntry := { valid := false, ctx := 0#4, key := 0 }
def Ctrl.reset : Ctrl := { tlb := [], keys := Vector.replicate 16 KeyEntry.reset, spent := [], corrected := 0 }
def Tring.reset : Tring := { w0 := 0#64, w1 := 0#64, q := 0#64, timer := none, seen := 0#64 }

/-- A context after reset: TBUDGET without limits (R58), a deadline of 4 furrows (R223), every queue following the record's
priority (R162). -/
def Ctx.reset : Ctx :=
  { live := false, key := 0, xlroot := 0#64, rotbase := 0#64, tbudget := 0xFFFFFFFFFFFFFFFF#64, prectl := 4#64,
    rktab := 0#64, qpri := 0x0000924924924924#64, gftab := 0#64, bandfut := 0#64, kvrb := 0#64,
    tring := Vector.replicate 4 Tring.reset, gp := Vector.replicate 64 0#64, dbgbp := Vector.replicate 4 0#64,
    dbgctl := 0#64, pfx := [], tdisp := .unlocked, session := false, pre := .none, preCore := none, retry := false,
    unbooked := [], opening := [], spill := [] }

def Core.reset : Core :=
  { mail := Vector.replicate 8 (Vector.replicate 8 0#64), queue := [], cur := none, open_ := [] }

/-- A function's MSI-X capability as PCIe resets it: disabled, every vector masked (log entry 46). -/
def MsixFn.reset : MsixFn := { enable := false, fnMask := false, open_ := [], pending := [] }

def LinkDir.reset : LinkDir := { seq := 0, key := 0, rekey := none, since := none }
def LinkPort.reset : LinkPort := { up := false, tx := LinkDir.reset, rx := LinkDir.reset, replay := [], queue := [], spent := [] }

/-- Locked configuration after reset: BANDTH as R245 gives it, the power limit at its largest value (log entry 8). -/
def LockedCfg.reset : LockedCfg :=
  { bandth := 0x00200C8008C005F0#64, timing := (0#64, 0#64), moduleId := 0#12, ports := 0#16, hostPort := 0#64,
    hdm := (0, 0), power := 2000, lroute := [] }

/-- The reeve after manufacture: no signature used, no update waiting, an image that verifies (log entry 8). -/
def Reeve.reset : Reeve :=
  { image := some { signed := true, version := 0, hash := 0#256, whole := true }, update := none, fusedMin := 0, q := 0,
    tried := false, bootOk := false, nextKey := 1 }

/-- The module right after reset: OFF (R251), nothing booked, every pool free, memory with nothing listed. -/
def State.reset : State :=
  { cycle := 0, time := 0, clockOn := false, everRun := false, choice := 0, seq := 1, waiting := [], who := none, todo := [],
    inputs := [], sent := [], tiles := [], dies := Vector.replicate 4 Die.reset,
    ctxs := Vector.replicate 16 Ctx.reset, ctrls := Vector.replicate 24 Ctrl.reset,
    cores := Vector.replicate 16 Core.reset, msix := Vector.replicate 2 MsixFn.reset, links := Vector.replicate 16 LinkPort.reset, runs := [], bookings := [],
    ops := [], fences := [], writes := [], tier := [], tierKeys := [], host := [], remotes := [], refusing := [], hostPriv := [], poison := [],
    soft := [], hard := [], homes := [], walks := [], handlers := [], frets := [], compacts := [], lookups := [], rebuilds := [],
    invals := [], messages := [], wintab := Vector.replicate 64 (0#64, 0#64), remoteSeq := [], remoteHeld := [], windowWrites := [], linkSeq := [], harrowSpent := [],
    hostSpent := [], mstate := .off, cause := 0#8, since := none, flowLow := none, drainCmd := false, selfRefresh := false,
    bandReg := 0x3FF#64, clockSlow := false, errstat := 0#64, coolflow := 0#64, flow := 0, power := [], powerNow := 0,
    holdBook := false, cfg := LockedCfg.reset, reeve := Reeve.reset, freeCount := 0 }

end Sys2Proof.Machine
end

