-- ==== Sys2Proof/Machine/Base.lean ====
section
/-!
DEFINITION. Sys2Proof/Machine/Base.lean: lists with rising keys, byte memories in canonical form, bit fields, lanes, and
the accessors of the module's parts.
-/
namespace Sys2Proof.Machine

/-! ## Lists with rising keys -/

/-- The value under key `k`. -/
def mget (m : List (Nat × α)) (k : Nat) : Option α :=
  match m with
  | [] => none
  | (j, x) :: r => if j = k then some x else mget r k

/-- `m` with `x` under key `k`. -/
def mput (m : List (Nat × α)) (k : Nat) (x : α) : List (Nat × α) :=
  match m with
  | [] => [(k, x)]
  | (j, y) :: r => if k < j then (k, x) :: (j, y) :: r else if k = j then (k, x) :: r else (j, y) :: mput r k x

/-- `m` without key `k`. -/
def mdel (m : List (Nat × α)) (k : Nat) : List (Nat × α) := m.filter (fun p => p.1 != k)

/-- The lowest key not in use below `n`, starting from `i`, where `free` says whether a listed slot is free. -/
def lowestFree (m : List (Nat × α)) (free : α → Bool) (n : Nat) : Option Nat :=
  let rec go (fuel i : Nat) (m : List (Nat × α)) : Option Nat :=
    match fuel with
    | 0 => none
    | fuel + 1 =>
      if i < n then
        match m with
        | [] => some i
        | (j, x) :: r => if i < j then some i else if i = j then (if free x then some i else go fuel (i + 1) r) else go fuel i r
      else none
  go (m.length + m.length + 1 + 1) 0 m

/-- Insertion into a rising list without repeats. -/
def ins (l : List Nat) (a : Nat) : List Nat :=
  match l with
  | [] => [a]
  | b :: r => if a < b then a :: b :: r else if a = b then b :: r else b :: ins r a

/-- Insertion of every number of `[a, a + n)`. -/
def insRange (l : List Nat) (a n : Nat) : List Nat :=
  l.takeWhile (· < a) ++ List.range' a n ++ l.dropWhile (· < a + n)

/-! ## Byte memories (R3, log entry 1)

A memory lists (address, byte) pairs with rising addresses, and no entry equal to what an unlisted address reads as. -/

/-- What an address that is not listed reads as: 0 (the spec gives no contents at power-on; log entry 1). -/
def Memory.blank : Byte := 0#8

/-- The canonical form of a memory. -/
abbrev Memory.wf (m : List Host.Cell) : Prop :=
  (m.map (·.1)).Pairwise (· < ·) ∧ ∀ c ∈ m, c.2 ≠ Memory.blank

/-- The byte at address `a`. -/
def Memory.get (m : List Host.Cell) (a : Nat) : Byte :=
  match m with
  | [] => Memory.blank
  | (b, x) :: r => if b = a then x else Memory.get r a

/-- Byte `i` of a number, little-endian (R3). -/
def byteAt (x i : Nat) : Byte := BitVec.ofNat 8 (x >>> (8 * i))

/-- The cells that bytes `[i, i + n)` of `x` make at `a + i` onward: blank bytes are not listed. -/
def Memory.cells (a x : Nat) : (i n : Nat) → List Host.Cell
  | _, 0 => []
  | i, n + 1 =>
    if byteAt x i = Memory.blank then Memory.cells a x (i + 1) n
    else (a + i, byteAt x i) :: Memory.cells a x (i + 1) n

/-- The `n` bytes at `a` as a little-endian number (R3). -/
def Memory.read (m : List Host.Cell) (a n : Nat) : Nat :=
  m.foldl (fun acc c => if a ≤ c.1 ∧ c.1 < a + n then acc ||| (c.2.toNat <<< (8 * (c.1 - a))) else acc) 0

/-- `m` with the low `n` bytes of `x` at `a`, little-endian (R3). -/
def Memory.write (m : List Host.Cell) (a n x : Nat) : List Host.Cell :=
  m.takeWhile (fun c => decide (c.1 < a)) ++ Memory.cells a x 0 n ++ m.dropWhile (fun c => decide (c.1 < a + n))

/-- A list of bytes as a little-endian number. -/
def numOfBytes (bs : List Byte) : Nat := bs.foldr (fun b acc => b.toNat + 256 * acc) 0

/-- The low `n` bytes of a number. -/
def bytesOfNum (x n : Nat) : List Byte := (List.range n).map (byteAt x)

/-! ## Bits and words -/

/-- Bits [lo + n - 1 : lo] of a number. -/
def bits (x lo n : Nat) : Nat := (x >>> lo) % 2 ^ n

/-- Bits [lo + n - 1 : lo] of a word, as a number. -/
def wbits (x : Word) (lo n : Nat) : Nat := bits x.toNat lo n

/-- `x` with its bits [lo + n - 1 : lo] replaced by those of `y`. -/
def setBits (x : Word) (lo n : Nat) (y : Nat) : Word :=
  BitVec.ofNat 64 (x.toNat - (bits x.toNat lo n <<< lo) + ((y % 2 ^ n) <<< lo))

/-- A number as a word. -/
def w64 (n : Nat) : Word := BitVec.ofNat 64 n

/-- Sign extension of the low `n` bits of `x` to a word. -/
def sext (n x : Nat) : Word := if x % 2 ^ n < 2 ^ (n - 1) then w64 (x % 2 ^ n) else w64 (2 ^ 64 + x % 2 ^ n - 2 ^ n)

/-- A Bool as 0 or 1. -/
def b2n (b : Bool) : Nat := if b then 1 else 0

/-- Number of ones in the low `n` bits of `x`. -/
def popcount (x : Nat) : (n : Nat) → Nat
  | 0 => 0
  | n + 1 => (x / 2 ^ n) % 2 + popcount x n

/-- Positions of the ones in the low `n` bits of `x`, ascending. -/
def onesOf (x n : Nat) : List Nat := (List.range n).filter (fun i => x.testBit i)

/-- A vector register's lane (R11). -/
def lane (x : Vec) (i : Nat) : Lane := x.extractLsb' (32 * i) 32

/-- A vector register from its lanes (R11). -/
def ofLanes (f : Nat → Lane) : Vec := BitVec.ofNat 2048 ((List.range 64).foldr (fun i acc => (f i).toNat <<< (32 * i) ||| acc) 0)

/-- The number of a side among the strands of a tile, A before E. -/
def sideNum : Side → Nat
  | .a => 0
  | .e => 1

/-- The other strand. -/
def sideOther : Side → Side
  | .a => .e
  | .e => .a

/-! ## Places (R13–R15) -/

/-- The die of a tile id, bits [9:8] (R13). -/
def dieOf (k : Nat) : Nat := k / 256 % 4
/-- The row of a tile id (R13). -/
def rowOf (k : Nat) : Nat := k / 16 % 16
/-- The column of a tile id (R13). -/
def colOf (k : Nat) : Nat := k % 16
/-- The tile at a die, row and column (R13). -/
def tileAt (d y x : Nat) : Nat := 256 * d + 16 * y + x
/-- The cluster of a tile within its die (R13). -/
def clusterOf (k : Nat) : Nat := 4 * (rowOf k / 4) + colOf k / 4
/-- The quadrant of a tile within its die (R13). -/
def quadrantOf (k : Nat) : Nat := 2 * (rowOf k / 8) + colOf k / 8
/-- The service core of a tile (R13). -/
def coreOf (k : Nat) : Nat := 4 * dieOf k + quadrantOf k
/-- Die boundaries between two dies on the 2 × 2 square (R14). -/
def crossings (d d' : Nat) : Nat := b2n (d % 2 != d' % 2) + b2n (d / 2 % 2 != d' / 2 % 2)
/-- The tiles of a rectangle in row-major order from its origin (R156). -/
def rect (o w h : Nat) : List Nat :=
  (List.range h).flatMap fun y => (List.range w).map fun x => tileAt (dieOf o) (rowOf o + y) (colOf o + x)
/-- The tiles of a cluster (R13). -/
def clusterTiles (d c : Nat) : List Nat :=
  (List.range 4).flatMap fun y => (List.range 4).map fun x => tileAt d (4 * (c / 4) + y) (4 * (c % 4) + x)
/-- The controller, and drill, of a local physical page or of a VA page by its colour (R15, R28). -/
def colour (page : Nat) : Nat := page % 24
/-- The die of a controller (R15). -/
def dieOfCtrl (c : Nat) : Nat := c / 6

/-! ## Parts of the state -/

/-- Tile `k`. -/
def State.tile (s : State) (k : Nat) : Tile := (mget s.tiles k).getD Tile.reset
/-- `s` with tile `k` replaced. -/
def State.setTile (s : State) (k : Nat) (t : Tile) : State := { s with tiles := mput s.tiles k t }
/-- `s` with tile `k` changed. -/
def State.modTile (s : State) (k : Nat) (f : Tile → Tile) : State := s.setTile k (f (s.tile k))

/-- A strand of a tile. -/
def Tile.strand (t : Tile) : Side → Strand
  | .a => t.a
  | .e => t.e
/-- A tile with a strand replaced. -/
def Tile.setStrand (t : Tile) (σ : Side) (x : Strand) : Tile :=
  match σ with
  | .a => { t with a := x }
  | .e => { t with e := x }

/-- Die `d`. -/
def State.die (s : State) (d : Nat) : Die := s.dies[d]?.getD Die.reset
/-- `s` with die `d` changed. -/
def State.modDie (s : State) (d : Nat) (f : Die → Die) : State := { s with dies := s.dies.setIfInBounds d (f (s.die d)) }
/-- Context `x`. -/
def State.ctx (s : State) (x : Nat) : Ctx := s.ctxs[x]?.getD Ctx.reset
/-- `s` with context `x` changed. -/
def State.modCtx (s : State) (x : Nat) (f : Ctx → Ctx) : State := { s with ctxs := s.ctxs.setIfInBounds x (f (s.ctx x)) }
/-- Controller `c`. -/
def State.ctrl (s : State) (c : Nat) : Ctrl := s.ctrls[c]?.getD Ctrl.reset
/-- `s` with controller `c` changed. -/
def State.modCtrl (s : State) (c : Nat) (f : Ctrl → Ctrl) : State := { s with ctrls := s.ctrls.setIfInBounds c (f (s.ctrl c)) }
/-- Service core `k`. -/
def State.core (s : State) (k : Nat) : Core := s.cores[k]?.getD Core.reset
/-- `s` with service core `k` changed. -/
def State.modCore (s : State) (k : Nat) (f : Core → Core) : State := { s with cores := s.cores.setIfInBounds k (f (s.core k)) }
/-- Link port `p`. -/
def State.link (s : State) (p : Nat) : LinkPort := s.links[p]?.getD LinkPort.reset
/-- `s` with link port `p` changed. -/
def State.modLink (s : State) (p : Nat) (f : LinkPort → LinkPort) : State :=
  { s with links := s.links.setIfInBounds p (f (s.link p)) }
/-- Run `r`. -/
def State.run (s : State) (r : Nat) : Option Run := mget s.runs r
/-- `s` with run `r` changed, if there is one. -/
def State.modRun (s : State) (r : Nat) (f : Run → Run) : State :=
  match s.run r with
  | some x => { s with runs := mput s.runs r (f x) }
  | none => s
/-- The run of tile `k`. -/
def State.runOf (s : State) (k : Nat) : Option Run := (s.tile k).run.bind s.run
/-- The members of a run, in rank order (R156). -/
def Run.members (r : Run) : List Nat := rect r.origin r.width r.height
/-- `s` with an output sent. -/
def State.send (s : State) (o : Output) : State := { s with sent := o :: s.sent }
/-- The MSI-X function of a host port. -/
def State.msixFn (s : State) (p : Nat) : MsixFn := s.msix[p]?.getD MsixFn.reset
def State.setMsixFn (s : State) (p : Nat) (f : MsixFn) : State := { s with msix := s.msix.setIfInBounds p f }
/-- Is a vector of the function masked? -/
def MsixFn.masked (f : MsixFn) (v : Nat) : Bool := f.fnMask || !f.open_.contains v
/-- An MSI-X vector goes out, or only sets its Pending bit, as the function's MSI-X capability decides (R258). -/
def State.sendMsix (s : State) (p v : Nat) : State :=
  let f := s.msixFn p
  if f.masked v then s.setMsixFn p { f with pending := ins f.pending v }
  else if f.enable then s.send (.msix p v)
  else s
/-- Pending vectors that are no longer masked go out (R258). -/
def State.flushMsix (s : State) (p : Nat) : State :=
  let f := s.msixFn p
  if f.enable then
    (f.pending.filter fun v => !f.masked v).foldl (fun s v => s.send (.msix p v))
      (s.setMsixFn p { f with pending := f.pending.filter f.masked })
  else s
/-- `s` with a fresh number: the number is `s.seq`. -/
def State.fresh (s : State) : State := { s with seq := s.seq + 1 }
/-- The current furrow (R153). -/
def State.furrow (s : State) : Nat := s.cycle / 256

/-! ## Module flags of ERRSTAT (R269) -/

/-- A field of `n` bits at `lo` of ERRSTAT counts one event and saturates. -/
def State.count (s : State) (lo n : Nat) : State :=
  { s with errstat := setBits s.errstat lo n (min (wbits s.errstat lo n + 1) (2 ^ n - 1)) }

/-- A repaired SRAM error (R65, R269). -/
def State.countSram (s : State) : State := s.count 0 16
/-- A corrected second-tier line (R35, R269). -/
def State.countTier (s : State) : State := s.count 16 16
/-- A link retry (R264, R269). -/
def State.countLink (s : State) : State := s.count 32 16
/-- A re-execution (R268, R269). -/
def State.countRedo (s : State) : State := s.count 48 8
/-- An uncorrectable event (R269). -/
def State.countUncorrectable (s : State) : State := s.count 56 8

end Sys2Proof.Machine
end

