-- ==== Sys2Proof/Machine/Ops.lean ====
section
/-!
DEFINITION. Sys2Proof/Machine/Ops.lean: the named operations over a tile's registers, queues and field store that every
family shares (R11, R62, R65–R73, R78, R79, R88–R92), the checks of port A (R290), handles (R22), and how a strand takes a
trap and its tile stops (R210–R212).  The delivery of a trap and the return from one stand in Machine/Delivery.lean.
-/
namespace Sys2Proof.Machine

/-! ## Trap codes (R210) and STACK subcodes (R192) -/

def codeIllegal : BitVec 8 := 0x01#8
def codeHazard : BitVec 8 := 0x02#8
def codeFieldRange : BitVec 8 := 0x03#8
def codeEarlyTouch : BitVec 8 := 0x04#8
def codeStale : BitVec 8 := 0x05#8
def codeStack : BitVec 8 := 0x07#8
def codeOverrun : BitVec 8 := 0x08#8
def codeCodeRange : BitVec 8 := 0x09#8
def codeResidue : BitVec 8 := 0x0A#8
def codePoison : BitVec 8 := 0x0B#8
def codeSecurity : BitVec 8 := 0x0C#8
def codeDoubleWrite : BitVec 8 := 0x0E#8
def codeOverflow : BitVec 8 := 0x0F#8
def codeBookShape : BitVec 8 := 0x10#8
def codePreempt : BitVec 8 := 0x20#8
def codeBand : BitVec 8 := 0x21#8
def codeTrap : BitVec 8 := 0x30#8

def subDepth : BitVec 8 := 1#8
def subFrozen : BitVec 8 := 2#8
def subNoFrame : BitVec 8 := 3#8
def subNoPage : BitVec 8 := 4#8
def subBadSpan : BitVec 8 := 5#8
def subNotTop : BitVec 8 := 6#8

/-- A check's verdict: code, subcode and faulting address. -/
abbrev Trip := BitVec 8 × BitVec 8 × Word

/-- A trap without subcode or address. -/
def trip (c : BitVec 8) : Trip := (c, 0#8, 0#64)
/-- A trap with a faulting address. -/
def tripAt (c : BitVec 8) (a : Nat) : Trip := (c, 0#8, w64 a)
/-- A STACK trap with its subcode. -/
def stack (sub : BitVec 8) : Trip := (codeStack, sub, 0#64)

/-- The first failing check of a list, in order. -/
def firstTrip : List (Option Trip) → Option Trip
  | [] => none
  | some t :: _ => some t
  | none :: r => firstTrip r

/-- A check: the trap when the condition holds. -/
def failIf (c : Bool) (t : Trip) : Option Trip := if c then some t else none

/-! ## Registers (R11, R77, R91, R92) -/

/-- s[n]. -/
def Regs.sget (r : Regs) (n : Nat) : Word := r.s[n]?.getD 0#64
/-- p[n]; p0 reads as true (R11). -/
def Regs.pget (r : Regs) (n : Nat) : Bool := n == 0 || r.p.getLsbD n
/-- All eight predicates as PGET reads them (R335). -/
def Regs.preds (r : Regs) : BitVec 8 := r.p ||| 1#8
/-- l[n]. -/
def Regs.lget (r : Regs) (n : Nat) : Word := r.l[n]?.getD 0#64
/-- `r` with s[n] written. -/
def Regs.sset (r : Regs) (n : Nat) (v : Word) : Regs := { r with s := r.s.setIfInBounds n v }
/-- `r` with p[n] written; a write to p0 is discarded (R11). -/
def Regs.pset (r : Regs) (n : Nat) (b : Bool) : Regs :=
  if n = 0 then r else { r with p := (r.p &&& ~~~(1#8 <<< n)) ||| (if b then 1#8 <<< n else 0#8) }
/-- `r` with l[n] written. -/
def Regs.lset (r : Regs) (n : Nat) (v : Word) : Regs := { r with l := r.l.setIfInBounds n v }
/-- `r` with sticky flags ORed into st[8:4] (R91). -/
def Regs.orFlags (r : Regs) (f : BitVec 5) : Regs := { r with st := r.st ||| (f.setWidth 16 <<< 4) }
/-- Checked mode, st[0] (R91). -/
def Regs.checked (r : Regs) : Bool := r.st.getLsbD 0
/-- The rounding field st[2:1] (R91). -/
def Regs.rounding (r : Regs) : Nat := (r.st.extractLsb' 1 2).toNat
/-- FTZ, st[3] (R91). -/
def Regs.ftz (r : Regs) : Bool := r.st.getLsbD 3
/-- `r` with PLATCH and PPV cleared (R92). -/
def Regs.clearLatch (r : Regs) : Regs := { r with platch := 0#128, st := r.st &&& ~~~(0x200#16) }

/-- Changes the registers of a strand. -/
def Tile.modRegs (t : Tile) (σ : Side) (f : Regs → Regs) : Tile :=
  t.setStrand σ { t.strand σ with regs := f (t.strand σ).regs }

/-- The registers of a strand. -/
def Tile.regs (t : Tile) (σ : Side) : Regs := (t.strand σ).regs

/-- v[n]. -/
def Tile.vget (t : Tile) (n : Nat) : Vec := t.v[n]?.getD 0#2048
/-- cb[n]. -/
def Tile.cbget (t : Tile) (n : Nat) : BitVec 256 := t.cb[n]?.getD 0#256
/-- c[n] (R44). -/
def Tile.cget (t : Tile) (n : Nat) : Word := t.c[n]?.getD 0#64
/-- The state of c[n] (R44). -/
def Tile.cstate (t : Tile) (n : Nat) : Nat := wbits (t.cget n) 60 4
/-- `t` with c[n] written. -/
def Tile.cset (t : Tile) (n : Nat) (v : Word) : Tile := { t with c := t.c.setIfInBounds n v }
/-- Walker n, none while not set (R77). -/
def Tile.wget (t : Tile) (n : Nat) : Option Walker := t.w[n]?.getD none
/-- `t` with walker n set. -/
def Tile.wset (t : Tile) (n : Nat) (w : Walker) : Tile := { t with w := t.w.setIfInBounds n (some w) }

/-- A completion register's value from state, kind and payload (R44). -/
def cval (state kind payload : Nat) : Word := w64 ((state <<< 60) ||| (kind <<< 56) ||| (payload % 2 ^ 56))

/-- Writes a result to its destination (R88). -/
def Tile.writeRes (t : Tile) (σ : Side) : ResVal → Tile
  | .s n v => t.modRegs σ (·.sset n v)
  | .counts _ => t
  | .p n b => t.modRegs σ (·.pset n b)
  | .v n x => { t with v := t.v.setIfInBounds n x }
  | .cb n x => { t with cb := t.cb.setIfInBounds n x }
  | .w n x => t.wset n x
  | .fd x => { t with fd := x }
  | .none => t

/-- Is this result due by cycle `now`? -/
def Pending.isDue (p : Pending) (now : Nat) : Bool :=
  match p.due with
  | some d => decide (d ≤ now)
  | none => false

/-- Insertion by rising due cycle, stable. -/
def insDue (x : Pending) : List Pending → List Pending
  | [] => [x]
  | y :: r => if y.due.getD 0 ≤ x.due.getD 0 then y :: insDue x r else x :: y :: r

/-- Results by rising due cycle, since the last to land stands (R90); those of one cycle in issue order (log entry 107). -/
def sortDue (l : List Pending) : List Pending := l.foldl (fun acc x => insDue x acc) []

/-- Lands one result with its flags (R88, R91). -/
def Tile.landOne (t : Tile) (σ : Side) (p : Pending) : Tile :=
  (t.writeRes σ p.val).modRegs σ (·.orFlags p.flags)

/-- A result written to its register, where that is one of the strand's own. -/
def Regs.landOne (r : Regs) (p : Pending) : Regs :=
  (match p.val with
    | .s n v => r.sset n v
    | .p n b => r.pset n b
    | _ => r).orFlags p.flags

/-- What a strand returns to, with the results due that are outstanding there: an earlier WSET's walker stands (R212). -/
def Undo.land (u : Undo) (now : Nat) : Undo :=
  let due := sortDue (u.regs.out.filter (·.isDue now))
  let set (n : Nat) : Bool := due.any fun p => match p.val with
    | .w i _ => i == n
    | _ => false
  { u with
    regs := due.foldl Regs.landOne { u.regs with out := u.regs.out.filter fun p => !p.isDue now }
    walkers := u.walkers.filter fun w => !set w.1 }

/-- Lands every result of a strand that is due (RESULT_WRITE, R88), in the registers a trap will return it to as well (R212). -/
def Tile.landDue (t : Tile) (σ : Side) (now : Nat) : Tile :=
  let due := sortDue ((t.regs σ).out.filter (·.isDue now))
  let t' := t.modRegs σ fun r => { r with out := r.out.filter fun p => !p.isDue now }
  let t' := if (t.strand σ).undo.isSome then t'.setStrand σ { t'.strand σ with undo := (t.strand σ).undo.map (·.land now) } else t'
  due.foldl (fun t p => t.landOne σ p) t'

/-- The registers an instruction reads or writes, for checked mode (R90). -/
inductive Touch where
  | s (n : Nat)
  | p (n : Nat)
  | v (n : Nat)
  | cb (n : Nat)
  | w (n : Nat)
  | fd
  deriving DecidableEq, Repr

/-- The register a result is outstanding on. -/
def ResVal.touch : ResVal → Option Touch
  | .s n _ => some (.s n)
  | .counts n => some (.s n)
  | .p n _ => some (.p n)
  | .v n _ => some (.v n)
  | .cb n _ => some (.cb n)
  | .w n _ => some (.w n)
  | .fd _ => some .fd
  | .none => Option.none

/-- Has the register an outstanding result (R88)? -/
def Regs.outstanding (r : Regs) (x : Touch) : Bool := r.out.any fun p => p.val.touch == some x

/-- Adds an unchecked result due `lat` cycles after `now` (R88). -/
def Regs.post (r : Regs) (due : Nat) (v : ResVal) (flags : BitVec 5 := 0#5) : Regs :=
  { r with out := r.out ++ [{ due := some due, cmd := 0, val := v, flags := flags }] }

/-! ## Queues between the cores (R78, R79) -/

/-- Entries occupied in cycle `now`: a popped entry is free from the cycle after the pop. -/
def Queue.used (q : Queue) (now : Nat) : Nat := q.ents.length + (if q.popCycle = now then q.popCount else 0)
/-- Room for a push of lq or sq: eight entries. -/
def Queue.room (q : Queue) (now : Nat) : Bool := decide (q.used now < 8)
/-- The first `n` entries are filled, so that `n` pops may be made. -/
def Queue.ready (q : Queue) (n : Nat) : Bool := decide (n ≤ q.ents.length) && (q.ents.take n).all (·.filled)
/-- The queue after `n` pops in cycle `now`. -/
def Queue.drop (q : Queue) (n now : Nat) : Queue :=
  { ents := q.ents.drop n, popCycle := now, popCount := (if q.popCycle = now then q.popCount else 0) + n }
/-- The queue with an entry reserved. -/
def Queue.push (q : Queue) (e : QEntry) : Queue := { q with ents := q.ents ++ [e] }
/-- The queue with every entry due by `now` filled (LOAD_QUEUE_FILL). -/
def Queue.fill (q : Queue) (now : Nat) : Queue :=
  { q with ents := q.ents.map fun e => if e.due ≤ now then { e with filled := true } else e }

def Tile.lqget (t : Tile) (n : Nat) : Queue := t.lq[n]?.getD Queue.reset
def Tile.sqget (t : Tile) (n : Nat) : Queue := t.sq[n]?.getD Queue.reset
def Tile.lqset (t : Tile) (n : Nat) (q : Queue) : Tile := { t with lq := t.lq.setIfInBounds n q }
def Tile.sqset (t : Tile) (n : Nat) (q : Queue) : Tile := { t with sq := t.sq.setIfInBounds n q }

/-- Entries an MX port holds, landed, in flight or popped in cycle `now` (R79, R84). -/
def Port.used (p : Port) (now : Nat) : Nat := p.ents.length + p.flight.length + (if p.popCycle = now then p.popCount else 0)
/-- The port after `n` pops in cycle `now`. -/
def Port.drop (p : Port) (n now : Nat) : Port :=
  { p with ents := p.ents.drop n, popCycle := now, popCount := (if p.popCycle = now then p.popCount else 0) + n }
/-- The port with every entry due by `now` landed (FEED_ENTRY_LAND). -/
def Port.land (p : Port) (now : Nat) : Port :=
  { p with ents := p.ents ++ (p.flight.filter (·.1 ≤ now)).map (·.2), flight := p.flight.filter (now < ·.1) }

/-- Entries an outcome queue holds in cycle `now` (R78, R79). -/
def OutQueue.used (q : OutQueue) (now : Nat) : Nat := q.ents.length + (if q.popCycle = now then q.popCount else 0)
/-- The head an outcome queue offers in cycle `now`: pushed in an earlier cycle (R79). -/
def OutQueue.head (q : OutQueue) (now : Nat) : Option Bool :=
  match q.ents with
  | (b, c) :: _ => if c < now then some b else none
  | [] => none
/-- The queue after its head is popped. -/
def OutQueue.pop (q : OutQueue) (now : Nat) : OutQueue :=
  { ents := q.ents.drop 1, popCycle := now, popCount := (if q.popCycle = now then q.popCount else 0) + 1 }
/-- The queue with a bit pushed. -/
def OutQueue.push (q : OutQueue) (b : Bool) (now : Nat) : OutQueue := { q with ents := q.ents ++ [(b, now)] }

/-- The queue a strand pushes outcomes into, and the one it pops (R78). -/
def Tile.outQ (t : Tile) : Side → OutQueue
  | .a => t.oqAE
  | .e => t.oqEA
def Tile.inQ (t : Tile) : Side → OutQueue
  | .a => t.oqEA
  | .e => t.oqAE
def Tile.setOutQ (t : Tile) (σ : Side) (q : OutQueue) : Tile :=
  match σ with
  | .a => { t with oqAE := q }
  | .e => { t with oqEA := q }
def Tile.setInQ (t : Tile) (σ : Side) (q : OutQueue) : Tile :=
  match σ with
  | .a => { t with oqEA := q }
  | .e => { t with oqAE := q }

/-! ## The field store of a tile (R59–R73) -/

/-- Bytes of a field store, and its top (R59, R290). -/
def fieldTop : Nat := 0x400000
/-- The granules of [f, f + n) (R59). -/
def granules (f n : Nat) : List Nat := if n = 0 then [] else List.range' (f / 32) ((f + n - 1) / 32 - f / 32 + 1)
/-- The rows of [f, f + n) (R59). -/
def rowsOf (f n : Nat) : List Nat := if n = 0 then [] else List.range' (f / 256) ((f + n - 1) / 256 - f / 256 + 1)
/-- The lease units of [f, f + n) (R59). -/
def unitsOf (f n : Nat) : List Nat := if n = 0 then [] else List.range' (f / 65536) ((f + n - 1) / 65536 - f / 65536 + 1)
/-- The banks of [f, f + n), one bit each (R59). -/
def banksOf (f n : Nat) : BitVec 32 :=
  if 1024 ≤ n then 0xFFFFFFFF#32 else (granules f n).foldl (fun m g => m ||| (1#32 <<< (g % 32))) 0#32
/-- The bank groups of [f, f + n), one bit each (R59). -/
def groupsOf (f n : Nat) : Nat :=
  if 1024 ≤ n then 15 else (rowsOf f n).foldl (fun m r => m ||| (1 <<< (r % 4))) 0

/-- The key a tile's field store works under: its key slot, its context id and its virtual tile number (R66, R67). -/
def Tile.keyTag (t : Tile) : Nat := (t.key * 16 + t.fsctx.toNat) * 1024 + t.vtile.toNat

/-- Byte `a` of the field store as the tile's key deciphers it (R67). -/
def Tile.fieldByte (t : Tile) (a : Nat) : Byte :=
  match mget t.field.keys (a / 32) with
  | some k => if k = t.keyTag then Memory.get t.field.mem a else Config.garbledByte k t.keyTag a
  | none => Memory.get t.field.mem a

/-- Was every granule of [f, f + n) that holds data written under the tile's present key? -/
def Tile.ownKey (t : Tile) (f n : Nat) : Bool :=
  (t.field.keys.filter fun p => f / 32 ≤ p.1 ∧ p.1 ≤ (f + n - 1) / 32).all fun p => p.2 == t.keyTag

/-- The bytes of [f, f + n) in the banks, deciphered, little-endian. -/
def Tile.bankRead (t : Tile) (f n : Nat) : Nat :=
  if t.ownKey f n then Memory.read t.field.mem f n
  else numOfBytes ((List.range n).map fun i => t.fieldByte (f + i))

/-- A mask of bytes as a mask of bits. -/
def byteMask (m : BitVec 32) : Nat := (onesOf m.toNat 32).foldl (fun x i => x ||| (255 <<< (8 * i))) 0

/-- `x` shifted left or right by whole bytes: from byte offset `g` to byte offset `f`. -/
def rebase (x g f : Nat) : Nat := if f ≤ g then x <<< (8 * (g - f)) else x >>> (8 * (f - g))

/-- The `n` bytes `x` at `f` with the entry's bytes merged over them (R62). -/
def SbEntry.over (e : SbEntry) (f n x : Nat) : Nat :=
  let m := rebase (byteMask e.mask) (32 * e.granule) f % 2 ^ (8 * n)
  let d := rebase e.data.toNat (32 * e.granule) f % 2 ^ (8 * n)
  (x - (x &&& m)) ||| (d &&& m)

/-- Does the entry lie within [f, f + n)? -/
def SbEntry.meets (e : SbEntry) (f n : Nat) : Bool := decide (32 * e.granule < f + n) && decide (f < 32 * e.granule + 32)

/-- The entry as one of its stores alone would make it. -/
def SbEntry.ofPart (e : SbEntry) (p : SbPart) : SbEntry := { e with mask := p.mask, data := p.data, commit := p.commit }

/-- The entry as its stores that issued by cycle `since` make it; none where there is none (R212). -/
def SbEntry.upTo (e : SbEntry) (since : Nat) : Option SbEntry :=
  match e.parts.filter fun p => decide (p.since ≤ since) with
  | [] => none
  | p :: r =>
    if e.parts.all fun p => decide (p.since ≤ since) then some e
    else some (r.foldl (fun e q =>
      { e with mask := e.mask ||| q.mask, commit := max e.commit q.commit
               data := BitVec.ofNat 256 ((e.data.toNat - (e.data.toNat &&& byteMask q.mask)) ||| (q.data.toNat &&& byteMask q.mask)) })
      { (e.ofPart p) with parts := p :: r })

/-- The `n` bytes `x` at `f` with those of the entry's stores merged over them that have committed by `now` (R136). -/
def SbEntry.seen (e : SbEntry) (now f n x : Nat) : Nat :=
  (e.parts.filter fun p => decide (p.commit ≤ now)).foldl (fun x p => (e.ofPart p).over f n x) x

/-- The bytes of [f, f + n) as a reader sees them: the banks with the waiting stores merged over them, oldest first (R62,
R136).  The A-core sees every store; every other reader only those committed by `now`. -/
def Tile.fieldRead (t : Tile) (own : Bool) (now f n : Nat) : Nat :=
  if own then (t.sb.filter fun e => e.meets f n).foldl (fun x e => e.over f n x) (t.bankRead f n)
  else (t.sb.filter fun e => e.meets f n).foldl (fun x e => e.seen now f n x) (t.bankRead f n)

/-- Writes the `n` bytes `x` at `f` into the banks through the cipher: each granule becomes the tile's own, its errors are
gone, and each row it touches becomes NOTAG (R65, R67, R69). -/
def Tile.bankWrite (t : Tile) (f n x : Nat) : Tile :=
  let gs := granules f n
  let f' := 32 * (f / 32)
  let n' := 32 * gs.length
  let whole := t.ownKey f n
  let old := t.bankRead f' n'
  let m := (2 ^ (8 * n) - 1) <<< (8 * (f - f'))
  let new := (old - (old &&& m)) ||| ((x % 2 ^ (8 * n)) <<< (8 * (f - f')))
  { t with field := { t.field with
      mem := if whole then Memory.write t.field.mem f n x else Memory.write t.field.mem f' n' new
      keys := gs.foldl (fun k g => mput k g t.keyTag) t.field.keys
      tags := t.field.tags.filter fun r => !(decide (f / 256 ≤ r.1) && decide (r.1 ≤ (f + n - 1) / 256))
      worn := t.field.worn.filter fun g => !(decide (f / 32 ≤ g) && decide (g ≤ (f + n - 1) / 32))
      dead := t.field.dead.filter fun g => !(decide (f / 32 ≤ g) && decide (g ≤ (f + n - 1) / 32)) } }

/-- NOTAG (R69). -/
def notag : Nat := 0xFFFFFF
/-- A row's frame tag and position tag in the banks (R69). -/
def Tile.rowTags (t : Tile) (row : Nat) : Nat × Nat := ((mget t.field.tags row).getD (notag, 0))
/-- A row's tags as a reader sees them: a waiting store to the row has made it NOTAG (R69, R136). -/
def Tile.rowTagsSeen (t : Tile) (own : Bool) (now row : Nat) : Nat × Nat :=
  if t.sb.any fun e => e.meets (256 * row) 256 && (own || e.parts.any fun p => decide (p.commit ≤ now)) then (notag, 0) else t.rowTags row
/-- `t` with a row's tags stamped (R50). -/
def Tile.stampRow (t : Tile) (row f p : Nat) : Tile := { t with field := { t.field with tags := mput t.field.tags row (f, p) } }

/-- Does [f, f + n) hold a granule in flight (R48)? -/
def Tile.inFlight (t : Tile) (f n : Nat) : Bool :=
  n != 0 && t.field.flight.any fun g => decide (f / 32 ≤ g.1) && decide (g.1 ≤ (f + n - 1) / 32)

/-- Does [f, f + n) hold a granule in flight for an owner that is none of `own` (R48, R63)? -/
def Tile.inFlightBut (t : Tile) (own : List Nat) (f n : Nat) : Bool :=
  n != 0 && t.field.flight.any fun g => decide (f / 32 ≤ g.1) && decide (g.1 ≤ (f + n - 1) / 32) && !g.2.all own.contains

/-- Operation `i` among the owners of each of the granules [a, a + n). -/
def addOwner (l : List (Nat × List Nat)) (i a n : Nat) : List (Nat × List Nat) :=
  let mid := (l.dropWhile fun g => decide (g.1 < a)).takeWhile fun g => decide (g.1 < a + n)
  l.takeWhile (fun g => decide (g.1 < a)) ++ (List.range' a n).map (fun g => (g, ins ((mget mid g).getD []) i)) ++
    l.dropWhile fun g => decide (g.1 < a + n)

/-- `t` with the granules of [f, f + n) in flight for operation `i` (R48). -/
def Tile.setFlight (t : Tile) (i f n : Nat) : Tile :=
  if n = 0 then t
  else { t with field := { t.field with flight := addOwner t.field.flight i (f / 32) ((f + n - 1) / 32 - f / 32 + 1) } }

/-- A unit held because of granules in flight becomes free when its last bit clears (R73). -/
def Field.settle (x : Field) : Field := { x with held := x.held.filter fun u => x.flight.any fun g => g.1 / 2048 == u }

/-- `t` with in-flight bits cleared (R48). -/
def Tile.clearFlight (t : Tile) (gs : List Nat) : Tile :=
  { t with field := Field.settle { t.field with flight := t.field.flight.filter fun g => !gs.contains g.1 } }

/-- `t` with the in-flight bits cleared that operation `i` has set and no event has cleared since (R48). -/
def Tile.clearOwned (t : Tile) (i : Nat) : Tile :=
  { t with field := Field.settle { t.field with flight := t.field.flight.filter fun g => !g.2.contains i } }

/-- `t` with the in-flight bits that operation `i` set no longer its own: a bit that another operation set too stays. -/
def Tile.disown (t : Tile) (i : Nat) : Tile :=
  { t with field := Field.settle { t.field with
      flight := (t.field.flight.map fun g => (g.1, g.2.filter (· != i))).filter fun g => !g.2.isEmpty } }

/-- The parity granule that covers a granule, by its place among the parity granules: group, then granule within the bank; a
parity granule's own place (R59). -/
def stripeOf (g : Nat) : Nat := if g < 131072 then 4096 * (g / 8 % 4) + g / 32 else g - 131072

/-- Can a granule not be rebuilt: it has an uncorrectable error, and so has another granule of its group or their parity
(R65)? -/
def Tile.lost (t : Tile) (g : Nat) : Bool :=
  t.field.dead.contains g && t.field.dead.any fun h => h != g && stripeOf h == stripeOf g

/-- Does the range hold a granule that cannot be rebuilt (R65)? -/
def Tile.isDead (t : Tile) (f n : Nat) : Bool :=
  n != 0 && t.field.dead.any fun g => decide (f / 32 ≤ g) && decide (g ≤ (f + n - 1) / 32) && t.lost g

/-- The lowest address of such a granule in the range. -/
def Tile.deadAt (t : Tile) (f n : Nat) : Nat :=
  max f (32 * ((t.field.dead.find? fun g => decide (f / 32 ≤ g) && decide (g ≤ (f + n - 1) / 32) && t.lost g).getD 0))

/-- Is the unit leased to the fibre (R71)? -/
def Tile.leased (t : Tile) (fibre : BitVec 16) (u : Nat) : Bool := mget t.field.lease u == some fibre
/-- Is the unit scratch of the run (R71)? -/
def Run.scratchUnit (r : Run) (u : Nat) : Bool := decide (r.scratch.1 ≤ u) && decide (u < r.scratch.1 + r.scratch.2)
/-- Is [f, f + n) wholly scratch of the run or leased to its fibre (R71, R72)? -/
def Tile.inRange (t : Tile) (r : Run) (f n : Nat) : Bool :=
  decide (f + n ≤ fieldTop) && (unitsOf f n).all fun u => r.scratchUnit u || t.leased r.fibre u
/-- Is [f, f + n) wholly leased to the fibre? -/
def Tile.inLease (t : Tile) (fibre : BitVec 16) (f n : Nat) : Bool :=
  decide (f + n ≤ fieldTop) && (unitsOf f n).all fun u => t.leased fibre u
/-- Does the run's mask hold BGn for every group of [f, f + n) (R72, R154)? -/
def Run.groupsBooked (r : Run) (f n : Nat) : Bool := (groupsOf f n) &&& (15 - (bits r.mask.toNat 2 4)) == 0

/-- The checks of a port-A access that are decided at issue (R290): alignment, key, range, booked groups, in-flight bits. -/
def portACheck (t : Tile) (r : Run) (f n al : Nat) : Option Trip :=
  firstTrip [
    failIf (f % al != 0) (trip codeIllegal),
    failIf (!t.keyOk) (trip codeSecurity),
    failIf (!t.inRange r f n || !r.groupsBooked f n) (tripAt codeFieldRange f),
    failIf (t.inFlight f n) (tripAt codeEarlyTouch f)]

/-- The bank stage's check of a read (R65): a granule that cannot be rebuilt. -/
def poisonCheck (t : Tile) (f n : Nat) : Option Trip := failIf (t.isDead f n) (tripAt codePoison (t.deadAt f n))

/-- The granules of [f, f + n) that a read repairs: those with a correctable error, and those it rebuilds (R65). -/
def Tile.repairs (t : Tile) (f n : Nat) : List Nat :=
  (t.field.worn ++ t.field.dead.filter fun g => !t.field.worn.contains g).filter fun g =>
    decide (f / 32 ≤ g) && decide (g ≤ (f + n - 1) / 32) && !t.lost g

/-- A read repairs the granules it finds with an error that it can correct or rebuild, and writes them back (R65, R269). -/
def State.repair (s : State) (k f n : Nat) : State :=
  let t := s.tile k
  let bad := t.repairs f n
  if bad.isEmpty then s
  else (bad.foldl (fun s _ => s.countSram) s).setTile k
    { t with field := { t.field with worn := t.field.worn.filter (fun g => !bad.contains g)
                                     dead := t.field.dead.filter fun g => !bad.contains g } }

/-- One more port-A access in the field cycle of `now` (R60, R61). -/
def Tile.usePort (t : Tile) (u : PortUse) : Tile :=
  { t with uses := (t.uses.filter fun v => v.cycle / 2 == u.cycle / 2) ++ [u] }

/-- The A-core pipeline's access of cycle `now` (R60, R61): a read takes a slot of each bank; a store takes its slots when
the buffer drains it (R62). -/
def Tile.useBanks (t : Tile) (now : Nat) (banks : BitVec 32) (write : Bool) : Tile :=
  t.usePort { cycle := now, banks := if write then 0#32 else banks, write := write }

/-- Has the A-core pipeline made an access in cycle `now` (R61, R84)? -/
def Tile.usedNow (t : Tile) (now : Nat) : Bool := t.uses.any (·.cycle == now)

/-- Slots of a bank taken by reads, or by drained stores, in the field cycle of `now`. -/
def Tile.bankUses (t : Tile) (write : Bool) (now b : Nat) : Nat :=
  (t.uses.filter fun u => u.cycle / 2 == now / 2 && u.write == write && u.banks.getLsbD b).length

/-! ## The store buffer (R62, R212) -/

/-- Room for `n` more entries: 16 in all. -/
def Tile.sbRoom (t : Tile) (n : Nat) : Bool := decide (t.sb.length + n ≤ 16)

/-- The cycle in which an instruction with its own verdict at `v` commits: when every earlier verdict has returned too
(R212); one behind a verdict that traps is discarded before. -/
def Strand.commitAt (x : Strand) (v : Nat) : Nat := x.verdicts.foldl (fun m y => max m (y.due + b2n y.fail.isSome)) v

/-- A new entry for one granule. -/
def Tile.sbNew (t : Tile) (g : Nat) (mask : BitVec 32) (data : BitVec 256) (at_ : StoreTime) : Tile :=
  { t with sb := t.sb ++ [{ id := t.nextId, granule := g, mask := mask, data := data, commit := at_.commit
                            parts := [{ toStoreTime := at_, mask := mask, data := data }] }]
           nextId := t.nextId + 1 }

/-- Is there a newest entry of the buffer for granule `g` that a narrow store may merge into (R62)? -/
def Tile.sbMergeable (t : Tile) (g : Nat) : Bool := t.sb.any (·.granule == g)

/-- The newest entry for granule `g`, the last one of the buffer that names it, changed. -/
def changeNewest (g : Nat) (f : SbEntry → SbEntry) : List SbEntry → List SbEntry
  | [] => []
  | e :: r => if r.any (·.granule == g) then e :: changeNewest g f r else if e.granule = g then f e :: r else e :: r

/-- An entry with `n` bytes `x` at byte `o` of its granule merged into it. -/
def SbEntry.merge (e : SbEntry) (o n x : Nat) (at_ : StoreTime) : SbEntry :=
  let m : BitVec 32 := BitVec.ofNat 32 ((2 ^ n - 1) <<< o)
  { e with mask := e.mask ||| m, commit := max e.commit at_.commit
           data := BitVec.ofNat 256 ((e.data.toNat - (e.data.toNat &&& byteMask m)) ||| ((x % 2 ^ (8 * n)) <<< (8 * o)))
           parts := e.parts ++ [{ toStoreTime := at_, mask := m, data := BitVec.ofNat 256 ((x % 2 ^ (8 * n)) <<< (8 * o)) }] }

/-- Merges `n` bytes `x` at `f`, within one granule, into the newest entry for it. -/
def Tile.sbMerge (t : Tile) (f n x : Nat) (at_ : StoreTime) : Tile :=
  { t with sb := changeNewest (f / 32) (·.merge (f % 32) n x at_) t.sb }

/-- A store narrower than a granule enters the buffer: merged, or in one new entry (R62, R293). -/
def Tile.sbNarrow (t : Tile) (f n x : Nat) (at_ : StoreTime) : Tile :=
  if t.sbMergeable (f / 32) then t.sbMerge f n x at_
  else t.sbNew (f / 32) (BitVec.ofNat 32 ((2 ^ n - 1) <<< (f % 32))) (BitVec.ofNat 256 ((x % 2 ^ (8 * n)) <<< (8 * (f % 32)))) at_

/-- A run of whole granules enters the buffer, one entry each (R62). -/
def Tile.sbWhole (t : Tile) (f n x : Nat) (at_ : StoreTime) : Tile :=
  (List.range (n / 32)).foldl (fun t i => t.sbNew (f / 32 + i) 0xFFFFFFFF#32 (BitVec.ofNat 256 (x >>> (256 * i))) at_) t

/-- An entry is written into its bank (STORE_DRAIN, R62, R64, R67, R69).  A granule that cannot be rebuilt and is not written
whole stays so. -/
def Tile.sbWrite (t : Tile) (e : SbEntry) : Tile :=
  let y := t.bankWrite (32 * e.granule) 32 (e.over (32 * e.granule) 32 (t.bankRead (32 * e.granule) 32))
  if e.mask != 0xFFFFFFFF#32 && t.lost e.granule then { y with field := { y.field with dead := ins y.field.dead e.granule } } else y

/-- Every committed entry is written, oldest first, up to the first that has not committed. -/
def Tile.sbFlush (t : Tile) (now : Nat) : Tile :=
  let front := t.sb.takeWhile fun e => decide (e.commit ≤ now)
  { (front.foldl (fun t e => t.sbWrite e) t) with sb := t.sb.drop front.length }

/-! ## Handles and pools (R21, R22, R390) -/

def hClass (h : Word) : Nat := wbits h 60 4
def hGen (h : Word) : BitVec 16 := h.extractLsb' 44 16
def hDie (h : Word) : Nat := wbits h 42 2
def hReserved (h : Word) : Nat := wbits h 32 10
def hIndex (h : Word) : Nat := wbits h 0 32
/-- A handle from its fields (R21). -/
def mkHandle (cls : Nat) (gen : BitVec 16) (die idx : Nat) : Word :=
  w64 ((cls <<< 60) ||| (gen.toNat <<< 44) ||| (die <<< 42) ||| idx)

def taskPool : Nat := 16384
def contPool : Nat := 65536
def cellPool : Nat := 1048576
def framePool : Nat := 65536

/-- A handle's own form: class, reserved bits, index within the pool (R22). -/
def handleForm (h : Word) (cls size : Nat) : Bool :=
  hClass h == cls && hReserved h == 0 && decide (hIndex h < size)

def State.task (s : State) (d i : Nat) : TaskRec := (mget (s.die d).tasks i).getD TaskRec.reset
def State.setTask (s : State) (d i : Nat) (x : TaskRec) : State := s.modDie d fun y => { y with tasks := mput y.tasks i x }
def State.modTask (s : State) (d i : Nat) (f : TaskRec → TaskRec) : State := s.setTask d i (f (s.task d i))
def State.cont (s : State) (d i : Nat) : ContRec := (mget (s.die d).conts i).getD ContRec.reset
def State.setCont (s : State) (d i : Nat) (x : ContRec) : State := s.modDie d fun y => { y with conts := mput y.conts i x }
def State.modCont (s : State) (d i : Nat) (f : ContRec → ContRec) : State := s.setCont d i (f (s.cont d i))
def State.cell (s : State) (d i : Nat) : Cell := (mget (s.die d).cells i).getD Cell.reset
def State.setCell (s : State) (d i : Nat) (x : Cell) : State := s.modDie d fun y => { y with cells := mput y.cells i x }
def State.modCell (s : State) (d i : Nat) (f : Cell → Cell) : State := s.setCell d i (f (s.cell d i))
def State.frame (s : State) (d i : Nat) : Frame := (mget (s.die d).frames i).getD Frame.reset
def State.setFrame (s : State) (d i : Nat) (x : Frame) : State := s.modDie d fun y => { y with frames := mput y.frames i x }
def State.modFrame (s : State) (d i : Nat) (f : Frame → Frame) : State := s.setFrame d i (f (s.frame d i))

/-- Word `k` of a record. -/
def TaskRec.word (x : TaskRec) (k : Nat) : Word := x.w[k]?.getD 0#64
def TaskRec.setWord (x : TaskRec) (k : Nat) (v : Word) : TaskRec := { x with w := x.w.setIfInBounds k v }
def ContRec.word (x : ContRec) (k : Nat) : Word := x.w[k]?.getD 0#64
def ContRec.setWord (x : ContRec) (k : Nat) (v : Word) : ContRec := { x with w := x.w.setIfInBounds k v }
def Frame.word (x : Frame) (k : Nat) : Word := x.w[k]?.getD 0#64
def Frame.setWord (x : Frame) (k : Nat) (v : Word) : Frame := { x with w := x.w.setIfInBounds k v }
def Frame.setField (x : Frame) (k lo n v : Nat) : Frame := x.setWord k (setBits (x.word k) lo n v)
def Fibre.word (x : Fibre) (k : Nat) : Word := x.w[k]?.getD 0#64
def Fibre.setWord (x : Fibre) (k : Nat) (v : Word) : Fibre := { x with w := x.w.setIfInBounds k v }

/-- A fibre record by its id: [15:14] die, [11:0] index (R172). -/
def State.fibre (s : State) (f : BitVec 16) : Fibre :=
  (mget (s.die (f.toNat / 16384)).fibres (f.toNat % 4096)).getD Fibre.reset
def State.setFibre (s : State) (f : BitVec 16) (x : Fibre) : State :=
  s.modDie (f.toNat / 16384) fun y => { y with fibres := mput y.fibres (f.toNat % 4096) x }
def State.modFibre (s : State) (f : BitVec 16) (g : Fibre → Fibre) : State := s.setFibre f (g (s.fibre f))
/-- Is the fibre id well formed and active in the context (R172, R176)? -/
def State.fibreActive (s : State) (f : BitVec 16) (x : Nat) : Bool :=
  bits f.toNat 12 2 == 0 && wbits ((s.fibre f).word 0) 60 4 == 1 && wbits ((s.fibre f).word 0) 56 4 == x

/-- States of a task record (R174). -/
def TaskRec.state (x : TaskRec) : Nat := wbits (x.word 0) 60 4
def TaskRec.setState (x : TaskRec) (n : Nat) : TaskRec := x.setWord 0 (setBits (x.word 0) 60 4 n)
def TaskRec.ctx (x : TaskRec) : Nat := wbits (x.word 1) 16 4
def TaskRec.mask (x : TaskRec) : BitVec 16 := (x.word 1).extractLsb' 0 16
def TaskRec.fibre (x : TaskRec) : BitVec 16 := (x.word 4).extractLsb' 33 16
def TaskRec.counter (x : TaskRec) : Int := ((x.word 1).extractLsb' 32 32).toInt
def TaskRec.setCounter (x : TaskRec) (n : Int) : TaskRec := x.setWord 1 (setBits (x.word 1) 32 32 (BitVec.ofInt 32 n).toNat)
def TaskRec.codeBase (x : TaskRec) : Nat := (x.word 2).toNat - wbits (x.word 4) 0 16
def TaskRec.codeLen (x : TaskRec) : Nat := wbits (x.word 4) 16 17
def TaskRec.any (x : TaskRec) : Bool := (x.word 0).getLsbD 45
def TaskRec.origin (x : TaskRec) : Nat := wbits (x.word 0) 35 10
def TaskRec.width (x : TaskRec) : Nat := wbits (x.word 0) 50 4
def TaskRec.height (x : TaskRec) : Nat := wbits (x.word 0) 46 4
def TaskRec.duration (x : TaskRec) : Nat := wbits (x.word 0) 23 12
def TaskRec.grace (x : TaskRec) : Nat := wbits (x.word 0) 19 4
def TaskRec.restartable (x : TaskRec) : Bool := (x.word 0).getLsbD 18
def TaskRec.pinned (x : TaskRec) : Bool := (x.word 0).getLsbD 17
def TaskRec.retain (x : TaskRec) : Bool := (x.word 0).getLsbD 16
def TaskRec.scratch (x : TaskRec) : Nat × Nat := (wbits (x.word 4) 49 6, wbits (x.word 4) 55 7)
/-- The lead of a task (R158). -/
def TaskRec.lead (x : TaskRec) : Nat := (x.codeLen + 16383) / 16384

def ContRec.state (x : ContRec) : Nat := wbits (x.word 0) 60 4
def ContRec.kind (x : ContRec) : Nat := wbits (x.word 0) 56 4
def ContRec.setState (x : ContRec) (n : Nat) : ContRec := x.setWord 0 (setBits (x.word 0) 60 4 n)

/-- Has a double error failed the record of a class at an index (R267, R365)? -/
def State.isSpoiled (s : State) (d cls i : Nat) : Bool := (s.die d).spoiled.contains (cls, i)
/-- The failed record of a fibre (R267, R365): class 6, by its index. -/
def State.fibreSpoiled (s : State) (f : BitVec 16) : Bool := s.isSpoiled (f.toNat / 16384) 6 (f.toNat % 4096)
/-- A record that is written anew as its slot is claimed. -/
def State.renew (s : State) (d cls i : Nat) : State :=
  s.modDie d fun y => { y with spoiled := y.spoiled.filter (· != (cls, i)) }

/-- The handle of a slot as it stands. -/
def State.taskHandle (s : State) (d i : Nat) : Word := mkHandle 1 (s.task d i).gen d i
def State.contHandle (s : State) (d i : Nat) : Word := mkHandle 2 (s.cont d i).gen d i

/-- R22 for a task handle; a slot that is FREE or DRAINING counts as stale (R175, R365). -/
def State.taskOk (s : State) (h : Word) : Bool :=
  handleForm h 1 taskPool && (s.task (hDie h) (hIndex h)).gen == hGen h &&
    (s.task (hDie h) (hIndex h)).state != 0 && (s.task (hDie h) (hIndex h)).state != 7
/-- R22 for a continuation handle. -/
def State.contOk (s : State) (h : Word) : Bool :=
  handleForm h 2 contPool && (s.cont (hDie h) (hIndex h)).gen == hGen h &&
    (s.cont (hDie h) (hIndex h)).state != 0 && (s.cont (hDie h) (hIndex h)).state != 4
/-- R22 for a Granary handle. -/
def State.cellOk (s : State) (h : Word) : Bool :=
  handleForm h 3 cellPool && (s.cell (hDie h) (hIndex h)).gen == hGen h &&
    (s.cell (hDie h) (hIndex h)).kind != .free && (s.cell (hDie h) (hIndex h)).kind != .draining

/-- Reserves the lowest FREE continuation slot of a die (R390, R397). -/
def State.reserveCont (s : State) (d : Nat) : Option (Nat × State) :=
  match lowestFree (s.die d).conts (fun c => c.state == 0 && !c.held) contPool with
  | some i => some (i, s.modCont d i fun c => { c with held := true })
  | none => none

/-- A reservation returns to the pool unused (R397). -/
def State.unreserve (s : State) (d i : Nat) : State := s.modCont d i fun c => { c with held := false }

/-- Claims a reserved slot: its generation goes up by one (R22). -/
def State.claimSlot (s : State) (d i : Nat) : State :=
  (s.renew d 2 i).setCont d i { ContRec.reset with gen := (s.cont d i).gen + 1#16 }

/-- Claims the lowest FREE continuation slot of a die (R22, R390). -/
def State.claimCont (s : State) (d : Nat) : Option (Nat × State) :=
  match s.reserveCont d with
  | some (i, s) => some (i, s.claimSlot d i)
  | none => none

/-- A freed continuation slot: FREE, or DRAINING while references are in flight (R22). -/
def State.freeCont (s : State) (d i : Nat) : State :=
  let c := s.cont d i
  if c.refs = 0 then s.setCont d i { ContRec.reset with gen := c.gen }
  else s.setCont d i ({ ContRec.reset with gen := c.gen, refs := c.refs }.setState 4)

/-- A reference on a continuation is taken (R22). -/
def State.addContRef (s : State) (h : Word) : State := s.modCont (hDie h) (hIndex h) fun c => { c with refs := c.refs + 1 }

/-- A reference on a continuation goes; a DRAINING record without references becomes FREE with the next generation (R22). -/
def State.dropContRef (s : State) (h : Word) : State :=
  let c := s.cont (hDie h) (hIndex h)
  if !handleForm h 2 contPool || c.gen != hGen h then s
  else
    let c := { c with refs := c.refs - 1 }
    if c.state = 4 ∧ c.refs = 0 then s.setCont (hDie h) (hIndex h) { ContRec.reset with gen := c.gen + 1#16 }
    else s.setCont (hDie h) (hIndex h) c

/-- A reference on a task record goes; a DRAINING record without references becomes FREE with the next generation (R22,
R176). -/
def State.dropTaskRef (s : State) (h : Word) : State :=
  if handleForm h 1 taskPool then
    let x := s.task (hDie h) (hIndex h)
    if x.gen == hGen h then
      let x := { x with refs := x.refs - 1 }
      if x.state = 7 ∧ x.refs = 0 then s.setTask (hDie h) (hIndex h) { TaskRec.reset with gen := x.gen + 1#16 }
      else s.setTask (hDie h) (hIndex h) x
    else s
  else s

/-- A reference on a task record is taken (R176). -/
def State.addTaskRef (s : State) (h : Word) : State := s.modTask (hDie h) (hIndex h) fun x => { x with refs := x.refs + 1 }

/-- A record goes to FREE, or to DRAINING while references are in flight (R176, R180). -/
def State.freeTask (s : State) (d i : Nat) : State :=
  let x := s.task d i
  if x.refs = 0 then s.setTask d i { TaskRec.reset with gen := x.gen }
  else s.setTask d i (x.setState 7)

/-! ## A strand takes a trap (R210, R211, R278) -/

/-- A synchronous trap of the strand's current instruction: the trap PC and, but for TRAP and the asynchronous codes, the
resume point are the first word of its run, and PLATCH is cleared (R210, R215, R278). -/
def TrapInfo.ofTrip (r : Regs) (t : Trip) : TrapInfo :=
  { code := t.1, sub := t.2.1, pc := r.runPc, addr := t.2.2, kind := 0#4, resume := r.runPc, sync := true,
    atRestart := false, debug := false }

/-- A queue without the entries numbered from `mark` on. -/
def Queue.before (q : Queue) (mark : Nat) : Queue := { q with ents := q.ents.filter fun e => decide (e.id < mark) }

/-- The strand without the instruction that traps and the later ones: registers and walkers as they were at its issue, and of an A-strand the
entries of lq and of the store buffer that they reserved or entered are gone (R212). -/
def Tile.discard (t : Tile) (σ : Side) : Tile :=
  match (t.strand σ).undo with
  | none => t
  | some u =>
    let t := { t.setStrand σ { t.strand σ with regs := u.regs, undo := none } with
      w := u.walkers.foldl (fun w p => w.setIfInBounds p.1 p.2) t.w }
    if σ = .a then { t with lq := t.lq.map (·.before u.mark), sb := t.sb.filterMap (·.upTo u.since) } else t

/-- Walker n of the tile is about to be changed by an instruction behind one that traps (R212). -/
def Tile.noteWalker (t : Tile) (σ : Side) (n : Nat) : Tile :=
  match (t.strand σ).undo with
  | none => t
  | some u =>
    if u.walkers.any (·.1 == n) then t
    else t.setStrand σ { t.strand σ with undo := some { u with walkers := (n, t.wget n) :: u.walkers } }

/-- The strand stops with a trap: it issues nothing more (R211).  A copy whose checks fail clears the bits it set (R301). -/
def Tile.takeTrap (t : Tile) (σ : Side) (i : TrapInfo) : Tile :=
  let x := t.strand σ
  let t := (x.verdicts.filterMap (·.owner)).foldl (fun t n => t.disown n) t
  t.setStrand σ { x with phase := .trapped i, verdicts := [], undo := none, home := none, restart := none, zerof := none
                         waitb := false
                         regs := { x.regs.clearLatch with pc := i.resume, runPc := i.resume } }

/-- The strand stops at a boundary without a trap of its own: it resumes at its next unissued word, with its latched prefix
words (R92, R211, R398). -/
def Tile.takeStop (t : Tile) (σ : Side) : Tile :=
  let x := t.strand σ
  t.setStrand σ { x with phase := .stopped, restart := none, zerof := none, waitb := false }

end Sys2Proof.Machine
end

