-- ==== Sys2Proof/Machine/Operands.lean ====
section
/-!
DEFINITION. Sys2Proof/Machine/Operands.lean: PLATCH (R92), the prefix words' fields (R275), what each instruction accepts
of them (R273, R274, R277), and the operand forms (R273).
-/
namespace Sys2Proof.Machine

/-! ## PLATCH (R92) -/

def plBits (p : BitVec 128) (lo n : Nat) : Nat := bits p.toNat lo n
def plWords (p : BitVec 128) : Nat := plBits p 69 3
def plGuard (p : BitVec 128) : Bool := p.getLsbD 64
def plGuardP (p : BitVec 128) : Nat := plBits p 65 3
def plGuardNeg (p : BitVec 128) : Bool := p.getLsbD 68
def plPage (p : BitVec 128) : Nat := plBits p 62 2
def plNfmt (p : BitVec 128) : Bool := p.getLsbD 53
def plNfmtByte (p : BitVec 128) : Nat := plBits p 54 8
def plMemq (p : BitVec 128) : Bool := p.getLsbD 44
def plMemqByte (p : BitVec 128) : Nat := plBits p 45 8
def plXreg (p : BitVec 128) : Bool := p.getLsbD 35
def plXregByte (p : BitVec 128) : Nat := plBits p 36 8
def plXcount (p : BitVec 128) : Nat := plBits p 32 3
def plXbits (p : BitVec 128) : Nat := plBits p 0 32

/-- `p` with the `n` bits at `lo` set to `v`; they were zero. -/
def plOr (p : BitVec 128) (lo v : Nat) : BitVec 128 := p ||| BitVec.ofNat 128 (v <<< lo)

/-- One more latched prefix word (R92). -/
def plCount (p : BitVec 128) : BitVec 128 := BitVec.ofNat 128 (p.toNat + 2 ^ 69)

def plAddXimm (p : BitVec 128) (i : BitVec 8) : BitVec 128 :=
  plOr (plCount (BitVec.ofNat 128 (p.toNat + 2 ^ 32))) (8 * plXcount p) i.toNat
def plAddXreg (p : BitVec 128) (x : BitVec 7) : BitVec 128 := plOr (plOr (plCount p) 35 1) 36 x.toNat
def plAddPage (p : BitVec 128) (g : BitVec 2) : BitVec 128 := plOr (plCount p) 62 g.toNat
def plAddMemq (p : BitVec 128) (b : BitVec 8) : BitVec 128 := plOr (plOr (plCount p) 44 1) 45 b.toNat
def plAddNfmt (p : BitVec 128) (b : BitVec 8) : BitVec 128 := plOr (plOr (plCount p) 53 1) 54 b.toNat
def plAddGuard (p : BitVec 128) (g : BitVec 3) (n : Bool) : BitVec 128 :=
  plOr (plOr (plOr (plCount p) 64 1) 65 g.toNat) 68 (b2n n)

/-! ## MEMQ (R275) -/

def memqStream (p : BitVec 128) : Nat := if plMemq p then bits (plMemqByte p) 4 4 else 0
def memqScope (p : BitVec 128) : Nat := if plMemq p then bits (plMemqByte p) 1 3 else 0
/-- Acquire on a load or Granary read, release on a store or Granary write (R275). -/
def memqBit (p : BitVec 128) : Bool := plMemq p && (plMemqByte p).testBit 0

/-! ## What an instruction accepts (R274, R277) -/

/-- How a prefix kind is used. -/
inductive Accept where
  | no
  | yes
  | must
  deriving DecidableEq, Repr

/-- What MEMQ fields an instruction uses (R277). -/
inductive MemqUse where
  | no
  | all
  | scopeOnly
  | noStream
  deriving DecidableEq, Repr

/-- The prefixes an instruction accepts: its page, XREG with the mask of XREG bits that must be zero, the most XIMM words
with the number it requires and the mask of their bits that must be zero, MEMQ, NFMT, GUARD, and the strands it is valid
in (R277, R280, R281); with them the distance of its verdict cycle from its issue (R212). -/
structure Form where
  page  : Nat := 0
  xreg  : Accept := .no
  xzero : Nat := 0
  ximm  : Nat := 0
  xneed : Nat := 0
  izero : Nat := 0
  memq  : MemqUse := .no
  nfmt  : Accept := .no
  guard : Bool := true
  a     : Bool := true
  e     : Bool := true
  verdict : Nat := 0
  stays   : Bool := false
  deriving DecidableEq, Repr

/-- A prefix kind stands where it is accepted and is there where it is required. -/
def Accept.ok (x : Accept) (present : Bool) : Bool :=
  match x with
  | .no => !present
  | .yes => true
  | .must => present

/-- MEMQ's unused fields are zero (R277). -/
def MemqUse.ok (u : MemqUse) (p : BitVec 128) : Bool :=
  match u with
  | .no => !plMemq p
  | .all => true
  | .scopeOnly => !plMemq p || (bits (plMemqByte p) 4 4 == 0 && !(plMemqByte p).testBit 0)
  | .noStream => !plMemq p || bits (plMemqByte p) 4 4 == 0

/-- Stage 1 of R278 for an instruction of this form: the page, every latched prefix accepted, every required one present,
zero fields zero, the strand allowed. -/
def Form.stage1 (f : Form) (p : BitVec 128) (σ : Side) : Bool :=
  plPage p == f.page &&
  (f.guard || !plGuard p) &&
  f.xreg.ok (plXreg p) && (!plXreg p || (plXregByte p &&& f.xzero) == 0) &&
  decide (plXcount p ≤ f.ximm) && decide (f.xneed ≤ plXcount p) && (plXbits p &&& f.izero) == 0 &&
  f.memq.ok p && f.nfmt.ok (plNfmt p) &&
  (match σ with
   | .a => f.a
   | .e => f.e)

/-! ### The forms (R273, R280, R281, R316) -/

/-- No prefix but GUARD. -/
def formZ : Form := {}
/-- Not even GUARD. -/
def formBare : Form := { guard := false }
/-- D: three operands with XREG. -/
def formD : Form := { xreg := .yes }
/-- D with XREG required. -/
def formD3 : Form := { xreg := .must }
/-- D without a b operand: XREG [4:0] zero. -/
def formD2 : Form := { xreg := .yes, xzero := 0x1F }
/-- D, a only: XREG [6] and [4:0] zero. -/
def formDa : Form := { xreg := .yes, xzero := 0x5F }
/-- D, d only: XREG [5:0] zero. -/
def formDd : Form := { xreg := .yes, xzero := 0x3F }
/-- I with up to n XIMM words: XREG [5:0] zero. -/
def formI (n : Nat) : Form := { xreg := .yes, xzero := 0x3F, ximm := n }
/-- C: XREG [6:5] zero. -/
def formC : Form := { xreg := .yes, xzero := 0x60 }
/-- J and B: XIMM only. -/
def formJ : Form := { ximm := 4 }

/-- The form in the A-strand only. -/
def Form.aOnly (f : Form) : Form := { f with e := false }
/-- The form in the E-strand only. -/
def Form.eOnly (f : Form) : Form := { f with a := false }
/-- The form on page 1. -/
def Form.page1 (f : Form) : Form := { f with page := 1 }

/-- The form with a verdict `n` cycles after issue (R212). -/
def Form.verdictAt (f : Form) (n : Nat) : Form := { f with verdict := n }

/-! ### Operand numbers -/

/-- XREG [6]·16 + d (R273). -/
def dNum (p : BitVec 128) (d : BitVec 4) : Nat := if plXreg p then 16 * b2n ((plXregByte p).testBit 6) + d.toNat else d.toNat
/-- XREG [5]·16 + a (R273). -/
def aNum (p : BitVec 128) (a : BitVec 4) : Nat := if plXreg p then 16 * b2n ((plXregByte p).testBit 5) + a.toNat else a.toNat
/-- XREG [4]·16 + XREG [3:0] (R273). -/
def bNum (p : BitVec 128) : Nat := bits (plXregByte p) 0 5

/-- The operand numbers of a D-format operation on two sources: with XREG d ← a op b, without it d ← d op a (R273). -/
def dSources (p : BitVec 128) (d a : BitVec 4) : Nat × Nat :=
  if plXreg p then (aNum p a, bNum p) else (d.toNat, a.toNat)

/-- A signed immediate of n base bits widened by the XIMM words (R274). -/
def immS (p : BitVec 128) (n base : Nat) : Word := sext (n + 8 * plXcount p) (base + (plXbits p <<< n))
/-- An unsigned immediate of n base bits widened by the XIMM words (R274). -/
def immU (p : BitVec 128) (n base : Nat) : Nat := base + (plXbits p <<< n)

/-- The word after the instruction's non-prefix word, which stands at `pc` (R271). -/
def addrNext (r : Regs) : Word := r.pc + 2#64
/-- A branch target from a signed word offset (R274). -/
def branchTarget (r : Regs) (off : Word) : Word := addrNext r + 2#64 * off

/-- Format codes of NFMT, operand A and operand B (R100), with a default where NFMT is absent. -/
def nfmtA (p : BitVec 128) (dflt : Nat) : Nat := if plNfmt p then bits (plNfmtByte p) 4 4 else dflt
def nfmtB (p : BitVec 128) (dflt : Nat) : Nat := if plNfmt p then bits (plNfmtByte p) 0 4 else dflt

end Sys2Proof.Machine
end

