-- ==== Sys2Proof/Machine/Issue.lean ====
section
/-!
DEFINITION. Sys2Proof/Machine/Issue.lean: how a strand issues one word (R85–R92, R211, R212, R278, R317): parking, the two
stages of checks with the guard between them, the wait for commits, checked mode, and what retiring does to the program
counter, PLATCH and the loop stack.  Every meaning of a word instruction is a body given to `issue`.
-/
namespace Sys2Proof.Machine

/-- The outcome type of a step. -/
abbrev Result := Host.Outcome State Fault Refusal

/-- What the body of an instruction sees: the state, the tile and strand that issue, the run, the registers, PLATCH and the
cycle. -/
structure Env where
  s   : State
  k   : Nat
  σ   : Side
  t   : Tile
  run : Run
  r   : Regs
  pl  : BitVec 128
  now : Nat
  deriving DecidableEq, Repr

/-- What the body of an instruction answers: the strand waits at issue and nothing changes; it holds its issue with some
effect; it traps, with the verdict in the given cycle (R212); it traps with some effect, which may be in-flight bits set under
a number until then (R301); it traps with some effect, and the strand's next word would issue only with its verdict (R226); or the instruction
issues, with the state after its effect,
the address it transfers to (and whether the transfer pops loop entries, R85), its cost in cycles and the cycle of its verdict where that is later. -/
inductive Effect where
  | wait
  | hold (s : State)
  | trap (t : Trip) (due : Nat)
  | trapHeld (s : State) (t : Trip) (due : Nat) (owner : Option Nat)
  | trapStay (s : State) (t : Trip) (due : Nat)
  | done (s : State) (jump : Option (Word × Bool)) (cost : Nat) (due : Option Nat)
  deriving DecidableEq, Repr

/-- Does the instruction wait at issue? -/
def Effect.waits : Effect → Bool
  | .wait => true
  | _ => false

/-- The strand in focus, with its run, if it may issue (R75, R87). -/
def State.focus (s : State) : Option Env :=
  match s.who with
  | none => none
  | some (k, σ) =>
    let t := s.tile k
    match s.runOf k with
    | none => none
    | some run =>
      if (t.strand σ).phase = .run then
        some { s := s, k := k, σ := σ, t := t, run := run, r := t.regs σ, pl := (t.regs σ).platch, now := s.cycle }
      else none

/-- A trap of the strand's current word: at once if every earlier verdict has returned, else behind them (R211, R212); the strand's next word
would issue with its verdict. -/
def Env.raise (e : Env) (i : TrapInfo) (due : Nat) : State :=
  let x := e.t.strand e.σ
  if due ≤ e.now ∧ x.verdicts = [] then e.s.setTile e.k (e.t.takeTrap e.σ i)
  else e.s.setTile e.k (e.t.setStrand e.σ { x with
    readyAt := max x.readyAt due, verdicts := x.verdicts ++ [{ due := due, fail := some i, owner := none }] })

/-! ## Loops (R85, R323) -/

/-- Does a body hold the address? -/
def LoopEntry.holds (x : LoopEntry) (a : Word) : Bool := decide (x.start.toNat ≤ a.toNat) && decide (a.toNat ≤ x.stop.toNat)

/-- A taken transfer pops entries until its target lies inside the innermost remaining body (R85). -/
def popLoops (target : Word) (l : List LoopEntry) : List LoopEntry := l.dropWhile fun x => !x.holds target

/-- The check at the end of a body: the next issue address, if the loop goes on, and the loop stack with the loop registers
(R85, R323: nested entries that share the end address are checked in the same cycle). -/
def loopCheck (pc : Word) : List LoopEntry → Regs → Option Word × Regs
  | [], r => (none, { r with loops := [] })
  | x :: rest, r =>
    if x.stop = pc then
      if 1 < (r.lget x.l).toNat then (some x.start, { r.lset x.l (r.lget x.l - 1#64) with loops := x :: rest })
      else loopCheck pc rest (r.lset x.l 0#64)
    else (none, { r with loops := x :: rest })

/-- The registers after an instruction has issued or been nullified: PLATCH and PPV cleared (R92), the program counter at
the transfer's target or the next word, the loop stack popped or checked (R85). -/
def Regs.retire (r : Regs) (jump : Option (Word × Bool)) : Regs :=
  let r := r.clearLatch
  match jump with
  | some (a, pops) => { r with pc := a, runPc := a, loops := if pops then popLoops a r.loops else r.loops }
  | none =>
    let x := loopCheck r.pc r.loops r
    let a := x.1.getD (r.pc + 2#64)
    { x.2 with pc := a, runPc := a }

/-- The strand after its instruction has issued at cycle `now` with a cost, and a verdict due later (R86, R212). -/
def Strand.retire (x : Strand) (now : Nat) (jump : Option (Word × Bool)) (cost : Nat) (due : Option Nat) : Strand :=
  { x with
    regs := x.regs.retire jump
    issued := true
    readyAt := now + cost
    zerof := none
    restart := none
    verdicts := match due with
      | some d => x.verdicts ++ [{ due := d, fail := none, owner := none }]
      | none => x.verdicts }

/-- The state after strand σ of tile k has retired its instruction. -/
def State.retire (s : State) (k : Nat) (σ : Side) (jump : Option (Word × Bool)) (cost : Nat) (due : Option Nat) : State :=
  s.modTile k fun t => t.setStrand σ ((t.strand σ).retire s.cycle jump cost due)

/-- What a strand whose instruction traps later returns to: as it is now, unless an instruction before this one traps (R212). -/
def Env.undo (e : Env) : Option Undo :=
  let x := e.t.strand e.σ
  some (x.undo.getD { regs := x.regs, walkers := [], since := e.now, mark := e.t.nextId })

/-- A trap of the strand's current word whose verdict falls later: the strand goes on issuing until then (R212, log entry 11).  `s` is the
state with what the instruction has done until its verdict. -/
def Env.raiseLater (e : Env) (s : State) (i : TrapInfo) (due : Nat) (owner : Option Nat) : State :=
  (s.modTile e.k fun t => t.setStrand e.σ { t.strand e.σ with
    undo := e.undo, verdicts := (t.strand e.σ).verdicts ++ [{ due := due, fail := some i, owner := owner }] }).retire e.k e.σ none 1 none

/-- A synchronous trap of the current instruction, with its verdict in the cycle `due`. -/
def Env.trap (e : Env) (t : Trip) (due : Nat) : State :=
  if due ≤ e.now then e.raise (TrapInfo.ofTrip e.r t) due else e.raiseLater e.s (TrapInfo.ofTrip e.r t) due none

/-- A synchronous trap of the current instruction, whose next word issues only with its verdict, after the state `s` (R226). -/
def Env.trapStay (e : Env) (s : State) (t : Trip) (due : Nat) : State := { e with s := s, t := s.tile e.k }.raise (TrapInfo.ofTrip e.r t) due

/-! ## Issue -/

/-- Is the guard false, so that the instruction is nullified (R278)? -/
def Env.nullified (e : Env) : Bool := plGuard e.pl && (e.r.pget (plGuardP e.pl) == plGuardNeg e.pl)

/-- Does a request write the frame registers in its result (R199)? -/
def HomeOp.writesFd (s : State) (fb : BitVec 16) : HomeOp → Bool
  | .fpush _ _ => true
  | .fret _ _ => true
  | .fdrop h => (s.fibre fb).word 5 == h
  | .finfo _ sel _ => wbits sel 0 4 == 8
  | _ => false

/-- Are the frame registers outstanding for the other strand of the tile: its result is on the way, or its request will write them (R90,
R199)? -/
def Env.fdComing (e : Env) : Bool :=
  let x := e.t.strand (sideOther e.σ)
  x.regs.outstanding .fd || x.home.any fun i => (mget e.s.homes i).any fun q => match q.reply with
    | some a => a.res.any fun v => v.touch == some .fd
    | none => q.op.writesFd e.s e.run.fibre

/-- Is a register outstanding (R88): a result of this strand, or for the frame registers of either (R90)? -/
def Env.outstanding (e : Env) (x : Touch) : Bool := e.r.outstanding x || (x == .fd && e.fdComing)

/-- In checked mode, is one of these registers outstanding (R90)? -/
def Env.hazard (e : Env) (xs : List Touch) : Bool := e.r.checked && xs.any e.outstanding

/-- The guard predicate as a register that is read (R278). -/
def guardTouch (p : BitVec 128) : List Touch := if plGuard p then [.p (plGuardP p)] else []

/-- What an effect makes of the state. -/
def Env.apply (e : Env) : Effect → State
  | .wait => e.s
  | .hold s => s
  | .trap t due => e.trap t due
  | .trapHeld s t due owner => e.raiseLater s (TrapInfo.ofTrip e.r t) due owner
  | .trapStay s t due => e.trapStay s t due
  | .done s jump cost due => s.retire e.k e.σ jump cost due

/-- A failing check of an instruction of form `f` that does not rest on its own effect (R212). -/
def Env.trapForm (e : Env) (f : Form) (t : Trip) : State :=
  if f.stays then e.trapStay e.s t (e.now + f.verdict) else e.trap t (e.now + f.verdict)

/-- Issue of an instruction of form `f` (R278): stage 1, with `bad` for a check of its own that depends only on its words;
the guard; the wait for earlier commits where the instruction may not be provisional (R212), and a wait of its own; checked mode
over the registers it reads and writes in the cycle it issues in (R90); then its own effect.  A failing check traps in the instruction's verdict cycle,
whenever it is found (R212, log entry 11). -/
def Env.issue (e : Env) (f : Form) (bad commit : Bool) (uses : List Touch) (body : Env → Effect) : State :=
  if bad || !f.stage1 e.pl e.σ then e.trapForm f (trip codeIllegal)
  else if e.hazard (guardTouch e.pl) then e.trapForm f (trip codeHazard)
  else if e.nullified then e.s.retire e.k e.σ none 1 none
  else if commit && !(e.t.strand e.σ).verdicts.isEmpty then e.s
  else if e.hazard uses && !(body e).waits then e.trapForm f (trip codeHazard)
  else e.apply (body e)

/-- A word with marker `m` in the strand in focus (R89): it parks while a result of the strand is outstanding.  `bad` is a
stage-1 check of its own over PLATCH. -/
def issueIf (bad : BitVec 128 → Bool) (m : Bool) (f : Form) (commit : Bool) (uses : Env → List Touch) (body : Env → Effect)
    (s : State) : Result :=
  match s.focus with
  | none => .fault .noStrand
  | some e => if m && !e.r.out.isEmpty then .next s else .next (e.issue f (bad e.pl) commit (uses e) body)

/-- The same without a stage-1 check of its own. -/
def issue (m : Bool) (f : Form) (commit : Bool) (uses : Env → List Touch) (body : Env → Effect) (s : State) : Result :=
  issueIf (fun _ => false) m f commit uses body s

/-- Has a verdict of the strand fallen that traps and still waits for earlier ones?  It issues nothing more then (R212). -/
def Strand.barred (x : Strand) (now : Nat) : Bool := x.verdicts.any fun v => v.fail.isSome && decide (v.due ≤ now)

/-- When a store that issues now commits, with its own verdict at `v` (R212). -/
def Env.storeTime (e : Env) (v : Nat) : StoreTime := { since := e.now, commit := (e.t.strand e.σ).commitAt v }

/-- A load whose checks fail later holds its result's place until then, as one whose checks pass does: `hold` reserves it (R79, R212). -/
def Env.holding (e : Env) (hold : Tile → Tile) : Effect → Effect
  | .trap t due => .trapHeld (e.s.modTile e.k hold) t due none
  | x => x

/-! ## Effects shared by the families -/

/-- The state with the registers of the issuing strand changed. -/
def Env.regs (e : Env) (f : Regs → Regs) : State := e.s.setTile e.k (e.t.modRegs e.σ f)

/-- A short result: written in the issue cycle (R88). -/
def Env.short (e : Env) (f : Regs → Regs) : Effect := .done (e.regs f) none 1 none

/-- The tile with the residue check of a result readable at `at_`, complete 32 cycles later (R268, R391). -/
def Tile.checkResult (t : Tile) (at_ : Nat) : Tile := { t with checks := ins t.checks (at_ + 32) }

/-- A short result of checked arithmetic (R88, R391). -/
def Env.shortChecked (e : Env) (f : Regs → Regs) : Effect :=
  .done (e.s.setTile e.k ((e.t.modRegs e.σ f).checkResult (e.now + 1))) none 1 none

/-- An unchecked result of the strand with latency `lat` (R88). -/
def Env.later (e : Env) (lat : Nat) (v : ResVal) (flags : BitVec 5 := 0#5) : Effect :=
  .done (e.regs (·.post (e.now + lat) v flags)) none 1 none

/-- An unchecked result of checked arithmetic with latency `lat` (R88, R391). -/
def Env.laterChecked (e : Env) (lat : Nat) (v : ResVal) (flags : BitVec 5 := 0#5) : Effect :=
  .done (e.s.setTile e.k ((e.t.modRegs e.σ (·.post (e.now + lat) v flags)).checkResult (e.now + lat))) none 1 none

/-! ## Prefix words (R317) -/

/-- The registers after a prefix word has issued: PLATCH holds it, PPV is set, the next word of the run follows (R92). -/
def Regs.latch (r : Regs) (p : BitVec 128) : Regs := { r with platch := p, st := r.st ||| 0x200#16, pc := r.pc + 2#64 }

/-- Issue of a prefix word: illegal in the word itself, a fifth word, a kind that stands already or a fifth XIMM raise
ILLEGAL; else it is latched (R275, R276, R317). -/
def issuePrefix (illegal : BitVec 128 → Bool) (add : BitVec 128 → BitVec 128) (s : State) : Result :=
  match s.focus with
  | none => .fault .noStrand
  | some e =>
    if illegal e.pl || plWords e.pl == 4 then .next (e.trap (trip codeIllegal) e.now)
    else
      let x := e.t.strand e.σ
      .next (s.setTile e.k (e.t.setStrand e.σ { x with regs := x.regs.latch (add e.pl), readyAt := e.now + 1 }))

end Sys2Proof.Machine
end

