-- ==== Sys2Proof/Machine/Scalar.lean ====
section
/-!
DEFINITION. Sys2Proof/Machine/Scalar.lean: moves, constants, integer arithmetic and logic, comparisons and predicates of both
strands (R326–R336).
-/
namespace Sys2Proof.Machine

/-! ## Shared shapes -/

/-- s[n] as a touched register. -/
def tS (n : Nat) : Touch := .s n
/-- p[n] as a touched register. -/
def tP (n : Nat) : Touch := .p n

/-- A two-operand integer instruction, d ← x op y, as a short result (R328). -/
def binShort (m : Bool) (f : Form) (d a : BitVec 4) (op : Word → Word → Word) (s : State) : Result :=
  issue m f false (fun e => [tS (dNum e.pl d), tS (dSources e.pl d a).1, tS (dSources e.pl d a).2])
    (fun e => e.shortChecked (·.sset (dNum e.pl d) (op (e.r.sget (dSources e.pl d a).1) (e.r.sget (dSources e.pl d a).2)))) s

/-- The same with an unchecked result of latency `lat` (R328, R331). -/
def binLater (m : Bool) (f : Form) (lat : Nat) (d a : BitVec 4) (op : Word → Word → Word) (s : State) : Result :=
  issue m f false (fun e => [tS (dNum e.pl d), tS (dSources e.pl d a).1, tS (dSources e.pl d a).2])
    (fun e => e.laterChecked lat
      (.s (dNum e.pl d) (op (e.r.sget (dSources e.pl d a).1) (e.r.sget (dSources e.pl d a).2)))) s

/-- A unary integer instruction, d ← op(a), as a short result (R332). -/
def unaShort (m : Bool) (d a : BitVec 4) (op : Word → Word) (s : State) : Result :=
  issue m formD2 false (fun e => [tS (dNum e.pl d), tS (aNum e.pl a)])
    (fun e => e.shortChecked (·.sset (dNum e.pl d) (op (e.r.sget (aNum e.pl a))))) s

/-- An I-format instruction on s[d] with an immediate (R329). -/
def immShort (m : Bool) (f : Form) (d : BitVec 4) (imm : BitVec 128 → Word) (op : Word → Word → Word) (s : State) : Result :=
  issue m f false (fun e => [tS (dNum e.pl d)])
    (fun e => e.shortChecked (·.sset (dNum e.pl d) (op (e.r.sget (dNum e.pl d)) (imm e.pl)))) s

/-- A comparison of s[a] with s[b], or with 0 without XREG, into p[p] (R334). -/
def compare (m : Bool) (p : BitVec 3) (a : BitVec 5) (cond : Word → Word → Bool) (s : State) : Result :=
  issue m formC false (fun e => [tP p.toNat, tS a.toNat] ++ (if plXreg e.pl then [tS (bNum e.pl)] else []))
    (fun e => e.shortChecked
      (·.pset p.toNat (cond (e.r.sget a.toNat) (if plXreg e.pl then e.r.sget (bNum e.pl) else 0#64)))) s

/-! ## Moves and constants (R326, R327) -/

def execMov (m : Bool) (d a : BitVec 4) (s : State) : Result :=
  issue m formD2 false (fun e => [tS (dNum e.pl d), tS (aNum e.pl a)])
    (fun e => e.short (·.sset (dNum e.pl d) (e.r.sget (aNum e.pl a)))) s

def execMovi (m : Bool) (d i : BitVec 4) (s : State) : Result :=
  issue m (formI 4) false (fun e => [tS (dNum e.pl d)])
    (fun e => e.short (·.sset (dNum e.pl d) (immS e.pl 4 i.toNat))) s

/-- Is [a, a + n) within a code range (R39, R327)? -/
def Run.inCode (r : Run) (a n : Nat) : Bool := decide (r.codeBase ≤ a) && decide (a + n ≤ r.codeBase + r.codeLen)

/-- Eight bytes of the instruction store at a VA of the code range (R327). -/
def Tile.code64 (t : Tile) (a : Nat) : Word := w64 (Memory.read t.store.mem (a - t.store.base) 8)

/-- LDC (R327): the literal at addr_next + 2 · imm, from the instruction store, latency 3. -/
def execLdc (m : Bool) (d i : BitVec 4) (s : State) : Result :=
  issue m (formI 4) false (fun e => [tS (dNum e.pl d)])
    (fun e =>
      let la := (addrNext e.r).toNat + 2 * immU e.pl 4 i.toNat
      if la % 8 != 0 then .trap (trip codeIllegal) e.now
      else if !e.run.inCode la 8 then .trap (tripAt codeCodeRange la) e.now
      else e.later 3 (.s (dNum e.pl d) (e.t.code64 la))) s

/-! ## Arithmetic and logic (R328–R333) -/

def execAdd (m : Bool) (d a : BitVec 4) (s : State) : Result := binShort m formD d a (fun x y => x + y) s
def execSub (m : Bool) (d a : BitVec 4) (s : State) : Result := binShort m formD d a (fun x y => x - y) s
def execAnd (m : Bool) (d a : BitVec 4) (s : State) : Result := binShort m formD d a (fun x y => x &&& y) s
def execOr (m : Bool) (d a : BitVec 4) (s : State) : Result := binShort m formD d a (fun x y => x ||| y) s
def execXor (m : Bool) (d a : BitVec 4) (s : State) : Result := binShort m formD d a (fun x y => x ^^^ y) s

/-- A shift or rotate amount: bits [5:0] of the amount register (R328). -/
def amount (y : Word) : Nat := y.toNat % 64

def execShl (m : Bool) (d a : BitVec 4) (s : State) : Result := binShort m formD d a (fun x y => x <<< amount y) s
def execShr (m : Bool) (d a : BitVec 4) (s : State) : Result := binShort m formD d a (fun x y => x >>> amount y) s
def execSra (m : Bool) (d a : BitVec 4) (s : State) : Result := binShort m formD d a (fun x y => x.sshiftRight (amount y)) s
def execRotl (m : Bool) (d a : BitVec 4) (s : State) : Result := binShort m formD d a (fun x y => x.rotateLeft (amount y)) s
def execMin (m : Bool) (d a : BitVec 4) (s : State) : Result := binShort m formD d a (fun x y => if x.slt y then x else y) s
def execMax (m : Bool) (d a : BitVec 4) (s : State) : Result := binShort m formD d a (fun x y => if x.slt y then y else x) s
def execMinu (m : Bool) (d a : BitVec 4) (s : State) : Result := binShort m formD d a (fun x y => if x.ult y then x else y) s
def execMaxu (m : Bool) (d a : BitVec 4) (s : State) : Result := binShort m formD d a (fun x y => if x.ult y then y else x) s

/-- Bits [127:64] of the signed product (R328). -/
def mulHigh (x y : Word) : Word := (BitVec.ofInt 128 (x.toInt * y.toInt)).extractLsb' 64 64

def execMul (m : Bool) (d a : BitVec 4) (s : State) : Result := binLater m formD 4 d a (fun x y => x * y) s
def execMulh (m : Bool) (d a : BitVec 4) (s : State) : Result := binLater m formD 4 d a mulHigh s

/-- Signed quotient toward zero (R331). -/
def divSigned (x y : Word) : Word := if y = 0#64 then BitVec.allOnes 64 else BitVec.ofInt 64 (x.toInt.tdiv y.toInt)
/-- Signed remainder, with the sign of x (R331). -/
def remSigned (x y : Word) : Word := if y = 0#64 then x else BitVec.ofInt 64 (x.toInt.tmod y.toInt)
/-- Unsigned quotient (R331). -/
def divUnsigned (x y : Word) : Word := if y = 0#64 then BitVec.allOnes 64 else x / y
/-- Unsigned remainder (R331). -/
def remUnsigned (x y : Word) : Word := if y = 0#64 then x else x % y

def execDiv (m : Bool) (d a : BitVec 4) (s : State) : Result := binLater m formD 20 d a divSigned s
def execRem (m : Bool) (d a : BitVec 4) (s : State) : Result := binLater m formD 20 d a remSigned s
def execDivu (m : Bool) (d a : BitVec 4) (s : State) : Result := binLater m formD.page1 20 d a divUnsigned s
def execRemu (m : Bool) (d a : BitVec 4) (s : State) : Result := binLater m formD.page1 20 d a remUnsigned s

/-- MADD (R330): s[d] + s[a] · s[b], latency 4. -/
def execMadd (m : Bool) (d a : BitVec 4) (s : State) : Result :=
  issue m formD3 false (fun e => [tS (dNum e.pl d), tS (aNum e.pl a), tS (bNum e.pl)])
    (fun e => e.laterChecked 4 (.s (dNum e.pl d)
      (e.r.sget (dNum e.pl d) + e.r.sget (aNum e.pl a) * e.r.sget (bNum e.pl)))) s

def execAddi (m : Bool) (d i : BitVec 4) (s : State) : Result :=
  immShort m (formI 4) d (fun p => immS p 4 i.toNat) (fun x y => x + y) s
def execAndi (m : Bool) (d i : BitVec 4) (s : State) : Result :=
  immShort m (formI 4) d (fun p => immS p 4 i.toNat) (fun x y => x &&& y) s

/-- The form of an immediate 0 to 63 of four base bits: a larger value raises ILLEGAL in stage 1 (R329, R376). -/
def formI63 : Form := { formI 1 with izero := 0xFC }

def execShli (m : Bool) (d i : BitVec 4) (s : State) : Result :=
  immShort m formI63 d (fun p => w64 (immU p 4 i.toNat)) (fun x y => x <<< amount y) s
def execShri (m : Bool) (d i : BitVec 4) (s : State) : Result :=
  immShort m formI63 d (fun p => w64 (immU p 4 i.toNat)) (fun x y => x >>> amount y) s
def execSrai (m : Bool) (d i : BitVec 4) (s : State) : Result :=
  immShort m formI63 d (fun p => w64 (immU p 4 i.toNat)) (fun x y => x.sshiftRight (amount y)) s

/-- Leading zero bits of a word (R332). -/
def leadingZeros (x : Word) : Word := if x = 0#64 then 64#64 else w64 (63 - Nat.log2 x.toNat)
/-- One bits of a word (R332). -/
def onesCount (x : Word) : Word := w64 (popcount x.toNat 64)

def execClz (m : Bool) (d a : BitVec 4) (s : State) : Result := unaShort m d a leadingZeros s
def execPopc (m : Bool) (d a : BitVec 4) (s : State) : Result := unaShort m d a onesCount s

/-- Position and length of a bit field from s[b]; length 0 means 64 (R333). -/
def fieldPos (x : Word) : Nat := wbits x 0 6
def fieldLen (x : Word) : Nat := if wbits x 8 6 = 0 then 64 else wbits x 8 6
/-- The field's mask. -/
def fieldMask (x : Word) : Word := w64 ((2 ^ fieldLen x - 1) <<< fieldPos x)

def execExt (m : Bool) (d a : BitVec 4) (s : State) : Result :=
  issue m formD3 false (fun e => [tS (dNum e.pl d), tS (aNum e.pl a), tS (bNum e.pl)])
    (fun e =>
      let b := e.r.sget (bNum e.pl)
      if 64 < fieldPos b + fieldLen b then .trap (trip codeIllegal) e.now
      else e.shortChecked (·.sset (dNum e.pl d) ((e.r.sget (aNum e.pl a) &&& fieldMask b) >>> fieldPos b))) s

def execIns (m : Bool) (d a : BitVec 4) (s : State) : Result :=
  issue m formD3 false (fun e => [tS (dNum e.pl d), tS (aNum e.pl a), tS (bNum e.pl)])
    (fun e =>
      let b := e.r.sget (bNum e.pl)
      if 64 < fieldPos b + fieldLen b then .trap (trip codeIllegal) e.now
      else e.shortChecked (·.sset (dNum e.pl d)
        ((e.r.sget (dNum e.pl d) &&& ~~~(fieldMask b)) ||| ((e.r.sget (aNum e.pl a) <<< fieldPos b) &&& fieldMask b)))) s

/-! ## Comparisons and predicates (R334, R335) -/

def execCmpeq (m : Bool) (p : BitVec 3) (a : BitVec 5) (s : State) : Result := compare m p a (fun x y => x == y) s
def execCmpne (m : Bool) (p : BitVec 3) (a : BitVec 5) (s : State) : Result := compare m p a (fun x y => x != y) s
def execCmplt (m : Bool) (p : BitVec 3) (a : BitVec 5) (s : State) : Result := compare m p a (fun x y => x.slt y) s
def execCmple (m : Bool) (p : BitVec 3) (a : BitVec 5) (s : State) : Result := compare m p a (fun x y => x.sle y) s
def execCmpltu (m : Bool) (p : BitVec 3) (a : BitVec 5) (s : State) : Result := compare m p a (fun x y => x.ult y) s
def execCmpleu (m : Bool) (p : BitVec 3) (a : BitVec 5) (s : State) : Result := compare m p a (fun x y => x.ule y) s

/-- The four predicate operations (R335). -/
def plogOp (o : BitVec 2) (x y : Bool) : Bool :=
  match o.toNat with
  | 0 => x && y
  | 1 => x || y
  | 2 => x != y
  | _ => x && !y

def execPlog (m : Bool) (d a : BitVec 3) (o : BitVec 2) (s : State) : Result :=
  issue m formZ false (fun _ => [tP d.toNat, tP a.toNat])
    (fun e => e.shortChecked (·.pset d.toNat (plogOp o (e.r.pget d.toNat) (e.r.pget a.toNat)))) s

def execPset (m : Bool) (p : BitVec 3) (v : Bool) (s : State) : Result :=
  issue m formZ false (fun _ => [tP p.toNat]) (fun e => e.short (·.pset p.toNat v)) s

/-- Every predicate, as touched registers. -/
def allPreds : List Touch := (List.range 8).map tP

def execPget (m : Bool) (d : BitVec 4) (s : State) : Result :=
  issue m formDd false (fun e => tS (dNum e.pl d) :: allPreds)
    (fun e => e.short (·.sset (dNum e.pl d) (e.r.preds.setWidth 64))) s

def execPput (m : Bool) (a : BitVec 4) (s : State) : Result :=
  issue m formDa false (fun e => tS (aNum e.pl a) :: allPreds.drop 1)
    (fun e => e.short fun r => { r with p := (e.r.sget (aNum e.pl a)).setWidth 8 &&& 0xFE#8 }) s

/-! ## QSTAT (R336) -/

/-- The occupancy of the tile's queues in cycle `now`, in the layout of the trap save's queue counts (R215, R336). -/
def Tile.queueCounts (t : Tile) (now : Nat) : Word :=
  w64 ((t.lqget 0).used now ||| ((t.lqget 1).used now <<< 4) ||| ((t.lqget 2).used now <<< 8) ||| ((t.lqget 3).used now <<< 12)
    ||| ((t.sqget 0).used now <<< 16) ||| ((t.sqget 1).used now <<< 20)
    ||| (t.mA.used now <<< 24) ||| (t.mB.used now <<< 29)
    ||| (t.oqAE.used now <<< 34) ||| (t.oqEA.used now <<< 39)
    ||| ((t.mx.queue.length + (if t.mx.run.isSome then 1 else 0)) <<< 44))

/-- QSTAT: the counts are those of its issue cycle, with what both strands reserve in it (R79, R336). -/
def execQstat (m : Bool) (d : BitVec 4) (s : State) : Result :=
  issue m { formZ with page := 1 } false (fun _ => [tS d.toNat]) (fun e => e.later 2 (.counts d.toNat)) s

/-- An outstanding result with the queue counts filled in. -/
def Pending.fill (v : Word) (p : Pending) : Pending :=
  match p.val with
  | .counts n => { p with val := .s n v }
  | _ => p

/-- Both strands' QSTATs of this cycle take the queue counts (R336). -/
def Tile.takeCounts (t : Tile) (now : Nat) : Tile :=
  let v := t.queueCounts now
  let fill (r : Regs) : Regs := { r with out := r.out.map (·.fill v) }
  (t.modRegs .a fill).modRegs .e fill

/-- Does a strand wait for queue counts? -/
def Tile.wantsCounts (t : Tile) : Bool :=
  let any (r : Regs) : Bool := r.out.any fun p => match p.val with | .counts _ => true | _ => false
  any (t.regs .a) || any (t.regs .e)

end Sys2Proof.Machine
end

