-- ==== Sys2Proof/Machine/Control.lean ====
section
/-!
DEFINITION. Sys2Proof/Machine/Control.lean: prefix words, transfers, loops, outcome queues, TRAP, restart points, barriers
and the end of a strand (R76, R85, R221, R226, R317–R325, R361, R362, R369).
-/
namespace Sys2Proof.Machine

/-! ## Prefix words (R275, R276, R317) -/

def execXimm (i : BitVec 8) (s : State) : Result :=
  issuePrefix (fun p => plXcount p == 4) (fun p => plAddXimm p i) s

def execXreg (d a : Bool) (b : BitVec 5) (s : State) : Result :=
  issuePrefix plXreg (fun p => plAddXreg p (BitVec.ofBool d ++ BitVec.ofBool a ++ b)) s

def execPage (p : BitVec 2) (s : State) : Result :=
  issuePrefix (fun l => plPage l != 0 || p == 0#2 || p == 3#2) (fun l => plAddPage l p) s

def execMemq (st : BitVec 4) (c : BitVec 3) (q : Bool) (s : State) : Result :=
  issuePrefix (fun p => plMemq p || decide (6 ≤ c.toNat)) (fun p => plAddMemq p (st ++ c ++ BitVec.ofBool q)) s

def execNfmt (a b : BitVec 4) (s : State) : Result :=
  issuePrefix plNfmt (fun p => plAddNfmt p (a ++ b)) s

def execGuard (p : BitVec 3) (n : Bool) (s : State) : Result :=
  issuePrefix plGuard (fun l => plAddGuard l p n) s

/-- A word with a reserved opcode, page or field: ILLEGAL in stage 1 (R279), once a marked one has parked (R89). -/
def execReservedEncoding (w : BitVec 16) (s : State) : Result :=
  match s.focus with
  | none => .fault .noStrand
  | some e => if w.getLsbD 15 && !e.r.out.isEmpty then .next s else .next (e.trap (trip codeIllegal) e.now)

/-! ## NOP and END (R318, R319) -/

def execNop (m : Bool) (s : State) : Result :=
  issue m formZ false (fun _ => []) (fun e => .done e.s none 1 none) s

/-- Does an MX command read or write a queue or port (R319)? -/
def MxOp.usesQueue : MxOp → Bool
  | .mzero _ => false
  | .mma _ _ k _ _ _ => k != 0
  | .mdrain _ _ d => decide (28 ≤ d)
  | .attn _ _ _ _ => true
  | .attnfin _ d => decide (28 ≤ d)

/-- Is there residue in a queue, an outcome queue, a port or a feed (R76, R319)? -/
def Tile.hasResidue (t : Tile) : Bool :=
  t.lq.any (fun (q : Queue) => !q.ents.isEmpty) || t.sq.any (fun (q : Queue) => !q.ents.isEmpty) ||
  !t.mA.ents.isEmpty || !t.mA.flight.isEmpty || !t.mB.ents.isEmpty || !t.mB.flight.isEmpty ||
  !t.oqAE.ents.isEmpty || !t.oqEA.ents.isEmpty || t.feedA.isSome || t.feedB.isSome ||
  t.mx.queue.any (·.op.usesQueue) || (t.mx.run.map (·.cmd.op.usesQueue)).getD false || t.mx.owed.any (28 ≤ ·.d)

/-- Has a strand ended (R75)? -/
def Strand.hasEnded (x : Strand) : Bool :=
  match x.phase with
  | .ended _ => true
  | _ => false

/-- Has a strand ended, or has the home unit performed a request that ends it, whose verdict is on its way (R178, R363)? -/
def State.sideEnded (s : State) (k : Nat) (σ : Side) : Bool :=
  let x := (s.tile k).strand σ
  x.hasEnded || ((x.home.bind (mget s.homes ·)).bind (·.reply)).any (·.ends)

/-- Ends the issuing strand (R75, R178): residue is checked when it is the second to end (R76).  It resumes at the word after
its END, whatever loop that word closes (R289). -/
def Env.endStrand (e : Env) (byAwait : Bool) (s : State) : Effect :=
  if e.s.sideEnded e.k (sideOther e.σ) && e.t.hasResidue then .trap (trip codeResidue) e.now
  else .done (s.modTile e.k fun t => t.setStrand e.σ { t.strand e.σ with phase := .ended byAwait })
    (some (addrNext e.r, false)) 1 none

def execEndStrand (m : Bool) (s : State) : Result :=
  issue m formBare true (fun _ => []) (fun e => e.endStrand false e.s) s

/-! ## Transfers (R320–R322, R226) -/

/-- A taken transfer to a target at a cost (R86). -/
def Env.jump (e : Env) (target : Word) (cost : Nat) : Effect := .done e.s (some (target, true)) cost none

def execBr (m : Bool) (p : BitVec 3) (n : Bool) (o : BitVec 4) (s : State) : Result :=
  issue m formJ false (fun _ => [tP p.toNat])
    (fun e => if e.r.pget p.toNat != n then e.jump (branchTarget e.r (immS e.pl 4 o.toNat)) 1
      else .done e.s none 1 none) s

def execJmp (m : Bool) (o : BitVec 8) (s : State) : Result :=
  issue m formJ false (fun _ => []) (fun e => e.jump (branchTarget e.r (immS e.pl 8 o.toNat)) 1) s

/-- CALL (R320): s31 receives the address of the next word; no loop entry is popped (R85). -/
def execCall (m : Bool) (o : BitVec 8) (s : State) : Result :=
  issue m formJ false (fun _ => [tS 31])
    (fun e => .done (e.regs (·.sset 31 (addrNext e.r))) (some (branchTarget e.r (immS e.pl 8 o.toNat), false)) 1 none) s

/-- A transfer to an absolute address (R321). -/
def Env.jumpTo (e : Env) (a : Word) : Effect :=
  if a.getLsbD 0 then .trap (trip codeIllegal) e.now else e.jump a 6

def execRet (m : Bool) (s : State) : Result :=
  issue m formZ false (fun _ => [tS 31]) (fun e => e.jumpTo (e.r.sget 31)) s

def execJmpr (m : Bool) (a : BitVec 4) (s : State) : Result :=
  issue m formDa false (fun e => [tS (aNum e.pl a)]) (fun e => e.jumpTo (e.r.sget (aNum e.pl a))) s

/-- The table entry at `f` as a JMPT reads it, or the POISON the read meets (R226).  A store that commits in the cycle of an E-strand's read is
seen by it (log entry 96). -/
def Env.jmptEntry (e : Env) (f : Nat) : Trip ⊕ Nat :=
  match poisonCheck e.t f 2 with
  | some t => .inl t
  | none => .inr (e.t.fieldRead (e.σ == .a) (e.now + 1) f 2)

/-- The state with the A-core pipeline taken by a JMPT's table read in the next cycle (R226). -/
def Env.jmptRead (e : Env) (f : Nat) : State :=
  (e.s.repair e.k f 2).modTile e.k fun t => { t with jmptAt := some (e.now + 1, banksOf f 2) }

/-- JMPT (R226): the table entry is read in the next cycle through the A-core pipeline; cost 6, verdict at issue + 6. -/
def execJmpt (m : Bool) (d a : BitVec 4) (s : State) : Result :=
  issue m { formD3.verdictAt 6 with stays := true } false (fun e => [tS (dNum e.pl d), tS (aNum e.pl a), tS (bNum e.pl)])
    (fun e =>
      let i := (e.r.sget (dNum e.pl d)).toNat
      let t := e.r.sget (aNum e.pl a)
      let n := (e.r.sget (bNum e.pl)).toNat
      if t.getLsbD 0 || decide (32767 < n) then .trapStay e.s (trip codeIllegal) (e.now + 6)
      else
        let f := wbits t 0 22 + 2 * (if i < n then i else n)
        match portACheck e.t e.run f 2 2, e.jmptEntry f with
        | some x, _ => .trapStay e.s x (e.now + 6)
        | none, .inl x => .trapStay (e.jmptRead f) x (e.now + 6)
        | none, .inr v =>
          if v % 2 = 1 then .trapStay (e.jmptRead f) (trip codeIllegal) (e.now + 6)
          else .done (e.jmptRead f) (some (w64 (e.run.codeBase + v), true)) 6 (some (e.now + 6))) s

/-! ## LOOP (R323) -/

/-- The word of the instruction store at a VA. -/
def Tile.codeWord (t : Tile) (a : Nat) : BitVec 16 := BitVec.ofNat 16 (Memory.read t.store.mem (a - t.store.base) 2)

/-- Is a word a prefix word (R271)? -/
def isPrefixWord (w : BitVec 16) : Bool := decide (0x70 ≤ majorOpcode w) && decide (majorOpcode w ≤ 0x75)

def execLoop (m : Bool) (l : BitVec 3) (o : BitVec 5) (s : State) : Result :=
  issue m { formJ with guard := false } false (fun _ => [])
    (fun e =>
      let stop := addrNext e.r + 2#64 * w64 (immU e.pl 5 o.toNat)
      if e.run.inCode stop.toNat 2 && isPrefixWord (e.t.codeWord stop.toNat) then .trap (trip codeIllegal) e.now
      else if e.r.lget l.toNat = 0#64 then .done e.s (some (stop + 2#64, false)) 1 none
      else if e.r.loops.length = 4 then .trap (trip codeIllegal) e.now
      else .done (e.regs fun r => { r with loops := { start := addrNext e.r, stop := stop, l := l.toNat } :: r.loops })
        (some (addrNext e.r, false)) 1 none) s

/-! ## Outcome queues and TRAP (R324, R325) -/

def execPusho (m : Bool) (p : BitVec 3) (s : State) : Result :=
  issue m formZ true (fun _ => [tP p.toNat])
    (fun e =>
      if 16 ≤ (e.t.outQ e.σ).used e.now then .wait
      else .done (e.s.setTile e.k (e.t.setOutQ e.σ ((e.t.outQ e.σ).push (e.r.pget p.toNat) e.now))) none 1 none) s

def execBrq (m : Bool) (n : Bool) (o : BitVec 7) (s : State) : Result :=
  issue m formJ true (fun _ => [])
    (fun e =>
      match (e.t.inQ e.σ).head e.now with
      | none => .wait
      | some b =>
        let s := e.s.setTile e.k (e.t.setInQ e.σ ((e.t.inQ e.σ).pop e.now))
        if b != n then .done s (some (branchTarget e.r (immS e.pl 7 o.toNat), true)) 1 none else .done s none 1 none) s

/-- TRAP (R325): precise, with imm8 as subcode; it resumes at the word after it (R210). -/
def execTrap (m : Bool) (i : BitVec 8) (s : State) : Result :=
  issue m formZ true (fun _ => [])
    (fun e => .hold (e.raise { TrapInfo.ofTrip e.r (codeTrap, i, 0#64) with resume := addrNext e.r } e.now)) s

/-! ## Restart points (R221, R361, R362) -/

/-- Both strands of the tile trap at their RESTARTPTs (R362). -/
def Env.trapBoth (e : Env) (t : Trip) : State :=
  let go (x : Tile) (σ : Side) : Tile := x.takeTrap σ (TrapInfo.ofTrip (x.regs σ) t)
  e.s.setTile e.k (go (go e.t .a) .e)

/-- Is the MX idle: no command queued or running, nothing owed (R362)? -/
def Mx.idle (x : Mx) : Bool := x.queue.isEmpty && x.run.isNone && x.owed.isEmpty

/-- The restart point of a tile with mask entry `w` (R221, R362). -/
def Tile.restartPoint (t : Tile) (w : Word) (mark : Nat) : RestartPt :=
  { pcA := t.a.regs.pc + 2#64, pcE := t.e.regs.pc + 2#64, maskA := w.extractLsb' 0 32, maskE := w.extractLsb' 32 32,
    sA := t.a.regs.s, sE := t.e.regs.s, stA := t.a.regs.st, stE := t.e.regs.st, c := t.c, pxctr := t.pxctr,
    opMark := mark }

/-- The cycle in which both RESTARTPTs complete (R362). -/
def Env.restartBoth (e : Env) (i j : Nat) : State :=
  let at_ := e.run.codeBase + 8 * i
  if i != j then e.trapBoth (trip codeIllegal)
  else if !e.run.inCode at_ 8 then e.trapBoth (tripAt codeCodeRange at_)
  else
    let w := e.t.code64 at_
    if 16 < popcount w.toNat 64 then e.trapBoth (trip codeIllegal)
    else if e.t.hasResidue || !e.t.mx.idle then e.trapBoth (trip codeIllegal)
    else
      let s := e.s.setTile e.k { e.t with point := some (e.t.restartPoint w e.s.seq) }
      (s.retire e.k .a none 1 none).retire e.k .e none 1 none

def execRestartpt (_m : Bool) (i : BitVec 8) (s : State) : Result :=
  issue true formBare true (fun _ => [])
    (fun e =>
      let o := e.t.strand (sideOther e.σ)
      if e.σ == .e && !e.t.mx.idle then .wait
      else if o.hasEnded then .trap (trip codeIllegal) e.now
      else match o.restart with
        | some j => .hold (e.restartBoth i.toNat j)
        | none => .hold (e.s.setTile e.k (e.t.setStrand e.σ { e.t.strand e.σ with restart := some i.toNat }))) s

/-! ## Barriers (R150, R154, R369) -/

/-- The form of a page-1 word without operands. -/
def formZ1 : Form := { formZ with page := 1 }

/-- ARRIVE (R369): the member's flag is set; when every member's is, the episode completes 12 cycles later. -/
def execArrive (m : Bool) (s : State) : Result :=
  issue m formZ1 true (fun _ => [])
    (fun e =>
      if !e.run.mask.getLsbD 12 then .trap (trip codeBookShape) e.now
      else if e.t.arrived then .trap (trip codeIllegal) e.now
      else
        let s := e.s.setTile e.k { e.t with arrived := true }
        let s := if e.run.members.all (fun k => (s.tile k).arrived) then
            match e.t.run with
            | some r => s.modRun r fun x => { x with barrier := some (e.now + 12) }
            | none => s
          else s
        .done s none 1 none) s

/-- WAITB (R369): the strand issues its next word only when the member's flag is 0. -/
def execWaitb (m : Bool) (s : State) : Result :=
  issue m formZ1 true (fun _ => [])
    (fun e =>
      if !e.run.mask.getLsbD 12 then .trap (trip codeBookShape) e.now
      else .done (e.s.setTile e.k (e.t.setStrand e.σ { e.t.strand e.σ with waitb := e.t.arrived })) none 1 none) s

end Sys2Proof.Machine
end

