-- ==== Sys2Proof/Machine/Flags.lean ====
section
/-!
DEFINITION. Sys2Proof/Machine/Flags.lean: the number formats (R93–R100), rounding and the sticky flags (R101–R104), and the
exact arithmetic every floating-point instruction rounds once (R101).  Flags are five bits: invalid 16, divide-by-zero 8,
overflow 4, underflow 2, inexact 1, the order of st[8:4] (R91).
-/
namespace Sys2Proof.Machine

/-- A sticky-flag set, st[8:4] (R91). -/
abbrev FFlags := BitVec 5
def fInvalid : FFlags := 16#5
def fDivZero : FFlags := 8#5
def fOverflow : FFlags := 4#5
def fUnderflow : FFlags := 2#5
def fInexact : FFlags := 1#5

/-- The width of a format's exponent and fraction, packed as 100 · exponent + fraction: 823 FP32, 510 FP16, 807 BF16
(R94). -/
def fp32 : Nat := 823
def fp16 : Nat := 510
def bf16 : Nat := 807
def ebits (F : Nat) : Nat := F / 100
def fbits (F : Nat) : Nat := F % 100
/-- The bias (R94). -/
def bias (F : Nat) : Nat := 2 ^ (ebits F - 1) - 1
/-- The exponent of the smallest normal number (R94). -/
def emin (F : Nat) : Int := 1 - (bias F : Int)
/-- A format's width. -/
def fwidth (F : Nat) : Nat := 1 + ebits F + fbits F
/-- The sign bit as a number. -/
def signBit (F : Nat) (neg : Bool) : Nat := b2n neg <<< (ebits F + fbits F)
/-- ±∞ (R94). -/
def infBits (F : Nat) (neg : Bool) : Nat := signBit F neg ||| ((2 ^ ebits F - 1) <<< fbits F)
/-- The largest finite number (R94). -/
def maxBits (F : Nat) (neg : Bool) : Nat := infBits F neg - 1
/-- ±0. -/
def zeroBits (F : Nat) (neg : Bool) : Nat := signBit F neg
/-- The canonical NaN (R94, R95). -/
def nanBits (F : Nat) : Nat := ((2 ^ (ebits F + 1) - 1) <<< (fbits F - 1))

def fneg (F x : Nat) : Bool := x.testBit (ebits F + fbits F)
def fexp (F x : Nat) : Nat := bits x (fbits F) (ebits F)
def ffrac (F x : Nat) : Nat := bits x 0 (fbits F)
def isNan (F x : Nat) : Bool := fexp F x == 2 ^ ebits F - 1 && ffrac F x != 0
def isSnan (F x : Nat) : Bool := isNan F x && !x.testBit (fbits F - 1)
/-- A result that is a NaN is the canonical one, without payload (R95). -/
def canonNan (F x : Nat) : Nat := if isNan F x then nanBits F else x
def isInf (F x : Nat) : Bool := fexp F x == 2 ^ ebits F - 1 && ffrac F x == 0
def isZero (F x : Nat) : Bool := fexp F x == 0 && ffrac F x == 0
def isSub (F x : Nat) : Bool := fexp F x == 0 && ffrac F x != 0
def isFin (F x : Nat) : Bool := fexp F x != 2 ^ ebits F - 1
/-- A finite number's integer significand (R105). -/
def fmant (F x : Nat) : Nat := if fexp F x = 0 then ffrac F x else ffrac F x + 2 ^ fbits F
/-- The binary exponent of that significand. -/
def fscale (F x : Nat) : Int := (if fexp F x = 0 then emin F else (fexp F x : Int) - bias F) - fbits F

/-- Subnormal inputs as zeros of their sign under FTZ (R102). -/
def ftzIn (F : Nat) (ftz : Bool) (x : Nat) : Nat := if ftz && isSub F x then zeroBits F (fneg F x) else x

/-- m · 2^(−sh) rounded to an integer in a rounding mode (0 RNE, 1 RTZ, 2 toward +∞, 3 toward −∞), `sticky` when a part below
was dropped before; with whether anything was lost. -/
def roundInt (mode : Nat) (neg : Bool) (m : Nat) (sh : Int) (sticky : Bool) : Nat × Bool :=
  let k := sh.toNat
  let q := if sh ≤ 0 then m <<< (-sh).toNat else m >>> k
  let rem := if sh ≤ 0 then 0 else m % 2 ^ k
  let half := if sh ≤ 0 then 1 else 2 ^ k / 2
  let lost := rem != 0 || sticky
  let up := match mode with
    | 0 => decide (half < rem) || (rem == half && k != 0 && (sticky || q % 2 == 1))
    | 2 => lost && !neg
    | 3 => lost && neg
    | _ => false
  (q + b2n up, lost)

/-- The overflow result of a rounding mode (R101). -/
def overflowBits (F mode : Nat) (neg : Bool) : Nat :=
  match mode with
  | 0 => infBits F neg
  | 2 => if neg then maxBits F neg else infBits F neg
  | 3 => if neg then infBits F neg else maxBits F neg
  | _ => maxBits F neg

/-- ± m · 2^e, a nonzero exact value (or, with `sticky`, one a little larger in magnitude), rounded to a format, with its flags
and tininess judged after rounding with an unbounded exponent (R101, R102, R103). -/
def roundTo (F mode : Nat) (ftz neg : Bool) (m : Nat) (e : Int) (sticky : Bool) : Nat × FFlags :=
  if m = 0 then (zeroBits F neg, 0#5)
  else
    let p := fbits F
    let lead : Int := e + (Nat.log2 m : Int)
    let u : Int := lead - p
    let free := roundInt mode neg m (u - e) sticky
    let freeLead : Int := if free.1 = 2 ^ (p + 1) then lead + 1 else lead
    let tiny := decide (freeLead < emin F)
    let u' : Int := max u (emin F - p)
    let r := roundInt mode neg m (u' - e) sticky
    if ftz && tiny then (zeroBits F neg, fUnderflow ||| fInexact)
    else
      let lead' : Int := if r.1 = 2 ^ (p + 1) then u' + p + 1 else u' + p
      if decide (2 ^ p ≤ r.1) && decide ((bias F : Int) < lead') then (overflowBits F mode neg, fOverflow ||| fInexact)
      else
        let mag := if r.1 < 2 ^ p then r.1
          else if r.1 = 2 ^ (p + 1) then ((lead' + bias F).toNat <<< p)
          else ((lead' + bias F).toNat <<< p) + (r.1 - 2 ^ p)
        (signBit F neg ||| mag,
          (if r.2 then fInexact else 0#5) ||| (if tiny && r.2 then fUnderflow else 0#5))

/-- The sign of an exact zero sum (R101): both operands' sign if they agree, else + but − toward −∞. -/
def zeroSign (mode : Nat) (n1 n2 : Bool) : Bool := if n1 == n2 then n1 else mode == 3

/-- ± m1 · 2^e1 plus ± m2 · 2^e2, exactly: sign, magnitude, exponent. -/
def exactSum (n1 : Bool) (m1 : Nat) (e1 : Int) (n2 : Bool) (m2 : Nat) (e2 : Int) : Bool × Nat × Int :=
  let e := min e1 e2
  let a : Int := (if n1 then -1 else 1) * (m1 <<< (e1 - e).toNat : Nat)
  let b : Int := (if n2 then -1 else 1) * (m2 <<< (e2 - e).toNat : Nat)
  let s := a + b
  (decide (s < 0), s.natAbs, e)

/-- The flags of signalling operands (R95). -/
def snanFlags (F : Nat) (xs : List Nat) : FFlags := if xs.any (isSnan F) then fInvalid else 0#5

/-- x + y (R101, R103). -/
def fAdd (F mode : Nat) (ftz : Bool) (x0 y0 : Nat) : Nat × FFlags :=
  let x := ftzIn F ftz x0
  let y := ftzIn F ftz y0
  if isNan F x || isNan F y then (nanBits F, snanFlags F [x, y])
  else if isInf F x && isInf F y && fneg F x != fneg F y then (nanBits F, fInvalid)
  else if isInf F x then (x, 0#5)
  else if isInf F y then (y, 0#5)
  else
    let s := exactSum (fneg F x) (fmant F x) (fscale F x) (fneg F y) (fmant F y) (fscale F y)
    if s.2.1 = 0 then (zeroBits F (zeroSign mode (fneg F x) (fneg F y)), 0#5)
    else roundTo F mode ftz s.1 s.2.1 s.2.2 false

/-- The bits of −x: the sign flipped, whatever x is. -/
def fNegate (F x : Nat) : Nat := x ^^^ signBit F true

/-- x − y: a NaN y keeps its kind, so the flags are those of the sum. -/
def fSub (F mode : Nat) (ftz : Bool) (x y : Nat) : Nat × FFlags := fAdd F mode ftz x (fNegate F y)

/-- x · y (R101, R103). -/
def fMul (F mode : Nat) (ftz : Bool) (x0 y0 : Nat) : Nat × FFlags :=
  let x := ftzIn F ftz x0
  let y := ftzIn F ftz y0
  let n := fneg F x != fneg F y
  if isNan F x || isNan F y then (nanBits F, snanFlags F [x, y])
  else if (isInf F x && isZero F y) || (isZero F x && isInf F y) then (nanBits F, fInvalid)
  else if isInf F x || isInf F y then (infBits F n, 0#5)
  else roundTo F mode ftz n (fmant F x * fmant F y) (fscale F x + fscale F y) false

/-- x · y + z, rounded once (R101); 0 · ∞ is invalid whatever z holds (R339). -/
def fFma (F mode : Nat) (ftz : Bool) (x0 y0 z0 : Nat) : Nat × FFlags :=
  let x := ftzIn F ftz x0
  let y := ftzIn F ftz y0
  let z := ftzIn F ftz z0
  let n := fneg F x != fneg F y
  let zeroInf := (isInf F x && isZero F y) || (isZero F x && isInf F y)
  if isNan F x || isNan F y || isNan F z then
    (nanBits F, snanFlags F [x, y, z] ||| (if zeroInf then fInvalid else 0#5))
  else if zeroInf then (nanBits F, fInvalid)
  else if isInf F x || isInf F y then
    if isInf F z && fneg F z != n then (nanBits F, fInvalid) else (infBits F n, 0#5)
  else if isInf F z then (z, 0#5)
  else
    let s := exactSum n (fmant F x * fmant F y) (fscale F x + fscale F y) (fneg F z) (fmant F z) (fscale F z)
    if s.2.1 = 0 then (zeroBits F (zeroSign mode n (fneg F z)), 0#5)
    else roundTo F mode ftz s.1 s.2.1 s.2.2 false

/-- x / y (R103, R354). -/
def fDiv (F mode : Nat) (ftz : Bool) (x0 y0 : Nat) : Nat × FFlags :=
  let x := ftzIn F ftz x0
  let y := ftzIn F ftz y0
  let n := fneg F x != fneg F y
  if isNan F x || isNan F y then (nanBits F, snanFlags F [x, y])
  else if (isInf F x && isInf F y) || (isZero F x && isZero F y) then (nanBits F, fInvalid)
  else if isInf F x then (infBits F n, 0#5)
  else if isInf F y then (zeroBits F n, 0#5)
  else if isZero F y then (infBits F n, fDivZero)
  else if isZero F x then (zeroBits F n, 0#5)
  else
    let k := 2 * fbits F + 8
    let num := fmant F x <<< k
    roundTo F mode ftz n (num / fmant F y) (fscale F x - fscale F y - k) (num % fmant F y != 0)

/-- The integer square root, from bit `i` downward. -/
def isqrt (m : Nat) : (i r : Nat) → Nat
  | 0, r => r
  | i + 1, r => if (r + 2 ^ i) * (r + 2 ^ i) ≤ m then isqrt m i (r + 2 ^ i) else isqrt m i r

/-- √x (R103, R354). -/
def fSqrt (F mode : Nat) (ftz : Bool) (x0 : Nat) : Nat × FFlags :=
  let x := ftzIn F ftz x0
  if isNan F x then (nanBits F, snanFlags F [x])
  else if isZero F x then (x, 0#5)
  else if fneg F x then (nanBits F, fInvalid)
  else if isInf F x then (x, 0#5)
  else
    let k : Nat := 2 * fbits F + 10 + ((fscale F x) % 2).toNat
    let m := fmant F x <<< k
    let e : Int := fscale F x - k
    let r := isqrt m (Nat.log2 m / 2 + 1) 0
    roundTo F mode ftz false r (e / 2) (r * r != m)

/-- 1 / √x of a positive finite x, correctly rounded (R351). -/
def fRsqrtPos (F mode : Nat) (ftz : Bool) (x : Nat) : Nat × FFlags :=
  let e := fscale F x
  let odd : Nat := (e % 2).toNat
  let sh : Nat := 4 * fbits F + 20
  let num := 2 ^ (2 * sh + odd)
  let q := num / fmant F x
  let r := isqrt q (Nat.log2 q / 2 + 1) 0
  roundTo F mode ftz false r (-((e + odd) / 2) - sh) (!(num % fmant F x == 0 && r * r == q))

/-- Order of two numbers that are no NaN: a signed key with −0 just below +0. -/
def fKey (F x : Nat) : Int :=
  if fneg F x then -((x - signBit F true : Nat) : Int) - 1 else (x : Int)

/-- IEEE maximum or minimum (R340). -/
def fMaxMin (F : Nat) (ftz isMax : Bool) (x0 y0 : Nat) : Nat × FFlags :=
  let x := ftzIn F ftz x0
  let y := ftzIn F ftz y0
  if isNan F x || isNan F y then (nanBits F, snanFlags F [x, y])
  else if decide (fKey F x < fKey F y) == isMax then (y, 0#5) else (x, 0#5)

/-- Numeric value order with −0 = +0, for numbers that are no NaN. -/
def fLess (F x y : Nat) : Bool :=
  !(isZero F x && isZero F y) && decide (fKey F x < fKey F y)
def fEqual (F x y : Nat) : Bool := (isZero F x && isZero F y) || x == y

/-- The float conditions of R341: 0 feq, 1 fne, 2 flt, 3 fle, 4 fun. -/
def fCond (F : Nat) (ftz : Bool) (c x0 y0 : Nat) : Bool × FFlags :=
  let x := ftzIn F ftz x0
  let y := ftzIn F ftz y0
  let un := isNan F x || isNan F y
  match c with
  | 0 => (!un && fEqual F x y, snanFlags F [x, y])
  | 1 => (un || !fEqual F x y, snanFlags F [x, y])
  | 2 => (!un && fLess F x y, if un then fInvalid else 0#5)
  | 3 => (!un && (fLess F x y || fEqual F x y), if un then fInvalid else 0#5)
  | _ => (un, snanFlags F [x, y])

/-- The FP32 in a register: bits [31:0] (R99). -/
def fpOf (x : Word) : Nat := wbits x 0 32

/-! ## Conversions (R100, R104) -/

/-- Is a format code a floating-point one, and which (R100)? -/
def fmtOfCode : Nat → Option Nat
  | 0 => some fp32
  | 1 => some bf16
  | 2 => some fp16
  | _ => none

/-- The range of an integer format code (R93, R100). -/
def intRange : Nat → Int × Int
  | 3 => (-128, 127)
  | 4 => (0, 255)
  | 9 => (-8, 7)
  | _ => (-2147483648, 2147483647)

/-- A number between floating-point formats, through the exact value (R104). -/
def fConv (F G mode : Nat) (ftz : Bool) (x0 : Nat) : Nat × FFlags :=
  let x := ftzIn F ftz x0
  if isNan F x then (nanBits G, snanFlags F [x])
  else if isInf F x then (infBits G (fneg F x), 0#5)
  else if isZero F x then (zeroBits G (fneg F x), 0#5)
  else roundTo G mode ftz (fneg F x) (fmant F x) (fscale F x) false

/-- A number to an integer format (R104). -/
def fToInt (F mode : Nat) (ftz : Bool) (code x0 : Nat) : Int × FFlags :=
  let x := ftzIn F ftz x0
  let rg := intRange code
  if isNan F x then (0, fInvalid)
  else if isInf F x then (if fneg F x then rg.1 else rg.2, fInvalid)
  else
    let r := roundInt mode (fneg F x) (fmant F x) (-(fscale F x)) false
    let v : Int := if fneg F x then -(r.1 : Int) else (r.1 : Int)
    if v < rg.1 then (rg.1, fInvalid)
    else if rg.2 < v then (rg.2, fInvalid)
    else (v, if r.2 then fInexact else 0#5)

/-- An integer to a floating-point format (R104). -/
def intToF (F mode : Nat) (ftz : Bool) (v : Int) : Nat × FFlags :=
  if v = 0 then (zeroBits F false, 0#5) else roundTo F mode ftz (decide (v < 0)) v.natAbs 0 false

/-- An integer into another integer format: saturates, no flag (R104). -/
def saturate (code : Nat) (v : Int) : Int := max (intRange code).1 (min (intRange code).2 v)

/-- The integer a lane or register holds under an integer format code (R99, R345). -/
def intOf (code x : Nat) : Int :=
  match code with
  | 3 => (BitVec.ofNat 8 x).toInt
  | 4 => ((x % 256 : Nat) : Int)
  | 9 => (BitVec.ofNat 4 x).toInt
  | _ => (BitVec.ofNat 32 x).toInt

/-- A codebook's entry (R97). -/
def cbEntry (cb : BitVec 256) (c : Nat) : Nat := (cb.extractLsb' (16 * (c % 16)) 16).toNat

/-- Converts the low bits of `x` from format code `a` to format code `b` (R104, R345); `cb` is the codebook a CB4 code
names. -/
def convert (mode : Nat) (ftz : Bool) (a b : Nat) (cb : BitVec 256) (x : Nat) : Nat × FFlags :=
  let isCb := decide (5 ≤ a) && decide (a ≤ 8)
  let src := if isCb then bf16 else (fmtOfCode a).getD 0
  let val := if isCb then cbEntry cb x else x % 2 ^ fwidth src
  if isCb || (fmtOfCode a).isSome then
    match fmtOfCode b with
    | some G => fConv src G mode ftz val
    | none =>
      let r := fToInt src mode ftz b val
      ((BitVec.ofInt 32 r.1).toNat, r.2)
  else
    match fmtOfCode b with
    | some G => intToF G mode ftz (intOf a x)
    | none => ((BitVec.ofInt 32 (saturate b (intOf a x))).toNat, 0#5)

end Sys2Proof.Machine
end

