-- ==== Sys2Proof/Machine/Vector.lean ====
section
/-!
DEFINITION. Sys2Proof/Machine/Vector.lean: the vector unit (R80, R337–R351): queue aliases, lane arithmetic, comparison,
selection, conversion, reduction, data movement, exponential and reciprocals.  No E-strand word waits for a verdict
(R212), so none of these forms asks for one.
-/
namespace Sys2Proof.Machine

/-! ## Vector operands (R80) -/

/-- The vectors that source fields name, in field order, with the tile after their pops; none while an entry to pop is
absent or not filled (R78, R80). -/
def Tile.vread (t : Tile) (now : Nat) : List Nat → Option (List Vec × Tile)
  | [] => some ([], t)
  | n :: r =>
    if n < 28 then
      match t.vread now r with
      | some (vs, t') => some (t.vget n :: vs, t')
      | none => none
    else
      let q := t.lqget (n - 28)
      match q.ents with
      | [] => none
      | x :: _ =>
        if x.filled then
          match (t.lqset (n - 28) (q.drop 1 now)).vread now r with
          | some (vs, t') => some (x.data :: vs, t')
          | none => none
        else none

/-- A vector register as a touched register; a queue alias is none. -/
def tV (n : Nat) : List Touch := if n < 28 then [.v n] else []

/-- Has the destination room in cycle `now`: a register, or sq0 or sq1 with a free entry (R78)? -/
def Tile.vroom (t : Tile) (d now : Nat) : Bool := decide (d < 28) || (t.sqget (d - 28)).room now

/-- A vector result of the strand, readable after `lat` cycles, in a register or in an entry of sq0 or sq1 (R79, R80,
R391). -/
def Env.vresult (e : Env) (t : Tile) (d lat : Nat) (x : Vec) (fl : FFlags) : Tile :=
  let due := e.now + lat
  let t := if d < 28 then t.modRegs e.σ (·.post due (.v d x) fl)
    else
      { t.sqset (d - 28) ((t.sqget (d - 28)).push { id := t.nextId, due := due, data := x, filled := false }) with
        nextId := t.nextId + 1 }.modRegs e.σ (·.post due .none fl)
  t.checkResult due

/-- An instruction from vector sources to a vector destination (R337): `srcs` are its source fields, `old` says whether it
also reads d, `code` is its stage-2 check, `op` its effect with the old d first, `also` the registers beside these that it reads. -/
def vecIssue (m : Bool) (f : Form) (bad : BitVec 128 → Bool) (lat : Nat) (d : BitVec 128 → Nat) (srcs : BitVec 128 → List Nat)
    (old : Bool) (code : Env → Bool) (op : Env → List Vec → Vec × FFlags) (s : State) (also : Env → List Touch := fun _ => []) : Result :=
  issueIf (fun p => bad p || decide (30 ≤ d p) || (old && decide (28 ≤ d p))) m f.eOnly false
    (fun e => tV (d e.pl) ++ (srcs e.pl).flatMap tV ++ also e)
    (fun e =>
      if code e then .trap (trip codeIllegal) e.now
      else match e.t.vread e.now (srcs e.pl) with
        | none => .wait
        | some (vs, t) =>
          if e.t.vroom (d e.pl) e.now then
            let y := op e (if old then e.t.vget (d e.pl) :: vs else vs)
            .done (e.s.setTile e.k (e.vresult t (d e.pl) lat y.1 y.2)) none 1 none
          else .wait) s

/-- The n-th operand. -/
def vecArg (vs : List Vec) (n : Nat) : Vec := vs[n]?.getD 0#2048

/-- A vector computed lane by lane with the OR of the lanes' flags (R337). -/
def perLane (f : Nat → Nat × FFlags) : Vec × FFlags :=
  let ys := (List.range 64).map f
  (ofLanes fun i => BitVec.ofNat 32 (ys[i]?.getD (0, 0#5)).1, ys.foldl (fun a y => a ||| y.2) 0#5)

/-- Lane i as a number. -/
def laneN (x : Vec) (i : Nat) : Nat := (lane x i).toNat

/-- The source fields of a D-format operation on two vectors (R273, R339). -/
def vecSources (d a : BitVec 4) (p : BitVec 128) : List Nat := [(dSources p d a).1, (dSources p d a).2]

/-- A lane-wise FP32 operation on two vectors, latency 4 (R339, R340). -/
def vecArith (m : Bool) (d a : BitVec 4) (f : Nat → Bool → Nat → Nat → Nat × FFlags) (s : State) : Result :=
  vecIssue m formD (fun _ => false) 4 (dNum · d) (vecSources d a) false (fun _ => false)
    (fun e vs => perLane fun i => f e.r.rounding e.r.ftz (laneN (vecArg vs 0) i) (laneN (vecArg vs 1) i)) s

def execVadd (m : Bool) (d a : BitVec 4) (s : State) : Result := vecArith m d a (fun r z x y => fAdd fp32 r z x y) s
def execVsub (m : Bool) (d a : BitVec 4) (s : State) : Result := vecArith m d a (fun r z x y => fSub fp32 r z x y) s
def execVmul (m : Bool) (d a : BitVec 4) (s : State) : Result := vecArith m d a (fun r z x y => fMul fp32 r z x y) s
def execVmax (m : Bool) (d a : BitVec 4) (s : State) : Result := vecArith m d a (fun _ z x y => fMaxMin fp32 z true x y) s
def execVmin (m : Bool) (d a : BitVec 4) (s : State) : Result := vecArith m d a (fun _ z x y => fMaxMin fp32 z false x y) s

/-- VFMA (R339): x · y + d, with a and a as operands without XREG. -/
def execVfma (m : Bool) (d a : BitVec 4) (s : State) : Result :=
  vecIssue m formD (fun _ => false) 4 (dNum · d) (fun p => [aNum p a, if plXreg p then bNum p else a.toNat]) true
    (fun _ => false)
    (fun e vs => perLane fun i =>
      fFma fp32 e.r.rounding e.r.ftz (laneN (vecArg vs 1) i) (laneN (vecArg vs 2) i) (laneN (vecArg vs 0) i)) s

/-! ## Compare, select, logic, shift (R341–R344) -/

/-- The condition of a VCMP (R341). -/
def vcmpCond (ftz : Bool) (c x y : Nat) : Bool × FFlags :=
  let bx := BitVec.ofNat 32 x
  let by_ := BitVec.ofNat 32 y
  match c with
  | 5 => (x == y, 0#5)
  | 6 => (x != y, 0#5)
  | 7 => (bx.slt by_, 0#5)
  | 8 => (bx.sle by_, 0#5)
  | 9 => (decide (x < y), 0#5)
  | 10 => (decide (x ≤ y), 0#5)
  | _ => fCond fp32 ftz c x y

def execVcmp (m : Bool) (d a : BitVec 4) (s : State) : Result :=
  vecIssue m { formD3 with xzero := 0x10 } (fun p => decide (11 ≤ bits (plXregByte p) 0 4)) 2 (dNum · d)
    (fun p => [aNum p a]) true (fun _ => false)
    (fun e vs => perLane fun i =>
      let y := vcmpCond e.r.ftz (bits (plXregByte e.pl) 0 4) (laneN (vecArg vs 0) i) (laneN (vecArg vs 1) i)
      (if y.1 then 0xFFFFFFFF else 0, y.2)) s

def execVsel (m : Bool) (d a : BitVec 4) (s : State) : Result :=
  vecIssue m formD3 (fun _ => false) 2 (dNum · d) (fun p => [aNum p a, bNum p]) true (fun _ => false)
    (fun _ vs => (ofLanes fun i => if lane (vecArg vs 0) i != 0#32 then lane (vecArg vs 1) i else lane (vecArg vs 2) i, 0#5)) s

/-- The operation of a VLOGIC (R343). -/
def vlogicOp (o : Nat) (x y : Vec) : Vec :=
  match o with
  | 0 => x &&& y
  | 1 => x ||| y
  | 2 => x ^^^ y
  | _ => x &&& ~~~y

def execVlogic (m : Bool) (d a : BitVec 4) (s : State) : Result :=
  vecIssue m { formD3 with xzero := 0x1C } (fun _ => false) 2 (dNum · d) (fun p => [aNum p a]) true (fun _ => false)
    (fun e vs => (vlogicOp (bits (plXregByte e.pl) 0 2) (vecArg vs 0) (vecArg vs 1), 0#5)) s

/-- The shift of a VSHIFT (R344). -/
def vshiftOp (o : Nat) (x y : Lane) : Lane :=
  let n := y.toNat % 32
  match o with
  | 0 => x <<< n
  | 1 => x >>> n
  | 2 => x.sshiftRight n
  | _ => x.rotateLeft n

def execVshift (m : Bool) (d a : BitVec 4) (s : State) : Result :=
  vecIssue m { formD3 with xzero := 0x1C } (fun _ => false) 2 (dNum · d) (fun p => [aNum p a]) true (fun _ => false)
    (fun e vs => (ofLanes fun i => vshiftOp (bits (plXregByte e.pl) 0 2) (lane (vecArg vs 0) i) (lane (vecArg vs 1) i), 0#5)) s

/-! ## Conversion (R345) -/

/-- The codebooks a format code names, as touched registers. -/
def cbTouch (code : Nat) : List Touch := if 5 ≤ code ∧ code ≤ 8 then [.cb (code - 5)] else []

/-- A code pair no conversion accepts (R100, R104, R345). -/
def badConversion (a b : Nat) : Bool := a == b || decide (11 ≤ a) || decide (11 ≤ b) || (decide (5 ≤ b) && decide (b ≤ 8))

def execVcvt (m : Bool) (d a : BitVec 4) (s : State) : Result :=
  vecIssue m { formD2 with nfmt := .must } (fun _ => false) 4 (dNum · d) (fun p => [aNum p a]) false
    (fun e => badConversion (nfmtA e.pl 0) (nfmtB e.pl 0))
    (fun e vs => perLane fun i =>
      convert e.r.rounding e.r.ftz (nfmtA e.pl 0) (nfmtB e.pl 0) (e.t.cbget (nfmtA e.pl 0 - 5)) (laneN (vecArg vs 0) i)) s
    (fun e => cbTouch (nfmtA e.pl 0))

/-! ## Reduction and scan (R110, R346, R347) -/

/-- One level of a tree: neighbours are combined, the lower-indexed on the left (R110). -/
def treeLevel (f : Nat → Nat → Nat × FFlags) : List Nat → List Nat × FFlags
  | x :: y :: r =>
    let z := f x y
    let t := treeLevel f r
    (z.1 :: t.1, z.2 ||| t.2)
  | l => (l, 0#5)

/-- A tree of `n` levels (R110). -/
def treeReduce (f : Nat → Nat → Nat × FFlags) : (n : Nat) → List Nat → Nat × FFlags
  | 0, l => (l.headD 0, 0#5)
  | n + 1, l =>
    let x := treeLevel f l
    let y := treeReduce f n x.1
    (y.1, x.2 ||| y.2)

/-- The pair operation of a VRED (R346). -/
def vredOp (mode : Nat) (ftz : Bool) (o x y : Nat) : Nat × FFlags :=
  let bx := BitVec.ofNat 32 x
  let by_ := BitVec.ofNat 32 y
  match o with
  | 0 => fAdd fp32 mode ftz x y
  | 1 => fMaxMin fp32 ftz true x y
  | 2 => fMaxMin fp32 ftz false x y
  | 3 => ((bx + by_).toNat, 0#5)
  | 4 => (if bx.slt by_ then y else x, 0#5)
  | 5 => (if bx.slt by_ then x else y, 0#5)
  | 6 => (max x y, 0#5)
  | 7 => (min x y, 0#5)
  | 8 => ((bx &&& by_).toNat, 0#5)
  | 9 => ((bx ||| by_).toNat, 0#5)
  | _ => ((bx ^^^ by_).toNat, 0#5)

/-- The lanes a VRED reduces: BF16 and FP16 lanes converted exactly to FP32 (R346), a subnormal one being zero under FTZ
(R102). -/
def vredLanes (ftz : Bool) (fmt : Nat) (x : Vec) : List (Nat × FFlags) :=
  (List.range 64).map fun i =>
    match fmt with
    | 1 => fConv bf16 fp32 0 ftz (laneN x i % 65536)
    | 2 => fConv fp16 fp32 0 ftz (laneN x i % 65536)
    | _ => (laneN x i, 0#5)

/-- The NFMT codes a VRED refuses (R346). -/
def badRed (p : BitVec 128) : Bool :=
  plNfmt p && (nfmtB p 0 != 0 || (if plXbits p < 3 then decide (3 ≤ nfmtA p 0) else nfmtA p 0 != 10))

/-- A word from one vector to a scalar, latency `lat`. -/
def vecToScalar (m : Bool) (f : Form) (bad : BitVec 128 → Bool) (lat : Nat) (d a : BitVec 4) (code : Env → Bool)
    (op : Env → Vec → Word × FFlags) (s : State) : Result :=
  issueIf bad m f.eOnly false (fun e => tS (dNum e.pl d) :: tV (aNum e.pl a))
    (fun e =>
      if code e then .trap (trip codeIllegal) e.now
      else match e.t.vread e.now [aNum e.pl a] with
        | none => .wait
        | some (vs, t) =>
          let y := op e (vecArg vs 0)
          .done (e.s.setTile e.k ((t.modRegs e.σ (·.post (e.now + lat) (.s (dNum e.pl d) y.1) y.2)).checkResult (e.now + lat)))
            none 1 none) s

def execVred (m : Bool) (d a : BitVec 4) (s : State) : Result :=
  vecToScalar m { formD2 with ximm := 1, xneed := 1, izero := 0xF0, nfmt := .yes } (fun p => decide (11 ≤ plXbits p % 16)) 8 d a
    (fun e => badRed e.pl)
    (fun e x =>
      let ls := vredLanes e.r.ftz (if plXbits e.pl < 3 then nfmtA e.pl 0 else 0) x
      let y := treeReduce (vredOp e.r.rounding e.r.ftz (plXbits e.pl)) 6 (ls.map (·.1))
      (w64 y.1, ls.foldl (fun f l => f ||| l.2) y.2)) s

/-- The inclusive prefix sums of the lanes (R347). -/
def scanLanes (mode : Nat) (ftz : Bool) (x : Vec) : List Nat × FFlags :=
  let x0 := ftzIn fp32 ftz (laneN x 0)
  let y0 := if isNan fp32 x0 then nanBits fp32 else x0
  let z := (List.range' 1 63).foldl (fun (acc : List Nat × Nat × FFlags) i =>
    let y := fAdd fp32 mode ftz acc.2.1 (laneN x i)
    (acc.1 ++ [y.1], y.1, acc.2.2 ||| y.2)) ([y0], y0, snanFlags fp32 [x0])
  (z.1, z.2.2)

def execVscan (m : Bool) (d a : BitVec 4) (s : State) : Result :=
  vecIssue m formD2 (fun _ => false) 12 (dNum · d) (fun p => [aNum p a]) false (fun _ => false)
    (fun e vs =>
      let y := scanLanes e.r.rounding e.r.ftz (vecArg vs 0)
      (ofLanes fun i => BitVec.ofNat 32 (y.1[i]?.getD 0), y.2)) s

/-! ## Data movement (R348, R349) -/

/-- Byte j of a vector. -/
def vecByte (x : Vec) (j : Nat) : Nat := (x.extractLsb' (8 * j) 8).toNat

def execVperm (m : Bool) (d a : BitVec 4) (s : State) : Result :=
  vecIssue m formD3 (fun _ => false) 4 (dNum · d) (fun p => [aNum p a, bNum p]) false (fun _ => false)
    (fun _ vs => (BitVec.ofNat 2048
      ((List.range 256).foldr (fun j acc => (vecByte (vecArg vs 0) (vecByte (vecArg vs 1) j)) <<< (8 * j) ||| acc) 0), 0#5)) s

def execVbcast (m : Bool) (d a : BitVec 4) (s : State) : Result :=
  issueIf (fun p => decide (30 ≤ dNum p d)) m formD2.eOnly false (fun e => tS (aNum e.pl a) :: tV (dNum e.pl d))
    (fun e =>
      if e.t.vroom (dNum e.pl d) e.now then
        let x := ofLanes fun _ => (e.r.sget (aNum e.pl a)).setWidth 32
        .done (e.s.setTile e.k (e.vresult e.t (dNum e.pl d) 2 x 0#5)) none 1 none
      else .wait) s

def execVext (m : Bool) (d a : BitVec 4) (s : State) : Result :=
  vecToScalar m { formD2 with ximm := 1, xneed := 1, izero := 0xC0 } (fun _ => false) 2 d a (fun _ => false)
    (fun e x => (w64 (laneN x (plXbits e.pl)), 0#5)) s

def execViota (m : Bool) (d : BitVec 4) (s : State) : Result :=
  vecIssue m formDd (fun _ => false) 2 (dNum · d) (fun _ => []) false (fun _ => false)
    (fun _ _ => (ofLanes fun i => BitVec.ofNat 32 i, 0#5)) s

/-! ## Exponential and reciprocals (R111–R113, R350, R351) -/

/-- t_table (R112): entry i is 2^(i/64). -/
def expTable : List Nat :=
  [0x3F800000, 0x3F8164D2, 0x3F82CD87, 0x3F843A29, 0x3F85AAC3, 0x3F871F62, 0x3F88980F, 0x3F8A14D5,
   0x3F8B95C2, 0x3F8D1ADF, 0x3F8EA43A, 0x3F9031DC, 0x3F91C3D3, 0x3F935A2B, 0x3F94F4F0, 0x3F96942D,
   0x3F9837F0, 0x3F99E046, 0x3F9B8D3A, 0x3F9D3EDA, 0x3F9EF532, 0x3FA0B051, 0x3FA27043, 0x3FA43516,
   0x3FA5FED7, 0x3FA7CD94, 0x3FA9A15B, 0x3FAB7A3A, 0x3FAD583F, 0x3FAF3B79, 0x3FB123F6, 0x3FB311C4,
   0x3FB504F3, 0x3FB6FD92, 0x3FB8FBAF, 0x3FBAFF5B, 0x3FBD08A4, 0x3FBF179A, 0x3FC12C4D, 0x3FC346CD,
   0x3FC5672A, 0x3FC78D75, 0x3FC9B9BE, 0x3FCBEC15, 0x3FCE248C, 0x3FD06334, 0x3FD2A81E, 0x3FD4F35B,
   0x3FD744FD, 0x3FD99D16, 0x3FDBFBB8, 0x3FDE60F5, 0x3FE0CCDF, 0x3FE33F89, 0x3FE5B907, 0x3FE8396A,
   0x3FEAC0C7, 0x3FED4F30, 0x3FEFE4BA, 0x3FF2816F, 0x3FF5257D, 0x3FF7D0DF, 0x3FFA83B3, 0x3FFD3E0C]

/-- A finite FP32 number as floor and fraction in units of 2^(−k): floor(x) and the rest, k ≤ 149. -/
def floorParts (x : Nat) : Int × Nat × Nat :=
  let e := fscale fp32 x
  if 0 ≤ e then ((if fneg fp32 x then -1 else 1) * ((fmant fp32 x) <<< e.toNat : Nat), 0, 0)
  else
    let k := (-e).toNat
    let v : Int := (if fneg fp32 x then -1 else 1) * (fmant fp32 x : Int)
    (v / (2 ^ k : Nat), (v % (2 ^ k : Nat)).toNat, k)

/-- r · 2^e · y + z under RNE, for an exact r · 2^e of either width and positive FP32 y and z (R9, R111). -/
def fmaStep (r : Nat) (e : Int) (y z : Nat) : Nat :=
  let s := exactSum false (r * fmant fp32 y) (e + fscale fp32 y) false (fmant fp32 z) (fscale fp32 z)
  (roundTo fp32 0 false s.1 s.2.1 s.2.2 false).1

/-- exp2 of a finite x between −150 and 128 (R111): the exponent n, the index i, the remainder's steps.  The rule calls f and r
exact and types them fp32, which cannot hold every one of them; the model keeps both exact (log entry 79). -/
def expCore (ftz : Bool) (x : Nat) : Nat × FFlags :=
  let fp := floorParts x
  let n := fp.1
  let f := fp.2.1
  let k := fp.2.2
  let i := (64 * f) >>> k
  let r := 64 * f - i <<< k
  let u := fmaStep r (-(k : Int) - 6) 0x3D635847 0x3E75FDF0
  let w := fmaStep r (-(k : Int) - 6) u 0x3F317218
  let p := fmaStep r (-(k : Int) - 6) w 0x3F800000
  let y := (fMul fp32 0 false (expTable[i]?.getD 0) p).1
  let z := roundTo fp32 0 ftz false (fmant fp32 y) (fscale fp32 y + n) false
  let tiny := decide ((Nat.log2 (fmant fp32 y) : Int) + fscale fp32 y + n < emin fp32)
  (z.1, z.2 ||| (if f != 0 then fInexact else 0#5) ||| (if f != 0 && tiny then fUnderflow else 0#5))

/-- exp2 of an FP32 x with its flags (R111, R113); `ftz` for VEXP2 (R102). -/
def exp2 (ftz : Bool) (x0 : Nat) : Nat × FFlags :=
  let x := ftzIn fp32 ftz x0
  if isNan fp32 x then (nanBits fp32, snanFlags fp32 [x])
  else if isInf fp32 x then (if fneg fp32 x then 0 else infBits fp32 false, 0#5)
  else if decide (128 ≤ (floorParts x).1) then (infBits fp32 false, fOverflow ||| fInexact)
  else if decide ((floorParts x).1 < -150) || x == 0xC3160000 then (0, fUnderflow ||| fInexact)
  else expCore ftz x

/-- A lane-wise unary operation. -/
def vecUnary (m : Bool) (f : Form) (lat : Nat) (d a : BitVec 4) (op : Bool → Nat → Nat × FFlags) (s : State) : Result :=
  vecIssue m f (fun _ => false) lat (dNum · d) (fun p => [aNum p a]) false (fun _ => false)
    (fun e vs => perLane fun i => op e.r.ftz (laneN (vecArg vs 0) i)) s

def execVexp2 (m : Bool) (d a : BitVec 4) (s : State) : Result := vecUnary m formD2 6 d a exp2 s

/-- 1/x (R351): RNE whatever st holds. -/
def recip (ftz : Bool) (x : Nat) : Nat × FFlags := fDiv fp32 0 ftz 0x3F800000 x

/-- 1/√x (R351): RNE whatever st holds. -/
def recipSqrt (ftz : Bool) (x0 : Nat) : Nat × FFlags :=
  let x := ftzIn fp32 ftz x0
  if isNan fp32 x then (nanBits fp32, snanFlags fp32 [x])
  else if isZero fp32 x then (infBits fp32 (fneg fp32 x), fDivZero)
  else if fneg fp32 x then (nanBits fp32, fInvalid)
  else if isInf fp32 x then (0, 0#5)
  else fRsqrtPos fp32 0 ftz x

def execVrcp (m : Bool) (d a : BitVec 4) (s : State) : Result := vecUnary m formD2 8 d a recip s
def execVrsqrt (m : Bool) (d a : BitVec 4) (s : State) : Result := vecUnary m formD2.page1 8 d a recipSqrt s

end Sys2Proof.Machine
end

