-- ==== Sys2Proof/Machine/Float.lean ====
section
/-!
DEFINITION. Sys2Proof/Machine/Float.lean: scalar floating point on the low half of an s register (R99, R354–R357).  It never
flushes (R102).
-/
namespace Sys2Proof.Machine

/-- A scalar FP32 operation on two sources, d ← x op y (R354). -/
def fpBin (m : Bool) (lat : Nat) (d a : BitVec 4) (op : Nat → Nat → Nat → Nat × FFlags) (s : State) : Result :=
  issue m formD.page1.eOnly false (fun e => [tS (dNum e.pl d), tS (dSources e.pl d a).1, tS (dSources e.pl d a).2])
    (fun e =>
      let y := op e.r.rounding (fpOf (e.r.sget (dSources e.pl d a).1)) (fpOf (e.r.sget (dSources e.pl d a).2))
      e.laterChecked lat (.s (dNum e.pl d) (w64 y.1)) y.2) s

def execFadd (m : Bool) (d a : BitVec 4) (s : State) : Result := fpBin m 4 d a (fun r x y => fAdd fp32 r false x y) s
def execFsub (m : Bool) (d a : BitVec 4) (s : State) : Result := fpBin m 4 d a (fun r x y => fSub fp32 r false x y) s
def execFmul (m : Bool) (d a : BitVec 4) (s : State) : Result := fpBin m 4 d a (fun r x y => fMul fp32 r false x y) s
def execFdiv (m : Bool) (d a : BitVec 4) (s : State) : Result := fpBin m 12 d a (fun r x y => fDiv fp32 r false x y) s
def execFmin (m : Bool) (d a : BitVec 4) (s : State) : Result := fpBin m 4 d a (fun _ x y => fMaxMin fp32 false false x y) s
def execFmax (m : Bool) (d a : BitVec 4) (s : State) : Result := fpBin m 4 d a (fun _ x y => fMaxMin fp32 false true x y) s

/-- FMA (R354): s[a] · s[b] + s[d], rounded once. -/
def execFma (m : Bool) (d a : BitVec 4) (s : State) : Result :=
  issue m formD3.page1.eOnly false (fun e => [tS (dNum e.pl d), tS (aNum e.pl a), tS (bNum e.pl)])
    (fun e =>
      let y := fFma fp32 e.r.rounding false (fpOf (e.r.sget (aNum e.pl a))) (fpOf (e.r.sget (bNum e.pl)))
        (fpOf (e.r.sget (dNum e.pl d)))
      e.laterChecked 4 (.s (dNum e.pl d) (w64 y.1)) y.2) s

/-- A unary operation on s[a]; `also`: other registers that it reads. -/
def fpUna (m : Bool) (f : Form) (lat : Nat) (d a : BitVec 4) (code : Env → Bool) (op : Env → Word → Word × FFlags) (s : State)
    (also : Env → List Touch := fun _ => []) : Result :=
  issue m f.page1.eOnly false (fun e => [tS (dNum e.pl d), tS (aNum e.pl a)] ++ also e)
    (fun e =>
      if code e then .trap (trip codeIllegal) e.now
      else
        let y := op e (e.r.sget (aNum e.pl a))
        e.laterChecked lat (.s (dNum e.pl d) y.1) y.2) s

def execFsqrt (m : Bool) (d a : BitVec 4) (s : State) : Result :=
  fpUna m formD2 12 d a (fun _ => false)
    (fun e x => (w64 (fSqrt fp32 e.r.rounding false (fpOf x)).1, (fSqrt fp32 e.r.rounding false (fpOf x)).2)) s

def execFcvt (m : Bool) (d a : BitVec 4) (s : State) : Result :=
  fpUna m { formD2 with nfmt := .must } 4 d a (fun e => badConversion (nfmtA e.pl 0) (nfmtB e.pl 0))
    (fun e x =>
      let y := convert e.r.rounding false (nfmtA e.pl 0) (nfmtB e.pl 0) (e.t.cbget (nfmtA e.pl 0 - 5)) (fpOf x)
      (w64 y.1, y.2)) s
    (fun e => cbTouch (nfmtA e.pl 0))

/-- The class of an FP32 number, one bit of ten (R357). -/
def fclass (x : Nat) : Nat :=
  if isNan fp32 x then (if isSnan fp32 x then 8 else 9)
  else if fneg fp32 x then
    (if isInf fp32 x then 0 else if isZero fp32 x then 3 else if isSub fp32 x then 2 else 1)
  else (if isInf fp32 x then 7 else if isZero fp32 x then 4 else if isSub fp32 x then 5 else 6)

def execFclass (m : Bool) (d a : BitVec 4) (s : State) : Result :=
  fpUna m formD2 4 d a (fun _ => false) (fun _ x => (w64 (1 <<< fclass (fpOf x)), 0#5)) s

/-- A comparison into a predicate, a short result (R355): condition `c` of R341 on s[a] and s[b], or +0 without XREG. -/
def fpCompare (m : Bool) (c : Nat) (p : BitVec 3) (a : BitVec 5) (s : State) : Result :=
  issue m formC.page1.eOnly false (fun e => [tP p.toNat, tS a.toNat] ++ (if plXreg e.pl then [tS (bNum e.pl)] else []))
    (fun e =>
      let y := fCond fp32 false c (fpOf (e.r.sget a.toNat)) (if plXreg e.pl then fpOf (e.r.sget (bNum e.pl)) else 0)
      e.shortChecked fun r => (r.pset p.toNat y.1).orFlags y.2) s

def execFcmpeq (m : Bool) (p : BitVec 3) (a : BitVec 5) (s : State) : Result := fpCompare m 0 p a s
def execFcmplt (m : Bool) (p : BitVec 3) (a : BitVec 5) (s : State) : Result := fpCompare m 2 p a s
def execFcmple (m : Bool) (p : BitVec 3) (a : BitVec 5) (s : State) : Result := fpCompare m 3 p a s

end Sys2Proof.Machine
end

