-- ==== Sys2Proof/Machine/Links.lean ====
section
/-!
DEFINITION. Sys2Proof/Machine/Links.lean: module-link ports (R233, R264, R265): the route to a module, the two directions of a port with
their packet numbers and keys, and the replay buffer.  One flit carries one packet, and one packet a line, a part passed on, or an answer (log
entry 90).
-/
namespace Sys2Proof.Machine

/-- Reference time of 1 µs (R244): a unit is one cycle of 2.4 GHz. -/
def microsecond : Nat := 2400

/-- The lowest port that LROUTE selects for a module and that is up (R265). -/
def State.route (s : State) (m : Nat) : Option Nat :=
  let mask := (mget s.cfg.lroute m).getD 0#16
  (List.range 16).find? fun p => mask.getLsbD p && (s.link p).up

/-! ## Packet numbers and keys (R233) -/

/-- The nonce of a packet: module id, port, sequence number (R233). -/
def linkNonce (moduleId : BitVec 12) (port seq : Nat) : BitVec 96 :=
  BitVec.ofNat 96 (seq % 2 ^ 64 + moduleId.toNat * 2 ^ 64 + port % 16 * 2 ^ 76)

/-- The sequence number a link key may not reach (R233). -/
def linkLimit : Nat := 2 ^ 48

/-- The direction of a port that sends, or the one that receives. -/
def LinkPort.dir (p : LinkPort) (out : Bool) : LinkDir := if out then p.tx else p.rx
def LinkPort.setDir (p : LinkPort) (out : Bool) (d : LinkDir) : LinkPort := if out then { p with tx := d } else { p with rx := d }

/-- A packet number is used up, and a key agreed for the next number applies from it (R233).  Numbers start again at 0 under a new key, so
that no nonce returns under it (log entry 84). -/
def LinkDir.advance (d : LinkDir) : LinkDir :=
  match d.rekey with
  | some (n, key) => if n ≤ d.seq + 1 then { d with key := key, rekey := none, seq := 0 } else { d with seq := d.seq + 1 }
  | none => { d with seq := d.seq + 1 }

/-- One-time keys of the LMS key pair of the reeve (R243). -/
def lmsKeys : Nat := 32768

/-- Can the reeve authenticate another exchange: is a one-time key of its attestation key left (R233, R243)? -/
def State.canSign (s : State) : Bool := decide (s.reeve.q < lmsKeys)

/-- Must the reeves rekey a direction before its next packet, and can they (R233)? -/
def State.rekeyDue (s : State) (port : Nat) (out : Bool) : Bool :=
  ((s.link port).dir out).rekey.isNone && ((s.link port).dir out).seq + 2 == linkLimit && s.canSign

/-- The reeves exchange `n` link keys, which this module's authenticates with one signature of its attestation key; the index is stored
as used (R233, R243; log entry 84). -/
def State.exchange (s : State) (n : Nat) : State := { s with reeve := { s.reeve with nextKey := s.reeve.nextKey + n, q := s.reeve.q + 1 } }

/-- The reeves agree on a new key of one direction of a port and on the packet number it applies from, below 2⁴⁸ (R233).  Without a
one-time key left there is no exchange (log entry 84). -/
def State.rekey (s : State) (port : Nat) (out : Bool) (seq : Nat) : State :=
  if ((s.link port).dir out).seq < seq ∧ seq < linkLimit ∧ s.canSign then
    let key := s.reeve.nextKey
    ((s.exchange 1).modLink port fun p =>
      p.setDir out { p.dir out with rekey := some (seq, key) }).send (.kexLink port out seq)
  else s

/-- A new key is agreed before the last number that a key may have is used. -/
def State.rekeyFirst (s : State) (port : Nat) (out : Bool) : State :=
  if s.rekeyDue port out then s.rekey port out (((s.link port).dir out).seq + 1) else s

/-- A port comes up, with a key of each direction that the reeves have exchanged (R233); without a one-time key left to authenticate the
exchange it stays down (log entry 84). -/
def State.bringUp (s : State) (port : Nat) : State :=
  let key := s.reeve.nextKey
  if s.canSign then
    (((s.exchange 2).modLink port fun p =>
      { LinkPort.reset with up := true, tx := { LinkDir.reset with key := key }, rx := { LinkDir.reset with key := key + 1 }
                            spent := p.spent }).send (.kexLink port true 0)).send (.kexLink port false 0)
  else s

/-! ## Sending, and the replay buffer (R264) -/

/-- Flits of the replay buffer (R264). -/
def replayFlits : Nat := 64

/-- May a port send another packet: its replay buffer has a place (R264), and its key a number that is left (R233)? -/
def LinkPort.room (p : LinkPort) : Bool := decide (p.replay.length < replayFlits) && decide (p.tx.seq < linkLimit)

/-- May what comes next be sent at once, with nothing waiting before it? -/
def LinkPort.fits (p : LinkPort) : Bool := p.room && p.queue.isEmpty

/-- A packet leaves a port: under its number's nonce and its key (R233). -/
def State.emit (s : State) (port : Nat) (p : Packet) : State :=
  let s := s.send (.linkPacket port (linkNonce s.cfg.moduleId port p.seq) p.key p.item)
  match p.item with
  | .line _ _ _ => s
  | .access _ _ => s
  | .forward r => s.send (.remoteForward port r)
  | .answer source seq kind bytes => s.send (.remoteReply source seq kind bytes)

/-- An item is sent as the next packet, which the replay buffer holds until the other side has taken it. -/
def State.sendPacket (s : State) (port : Nat) (item : LinkItem) : State :=
  let s := s.rekeyFirst port true
  let d := (s.link port).tx
  let p : Packet := { seq := d.seq, key := d.key, item := item }
  (s.modLink port fun l => { l with tx := d.advance, replay := l.replay ++ [p] }).emit port p

/-- An item is sent, or waits until the replay buffer has a place for it. -/
def State.sendOn (s : State) (port : Nat) (item : LinkItem) : State :=
  if (s.link port).fits then s.sendPacket port item else s.modLink port fun l => { l with queue := l.queue ++ [item] }

/-- The next item that waits is sent, if the replay buffer has a place. -/
def State.sendQueued (s : State) (port : Nat) : State :=
  match (s.link port).queue with
  | [] => s
  | item :: r =>
    if (s.link port).room then (s.modLink port fun l => { l with queue := r }).sendPacket port item else s

/-- The other side has checked the oldest packet that it has not acknowledged: it leaves the replay buffer, or is sent again from it under
its own number (R264). -/
def State.flitOut (s : State) (port : Nat) (good : Bool) : State :=
  match (s.link port).replay with
  | [] => s
  | p :: r =>
    if good then (s.modLink port fun l => { l with replay := r, tx := { l.tx with since := none } }).sendQueued port
    else (s.countLink.modLink port fun l => { l with tx := { l.tx with since := some (l.tx.since.getD s.time) } }).emit port p

/-- A flit has come in: it uses up its number, or fails its CRC or its tag and is discarded until it comes again (R233, R264). -/
def State.flitIn (s : State) (port : Nat) (good : Bool) : State :=
  if good then (s.rekeyFirst port false).modLink port fun l => { l with rx := { l.rx.advance with since := none } }
  else s.countLink.modLink port fun l => { l with rx := { l.rx with since := some (l.rx.since.getD s.time) } }

/-- Have a port's retries failed for 100 µs (R264)? -/
def State.portDead (s : State) (port : Nat) : Bool :=
  [true, false].any fun out => ((s.link port).dir out).since.any fun t => decide (t + 100 * microsecond ≤ s.time)

/-- The answer to a part of another module goes out towards it; where LROUTE selects no port that is up, the model lets it leave all the
same (log entry 90). -/
def State.answerPart (s : State) (source seq kind : Nat) (bytes : List Byte) : State :=
  match s.route source with
  | some q => s.sendOn q (.answer source seq kind bytes)
  | none => s.send (.remoteReply source seq kind bytes)

/-- A part for another module goes on by this module's LROUTE, or is refused with kind 5 (R265). -/
def State.passOn (s : State) (r : RemotePart) : State :=
  match s.route r.target with
  | some p => s.sendOn p (.forward r)
  | none => s.countUncorrectable.answerPart r.source r.seq 5 []

/-! ## Lines accessed outside parts (R264, log entry 90) -/

/-- Does the link towards a translation's target take another line: it retries nothing, and its replay buffer has a place (R264)? -/
def State.linkCalm (s : State) (t : Trans) : Bool :=
  t.target != 2 || (s.route t.module).all fun q => (s.link q).fits && (s.link q).tx.since.isNone

/-- An access of the line at a VA leaves in a packet where its page is another module's and its window is known. -/
def State.reach (s : State) (t : Trans) (va : Nat) : State :=
  if t.target = 2 ∧ t.window.isSome then
    match s.route t.module with
    | some q => s.sendOn q (.access t.module (65536 * t.ppn + va % 65536 / 64 * 64))
    | none => s
  else s

end Sys2Proof.Machine
end

