-- ==== Sys2Proof/Machine/Far.lean ====
section
/-!
DEFINITION. Sys2Proof/Machine/Far.lean: far memory (R23, R142, R146): what an agent reads, how a write is performed and
widened, ECC and POISON (R35), translation (R25–R31) and the checks of an access (R231, R234, R237, R257).
-/
namespace Sys2Proof.Machine

/-! ## Far locations (R142) -/

/-- An agent that reads far memory: one at a tile, one on a die (drill, walker, Sheaf), one at system level. -/
inductive Viewer where
  | tile (k : Nat)
  | die (d : Nat)
  | sys
  deriving DecidableEq, Repr

/-- Is a performed write visible to the agent (R142)?  Levels: 0 tile, 1 cluster, 2 quadrant, 3 die, 4 module, 5 system. -/
def FarWrite.visible (w : FarWrite) : Viewer → Bool
  | .sys => decide (5 ≤ w.level)
  | .die d => decide (4 ≤ w.level) || (decide (3 ≤ w.level) && dieOf w.tile == d)
  | .tile k => decide (4 ≤ w.level) || w.tile == k || (dieOf w.tile == dieOf k &&
      (decide (3 ≤ w.level) || (decide (2 ≤ w.level) && quadrantOf w.tile == quadrantOf k) ||
        (decide (1 ≤ w.level) && clusterOf w.tile == clusterOf k)))

/-- Does the write touch [a, a + n) of the space? -/
def FarWrite.meets (w : FarWrite) (sp : Space) (a n : Nat) : Bool :=
  w.space == sp && decide (w.addr < a + n) && decide (a < w.addr + w.bytes.length)

/-- Byte `a` as deciphered under `key` where it was enciphered under `k` (R231); no key reads it as it was written. -/
def decipher (key : Option Nat) (k a : Nat) (b : Byte) : Byte :=
  match key with
  | none => b
  | some k' => if k = k' then b else Config.garbledByte k k' a

/-- The initial or folded value of byte `a` of a space. -/
def State.baseByte (s : State) (sp : Space) (key : Option Nat) (a : Nat) : Byte :=
  match sp with
  | .tier =>
    match mget s.tierKeys (a / 64) with
    | some k => decipher key k a (Memory.get s.tier a)
    | none => Memory.get s.tier a
  | .host => Memory.get s.host a
  | .remote m => Memory.get ((mget s.remotes m).getD []) a

/-- The coherence-latest write of byte `a` that the agent sees, else the byte's initial value (R142). -/
def State.farByte (s : State) (v : Viewer) (sp : Space) (key : Option Nat) (a : Nat) : Byte :=
  (s.writes.filter fun w => w.meets sp a 1 && w.visible v).foldl
    (fun _ w => decipher key w.key a (w.bytes[a - w.addr]?.getD 0#8)) (s.baseByte sp key a)

/-- The `n` bytes at `a` as the agent reads them, little-endian. -/
def State.farRead (s : State) (v : Viewer) (sp : Space) (key : Option Nat) (a n : Nat) : Nat :=
  numOfBytes ((List.range n).map fun i => s.farByte v sp key (a + i))

/-- The 8-byte pieces of a line that [a, a + n) covers, one bit each. -/
def piecesCovered (a n : Nat) : Nat :=
  (List.range 8).foldl (fun m i => if a ≤ a / 64 * 64 + 8 * i ∧ a / 64 * 64 + 8 * i + 8 ≤ a + n then m ||| 1 <<< i else m) 0

/-- The lines with an error after a write of pieces of one: an error that no read has met is gone once the whole line has been
written over (log entry 70). -/
def overwrite (l : List (Nat × Nat)) (line pieces : Nat) : List (Nat × Nat) :=
  match mget l line with
  | none => l
  | some m => if m ||| pieces = 255 then mdel l line else mput l line (m ||| pieces)

/-- Bytes of one line put into the base contents of the second tier; a line that another key had enciphered is re-enciphered,
so that its other bytes hold what they decipher to (R231). -/
def State.linePut (s : State) (key a : Nat) (bs : List Byte) : State :=
  let line := a / 64
  let s := { s with soft := overwrite s.soft line (piecesCovered a bs.length), hard := overwrite s.hard line (piecesCovered a bs.length) }
  let own := (mget s.tierKeys line).all (· == key)
  let old := numOfBytes ((List.range 64).map fun i => s.baseByte .tier (some key) (64 * line + i))
  let tier := if own then s.tier else Memory.write s.tier (64 * line) 64 old
  { s with tier := Memory.write tier a bs.length (numOfBytes bs), tierKeys := mput s.tierKeys line key }

/-- The 64-byte lines that [a, a + n) meets, for n above 0. -/
def linesOf (a n : Nat) : List Nat := List.range' (a / 64) ((a + n - 1) / 64 - a / 64 + 1)

/-- Bytes put into the base contents, in the second tier line by line. -/
def State.basePut (s : State) (sp : Space) (key a : Nat) (bs : List Byte) : State :=
  match sp with
  | .tier =>
    if bs.isEmpty then s
    else (linesOf a bs.length).foldl (fun s l =>
      let lo := max a (64 * l)
      s.linePut key lo ((bs.drop (lo - a)).take (64 * l + 64 - lo))) s
  | .host => { s with host := Memory.write s.host a bs.length (numOfBytes bs) }
  | .remote m => { s with remotes := mput s.remotes m (Memory.write ((mget s.remotes m).getD []) a bs.length (numOfBytes bs)) }

/-- A write that is visible at system level joins the base contents. -/
def State.foldWrite (s : State) (w : FarWrite) : State :=
  { (s.basePut w.space w.key w.addr w.bytes) with writes := s.writes.filter (·.id != w.id) }

/-- May the write widen by one level (R142)?  Every coherence-earlier write to its bytes must be visible there. -/
def State.mayWiden (s : State) (w : FarWrite) : Bool :=
  ((s.writes.takeWhile (·.id != w.id)).filter (·.meets w.space w.addr w.bytes.length)).all fun x => decide (w.level < x.level)

/-- The write widened by one level (VISIBILITY_WIDEN). -/
def State.widen (s : State) (w : FarWrite) : State :=
  if w.level = 4 then s.foldWrite w
  else { s with writes := s.writes.map fun x => if x.id = w.id then { x with level := x.level + 1 } else x }

/-- Every performed write of a space widened to system level, in coherence order (R142 allows it at any time). -/
def State.settleWrites (s : State) (sp : Space) : State :=
  (s.writes.filter (·.space == sp)).foldl (fun s w => s.foldWrite w) s

/-- A write performed at system level at once, after every write of the space has widened (R151). -/
def State.sysPut (s : State) (sp : Space) (key a : Nat) (bs : List Byte) : State :=
  (if s.writes.any (·.meets sp a bs.length) then s.settleWrites sp else s).basePut sp key a bs

/-! ## ECC and POISON of the second tier (R35) -/

/-- A read of a line: it fails on a POISON page; an uncorrectable line poisons its page; a correctable one is rewritten, and the
owning controller counts it. -/
def State.tierTouch (s : State) (pa : Nat) : State × Bool :=
  let line := pa / 64
  let page := pa / 65536
  if s.poison.contains page then (s, false)
  else if (mget s.hard line).isSome then
    ({ s.countUncorrectable with poison := ins s.poison page, hard := mdel s.hard line }, false)
  else if (mget s.soft line).isSome then
    ({ s.countTier with soft := mdel s.soft line }.modCtrl (colour page) fun c => { c with corrected := c.corrected + 1 }, true)
  else (s, true)

/-- An access to a line: a write detects no error, and fails on a POISON page only (R35). -/
def State.tierAccess (s : State) (write : Bool) (pa : Nat) : State × Bool :=
  if write then (s, !s.poison.contains (pa / 65536)) else s.tierTouch pa

/-- An access to the lines of [pa, pa + n), none of which may be poisoned. -/
def State.touchLines (s : State) (write : Bool) (pa n : Nat) : State × Bool :=
  (linesOf pa n).foldl (fun acc l =>
    match acc.1.tierAccess write (64 * l) with
    | (s, ok) => (s, acc.2 && ok)) (s, true)

/-! ## Page tables (R25–R29) -/

/-- What an access wants of a page (R29). -/
inductive Access where
  | read
  | write
  | exec
  deriving DecidableEq, Repr

/-- Pages of 64 KiB in the local second tier, and in a remote one (R23). -/
def tierPages : Nat := 0xC000000

def pteV (p : Word) : Bool := p.getLsbD 0
def pteL (p : Word) : Bool := p.getLsbD 1
def ptePpn (p : Word) : Nat := wbits p 26 32
def pteTarget (p : Word) : Nat := wbits p 12 2

/-- Pages a leaf maps at a level (R26). -/
def leafPages (lvl : Nat) : Nat := 2 ^ (13 * lvl)

/-- Is the entry a leaf at this level (R27)? -/
def pteLeaf (p : Word) (lvl : Nat) : Bool := lvl == 0 || pteL p

/-- A well-formed entry (R27, R29). -/
def pteWellFormed (p : Word) (lvl : Nat) : Bool :=
  pteV p && wbits p 58 6 == 0 && !p.getLsbD 6 && pteTarget p != 3 &&
  (pteTarget p == 2 || wbits p 14 12 == 0) && !(lvl == 0 && pteL p) &&
  (if pteLeaf p lvl then
    ptePpn p % leafPages lvl == 0 && (pteTarget p == 1 || decide (ptePpn p + leafPages lvl ≤ tierPages))
   else pteTarget p == 0 && wbits p 2 10 == 0 && decide (ptePpn p < tierPages))

/-- Does a leaf permit the access: Rd, W or X, and a key id that is zero for targets 01 and 10 (R27, R29)? -/
def ptePermits (p : Word) (k : Access) : Bool :=
  (pteTarget p == 0 || wbits p 8 4 == 0) &&
  (match k with
    | .read => p.getLsbD 2
    | .write => p.getLsbD 3
    | .exec => p.getLsbD 4)

/-- The translation a leaf gives for its first page. -/
def pteTrans (p : Word) (dirty : Bool) : Trans :=
  { target := pteTarget p, ppn := ptePpn p, module := wbits p 14 12, keyId := wbits p 8 4, w := p.getLsbD 3
    rd := p.getLsbD 2, x := p.getLsbD 4, dirty := dirty, window := none }

/-- The table index of a VA at a level (R26). -/
def vaIndex (va lvl : Nat) : Nat := bits va (16 + 13 * lvl) 13

/-- Does a leaf's range touch the HDM range of the host ports (R257)? -/
def State.inHdm (s : State) (ppn pages : Nat) : Bool :=
  s.cfg.hdm.2 != 0 && decide (65536 * ppn < s.cfg.hdm.1 + s.cfg.hdm.2) && decide (s.cfg.hdm.1 < 65536 * (ppn + pages))

/-- The outcome of a walk: a fault kind (R34) or a TLB entry. -/
abbrev WalkResult := Nat ⊕ TlbEntry

/-- What a walk's descent answers: a fault kind, or a TLB entry with the leaf's address and the leaf as it was read. -/
abbrev Descent := Nat ⊕ (TlbEntry × Nat × Word)

/-- The descent from table page `table` at level `lvl` on (R29).  `fuel` is lvl + 1.  The walkers' cache of non-leaf entries
keeps each entry until an invalidation removes it: its size and replacement are the model's choice (log entry 71). -/
def State.walkFrom (s : State) (x d va : Nat) (k : Access) (table : Nat) : (fuel : Nat) → State × Descent
  | 0 => (s, .inl 1)
  | lvl + 1 =>
    let at_ := 65536 * table + 8 * vaIndex va lvl
    let hit := (s.die d).walkCache.find? fun c => c.1 == x && c.2.1 == lvl && c.2.2.1 == va / 2 ^ (16 + 13 * lvl)
    let y := match hit with
      | some _ => (s, true)
      | none => s.tierTouch at_
    if !y.2 then (y.1, .inl 3)
    else
      let s := y.1
      let p := match hit with
        | some c => c.2.2.2
        | none => w64 (s.farRead (.die d) .tier none at_ 8)
      if !pteWellFormed p lvl then (s, .inl 1)
      else if !pteLeaf p lvl then
        let s := if hit.isSome then s
          else s.modDie d fun y => { y with walkCache := y.walkCache ++ [(x, lvl, va / 2 ^ (16 + 13 * lvl), p)] }
        s.walkFrom x d va k (ptePpn p) lvl
      else if !ptePermits p k then (s, .inl 2)
      else
        let page := va / 65536 / leafPages lvl * leafPages lvl
        if pteTarget p == 0 && (ptePpn p % 24 != page % 24 || s.inHdm (ptePpn p) (leafPages lvl)) then (s, .inl 2)
        else
          (s, .inr ({ ctx := x, page := page, pages := leafPages lvl, global := p.getLsbD 5
                      tr := pteTrans p (k == .write || p.getLsbD 7) }, at_, p))

/-- The leaf at `at_` with D set, over the pending writes of its bytes (R29). -/
def State.setDirty (s : State) (at_ : Nat) (p : Word) : State :=
  s.basePut .tier ((mget s.tierKeys (at_ / 64)).getD 0) at_ (bytesOfNum (p ||| 0x80#64).toNat 8)

/-- The walk of a VA in a context (R25, R29), by the walkers of die `d`.  A first write sets D by a compare and swap: writes
that are performed and not yet visible to the walker widen first (R142 allows it), and where the entry is no longer the one
read, the walk restarts. -/
def State.walk (s : State) (x d va : Nat) (k : Access) : State × WalkResult :=
  let root := (s.ctx x).xlroot
  if 2 ^ 55 ≤ va || !root.getLsbD 0 then (s, .inl 1)
  else
    match s.walkFrom x d va k (wbits root 16 32) 3 with
    | (s, .inl f) => (s, .inl f)
    | (s, .inr (e, at_, p)) =>
      if k != .write || p.getLsbD 7 then (s, .inr e)
      else
        let s := s.settleWrites .tier
        if w64 (s.farRead .sys .tier none at_ 8) = p then (s.setDirty at_ p, .inr e)
        else match s.walkFrom x d va k (wbits root 16 32) 3 with
          | (s, .inl f) => (s, .inl f)
          | (s, .inr (e, at_, p)) => (if p.getLsbD 7 then s else s.setDirty at_ p, .inr e)

/-- The entry of a TLB that covers a page (R30). -/
def tlbFind (l : List TlbEntry) (x page : Nat) : Option TlbEntry :=
  l.find? fun e => e.ctx == x && decide (e.page ≤ page) && decide (page < e.page + e.pages)

/-- A TLB with one more entry: 4,096 in all (R30).  Where all are in use the oldest goes, which is the model's choice (log entry
71). -/
def tlbAdd (l : List TlbEntry) (e : TlbEntry) : List TlbEntry := (e :: l).take 4096

/-- The translation of one page of an entry. -/
def TlbEntry.at_ (e : TlbEntry) (page : Nat) : Trans := { e.tr with ppn := e.tr.ppn + (page - e.page) }

/-- Rd, W or X of a held translation. -/
def Trans.permits (t : Trans) : Access → Bool
  | .read => t.rd
  | .write => t.w
  | .exec => t.x

/-- Translation without the remote key (R29, R30): with XLROOT not valid every translation is a page fault (R25); the drill of the
page's colour uses a TLB entry that covers the page, or walks; a first write through a clean entry walks. -/
def State.translateLocal (s : State) (x va : Nat) (k : Access) : State × (Nat ⊕ Trans) :=
  let page := va / 65536
  let c := colour page
  if !(s.ctx x).xlroot.getLsbD 0 then (s, .inl 1)
  else match tlbFind (s.ctrl c).tlb x page with
  | some e =>
    if !e.tr.permits k then (s, .inl 2)
    else if k == .write && !e.tr.dirty then
      match s.walk x (dieOfCtrl c) va k with
      | (s, .inl f) => (s, .inl f)
      | (s, .inr e') =>
        (s.modCtrl c fun y => { y with tlb := tlbAdd (y.tlb.filter (· != e)) e' }, .inr (e'.at_ page))
    else (s, .inr (e.at_ page))
  | none =>
    match s.walk x (dieOfCtrl c) va k with
    | (s, .inl f) => (s, .inl f)
    | (s, .inr e) => (s.modCtrl c fun y => { y with tlb := tlbAdd y.tlb e }, .inr (e.at_ page))

/-! ## One access (R231, R234, R237) -/

/-- The place of an access: its space, its address and its key. -/
abbrev Place := Space × Nat × Nat

/-- What the window of a remote module answers: the fault kind with which it refuses (R236); 4 where no window has been read, and 5 where
no port reaches the module (R265). -/
def State.remoteKind (s : State) (t : Trans) : Option Nat :=
  match t.window with
  | none => some 4
  | some w => if (s.route t.module).isNone then some 5 else (s.refusing.find? fun r => r.1 == (t.module, w.2)).map (·.2)

/-- The checks of an access of at most 8 bytes at page offset `off` of a translated page (R231, R236, R237): the fault kind, or
where it goes. -/
def State.place (s : State) (x : Nat) (t : Trans) (write : Bool) (off : Nat) : State × (Nat ⊕ Place) :=
  let pa := 65536 * t.ppn + off
  if t.target = 0 then
    let e := (s.ctrl (colour t.ppn)).keys[t.keyId]?.getD KeyEntry.reset
    if !e.valid || e.ctx.toNat != x then (s, .inl 2)
    else match s.tierAccess write pa with
      | (s, true) => (s, .inr (.tier, pa, e.key))
      | (s, false) => (s, .inl 3)
  else if t.target = 1 then
    if s.hostPriv.contains t.ppn && (s.ctx x).tdisp != .run then (s, .inl 2) else (s, .inr (.host, pa, 0))
  else match s.remoteKind t with
    | some k => (s, .inl k)
    | none => (s, .inr (.remote t.module, pa, 0))

/-- A read of at most 8 bytes within one page whose translation is given: the fault kind, or the bytes. -/
def State.readBy (v : Viewer) (x va n : Nat) : State × (Nat ⊕ Trans) → State × (Nat ⊕ Nat)
  | (s, .inl f) => (s, .inl f)
  | (s, .inr t) =>
    match s.place x t false (va % 65536) with
    | (s, .inl f) => (s, .inl f)
    | (s, .inr (sp, a, key)) => (s, .inr (s.farRead v sp (some key) a n))

/-- The two words of a context's RKTAB entry for a module, as the drill of colour `c` reads them (R234). -/
def State.remoteEntry (s : State) (x c m : Nat) : State × (Nat ⊕ (Nat × Nat)) :=
  let base := (wbits (s.ctx x).rktab 16 39) * 65536 + 16 * m
  match State.readBy (.die (dieOfCtrl c)) x base 8 (s.translateLocal x base .read) with
  | (s, .inl f) => (s, .inl f)
  | (s, .inr key) =>
    match State.readBy (.die (dieOfCtrl c)) x (base + 8) 8 (s.translateLocal x (base + 8) .read) with
    | (s, .inl f) => (s, .inl f)
    | (s, .inr w1) => (s, .inr (key, w1))

/-- A TLB entry that covers a page, with its window. -/
def TlbEntry.withWindow (e : TlbEntry) (x page : Nat) (win : Option (Word × Nat)) : TlbEntry :=
  if e.ctx = x ∧ e.page ≤ page ∧ page < e.page + e.pages then { e with tr := { e.tr with window := win } } else e

/-- Translation with the remote key of R234: word0 and the window number of the module's RKTAB entry, cached with the TLB
entry; an invalid entry fails with kind 4, and a fault met in reading it with its own kind (R34). -/
def State.translate (s : State) (x va : Nat) (k : Access) : State × (Nat ⊕ Trans) :=
  match s.translateLocal x va k with
  | (s, .inl f) => (s, .inl f)
  | (s, .inr t) =>
    if t.target = 2 ∧ t.window = none then
      let c := colour (va / 65536)
      match s.remoteEntry x c t.module with
      | (s, .inl f) => (s, .inl f)
      | (s, .inr (key, w1)) =>
        if w1 < 2 ^ 63 ∨ bits w1 6 57 ≠ 0 then (s, .inl 4)
        else
          let win := some (w64 key, bits w1 0 6)
          (s.modCtrl c fun y => { y with tlb := y.tlb.map (·.withWindow x (va / 65536) win) }, .inr { t with window := win })
    else (s, .inr t)

/-- A line at a VA is accessed through a context's translation: a remote one leaves in a packet (R264). -/
def State.reachLine (s : State) (x va : Nat) (k : Access) : State :=
  match s.translate x va k with
  | (s, .inl _) => s
  | (s, .inr t) => s.reach t va

/-- A read of at most 8 bytes within one page through a context's translation: the fault kind, or the bytes. -/
def State.vaGet (s : State) (v : Viewer) (x va n : Nat) (k : Access) : State × (Nat ⊕ Nat) :=
  State.readBy v x va n (s.translate x va k)

/-- Such a read as an access of its own. -/
def State.vaRead (s : State) (v : Viewer) (x va n : Nat) (k : Access) : State × (Nat ⊕ Nat) := (s.reachLine x va k).vaGet v x va n k

/-- A write of at most 8 bytes through a context's translation, at system level: the fault kind if it fails. -/
def State.vaPut (s : State) (x va n v : Nat) : State × Option Nat :=
  match s.translate x va .write with
  | (s, .inl f) => (s, some f)
  | (s, .inr t) =>
    match s.place x t true (va % 65536) with
    | (s, .inl f) => (s, some f)
    | (s, .inr (sp, a, key)) => (s.sysPut sp key a (bytesOfNum v n), none)

/-- Such a write as an access of its own. -/
def State.vaWrite (s : State) (x va n v : Nat) : State × Option Nat := (s.reachLine x va .write).vaPut x va n v

/-- A read of `n` pieces of `w` bytes, an access for each line it begins: the first fault with its VA, or the pieces. -/
def State.vaReadFrom (s : State) (v : Viewer) (x va w : Nat) (k : Access) (first : Bool) :
    (n : Nat) → State × ((Nat × Nat) ⊕ List Nat)
  | 0 => (s, .inr [])
  | n + 1 =>
    match (if first || va % 64 < w then s.reachLine x va k else s).vaGet v x va w k with
    | (s, .inl f) => (s, .inl (f, va))
    | (s, .inr y) =>
      match s.vaReadFrom v x (va + w) w k false n with
      | (s, .inl f) => (s, .inl f)
      | (s, .inr ys) => (s, .inr (y :: ys))

/-- A read of `n` pieces of `w` bytes from a VA on. -/
def State.vaReadMany (s : State) (v : Viewer) (x va w : Nat) (k : Access) (n : Nat) : State × ((Nat × Nat) ⊕ List Nat) :=
  s.vaReadFrom v x va w k true n

end Sys2Proof.Machine
end

