-- ==== Sys2Proof/Machine/FieldMem.lean ====
section
/-!
DEFINITION. Sys2Proof/Machine/FieldMem.lean: the A-core's access to the field store (R290–R300), landing counters (R309),
leases and probes (R313–R315), and the completion registers as a strand reads them (R304, R305).
-/
namespace Sys2Proof.Machine

/-! ## Port A -/

/-- A JMPT's table read uses the A-core pipeline in this cycle, so an A-strand access waits one cycle (R226). -/
def Env.pipeTaken (e : Env) : Bool := e.t.jmptAt.any fun x => x.1 == e.now

/-- The field address in a register's value (R290). -/
def fieldAddr (x : Word) : Nat := wbits x 0 22

/-- A port-A access of `n` bytes at `f` (R290): it waits for the pipeline, makes the checks that are decided at issue and,
for a read, the bank stage's check; a failing one traps in the verdict cycle `due` (R212).  Then it does `k`. -/
def Env.portA (e : Env) (f n al : Nat) (read : Bool) (due : Nat) (k : Unit → Effect) : Effect :=
  if e.pipeTaken then .wait
  else match portACheck e.t e.run f n al with
    | some x => .trap x due
    | none =>
      match (if read then poisonCheck e.t f n else none) with
      | some x => .trap x due
      | none => k ()

/-! ## Scalar loads and stores (R292, R293) -/

/-- A load of `n` bytes, zero-extended, latency 14, verdict at issue + 6 (R292). -/
def execLoad (n : Nat) (m : Bool) (d a : BitVec 4) (s : State) : Result :=
  issue m (formD2.aOnly.verdictAt 6) false (fun e => [tS (dNum e.pl d), tS (aNum e.pl a)])
    (fun e =>
      let f := fieldAddr (e.r.sget (aNum e.pl a))
      let post (v : Word) (t : Tile) : Tile := t.modRegs e.σ (·.post (e.now + 14) (.s (dNum e.pl d) v))
      e.holding (post 0#64) <| e.portA f n n true (e.now + 6) fun _ =>
        .done ((e.s.repair e.k f n).modTile e.k fun t =>
            post (w64 (e.t.fieldRead true e.now f n)) (t.useBanks e.now (banksOf f n) false))
          none 1 (some (e.now + 6))) s

def execLdb (m : Bool) (d a : BitVec 4) (s : State) : Result := execLoad 1 m d a s
def execLdh (m : Bool) (d a : BitVec 4) (s : State) : Result := execLoad 2 m d a s
def execLdw (m : Bool) (d a : BitVec 4) (s : State) : Result := execLoad 4 m d a s
def execLdd (m : Bool) (d a : BitVec 4) (s : State) : Result := execLoad 8 m d a s

/-- A store of the low `n` bytes of s[d] (R293): it merges into the newest waiting entry for its granule, or takes a new
one, for which the buffer reads the granule; verdict at issue + 6. -/
def execStore (n : Nat) (m : Bool) (d a : BitVec 4) (s : State) : Result :=
  issue m (formD2.aOnly.verdictAt 6) false (fun e => [tS (dNum e.pl d), tS (aNum e.pl a)])
    (fun e =>
      let f := fieldAddr (e.r.sget (aNum e.pl a))
      let merge := e.t.sbMergeable (f / 32)
      e.portA f n n (!merge) (e.now + 6) fun _ =>
        if !merge && !e.t.sbRoom 1 then .wait
        else
          .done ((if merge then e.s else e.s.repair e.k f n).modTile e.k fun t =>
              (t.useBanks e.now (banksOf f n) merge).sbNarrow f n (e.r.sget (dNum e.pl d)).toNat (e.storeTime (e.now + 6)))
            none 1 (some (e.now + 6))) s

def execStb (m : Bool) (d a : BitVec 4) (s : State) : Result := execStore 1 m d a s
def execSth (m : Bool) (d a : BitVec 4) (s : State) : Result := execStore 2 m d a s
def execStw (m : Bool) (d a : BitVec 4) (s : State) : Result := execStore 4 m d a s
def execStd (m : Bool) (d a : BitVec 4) (s : State) : Result := execStore 8 m d a s

/-! ## Vector loads and stores (R294, R295) -/

/-- Pushes an entry of lq[q] that is filled 14 cycles after issue (R79); until then it is an outstanding result of the
A-strand (R89, R291). -/
def Tile.lqPush (t : Tile) (q due : Nat) (x : Nat) : Tile :=
  { (t.lqset q ((t.lqget q).push { id := t.nextId, due := due, data := BitVec.ofNat 2048 x, filled := false })).modRegs .a
      (·.post due .none)
    with nextId := t.nextId + 1 }

def execLdv (m : Bool) (q : BitVec 2) (a : BitVec 4) (s : State) : Result :=
  issue m (formZ.aOnly.verdictAt 6) false (fun _ => [tS a.toNat])
    (fun e =>
      let f := fieldAddr (e.r.sget a.toNat)
      if !(e.t.lqget q.toNat).room e.now then .wait
      else e.holding (·.lqPush q.toNat (e.now + 14) 0) <| e.portA f 256 256 true (e.now + 6) fun _ =>
        .done ((e.s.repair e.k f 256).modTile e.k fun t =>
            (t.useBanks e.now (banksOf f 256) false).lqPush q.toNat (e.now + 14) (e.t.fieldRead true e.now f 256))
          none 1 (some (e.now + 6))) s

/-- The data of the head of sq[q] (R295). -/
def Tile.sqHead (t : Tile) (q : Nat) : Vec := (((t.sqget q).ents.head?).map (·.data)).getD 0#2048

/-- A row taken from sq[q] and written at `f` through the store buffer: eight entries (R62). -/
def Env.storeRow (e : Env) (q f : Nat) (t : Tile) : Tile :=
  ((t.useBanks e.now (banksOf f 256) true).sqset q ((e.t.sqget q).drop 1 e.now)).sbWhole f 256 (e.t.sqHead q).toNat (e.storeTime e.now)

def execStv (m : Bool) (q : Bool) (a : BitVec 4) (s : State) : Result :=
  issue m formZ.aOnly true (fun _ => [tS a.toNat])
    (fun e =>
      let f := fieldAddr (e.r.sget a.toNat)
      if !(e.t.sqget (b2n q)).ready 1 then .wait
      else e.portA f 256 256 false e.now fun _ =>
        if !e.t.sbRoom 8 then .wait
        else .done (e.s.modTile e.k (e.storeRow (b2n q) f)) none 1 none) s

/-! ## ZEROF (R296, R392) -/

/-- One row of a ZEROF that still has to write [f, stop): it enters the buffer if there is room; the strand's issue is
held until the last row has entered. -/
def Env.zeroRow (e : Env) (f stop : Nat) : Effect :=
  let top := min stop (256 * (f / 256) + 256)
  let keep (t : Tile) (f : Nat) : Tile := t.setStrand e.σ { t.strand e.σ with zerof := some (f, stop) }
  if e.pipeTaken || !e.t.sbRoom ((top - f) / 32) then .hold (e.s.modTile e.k (keep · f))
  else
    let s := e.s.modTile e.k fun t => (t.useBanks e.now (banksOf f (top - f)) true).sbWhole f (top - f) 0 (e.storeTime e.now)
    if top < stop then .hold (s.modTile e.k (keep · top)) else .done s none 1 none

/-- ZEROF: its checks are made once, at issue; its rows enter one per cycle. -/
def execZerof (m : Bool) (d a : BitVec 4) (s : State) : Result :=
  match s.focus with
  | none => .fault .noStrand
  | some e =>
    match (e.t.strand e.σ).zerof with
    | some (f, stop) => .next (e.apply (e.zeroRow f stop))
    | none =>
      issue m formD2.aOnly false (fun e => [tS (dNum e.pl d), tS (aNum e.pl a)])
        (fun e =>
          let f := fieldAddr (e.r.sget (aNum e.pl a))
          let n := (e.r.sget (dNum e.pl d)).toNat
          if n % 32 != 0 || decide (fieldTop < n) then .trap (trip codeIllegal) e.now
          else if n = 0 then .done e.s none 1 none
          else e.portA f n 32 false e.now fun _ => e.zeroRow f (f + n)) s

/-! ## Walkers (R82, R83, R297–R300) -/

/-- The address of a walker's next access (R83). -/
def Walker.addr (w : Walker) : Int :=
  (List.range 4).foldl (fun a d => a + (w.idx[d]?.getD 0#16).toNat * (w.strides[d]?.getD 0#32).toInt) (w.base.toNat : Int)

/-- The walker after an access, with the end flags of its dimensions (R83). -/
def Walker.advance (w : Walker) : Walker × List Bool :=
  let rec go (fuel d : Nat) (i : Vector (BitVec 16) 4) (fl : List Bool) : Vector (BitVec 16) 4 × List Bool :=
    match fuel with
    | 0 => (i, fl)
    | fuel + 1 =>
      let n := (i[d]?.getD 0#16).toNat + 1
      if n < (w.counts[d]?.getD 0#16).toNat then (i.setIfInBounds d (BitVec.ofNat 16 n), fl ++ List.replicate (4 - d) false)
      else go fuel (d + 1) (i.setIfInBounds d 0#16) (fl ++ [true])
  let x := go 4 0 w.idx []
  ({ w with idx := x.1 }, x.2)

/-- A walker from its descriptor's eight words; none where a word is refused (R82). -/
def Walker.ofWords (x : Nat → Word) : Option Walker :=
  let dims := [x 1, x 2, x 3, x 4]
  if wbits (x 0) 23 41 != 0 || dims.any (fun y => wbits y 48 16 != 0 || wbits y 0 16 == 0 || wbits y 16 32 % 32 != 0) ||
      x 5 != 0#64 || x 6 != 0#64 || x 7 != 0#64 then none
  else some
    { base := (x 0).extractLsb' 0 22, pe := (x 0).getLsbD 22
      counts := #v[(x 1).extractLsb' 0 16, (x 2).extractLsb' 0 16, (x 3).extractLsb' 0 16, (x 4).extractLsb' 0 16]
      strides := #v[(x 1).extractLsb' 16 32, (x 2).extractLsb' 16 32, (x 3).extractLsb' 16 32, (x 4).extractLsb' 16 32]
      idx := #v[0#16, 0#16, 0#16, 0#16] }

/-- A walker of zeros. -/
def Walker.reset : Walker :=
  { base := 0#22, pe := false, counts := #v[1#16, 1#16, 1#16, 1#16], strides := #v[0#32, 0#32, 0#32, 0#32], idx := #v[0#16, 0#16, 0#16, 0#16] }

/-- Is a feed using walker n (R84)? -/
def Tile.feedUses (t : Tile) (n : Nat) : Bool := t.feedA.any (·.w == n) || t.feedB.any (·.w == n)

/-- Word `i` of the `n` bytes `x`. -/
def wordAt (x i : Nat) : Word := w64 (x >>> (64 * i))

def execWset (m : Bool) (w : BitVec 3) (a : BitVec 4) (s : State) : Result :=
  issue m (formZ.aOnly.verdictAt 14) false (fun _ => [.w w.toNat, tS a.toNat])
    (fun e =>
      let f := fieldAddr (e.r.sget a.toNat)
      let post (x : Walker) (t : Tile) : Tile := t.modRegs e.σ (·.post (e.now + 14) (.w w.toNat x))
      e.holding (post Walker.reset) <|
        if e.t.feedUses w.toNat then .trap (trip codeIllegal) (e.now + 14)
        else e.portA f 64 64 true (e.now + 14) fun _ =>
          match Walker.ofWords (wordAt (e.t.fieldRead true e.now f 64)) with
          | none => .trap (trip codeIllegal) (e.now + 14)
          | some x =>
            .done ((e.s.repair e.k f 64).modTile e.k fun t => post x (t.useBanks e.now (banksOf f 64) false))
              none 1 (some (e.now + 14))) s

/-- The registers a WLD or WST touches: the walker and, with PE, p4–p7 (R90, R298). -/
def walkTouch (e : Env) (w : Nat) : List Touch :=
  Touch.w w :: (match e.t.wget w with
    | some x => if x.pe then [tP 4, tP 5, tP 6, tP 7] else []
    | none => [])

/-- The checks of an access of `n` bytes through a walker (R83, R298): alignment, key, 0 to 0x3F_FFFF and the task's range,
in-flight bits. -/
def walkCheck (t : Tile) (r : Run) (a : Int) (n : Nat) : Option Trip :=
  if a % (n : Int) != 0 then some (trip codeIllegal)
  else if !t.keyOk then some (trip codeSecurity)
  else if a < 0 then some (codeFieldRange, 0#8, BitVec.ofInt 64 a)
  else portACheck t r a.toNat n n

/-- Walker w advanced, with its end flags in p4–p7 when PE is 1 (R298). -/
def Env.walkStep (e : Env) (w : Nat) (x : Walker) (t : Tile) : Tile :=
  let y := x.advance
  let t := (t.noteWalker e.σ w).wset w y.1
  if x.pe then
    t.modRegs e.σ fun r => (List.range 4).foldl (fun r d => r.pset (4 + d) (y.2[d]?.getD false)) r
  else t

/-- One access of `n` bytes through walker w (R298): the checks, with the verdict in the cycle `due`, then `k` with the walker. -/
def Env.walk (e : Env) (w n due : Nat) (k : Walker → Nat → Effect) : Effect :=
  match e.t.wget w with
  | none => .trap (trip codeIllegal) due
  | some x =>
    if e.t.feedUses w then .trap (trip codeIllegal) due
    else if e.pipeTaken then .wait
    else match walkCheck e.t e.run x.addr n with
      | some y => .trap y due
      | none => k x x.addr.toNat

def execWld (m : Bool) (q : BitVec 2) (w : BitVec 3) (k : BitVec 3) (s : State) : Result :=
  issueIf (fun _ => decide (4 ≤ k.toNat)) m (formZ.aOnly.verdictAt 6) false (fun e => walkTouch e w.toNat)
    (fun e =>
      if !(e.t.lqget q.toNat).room e.now then .wait
      else e.holding (·.lqPush q.toNat (e.now + 14) 0) <| e.walk w.toNat (32 <<< k.toNat) (e.now + 6) fun x f =>
        let n := 32 <<< k.toNat
        match poisonCheck e.t f n with
        | some y => .trap y (e.now + 6)
        | none =>
          .done ((e.s.repair e.k f n).modTile e.k fun t =>
              e.walkStep w.toNat x
                ((t.useBanks e.now (banksOf f n) false).lqPush q.toNat (e.now + 14) (e.t.fieldRead true e.now f n)))
            none 1 (some (e.now + 6))) s

def execWst (m : Bool) (q : Bool) (w : BitVec 3) (s : State) : Result :=
  issue m formZ.aOnly true (fun e => walkTouch e w.toNat)
    (fun e =>
      if !(e.t.sqget (b2n q)).ready 1 then .wait
      else e.walk w.toNat 256 e.now fun x f =>
        if !e.t.sbRoom 8 then .wait
        else .done (e.s.modTile e.k fun t => e.walkStep w.toNat x (e.storeRow (b2n q) f t)) none 1 none) s

/-- The first failing check of the next `n` entries of a feed (R299). -/
def feedCheck (t : Tile) (r : Run) (w : Walker) : (n : Nat) → Option Trip
  | 0 => none
  | n + 1 =>
    match walkCheck t r w.addr 64 with
    | some x => some x
    | none => feedCheck t r w.advance.1 n

def execWfeed (m : Bool) (w : BitVec 3) (port : Bool) (n : BitVec 4) (s : State) : Result :=
  issue m formZ.aOnly true (fun _ => [.w w.toNat, tS n.toNat])
    (fun e =>
      let c := (e.r.sget n.toNat).toNat
      if 65536 < c then .trap (trip codeIllegal) e.now
      else if (if port then e.t.feedB else e.t.feedA).isSome then .wait
      else match e.t.wget w.toNat with
        | none => .trap (trip codeIllegal) e.now
        | some x =>
          if e.t.feedUses w.toNat then .trap (trip codeIllegal) e.now
          else match feedCheck e.t e.run x c with
            | some y => .trap y e.now
            | none =>
              if c = 0 then .done e.s none 1 none
              else
                let fd := some { w := w.toNat, left := c, since := e.now, last := 0, pc := e.r.runPc }
                .done (e.s.modTile e.k fun t => if port then { t with feedB := fd } else { t with feedA := fd }) none 1 none) s

/-- WSTAT (R300): the walker's indices, latency 2; a walker that is not set reads all ones. -/
def execWstat (m : Bool) (d : BitVec 4) (w : BitVec 3) (s : State) : Result :=
  issue m formZ.aOnly false (fun _ => [tS d.toNat, .w w.toNat])
    (fun e =>
      let v := match e.t.wget w.toNat with
        | some x => (List.range 4).foldl (fun a i => a ||| ((x.idx[i]?.getD 0#16).setWidth 64 <<< (16 * i))) 0#64
        | none => BitVec.allOnes 64
      e.later 2 (.s d.toNat v)) s

/-! ## Landing counters (R47, R309) -/

/-- A waiting entry whose stores committed by `now` no longer write the bytes that `m` leaves out. -/
def SbEntry.cutBy (e : SbEntry) (now : Nat) (m : BitVec 32) : SbEntry :=
  let late := (e.parts.filter fun p => decide (now < p.commit)).foldl (fun x p => x ||| p.mask) 0#32
  { e with mask := e.mask &&& (m ||| late)
           parts := e.parts.map fun p => if p.commit ≤ now then { p with mask := p.mask &&& m } else p }

/-- Bytes written in one access of the tile's order: they are in the banks at once, and stores committed by `now` no longer
write over them (R47, R309). -/
def Tile.atomicWrite (t : Tile) (now f n x : Nat) : Tile :=
  let m : BitVec 32 := ~~~(BitVec.ofNat 32 ((2 ^ n - 1) <<< (f % 32)))
  let t := t.bankWrite f n x
  { t with sb := t.sb.map fun e => if e.granule = f / 32 then e.cutBy now m else e }

/-- What a read that comes before the A-strand's access of this cycle sees of 16 bytes that an LNDSET is about to write (R136). -/
def Tile.oldBytes (t : Tile) (now f : Nat) : OldBytes :=
  { cycle := now, addr := f, bytes := t.fieldRead false (now - 1) f 16, tags := t.rowTagsSeen false (now - 1) (f / 256) }

/-- LNDSET (R309): the target written, count and overflow cleared; generation and word1 [63:17] stay. -/
def execLndset (m : Bool) (d a : BitVec 4) (s : State) : Result :=
  issue m formD2.aOnly true (fun e => [tS (dNum e.pl d), tS (aNum e.pl a)])
    (fun e =>
      let f := fieldAddr (e.r.sget (aNum e.pl a))
      let v := e.r.sget (dNum e.pl d)
      if wbits v 32 32 != 0 then .trap (trip codeIllegal) e.now
      else e.portA f 16 16 true e.now fun _ =>
        let w1 := setBits (wordAt (e.t.fieldRead true e.now f 16) 1) 16 1 0
        .done ((e.s.repair e.k f 16).modTile e.k fun t =>
            let t := (t.useBanks e.now (banksOf f 16) false).atomicWrite e.now f 16 (v.toNat + w1.toNat * 2 ^ 64)
            { t with
              before := some (e.t.oldBytes e.now f)
              field := { t.field with resets := mput t.field.resets f ((mget t.field.resets f).getD 0 + 1) } })
          none 1 none) s

/-! ## Leases and probes (R168, R169, R313–R315) -/

/-- Is unit `u` of the tile free (R168)? -/
def State.unitFree (s : State) (k u : Nat) : Bool :=
  let t := s.tile k
  (mget t.field.lease u).isNone && !t.field.held.contains u &&
  !(match s.runOf k with
    | some r => r.scratchUnit u
    | none => false) &&
  !(s.bookings.any fun b => !b.gone && !b.started && (rect b.origin b.width b.height).contains k &&
      decide (b.scratch.1 ≤ u) && decide (u < b.scratch.1 + b.scratch.2))

/-- The first unit of the lowest run of `n` free units from unit `u` on, `len` having been found free before it. -/
def State.freeRun (s : State) (k n : Nat) : (fuel u len : Nat) → Option Nat
  | 0, _, _ => none
  | fuel + 1, u, len =>
    if s.unitFree k u then
      if len + 1 = n then some (u + 1 - n) else s.freeRun k n fuel (u + 1) (len + 1)
    else s.freeRun k n fuel (u + 1) 0

/-- `t` with units [u, u + n) leased to a fibre (R71). -/
def Tile.leaseTo (t : Tile) (fibre : BitVec 16) (u n : Nat) : Tile :=
  { t with field := { t.field with lease := (List.range' u n).foldl (fun l i => mput l i fibre) t.field.lease } }

/-- `t` with units [u, u + n) no longer leased: those with a granule in flight are held (R73, R314). -/
def Tile.unlease (t : Tile) (u n : Nat) : Tile :=
  let x := t.field
  { t with field := Field.settle { x with
      lease := x.lease.filter fun p => !(decide (u ≤ p.1) && decide (p.1 < u + n))
      held := (List.range' u n).foldl ins x.held } }

def execLease (m : Bool) (d a : BitVec 4) (s : State) : Result :=
  issue m formD2.aOnly true (fun e => [tS (dNum e.pl d), tS (aNum e.pl a), tP 1])
    (fun e =>
      let u := (e.r.sget (aNum e.pl a)).toNat
      if u < 1 || decide (64 < u) then .trap (trip codeIllegal) e.now
      else
        let res (t : Tile) (v : Word) (ok : Bool) : Tile :=
          t.modRegs e.σ fun r => (r.post (e.now + 4) (.s (dNum e.pl d) v)).post (e.now + 4) (.p 1 ok)
        match e.s.freeRun e.k u 64 0 0 with
        | some i => .done (e.s.setTile e.k (res (e.t.leaseTo e.run.fibre i u) (w64 (65536 * i)) true)) none 1 none
        | none => .done (e.s.setTile e.k (res e.t 0#64 false)) none 1 none) s

def execUnlease (m : Bool) (d a : BitVec 4) (s : State) : Result :=
  issue m formD2.page1.aOnly true (fun e => [tS (dNum e.pl d), tS (aNum e.pl a)])
    (fun e =>
      let f := fieldAddr (e.r.sget (aNum e.pl a))
      let n := (e.r.sget (dNum e.pl d)).toNat
      let u := f / 65536
      if f % 65536 != 0 || n < 1 || decide (64 < n) || decide (64 < u + n) ||
          (List.range' u n).any (fun i => !e.t.leased e.run.fibre i) then .trap (trip codeIllegal) e.now
      else .done (e.s.setTile e.k (e.t.unlease u n)) none 1 none) s

/-- XPROBE (R315): a row's tags and a granule's in-flight bit; only the FIELD-RANGE check, over the granule. -/
def execXprobe (m : Bool) (d a : BitVec 4) (s : State) : Result :=
  issue m formD2.page1.aOnly false (fun e => [tS (dNum e.pl d), tS (aNum e.pl a)])
    (fun e =>
      let f := fieldAddr (e.r.sget (aNum e.pl a))
      let g := 32 * (f / 32)
      if !e.t.inRange e.run g 32 || !e.run.groupsBooked g 32 then .trap (tripAt codeFieldRange g) e.now
      else
        let tags := e.t.rowTagsSeen true e.now (f / 256)
        e.later 8 (.s (dNum e.pl d) (w64 (tags.2 + tags.1 * 2 ^ 24 + b2n (e.t.inFlight g 32) * 2 ^ 48)))) s

/-! ## Completion registers (R304, R305) -/

def execCstat (m : Bool) (d : BitVec 4) (s : State) : Result :=
  issue m formZ.aOnly false (fun _ => [tS d.toNat])
    (fun e => e.short (·.sset d.toNat
      (w64 ((List.range 8).foldl (fun a i => a ||| (e.t.cstate i <<< (4 * i))) 0)))) s

def execCmov (m : Bool) (d : BitVec 4) (c : BitVec 3) (s : State) : Result :=
  issue m formZ.aOnly false (fun _ => [tS d.toNat])
    (fun e => e.short (·.sset d.toNat (e.t.cget c.toNat))) s

end Sys2Proof.Machine
end

