-- ==== Sys2Proof/Machine/Copies.lean ====
section
/-!
DEFINITION. Sys2Proof/Machine/Copies.lean: the issue of copies, walks, far loads, far stores and fences, and what the strand
does to them afterwards (R40–R43, R49–R56, R144, R301–R303, R306–R308, R310–R312).  Their moves stand in Machine/Engine.lean.
-/
namespace Sys2Proof.Machine

/-! ## Descriptors (R41) -/

/-- The kinds of copy a descriptor serves. -/
inductive CopyKind where
  | cpy
  | cpyw
  | cpym
  | cpyf
  deriving DecidableEq, Repr

def CopyKind.op : CopyKind → OpKind
  | .cpy => .cpy
  | .cpyw => .cpyw
  | .cpym => .cpym
  | .cpyf => .cpyf

/-- A copy descriptor's words (R41). -/
structure CopyDesc where
  w0 : Word
  w1 : Word
  w2 : Word
  w3 : Word
  deriving DecidableEq, Repr

def CopyDesc.length (x : CopyDesc) : Nat := wbits x.w2 0 32
def CopyDesc.scope (x : CopyDesc) : Nat := wbits x.w2 36 3
def CopyDesc.memberMask (x : CopyDesc) : Nat := wbits x.w2 48 16
/-- The landing counter's field address; none where the field is 0 (R41, R59). -/
def CopyDesc.counter (x : CopyDesc) : Option Nat := if wbits x.w3 0 32 = 0 then none else some (wbits x.w3 0 22)
def CopyDesc.first (x : CopyDesc) : Nat := wbits x.w3 32 32
/-- The field range on the issuing tile: the destination, or CPYW's source. -/
def CopyDesc.field (x : CopyDesc) : CopyKind → Nat
  | .cpyw => wbits x.w0 0 22
  | _ => wbits x.w1 0 22
/-- The rotation rows' field address, when rotation is enabled (R41). -/
def CopyDesc.rot (x : CopyDesc) : CopyKind → Option Nat
  | .cpyf => if x.w1.getLsbD 63 then some (wbits x.w1 32 22) else none
  | _ => none
/-- The far VA of a copy that has one. -/
def CopyDesc.far (x : CopyDesc) : CopyKind → Nat
  | .cpyw => x.w1.toNat
  | _ => x.w0.toNat

/-- Do [a, a + n) and [b, b + m) overlap? -/
def overlap (a n b m : Nat) : Bool := n != 0 && m != 0 && decide (a < b + m) && decide (b < a + n)

/-- Step 3 of R42: reserved and zero bits, scope, length, alignment, and a counter that overlaps a range of the copy. -/
def CopyDesc.illegal (x : CopyDesc) (k : CopyKind) : Bool :=
  let n := x.length
  let ranges := x.field k :: (x.rot k).toList
  wbits x.w2 40 8 != 0 || decide (6 ≤ x.scope) || n % (if k = .cpyf then 256 else 8) != 0 ||
  (k != .cpym && x.memberMask != 0) || (k != .cpyf && x.first != 0) || wbits x.w3 0 32 % 16 != 0 ||
  (match k with
    | .cpy => wbits x.w0 55 9 != 0 || wbits x.w0 0 3 != 0 || wbits x.w1 22 42 != 0 || wbits x.w1 0 3 != 0
    | .cpym => wbits x.w0 55 9 != 0 || wbits x.w0 0 3 != 0 || wbits x.w1 22 42 != 0 || wbits x.w1 0 3 != 0
    | .cpyw => wbits x.w0 22 42 != 0 || wbits x.w0 0 3 != 0 || wbits x.w1 55 9 != 0 || wbits x.w1 0 3 != 0
    | .cpyf => wbits x.w1 22 10 != 0 || wbits x.w1 54 9 != 0 || ranges.any (fun f => f % 256 != 0)) ||
  (match x.counter with
    | some c => ranges.any fun f => overlap c 16 f n
    | none => false)

/-! ## Members (R49, R154) -/

/-- The members a mask selects: by rank in a gang of up to 16 tiles, else by blocks of 2 × 2 (R49). -/
def Run.selected (r : Run) (mask : Nat) : List Nat :=
  ((List.range (r.width * r.height)).filter fun i =>
      mask.testBit (if r.width * r.height ≤ 16 then i else 4 * (i / r.width / 2) + i % r.width / 2)).map fun i =>
    tileAt (dieOf r.origin) (rowOf r.origin + i / r.width) (colOf r.origin + i % r.width)

/-- Does a bit of the mask select no member (R49)? -/
def Run.strayBit (r : Run) (mask : Nat) : Bool :=
  (onesOf mask 16).any fun b => !(List.range (r.width * r.height)).any fun i =>
    b == (if r.width * r.height ≤ 16 then i else 4 * (i / r.width / 2) + i % r.width / 2)

/-- The mask bit of the link that the first hop from tile k to tile m leaves by (R14, R154). -/
def firstLink (k m : Nat) : Nat :=
  if colOf k < colOf m then 8 else if colOf m < colOf k then 10 else if rowOf m < rowOf k then 7 else 9

/-- Does the route to some other selected member leave by a link that is not booked (R154)? -/
def Run.linkMissing (r : Run) (k : Nat) (ms : List Nat) : Bool :=
  ms.any fun m => m != k && !r.mask.getLsbD (firstLink k m)

/-! ## Ranges on the issuing tile (steps 5 and 6 of R42) -/

/-- The first failing range check: FIELD-RANGE over every range, then EARLY-TOUCH over every range. -/
def rangeChecks (t : Tile) (r : Run) (ranges : List (Nat × Nat)) : Option Trip :=
  firstTrip (ranges.map (fun x => failIf (x.2 != 0 && !t.inRange r x.1 x.2) (tripAt codeFieldRange x.1)) ++
    ranges.map (fun x => failIf (t.inFlight x.1 x.2) (tripAt codeEarlyTouch x.1)))

/-! ## Parts (R43) -/

/-- A part that has not been sent. -/
def Part.new (va bytes off : Nat) (rot : Bool) : Part :=
  { va := va, bytes := bytes, off := off, rot := rot, phase := .unsent, trans := [], got := [], put := [], landed := [],
    read := [], accepted := [], sent := 0, port := none, bad := [], image := 0, since := [], nums := [] }

/-- The parts of [va, va + n): one per 64 KiB page, ascending (R43). -/
def partsOf (va n : Nat) (rot : Bool) : List Part :=
  (List.range ((va % 65536 + n + 65535) / 65536)).map fun i =>
    let lo := max va (65536 * (va / 65536 + i))
    let hi := min (va + n) (65536 * (va / 65536 + i + 1))
    Part.new lo (hi - lo) (lo - va) rot

/-- The entry of a frame's page list that holds row t of plane q (R194). -/
def pageEntry (q t : Nat) : Nat := 64 * q + t / 256

/-- The parts of a CPYF's rows [first, first + n) of plane q: one per page of the frame, read from the page list at issue
(R50, R194).  A page whose entry cannot be read, or is REBUILDING, makes a part that has ended so. -/
def State.rowParts (s : State) (d x : Nat) (h list : Word) (q first n : Nat) : State × List Part :=
  (List.range ((first % 256 + n + 255) / 256)).foldl (fun (acc : State × List Part) i =>
    let lo := max first (256 * (first / 256 + i))
    let hi := min (first + n) (256 * (first / 256 + i + 1))
    let at_ := list.toNat + 8 * pageEntry q lo
    match acc.1.vaRead (.die d) x at_ 8 .read with
    | (s, .inl f) =>
      (s, acc.2 ++ [{ Part.new at_ (256 * (hi - lo)) (256 * (lo - first)) false with phase := .failed f (w64 at_) }])
    | (s, .inr v) =>
      let p := Part.new (65536 * bits v 16 39 + 256 * (lo % 256)) (256 * (hi - lo)) (256 * (lo - first)) false
      (s, acc.2 ++ [if v % 2 = 1 then { p with phase := .rebuild h (pageEntry q lo) } else p])) (s, [])

/-- A part put among parts in ascending far address (R43). -/
def insPart (p : Part) : List Part → List Part
  | [] => [p]
  | q :: r => if p.va < q.va then p :: q :: r else q :: insPart p r

/-- Parts in ascending far address, as they are sent (R43, R301). -/
def sortParts (l : List Part) : List Part := l.foldl (fun a p => insPart p a) []

/-- The parts of a CPYF's rotation rows: rows pos, pos + 1, … mod 2^24 of the table at ROTBASE (R50). -/
def rotParts (rotbase : Word) (pos n : Nat) : List Part :=
  let base := 256 * wbits rotbase 8 47
  let m := min n (2 ^ 24 - pos)
  partsOf (base + 256 * pos) (256 * m) true ++
    (partsOf base (256 * (n - m)) true).map fun p => { p with off := p.off + 256 * m }

/-- The mesh messages that carry part j of operation i into tiles (R228). -/
def State.post (s : State) (i j x : Nat) (tiles : List Nat) : State :=
  tiles.foldl (fun s k => { s with messages := mput s.messages s.seq { ctx := some x, tile := k, op := i, part := j }
                                   seq := s.seq + 1 }) s

/-! ## Copies (R42, R301, R302) -/

/-- Step 4 of R42 for CPYF: the handle (R22, R192), COMPACTING, the plane, the rows. -/
def Env.frameTrip (e : Env) (x : CopyDesc) : Option Trip :=
  let h := x.w0
  if !handleForm h 4 framePool then some (trip codeStale)
  else
    let f := e.s.frame (hDie h) (hIndex h)
    firstTrip [
      failIf (f.gen != hGen h || wbits (f.word 0) 60 4 == 0) (trip codeStale),
      failIf (wbits (f.word 0) 52 4 != e.run.ctx) (trip codeSecurity),
      failIf (e.s.isSpoiled (hDie h) 4 (hIndex h)) (trip codePoison),
      failIf (wbits (f.word 0) 60 4 == 3) (stack subNotTop),
      failIf (decide (wbits (f.word 1) 48 6 < e.t.fplane.toNat)) (stack subBadSpan),
      failIf (decide (wbits (f.word 2) 24 15 < x.first + x.length / 256)) (stack subBadSpan)]

/-- The members a copy lands in: the issuing tile, or for CPYM those its mask selects. -/
def Env.copyMembers (e : Env) (k : CopyKind) (x : CopyDesc) : List Nat :=
  if k = .cpym then e.run.selected x.memberMask else [e.k]

/-- The checks of a copy after its descriptor has been read: steps 2 to 6 of R42 with those of R49 and R154.  Steps 3 and 6 look at the
issuing tile's ranges also for a CPYM whose mask leaves that tile out (log entry 68). -/
def Env.copyTrip (e : Env) (k : CopyKind) (c : Nat) (x : CopyDesc) : Option Trip :=
  let ranges := (x.field k :: (x.rot k).toList).map (fun f => (f, x.length)) ++ x.counter.toList.map (fun f => (f, 16))
  firstTrip [
    failIf (e.t.cstate c == 1) (trip codeIllegal),
    failIf (x.illegal k || (k == .cpym && (x.memberMask == 0 || e.run.strayBit x.memberMask))) (trip codeIllegal),
    failIf (k == .cpym && e.run.linkMissing e.k (e.copyMembers k x)) (trip codeBookShape),
    if k = .cpyf then e.frameTrip x else none,
    rangeChecks e.t e.run ranges]

/-- An engine operation as its instruction issues it (R138).  A walk's scope is tile: R51's descriptor gives none (log entry 94). -/
def Env.newOp (e : Env) (kind : OpKind) (c : Nat) : Op :=
  { kind := kind, tile := e.k, side := e.σ, run := e.t.run.getD 0, ctx := e.run.ctx, fibre := e.run.fibre, creg := c
    desc := [], issue := e.now, seq := e.s.seq, sbMark := e.t.nextId, length := 0, src := 0, dst := 0, rotDst := none
    counter := none, stream := 0, scope := 0, acquire := false, release := false, members := [e.k], frame := none, plane := 0
    sendAt := e.now + 15, value := 0#64, parts := [], credits := [], landed := 0, cancel := false, spilled := false
    walk := none }

/-- The copy's operation. -/
def Env.copyOp (e : Env) (k : CopyKind) (c : Nat) (x : CopyDesc) : Op :=
  { e.newOp k.op c with
    desc := [x.w0, x.w1, x.w2, x.w3]
    length := x.length
    src := x.w0.toNat
    dst := x.w1.toNat % (if k = .cpyw then 2 ^ 64 else 2 ^ 22)
    rotDst := x.rot k
    counter := x.counter
    plane := if k = .cpyf then e.t.fplane.toNat else 0
    stream := wbits x.w2 32 4
    scope := x.scope
    release := x.w2.getLsbD 39
    members := e.copyMembers k x }

/-- The field ranges of the issuing tile that a copy's in-flight bits cover (R48, R302). -/
def CopyDesc.flight (x : CopyDesc) (k : CopyKind) : List Nat := if k = .cpym then [] else x.field k :: (x.rot k).toList

/-- A part of a CPYW with its source bytes as they stand at the copy's place in the tile's order (R138). -/
def Env.withImage (e : Env) (x : CopyDesc) (p : Part) : Part :=
  { p with image := e.t.fieldRead false e.now (x.field .cpyw + p.off) p.bytes }

/-- The parts of a copy, and what a CPYF took from its frame: handle, position base, first token (R43, R50). -/
def Env.copyParts (e : Env) (k : CopyKind) (x : CopyDesc) : State × List Part × Option (Word × Nat × Nat) :=
  match k with
  | .cpyf =>
    let h := x.w0
    let f := e.s.frame (hDie h) (hIndex h)
    let base := wbits (f.word 2) 0 24
    let n := x.length / 256
    let y := e.s.rowParts (hDie h) e.run.ctx h (f.word 6) e.t.fplane.toNat x.first n
    let rots := if (x.rot k).isSome then rotParts (e.s.ctx e.run.ctx).rotbase ((base + x.first) % 2 ^ 24) n else []
    (y.1.modFrame (hDie h) (hIndex h) fun f => { f with refs := f.refs + 1 }, sortParts (y.2 ++ rots), some (h, base, x.first))
  | .cpyw => (e.s, (partsOf (x.far k) x.length false).map (e.withImage x), none)
  | _ => (e.s, partsOf (x.far k) x.length false, none)

/-- The copy issues: its register is pending, the in-flight bits of its field ranges on the issuing tile are set, and its
operation is forked (R138, R301, R302). -/
def Env.startCopy (e : Env) (k : CopyKind) (c da : Nat) (x : CopyDesc) : Effect :=
  let y := if x.length = 0 then (e.s, [], none) else e.copyParts k x
  let op := { e.copyOp k c x with parts := y.2.1, frame := y.2.2 }
  let s := (y.1.repair e.k da 32).modTile e.k fun t =>
    (x.flight k).foldl (fun t f => t.setFlight op.seq f x.length) ((t.useBanks e.now (banksOf da 32) false).cset c (cval 1 0 0))
  .done { s with ops := mput s.ops op.seq op, seq := s.seq + 1 } none 1 (some (e.now + 14))

/-- A copy with a legal descriptor whose checks fail: until its verdict the in-flight bits of its ranges count as set, as far
as a range lies in the task's leases and scratch (R301). -/
def Env.failCopy (e : Env) (k : CopyKind) (x : CopyDesc) (y : Trip) : Effect :=
  if x.illegal k then .trap y (e.now + 14)
  else
    let fs := (x.flight k).filter fun f => e.t.inRange e.run f x.length
    .trapHeld ({ e.s with seq := e.s.seq + 1 }.modTile e.k fun t => fs.foldl (fun t f => t.setFlight e.s.seq f x.length) t)
      y (e.now + 14) (some e.s.seq)

/-- CPY, CPYW, CPYM, CPYF: the descriptor is read at issue; the verdict falls at issue + 14 (R301). -/
def execCopy (k : CopyKind) (f : Form) (m : Bool) (c : BitVec 3) (a : BitVec 4) (s : State) : Result :=
  issue m (f.verdictAt 14) true (fun _ => [tS a.toNat])
    (fun e =>
      let da := fieldAddr (e.r.sget a.toNat)
      if e.pipeTaken then .wait
      else match firstTrip [portACheck e.t e.run da 32 32, poisonCheck e.t da 32] with
        | some y => .trap y (e.now + 14)
        | none =>
          let v := e.t.fieldRead true e.now da 32
          let x : CopyDesc := { w0 := wordAt v 0, w1 := wordAt v 1, w2 := wordAt v 2, w3 := wordAt v 3 }
          match e.copyTrip k c.toNat x with
          | some y => e.failCopy k x y
          | none => e.startCopy k c.toNat da x) s

def execCpy (m : Bool) (c : BitVec 3) (a : BitVec 4) (s : State) : Result := execCopy .cpy formZ.aOnly m c a s
def execCpyw (m : Bool) (c : BitVec 3) (a : BitVec 4) (s : State) : Result := execCopy .cpyw formZ.aOnly m c a s
def execCpym (m : Bool) (c : BitVec 3) (a : BitVec 4) (s : State) : Result := execCopy .cpym formZ.aOnly m c a s
def execCpyf (m : Bool) (c : BitVec 3) (a : BitVec 4) (s : State) : Result := execCopy .cpyf formZ1.aOnly m c a s

/-! ## Cancellation (R56, R303) -/

/-- The operation of a tile's running task that a completion register waits for (R303). -/
def State.pendingOp (s : State) (k c : Nat) : Option (Nat × Op) :=
  if (s.tile k).cstate c = 1 then
    s.ops.find? fun p => p.2.tile == k && p.2.creg == c && !p.2.spilled && (s.tile k).run == some p.2.run
  else none

/-- An operation whose cancellation has begun: parts not begun are dropped, no other moves on (R56). -/
def Op.cancelled (o : Op) : Op :=
  { o with cancel := true
           parts := o.parts.map fun p => if p.phase = .unsent then { p with phase := .dropped } else p }

def execCpyx (m : Bool) (c : BitVec 3) (s : State) : Result :=
  issue m formZ.aOnly true (fun _ => [])
    (fun e =>
      match e.s.pendingOp e.k c.toNat with
      | some (i, o) => .done { e.s with ops := mput e.s.ops i o.cancelled } none 1 none
      | none => .done e.s none 1 none) s

/-! ## Harrow walks (R51–R54, R306–R308) -/

/-- A walk descriptor's fields (R51) from its eight words. -/
structure WalkDesc where
  w : Vector Word 8
  deriving DecidableEq, Repr

def WalkDesc.word (x : WalkDesc) (i : Nat) : Word := x.w[i]?.getD 0#64
def WalkDesc.base (x : WalkDesc) : Nat := (x.word 0).toNat
def WalkDesc.extent (x : WalkDesc) (d : Nat) : Nat := wbits (x.word 1) (16 * d) 16
def WalkDesc.tile (x : WalkDesc) (d : Nat) : Nat := wbits (x.word 2) (16 * d) 16
def WalkDesc.origin (x : WalkDesc) (d : Nat) : Nat := wbits (x.word 3) (16 * d) 16
/-- Byte stride of dimension d; dimension 0 is dense (R51). -/
def WalkDesc.size (x : WalkDesc) : Nat := 1 <<< wbits (x.word 7) 22 2
def WalkDesc.stride (x : WalkDesc) (d : Nat) : Nat := if d = 0 then x.size else wbits (x.word (3 + d)) 0 48
def WalkDesc.mask (x : WalkDesc) : Nat := wbits (x.word 4) 48 16
def WalkDesc.tiles (x : WalkDesc) : Nat := wbits (x.word 5) 48 16
def WalkDesc.slots (x : WalkDesc) : Nat := wbits (x.word 6) 48 16
def WalkDesc.ring (x : WalkDesc) : Nat := wbits (x.word 7) 0 22
def WalkDesc.back (x : WalkDesc) : Bool := (x.word 7).getLsbD 24
def WalkDesc.slotBytes (x : WalkDesc) : Nat := 256 * wbits (x.word 7) 25 7
def WalkDesc.fill (x : WalkDesc) : Nat := wbits (x.word 7) 32 32
/-- T_d: tiles along a dimension (R51). -/
def WalkDesc.count (x : WalkDesc) (d : Nat) : Nat := (x.extent d + x.tile d - 1) / x.tile d
/-- Elements and bytes of one tile (R51). -/
def WalkDesc.elems (x : WalkDesc) : Nat := x.tile 0 * x.tile 1 * x.tile 2 * x.tile 3
def WalkDesc.tileBytes (x : WalkDesc) : Nat := x.size * x.elems
/-- The field address of a slot. -/
def WalkDesc.slotAt (x : WalkDesc) (slot : Nat) : Nat := x.ring + slot * x.slotBytes

/-- The ILLEGAL checks of R51. -/
def WalkDesc.illegal (x : WalkDesc) : Bool :=
  wbits (x.word 0) 55 9 != 0 || wbits (x.word 7) 22 2 == 3 || x.ring % 256 != 0 || x.slots == 0 ||
  (List.range 4).any (fun d => x.extent d == 0 || x.tile d == 0 || decide (x.count d ≤ x.origin d)) ||
  decide (x.slotBytes < x.tileBytes + 32)

/-- The members of a walk: 0 names the issuing tile only (R51). -/
def Env.walkMembers (e : Env) (x : WalkDesc) : List Nat := if x.mask = 0 then [e.k] else e.run.selected x.mask

/-- The checks of a walk after its descriptor has been read (R42, R49, R51, R154, R306). -/
def Env.walkTrip (e : Env) (c : Nat) (x : WalkDesc) : Option Trip :=
  let n := x.slots * x.slotBytes
  firstTrip [
    failIf (e.t.cstate c == 1) (trip codeIllegal),
    failIf (x.illegal || (x.mask != 0 && e.run.strayBit x.mask)) (trip codeIllegal),
    failIf (e.run.linkMissing e.k (e.walkMembers x)) (trip codeBookShape),
    failIf (!e.t.inLease e.run.fibre x.ring n) (tripAt codeFieldRange x.ring),
    failIf (e.t.inFlight x.ring n) (tripAt codeEarlyTouch x.ring)]

/-- Walks a tile's harrow holds, queued or running (R51). -/
def State.walksOf (s : State) (k : Nat) : List (Nat × Op) :=
  s.ops.filter fun p => p.2.kind == .hwalk && p.2.tile == k && !p.2.spilled

def execHwalk (m : Bool) (c : BitVec 3) (a : BitVec 4) (s : State) : Result :=
  issue m (formZ.aOnly.verdictAt 14) true (fun _ => [tS a.toNat])
    (fun e =>
      let da := fieldAddr (e.r.sget a.toNat)
      if !e.run.mask.getLsbD 6 then .trap (trip codeBookShape) (e.now + 14)
      else if 4 ≤ (e.s.walksOf e.k).length || e.pipeTaken then .wait
      else match firstTrip [portACheck e.t e.run da 64 64, poisonCheck e.t da 64] with
        | some y => .trap y (e.now + 14)
        | none =>
          let v := e.t.fieldRead true e.now da 64
          let x : WalkDesc := { w := Vector.ofFn fun i => wordAt v i.val }
          match e.walkTrip c.toNat x with
          | some y => .trap y (e.now + 14)
          | none =>
            let op := { e.newOp .hwalk c.toNat with
              desc := x.w.toList, length := x.tileBytes * x.tiles, src := x.base, dst := x.ring, members := e.walkMembers x
              walk := some { running := false, next := 0, permits := [], early := [], begun := [], busy := [], left := x.tiles, gens := [] } }
            let s := (e.s.repair e.k da 64).modTile e.k fun t =>
              (t.useBanks e.now (banksOf da 64) false).cset c.toNat (cval 1 0 0)
            .done { s with ops := mput s.ops op.seq op, seq := s.seq + 1 } none 1 (some (e.now + 14))) s

/-- The descriptor of a walk's operation. -/
def Op.walkDesc (o : Op) : WalkDesc := { w := Vector.ofFn fun i => o.desc[i.val]?.getD 0#64 }

/-- A slot of one member, as a walk names it. -/
def slotKey (slot k : Nat) : Nat := slot + 65536 * k

/-- The state of a slot header at field address `f` (R52). -/
def Tile.slotState (t : Tile) (now f : Nat) : Nat := wbits (wordAt (t.fieldRead false now f 16) 1) 17 2

/-- An operation whose tile or counter meets a header or counter granule that cannot be rebuilt fails with kind 3 (R65), at its first
far address (log entry 101): a part of no bytes records it. -/
def State.failHeader (s : State) (i : Nat) : State :=
  match mget s.ops i with
  | none => s
  | some o =>
    let va := (o.parts.head?.map (·.va)).getD o.src
    { s with ops := mput s.ops i { o with parts := o.parts ++ [{ Part.new va 0 0 false with phase := .failed 3 (w64 va) }] } }

/-- A slot header or landing counter at `a` of tile k read and written for operation i (R47, R53): errors of its granule are corrected or
rebuilt first; where they cannot be, nothing is written and the operation fails (R65). -/
def State.onHeader (s : State) (i k a : Nat) (f : Tile → Tile) : State :=
  if (s.tile k).lost (a / 32) then s.failHeader i else (s.repair k a 16).modTile k f

/-- A slot header that starts a tile: its state, and no clipped bytes yet (R52, R53). -/
def Tile.startSlot (t : Tile) (now f state : Nat) : Tile :=
  let v := t.fieldRead false now f 16
  t.atomicWrite now f 16 (bits v 0 81 + state * 2 ^ 81 + bits v 83 13 * 2 ^ 83)

/-- A slot header with its state changed. -/
def Tile.setSlot (t : Tile) (now f state : Nat) : Tile :=
  let v := t.fieldRead false now f 16
  t.atomicWrite now f 16 ((wordAt v 0).toNat + (setBits (wordAt v 1) 17 2 state).toNat * 2 ^ 64)

/-- The generation of a landing counter or slot header (R46). -/
def Tile.counterGen (t : Tile) (now f : Nat) : Nat := wbits (wordAt (t.fieldRead false now f 16) 1) 0 16

/-- The faults of a part: its own, and those of single pages of a walk's tile (R34). -/
def Part.faults (p : Part) : List (Nat × Word) :=
  (match p.phase with | .failed k va => [(k, va)] | _ => []) ++ p.bad.map fun b => (b.2.1, w64 b.2.2)

/-- The fault of an operation with the lowest VA (R34, R45). -/
def Op.lowestFault (o : Op) : Option (Nat × Word) :=
  (o.parts.flatMap (·.faults)).foldl (fun a f =>
    match a with
    | none => some f
    | some y => if f.2.toNat < y.2.toNat then some f else some y) none

/-- A slot of a write-back walk begins to drain: its data granules are in flight, its bytes are those that stand now (R308),
and the tile becomes a part (R53, R307).  A tile starts at its slot's permit, as R53's table has it, also where permits come out of the
order of tile numbers (log entry 91).  Where the slot has no tile left, or a tile of the walk has faulted, the permit is discarded,
which is the model's choice (log entries 72, 73). -/
def State.drainSlot (s : State) (i : Nat) (o : Op) (w : Walk) (k slot : Nat) : State :=
  let x := o.walkDesc
  let key := slotKey slot k
  let n := slot + x.slots * (mget w.begun key).getD 0
  let f := x.slotAt slot
  if x.tiles ≤ n ∨ o.lowestFault.isSome then s
  else if (s.tile k).lost (f / 32) then s.failHeader i
  else
    let s := s.repair k f 16
    let t := s.tile k
    let p := { Part.new x.base x.tileBytes n false with
      phase := .live, accepted := [k], sent := s.cycle, image := t.fieldRead false s.cycle (f + 32) x.tileBytes }
    let w := { w with begun := mput w.begun key ((mget w.begun key).getD 0 + 1), busy := ins w.busy key
                      gens := mput w.gens key (t.counterGen s.cycle f) }
    let s := s.setTile k ((t.startSlot s.cycle f 3).setFlight i (f + 32) x.tileBytes)
    { s with ops := mput s.ops i { o with parts := o.parts ++ [p], walk := some w } }.post i o.parts.length o.ctx [k]

/-- A permit for a slot of a running walk at member k (R53, R307). -/
def State.permit (s : State) (i : Nat) (k slot : Nat) : State :=
  match mget s.ops i with
  | none => s
  | some o =>
    match o.walk with
    | none => s
    | some w =>
      let x := o.walkDesc
      if x.slots ≤ slot then s
      else if (s.tile k).lost (x.slotAt slot / 32) then s.failHeader i
      else
        let st := (s.tile k).slotState s.cycle (x.slotAt slot)
        if x.back then (if st = 0 then s.drainSlot i o w k slot else s)
        else if st = 2 then
          let s := s.onHeader i k (x.slotAt slot) fun t => t.setSlot s.cycle (x.slotAt slot) 0
          { s with ops := mput s.ops i { o with walk := some { w with permits := ins w.permits (slotKey slot k) } } }
        else s

/-- The walk an HPERMIT of tile k names: the running walk with that ring base, else the oldest queued one (R307). -/
def State.walkAt (s : State) (k ring : Nat) : Option (Nat × Op) :=
  let ws := s.ops.filter fun p => p.2.kind == .hwalk && p.2.members.contains k && !p.2.cancel && !p.2.spilled &&
    p.2.walkDesc.ring == ring
  match ws.find? (fun p => p.2.walk.any (·.running)) with
  | some p => some p
  | none => ws.head?

def execHpermit (m : Bool) (d a : BitVec 4) (s : State) : Result :=
  issue m formD2.aOnly true (fun e => [tS (dNum e.pl d), tS (aNum e.pl a)])
    (fun e =>
      let ring := fieldAddr (e.r.sget (dNum e.pl d))
      let slot := (e.r.sget (aNum e.pl a)).toNat
      if !e.run.mask.getLsbD 6 then .trap (trip codeBookShape) e.now
      else match e.s.walkAt e.k ring with
        | none => .done e.s none 1 none
        | some (i, o) =>
          if o.walkDesc.slots ≤ slot then .done e.s none 1 none
          else if o.walk.any (·.running) then .done (e.s.permit i e.k slot) none 1 none
          else
            let w := o.walk.map fun w => { w with early := w.early ++ [slotKey slot e.k] }
            .done { e.s with ops := mput e.s.ops i { o with walk := w } } none 1 none) s

/-! ## Far loads and stores (R310, R311), FENCE (R312) -/

/-- FLD (R310): 8 bytes at s[a] land at s[a + 1]. -/
def execFld (m : Bool) (c : BitVec 3) (a : BitVec 5) (s : State) : Result :=
  issueIf (fun _ => a == 31#5) m { formZ.aOnly with memq := .all } true (fun _ => [tS a.toNat, tS (a.toNat + 1)])
    (fun e =>
      let va := e.r.sget a.toNat
      let f := fieldAddr (e.r.sget (a.toNat + 1))
      match firstTrip [
          failIf (wbits va 0 3 != 0 || f % 8 != 0 || e.t.cstate c.toNat == 1) (trip codeIllegal),
          failIf (!e.t.keyOk) (trip codeSecurity),
          failIf (!e.t.inRange e.run f 8) (tripAt codeFieldRange f),
          failIf (e.t.inFlight f 8) (tripAt codeEarlyTouch f)] with
      | some y => .trap y e.now
      | none =>
        let op := { e.newOp .fld c.toNat with
          length := 8, src := va.toNat, dst := f, stream := memqStream e.pl, scope := memqScope e.pl
          acquire := memqBit e.pl, sendAt := e.now
          parts := [{ Part.new va.toNat 8 0 false with phase := .live, sent := e.now }] }
        let s := e.s.setTile e.k ((e.t.cset c.toNat (cval 1 0 0)).setFlight e.s.seq f 8)
        .done ({ s with ops := mput s.ops op.seq op, seq := s.seq + 1 }.post op.seq 0 e.run.ctx [e.k]) none 1 none) s

/-- FST (R311): the 8 bytes of s[d] to far VA s[a]; the completion register is b, 0 without XREG. -/
def execFst (m : Bool) (d a : BitVec 4) (s : State) : Result :=
  issue m { formD.aOnly with xzero := 0x18, memq := .all } true (fun e => [tS (dNum e.pl d), tS (aNum e.pl a)])
    (fun e =>
      let va := e.r.sget (aNum e.pl a)
      let c := bNum e.pl
      if wbits va 0 3 != 0 || e.t.cstate c == 1 then .trap (trip codeIllegal) e.now
      else
        let op := { e.newOp .fst c with
          length := 8, dst := va.toNat, stream := memqStream e.pl, scope := memqScope e.pl, release := memqBit e.pl
          sendAt := e.now, value := e.r.sget (dNum e.pl d)
          parts := [{ Part.new va.toNat 8 0 false with phase := .live, sent := e.now }] }
        let s := e.s.setTile e.k (e.t.cset c (cval 1 0 0))
        .done { s with ops := mput s.ops op.seq op, seq := s.seq + 1 } none 1 none) s

/-- FENCE (R144, R312): a marker in every far channel of the strand that the mask names; a mask of 0 does nothing. -/
def execFence (m : Bool) (x : BitVec 8) (s : State) : Result :=
  issue m { ximm := 1, memq := .scopeOnly } true (fun _ => [])
    (fun e =>
      let mask := immU e.pl 8 x.toNat
      if mask = 0 then .done e.s none 1 none
      else
        let f := { tile := e.k, side := e.σ, run := e.t.run.getD 0, seq := e.s.seq, mask := BitVec.ofNat 16 mask
                   scope := memqScope e.pl }
        .done { e.s with fences := e.s.fences ++ [f], seq := e.s.seq + 1 } none 1 none) s

end Sys2Proof.Machine
end

