-- ==== Sys2Proof/Machine/Matrix.lean ====
section
/-!
DEFINITION. Sys2Proof/Machine/Matrix.lean: the issue of MX commands and CBLOAD, QROT (R114–R125, R358–R360), and the exact
arithmetic of a chunk (R105–R108), of an MMA and of an attention block (R123, R124).  How a command runs stands in
Machine/Engine.lean.
-/
namespace Sys2Proof.Machine

/-! ## Operand elements (R105, R115) -/

/-- An expanded operand element or product: NaN, an infinity, or ± m · 2^e. -/
inductive Elem where
  | nan
  | inf (neg : Bool)
  | num (neg : Bool) (m : Nat) (e : Int)
  deriving DecidableEq, Repr

/-- A floating-point number expanded (R105). -/
def expandF (F x : Nat) : Elem :=
  if isNan F x then .nan else if isInf F x then .inf (fneg F x) else .num (fneg F x) (fmant F x) (fscale F x)

/-- An integer expanded. -/
def expandI (v : Int) : Elem := .num (decide (v < 0)) v.natAbs 0

/-- An element of a format code (R100, R105). -/
def expand (code : Nat) (cb : Vector (BitVec 256) 4) (x : Nat) : Elem :=
  match code with
  | 1 => expandF bf16 (x % 65536)
  | 2 => expandF fp16 (x % 65536)
  | 3 => expandI (intOf 3 x)
  | 4 => expandI (intOf 4 x)
  | 9 => expandI (intOf 9 x)
  | _ => expandF bf16 (cbEntry (cb[code - 5]?.getD 0#256) x)

/-- Steps a port entry carries (R115). -/
def stepsOf (code : Nat) : Nat := if code ≤ 2 then 1 else if code ≤ 4 then 2 else 4
/-- Width of an element in an entry (R115). -/
def elemBits (code : Nat) : Nat := if code ≤ 2 then 16 else if code ≤ 4 then 8 else 4

/-- Element of row or column `i` at step `st` of an entry (R115). -/
def entryElem (code : Nat) (cb : Vector (BitVec 256) 4) (x : Entry) (i st : Nat) : Elem :=
  expand code cb (bits x.toNat (elemBits code * (i + 32 * st)) (elemBits code))

/-! ## Chunks (R106–R108) -/

/-- A product, scaled by 2^sc; none for 0 · ∞ or a NaN. -/
def Elem.mul (x y : Elem) (sc : Int) : Elem :=
  match x, y with
  | .num n a e, .num k b f => .num (n != k) (a * b) (e + f + sc)
  | .inf n, .inf k => .inf (n != k)
  | .inf n, .num k b _ => if b = 0 then .nan else .inf (n != k)
  | .num n a _, .inf k => if a = 0 then .nan else .inf (n != k)
  | _, _ => .nan

/-- floor(log2 |p|) of a nonzero product. -/
def Elem.top : Elem → Option Int
  | .num _ m e => if m = 0 then none else some (e + (Nat.log2 m : Int))
  | _ => none

/-- floor(p / 2^w) with whether anything was truncated (R107). -/
def Elem.window (w : Int) : Elem → Int × Bool
  | .num n m e =>
    let v : Int := if n then -(m : Int) else (m : Int)
    if w ≤ e then (v * (2 ^ (e - w).toNat : Nat), false)
    else (v / (2 ^ (w - e).toNat : Nat), v % (2 ^ (w - e).toNat : Nat) != 0)
  | _ => (0, false)

/-- Adds a chunk's products to a cell (R107, R108); `bad` when a reserved scale is in use (R98). -/
def chunk (acc : Nat) (ps : List Elem) (bad : Bool) : Nat × FFlags :=
  let pos := ps.any (· == .inf false)
  let neg := ps.any (· == .inf true)
  if bad || ps.any (· == .nan) || (pos && neg) then (nanBits fp32, fInvalid)
  else if pos || neg then fAdd fp32 0 false acc (infBits fp32 neg)
  else
    match ps.filterMap Elem.top with
    | [] => (acc, 0#5)
    | c :: cs =>
      let w := cs.foldl max c - 55
      let qs := ps.map (·.window w)
      let s := qs.foldl (fun a q => a + q.1) (0 : Int)
      let t := roundTo fp32 0 false (decide (s < 0)) s.natAbs w false
      let y := fAdd fp32 0 false acc t.1
      (y.1, t.2 ||| y.2 ||| (if qs.any (·.2) then fInexact else 0#5))

/-- A list cut into pieces of 32, the chunks of R106. -/
def chunks32 (l : List α) : (n : Nat) → List (List α)
  | 0 => []
  | n + 1 => l.take 32 :: chunks32 (l.drop 32) n

/-! ## Accumulators (R11) -/

def accCell (x : Acc) (i j : Nat) : Nat := (x.extractLsb' (32 * (32 * i + j)) 32).toNat
/-- An accumulator from its cells. -/
def accOf (f : Nat → Nat → Nat) : Acc :=
  BitVec.ofNat 32768 ((List.range 1024).foldr (fun c acc => (f (c / 32) (c % 32) % 2 ^ 32) <<< (32 * c) ||| acc) 0)

/-- An accumulator computed cell by cell, with the OR of the flags. -/
def perCell (f : Nat → Nat → Nat × FFlags) : Acc × FFlags :=
  let ys := ((List.range 1024).map fun c => f (c / 32) (c % 32)).toArray
  (accOf fun i j => (ys[32 * i + j]?.getD (0, 0#5)).1, ys.foldl (fun a y => a ||| y.2) 0#5)

/-- What an MMA or MMAS makes of an accumulator (R106–R108, R116): `ea` and `eb` are the entries it popped, with a scale
entry before each chunk's entries when `scaled`. -/
def mmaAcc (scaled : Bool) (k fa fb : Nat) (cb : Vector (BitVec 256) 4) (ea eb : List Entry) (acc : Acc) : Acc × FFlags :=
  let n := (k + 31) / 32
  let perA := 32 / stepsOf fa + b2n scaled
  let perB := 32 / stepsOf fb + b2n scaled
  let ta := ea.toArray
  let tb := eb.toArray
  let elem (t : Array Entry) (code per c i st : Nat) : Elem :=
    entryElem code cb (t[per * c + b2n scaled + st / stepsOf code]?.getD 0#512) i (st % stepsOf code)
  let scale (t : Array Entry) (per c i : Nat) : Nat := bits (t[per * c]?.getD 0#512).toNat (8 * i) 8
  let rows := ((List.range 32).map fun i => ((List.range n).map fun c =>
    (List.range (min 32 (k - 32 * c))).map fun st => elem ta fa perA c i st)).toArray
  let cols := ((List.range 32).map fun j => ((List.range n).map fun c =>
    (List.range (min 32 (k - 32 * c))).map fun st => elem tb fb perB c j st)).toArray
  perCell fun i j =>
    ((rows[i]?.getD []).zip (cols[j]?.getD [])).zipIdx.foldl (fun (y : Nat × FFlags) z =>
      let sa := if scaled then scale ta perA z.2 i else 127
      let sb := if scaled then scale tb perB z.2 j else 127
      let x := chunk y.1 (List.zipWith (fun a b => a.mul b ((sa : Int) + sb - 254)) z.1.1 z.1.2)
        (decide (sa = 255) || decide (sb = 255))
      (x.1, y.2 ||| x.2)) (accCell acc i j, 0#5)

/-- Cycles of a command's busy period (R131). -/
def MxOp.busy : MxOp → Nat
  | .mzero _ => 1
  | .mma scaled _ k fa fb _ =>
    let r := min (stepsOf fa) (stepsOf fb)
    (k + r - 1) / r + (if scaled then (k + 31) / 32 else 0)
  | .mdrain _ _ _ => 16
  | .attn _ _ _ _ => 336
  | .attnfin _ _ => 34

/-- Entries an MMA or MMAS pops from each port in cycle `i` of its busy period (R116). -/
def mmaPops (scaled : Bool) (fa fb i : Nat) : Nat × Nat :=
  let r := min (stepsOf fa) (stepsOf fb)
  let per := 32 / r + b2n scaled
  if scaled && i % per == 0 then (1, 1)
  else
    let st := r * (i % per - b2n scaled)
    (b2n (st % stepsOf fa == 0), b2n (st % stepsOf fb == 0))

/-! ## QROT (R120) -/

/-- One output of a rotation: x · c ± y · s exactly, rounded to FP32 and then to BF16, with the flags (R120). -/
def rotOut (sub : Bool) (x c y s : Nat) : Nat × FFlags :=
  let p := (expandF bf16 x).mul (expandF bf16 c) 0
  let q := (expandF bf16 y).mul (expandF bf16 s) 0
  let flip (n : Bool) : Bool := n != sub
  match p, q with
  | .nan, _ => (nanBits bf16, fInvalid)
  | _, .nan => (nanBits bf16, fInvalid)
  | .inf n, .inf k => if n = flip k then (infBits bf16 n, 0#5) else (nanBits bf16, fInvalid)
  | .inf n, _ => (infBits bf16 n, 0#5)
  | _, .inf k => (infBits bf16 (flip k), 0#5)
  | .num n a e, .num k b f =>
    let z := exactSum n a e (flip k) b f
    let y := if z.2.1 = 0 then (zeroBits fp32 (zeroSign 0 n (flip k)), 0#5) else roundTo fp32 0 false z.1 z.2.1 z.2.2 false
    let w := fConv fp32 bf16 0 false y.1
    (w.1, y.2 ||| w.2)

/-- A packed BF16 row rotated by a rotation row (R120). -/
def rotateRow (x r : Vec) : Vec × FFlags :=
  perLane fun i =>
    let a := laneN x i
    let b := laneN r i
    let y0 := rotOut true (a % 65536) (b % 65536) (a / 65536) (b / 65536)
    let y1 := rotOut false (a / 65536) (b % 65536) (a % 65536) (b / 65536)
    (y0.1 + 65536 * y1.1, y0.2 ||| y1.2)

def execQrot (m : Bool) (d a : BitVec 4) (s : State) : Result :=
  vecIssue m formD3 (fun _ => false) 4 (dNum · d) (fun p => [aNum p a, bNum p]) false (fun _ => false)
    (fun _ vs => rotateRow (vecArg vs 0) (vecArg vs 1)) s

/-! ## Issue of commands (R114, R358, R359) -/

/-- Commands queued or running (R114). -/
def Mx.count (x : Mx) : Nat := x.queue.length + b2n x.run.isSome

/-- A command enters the queue in its issue cycle, or waits while four are queued or running; the results `out` stay
outstanding until the MX writes them (R114, R359). -/
def Env.command (e : Env) (op : MxOp) (out : List ResVal) (t : Tile) : Effect :=
  if 4 ≤ e.t.mx.count then .wait
  else
    let c : MxCmd := { id := e.t.mx.nextId, pc := e.r.runPc, issue := e.now, op := op }
    let t := { t with mx := { t.mx with queue := t.mx.queue ++ [c], nextId := t.mx.nextId + 1 } }
    .done (e.s.setTile e.k (t.modRegs e.σ fun r =>
      { r with out := r.out ++ out.map fun v => { due := none, cmd := c.id, val := v, flags := 0#5 } })) none 1 none

/-- The check of class MX (R154). -/
def Env.needMx (e : Env) (k : Effect) : Effect := if e.run.mask.getLsbD 1 then k else .trap (trip codeBookShape) e.now

def execMzero (m : Bool) (n : BitVec 2) (s : State) : Result :=
  issue m formZ.eOnly false (fun _ => []) (fun e => e.needMx (e.command (.mzero n.toNat) [] e.t)) s

/-- Does MMA, or MMAS, accept an operand format (R105)? -/
def mmaFormat (scaled : Bool) (c : Nat) : Bool :=
  if scaled then c == 1 || c == 3 || (decide (5 ≤ c) && decide (c ≤ 8)) else decide (1 ≤ c) && decide (c ≤ 9)

/-- MMA and MMAS (R116): K = l[k] and the codebooks are read at issue. -/
def execMmaForm (scaled m : Bool) (n : BitVec 2) (k : BitVec 3) (s : State) : Result :=
  issue m { formZ.eOnly with nfmt := .yes } false (fun e => cbTouch (nfmtA e.pl 1) ++ cbTouch (nfmtB e.pl 1))
    (fun e =>
      e.needMx <|
        let fa := nfmtA e.pl 1
        let fb := nfmtB e.pl 1
        let kk := (e.r.lget k.toNat).toNat
        if !mmaFormat scaled fa || !mmaFormat scaled fb || decide (65536 < kk) then .trap (trip codeIllegal) e.now
        else e.command (.mma scaled n.toNat kk fa fb e.t.cb) [] e.t) s

def execMma (m : Bool) (n : BitVec 2) (k : BitVec 3) (s : State) : Result := execMmaForm false m n k s
def execMmas (m : Bool) (n : BitVec 2) (k : BitVec 3) (s : State) : Result := execMmaForm true m n k s

/-- The results an MDRAIN to `d` leaves outstanding: 16 vectors, or 16 pushes (R117, R359). -/
def drainOut (d : Nat) : List ResVal := (List.range 16).map fun i => if d < 28 then .v (d + i) 0#2048 else .none

def execMdrain (m : Bool) (n : BitVec 2) (d : BitVec 5) (s : State) : Result :=
  issueIf (fun _ => decide (13 ≤ d.toNat) && decide (d.toNat ≤ 27) || decide (30 ≤ d.toNat)) m
    { formZ.eOnly with nfmt := .yes } false
    (fun _ => (List.range 16).flatMap fun i => if d.toNat < 28 then tV (d.toNat + i) else [])
    (fun e =>
      e.needMx <|
        if plNfmt e.pl && plNfmtByte e.pl != 0 && plNfmtByte e.pl != 0x10 then .trap (trip codeIllegal) e.now
        else e.command (.mdrain n.toNat (plNfmt e.pl && plNfmtByte e.pl == 0x10) d.toNat) (drainOut d.toNat) e.t) s

/-- CBLOAD (R118): not an MX command; the codebook takes the low halves of lanes 0 to 15, latency 2. -/
def execCbload (m : Bool) (n : BitVec 2) (a : BitVec 5) (s : State) : Result :=
  issue m formZ.eOnly false (fun _ => .cb n.toNat :: tV a.toNat)
    (fun e =>
      match e.t.vread e.now [a.toNat] with
      | none => .wait
      | some (vs, t) =>
        let x := BitVec.ofNat 256 ((List.range 16).foldr (fun c acc => (laneN (vecArg vs 0) c % 65536) <<< (16 * c) ||| acc) 0)
        .done (e.s.setTile e.k ((t.modRegs e.σ (·.post (e.now + 2) (.cb n.toNat x))).checkResult (e.now + 2))) none 1 none) s

/-- The owners of the in-flight bits that a copy of the tile's A-strand which issues in this cycle has set, that of a copy whose checks fail
among them: an ATTN of the same cycle reads before it (R63). -/
def State.copiesNow (s : State) (k : Nat) : List Nat :=
  ((s.ops.filter fun o => o.2.tile == k && o.2.issue == s.cycle).map (·.1)) ++
    (s.tile k).a.verdicts.filterMap fun v => if v.due = s.cycle + 14 then v.owner else none

/-- ATTN (R121, R122): s[x], fd0–fd3 and ASCALE are taken at issue; the checks over the 24 KiB block.  A tile without a key is found between
ILLEGAL and FIELD-RANGE (log entry 93). -/
def execAttn (m : Bool) (n : BitVec 2) (x : BitVec 5) (s : State) : Result :=
  issue m formZ.eOnly false (fun _ => [tS x.toNat, .fd])
    (fun e =>
      e.needMx <|
        let v := e.r.sget x.toNat
        let f := wbits v 0 22
        let trip := firstTrip [
          failIf (wbits v 48 16 != 0 || v.getLsbD 22 || f % 256 != 0) (trip codeIllegal),
          failIf (!e.t.keyOk) (Machine.trip codeSecurity),
          failIf (!e.t.inRange e.run f 24576 || !e.run.groupsBooked f 24576) (tripAt codeFieldRange f),
          failIf (e.t.inFlightBut (e.s.copiesNow e.k) f 24576) (tripAt codeEarlyTouch f)]
        match trip with
        | some y => .trap y e.now
        | none => e.command (.attn n.toNat v e.t.fd (e.t.ascale.setWidth 32)) [] e.t) s

def execAttnfin (m : Bool) (n : BitVec 2) (d : BitVec 5) (s : State) : Result :=
  issueIf (fun _ => decide (30 ≤ d.toNat)) m formZ.eOnly false (fun _ => tV d.toNat)
    (fun e => e.needMx (e.command (.attnfin n.toNat d.toNat) [if d.toNat < 28 then .v d.toNat 0#2048 else .none] e.t)) s

/-! ## What commands compute -/

/-- The 16 vectors of an MDRAIN with their flags (R117). -/
def drainVecs (bf : Bool) (acc : Acc) : List (Vec × FFlags) :=
  (List.range 16).map fun m => perLane fun i =>
    let v := accCell acc (2 * m + i / 32) (i % 32)
    if bf then fConv fp32 bf16 0 false v else (v, 0#5)

/-- Word i of the attention state (R124). -/
def attnWord (x : BitVec 1024) (i : Nat) : Nat := (x.extractLsb' (32 * i) 32).toNat
/-- The attention state from its words. -/
def attnOf (f : Nat → Nat) : BitVec 1024 :=
  BitVec.ofNat 1024 ((List.range 32).foldr (fun i acc => (f i % 2 ^ 32) <<< (32 * i) ||| acc) 0)

/-- ATTNFIN: each row divided by l, and the m and l vector (R125). -/
def attnFinish (acc : Acc) (m l : BitVec 1024) : Acc × FFlags × Vec :=
  let y := perCell fun i j =>
    let li := attnWord l i
    if li = 0 then (0, fInvalid) else fDiv fp32 0 false (accCell acc i j) li
  (y.1, y.2, ofLanes fun i => BitVec.ofNat 32 (if i < 32 then attnWord m i else attnWord l (i - 32)))

/-- The frame tag of an fd register's handle; none where its class is not 4 (R50, R122). -/
def fdTag (x : BitVec 128) : Option Nat :=
  let h := x.setWidth 64
  if hClass h = 4 then some (hDie h * 2 ^ 22 + hIndex h) else none

/-- Is key row (F, P) visible to the query at position `q` (R122)? -/
def keyVisible (fd : Vector (BitVec 128) 4) (ftag ptag q : Nat) : Bool :=
  let at_ (i : Nat) : BitVec 128 := fd[i]?.getD 0#128
  (fdTag (at_ 0) == some ftag && decide (ptag ≤ q)) ||
  [1, 2, 3].any fun i => fdTag (at_ i) == some ftag &&
    decide ((ptag + 2 ^ 24 - bits (at_ i).toNat 64 24) % 2 ^ 24 < bits (at_ i).toNat 88 25)

/-- Element `d` of a packed BF16 row. -/
def packed16 (x : Vec) (d : Nat) : Nat := (x.extractLsb' (16 * d) 16).toNat

/-- Dimension `d` of query `i` in the query buffer (R121). -/
def queryElem (q : Array Entry) (i d : Nat) : Nat :=
  ((q[4 * i + d / 32]?.getD 0#512).extractLsb' (16 * (d % 32)) 16).toNat

/-- A score: 128 steps in four chunks into a cell that starts at +0, then scaled (R123). -/
def score (qs ks : List Elem) (scale : Nat) : Nat × FFlags :=
  let y := (chunks32 (List.zipWith (fun a b => a.mul b 0) qs ks) 4).foldl (fun (y : Nat × FFlags) ps =>
    let z := chunk y.1 ps false
    (z.1, y.2 ||| z.2)) (0, 0#5)
  let z := fMul fp32 0 false y.1 scale
  (z.1, y.2 ||| z.2)

/-- One query's softmax step: the new m, l, the factor and the weights, with flags (R124). -/
def softmaxStep (m l : Nat) (ss : List Nat) : Nat × Nat × Nat × List Nat × FFlags :=
  let mx (a b : Nat × FFlags) : Nat × FFlags := ((fMaxMin fp32 false true a.1 b.1).1, a.2 ||| b.2 ||| (fMaxMin fp32 false true a.1 b.1).2)
  let negInf := infBits fp32 true
  let bm := ss.foldl (fun a s => mx a (s, 0#5)) (negInf, 0#5)
  let mn := mx (m, 0#5) bm
  let w := if mn.1 = negInf then ((0x3F800000, 0#5), ss.map fun _ => (0, (0#5 : FFlags)))
    else
      let e (x : Nat) : Nat × FFlags :=
        let d := fSub fp32 0 false x mn.1
        let y := exp2 false d.1
        (y.1, d.2 ||| y.2)
      (e m, ss.map e)
  let t := treeReduce (fun a b => fAdd fp32 0 false a b) 5 (w.2.map (·.1))
  let l' := fFma fp32 0 false l w.1.1 t.1
  (mn.1, l'.1, w.1.1, w.2.map (·.1), w.2.foldl (fun f p => f ||| p.2) (mn.2 ||| w.1.2 ||| t.2 ||| l'.2))

/-- One ATTN block (R123, R124): the four accumulators a(N), a(N+1), a(N+2), a(N+3) in that order, m, l, with flags. -/
def attnBlock (first : Bool) (base : Nat) (fd : Vector (BitVec 128) 4) (scale : Nat) (q : List Entry) (rows : List AttnRow)
    (acc : List Acc) (m l : BitVec 1024) : List Acc × BitVec 1024 × BitVec 1024 × FFlags :=
  let keys := ((List.range 32).map fun j => rows.find? (·.n == j)).toArray
  let vals := ((List.range 32).map fun j => (List.range 128).map fun d =>
    expandF bf16 (packed16 (((rows.find? (·.n == j + 32)).map (·.data)).getD 0#2048) d)).map (·.toArray) |>.toArray
  let qa := q.toArray
  let queries := ((List.range 32).map fun i => (List.range 128).map fun d => expandF bf16 (queryElem qa i d)).toArray
  let see (i j : Nat) : Bool :=
    match keys[j]?.getD none with
    | some r => keyVisible fd r.ftag r.ptag ((base + i) % 2 ^ 24)
    | none => false
  let rots := ((List.range 32).map fun j =>
    if (List.range 32).any (see · j) then
      match keys[j]?.getD none with
      | some r => rotateRow r.data r.rot
      | none => (0#2048, 0#5)
    else (0#2048, 0#5)).toArray
  let rotK := rots.map fun r => (List.range 128).map fun d => expandF bf16 (packed16 r.1 d)
  let scores := (List.range 32).map fun i => (List.range 32).map fun j =>
    if see i j then score (queries[i]?.getD []) (rotK[j]?.getD []) scale else (infBits fp32 true, 0#5)
  let steps := (scores.zipIdx.map fun s =>
    softmaxStep (if first then infBits fp32 true else attnWord m s.2) (if first then 0 else attnWord l s.2) (s.1.map (·.1))).toArray
  let step (i : Nat) : Nat × Nat × Nat × List Nat × FFlags := steps[i]?.getD (0, 0, 0, [], 0#5)
  let wts := ((List.range 32).map fun i => (step i).2.2.2.1.map fun p => fConv fp32 bf16 0 false p).toArray
  let outs := acc.zipIdx.map fun a => perCell fun i col =>
    let d := 32 * a.2 + col
    let o := if first then (0, 0#5) else fMul fp32 0 false (accCell a.1 i col) (step i).2.2.1
    let ps := (wts[i]?.getD []).zipIdx.map fun w => (expandF bf16 w.1.1).mul ((vals[w.2]?.getD #[])[d]?.getD .nan) 0
    let y := chunk o.1 ps false
    (y.1, o.2 ||| y.2)
  let fl := rots.foldl (fun f r => f ||| r.2) 0#5
  let fl := scores.foldl (fun f r => r.foldl (fun f s => f ||| s.2) f) fl
  let fl := steps.foldl (fun f s => f ||| s.2.2.2.2) fl
  let fl := wts.foldl (fun f w => w.foldl (fun f p => f ||| p.2) f) fl
  let fl := outs.foldl (fun f o => f ||| o.2) fl
  (outs.map (·.1), attnOf fun i => (step i).1, attnOf fun i => (step i).2.1, fl)

end Sys2Proof.Machine
end

