-- ==== Sys2Proof/Machine/Home.lean ====
section
/-!
DEFINITION. Sys2Proof/Machine/Home.lean: the issue of the home-unit instructions (R363–R366, R395, R397) and of the local
instructions beside them: CALQ (R383), BHASH (R206).  What a home unit does with a request stands in Machine/Granary.lean,
Machine/Pools.lean and Machine/Sheaf.lean.
-/
namespace Sys2Proof.Machine

/-! ## Sending a request (R363, R364) -/

/-- Cycles from a request's sending to its performance, its verdict and its result, on the issuing tile's die (R364). -/
abbrev Figures := Nat × Nat × Nat
def granFig : Figures := (4, 8, 14)
/-- FUTR, SALLOC, AWAIT of kinds 3 and 4: the cost equals the latency (R364). -/
def granWait : Figures := (4, 14, 14)
def gredFig : Figures := (4, 8, 24)
def taskFig : Figures := (4, 8, 12)
/-- AWAIT of kinds 1 and 2 (R381). -/
def awaitFig : Figures := (4, 8, 8)
def sheafFig : Figures := (5, 10, 16)
/-- FCOMPACT (R364). -/
def sheafWait : Figures := (5, 16, 16)

/-- Live registers of both strands, as they stand (R183). -/
def Tile.liveCount (t : Tile) : Nat := popcount t.a.regs.live.toNat 32 + popcount t.e.regs.live.toNat 32

/-- The request of the issuing strand to a home unit on die `d`; each boundary adds 20 cycles in each direction (R364). -/
def Env.request (e : Env) (f : Figures) (d : Nat) (rel : Bool) (bad : Option Trip) (op : HomeOp) : HomeReq :=
  let x := 20 * crossings (dieOf e.k) d
  { tile := e.k, side := e.σ, run := e.t.run.getD 0, op := op, issue := e.now, bad := bad, live := e.t.liveCount
    release := rel, reach := f.1 + x, cost := f.2.1 + 2 * x, lat := f.2.2 + 2 * x
    sentAt := if rel && !e.t.sb.isEmpty then none else some e.now, sbMark := e.t.nextId, reply := none }

/-- The request is on its way, and the strand waits for its verdict (R363). -/
def Env.send (e : Env) (s : State) (q : HomeReq) : Effect :=
  .hold ({ s with homes := mput s.homes s.seq q, seq := s.seq + 1 }.modTile e.k fun t =>
    t.setStrand e.σ { t.strand e.σ with home := some s.seq })

/-- A home-unit instruction that reserves nothing. -/
def Env.ask (e : Env) (f : Figures) (d : Nat) (rel : Bool) (bad : Option Trip) (op : HomeOp) : Effect :=
  e.send e.s (e.request f d rel bad op)

/-- Does the run's mask lack a class (R154, R366)? -/
def Env.lacks (e : Env) (bit : Nat) : Option Trip := failIf (!e.run.mask.getLsbD bit) (trip codeBookShape)

/-- GRAN (R154). -/
def Env.noGran (e : Env) : Option Trip := e.lacks 11

/-! ## Forms (R366) -/

def formGatom : Form := { page := 1, xreg := .must, ximm := 1, xneed := 1, izero := 0xF8, memq := .noStream }
def formGran3 : Form := { formD3.page1 with memq := .noStream }
def formGran2 : Form := { formD2.page1 with memq := .noStream }
def formGranA : Form := { formDa.page1 with memq := .noStream }
def formGranX : Form := { formZ1 with memq := .noStream }

/-! ## Granary (R370–R376) -/

def execGatom (m : Bool) (d a : BitVec 4) (s : State) : Result :=
  issue m formGatom true (fun e => [tS (dNum e.pl d), tS (aNum e.pl a), tS (bNum e.pl)])
    (fun e =>
      let h := e.r.sget (aNum e.pl a)
      let fn := wbits (e.s.ctx e.run.ctx).gftab (4 * (plXbits e.pl % 8)) 4
      e.ask granFig (hDie h) (memqBit e.pl)
        (firstTrip [e.noGran, failIf (decide (6 ≤ fn)) (trip codeIllegal)])
        (.gatom fn h (e.r.sget (bNum e.pl)) (dNum e.pl d))) s

def execGcas (m : Bool) (d a : BitVec 4) (s : State) : Result :=
  issue m formGran3 true (fun e => [tS (dNum e.pl d), tS (aNum e.pl a), tS (bNum e.pl)])
    (fun e =>
      let h := e.r.sget (aNum e.pl a)
      e.ask granFig (hDie h) (memqBit e.pl) e.noGran
        (.gcas h (e.r.sget (dNum e.pl d)) (e.r.sget (bNum e.pl)) (dNum e.pl d))) s

def execGred (m : Bool) (d a : BitVec 4) (s : State) : Result :=
  issue m formGran3 true (fun e => [tS (dNum e.pl d), tS (aNum e.pl a), tS (bNum e.pl)])
    (fun e =>
      let h := e.r.sget (aNum e.pl a)
      e.ask gredFig (hDie h) (memqBit e.pl) e.noGran
        (.gred h (e.r.sget (bNum e.pl)) (dNum e.pl d))) s

def execFutw (m : Bool) (d a : BitVec 4) (s : State) : Result :=
  issue m formGran2 true (fun e => [tS (dNum e.pl d), tS (aNum e.pl a)])
    (fun e =>
      let h := e.r.sget (aNum e.pl a)
      e.ask granFig (hDie h) (memqBit e.pl) e.noGran (.futw h (e.r.sget (dNum e.pl d)))) s

/-- A request that holds a reserved continuation record of the tile's die, if one is free (R397). -/
def Env.reserving (e : Env) (k : State → Option Nat → Effect) : Effect :=
  match e.s.reserveCont (dieOf e.k) with
  | some (i, s) => k s (some i)
  | none => k e.s none

def execFutr (m : Bool) (p : BitVec 3) (x : BitVec 5) (s : State) : Result :=
  issue m formGranX true (fun _ => [tS x.toNat, tP p.toNat])
    (fun e =>
      let h := e.r.sget x.toNat
      e.reserving fun s c =>
        e.send s (e.request granWait (hDie h) false e.noGran (.futr h x.toNat p.toNat c))) s

def execSalloc (m : Bool) (p : BitVec 3) (d : BitVec 5) (s : State) : Result :=
  issue m formZ1 true (fun _ => [tS d.toNat, tP p.toNat])
    (fun e =>
      let r := e.r.sget d.toNat
      e.ask granWait (wbits r 24 2) false e.noGran (.salloc r d.toNat p.toNat)) s

def execSfree (m : Bool) (a : BitVec 4) (s : State) : Result :=
  issue m formDa.page1 true (fun e => [tS (aNum e.pl a)])
    (fun e =>
      let h := e.r.sget (aNum e.pl a)
      e.ask granFig (hDie h) false e.noGran (.sfree h)) s

def execGparam (m : Bool) (d i : BitVec 4) (s : State) : Result :=
  issue m formI63.page1 true (fun e => [tS (dNum e.pl d)])
    (fun e => e.ask granFig 0 false e.noGran (.gparam (immU e.pl 4 i.toNat) (dNum e.pl d))) s

def execGpset (m : Bool) (d i : BitVec 4) (s : State) : Result :=
  issue m formI63.page1 true (fun e => [tS (dNum e.pl d)])
    (fun e => e.ask granFig 0 false e.noGran (.gpset (immU e.pl 4 i.toNat) (e.r.sget (dNum e.pl d)))) s

/-! ## AWAIT and task records (R377–R384) -/

/-- Bits of s[X] outside the fields of the wait's kind (R182). -/
def awaitStray (x : Word) : Bool :=
  match wbits x 60 4 with
  | 1 => wbits x 0 8 == 0 || wbits x 8 52 != 0
  | 2 => wbits x 22 10 != 0 || wbits x 48 12 != 0
  | 3 => wbits x 0 60 != 0
  | 4 => wbits x 32 28 != 0
  | _ => true

/-- Is the wait on a Granary cell? -/
def awaitGran (x : Word) : Bool := wbits x 60 4 == 3 || wbits x 60 4 == 4

/-- A gang of more than one tile (R178). -/
def Run.gang (r : Run) : Bool := r.width * r.height != 1

/-- Steps 1 to 3 of R381, as far as the tile decides them. -/
def Env.awaitBad (e : Env) (x : Nat) (v : Word) : Option Trip :=
  firstTrip [
    failIf (awaitStray v || (awaitGran v && x == 31)) (trip codeIllegal),
    if awaitGran v then e.noGran else none,
    failIf e.run.gang (trip codeIllegal)]

/-- Are the continuations of this kind pinned (R183)? -/
def pinsKind (kind : Nat) (t : TaskRec) : Bool := kind == 1 || kind == 2 || t.pinned

/-- Has a tile a unit leased to the fibre (R183)? -/
def Tile.hasLease (t : Tile) (fibre : BitVec 16) : Bool := t.field.lease.any fun p => p.2 == fibre

/-- A second ending of the run (R178). -/
def Run.secondEnding (r : Run) : Option Trip := failIf (r.gang || r.cont.isSome) (trip codeIllegal)

/-- More than 16 registers, or a pin without a lease (R183). -/
def State.recordTrip (s : State) (t : Tile) (r : Run) (live kind cmask : Nat) : Option Trip :=
  failIf (decide (16 < live + popcount cmask 8) || (pinsKind kind (s.task r.die r.idx) && !t.hasLease r.fibre)) (trip codeIllegal)

/-- The registers AWAIT reads: s[X], and s[X + 1] for kinds 3 and 4 (R182). -/
def Env.awaitTouch (e : Env) (x : Nat) : List Touch := if awaitGran (e.r.sget x) then [tS x, tS (x + 1)] else [tS x]

/-- AWAIT (R182, R381, R397): kinds 3 and 4 reserve a record at issue; with none free the checks that the tile decides are made
there, and if they pass the strand falls through and nothing is sent. -/
def execAwait (m : Bool) (p : BitVec 3) (x : BitVec 5) (s : State) : Result :=
  issue m formZ true (fun e => tP p.toNat :: e.awaitTouch x.toNat)
    (fun e =>
      let x0 := e.r.sget x.toNat
      let x1 := e.r.sget (x.toNat + 1)
      let bad := e.awaitBad x.toNat x0
      if awaitGran x0 then
        e.reserving fun s c =>
          let bad := firstTrip [bad, if c = none then e.run.secondEnding else none,
            if c = none then e.s.recordTrip e.t e.run e.t.liveCount (wbits x0 60 4) 0 else none]
          let q := e.request granWait (hDie x1) false bad (.await x0 x1 x.toNat p.toNat c)
          e.send s (if bad = none ∧ c = none then
              { q with reply := some { trap := none, res := [.p p.toNat false], ends := false } }
            else q)
      else e.ask awaitFig (dieOf e.k) false bad (.await x0 x1 x.toNat p.toNat none)) s

def execTclaim (m : Bool) (p : BitVec 3) (d : BitVec 5) (s : State) : Result :=
  issue m formZ1 true (fun _ => [tS d.toNat, tP p.toNat])
    (fun e => e.ask taskFig (dieOf e.k) false none (.tclaim d.toNat p.toNat)) s

def execTpatch (m : Bool) (d a : BitVec 4) (s : State) : Result :=
  issue m formD3.page1 true (fun e => [tS (dNum e.pl d), tS (aNum e.pl a), tS (bNum e.pl)])
    (fun e =>
      let h := e.r.sget (aNum e.pl a)
      e.ask taskFig (hDie h) false none (.tpatch h (e.r.sget (bNum e.pl)) (e.r.sget (dNum e.pl d)))) s

/-- An instruction on the task record that s[a] names (R379, R380). -/
def askTask (m : Bool) (f : Form) (a : BitVec 4) (op : Word → HomeOp) (s : State) : Result :=
  issue m f true (fun e => [tS (aNum e.pl a)])
    (fun e =>
      let h := e.r.sget (aNum e.pl a)
      e.ask taskFig (hDie h) (memqBit e.pl) none (op h)) s

def execTarm (m : Bool) (a : BitVec 4) (s : State) : Result := askTask m formDa.page1 a .tarm s
def execTfree (m : Bool) (a : BitVec 4) (s : State) : Result := askTask m formDa.page1 a .tfree s
def execSignal (m : Bool) (a : BitVec 4) (s : State) : Result := askTask m formGranA a .signal s
def execChain (m : Bool) (a : BitVec 4) (s : State) : Result := askTask m formDa a .chain s

def execBook (m : Bool) (d a : BitVec 4) (s : State) : Result :=
  issue m formD2.page1 true (fun e => [tS (dNum e.pl d), tS (aNum e.pl a)])
    (fun e =>
      let h := e.r.sget (aNum e.pl a)
      e.ask taskFig (hDie h) false none (.book h (dNum e.pl d))) s

/-- Bytes of a trap save that a RETT reads: the strand states and the scalar registers (R215, R218). -/
def saveImageBytes : Nat := 640

/-- RETT (R384): the image is read at issue, and granules that are rebuilt for it are written back (R65). -/
def execRett (m : Bool) (d a : BitVec 4) (s : State) : Result :=
  issue m { formD2.page1 with guard := false } true (fun e => [tS (dNum e.pl d), tS (aNum e.pl a)])
    (fun e =>
      let save := e.r.sget (dNum e.pl d)
      let h := e.r.sget (aNum e.pl a)
      let f := wbits save 0 22
      let image :=
        if save = 0#64 ∨ f % 8192 ≠ 0 then none
        else some (bytesOfNum (e.t.fieldRead (e.σ == .a) e.now f saveImageBytes) saveImageBytes)
      let early := e.t.inFlight f saveImageBytes
      let read := firstTrip [failIf (save != 0#64 && early) (tripAt codeEarlyTouch f),
        if save = 0#64 then none else poisonCheck e.t f saveImageBytes]
      e.send (if image.isSome && !early then e.s.repair e.k f saveImageBytes else e.s)
        (e.request taskFig (hDie h) false (failIf (save != 0#64 && (f % 8192 != 0 || wbits save 22 42 != 0)) (trip codeIllegal))
          (.rett save h image read))) s

/-! ## Frames, beams and prefixes (R385–R388) -/

/-- The home die of the running fibre, and of its frames (R191). -/
def Run.fibreDie (r : Run) : Nat := r.fibre.toNat / 16384

/-- Six registers from s[x] on. -/
def Regs.six (r : Regs) (x : Nat) : Vector Word 6 :=
  #v[r.sget x, r.sget (x + 1), r.sget (x + 2), r.sget (x + 3), r.sget (x + 4), r.sget (x + 5)]

/-- s[x] to s[x + n − 1] as touched registers. -/
def tSs (x n : Nat) : List Touch := (List.range' x n).map tS

/-- The registers FPUSH reads from s[x] on: a span's handle only when its length is nonzero (R198). -/
def Env.pushTouch (e : Env) (x : Nat) : List Touch :=
  let span (i : Nat) : List Touch := if wbits (e.r.sget (x + i + 1)) 16 15 = 0 then [tS (x + i + 1)] else [tS (x + i), tS (x + i + 1)]
  [tS x, tS (x + 1)] ++ span 2 ++ span 4

/-- The top handle of the running fibre (R172). -/
def Env.topHandle (e : Env) : Word := (e.s.fibre e.run.fibre).word 5

def execFpush (m : Bool) (d a : BitVec 4) (s : State) : Result :=
  issue m formD2.page1 true (fun e => .fd :: tS (dNum e.pl d) :: e.pushTouch (aNum e.pl a))
    (fun e =>
      let x := aNum e.pl a
      e.ask sheafFig e.run.fibreDie false (failIf (decide (26 < x)) (trip codeIllegal)) (.fpush (e.r.six x) (dNum e.pl d))) s

def execFret (m : Bool) (d a : BitVec 4) (s : State) : Result :=
  issue m formD2.page1 true (fun e => [.fd, tS (dNum e.pl d), tS (aNum e.pl a)])
    (fun e => e.ask sheafFig e.run.fibreDie false none (.fret (e.r.sget (aNum e.pl a)) (dNum e.pl d))) s

def execFshare (m : Bool) (a : BitVec 4) (s : State) : Result :=
  issue m formDa.page1 true (fun e => [tS (aNum e.pl a)])
    (fun e => e.ask sheafFig (hDie (e.r.sget (aNum e.pl a))) false none (.fshare (e.r.sget (aNum e.pl a)))) s

/-- FDROP: it writes the visibility set where it pops the fibre's top (R199). -/
def execFdrop (m : Bool) (a : BitVec 4) (s : State) : Result :=
  issue m formDa.page1 true (fun e => if e.r.sget (aNum e.pl a) = e.topHandle then [.fd, tS (aNum e.pl a)] else [tS (aNum e.pl a)])
    (fun e => e.ask sheafFig (hDie (e.r.sget (aNum e.pl a))) false none (.fdrop (e.r.sget (aNum e.pl a)))) s

def execFappend (m : Bool) (d a : BitVec 4) (s : State) : Result :=
  issue m formD2.page1 true (fun e => [tS (dNum e.pl d), tS (aNum e.pl a)])
    (fun e => e.ask sheafFig e.run.fibreDie false none (.fappend (e.r.sget (aNum e.pl a)) (dNum e.pl d))) s

/-- FCOMPACT (R202, R385): an AWAIT-class ending, which reserves its continuation at issue as R397 does. -/
def execFcompact (m : Bool) (p : BitVec 3) (a : BitVec 5) (s : State) : Result :=
  issue m { page := 1, xreg := .must, xzero := 0x60 } true (fun e => [tP p.toNat, tS a.toNat, tS (bNum e.pl)])
    (fun e =>
      let h := e.r.sget a.toNat
      e.reserving fun s c =>
        e.send s (e.request sheafWait (hDie h) false none
          (.fcompact h (e.r.sget (bNum e.pl)) p.toNat c))) s

/-- FINFO: its visibility form rewrites the visibility set (R199, R386). -/
def execFinfo (m : Bool) (d a : BitVec 4) (s : State) : Result :=
  issue m formD3.page1 true (fun e => [tS (dNum e.pl d), tS (aNum e.pl a), tS (bNum e.pl)] ++
      (if wbits (e.r.sget (bNum e.pl)) 0 4 = 8 then [.fd] else []))
    (fun e =>
      let h := e.r.sget (aNum e.pl a)
      let sel := e.r.sget (bNum e.pl)
      let die := if wbits sel 0 4 = 8 ∨ wbits sel 0 4 = 10 then e.run.fibreDie else hDie h
      e.ask sheafFig die false none (.finfo h sel (dNum e.pl d))) s

/-- The registers BEAMMAP reads from s[x] on, by its form (R204). -/
def beamRegs (v : Word) : Nat := if v.getLsbD 15 then 2 else 9

def execBeammap (m : Bool) (a : BitVec 4) (s : State) : Result :=
  issue m formDa.page1 true (fun e => tSs (aNum e.pl a) (beamRegs (e.r.sget (aNum e.pl a))))
    (fun e =>
      let x := aNum e.pl a
      let n := beamRegs (e.r.sget x)
      e.ask sheafFig (dieOf e.k) false (failIf (decide (32 < x + n)) (trip codeIllegal))
        (.beammap ((List.range n).map fun i => e.r.sget (x + i)))) s

def execPfxlook (m : Bool) (a : BitVec 4) (s : State) : Result :=
  issue m formDa.page1 true (fun e => tSs (aNum e.pl a) 3)
    (fun e =>
      let x := aNum e.pl a
      e.ask sheafFig 0 false (failIf (decide (29 < x)) (trip codeIllegal))
        (.pfxlook (e.r.sget x) (e.r.sget (x + 1)) (e.r.sget (x + 2)))) s

/-- PFXPUT: a clear reads neither s[B + 1] nor s[B + 2] (R208). -/
def execPfxput (m : Bool) (d a : BitVec 4) (s : State) : Result :=
  issue m formD2.page1 true (fun e => tS (dNum e.pl d) :: tSs (aNum e.pl a) (if e.r.sget (aNum e.pl a) = 0#64 then 1 else 3))
    (fun e =>
      let x := aNum e.pl a
      e.ask sheafFig 0 false (failIf (decide (29 < x)) (trip codeIllegal))
        (.pfxput (e.r.sget (dNum e.pl d)) (e.r.sget x) (e.r.sget (x + 1)) (e.r.sget (x + 2)))) s

def execPfxpin (m : Bool) (d a : BitVec 4) (s : State) : Result :=
  issue m formD2.page1 true (fun e => [tS (dNum e.pl d), tS (aNum e.pl a)])
    (fun e => e.ask sheafFig 0 false none (.pfxpin (e.r.sget (aNum e.pl a)) (dNum e.pl d))) s

def execPfxunpin (m : Bool) (a : BitVec 4) (s : State) : Result :=
  issue m formDa.page1 true (fun e => [tS (aNum e.pl a)])
    (fun e => e.ask sheafFig 0 false none (.pfxunpin (e.r.sget (aNum e.pl a)))) s

/-! ## Local instructions (R206, R383) -/

/-- One step of the chain hash (R206). -/
def hashStep (h : Word) (token : Nat) : Word := (h ^^^ w64 token) * 0x00000100000001B3#64

/-- The chain hash of a block from its eight words, token 2i low and 2i + 1 high (R206). -/
def hashBlock (h : Word) (x : Nat → Word) : Word :=
  (List.range 8).foldl (fun h i => hashStep (hashStep h (wbits (x i) 0 32)) (wbits (x i) 32 32)) h

def execBhash (m : Bool) (d a : BitVec 4) (s : State) : Result :=
  issue m formD3.page1 false
    (fun e => [tS (dNum e.pl d), tS (aNum e.pl a)] ++ (if bNum e.pl ≤ 24 then tSs (bNum e.pl) 8 else []))
    (fun e =>
      let b := bNum e.pl
      if 24 < b then .trap (trip codeIllegal) e.now
      else e.later 4 (.s (dNum e.pl d) (hashBlock (e.r.sget (aNum e.pl a)) fun i => e.r.sget (b + i)))) s

/-- The members' tiles of a booking. -/
def Booking.members (b : Booking) : List Nat := rect b.origin b.width b.height

/-- Bookings that hold furrow g on tile k. -/
def State.bookedAt (s : State) (k g : Nat) : List Booking :=
  s.bookings.filter fun b => b.members.contains k && decide (b.start ≤ g) && decide (g < b.stop)

/-- Bookings that hold the standby bank of tile k in furrow g (R158). -/
def State.standbyAt (s : State) (k g : Nat) : List Booking :=
  s.bookings.filter fun b => b.members.contains k && decide (b.start ≤ g + b.lead) && decide (g < b.start)

/-- A tile's slice of the Almanac in one furrow, as CALQ reads it (R383). -/
def State.slice (s : State) (k g : Nat) (r : Run) : Word :=
  let bs := s.bookedAt k g
  let cls := bs.foldl (fun m b => m ||| b.mask.toNat % 8192) 0
  let chans := bs.foldl (fun m b => m ||| (match b.chan with | some c => 1 <<< c | none => 0)) 0
  w64 (cls ||| (chans <<< 16) ||| (b2n (!(s.standbyAt k g).isEmpty) <<< 32) |||
    (b2n (bs.any fun b => b.die == r.die && b.idx == r.idx) <<< 33))

/-- A word with bit u set for each unit that satisfies `f`. -/
def unitMask (f : Nat → Bool) : Word := w64 ((List.range 64).foldl (fun m u => m ||| (b2n (f u) <<< u)) 0)

def execCalq (m : Bool) (d a : BitVec 4) (s : State) : Result :=
  issue m formD2.page1 false (fun e => [tS (dNum e.pl d), tS (aNum e.pl a)])
    (fun e =>
      let x := e.r.sget (aNum e.pl a)
      let k := wbits x 0 4
      if 4 ≤ k ∨ wbits x 16 48 ≠ 0 ∨ (k ≠ 0 ∧ wbits x 4 12 ≠ 0) then .trap (trip codeIllegal) e.now
      else
        let v := match k with
          | 0 => e.s.slice e.k (e.s.furrow + wbits x 4 12) e.run
          | 1 => unitMask fun u => e.t.leased e.run.fibre u
          | 2 => unitMask fun u => e.s.unitFree e.k u
          | _ => unitMask fun u => e.run.scratchUnit u
        e.later 8 (.s (dNum e.pl d) v)) s

end Sys2Proof.Machine
end

