-- ==== Sys2Proof/Machine/Pools.lean ====
section
/-!
DEFINITION. Sys2Proof/Machine/Pools.lean: task records (R174–R180, R377–R384) and continuation records (R181–R184) as their
pools perform requests on them, in a single order, each at once (R175).
-/
namespace Sys2Proof.Machine

/-- What the performance of a request makes of the state, with its reply. -/
abbrev Answer := State × HomeReply

/-- A failing request has no effect at the home unit (R365). -/
def refuse (s : State) (t : Trip) : Answer := (s, { trap := some t, res := [], ends := false })
/-- A request that succeeds with results. -/
def answer (s : State) (res : List ResVal) : Answer := (s, { trap := none, res := res, ends := false })
/-- A request that ends its strand (R178). -/
def answerEnd (s : State) (res : List ResVal) : Answer := (s, { trap := none, res := res, ends := true })

/-- The run that issued a request. -/
def State.runOfReq (s : State) (q : HomeReq) : Option Run := s.run q.run
/-- Its context, and its fibre. -/
def State.ctxOf (s : State) (q : HomeReq) : Nat := ((s.run q.run).map (·.ctx)).getD 0
def State.fibreOf (s : State) (q : HomeReq) : BitVec 16 := ((s.run q.run).map (·.fibre)).getD 0#16

/-! ## Checks (R22, R175) -/

/-- STALE-HANDLE, SECURITY, then POISON, of a task handle in a context (R365 steps 4 to 6). -/
def State.taskTrip (s : State) (x : Nat) (h : Word) : Option Trip :=
  firstTrip [failIf (!s.taskOk h) (trip codeStale), failIf ((s.task (hDie h) (hIndex h)).ctx != x) (trip codeSecurity),
    failIf (s.isSpoiled (hDie h) 1 (hIndex h)) (trip codePoison)]

/-- The record of a checked handle. -/
def State.taskAt (s : State) (h : Word) : TaskRec := s.task (hDie h) (hIndex h)
/-- The record of a checked handle replaced. -/
def State.putTaskAt (s : State) (h : Word) (x : TaskRec) : State := s.setTask (hDie h) (hIndex h) x

/-! ## Booking shape (R37, R155) -/

/-- Does the context own the tile (R227)? -/
def State.owns (s : State) (x k : Nat) : Bool := (s.tile k).owner == some (BitVec.ofNat 4 x)

/-- Does a rectangle lie wholly within a die and the context's tiles? -/
def State.rectOwned (s : State) (x o w h : Nat) : Bool :=
  decide (colOf o + w ≤ 16) && decide (rowOf o + h ≤ 16) && (rect o w h).all (s.owns x)

/-- Is the code range of a record bad (R37, R155)?  A code offset beyond the A entry PC, which R155's list does not name, counts as
bad, which is the model's choice (log entry 85). -/
def TaskRec.codeBad (t : TaskRec) : Bool :=
  let base := t.codeBase
  let e := (t.word 3).toNat
  let off := wbits (t.word 4) 0 16
  t.codeLen % 2 != 0 || decide (t.codeLen < 2) || decide (65536 < t.codeLen) || off % 2 != 0 ||
  (t.word 2).getLsbD 0 || (t.word 3).getLsbD 0 || decide (t.codeLen ≤ off) || decide ((t.word 2).toNat < off) ||
  decide (e < base) || decide (base + t.codeLen ≤ e)

/-- Is the booking shape bad (R155)?  `d` is the record's home die. -/
def State.shapeBad (s : State) (d : Nat) (t : TaskRec) : Bool :=
  !t.mask.getLsbD 0 || bits t.mask.toNat 13 3 != 0 || t.duration == 0 ||
  t.width == 0 || decide (8 < t.width) || t.height == 0 || decide (8 < t.height) ||
  (if t.any then !((List.range 256).any fun i => s.rectOwned t.ctx (256 * d + i) t.width t.height)
   else !s.rectOwned t.ctx t.origin t.width t.height) ||
  t.codeBad

/-! ## Arming (R161, R176, R177) -/

/-- A record becomes READY in the current furrow and is staged (R157, R161). -/
def State.makeReady (s : State) (d i : Nat) (t : TaskRec) : State :=
  { (s.setTask d i { t.setState 3 with ready := s.furrow }) with todo := s.todo ++ [.ev (.codeStaging d i)] }

/-- The dependence counter raised by an arm count, and READY or ARMED by it (R177). -/
def State.armWith (s : State) (d i : Nat) (n : Int) : State :=
  let t := s.task d i
  let c := min (t.counter + n) (2 ^ 31 - 1)
  let t := t.setCounter c
  if c ≤ 0 then s.makeReady d i t else s.setTask d i (t.setState 2)

/-- TARM's checks after the handle's (R155, R176): a CLAIMED record without a continuation, of a good shape. -/
def State.armTrip (s : State) (h : Word) : Option Trip :=
  let t := s.taskAt h
  firstTrip [failIf (t.state != 1 || t.word 7 != 0#64) (trip codeIllegal), failIf (s.shapeBad (hDie h) t) (trip codeBookShape)]

/-- TARM of a handle in a context: the failure, or the record armed (R177). -/
def State.arm (s : State) (x : Nat) (h : Word) : State × Option Trip :=
  match firstTrip [s.taskTrip x h, s.armTrip h] with
  | some t => (s, some t)
  | none => (s.armWith (hDie h) (hIndex h) (wbits ((s.taskAt h).word 0) 0 16), none)

/-- SIGNAL of a handle in a context: the failure, or the counter lowered by one (R177). -/
def State.signal (s : State) (x : Nat) (h : Word) : State × Option Trip :=
  match firstTrip [s.taskTrip x h, failIf (decide ((s.taskAt h).state < 1) || decide (6 < (s.taskAt h).state)) (trip codeIllegal)] with
  | some t => (s, some t)
  | none =>
    let t := s.taskAt h
    let c := max (t.counter - 1) (-(2 ^ 31))
    let t := t.setCounter c
    if t.state = 2 ∧ c ≤ 0 then (s.makeReady (hDie h) (hIndex h) t, none) else (s.putTaskAt h t, none)

/-- The answer to a request that only succeeds or fails. -/
def plainAnswer (x : State × Option Trip) : Answer :=
  match x.2 with
  | some t => refuse x.1 t
  | none => answer x.1 []

/-! ## Task-record instructions (R377–R382) -/

/-- TCLAIM (R377): the lowest FREE record; every word 0 but the context and the fibre's queue. -/
def State.performTclaim (s : State) (q : HomeReq) (d pf : Nat) : Answer :=
  let die := dieOf q.tile
  if s.fibreSpoiled (s.fibreOf q) then refuse s (trip codePoison)
  else match lowestFree (s.die die).tasks (fun t => t.state == 0) taskPool with
  | none => answer s [.s d 0#64, .p pf false]
  | some i =>
    let queue := wbits ((s.fibre (s.fibreOf q)).word 0) 44 4
    let t : TaskRec := { TaskRec.reset with gen := (s.task die i).gen + 1#16 }
    let t := (t.setWord 0 (w64 (2 ^ 60 + queue * 2 ^ 54))).setWord 1 (w64 (s.ctxOf q * 2 ^ 16))
    let s := (s.renew die 1 i).setTask die i t
    answer s [.s d (s.taskHandle die i), .p pf true]

/-- Bits of a value that TPATCH refuses in word k (R378); words 5 and 7 are refused whatever the value. -/
def patchStray (k : Nat) (v : Word) : Bool :=
  match k with
  | 0 => wbits v 60 4 != 0
  | 1 => wbits v 16 48 != 0
  | 2 => wbits v 55 9 != 0
  | 3 => wbits v 55 9 != 0
  | 4 => wbits v 62 2 != 0
  | 5 => true
  | 7 => true
  | _ => false

/-- TPATCH's checks of word 4 (R176): scratch within 64 units, a fibre active in the context. -/
def State.patchBad (s : State) (x k : Nat) (v : Word) : Bool :=
  k == 4 && (decide (64 < wbits v 49 6 + wbits v 55 7) || !s.fibreActive (v.extractLsb' 33 16) x)

/-- Word k of a record after a patch: the state of w0 and the other fields of w1 stay (R378). -/
def TaskRec.patch (t : TaskRec) (k : Nat) (v : Word) : TaskRec :=
  match k with
  | 0 => t.setWord 0 (setBits v 60 4 t.state)
  | 1 => t.setWord 1 (setBits (t.word 1) 0 16 v.toNat)
  | _ => t.setWord k v

def State.performTpatch (s : State) (q : HomeReq) (h k v : Word) : Answer :=
  let i := k.toNat
  match firstTrip [
      failIf (decide (15 < i) || patchStray i v) (trip codeIllegal),
      s.taskTrip (s.ctxOf q) h,
      failIf ((s.taskAt h).state != 1 || s.patchBad (s.ctxOf q) i v) (trip codeIllegal)] with
  | some t => refuse s t
  | none => answer (s.putTaskAt h ((s.taskAt h).patch i v)) []

def State.performTfree (s : State) (q : HomeReq) (h : Word) : Answer :=
  match firstTrip [s.taskTrip (s.ctxOf q) h, failIf ((s.taskAt h).state != 1 || (s.taskAt h).word 7 != 0#64) (trip codeIllegal)] with
  | some t => refuse s t
  | none => answer (s.freeTask (hDie h) (hIndex h)) []

/-- A CHAIN that a run has recorded is no longer in flight (R176). -/
def State.dropChain (s : State) (r : Run) : State :=
  match r.chain with
  | some h => s.dropTaskRef h
  | none => s

/-- CHAIN (R179, R380): the handle is validated and recorded, and counts as a reference until the run ends (R176); a later one
replaces it. -/
def State.performChain (s : State) (q : HomeReq) (h : Word) : Answer :=
  match s.taskTrip (s.ctxOf q) h with
  | some t => refuse s t
  | none =>
    let s := match s.run q.run with
      | some r => s.dropChain r
      | none => s
    answer ((s.addTaskRef h).modRun q.run fun r => { r with chain := some h }) []

/-- BOOK's result (R382). -/
def TaskRec.bookWord (t : TaskRec) : Word :=
  let w5 := t.word 5
  w64 (t.state * 2 ^ 60 + (w5.toNat / 2 ^ 32 + 2 ^ 32 - wbits w5 0 32) % 2 ^ 13 * 2 ^ 32 + wbits w5 0 32)

def State.performBook (s : State) (q : HomeReq) (h : Word) (d : Nat) : Answer :=
  match s.taskTrip (s.ctxOf q) h with
  | some t => refuse s t
  | none => answer s [.s d (s.taskAt h).bookWord]

/-! ## Continuations (R181–R183) -/

/-- Marks the wait of a WAITING continuation met, with a change of its record (R184–R186). -/
def State.meet (s : State) (h : Word) (f : ContRec → ContRec) : State :=
  if s.contOk h && (s.cont (hDie h) (hIndex h)).state == 1 && !(s.cont (hDie h) (hIndex h)).met then
    s.modCont (hDie h) (hIndex h) fun c => { f c with met := true }
  else s

/-- A waiter resumes TRAPPED with a code (R185, R202, R371). -/
def State.meetTrap (s : State) (h : Word) (code sub : BitVec 8) : State :=
  s.meet h fun c => { c with trap := some (code, sub) }

/-- The checks of an AWAIT-class ending at its unit: a second ending of the run (R178), more than 16 registers or a pin
without a lease (R183). -/
def State.endingTrip (s : State) (q : HomeReq) (kind cmask : Nat) : Option Trip :=
  match s.run q.run with
  | none => some (trip codeIllegal)
  | some r => firstTrip [r.secondEnding, s.recordTrip (s.tile q.tile) r q.live kind cmask]

/-- The residue check of a strand that ends where its partner has ended (R76). -/
def State.residueTrip (s : State) (q : HomeReq) : Option Trip :=
  failIf (s.sideEnded q.tile (sideOther q.side) && (s.tile q.tile).hasResidue) (trip codeResidue)

/-- Writes the continuation of an AWAIT-class ending into a claimed slot: kind, mask, wait value and object (R183); the
record it names gains a reference (R176), and the run has its one ending (R178). -/
def State.fillCont (s : State) (q : HomeReq) (d i kind cmask wait : Nat) (object : Word) : State :=
  match s.run q.run with
  | none => s
  | some r =>
    let w0 := 2 ^ 60 + kind * 2 ^ 56 + cmask * 2 ^ 48 + b2n (pinsKind kind (s.task r.die r.idx)) * 2 ^ 47 +
      q.tile % 1024 * 2 ^ 37 + wait % 2 ^ 32
    let s := s.modCont d i fun c => ((c.setWord 0 (w64 w0)).setWord 1 r.handle).setWord 5 object
    let s := s.addTaskRef r.handle
    s.modRun q.run fun r => { r with cont := some (d, i), awaitSide := some q.side }

/-- Claims a continuation for an ending, from the reservation or from the pool (R181, R397), and fills it; none when the
pool is empty. -/
def State.claimEnding (s : State) (q : HomeReq) (slot : Option Nat) (kind cmask wait : Nat) (object : Word) :
    Option (Word × State) :=
  let d := dieOf q.tile
  let x := match slot with
    | some i => some (i, s.claimSlot d i)
    | none => s.claimCont d
  match x with
  | none => none
  | some (i, s) => some (s.contHandle d i, s.fillCont q d i kind cmask wait object)

/-- AWAIT of kind 1 or 2 (R182, R381): with no record free the strand falls through, and only a strand that ends has its queues checked
(R76).  The landing counter is read here: a granule of it that cannot be rebuilt raises POISON, and one that can is (R65). -/
def State.performAwaitTile (s : State) (q : HomeReq) (x0 : Word) (pf : Nat) : Answer :=
  let kind := wbits x0 60 4
  let cmask := if kind = 1 then wbits x0 0 8 else 0
  let a := wbits x0 0 22
  let g := wbits x0 32 16
  let t := s.tile q.tile
  match firstTrip [
      (s.run q.run).bind Run.secondEnding,
      failIf (kind == 2 && a % 16 != 0) (trip codeIllegal),
      failIf (kind == 2 && !t.inLease (s.fibreOf q) a 16) (tripAt codeFieldRange a),
      if kind = 2 then poisonCheck t a 16 else none,
      s.endingTrip q kind cmask] with
  | some x => refuse s x
  | none =>
    let s := if kind = 2 then s.repair q.tile a 16 else s
    match s.claimEnding q none kind cmask (if kind = 2 then g else 0)
        (if kind = 2 then w64 (q.tile * 2 ^ 32 + a) else 0#64), s.residueTrip q with
    | none, _ => answer s [.p pf false]
    | some _, some x => refuse s x
    | some (h, s), none =>
      let s := if kind = 2 ∧ t.counterGen s.cycle a = g then s.meet h id else s
      answerEnd s [.p pf true]

/-! ## RETT (R218, R384) -/

/-- The context of a continuation: its task's, or that of the fibre whose LANDING-OVERFLOW it is (R219). -/
def State.contCtx (s : State) (c : ContRec) : Option Nat :=
  if c.word 1 = 0#64 then c.ctx else some (s.taskAt (c.word 1)).ctx

/-- A double of a save image. -/
def imageWord (img : List Byte) (a : Nat) : Word := w64 (numOfBytes ((img.drop a).take 8))

/-- Is a strand state of the image refused (R384)? -/
def imageBad (img : List Byte) : Bool :=
  [0x40, 0x60].any fun a =>
    (imageWord img a).getLsbD 0 || wbits (imageWord img a) 55 9 != 0 || wbits (imageWord img (a + 8)) 10 6 != 0

/-- RETT (R384): the return is recorded, and counts as a reference on the continuation until the run ends (R22). -/
def State.performRett (s : State) (q : HomeReq) (save h : Word) (image : Option (List Byte)) (read : Option Trip) : Answer :=
  let c := s.cont (hDie h) (hIndex h)
  let t := s.tile q.tile
  let f := wbits save 0 22
  match firstTrip [
      failIf (!s.contOk h) (trip codeStale),
      failIf (s.contCtx c != some (s.ctxOf q)) (trip codeSecurity),
      failIf (s.isSpoiled (hDie h) 2 (hIndex h)) (trip codePoison),
      failIf (c.state != 3 || wbits (c.word 0) 0 8 == 0) (trip codeIllegal),
      failIf (((s.run q.run).map fun r => !r.retts.isEmpty).getD false) (trip codeIllegal),
      failIf (save != 0#64 && !t.inLease (s.fibreOf q) f 8192) (tripAt codeFieldRange f),
      read,
      failIf (image.any imageBad) (trip codeIllegal),
      failIf (s.sideEnded q.tile (sideOther q.side) && t.hasResidue) (trip codeResidue)] with
  | some x => refuse s x
  | none => answerEnd ((s.addContRef h).modRun q.run fun r => { r with retts := [(h, image)] }) []

end Sys2Proof.Machine
end

