-- ==== Sys2Proof/Machine/Granary.lean ====
section
/-!
DEFINITION. Sys2Proof/Machine/Granary.lean: a die's Granary performing requests in its single order (R148, R185–R189,
R370–R376): cells, futures, counters, reductions and the gp registers, with their waiters.
-/
namespace Sys2Proof.Machine

/-- The cell of a checked handle. -/
def State.cellAt (s : State) (h : Word) : Cell := s.cell (hDie h) (hIndex h)
def State.putCellAt (s : State) (h : Word) (c : Cell) : State := s.setCell (hDie h) (hIndex h) c

/-- Steps 4 to 6 of R365 for a cell handle, then the kind an instruction needs (R370): STALE-HANDLE, SECURITY, POISON of the
cell itself (R267), ILLEGAL. -/
def State.cellTrip (s : State) (x : Nat) (h : Word) (kinds : List CellKind) : Option Trip :=
  let c := s.cellAt h
  firstTrip [
    failIf (!s.cellOk h) (trip codeStale),
    failIf (c.ctx != x) (trip codeSecurity),
    failIf c.poison (trip codePoison),
    failIf (!kinds.contains c.kind) (trip codeIllegal)]

/-! ## Waiters (R185, R186) -/

/-- The value a waiter compares with its target: word0 as int64, or a header's arrivals (R186). -/
def Cell.value (c : Cell) : Int := if c.kind = .header then (wbits c.w0 32 32 : Int) else c.w0.toInt

/-- A kind-4 waiter's target: [31:0] of its wait value, sign-extended (R182). -/
def State.target (s : State) (h : Word) : Int := ((s.cont (hDie h) (hIndex h)).word 0 |>.extractLsb' 0 32).toInt

/-- A cell's waiter list replaced; word1 of a plain cell holds its head (R186). -/
def Cell.setWaiters (c : Cell) (l : List Word) : Cell :=
  { c with waiters := l, w1 := if c.kind = .plain then l.headD 0#64 else c.w1 }

/-- A cell updated: every waiter whose target is met is unlinked and its wait is met (R186). -/
def State.updateCell (s : State) (h : Word) (c : Cell) : State :=
  let met := c.waiters.filter fun w => decide (s.target w ≤ c.value)
  let c := if met.isEmpty then c else c.setWaiters (c.waiters.filter fun w => !decide (s.target w ≤ c.value))
  met.foldl (fun s w => s.meet w id) (s.putCellAt h c)

/-- The states of a future (R185). -/
def Cell.futureState (c : Cell) : Nat := wbits c.w1 0 2
def futureFull : Nat := 1
def futurePoison : Nat := 2

/-- The waiters of an EMPTY future from its head on, by the links in w5 (R185). -/
def State.futureList (s : State) (h : Word) : (fuel : Nat) → List Word
  | 0 => []
  | n + 1 => if h = 0#64 || !s.contOk h then [] else h :: s.futureList ((s.cont (hDie h) (hIndex h)).word 5) n

/-- No waiting list is longer than the continuation pools. -/
def waitFuel (s : State) : Nat := ((List.range 4).map fun d => (s.die d).conts.length).foldl (· + ·) 0

/-- FUTURE_WAITER_WALK (R185, R374): each waiter's w5 takes the value, and its wait is met; after POISON it resumes
TRAPPED. -/
def State.walkWaiters (s : State) (w : WaitWalk) : State :=
  (s.futureList w.head (waitFuel s)).foldl
    (fun s h => if w.poison then s.meetTrap h codePoison 0#8 else s.meet h fun c => c.setWord 5 w.value) s

/-- The walk of a waiting list, owed by the module in this cycle (R364). -/
def State.oweWalk (s : State) (w : WaitWalk) : State :=
  { s with walks := mput s.walks s.seq w, seq := s.seq + 1 }

/-- The KV rebuilds that wait for a future, done at once as it becomes FULL (R209). -/
def State.rebuildsOn (s : State) (h : Word) : List Turn := (s.rebuilds.filter fun j => j.2.fut == h).map fun j => .ev (.kvRebuildDone j.1)

/-- The write of an EMPTY future (R185): the value, FULL, what waits for it to be FULL, and its waiters walked after it. -/
def State.writeFuture (s : State) (h v : Word) : State :=
  let c := s.cellAt h
  let s := (s.putCellAt h { c with w0 := v, w1 := 1#64 }).oweWalk { head := c.w0, value := v, poison := false }
  { s with todo := s.rebuildsOn h ++ s.todo }

/-- A future is poisoned (R185, R267): the waiters of an EMPTY one resume TRAPPED with POISON. -/
def State.poisonFuture (s : State) (h : Word) : State :=
  let c := s.cellAt h
  let s := s.putCellAt h { c with w0 := 0#64, w1 := 2#64 }
  if c.futureState = 0 then s.walkWaiters { head := c.w0, value := 0#64, poison := true } else s

/-- A write of a future by the module itself, in a context: done only where a FUTW would succeed. -/
def State.moduleFutw (s : State) (x : Nat) (h v : Word) : State :=
  if s.cellTrip x h [.future] = none ∧ (s.cellAt h).futureState = 0 then s.writeFuture h v else s

/-! ## Tail cells (R263) -/

/-- The updates of ring tails that the service cores have not seen yet, observed next (R263). -/
def State.observeTails (s : State) : State :=
  let evs := (List.range 64).filter fun i =>
    let r := ((s.ctx (i / 4)).tring[i % 4]?.getD Tring.reset)
    r.w1.getLsbD 63 && s.cellOk r.w0 && (s.cellAt r.w0).w0 != r.seen
  { s with todo := evs.map (fun i => Turn.ev (.tailUpdate (i / 4) (i % 4))) ++ s.todo }

/-! ## Instructions -/

/-- The functions of GATOM (R187, R372). -/
def gatomFn (fn : Nat) (old v : Word) : Word :=
  match fn with
  | 0 => old + v
  | 1 => if old.slt v then v else old
  | 2 => if v.ult old then v else old
  | 3 => old ||| v
  | 4 => old &&& v
  | _ => v

/-- An update of word0 of a plain cell, answered with the old word0 (R187, R372). -/
def State.performWord0 (s : State) (q : HomeReq) (h : Word) (d : Nat) (f : Word → Word) : Answer :=
  match s.cellTrip (s.ctxOf q) h [.plain] with
  | some t => refuse s t
  | none =>
    let c := s.cellAt h
    answer (s.updateCell h { c with w0 := f c.w0 }) [.s d c.w0]

/-- Contribution cells of a reduction of n contributors (R188). -/
def contribCells (n : Nat) : Nat := (n + 3) / 4
/-- ceil(log2 n). -/
def clog2 (n : Nat) : Nat := if n ≤ 1 then 0 else Nat.log2 (n - 1) + 1

/-- Contributor i's slot: its cell's index and its place there (R188). -/
def contribAt (h : Word) (i : Nat) : Nat × Nat := (hIndex h + 1 + i / 4, i % 4)

/-- A contribution cell's FP32 values. -/
def Cell.contrib (c : Cell) (j : Nat) : Nat := bits (c.w0.toNat + c.w1.toNat * 2 ^ 64) (32 * j) 32

/-- A contribution cell with contributor j present. -/
def Cell.contribute (c : Cell) (j v : Nat) : Cell :=
  { c with present := c.present ||| (1#4 <<< j)
           w0 := if j < 2 then setBits c.w0 (32 * j) 32 v else c.w0
           w1 := if 2 ≤ j then setBits c.w1 (32 * (j - 2)) 32 v else c.w1 }

/-- Does a contribution meet a poisoned contribution cell: its own, or as the last one any of the reduction's (R365)? -/
def State.gredPoison (s : State) (h v : Word) : Bool :=
  let c := s.cellAt h
  let n := wbits c.w1 0 32
  let i := wbits v 32 32
  c.kind == .header && decide (i < n) &&
    ((s.cell (hDie h) (contribAt h i).1).poison ||
      (wbits c.w0 32 32 + 1 == n && (List.range (contribCells n)).any fun j => (s.cell (hDie h) (hIndex h + 1 + j)).poison))

/-- GRED (R188, R373): the contribution applied under the context's table as it stands now (R367), and the reply. -/
def State.performGred (s : State) (q : HomeReq) (h v : Word) (d : Nat) : Answer :=
  let c := s.cellAt h
  let fn := wbits (s.ctx (s.ctxOf q)).gftab (4 * wbits c.w1 32 3) 4
  match firstTrip [s.cellTrip (s.ctxOf q) h [.header], failIf (s.gredPoison h v) (trip codePoison),
      failIf (fn != 6 && fn != 7) (trip codeIllegal)] with
  | some t => refuse s t
  | none =>
    let n := wbits c.w1 0 32
    let i := wbits v 32 32
    let reply (c : Cell) : Word :=
      w64 (wbits c.w0 0 32 + bits c.w0.toNat 32 17 * 2 ^ 32 + b2n (c.w1.getLsbD 63) * 2 ^ 63)
    if i = 2 ^ 32 - 1 then answer s [.s d (reply c)]
    else
      let at_ := contribAt h i
      let y := s.cell (hDie h) at_.1
      if n ≤ i || y.present.getLsbD at_.2 then
        let c := { c with w1 := c.w1 ||| 0x8000000000000000#64 }
        answer (s.putCellAt h c) [.s d (reply c)]
      else
        let x := wbits v 0 32
        let s := s.setCell (hDie h) at_.1 (y.contribute at_.2 x)
        let k := wbits c.w0 32 32 + 1
        let sum :=
          if fn = 7 then (fAdd fp32 0 false (wbits c.w0 0 32) x).1
          else if k < n then 0
          else canonNan fp32 (treeReduce (fAdd fp32 0 false) (clog2 n)
            ((List.range n).map fun i => (s.cell (hDie h) (contribAt h i).1).contrib (i % 4))).1
        let c := { c with w0 := w64 (sum + k * 2 ^ 32) }
        answer (s.updateCell h c) [.s d (reply c)]

def State.performFutw (s : State) (q : HomeReq) (h v : Word) : Answer :=
  match firstTrip [s.cellTrip (s.ctxOf q) h [.future], failIf ((s.cellAt h).futureState != 0) (trip codeDoubleWrite)] with
  | some t => refuse s t
  | none => answer (s.writeFuture h v) []

/-- A continuation becomes the head of an EMPTY future's list; its w5 takes the old head (R185). -/
def State.linkFuture (s : State) (h cont : Word) : State :=
  let c := s.cellAt h
  (s.modCont (hDie cont) (hIndex cont) fun k => k.setWord 5 c.w0).putCellAt h { c with w0 := cont }

/-- The reservation of a request goes back unused (R397). -/
def State.giveBack (s : State) (q : HomeReq) (slot : Option Nat) : State :=
  match slot with
  | some i => s.unreserve (dieOf q.tile) i
  | none => s

/-- A refused request with its reservation given back. -/
def refuseBack (s : State) (q : HomeReq) (slot : Option Nat) (t : Trip) : Answer := refuse (s.giveBack q slot) t

/-- Wait value of a kind-3 continuation: register, strand, deliver (R183). -/
def futureWait (x : Nat) (σ : Side) (deliver : Bool) : Nat := x + 32 * sideNum σ + 64 * b2n deliver

/-- FUTR (R375, R397). -/
def State.performFutr (s : State) (q : HomeReq) (h : Word) (x pf : Nat) (slot : Option Nat) : Answer :=
  let c := s.cellAt h
  match firstTrip [s.cellTrip (s.ctxOf q) h [.future], failIf (c.futureState == futurePoison) (trip codePoison)] with
  | some t => refuseBack s q slot t
  | none =>
    if c.futureState = futureFull then answer (s.giveBack q slot) [.s x c.w0, .p pf true]
    else match slot with
      | none => answer s [.p pf false]
      | some i =>
        match firstTrip [s.endingTrip q 3 0, s.residueTrip q] with
        | some t => refuseBack s q slot t
        | none =>
          match s.claimEnding q (some i) 3 0 (futureWait x q.side true) 0#64 with
          | none => answer s [.p pf false]
          | some (k, s) => answerEnd (s.linkFuture h k) [.p pf true]

/-- AWAIT of kind 3 or 4 (R182, R381, R397). -/
def State.performAwaitCell (s : State) (q : HomeReq) (x0 h : Word) (x pf : Nat) (slot : Option Nat) : Answer :=
  let kind := wbits x0 60 4
  match firstTrip [
      (s.run q.run).bind Run.secondEnding,
      s.cellTrip (s.ctxOf q) h (if kind = 3 then [.future] else [.plain, .header]),
      s.endingTrip q kind 0, s.residueTrip q] with
  | some t => refuseBack s q slot t
  | none =>
    let wait := if kind = 3 then futureWait x q.side false else wbits x0 0 32
    match s.claimEnding q slot kind 0 wait (if kind = 4 then h else 0#64) with
    | none => answer s [.p pf false]
    | some (k, s) =>
      let c := s.cellAt h
      let s :=
        if kind = 3 then
          if c.futureState = 0 then s.linkFuture h k
          else s.meet k fun y => y.setWord 5 c.w0
        else if s.target k ≤ c.value then s.meet k id
        else s.putCellAt h (c.setWaiters (k :: c.waiters))
      answerEnd s [.p pf true]

/-! ## SALLOC and SFREE (R370, R371) -/

/-- Is the request of a SALLOC refused (R370)? -/
def sallocBad (r : Word) : Bool :=
  let kind := wbits r 0 2
  kind == 3 || wbits r 2 2 != 0 || wbits r 26 38 != 0 ||
  (if kind = 2 then wbits r 4 17 == 0 || decide (65536 < wbits r 4 17)
   else wbits r 4 16 == 0 || wbits r 20 4 != 0)

/-- The cells a request needs. -/
def sallocCells (r : Word) : Nat := if wbits r 0 2 = 2 then 1 + contribCells (wbits r 4 17) else wbits r 4 16

/-- The first cell of the lowest run of `n` free cells, from the listed cells of a die on: `at_` is the first cell not
known to be in use. -/
def freeCells (n : Nat) : List (Nat × Cell) → Nat → Option Nat
  | [], at_ => if at_ + n ≤ cellPool then some at_ else none
  | (j, c) :: r, at_ =>
    if c.kind = .free then freeCells n r at_
    else if at_ + n ≤ j then some at_ else freeCells n r (j + 1)

/-- A cell of a fresh run: its place in the run, and the request (R370). -/
def freshCell (x : Nat) (r : Word) (gen : BitVec 16) (first len i : Nat) : Cell :=
  let c := { Cell.reset with gen := gen, ctx := x, first := first, len := len }
  match wbits r 0 2 with
  | 0 => { c with kind := .plain }
  | 1 => { c with kind := .future }
  | _ => if i = 0 then { c with kind := .header, w1 := w64 (wbits r 4 17 + wbits r 21 3 * 2 ^ 32) } else { c with kind := .contrib }

def State.performSalloc (s : State) (q : HomeReq) (r : Word) (d pf : Nat) : Answer :=
  if sallocBad r then refuse s (trip codeIllegal)
  else
    let die := wbits r 24 2
    let n := sallocCells r
    match freeCells n (s.die die).cells 0 with
    | none => answer s [.s d 0#64, .p pf false]
    | some i =>
      let gen := (s.cell die i).gen + 1#16
      let s := (List.range n).foldl (fun s j => s.setCell die (i + j) (freshCell (s.ctxOf q) r gen i n j)) s
      answer s [.s d (mkHandle 3 gen die i), .p pf true]

/-- A reference on the run of a cell is taken, for an operation under way that names it (R22). -/
def State.addCellRef (s : State) (h : Word) : State :=
  s.modCell (hDie h) (s.cellAt h).first fun c => { c with refs := c.refs + 1 }

/-- A reference on a run of cells goes; a DRAINING run without references becomes FREE with the next generation (R22). -/
def State.dropCellRef (s : State) (h : Word) : State :=
  let c := s.cellAt h
  if !handleForm h 3 cellPool || c.gen != hGen h || c.kind = .free then s
  else
    let s := s.modCell (hDie h) c.first fun c => { c with refs := c.refs - 1 }
    let f := s.cell (hDie h) c.first
    if f.kind = .draining ∧ f.refs = 0 then
      (List.range f.len).foldl (fun s j =>
        s.setCell (hDie h) (c.first + j) { Cell.reset with gen := (s.cell (hDie h) (c.first + j)).gen + 1#16 }) s
    else s

/-- A run of cells goes FREE, or DRAINING while references are in flight (R22); the waiters on each cell resume TRAPPED with
POISON first (R371). -/
def State.freeRunOf (s : State) (die first len : Nat) : State :=
  let held := (s.cell die first).refs
  (List.range len).foldl (fun s j =>
    let c := s.cell die (first + j)
    let h := mkHandle 3 c.gen die (first + j)
    let s := if c.kind = .future ∧ c.futureState = 0 then s.poisonFuture h
      else c.waiters.foldl (fun s w => s.meetTrap w codePoison 0#8) s
    s.setCell die (first + j)
      (if held = 0 then { Cell.reset with gen := c.gen }
       else { Cell.reset with gen := c.gen, kind := .draining, ctx := c.ctx, first := first, len := len
                              refs := if j = 0 then held else 0 })) s

def State.performSfree (s : State) (q : HomeReq) (h : Word) : Answer :=
  let c := s.cellAt h
  match firstTrip [s.cellTrip (s.ctxOf q) h [.plain, .future, .header], failIf (c.first != hIndex h) (trip codeIllegal)] with
  | some t => refuse s t
  | none => answer (s.freeRunOf (hDie h) c.first c.len) []

/-! ## Graph parameters (R189, R376) -/

def Ctx.gpGet (c : Ctx) (n : Nat) : Word := c.gp[n]?.getD 0#64
def State.setGp (s : State) (x n : Nat) (v : Word) : State := s.modCtx x fun c => { c with gp := c.gp.setIfInBounds n v }

/-- Has a double error poisoned a parameter register (R267, R365; log entry 103)? -/
def State.gpTrip (s : State) (x n : Nat) : Option Trip := failIf (s.isSpoiled 0 8 (64 * x + n)) (trip codePoison)

def State.performGparam (s : State) (q : HomeReq) (n d : Nat) : Answer :=
  match s.gpTrip (s.ctxOf q) n with
  | some t => refuse s t
  | none => answer s [.s d ((s.ctx (s.ctxOf q)).gpGet n)]

def State.performGpset (s : State) (q : HomeReq) (n : Nat) (v : Word) : Answer :=
  match s.gpTrip (s.ctxOf q) n with
  | some t => refuse s t
  | none => answer (s.setGp (s.ctxOf q) n v) []

end Sys2Proof.Machine
end

