-- ==== Sys2Proof/Machine/Sheaf.lean ====
section
/-!
DEFINITION. Sys2Proof/Machine/Sheaf.lean: a die's Sheaf performing requests on frames, beam sets and prefix entries in a
single order (R191–R208, R385–R388, R394), and the visibility set (R199).
-/
namespace Sys2Proof.Machine

/-! ## Descriptor fields (R193) -/

def Frame.state (f : Frame) : Nat := wbits (f.word 0) 60 4
def Frame.depth (f : Frame) : Nat := wbits (f.word 0) 56 4
def Frame.ctx (f : Frame) : Nat := wbits (f.word 0) 52 4
def Frame.owner (f : Frame) : BitVec 16 := (f.word 0).extractLsb' 20 16
def Frame.count (f : Frame) : Nat := wbits (f.word 0) 0 20
def Frame.planes (f : Frame) : Nat := wbits (f.word 1) 48 6 + 1
def Frame.onStack (f : Frame) : Bool := (f.word 1).getLsbD 54
def Frame.mask (f : Frame) : Nat := wbits (f.word 1) 34 14
def Frame.base (f : Frame) : Nat := wbits (f.word 2) 0 24
def Frame.tokens (f : Frame) : Nat := wbits (f.word 2) 24 15
def Frame.progress (f : Frame) : Nat := wbits (f.word 3) 15 15
def Frame.dependants (f : Frame) : Nat := wbits (f.word 3) 45 16
def Frame.list (f : Frame) : Nat := (f.word 6).toNat
def Frame.log (f : Frame) : Nat := (f.word 7).toNat
def Frame.setState (f : Frame) (n : Nat) : Frame := f.setField 0 60 4 n
def Frame.setCount (f : Frame) (n : Nat) : Frame := f.setField 0 0 20 n
def Frame.setDependants (f : Frame) (n : Nat) : Frame := f.setField 3 45 16 n
def Frame.setTokens (f : Frame) (n : Nat) : Frame := f.setField 2 24 15 n
def Frame.setProgress (f : Frame) (n : Nat) : Frame := f.setField 3 15 15 n

/-- States of a frame (R193). -/
def frameOpen : Nat := 1
def frameFrozen : Nat := 2
def frameCompacting : Nat := 3
def frameReturned : Nat := 4
def frameDetached : Nat := 5

/-- A compact handle, 34 bits (R193). -/
def compact (h : Word) : Nat := hIndex h % 65536 + hDie h * 2 ^ 16 + (hGen h).toNat * 2 ^ 18
/-- The frame handle of a compact handle; 0 stays 0. -/
def uncompact (c : Nat) : Word := if c = 0 then 0#64 else mkHandle 4 (BitVec.ofNat 16 (c / 2 ^ 18)) (bits c 16 2) (bits c 0 16)
/-- The parent's handle; 0 for a root. -/
def Frame.parent (f : Frame) : Word := uncompact (wbits (f.word 1) 0 34)
/-- Argument span i: frame handle, start, length (R193). -/
def Frame.span (f : Frame) (i : Nat) : Word × Nat × Nat :=
  (uncompact (wbits (f.word (4 + i)) 0 34), wbits (f.word (4 + i)) 34 15, wbits (f.word (4 + i)) 49 15)
/-- The argument spans a frame has. -/
def Frame.spans (f : Frame) : List (Word × Nat × Nat) := [f.span 0, f.span 1].filter fun s => s.2.2 != 0

/-- The frame of a handle. -/
def State.frameAt (s : State) (h : Word) : Frame := s.frame (hDie h) (hIndex h)
def State.putFrameAt (s : State) (h : Word) (f : Frame) : State := s.setFrame (hDie h) (hIndex h) f
def State.frameHandle (s : State) (d i : Nat) : Word := mkHandle 4 (s.frame d i).gen d i

/-- R22 of frame handles (R192). -/
def State.framesStale (s : State) (hs : List Word) : Option Trip :=
  failIf (hs.any fun h => !handleForm h 4 framePool || (s.frameAt h).gen != hGen h || (s.frameAt h).state == 0) (trip codeStale)

/-- R22 of frame handles, then SECURITY, then POISON of their records: each step over all of them (R192, R365). -/
def State.framesTrip (s : State) (x : Nat) (hs : List Word) : Option Trip :=
  firstTrip [
    s.framesStale hs,
    failIf (hs.any fun h => (s.frameAt h).ctx != x) (trip codeSecurity),
    failIf (hs.any fun h => s.isSpoiled (hDie h) 4 (hIndex h)) (trip codePoison)]

/-- The same of one frame handle. -/
def State.frameTrip (s : State) (x : Nat) (h : Word) : Option Trip := s.framesTrip x [h]

/-- Is the record of a frame that an instruction finds through another record spoiled (R267, R365 step 6)? -/
def State.frameSpoiled (s : State) (h : Word) : Bool := h != 0#64 && s.isSpoiled (hDie h) 4 (hIndex h)

/-- POISON of a fibre's own record, or of frames that an instruction finds through it (R267, R365 step 6). -/
def State.stackTrip (s : State) (fb : BitVec 16) (hs : List Word) : Option Trip :=
  failIf (s.fibreSpoiled fb || hs.any s.frameSpoiled) (trip codePoison)

/-- Top frame of a fibre, 0 for an empty stack; its depth limit (R172). -/
def Fibre.top (f : Fibre) : Word := f.word 5
def Fibre.limit (f : Fibre) : Nat := wbits (f.word 0) 52 4
/-- The fibre with a top frame and its depth. -/
def Fibre.setTop (f : Fibre) (h : Word) (depth : Nat) : Fibre :=
  (f.setWord 0 (setBits (f.word 0) 48 4 depth)).setWord 5 h

/-! ## The visibility set (R199) -/

/-- An fd register: handle, window start, window length. -/
def fdWord (h : Word) (start len : Nat) : BitVec 128 := BitVec.ofNat 128 (h.toNat + start % 2 ^ 24 * 2 ^ 64 + len * 2 ^ 88)

/-- The ancestors of a frame, deepest first, each with its handle. -/
def State.ancestors (s : State) (h : Word) : (fuel : Nat) → List Word
  | 0 => []
  | n + 1 =>
    let p := (s.frameAt h).parent
    if p = 0#64 then [] else p :: s.ancestors p n

/-- fd0–fd3 for a top frame: the frame, its spans, its masked ancestors from the deepest to the root (R199). -/
def State.visibility (s : State) (top : Word) : Vector (BitVec 128) 4 :=
  if top = 0#64 then Vector.replicate 4 0#128
  else
    let f := s.frameAt top
    let spans := f.spans.map fun x => fdWord x.1 ((s.frameAt x.1).base + x.2.1) x.2.2
    let ancs := (s.ancestors top 15).filter fun a => f.mask.testBit ((s.frameAt a).depth - 1)
    let l := fdWord top 0 0 :: spans ++ ancs.map fun a => fdWord a (s.frameAt a).base (s.frameAt a).tokens
    Vector.ofFn fun i : Fin 4 => l[i.val]?.getD 0#128

/-! ## Page pools (R195, R394) -/

/-- KVPOOL and KVFREE of a context on a die. -/
def State.pool (s : State) (d x : Nat) : Word × Word := (mget (s.die d).pools x).getD (0#64, 0#64)
def State.setPool (s : State) (d x : Nat) (p : Word × Word) : State :=
  s.modDie d fun y => { y with pools := mput y.pools x p }

/-- Takes one page from array entry KVFREE − 1; none when the array is empty or its entry cannot be read. -/
def State.takePage (s : State) (d x : Nat) : State × Option Word :=
  let p := s.pool d x
  if p.2 = 0#64 then (s, none)
  else match s.vaRead (.die d) x (p.1.toNat + 8 * (p.2.toNat - 1)) 8 .read with
    | (s, .inl _) => (s, none)
    | (s, .inr v) => (s.setPool d x (p.1, p.2 - 1#64), some (w64 v))

/-- Takes `n` pages one at a time, in order (R394). -/
def State.takePages (s : State) (d x : Nat) : (n : Nat) → State × Option (List Word)
  | 0 => (s, some [])
  | n + 1 =>
    match s.takePage d x with
    | (s, none) => (s, none)
    | (s, some p) =>
      match s.takePages d x n with
      | (s, none) => (s, none)
      | (s, some l) => (s, some (p :: l))

/-- Is the page of a VA poisoned (R35, R195)? -/
def State.vaPoisoned (s : State) (x va : Nat) : Bool :=
  match (s.translateLocal x va .read).2 with
  | .inr t => t.target == 0 && s.poison.contains t.ppn
  | .inl _ => false

/-- A page goes back to the top of the array; a poisoned page never does (R195).  A fault of the array's write is not reported (log entry 98). -/
def State.returnPage (s : State) (d x : Nat) (page : Word) : State :=
  if s.vaPoisoned x page.toNat then s
  else
    let p := s.pool d x
    let s := (s.vaWrite x (p.1.toNat + 8 * p.2.toNat) 8 page.toNat).1
    s.setPool d x (p.1, p.2 + 1#64)

/-- A freed frame's pages go back, the last taken first, once every CPYF part against it has been served (R195, R394). -/
def State.returnPages (s : State) (d i : Nat) : State :=
  let f := s.frame d i
  if f.state = 0 ∧ f.refs = 0 ∧ !f.pages.isEmpty then
    (f.pages.reverse.foldl (fun s p => s.returnPage d f.ctx p) s).modFrame d i fun f => { f with pages := [] }
  else s

/-- A freed slot whose last reference in flight has gone: it changes generation (R22). -/
def Frame.drained (f : Frame) : Frame := { f.setField 0 36 16 (f.gen + 1#16).toNat with gen := f.gen + 1#16 }

/-- One user of a frame's pages has finished.  A frame freed before, which has been draining since, though no state code of R193 says so,
changes generation with its last one (R22), and its pages go back (R195). -/
def State.dropFrameRef (s : State) (h : Word) : State :=
  let f := s.frameAt h
  let f := { f with refs := f.refs - 1 }
  (s.putFrameAt h (if f.state = 0 ∧ f.refs = 0 then f.drained else f)).returnPages (hDie h) (hIndex h)

/-! ## Lifetime (R196) -/

/-- A frame's state after its count, its dependants or its place on the stack changed: OPEN or FROZEN on its stack; off it,
RETURNED, DETACHED, or freed, which may free others in turn. -/
def State.settleFrame (s : State) (h : Word) : (fuel : Nat) → State
  | 0 => s
  | n + 1 =>
    let f := s.frameAt h
    if f.state = 0 then s
    else if f.onStack then
      if f.state = frameCompacting then s
      else s.putFrameAt h (f.setState (if f.count ≤ 1 then frameOpen else frameFrozen))
    else if f.count = 0 ∧ f.dependants = 0 then
      let s := s.putFrameAt h (f.setState 0)
      let s := s.returnPages (hDie h) (hIndex h)
      let drop (s : State) (p : Word) (ref : Bool) : State :=
        let y := s.frameAt p
        let y := y.setDependants (y.dependants - 1)
        (s.putFrameAt p (if ref then y.setCount (y.count - 1) else y)).settleFrame p n
      let s := if f.parent = 0#64 then s else drop s f.parent f.holds
      f.spans.foldl (fun s x => drop s x.1 false) s
    else if f.state = frameDetached then s
    else s.putFrameAt h (f.setState frameReturned)

/-- Frames cannot free one another through more links than the pools hold. -/
def frameFuel (s : State) : Nat := ((List.range 4).map fun d => (s.die d).frames.length).foldl (· + ·) 1

/-- A frame's count changed by `d`, with what follows (R196). -/
def State.addFrameCount (s : State) (h : Word) (d : Int) : State :=
  let f := s.frameAt h
  (s.putFrameAt h (f.setCount ((f.count : Int) + d).toNat)).settleFrame h (frameFuel s)

/-- A frame gains a dependant. -/
def State.addDependant (s : State) (h : Word) : State :=
  let f := s.frameAt h
  s.putFrameAt h (f.setDependants (f.dependants + 1))

/-- The top frame leaves its stack and loses the stack's reference; the fibre's top becomes its parent where that is on the
fibre's stack (R197, R201). -/
def State.popTop (s : State) (fb : BitVec 16) : State :=
  let h := (s.fibre fb).top
  let f := s.frameAt h
  let p := s.frameAt f.parent
  let keep := f.parent != 0#64 && p.owner == fb && p.onStack
  let s := s.setFibre fb ((s.fibre fb).setTop (if keep then f.parent else 0#64) (if keep then p.depth else 0))
  let f := f.setField 1 54 1 0
  (s.putFrameAt h (f.setCount (f.count - 1))).settleFrame h (frameFuel s)

/-- The rewrite of fd0–fd3 from a fibre's top (R199). -/
def State.fdResult (s : State) (fb : BitVec 16) : ResVal := .fd (s.visibility (s.fibre fb).top)

/-- FSHARE's and a beam's or prefix entry's own check of a frame it takes a reference on (R192, R197). -/
def Frame.shareTrip (f : Frame) : Option Trip :=
  firstTrip [failIf (f.state == frameCompacting) (stack subNotTop), failIf (f.count == 2 ^ 20 - 1) (stack subBadSpan)]

def State.performFshare (s : State) (q : HomeReq) (h : Word) : Answer :=
  match firstTrip [s.frameTrip (s.ctxOf q) h, (s.frameAt h).shareTrip] with
  | some t => refuse s t
  | none => answer (s.addFrameCount h 1) []

/-- The continuations that a compaction of a frame meets when it is done, those of earlier FCOMPACTs of it among them (R183). -/
def State.compactConts (s : State) (h : Word) : List Word :=
  (s.compacts.filter fun j => j.2.die == hDie h && j.2.frame == hIndex h).flatMap fun j => j.2.conts ++ [j.2.cont]

/-- A compaction of a frame stops for good (R197). -/
def State.stopCompaction (s : State) (h : Word) : State :=
  { s with compacts := s.compacts.filter fun j => !(j.2.die == hDie h && j.2.frame == hIndex h) }

def State.performFdrop (s : State) (q : HomeReq) (h : Word) : Answer :=
  let fb := s.fibreOf q
  let f := s.frameAt h
  let top := (s.fibre fb).top == h
  match firstTrip [
      s.frameTrip (s.ctxOf q) h,
      s.stackTrip fb [],
      failIf (f.count == 0) (stack subBadSpan),
      failIf (f.state == frameCompacting && !(top && f.count == 1)) (stack subNotTop),
      failIf (f.onStack && f.count == 1 && !top) (stack subNotTop)] with
  | some t => refuse s t
  | none =>
    if top ∧ f.count = 1 then
      let s := (s.stopCompaction h).popTop fb
      answer s [s.fdResult fb]
    else answer (s.addFrameCount h (-1)) []

/-! ## FPUSH (R198) -/

/-- The lowest FREE descriptor of a die whose pages are back (R22, R390). -/
def State.freeFrame (s : State) (d : Nat) : Option Nat :=
  lowestFree (s.die d).frames (fun f => f.state == 0 && f.refs == 0) framePool

/-- A push's span operand: handle, start, length. -/
def pushSpan (x : Vector Word 6) (i : Nat) : Word × Nat × Nat :=
  let v := x[3 + 2 * i]?.getD 0#64
  (x[2 + 2 * i]?.getD 0#64, wbits v 0 15, wbits v 16 15)

/-- Bits of a span operand outside start and length. -/
def spanStray (v : Word) : Bool := v.getLsbD 15 || wbits v 31 33 != 0

/-- w0 of a new frame. -/
def frameWord0 (state depth ctx : Nat) (gen owner : BitVec 16) (count : Nat) : Word :=
  w64 (state * 2 ^ 60 + depth * 2 ^ 56 + ctx * 2 ^ 52 + gen.toNat * 2 ^ 36 + owner.toNat * 2 ^ 20 + count)

/-- w4 or w5 of a new frame. -/
def spanWord (x : Word × Nat × Nat) : Word :=
  if x.2.2 = 0 then 0#64 else w64 (compact x.1 + x.2.1 * 2 ^ 34 + x.2.2 * 2 ^ 49)

/-- A page address as a descriptor holds it. -/
def pageField (v : Word) : Word := w64 (wbits v 16 39 * 2 ^ 16)

/-- The checks of a push, in R198's order, up to the pools. -/
def State.pushTrip (s : State) (x : Nat) (fb : BitVec 16) (v : Vector Word 6) : Option Trip :=
  let v0 := v[0]
  let v1 := v[1]
  let top := (s.fibre fb).top
  let parent := if v0 = 0#64 then top else v0
  let spans := [pushSpan v 0, pushSpan v 1].filter fun y => y.2.2 != 0
  let depth := if parent = 0#64 then 1 else (s.frameAt parent).depth + 1
  firstTrip [
    s.framesTrip x ((if v0 = 0#64 then [] else [v0]) ++ spans.map (·.1)),
    s.stackTrip fb [parent],
    failIf (v0 != 0#64 && top != 0#64 && top != v0) (stack subNotTop),
    failIf ((parent != 0#64 && (s.frameAt parent).state == frameCompacting) ||
      spans.any fun y => (s.frameAt y.1).state == frameCompacting) (stack subNotTop),
    failIf (decide ((s.fibre fb).limit < depth)) (stack subDepth),
    failIf (spans.any (fun y => decide ((s.frameAt y.1).tokens < y.2.1 + y.2.2)) ||
      decide (2 ^ (depth - 1) ≤ wbits v1 0 14) || decide (3 < spans.length + popcount (wbits v1 0 14) 14) ||
      wbits v1 14 2 != 0 || wbits v1 22 42 != 0 || (parent != 0#64 && wbits v1 16 6 != 0) ||
      spanStray v[3] || spanStray v[5]) (stack subBadSpan),
    failIf (s.freeFrame (fb.toNat / 16384)).isNone (stack subNoFrame)]

def State.performFpush (s : State) (q : HomeReq) (v : Vector Word 6) (d : Nat) : Answer :=
  let x := s.ctxOf q
  let fb := s.fibreOf q
  let die := fb.toNat / 16384
  match s.pushTrip x fb v with
  | some t => refuse s t
  | none =>
    match s.freeFrame die, s.takePages die x 3 with
    | some i, (s', some [list, log1, log0]) =>
      let top := (s.fibre fb).top
      let parent := if v[0] = 0#64 then top else v[0]
      let p := s.frameAt parent
      let root := parent == 0#64
      let holds := v[0] != 0#64 && top == 0#64
      let gen := (s.frame die i).gen + 1#16
      let depth := if root then 1 else p.depth + 1
      let planes := if root then wbits v[1] 16 6 else p.planes - 1
      let spans := [pushSpan v 0, pushSpan v 1].filter fun y => y.2.2 != 0
      let f : Frame := { Frame.reset with gen := gen, pages := [list, log1, log0], holds := holds }
      let f := f.setWord 0 (frameWord0 frameOpen depth x gen fb 1)
      let f := f.setWord 1 (w64 ((if root then 0 else compact parent) + wbits v[1] 0 14 * 2 ^ 34 + planes * 2 ^ 48 + 2 ^ 54))
      let f := f.setWord 2 (w64 (if root then 0 else (p.base + p.tokens) % 2 ^ 24))
      let f := (f.setWord 4 (spanWord (pushSpan v 0))).setWord 5 (spanWord (pushSpan v 1))
      let f := (f.setWord 6 (pageField list)).setWord 7 (pageField log0)
      let s := (s'.renew die 4 i).setFrame die i f
      let s := if root then s else s.addDependant parent
      let s := if holds then s.addFrameCount parent 1 else s
      let s := spans.foldl (fun s y => s.addDependant y.1) s
      let h := s.frameHandle die i
      let s := s.setFibre fb ((s.fibre fb).setTop h depth)
      answer s [.s d h, s.fdResult fb]
    | _, _ => refuse s (stack subNoPage)

/-! ## Rows, logs and pages of a frame (R194, R200, R394) -/

/-- The page-list entry of plane q, row t: read through the context. -/
def State.pageOf (s : State) (d x : Nat) (f : Frame) (q t : Nat) : State × (Nat ⊕ Nat) :=
  s.vaRead (.die d) x (f.list + 8 * pageEntry q t) 8 .read

/-- The VA of a row, or a fault kind. -/
def State.rowVa (s : State) (d x : Nat) (f : Frame) (q t : Nat) : State × (Nat ⊕ Nat) :=
  match s.pageOf d x f q t with
  | (s, .inl k) => (s, .inl k)
  | (s, .inr e) => (s, .inr (bits e 16 39 * 65536 + 256 * (t % 256)))

/-- Token t of the log: copy 1 where copy 0 is poisoned (R194). -/
def State.logRead (s : State) (d x : Nat) (f : Frame) (t : Nat) : State × (Nat ⊕ Nat) :=
  match s.vaRead (.die d) x (f.log + 4 * t) 4 .read with
  | (s, .inl 3) => s.vaRead (.die d) x (f.log + 65536 + 4 * t) 4 .read
  | y => y

/-- Token t written to both copies of the log (R194). -/
def State.logWrite (s : State) (x : Nat) (f : Frame) (t v : Nat) : State × Option Nat :=
  let y := s.vaWrite x (f.log + 4 * t) 4 v
  let z := y.1.vaWrite x (f.log + 65536 + 4 * t) 4 v
  (z.1, if y.2.isSome then y.2 else z.2)

/-- Row pages taken for row t, the first of a page: one per plane, plane 0 first (R194, R394); none where the pool cannot
supply them.  A fault of a page-list write is not reported (log entry 98). -/
def State.takeRowPages (s : State) (d x i t : Nat) : Option State :=
  let f := s.frame d i
  match s.takePages d x f.planes with
  | (_, none) => none
  | (s, some l) =>
    let s := ((List.range f.planes).zip l).foldl
      (fun s p => (s.vaWrite x (f.list + 8 * pageEntry p.1 t) 8 (wbits p.2 16 39 * 65536)).1) s
    some (s.modFrame d i fun f => { f with pages := f.pages ++ l })

/-- Row pages for rows [c, c + n) of a frame (R200, R201). -/
def State.takeRows (s : State) (d x i c : Nat) : (n : Nat) → Option State
  | 0 => some s
  | n + 1 =>
    match (if c % 256 = 0 then s.takeRowPages d x i c else some s) with
    | none => none
    | some s => s.takeRows d x i (c + 1) n

/-- FAPPEND (R200).  A fault of a log write is not reported (log entry 98). -/
def State.performFappend (s : State) (q : HomeReq) (tok : Word) (d : Nat) : Answer :=
  let x := s.ctxOf q
  let h := (s.fibre (s.fibreOf q)).top
  let f := s.frameAt h
  let c := f.tokens
  match firstTrip [
      failIf (wbits tok 32 32 != 0) (trip codeIllegal),
      s.stackTrip (s.fibreOf q) [h],
      failIf (h == 0#64) (stack subNoFrame),
      failIf (f.state != frameOpen) (stack subFrozen),
      failIf (decide (16384 ≤ c)) (stack subBadSpan)] with
  | some t => refuse s t
  | none =>
    match s.takeRows (hDie h) x (hIndex h) c 1 with
    | none => refuse s (stack subNoPage)
    | some s =>
      let s := s.modFrame (hDie h) (hIndex h) fun f => f.setTokens (c + 1)
      answer (s.logWrite x f c (wbits tok 0 32)).1 [.s d (w64 c)]

/-! ## FRET (R201) -/

/-- The moves of rows [k, k + n) of one frame to rows [c, c + n) of another, in every plane; rows whose page lists cannot
be read are not moved. -/
def State.rowMoves (s : State) (x : Nat) (src dst : Word) (k c n : Nat) : State × List (Word × Word) :=
  let f := s.frameAt src
  let g := s.frameAt dst
  (List.range n).foldl (fun acc j =>
    (List.range f.planes).foldl (fun (acc : State × List (Word × Word)) q =>
      match acc.1.rowVa (hDie src) x f q (k + j) with
      | (s, .inl _) => (s, acc.2)
      | (s, .inr a) =>
        match s.rowVa (hDie dst) x g q (c + j) with
        | (s, .inl _) => (s, acc.2)
        | (s, .inr b) => (s, acc.2 ++ [(w64 a, w64 b)])) acc) (s, [])

/-- The log entries of those rows (R201).  One that cannot be read is skipped, and a fault of a write is not reported (log entry 98). -/
def State.moveLogs (s : State) (x : Nat) (src dst : Word) (k c n : Nat) : State :=
  let f := s.frameAt src
  let g := s.frameAt dst
  (List.range n).foldl (fun s j =>
    match s.logRead (hDie src) x f (k + j) with
    | (s, .inr v) => (s.logWrite x g (c + j) v).1
    | (s, .inl _) => s) s

/-- A user of a frame's pages begins. -/
def State.addFrameRef (s : State) (h : Word) : State := s.modFrame (hDie h) (hIndex h) fun f => { f with refs := f.refs + 1 }

/-- The result rows leave for their frame: logs at once, rows by the drills after the reply (R201).  Neither frame's pages return
before the moves have been made. -/
def State.startFret (s : State) (x : Nat) (src dst : Word) (k c n : Nat) : State :=
  let s := s.moveLogs x src dst k c n
  let y := s.rowMoves x src dst k c n
  if y.2.isEmpty then y.1
  else
    let s := (y.1.addFrameRef src).addFrameRef dst
    { s with frets := mput s.frets s.seq { ctx := x, moves := y.2, from_ := src, into := dst, seq := s.seq }, seq := s.seq + 1 }

/-- The callee records its result and leaves the stack; the fibre's top follows R201, and R199 is applied. -/
def State.leaveCallee (s : State) (fb : BitVec 16) (h : Word) (k n d : Nat) (res : Word) : Answer :=
  let f := s.frameAt h
  let s := s.putFrameAt h ((f.setField 2 39 15 k).setField 3 0 15 n)
  let s := s.popTop fb
  answer s [.s d res, s.fdResult fb]

def State.performFret (s : State) (q : HomeReq) (v : Word) (d : Nat) : Answer :=
  let x := s.ctxOf q
  let fb := s.fibreOf q
  let die := fb.toNat / 16384
  let h := (s.fibre fb).top
  let f := s.frameAt h
  let ph := if h = 0#64 then 0#64 else f.parent
  let p := s.frameAt ph
  let k := wbits v 0 15
  let n := wbits v 16 15
  let merge := p.state == frameOpen && p.owner == fb && p.onStack
  let c := p.tokens
  match firstTrip [
      failIf (spanStray v) (trip codeIllegal),
      s.stackTrip fb [h, ph],
      failIf (h == 0#64 || ph == 0#64) (stack subNoFrame),
      failIf (f.state == frameCompacting) (stack subNotTop),
      failIf (decide (f.tokens < k + n)) (stack subBadSpan),
      failIf (merge && decide (16384 < c + n)) (stack subBadSpan),
      failIf (!merge && (s.freeFrame die).isNone) (stack subNoFrame)] with
  | some t => refuse s t
  | none =>
    if merge then
      match s.takeRows (hDie ph) x (hIndex ph) c n with
      | none => refuse s (stack subNoPage)
      | some s =>
        let s := s.modFrame (hDie ph) (hIndex ph) fun p => p.setTokens (c + n)
        (s.startFret x h ph k c n).leaveCallee fb h k n d 0#64
    else
      match s.freeFrame die, s.takePages die x 3 with
      | some i, (s', some [list, log1, log0]) =>
        let gen := (s.frame die i).gen + 1#16
        let g : Frame := { Frame.reset with gen := gen, pages := [list, log1, log0], holds := true }
        let g := g.setWord 0 (frameWord0 frameDetached (p.depth + 1) x gen fb 1)
        let g := g.setWord 1 (w64 (compact ph + (f.planes - 1) * 2 ^ 48))
        let g := g.setWord 2 (w64 ((p.base + c) % 2 ^ 24 + n * 2 ^ 24))
        let g := (g.setWord 6 (pageField list)).setWord 7 (pageField log0)
        match ((s'.renew die 4 i).setFrame die i g).takeRows die x i 0 n with
        | none => refuse s (stack subNoPage)
        | some s =>
          let s := (s.addDependant ph).addFrameCount ph 1
          let gh := s.frameHandle die i
          (s.startFret x h gh k 0 n).leaveCallee fb h k n d gh
      | _, _ => refuse s (stack subNoPage)

/-! ## FCOMPACT (R202) and FINFO (R386) -/

def State.performFcompact (s : State) (q : HomeReq) (h sel : Word) (pf : Nat) (slot : Option Nat) : Answer :=
  let x := s.ctxOf q
  let fb := s.fibreOf q
  let f := s.frameAt h
  let k := wbits sel 0 15
  let n := wbits sel 16 15
  let same := wbits (f.word 2) 39 15 == k && wbits (f.word 3) 30 15 == n
  match firstTrip [
      failIf (spanStray sel) (trip codeIllegal),
      s.frameTrip x h,
      s.stackTrip fb [],
      s.endingTrip q 6 0,
      failIf ((s.fibre fb).top != h || f.count != 1) (stack subNotTop),
      failIf (n == 0 || decide (8192 < n)) (stack subBadSpan),
      failIf (f.state != frameOpen && !(f.state == frameCompacting && same)) (stack subBadSpan)] with
  | some t => refuseBack s q slot t
  | none =>
    match slot with
    | none => answer s [.p pf false]
    | some i =>
      match s.residueTrip q, s.claimEnding q (some i) 6 0 (k + n * 2 ^ 16) h with
      | some t, _ => refuseBack s q slot t
      | none, none => answer s [.p pf false]
      | none, some (c, s) =>
        let f := if f.state = frameOpen then
            { (((f.setState frameCompacting).setField 2 39 15 k).setField 3 30 15 n).setProgress 0 with was := some (f.word 2, f.word 3) }
          else f
        let j : CompactJob :=
          { die := hDie h, frame := hIndex h, fibre := fb, cont := c, list := none, halted := false, step := 0
            conts := s.compactConts h }
        let s := (s.stopCompaction h).putFrameAt h f
        answerEnd { s with compacts := mput s.compacts s.seq j, seq := s.seq + 1 } [.p pf true]

def State.performFinfo (s : State) (q : HomeReq) (h sel : Word) (d : Nat) : Answer :=
  let x := s.ctxOf q
  let fb := s.fibreOf q
  let f := s.frameAt h
  let k := wbits sel 0 4
  let t := wbits sel 16 14
  let p := wbits sel 32 6
  let stray := if k = 9 then wbits sel 4 12 != 0 || wbits sel 30 2 != 0 || wbits sel 38 26 != 0 else wbits sel 4 60 != 0
  let own := k == 8 || k == 10
  match firstTrip [
      failIf (decide (10 < k) || stray || (own && h != 0#64)) (trip codeIllegal),
      if own then none else s.frameTrip x h,
      if own then s.stackTrip fb (if k = 8 then [(s.fibre fb).top] else []) else none,
      failIf (!own && f.state == frameCompacting) (stack subNotTop),
      failIf (k == 9 && (decide (f.tokens ≤ t) || decide (f.planes ≤ p))) (stack subBadSpan)] with
  | some y => refuse s y
  | none =>
    match k with
    | 8 => answer s [.s d (s.fibre fb).top, s.fdResult fb]
    | 9 =>
      match s.pageOf (hDie h) x f p t with
      | (s, .inl _) => answer { s with freeCount := s.freeCount + 1 } [.s d (Config.unstatedWord 9 s.freeCount)]
      | (s, .inr e) => answer s [.s d (w64 (bits e 16 39 * 65536 + 256 * (t % 256) + e % 2))]
    | 10 =>
      let w := (s.fibre fb).word 0
      answer s [.s d (w64 (wbits w 48 4 + wbits w 52 4 * 2 ^ 4 + fb.toNat * 2 ^ 8))]
    | _ => answer s [.s d (f.word k)]

/-! ## Beams (R204) -/

def State.beam (s : State) (d n : Nat) : Option BeamSet := mget (s.die d).beams n
def BeamSet.slot (b : BeamSet) (i : Nat) : Word := b.slots[i]?.getD 0#64

/-- Byte i of the sources of a permute. -/
def beamSource (v : List Word) (i : Nat) : Nat := wbits (v[1 + i / 8]?.getD 0#64) (8 * (i % 8)) 8

/-- The checks of BEAMMAP that rest on its operands' values (R204).  The source byte of a slot at or above the width must be 0 or 0xFF (log
entry 99). -/
def beamBad (v : List Word) : Bool :=
  let v0 := v.headD 0#64
  let w := wbits v0 8 7
  w == 0 || decide (64 < w) ||
  (if v0.getLsbD 15 then decide (w ≤ wbits v0 16 6) || wbits v0 22 42 != 0
   else wbits v0 16 48 != 0 || (List.range 64).any fun i =>
    let b := beamSource v i
    b != 255 && (if i < w then decide (w ≤ b) else b != 0))

/-- The slots after a BEAMMAP. -/
def beamNew (v : List Word) (b : BeamSet) : Vector Word 64 :=
  let v0 := v.headD 0#64
  if v0.getLsbD 15 then b.slots.setIfInBounds (wbits v0 16 6) (v[1]?.getD 0#64)
  else Vector.ofFn fun i : Fin 64 =>
    if i.val < wbits v0 8 7 ∧ beamSource v i.val ≠ 255 then b.slot (beamSource v i.val) else 0#64

/-- Occurrences of a handle in a set. -/
def occurrences (l : Vector Word 64) (h : Word) : Int := (l.toList.countP (· == h) : Nat)

/-- The frames that lose, and those that gain, references as the slots of a set change (R204). -/
def beamLosers (old new : Vector Word 64) : List Word :=
  (old.toList.filter fun h => h != 0#64 && decide (occurrences new h < occurrences old h)).eraseDups
def beamGainers (old new : Vector Word 64) : List Word :=
  (new.toList.filter fun h => h != 0#64 && decide (occurrences old h < occurrences new h)).eraseDups


def State.performBeammap (s : State) (q : HomeReq) (v : List Word) : Answer :=
  let x := s.ctxOf q
  let d := dieOf q.tile
  let v0 := v.headD 0#64
  let n := wbits v0 0 8
  let h := if v0.getLsbD 15 then v[1]?.getD 0#64 else 0#64
  let hs := if h = 0#64 then [] else [h]
  match s.beam d n with
  | none => refuse s ((firstTrip [s.framesStale hs]).getD (trip codeSecurity))
  | some b =>
    let slots := beamNew v b
    let lose := beamLosers b.slots slots
    let gain := beamGainers b.slots slots
    match firstTrip [
        s.framesStale hs,
        failIf (b.ctx != x || hs.any fun h => (s.frameAt h).ctx != x) (trip codeSecurity),
        failIf (s.isSpoiled d 7 n || (hs ++ lose ++ gain).any s.frameSpoiled) (trip codePoison),
        failIf (beamBad v) (stack subBadSpan),
        if h = 0#64 then none else (s.frameAt h).shareTrip] with
    | some t => refuse s t
    | none =>
      let s := s.modDie d fun y => { y with beams := mput y.beams n { b with slots := slots } }
      let change (s : State) (h : Word) : State := s.addFrameCount h (occurrences slots h - occurrences b.slots h)
      answer (lose.foldl change (gain.foldl change s)) []

/-! ## The prefix table (R205–R208, R388) -/

def prefixReset : PrefixEnt := { gen := 0#16, w := Vector.replicate 4 0#64 }
def State.pfx (s : State) (x i : Nat) : PrefixEnt := (mget (s.ctx x).pfx i).getD prefixReset
def State.setPfx (s : State) (x i : Nat) (e : PrefixEnt) : State := s.modCtx x fun c => { c with pfx := mput c.pfx i e }
def PrefixEnt.word (e : PrefixEnt) (k : Nat) : Word := e.w[k]?.getD 0#64
def PrefixEnt.valid (e : PrefixEnt) : Bool := (e.word 3).getLsbD 0
def PrefixEnt.depth (e : PrefixEnt) : Nat := wbits (e.word 3) 16 11
def PrefixEnt.pins (e : PrefixEnt) : Nat := wbits (e.word 3) 32 16
def PrefixEnt.setPins (e : PrefixEnt) (n : Nat) : PrefixEnt := { e with w := e.w.setIfInBounds 3 (setBits (e.word 3) 32 16 n) }

/-- The frames a lookup may have to compare: those of the valid entries of its table. -/
def LookupJob.frames (j : LookupJob) : List Word := (j.table.filter (·.2.valid)).map (·.2.word 1)

/-- PFXLOOK (R207, R388): the lookup takes the table as it stands at its place; its future and the frames it may compare are
held until it is done (R22). -/
def State.performPfxlook (s : State) (q : HomeReq) (va b fut : Word) : Answer :=
  let x := s.ctxOf q
  match firstTrip [
      failIf (wbits va 0 2 != 0 || b == 0#64 || decide (1024 < b.toNat)) (trip codeIllegal),
      s.cellTrip x fut [.future],
      failIf ((s.cellAt fut).futureState != 0) (trip codeDoubleWrite)] with
  | some t => refuse s t
  | none =>
    let j : LookupJob := { ctx := x, va := va, b := b.toNat, fut := fut, table := (s.ctx x).pfx }
    let s := j.frames.foldl (fun s h => s.addFrameRef h) (s.addCellRef fut)
    answer { s with lookups := mput s.lookups s.seq j, seq := s.seq + 1 } []

def State.performPfxput (s : State) (q : HomeReq) (n frame hash depth : Word) : Answer :=
  let x := s.ctxOf q
  let named := frame != 0#64
  let i := n.toNat
  let e := s.pfx x i
  let f := s.frameAt frame
  let k := depth.toNat
  match firstTrip [
      failIf (named && wbits depth 11 53 != 0) (trip codeIllegal),
      if named then s.frameTrip x frame else none,
      failIf (decide (i ≤ 63) && (s.isSpoiled 0 5 (64 * x + i) || (e.valid && s.frameSpoiled (e.word 1)))) (trip codePoison),
      failIf (decide (63 < i)) (stack subBadSpan),
      failIf (e.pins != 0) (stack subBadSpan),
      failIf (named && (k == 0 || decide (1024 < k) || decide (f.tokens < 16 * k))) (stack subBadSpan),
      if named then f.shareTrip else none] with
  | some t => refuse s t
  | none =>
    let y := if named then s.pageOf (hDie frame) x f 0 0 else (s, .inr 0)
    let page := match y.2 with
      | .inr v => bits v 16 39 * 65536
      | .inl _ => 0
    let w3 := if named then 1 + k * 2 ^ 16 else 0
    let e' : PrefixEnt := { gen := e.gen + 1#16, w := #v[if named then hash else 0#64, frame, w64 page, w64 w3] }
    let s := (y.1.renew 0 5 (64 * x + i)).setPfx x i e'
    let s := if named then s.addFrameCount frame 1 else s
    answer (if e.valid then s.addFrameCount (e.word 1) (-1) else s) []

/-- R22 of a prefix-entry handle in a context's table, then POISON of the entry and of its frame (R365). -/
def State.pfxTrip (s : State) (x : Nat) (h : Word) : Option Trip :=
  firstTrip [failIf (!(handleForm h 5 64 && hDie h == 0 && (s.pfx x (hIndex h)).gen == hGen h)) (trip codeStale),
    failIf (s.isSpoiled 0 5 (64 * x + hIndex h)) (trip codePoison),
    failIf ((s.pfx x (hIndex h)).valid && s.frameSpoiled ((s.pfx x (hIndex h)).word 1)) (trip codePoison)]

def State.performPfxpin (s : State) (q : HomeReq) (h : Word) (d : Nat) : Answer :=
  let x := s.ctxOf q
  let e := s.pfx x (hIndex h)
  match firstTrip [s.pfxTrip x h, failIf (!e.valid || e.pins == 65535) (stack subBadSpan), (s.frameAt (e.word 1)).shareTrip] with
  | some t => refuse s t
  | none => answer ((s.setPfx x (hIndex h) (e.setPins (e.pins + 1))).addFrameCount (e.word 1) 1) [.s d (e.word 1)]

def State.performPfxunpin (s : State) (q : HomeReq) (h : Word) : Answer :=
  let x := s.ctxOf q
  let e := s.pfx x (hIndex h)
  match firstTrip [s.pfxTrip x h, failIf (e.pins == 0) (stack subBadSpan)] with
  | some t => refuse s t
  | none => answer ((s.setPfx x (hIndex h) (e.setPins (e.pins - 1))).addFrameCount (e.word 1) (-1)) []

end Sys2Proof.Machine
end

