-- ==== Sys2Proof/Machine/Runs.lean ====
section
/-!
DEFINITION. Sys2Proof/Machine/Runs.lean: the start of a run and of a resumed one (R77, R173, R184), what is written down when
a run ends (R173, R176, R183), and the retirement of a task (R163, R179, R180).
-/
namespace Sys2Proof.Machine

/-! ## What a continuation holds (R183) -/

/-- The live registers of a strand, ascending. -/
def liveVals (s : Vector Word 32) (mask : BitVec 32) : List Word := (onesOf mask.toNat 32).map fun i => s[i]?.getD 0#64

/-- w2 or w3: resume PC, PLATCH [71:64], PPV. -/
def resumeWord (pc : Word) (latch : BitVec 128) (ppv : Bool) : Word :=
  w64 (wbits pc 0 55 + bits latch.toNat 64 8 * 2 ^ 55 + b2n ppv * 2 ^ 63)

/-- PPV of a strand (R91). -/
def Regs.ppv (r : Regs) : Bool := r.st.getLsbD 9

/-- Values from w8 on; those beyond the record are lost (R215 flag 4). -/
def ContRec.setValues (c : ContRec) (l : List Word) : ContRec :=
  { c with w := Vector.ofFn fun i : Fin 24 => if 8 ≤ i.val then l[i.val - 8]?.getD 0#64 else c.word i.val }

/-- The record with the resume PCs, PLATCH, masks and live registers of both strands as they stand, then further values. -/
def ContRec.capture (c : ContRec) (t : Tile) (more : List Word) : ContRec :=
  let a := t.a.regs
  let e := t.e.regs
  let c := (c.setWord 2 (resumeWord a.pc a.platch a.ppv)).setWord 3 (resumeWord e.pc e.platch e.ppv)
  let c := c.setWord 4 (w64 (a.live.toNat + e.live.toNat * 2 ^ 32))
  let c := (c.setWord 6 (a.platch.extractLsb' 0 64)).setWord 7 (e.platch.extractLsb' 0 64)
  c.setValues (liveVals a.s a.live ++ liveVals e.s e.live ++ more)

/-- Live masks and completion-register mask of a record (R183). -/
def ContRec.maskA (c : ContRec) : BitVec 32 := (c.word 4).extractLsb' 0 32
def ContRec.maskE (c : ContRec) : BitVec 32 := (c.word 4).extractLsb' 32 32
def ContRec.cmask (c : ContRec) : Nat := wbits (c.word 0) 48 8

/-- The word that holds completion register r of the mask. -/
def ContRec.cslot (c : ContRec) (r : Nat) : Nat := 8 + popcount (c.word 4).toNat 64 + popcount c.cmask r

/-- The pending operations of a tile's completion registers that a mask names: number and register. -/
def State.pendingOps (s : State) (k mask : Nat) : List (Nat × Nat) :=
  (s.ops.filter fun p => p.2.tile == k && mask.testBit p.2.creg && (s.tile k).cstate p.2.creg == 1 && !p.2.spilled &&
      (s.tile k).run == some p.2.run).map
    fun p => (p.1, p.2.creg)

/-! ## The start of a run (R77, R173, R184) -/

/-- PXCTR of the member of rank r (R173). -/
def Fibre.counter (f : Fibre) (r : Nat) : BitVec 128 := BitVec.ofNat 128 ((f.word 2).toNat + (f.word 3).toNat * 2 ^ 64 + r * 2 ^ 120)

/-- A strand at a task's start (R77). -/
def Strand.fresh (pc : Word) (params : Nat → Word) : Strand :=
  { Strand.reset with phase := .run
                      regs := { Regs.reset with pc := pc, runPc := pc
                                                s := Vector.ofFn fun i : Fin 32 => if i.val < 8 then params i.val else 0#64 } }

/-- Register values spread over the registers a mask names, ascending. -/
def spread (mask : BitVec 32) (vals : List Word) : Vector Word 32 :=
  Vector.ofFn fun i : Fin 32 => if mask.getLsbD i.val then vals[popcount mask.toNat i.val]?.getD 0#64 else 0#64

/-- A strand at a resumption: its live registers, its resume PC, PLATCH and PPV (R77, R92, R184), st where the record restores
it (R218, R393). -/
def Strand.resumed (pcw latchLo : Word) (mask : BitVec 32) (vals : List Word) (st : BitVec 16) : Strand :=
  let latch : BitVec 128 := BitVec.ofNat 128 (latchLo.toNat + wbits pcw 55 8 * 2 ^ 64)
  let pc := w64 (wbits pcw 0 55)
  { Strand.reset with phase := .run
                      regs := { Regs.reset with pc := pc, runPc := pc - w64 (2 * plWords latch), platch := latch
                                                s := spread mask vals
                                                st := (st &&& 0x1FF#16) ||| (if pcw.getLsbD 63 then 0x200#16 else 0#16) } }

/-- Both strands of a resumed run: a delivering future's value comes after the live registers (R184). -/
def ContRec.strands (c : ContRec) : Strand × Strand :=
  let vals := (List.range 16).map fun i => c.word (8 + i)
  let n := popcount c.maskA.toNat 32
  let st := c.st.getD (0#16, 0#16)
  let a := Strand.resumed (c.word 2) (c.word 6) c.maskA vals st.1
  let e := Strand.resumed (c.word 3) (c.word 7) c.maskE (vals.drop n) st.2
  let w0 := c.word 0
  let put (x : Strand) : Strand := { x with regs := x.regs.sset (wbits w0 0 5) (c.word 5) }
  if c.kind = 3 ∧ w0.getLsbD 6 then (if w0.getLsbD 5 then (a, put e) else (put a, e)) else (a, e)

/-- Completion registers at a resumption: those a restart point recorded (R222, R393), else the masked ones, the others idle
(R182, R184). -/
def ContRec.cstart (c : ContRec) : Vector Word 8 :=
  match c.cregs with
  | some v => v
  | none => Vector.ofFn fun i : Fin 8 => if c.cmask.testBit i.val then c.word (c.cslot i.val) else 0#64

/-- A member tile at the start of a run: everything R77 resets, the fibre's sampling state, the code (R158). -/
def Tile.start (t : Tile) (run : Nat) (rank : Nat) (f : Fibre) (a e : Strand) (c : Vector Word 8) (px : Option (BitVec 128))
    (code : Bank) : Tile :=
  { t with
    run := some run, rank := rank, a := a, e := e, w := Vector.replicate 8 none, c := c
    v := Vector.replicate 28 0#2048, cb := Vector.replicate 4 0#256, fd := Vector.replicate 4 0#128
    ascale := ascaleReset, fplane := 0#64, pxseed := f.word 1, pxctr := px.getD (f.counter rank)
    lq := Vector.replicate 4 Queue.reset, sq := Vector.replicate 2 Queue.reset, mA := Port.reset, mB := Port.reset
    oqAE := OutQueue.reset, oqEA := OutQueue.reset, mx := Mx.reset, feedA := none, feedB := none, store := code
    arrived := false, jmptAt := none, point := none, checks := [], residue := none, poisonA := none, poisonE := none }

/-- A continuation that a task resumes: freed under R22, its reference gone (R184). -/
def State.useCont (s : State) (h : Word) : State :=
  let c := s.cont (hDie h) (hIndex h)
  let s := s.freeCont (hDie h) (hIndex h)
  if c.word 1 = 0#64 then s else s.dropTaskRef (c.word 1)

/-- A continuation out of the waiting lists that hold it: of an EMPTY future, by the links in w5 (R185), and of counters (R186). -/
def State.unlinkCont (s : State) (h : Word) : State :=
  let next := (s.cont (hDie h) (hIndex h)).word 5
  let cell (c : Cell) : Cell :=
    if c.kind == .future && c.futureState == 0 && c.w0 == h then { c with w0 := next }
    else if c.waiters.contains h then c.setWaiters (c.waiters.filter (· != h)) else c
  let cont (c : ContRec) : ContRec := if c.state == 1 && c.kind == 3 && !c.met && c.word 5 == h then c.setWord 5 next else c
  { s with dies := s.dies.map fun (y : Die) =>
      { y with cells := y.cells.map fun c => (c.1, cell c.2), conts := y.conts.map fun c => (c.1, cont c.2) } }

/-- The continuation that one strand's AWAIT-class ending has claimed is freed where the run ends by a trap or a cut instead (log
entry 81). -/
def State.dropClaim (s : State) (r : Run) : State :=
  match r.cont with
  | none => s
  | some (d, i) =>
    let h := s.contHandle d i
    (if (s.cont d i).kind = 3 ∨ (s.cont d i).kind = 4 then s.unlinkCont h else s).useCont h

/-- What a run that ends by a trap or a cut had recorded goes: its CHAIN, its RETT, the continuation it had claimed (R176, R179,
R384). -/
def State.dropRecorded (s : State) (r : Run) : State :=
  r.retts.foldl (fun s x => s.dropContRef x.1) ((s.dropChain r).dropClaim r)

/-- The run of a booked record, on its booking. -/
def TaskRec.runOn (t : TaskRec) (h : Word) (b : Booking) : Run :=
  { die := b.die, idx := b.idx, handle := h, ctx := t.ctx, fibre := t.fibre, mask := b.mask, origin := b.origin
    width := b.width, height := b.height, codeBase := t.codeBase, codeLen := t.codeLen, scratch := b.scratch
    chan := b.chan, chain := none, cont := none, awaitSide := none, retts := [], barrier := none, stop := none
    culprit := none, halting := false, haltAt := 0 }

/-- A run that goes on from a restart point goes on with the far channels of the run that made it: its markers, and its writes that are not
yet visible everywhere (R144, R152). -/
def State.carryOn (s : State) (old : Option Nat) (new : Nat) : State :=
  { s with fences := s.fences.map fun f => if old = some f.run then { f with run := new } else f
           writes := s.writes.map fun w => if old = some w.run then { w with run := new } else w }

/-- A BOOKED task starts on every member (R160 step 2, R163); with w7 nonzero it resumes its continuation (R184). -/
def State.startTask (s : State) (b : Booking) (code : Bank) : State :=
  let t := s.task b.die b.idx
  let h := s.taskHandle b.die b.idx
  let f := s.fibre t.fibre
  let run := s.seq
  let k7 := t.word 7
  let c := s.cont (hDie k7) (hIndex k7)
  let resume := k7 != 0#64
  let ae := if resume then c.strands
    else (Strand.fresh (t.word 2) fun i => t.word (8 + i), Strand.fresh (t.word 3) fun i => t.word (8 + i))
  let cs := if resume then c.cstart else Vector.replicate 8 0#64
  let px := if resume then c.pxctr else none
  let s := { s with runs := mput s.runs run (t.runOn h b), seq := s.seq + 1 }
  let s := b.members.zipIdx.foldl (fun s m => s.modTile m.1 fun y => y.start run m.2 f ae.1 ae.2 cs px code) s
  let s := if resume then
      let ops := s.ops.map fun p => if c.ops.any (·.1 == p.1) then (p.1, { p.2 with run := run }) else p
      ({ s with ops := ops }.carryOn c.from_ run).useCont k7
    else s
  s.modTask b.die b.idx fun t => (t.setState 5).setWord 7 0#64

/-! ## The end of a run -/

/-- Rank 0 writes its PXCTR back to the fibre record; of runs that end in one cycle the one with the highest task index
stands (R173), of two with one index the one that is performed later (log entry 110). -/
def State.writeBack (s : State) (r : Run) : State :=
  let x := (s.tile r.origin).pxctr
  s.modFibre r.fibre fun f =>
    if f.wrote.any fun w => w.1 == s.cycle && decide (r.idx < w.2) then f
    else { (f.setWord 2 (x.extractLsb' 0 64)).setWord 3 (x.extractLsb' 64 64) with wrote := some (s.cycle, r.idx) }

/-- A member tile after the run: no strand, no queue, no command, no feed; scratch units with a granule in flight are held
(R73, R163). -/
def Tile.leave (t : Tile) (r : Run) : Tile :=
  let x := t.field
  { t with run := none, a := { t.a with phase := .off, verdicts := [], undo := none, home := none, waitb := false, restart := none, zerof := none }
           e := { t.e with phase := .off, verdicts := [], undo := none, home := none, waitb := false, restart := none, zerof := none }
           lq := Vector.replicate 4 Queue.reset, sq := Vector.replicate 2 Queue.reset, mA := Port.reset, mB := Port.reset
           oqAE := OutQueue.reset, oqEA := OutQueue.reset, mx := Mx.reset, feedA := none, feedB := none, arrived := false
           jmptAt := none, point := none, poisonA := none, poisonE := none
           field := Field.settle { x with held := (List.range' r.scratch.1 r.scratch.2).foldl ins x.held } }

/-- The run is over: PXCTR written back, members released, the booking's furrows freed from the next boundary on (R164). -/
def State.closeRun (s : State) (id : Nat) (r : Run) : State :=
  let s := s.writeBack r
  let s := r.members.foldl (fun s k => s.modTile k (·.leave r)) s
  { s with runs := mdel s.runs id
           bookings := s.bookings.map fun b => if b.die = r.die ∧ b.idx = r.idx ∧ b.started then { b with gone := true } else b }

/-- A failed arming or signal at the end of a run: its code and handle in the fibre's trap-save area (R179, R180, R380), which for a gang is
that of its origin tile (log entry 106).  The write makes a granule that could not be rebuilt readable (log entry 105). -/
def State.recordFailure (s : State) (r : Run) (code : BitVec 8) (h : Word) : State :=
  let f := wbits ((s.fibre r.fibre).word 6) 0 22
  let t := s.tile r.origin
  if t.inLease r.fibre f 8192 then
    s.setTile r.origin (((t.sbFlush s.cycle).bankWrite (f + 4) 2 code.toNat).bankWrite (f + 0x18) 8 h.toNat)
  else s

/-- The recorded CHAIN is no longer in flight and is armed (R176, R179). -/
def State.armChain (s : State) (r : Run) : State :=
  match r.chain with
  | none => s
  | some h =>
    match (s.dropTaskRef h).arm r.ctx h with
    | (s, some t) => s.recordFailure r t.1 h
    | (s, none) => s

/-- The successor is signalled (R180). -/
def State.signalSuccessor (s : State) (r : Run) : State :=
  let h := (s.task r.die r.idx).word 6
  if h = 0#64 then s
  else match s.signal r.ctx h with
    | (s, some t) => s.recordFailure r t.1 h
    | (s, none) => s

/-! ## Continuations that are resumed (R184, R218) -/

/-- The save image's values over a continuation: resume PCs, PLATCH and PPV, st, and the live registers of w4 (R218). -/
def ContRec.reload (c : ContRec) (img : List Byte) : ContRec :=
  let st (a : Nat) : BitVec 16 := (imageWord img (a + 8)).extractLsb' 0 16
  let pcw (a : Nat) : Word :=
    let w := imageWord img a
    w64 (wbits w 0 55 + wbits (imageWord img (a + 24)) 0 8 * 2 ^ 55 + wbits w 63 1 * 2 ^ 63)
  let regs (a : Nat) (mask : BitVec 32) : List Word := (onesOf mask.toNat 32).map fun i => imageWord img (a + 8 * i)
  let n := popcount (c.word 4).toNat 64
  let rest := (List.range (16 - n)).map fun i => c.word (8 + n + i)
  let c := { c with st := some (st 0x40, st 0x60) }
  let c := (c.setWord 2 (pcw 0x40)).setWord 3 (pcw 0x60)
  let c := (c.setWord 6 (imageWord img 0x50)).setWord 7 (imageWord img 0x70)
  c.setValues (regs 0x80 c.maskA ++ regs 0x180 c.maskE ++ rest)

/-- A continuation becomes READY and its task record is armed with arm count 0 (R184); one whose w1 is 0 is freed (R219,
R384). -/
def State.resumeCont (s : State) (h : Word) : State :=
  let c := s.cont (hDie h) (hIndex h)
  if c.word 1 = 0#64 then s.freeCont (hDie h) (hIndex h)
  else
    let s := s.setCont (hDie h) (hIndex h) (c.setState 2)
    let k := c.word 1
    if (s.taskAt k).state = 1 ∧ s.taskOk k then
      (s.putTaskAt k ((s.taskAt k).setWord 7 h)).armWith (hDie k) (hIndex k) 0
    else s

/-- The returns of a handler's RETT, performed when its run ends; they are no longer in flight (R22, R218, R384). -/
def State.performReturns (s : State) (r : Run) : State :=
  r.retts.foldl (fun s x =>
    let h := x.1
    let s := s.dropContRef h
    if s.contOk h && (s.cont (hDie h) (hIndex h)).state == 3 then
      let s := match x.2 with
        | some img => s.modCont (hDie h) (hIndex h) (·.reload img)
        | none => s
      s.resumeCont h
    else s) s

/-! ## Retirement (R163, R179, R180) -/

/-- Have both strands of every member ended? -/
def State.allEnded (s : State) (r : Run) : Bool := r.members.all fun k => (s.tile k).a.hasEnded && (s.tile k).e.hasEnded

/-- No result outstanding, the MX idle, every residue check complete (R268, R319, R391). -/
def Tile.drained (t : Tile) (now : Nat) : Bool :=
  t.a.regs.out.isEmpty && t.e.regs.out.isEmpty && t.mx.idle && (t.checks.all fun c => decide (c ≤ now)) && t.residue.isNone

/-- The rebuild futures a state-5 register of an AWAIT waits for (R209). -/
def State.rebuildFutures (s : State) (x : Nat) : List Word := (s.rebuilds.filter fun j => j.2.ctx == x).map (·.2.fut)

/-- The continuation of a run that ended by AWAIT: its values, its pending operations; the record is CLAIMED with w7 naming it
(R176, R183).  `held`: a deferred PREEMPT or BAND lets it become READY only when the context runs again (R222). -/
def State.endByAwait (s : State) (r : Run) (d i : Nat) (held : Bool) : State :=
  let t := s.tile r.origin
  let c := s.cont d i
  let ms := onesOf c.cmask 8
  let ops := s.pendingOps r.origin c.cmask
  let more := ms.map fun n => t.cget n
  let waits := if ms.any fun n => t.cstate n == 5 then s.rebuildFutures r.ctx else []
  let c := { c.capture t more with ops := ops, held := held, rebuild := waits, met := if c.kind = 1 then ops.isEmpty else c.met }
  let s := s.setCont d i c
  s.modTask r.die r.idx fun t => (t.setState 1).setWord 7 (mkHandle 2 c.gen d i)

/-- Does a stop keep a task whose strands have all ended from retiring?  A failed residue check does (R268); an asynchronous event does not: no
strand is left to act on it, and it does not arise, is dropped, or acts on the continuation (R213). -/
def Run.stopHolds (r : Run) : Bool := r.stop == some .residue

/-- TASK_RETIRE (R163, R180): the run of a task whose strands have all ended, once drained, ends by END or by AWAIT.  POISON that a feed or
the MX has met is taken first (R212). -/
def execTaskRetire (id : Nat) (s : State) : Result :=
  match s.run id with
  | none => .next s
  | some r =>
    let poison := r.members.any fun k => (s.tile k).poisonA.isSome || (s.tile k).poisonE.isSome
    if !s.allEnded r || r.stopHolds || poison || r.culprit.isSome || !(r.members.all fun k => (s.tile k).drained s.cycle) then .next s
    else
      let s := match r.cont with
        | some (d, i) => s.endByAwait r d i (r.stop == some StopWhy.preempt || r.stop == some StopWhy.band)
        | none => s.modTask r.die r.idx fun t => t.setState 6
      let s := s.closeRun id r
      let s := if r.cont.isNone then s.signalSuccessor r else s
      .next ((s.armChain r).performReturns r)

end Sys2Proof.Machine
end

