-- ==== Sys2Proof/Machine/Delivery.lean ====
section
/-!
DEFINITION. Sys2Proof/Machine/Delivery.lean: how the strands of a run stop (R211, R213, R398), the delivery of a trap (R214–R216),
LANDING-OVERFLOW (R219), cuts (R222, R268), the final states of operations that outlive their run (R182, R214, R222), and the
readying of continuations (R184).  A strand's own stop is `Tile.takeTrap` of Machine/Ops.lean; the return from a trap is
`State.performReturns` of Machine/Runs.lean.
-/
namespace Sys2Proof.Machine

/-! ## Stopping (R211, R213, R398) -/

/-- The trap a strand has stopped with. -/
def Strand.trapOf (x : Strand) : Option TrapInfo :=
  match x.phase with
  | .trapped t => some t
  | _ => none

/-- Is the strand at an instruction boundary: no verdict outstanding, not inside a home-unit instruction (R398)? -/
def Strand.atBoundary (x : Strand) : Bool := x.phase == .run && x.verdicts.isEmpty && x.home.isNone

/-- May the strand take the POISON of its pipes now: at a boundary, or at once where it has ended (R212)? -/
def Strand.takesPoison (x : Strand) : Bool := x.atBoundary || x.hasEnded

/-- Both strands of every member of a run, in rank order, A before E. -/
def Run.strands (r : Run) : List (Nat × Side) := r.members.flatMap fun k => [(k, .a), (k, .e)]

/-- The POISON that a feed or the MX has met for a strand, taken at its boundary (R212): trap PC and address; it resumes at
its restart point where one is recorded, else at its next unissued word. -/
def Tile.pipeTrap (t : Tile) (σ : Side) : Option TrapInfo :=
  (match σ with | .a => t.poisonA | .e => t.poisonE).map fun (x : Word × Word) =>
    { code := codePoison, sub := 0#8, pc := x.1, addr := x.2, kind := 3#4, resume := (t.regs σ).pc, sync := true
      atRestart := t.point.isSome, debug := false }

/-- The strand stops at this boundary: with the POISON its pipes met, or without a trap of its own. -/
def Tile.stopAt (t : Tile) (σ : Side) : Tile :=
  match t.pipeTrap σ with
  | some i =>
    let x := t.strand σ
    t.setStrand σ { x with phase := .trapped i, restart := none, zerof := none, waitb := false }
  | none => t.takeStop σ

/-- Every strand of the run that is at a boundary stops, but those `keep` names; one that has ended takes the POISON of its pipes. -/
def State.stopStrands (s : State) (r : Run) (keep : Nat → Side → Bool) : State :=
  r.strands.foldl (fun s x =>
    let y := (s.tile x.1).strand x.2
    if (y.atBoundary || (y.hasEnded && ((s.tile x.1).pipeTrap x.2).isSome)) && !keep x.1 x.2 then s.modTile x.1 (·.stopAt x.2) else s) s

/-- Has a strand taken a trap, or has the verdict of one fallen that still waits for earlier verdicts (R90, R212; log
entry 51)? -/
def Strand.tripped (x : Strand) (now : Nat) : Bool :=
  x.trapOf.isSome || x.verdicts.any fun v => v.fail.isSome && decide (v.due ≤ now)

/-- The trap that is delivered among those of this cycle: a trap before a debug stop (R241), then the lowest rank, A before
E (R213). -/
def State.culpritOf (s : State) (r : Run) : Option (Nat × Side) :=
  let bad := r.strands.filter fun x => ((s.tile x.1).strand x.2).tripped s.cycle
  match bad.find? fun x => !((((s.tile x.1).strand x.2).trapOf.map (·.debug)).getD false) with
  | some x => some x
  | none => bad.head?

/-- MX commands that have not started are discarded, and their results are no longer outstanding (R211, R359). -/
def Tile.dropCommands (t : Tile) : Tile :=
  let ids := t.mx.queue.map (·.id)
  ({ t with mx := { t.mx with queue := [] } } : Tile).modRegs .e fun r =>
    { r with out := r.out.filter fun p => !(p.due.isNone && ids.contains p.cmd) }

/-- Does the furrow that ends with this cycle end a run's booking? -/
def State.lastCycle (s : State) (r : Run) : Bool :=
  decide (s.cycle % 256 = 255) && s.bookings.any fun b =>
    b.die == r.die && b.idx == r.idx && b.started && !b.gone && decide (b.stop ≤ s.furrow + 1)

/-- The end of a cycle: a trap taken in it is noted, MX commands that have not started are discarded, and the other strands
stop at their boundaries (R211).  An asynchronous stop is under way once a strand has acted on it; the others act on it at their own
boundaries, before the issues of a cycle (R213, log entry 114). -/
def State.settleStops (s : State) (id : Nat) : State :=
  match s.run id with
  | none => s
  | some r =>
    let c := match r.culprit with
      | some c => some c
      | none => s.culpritOf r
    let acted := r.stop == some .residue || s.lastCycle r || r.strands.any fun x => ((s.tile x.1).strand x.2).phase == .stopped
    if c.isNone && !acted then s
    else
      let at_ := if (c.isSome && r.culprit.isNone) || !r.halting then s.cycle else r.haltAt
      let s := s.modRun id fun r => { r with culprit := c, halting := true, haltAt := at_ }
      let s := r.members.foldl (fun s k => s.modTile k (·.dropCommands)) s
      s.stopStrands r fun k σ => c.isNone && !((s.tile k).strand σ).hasEnded

/-- The order of the asynchronous events that meet in one cycle (R213); a failed residue check comes first (R268). -/
def StopWhy.rank : StopWhy → Nat
  | .residue => 0
  | .overrun => 1
  | .preempt => 2
  | .teardown => 2
  | .band => 3

/-- A run is to stop for a reason: an earlier one stands, unless it ranks lower and no strand has acted on it (R213). -/
def State.setStop (s : State) (id : Nat) (w : StopWhy) : State :=
  s.modRun id fun r =>
    if r.stop.all fun x => decide (w.rank < x.rank) && r.strands.all fun y => ((s.tile y.1).strand y.2).phase != .stopped then
      { r with stop := some w }
    else r

/-! ## The trap save (R215) -/

/-- Bytes of a list of words. -/
def wordsNum (l : List Word) : Nat := l.foldr (fun w acc => w.toNat + 2 ^ 64 * acc) 0

/-- The registers as the trap save holds them: as they stood at the trap, PLATCH and PPV among them, with the PC of the restart point where
the trap resumes there (R92, R210, R215, R393). -/
def Regs.resumeAt (r : Regs) (point : Option Word) : Regs := { r with pc := point.getD r.pc }

/-- The strand state at 0x0040 or 0x0060: 32 bytes. -/
def Regs.saveState (r : Regs) : Nat :=
  (wbits r.pc 0 55 + b2n r.ppv * 2 ^ 63) + r.st.toNat * 2 ^ 64 + r.preds.toNat * 2 ^ 80 + r.loops.length * 2 ^ 88 +
    r.platch.toNat * 2 ^ 128

/-- Four loop entries, outermost first: offsets from the code base, register, valid. -/
def Regs.saveLoops (r : Regs) (base : Nat) : Nat :=
  wordsNum ((List.range 4).map fun i =>
    match r.loops.reverse[i]? with
    | some x => w64 ((x.start.toNat - base) % 65536 + (x.stop.toNat - base) % 65536 * 2 ^ 16 + x.l * 2 ^ 32 + 2 ^ 63)
    | none => 0#64)

/-- A walker's indices; 0 where it is not set. -/
def walkerWord (w : Option Walker) : Word :=
  match w with
  | some x => w64 ((List.range 4).foldl (fun a i => a + (x.idx[i]?.getD 0#16).toNat * 2 ^ (16 * i)) 0)
  | none => 0#64

/-- Entries of an outcome queue, the oldest at the low bit. -/
def OutQueue.word (q : OutQueue) : Nat := (q.ents.zipIdx).foldl (fun a x => a + b2n x.1.1 * 2 ^ x.2) 0

/-- The header of a save: code, subcode, flags, second code, kind, trap PC, address, task, continuation, furrow. -/
structure SaveHead where
  code   : BitVec 8
  sub    : BitVec 8
  flags  : Nat
  second : Nat
  kind   : Nat
  pc     : Word
  addr   : Word
  task   : Word
  cont   : Word
  furrow : Nat
  deriving DecidableEq, Repr

/-- The 8 KiB of a save, as a number; `point`: the restart point that the strands resume at. -/
def Tile.saveBytes (t : Tile) (h : SaveHead) (now base : Nat) (point : Option RestartPt) : Nat :=
  let w0 := h.code.toNat + h.sub.toNat * 2 ^ 8 + h.flags * 2 ^ 16 + h.second * 2 ^ 32 + h.kind * 2 ^ 48
  let head := wordsNum [w64 w0, h.pc, h.addr, h.task, h.cont, w64 h.furrow, t.queueCounts now,
    w64 (t.oqAE.word + t.oqEA.word * 2 ^ 16)]
  head + (t.a.regs.resumeAt (point.map (·.pcA))).saveState * 2 ^ (8 * 0x40) +
    (t.e.regs.resumeAt (point.map (·.pcE))).saveState * 2 ^ (8 * 0x60) +
    wordsNum t.a.regs.s.toList * 2 ^ (8 * 0x80) + wordsNum t.e.regs.s.toList * 2 ^ (8 * 0x180) +
    wordsNum t.a.regs.l.toList * 2 ^ (8 * 0x280) + wordsNum t.e.regs.l.toList * 2 ^ (8 * 0x2C0) +
    wordsNum t.c.toList * 2 ^ (8 * 0x300) +
    (t.fd.toList.foldr (fun w acc => w.toNat + 2 ^ 128 * acc) 0) * 2 ^ (8 * 0x340) +
    wordsNum (t.w.toList.map walkerWord) * 2 ^ (8 * 0x380) +
    (t.a.regs.saveLoops base + t.e.regs.saveLoops base * 2 ^ 256) * 2 ^ (8 * 0x3C0) +
    (t.v.toList.foldr (fun w acc => w.toNat + 2 ^ 2048 * acc) 0) * 2 ^ (8 * 0x400)

/-! ## Arming a handler (R214 step 6, R216) -/

/-- The field address of a fibre's trap save (R172). -/
def Fibre.saveAt (f : Fibre) : Nat := wbits (f.word 6) 0 22

/-- The fibre's handler is patched and armed; where it cannot be, the service core of the tile's quadrant reports a fibre
fault (R216). -/
def State.armHandler (s : State) (h : Handler) : State :=
  let k := (s.fibre h.fibre).word 4
  let fault (s : State) : State := s.send (.fibreFault (coreOf h.origin) h.w8 h.w9 h.w10 h.w11)
  if k = 0#64 ∨ k = h.self ∨ (s.taskTrip h.ctx k).isSome ∨ (s.taskAt k).state ≠ 1 ∨ s.fibreSpoiled h.fibre then fault s
  else
    let t := s.taskAt k
    let t := (((t.setWord 8 h.w8).setWord 9 h.w9).setWord 10 h.w10).setWord 11 h.w11
    let t := if h.place then t.setWord 0 (setBits (setBits (t.word 0) 35 10 h.origin) 45 1 0) else t
    match (s.putTaskAt k t).arm h.ctx k with
    | (s, some _) => fault s
    | (s, none) => s

/-- A handler is owed for a trapped task (R214 step 5). -/
def State.oweHandler (s : State) (h : Handler) : State := { s with handlers := mput s.handlers s.seq h, seq := s.seq + 1 }

/-- HANDLER_ARM (R214): once every operation that was pending at the trap has completed. -/
def execHandlerArm (id : Nat) (s : State) : Result :=
  match mget s.handlers id with
  | none => .next s
  | some h =>
    if h.ops.any fun o => (mget s.ops o).isSome then .next s
    else
      let s := { s with handlers := mdel s.handlers id }
      .next (if h.debug then s else s.armHandler h)

/-! ## LANDING-OVERFLOW (R47, R219) -/

/-- Tries to deliver a LANDING-OVERFLOW of a tile's counter to a fibre; with no free continuation it is held on the fibre, and
one that meets a held one is merged into it. -/
def State.overflow (s : State) (fb : BitVec 16) (k a : Nat) : State :=
  match s.claimCont (dieOf k) with
  | none => s.modFibre fb fun f => { f with held := some (f.held.getD (k, a)) }
  | some (i, s) =>
    let d := dieOf k
    let s := s.modFibre fb fun f => { f with held := none }
    let x := wbits ((s.fibre fb).word 0) 56 4
    let s := s.modCont d i fun c =>
      { (c.setWord 0 (w64 (3 * 2 ^ 60 + 5 * 2 ^ 56 + k * 2 ^ 37 + codeOverflow.toNat))).setWord 5 (w64 (k * 2 ^ 32 + a)) with ctx := some x }
    s.armHandler
      { fibre := fb, ctx := x, ops := [], w8 := s.contHandle d i, w9 := w64 (codeOverflow.toNat + k * 2 ^ 17), w10 := 0#64
        w11 := w64 a, origin := k, saveAt := 0, saved := [], self := 0#64, debug := false, place := true }

/-- A new LANDING-OVERFLOW: merged where the fibre already holds one. -/
def State.raiseOverflow (s : State) (fb : BitVec 16) (k a : Nat) : State :=
  if (s.fibre fb).held.isSome then s else s.overflow fb k a

/-! ## Final states (R182, R214, R222) -/

/-- The final state of an operation that was pending when the restart point was made replaces its snapshot (R222, R393). -/
def RestartPt.finish (p : RestartPt) (o : Op) (v : Word) : RestartPt :=
  if o.seq < p.opMark then { p with c := p.c.setIfInBounds o.creg v } else p

/-- A completion register's final value reaches the running task's register and its restart point. -/
def State.finishRun (s : State) (o : Op) (v : Word) : State :=
  if (s.tile o.tile).run = some o.run then
    s.modTile o.tile fun t => { t.cset o.creg v with point := t.point.map (·.finish o v) }
  else s

/-- It reaches a continuation that waits for it or carries it (R182, R222). -/
def ContRec.finish (c : ContRec) (id creg : Nat) (v : Word) (futs : List Word) : ContRec :=
  if c.ops.any (·.1 == id) then
    let ops := c.ops.filter (·.1 != id)
    let c := { c with ops := ops, cregs := c.cregs.map fun (y : Vector Word 8) => y.setIfInBounds creg v }
    let c := if c.cmask.testBit creg then c.setWord (c.cslot creg) v else c
    let c := if wbits v 60 4 = 5 ∧ c.kind = 1 then { c with rebuild := futs } else c
    if c.kind = 1 ∧ ops.isEmpty then { c with met := true } else c
  else c

/-- It replaces the pending value in the trap save of a handler that waits for it (R214 step 5). -/
def State.finishSave (s : State) (h : Handler) (id : Nat) (o : Op) (v : Word) : State :=
  if h.ops.contains id ∧ h.saved.contains o.tile then
    s.modTile o.tile fun t => t.bankWrite (h.saveAt + 0x300 + 8 * o.creg) 8 v.toNat
  else s

/-- An operation has completed with a final register value: it leaves the machine, and its value goes to the one that waits
for it. -/
def State.finishOp (s : State) (id : Nat) (o : Op) (v : Word) : State :=
  let s := { s with ops := mdel s.ops id }
  let s := s.finishRun o v
  let futs := s.rebuildFutures o.ctx
  let s := (List.range 4).foldl (fun s d => s.modDie d fun y =>
    if y.conts.any fun c => c.2.ops.any (·.1 == id) then
      { y with conts := y.conts.map fun c => (c.1, c.2.finish id o.creg v futs) }
    else y) s
  s.handlers.foldl (fun s h => s.finishSave h.2 id o v) s

/-! ## The end of a run by a trap or a cut (R214, R222, R268) -/

/-- Operations of a run that are still pending. -/
def State.opsOfRun (s : State) (id : Nat) : List (Nat × Op) := s.ops.filter fun p => p.2.run == id && !p.2.spilled

/-- A cancelled operation whose report nobody takes: its run is gone (R222). -/
def State.discardOps (s : State) (ids : List Nat) : State :=
  { s with ops := s.ops.map fun p => if ids.contains p.1 then (p.1, p.2.cancelled) else p }

/-- The record of a continuation that resumes at a restart point (R222, R393): its PCs, masks, registers, st, PXCTR and
completion registers, and the operations pending since before it. -/
def ContRec.atPoint (c : ContRec) (p : RestartPt) (ops : List (Nat × Nat)) : ContRec :=
  let c := (c.setWord 2 (w64 (wbits p.pcA 0 55))).setWord 3 (w64 (wbits p.pcE 0 55))
  let c := c.setWord 4 (w64 (p.maskA.toNat + p.maskE.toNat * 2 ^ 32))
  let c := c.setValues (liveVals p.sA p.maskA ++ liveVals p.sE p.maskE)
  { c with st := some (p.stA, p.stE), pxctr := some p.pxctr, cregs := some p.c, ops := ops }

/-- The record of a continuation that resumes at a task's entry PCs with its parameters (R268). -/
def ContRec.atEntry (c : ContRec) (t : TaskRec) : ContRec :=
  let ps := (List.range 8).map fun i => t.word (8 + i)
  let c := ((c.setWord 2 (t.word 2)).setWord 3 (t.word 3)).setWord 4 (w64 (255 + 255 * 2 ^ 32))
  c.setValues (ps ++ ps)

/-- w0 of a kind-5 continuation: state, pin, code and subcode in its wait value (R183, R214). -/
def trapWord0 (state : Nat) (pinned : Bool) (k : Nat) (code sub : BitVec 8) : Word :=
  w64 (state * 2 ^ 60 + 5 * 2 ^ 56 + b2n pinned * 2 ^ 47 + k * 2 ^ 37 + code.toNat + sub.toNat * 2 ^ 8)

/-- What is delivered: code, subcode, trap PC, address, kind, whether it resumes at a recorded restart point, whether it is a
debug stop. -/
def State.delivered (s : State) (r : Run) : TrapInfo :=
  match r.culprit.bind fun c => ((s.tile c.1).strand c.2).trapOf with
  | some i => i
  | none =>
    let code := match r.stop with
      | some .overrun => codeOverrun
      | some .band => codeBand
      | _ => codePreempt
    { code := code, sub := 0#8, pc := 0#64, addr := 0#64, kind := 0#4, resume := 0#64, sync := false, atRestart := true
      debug := false }

/-- The second code (R213, R241): of the other strand on the delivered trap's tile. -/
def State.secondOf (s : State) (r : Run) : Nat :=
  match r.culprit with
  | none => 0
  | some (k, σ) =>
    match ((s.tile k).strand (sideOther σ)).trapOf with
    | some i => i.code.toNat + i.sub.toNat * 2 ^ 8
    | none => 0

/-- Flags of a tile's save (R215). -/
def Tile.saveFlags (t : Tile) (truncated atPoint : Bool) : Nat :=
  b2n t.a.trapOf.isSome + 2 * b2n t.e.trapOf.isSome + 4 * b2n t.a.hasEnded + 8 * b2n t.e.hasEnded + 16 * b2n truncated +
    32 * b2n atPoint

/-- The trap save of every member whose fibre's lease covers it (R214 step 2, R216): the state with the saves written, and
the tiles that hold one. -/
def State.writeSaves (s : State) (r : Run) (i : TrapInfo) (cont : Word) (truncated : Bool) (point : Option RestartPt) : State × List Nat :=
  let f := (s.fibre r.fibre).saveAt
  let second := s.secondOf r
  r.members.foldl (fun acc k =>
    let t := acc.1.tile k
    if t.inLease r.fibre f 8192 && f % 8192 == 0 then
      let head : SaveHead :=
        { code := i.code, sub := i.sub, flags := t.saveFlags truncated point.isSome, second := second, kind := i.kind.toNat
          pc := i.pc, addr := i.addr, task := r.handle, cont := cont, furrow := r.haltAt / 256 }
      (acc.1.setTile k ((t.sbFlush s.cycle).bankWrite f 8192 (t.saveBytes head s.cycle r.codeBase point)), acc.2 ++ [k])
    else acc) (s, [])

/-- The continuation of a trapped run (R214 step 3): of a 1 × 1 gang only, if a record is free (R216). -/
def State.trapCont (s : State) (id : Nat) (r : Run) (i : TrapInfo) (point : Option RestartPt) : State × Word × Bool :=
  if r.gang then (s, 0#64, false)
  else match s.claimCont (dieOf r.origin) with
    | none => (s, 0#64, false)
    | some (j, s) =>
      let d := dieOf r.origin
      let t := s.tile r.origin
      let pinned := (s.task r.die r.idx).pinned
      let s := (s.modCont d j fun c =>
        let c := (c.setWord 0 (trapWord0 3 pinned r.origin i.code i.sub)).setWord 1 r.handle
        match point with
        | some p =>
          { c.atPoint p (((s.opsOfRun id).filter fun o => decide (o.2.seq < p.opMark)).map fun o => (o.1, o.2.creg)) with from_ := some id }
        | none => c.capture t []).addTaskRef r.handle
      (s, s.contHandle d j, point.isNone && decide (16 < t.liveCount))

/-- Does the running command want entries of a port that no feed supplies? -/
def Tile.starved (t : Tile) : Bool :=
  match t.mx.run with
  | none => false
  | some x =>
    let n := match x.cmd.op with
      | .mma scaled _ _ fa fb _ => mmaPops scaled fa fb x.done
      | .attn _ _ _ _ => if x.done < 64 then (2 * x.done + 2 - x.ea.length, 0) else (0, 0)
      | _ => (0, 0)
    (decide (t.mA.ents.length < n.1) && t.mA.flight.isEmpty && t.feedA.isNone) ||
      (decide (t.mB.ents.length < n.2) && t.mB.flight.isEmpty && t.feedB.isNone)

/-- With both strands stopped, does the MX hold for good: a push waits for room that no pop makes, or the running command for
entries that no feed brings? -/
def Tile.mxStuck (t : Tile) (now : Nat) : Bool :=
  (t.mx.owed.any fun o => decide (28 ≤ o.d) && decide (o.due ≤ now) && !(t.sqget (o.d - 28)).room (now + 1)) ||
    (t.mx.owed.isEmpty && t.starved)

/-- Have the instructions of stopped strands completed and their results landed, so that the save may be written: started MX
commands too, but for one that holds for good (R211)? -/
def Tile.landed (t : Tile) (now : Nat) : Bool :=
  t.a.regs.out.isEmpty && (t.e.regs.out.all fun p => p.due.isNone) && t.mx.flags.isEmpty &&
  (t.mxStuck now || (t.mx.run.isNone && t.mx.owed.isEmpty))

/-- A trap is delivered: save, continuation, record, and the handler owed (R214 steps 2 to 6). -/
def State.deliver (s : State) (id : Nat) (r : Run) : State :=
  let i := s.delivered r
  let point := if i.atRestart ∧ !r.gang then (s.tile r.origin).point else none
  let y := s.trapCont id r i point
  let cont := y.2.1
  let z := y.1.writeSaves r i cont y.2.2 point
  let s := z.1
  let k := (r.culprit.map (·.1)).getD r.origin
  let ops := (s.opsOfRun id).map (·.1)
  let s := s.modTask r.die r.idx fun t => (t.setState 1).setWord 7 cont
  let s := (s.dropRecorded r).closeRun id r
  let w9 := i.code.toNat + i.sub.toNat * 2 ^ 8 + b2n (z.2.contains k) * 2 ^ 16 + k * 2 ^ 17
  s.oweHandler
    { fibre := r.fibre, ctx := r.ctx, ops := ops, w8 := cont, w9 := w64 w9, w10 := r.handle, w11 := i.addr, origin := k
      saveAt := (s.fibre r.fibre).saveAt, saved := z.2, self := r.handle, debug := i.debug
      place := true }

/-- A cut (R222, R268): no save, no handler; the continuation resumes at the restart point or, for a re-execution without one,
at the entry PCs; what was issued after the point, the markers of fences among it, goes, since it is issued again (R152).  `redo`: a failed residue check, whose continuation is READY at once. -/
def State.cutRun (s : State) (id : Nat) (r : Run) (redo : Bool) : State :=
  let t := s.tile r.origin
  let d := dieOf r.origin
  let ops := s.opsOfRun id
  let late := (ops.filter fun o => (s.tile o.2.tile).point.all fun p => decide (p.opMark ≤ o.2.seq)).map (·.1)
  let s := (s.discardOps late).dropRecorded r
  let s := { s with fences := s.fences.filter fun f => !(f.run == id && ((s.tile f.tile).point.all fun (p : RestartPt) => decide (p.opMark ≤ f.seq))) }
  let keep := (ops.filter fun o => !late.contains o.1).map fun o => (o.1, o.2.creg)
  if r.gang then
    let s := s.modTask r.die r.idx fun t => (t.setState 1).setWord 7 0#64
    let s := s.closeRun id r
    if redo then s.armWith r.die r.idx 0 else s
  else match s.claimCont d with
    | none => (s.modTask r.die r.idx fun t => (t.setState 1).setWord 7 0#64).closeRun id r
    | some (j, s) =>
      let rec_ := s.task r.die r.idx
      let s := (s.modCont d j fun c =>
        let c := (c.setWord 0 (trapWord0 1 rec_.pinned r.origin codePreempt 0#8)).setWord 1 r.handle
        let c := match t.point with
          | some p => { c.atPoint p keep with from_ := some id }
          | none => c.atEntry rec_
        { c with met := true, held := !redo }).addTaskRef r.handle
      (s.modTask r.die r.idx fun y => (y.setState 1).setWord 7 (s.contHandle d j)).closeRun id r

/-- A task that cannot be cut is stopped by a teardown: no save, no handler (R232). -/
def State.stopRun (s : State) (id : Nat) (r : Run) : State :=
  let s := (s.discardOps ((s.opsOfRun id).map (·.1))).dropRecorded r
  (s.modTask r.die r.idx fun t => (t.setState 1).setWord 7 0#64).closeRun id r

/-- No strand of the run issues any more. -/
def State.allStopped (s : State) (r : Run) : Bool :=
  r.strands.all fun x => ((s.tile x.1).strand x.2).phase != .run

/-- TRAP_DELIVERY (R214): once every strand has stopped and what lands has landed. -/
def execTrapDelivery (id : Nat) (s : State) : Result :=
  match s.run id with
  | none => .next s
  | some r =>
    if !r.halting || !s.allStopped r || !(r.members.all fun k => (s.tile k).landed s.cycle) then .next s
    else if r.culprit.isSome then .next (s.deliver id r)
    else if s.allEnded r ∧ r.stop ≠ some StopWhy.overrun ∧ r.stop ≠ some StopWhy.residue then .next s
    else match r.stop with
      | some .overrun => .next (s.deliver id r)
      | some .band => .next (s.deliver id r)
      | some .preempt => .next (s.cutRun id r false)
      | some .residue => .next (s.cutRun id r true)
      | some .teardown => .next (s.stopRun id r)
      | none => .next s

/-- CUT (R222): a running task that is restartable and has a restart point recorded, on every member, takes PREEMPT at its next
boundary. -/
def State.canCut (s : State) (r : Run) : Bool :=
  (s.task r.die r.idx).restartable && r.members.all fun k => (s.tile k).point.isSome

def execCut (id : Nat) (s : State) : Result :=
  match s.run id with
  | none => .next s
  | some r => if s.canCut r then .next (s.setStop id .preempt) else .next s

/-- Is a check of the tile that has failed complete, or one that may fail complete in this cycle (R391)? -/
def Tile.residueDue (t : Tile) (now : Nat) : Bool := (t.residue.any fun c => decide (c ≤ now)) || (t.residue.isNone && t.checks.contains now)

/-- RESIDUE_CHECK (R268, R391): a check that fails while the task runs or is held cuts it, whether or not it is restartable. -/
def execResidueCheck (k : Nat) (bad : Bool) (s : State) : Result :=
  match (s.tile k).run with
  | none => .next s
  | some id =>
    if bad && (s.tile k).residueDue s.cycle then
      .next ((s.modTile k fun t => { t with residue := none }).countRedo.modRun id fun r => { r with stop := some .residue })
    else .next s

/-! ## CONTINUATION_READY (R184, R185, R202) -/

/-- Is the continuation's run still under way? -/
def State.runningCont (s : State) (d i : Nat) : Bool := s.runs.any fun r => r.2.cont == some (d, i)

/-- Is a future FULL? -/
def State.futureIsFull (s : State) (h : Word) : Bool := s.cellOk h && (s.cellAt h).kind == .future && (s.cellAt h).futureState == futureFull

/-- Does a context run: it is not pre-empted, and the bands allow RUN (R222, R252)? -/
def State.ctxRuns (s : State) (x : Nat) : Bool := (s.ctx x).pre == PreState.none && (s.mstate == .run || s.mstate == .retreat)

/-- Both strands have ended and the wait is met, the context runs where a PREEMPT or BAND was deferred to the continuation, and the
rebuild it waits for has finished, its page put in (R184, R209, R222). -/
def State.contDue (s : State) (d i : Nat) : Bool :=
  let c := s.cont d i
  c.state == 1 && c.met && (!c.held || (s.contCtx c).any s.ctxRuns) && !s.runningCont d i && c.rebuild.isEmpty

/-- A waiting continuation resumes TRAPPED with a code, and its fibre's handler is armed (R185, R202, R371). -/
def State.trapWaiting (s : State) (d i : Nat) (code sub : BitVec 8) : State :=
  let c := s.cont d i
  let k := wbits (c.word 0) 37 10
  let w0 := trapWord0 3 ((c.word 0).getLsbD 47) k code sub
  let s := s.setCont d i ({ c with trap := none }.setWord 0 (w64 (w0.toNat + c.cmask * 2 ^ 48)))
  let t := s.taskAt (c.word 1)
  s.oweHandler
    { fibre := t.fibre, ctx := t.ctx, ops := [], w8 := s.contHandle d i, w9 := w64 (code.toNat + sub.toNat * 2 ^ 8 + k * 2 ^ 17)
      w10 := c.word 1, w11 := 0#64, origin := k, saveAt := 0, saved := [], self := c.word 1, debug := false
      place := true }

/-- CONTINUATION_READY (R184). -/
def execContinuationReady (d i : Nat) (s : State) : Result :=
  if s.contDue d i then
    match (s.cont d i).trap with
    | some (code, sub) => .next (s.trapWaiting d i code sub)
    | none => .next (s.resumeCont (s.contHandle d i))
  else .next s

end Sys2Proof.Machine
end

