-- ==== Sys2Proof/Machine/Pipes.lean ====
section
/-!
DEFINITION. Sys2Proof/Machine/Pipes.lean: what a tile's pipes do by themselves: the return of verdicts (R212, R363), results
and queue entries (R79, R88), the store buffer's drain (R62), walker feeds (R84), the MX's commands cycle by cycle (R114–R125, R131),
barriers (R369) and debug stops (R241).
-/
namespace Sys2Proof.Machine

/-! ## Verdicts and results (R88, R212, R363) -/

/-- The verdicts of a strand that have returned by this cycle: the first that fails takes its trap, and discards what came after (R212). -/
def Tile.returnVerdicts (t : Tile) (σ : Side) (now : Nat) : Tile :=
  let x := t.strand σ
  let due := x.verdicts.takeWhile fun v => decide (v.due ≤ now)
  match due.findSome? (·.fail) with
  | some i => (t.discard σ).takeTrap σ i
  | none => t.setStrand σ { x with verdicts := x.verdicts.drop due.length }

/-- A strand whose home-unit request has been answered: its word retired with the results due and, for an AWAIT-class ending or a
RETT, the strand's end (R178, R363, R384).  A strand that ends resumes at the word after (R289). -/
def Strand.answered (x : Strand) (now due : Nat) (byAwait : Bool) (a : HomeReply) : Strand :=
  let x := { x.retire now (if a.ends then some (addrNext x.regs, false) else none) 0 none with home := none }
  { x with regs := a.res.foldl (fun r v => r.post due v) x.regs
           phase := if a.ends then .ended byAwait else x.phase }

/-- Is the operation a RETT, whose end is not an AWAIT-class one (R178)? -/
def HomeOp.isRett : HomeOp → Bool
  | .rett _ _ _ _ => true
  | _ => false

/-- The verdict of a strand's home-unit request returns (R363, R364). -/
def State.homeVerdict (s : State) (k : Nat) (σ : Side) : State :=
  match ((s.tile k).strand σ).home with
  | none => s
  | some i =>
    match mget s.homes i with
    | none => s
    | some q =>
      match q.sentAt, q.reply with
      | some at_, some a =>
        if at_ + q.cost ≤ s.cycle then
          let s := { s with homes := mdel s.homes i }
          match a.trap with
          | some t => s.modTile k fun y => y.takeTrap σ (TrapInfo.ofTrip (y.regs σ) t)
          | none => s.modTile k fun y =>
              y.setStrand σ ((y.strand σ).answered s.cycle (at_ + q.lat) (!q.op.isRett) a)
        else s
      | _, _ => s

/-- VERDICT_RETURN (R212, R363). -/
def execVerdictReturn (k : Nat) (σ : Side) (s : State) : Result :=
  .next ((s.modTile k (·.returnVerdicts σ s.cycle)).homeVerdict k σ)

/-- The first outstanding result of a command on a register, or a push of it, is no longer outstanding (R359). -/
def dropOut (cmd : Nat) (v : ResVal) : List Pending → List Pending
  | [] => []
  | p :: r => if p.due.isNone ∧ p.cmd = cmd ∧ p.val.touch = v.touch then r else p :: dropOut cmd v r

/-- A push of the MX that is due and has no room (R114). -/
def Tile.owedWaits (t : Tile) (now : Nat) (o : Owed) : Bool :=
  decide (28 ≤ o.d) && decide (o.due ≤ now) && !(t.sqget (o.d - 28)).room now

/-- A vector of an MDRAIN or ATTNFIN is written to its register (R117, R125, R359). -/
def Tile.landOwed (t : Tile) (o : Owed) : Tile :=
  let t := t.modRegs .e fun r => { r with out := dropOut o.cmd (.v o.d o.data) r.out }
  (t.landOne .e { due := some o.due, cmd := o.cmd, val := .v o.d o.data, flags := o.flags }).checkResult o.due

/-- The vectors of MX commands whose cycle has come and that no waiting push holds back. -/
def Tile.landMx (t : Tile) (now : Nat) : Tile :=
  let free := t.mx.owed.takeWhile fun o => !t.owedWaits now o
  let due (o : Owed) : Bool := decide (o.d < 28) && decide (o.due ≤ now)
  let t' := { t with mx := { t.mx with owed := free.filter (fun o => !due o) ++ t.mx.owed.drop free.length } }
  (free.filter due).foldl Tile.landOwed t'

/-- The flags of MMAs whose accumulator is complete reach the E-strand's st (R91, R131). -/
def Tile.landFlags (t : Tile) (now : Nat) : Tile :=
  let due := t.mx.flags.filter fun f => decide (f.1 ≤ now)
  let t := { t with mx := { t.mx with flags := t.mx.flags.filter fun f => decide (now < f.1) } }
  due.foldl (fun t f => t.modRegs .e (·.orFlags f.2)) t

/-- RESULT_WRITE (R88): of the results of one cycle the MX's land last (log entry 107). -/
def execResultWrite (k : Nat) (σ : Side) (s : State) : Result :=
  .next (s.modTile k fun t =>
    let t := t.landDue σ s.cycle
    if σ = .e then (t.landMx s.cycle).landFlags s.cycle else t)

/-- LOAD_QUEUE_FILL (R79): queues 0 to 3 are lq0–lq3, 4 and 5 are sq0 and sq1. -/
def execLoadQueueFill (k q : Nat) (s : State) : Result :=
  .next (s.modTile k fun t =>
    if q < 4 then t.lqset q ((t.lqget q).fill s.cycle) else t.sqset (q - 4) ((t.sqget (q - 4)).fill s.cycle))

/-! ## The store buffer (R62) -/

/-- Can the bank of a granule take an entry in this field cycle? -/
def Tile.bankOpen (t : Tile) (now g : Nat) : Bool :=
  decide (t.bankUses false now (g % 32) < 2) && t.bankUses true now (g % 32) == 0

/-- STORE_DRAIN: the oldest entry, if it has committed and its bank can take it. -/
def execStoreDrain (k : Nat) (s : State) : Result :=
  let t := s.tile k
  match t.sb with
  | [] => .next s
  | e :: r =>
    if e.commit ≤ s.cycle ∧ t.bankOpen s.cycle e.granule then
      .next (s.setTile k ({ t.sbWrite e with sb := r }.usePort
        { cycle := s.cycle, banks := 1#32 <<< (e.granule % 32), write := true }))
    else .next s

/-! ## Walker feeds (R84) -/

def Tile.feed (t : Tile) (port : Bool) : Option Feed := if port then t.feedB else t.feedA
def Tile.setFeed (t : Tile) (port : Bool) (f : Option Feed) : Tile := if port then { t with feedB := f } else { t with feedA := f }
def Tile.port (t : Tile) (port : Bool) : Port := if port then t.mB else t.mA
def Tile.setPort (t : Tile) (port : Bool) (p : Port) : Tile := if port then { t with mB := p } else { t with mA := p }

/-- An MX operand port holds 16 entries (R78). -/
def portSize : Nat := 16

/-- The entries of the next access of a feed from walker `w`: addresses of up to `n` entries that ascend contiguously within
the row of the first, with the walker after them. -/
def feedRun (w : Walker) (prev : Option Nat) : (n : Nat) → List Nat × Walker
  | 0 => ([], w)
  | n + 1 =>
    let a := w.addr.toNat
    match prev with
    | none => let y := feedRun w.advance.1 (some a) n; (a :: y.1, y.2)
    | some b =>
      if a = b + 64 ∧ a / 256 = b / 256 then
        let y := feedRun w.advance.1 (some a) n
        (a :: y.1, y.2)
      else ([], w)

/-- The next access of a tile's feed. -/
def Tile.feedNext (t : Tile) (f : Feed) : List Nat × Walker :=
  match t.wget f.w with
  | none => ([], Walker.reset)
  | some w => feedRun w none (min 4 f.left)

/-- May a port's feed make its next access in this cycle? -/
def Tile.feedReady (t : Tile) (port : Bool) (now : Nat) : Bool :=
  match t.feed port with
  | none => false
  | some f => decide (f.since < now) && decide ((t.port port).used now + (t.feedNext f).1.length ≤ portSize)

/-- FEED_ACCESS: one access of a feed in a cycle that the A-core pipeline has free; it comes before the cycle's own accesses and
sees the stores committed by then (R136, R212).  An entry whose granules cannot be
rebuilt raises POISON in the A-strand (R212). -/
def execFeedAccess (k : Nat) (port : Bool) (s : State) : Result :=
  let t := s.tile k
  match t.feed port with
  | none => .next s
  | some f =>
    if t.usedNow s.cycle || t.jmptAt.any (fun x => x.1 == s.cycle) || !t.feedReady port s.cycle then .next s
    else
      let y := t.feedNext f
      let s := y.1.foldl (fun s a => s.repair k a 64) s
      let t := s.tile k
      let es := y.1.map fun a => (s.cycle + 14, BitVec.ofNat 512 (t.fieldRead false (s.cycle - 1) a 64))
      let p := t.port port
      let banks := y.1.foldl (fun m a => m ||| banksOf a 64) 0#32
      let left := f.left - y.1.length
      let t := ((t.setPort port { p with flight := p.flight ++ es }).useBanks s.cycle banks false).wset f.w y.2
      let t := t.setFeed port (if left = 0 then none else some { f with left := left, last := s.cycle })
      let t := match y.1.find? fun a => t.isDead a 64 with
        | some a => if t.poisonA.isSome then t else { t with poisonA := some (f.pc, w64 (t.deadAt a 64)) }
        | none => t
      .next (s.setTile k t)

/-- FEED_ENTRY_LAND (R84). -/
def execFeedEntryLand (k : Nat) (port : Bool) (s : State) : Result :=
  .next (s.modTile k fun t => t.setPort port ((t.port port).land s.cycle))

/-- FEED_POISON (R212): at the strand's next boundary, or at once where it has ended, it takes the POISON its feed or MX command has met. -/
def execFeedPoison (k : Nat) (σ : Side) (s : State) : Result :=
  let t := s.tile k
  if (t.strand σ).takesPoison && (t.pipeTrap σ).isSome then .next (s.setTile k (t.stopAt σ)) else .next s

/-! ## The MX (R114–R125) -/

/-- Has a push waited, so that no command starts in this cycle; and does one wait, so that none advances (R114)? -/
def Tile.mxBarred (t : Tile) (now : Nat) : Bool :=
  t.mx.owed.any fun o => decide (28 ≤ o.d) && (decide (o.due < now) || t.owedWaits now o)
def Tile.mxHeld (t : Tile) (now : Nat) : Bool := t.mx.owed.any (t.owedWaits now)

/-- Accumulator n. -/
def Mx.accAt (x : Mx) (n : Nat) : Acc := x.acc[n]?.getD 0#32768
def Mx.setAcc (x : Mx) (n : Nat) (a : Acc) : Mx := { x with acc := x.acc.setIfInBounds n a }

/-- Flags of an MX command, in the E-strand (R91, R131). -/
def Tile.mxFlags (t : Tile) (f : FFlags) : Tile := t.modRegs .e (·.orFlags f)

/-- The end of a command's busy period (R117, R123–R125, R131). -/
def Tile.endCommand (t : Tile) (x : MxRun) (now : Nat) : Tile :=
  let m := t.mx
  match x.cmd.op with
  | .mzero n => { t with mx := m.setAcc n 0#32768 }.checkResult now
  | .mma scaled n k fa fb cb =>
    if k = 0 then t
    else
      let y := mmaAcc scaled k fa fb cb x.ea x.eb (m.accAt n)
      { t with mx := { m.setAcc n y.1 with flags := m.flags ++ [(now + 6, y.2)] } }.checkResult (now + 6)
  | .mdrain _ _ _ => t
  | .attn n v fd scale =>
    let accs := (List.range 4).map fun c => m.accAt ((n + c) % 4)
    let y := attnBlock (v.getLsbD 23) (wbits v 24 24) fd scale.toNat x.ea x.rows accs m.m m.l
    let m := (y.1.zipIdx).foldl (fun m a => m.setAcc ((n + a.2) % 4) a.1) { m with m := y.2.1, l := y.2.2.1 }
    ({ t with mx := m }.mxFlags y.2.2.2).checkResult now
  | .attnfin n _ =>
    let y := attnFinish (m.accAt n) m.m m.l
    ({ t with mx := m.setAcc n y.1 }.mxFlags y.2.1).checkResult now

/-- MX_COMMAND_END (R131). -/
def execMxCommandEnd (k : Nat) (s : State) : Result :=
  let t := s.tile k
  match t.mx.run with
  | none => .next s
  | some x =>
    if x.cmd.op.busy ≤ x.done then
      .next (s.setTile k ({ t with mx := { t.mx with run := none } }.endCommand x s.cycle))
    else .next s

/-- The vectors a command owes from its start on (R117, R125). -/
def Mx.owes (m : Mx) (c : MxCmd) (now : Nat) : List Owed :=
  match c.op with
  | .mdrain n bf d => (drainVecs bf (m.accAt n)).zipIdx.map fun v =>
      { due := now + 4 + v.2, cmd := c.id, d := if d < 28 then d + v.2 else d, data := v.1.1, flags := v.1.2 }
  | .attnfin n d =>
      [{ due := now + 34, cmd := c.id, d := d, data := (attnFinish (m.accAt n) m.m m.l).2.2, flags := 0#5 }]
  | _ => []

/-- MX_COMMAND_START (R114): the oldest command, in the cycle after its issue at the earliest. -/
def execMxCommandStart (k : Nat) (s : State) : Result :=
  let t := s.tile k
  match t.mx.run, t.mx.queue with
  | none, c :: q =>
    if s.cycle ≤ c.issue || t.mxBarred s.cycle then .next s
    else
      let x : MxRun := { cmd := c, start := s.cycle, done := 0, ea := [], eb := [], rows := [], want := none, half := none, stall := 0 }
      .next (s.setTile k { t with mx := { t.mx with queue := q, run := some x, owed := t.mx.owed ++ t.mx.owes c s.cycle } })
  | _, _ => .next s

/-- Pops `n` entries of a port in this cycle. -/
def Tile.popPort (t : Tile) (port : Bool) (n now : Nat) : List Entry × Tile :=
  let p := t.port port
  if n = 0 then ([], t) else (p.ents.take n, t.setPort port (p.drop n now))

/-- The row an ATTN reads in the field cycle that contains cycle `i` of its busy period (R121). -/
def attnWant (i : Nat) : Option Nat :=
  if 64 ≤ i ∧ i < 192 ∧ i % 4 = 0 then some ((i - 64) / 4)
  else if 208 ≤ i ∧ i < 336 ∧ i % 4 = 0 then some (32 + (i - 208) / 4) else none

/-- One cycle of the running command's busy period, unless it holds (R114, R116, R121). -/
def Tile.advance (t : Tile) (x : MxRun) (now : Nat) : Tile :=
  let put (t : Tile) (x : MxRun) : Tile := { t with mx := { t.mx with run := some x } }
  match x.cmd.op with
  | .mma scaled _ _ fa fb _ =>
    let n := mmaPops scaled fa fb x.done
    if t.mA.ents.length < n.1 ∨ t.mB.ents.length < n.2 then t
    else
      let a := t.popPort false n.1 now
      let b := a.2.popPort true n.2 now
      put b.2 { x with done := x.done + 1, ea := x.ea ++ a.1, eb := x.eb ++ b.1 }
  | .attn _ _ _ _ =>
    if 0 < x.stall then put t { x with stall := x.stall - 1 }
    else if x.done < 64 then
      let a := t.popPort false (min t.mA.ents.length (2 * x.done + 2 - x.ea.length)) now
      let ea := x.ea ++ a.1
      put a.2 { x with ea := ea, done := if ea.length = 2 * x.done + 2 then x.done + 1 else x.done }
    else put t { x with done := x.done + 1, want := match attnWant x.done with
        | some n => some n
        | none => x.want }
  | _ => put t { x with done := x.done + 1 }

/-- The running command's cycle. -/
def State.mxAdvance (s : State) (k : Nat) : State :=
  let t := s.tile k
  match t.mx.run with
  | none => s
  | some x => if x.cmd.op.busy ≤ x.done || t.mxHeld s.cycle then s else s.setTile k (t.advance x s.cycle)

/-- MX_OWED_PUSH (R114, R117): the vector whose cycle has come is pushed, already filled; with no room it waits and every
later vector with it. -/
def execMxOwedPush (k : Nat) (s : State) : Result :=
  let t := s.tile k
  match t.mx.owed.find? fun o => decide (28 ≤ o.d) && decide (o.due ≤ s.cycle) with
  | none => .next s
  | some o =>
    let before := t.mx.owed.takeWhile (· != o)
    let after := t.mx.owed.drop (before.length + 1)
    if (t.sqget (o.d - 28)).room s.cycle then
      let q := o.d - 28
      let t := { t with mx := { t.mx with owed := before ++ after } }
      let t := { t.sqset q ((t.sqget q).push { id := t.nextId, due := s.cycle, data := o.data, filled := true })
                 with nextId := t.nextId + 1 }
      let t := (t.modRegs .e fun r => { r with out := dropOut o.cmd .none r.out }).mxFlags o.flags
      .next (s.setTile k (t.checkResult s.cycle))
    else
      .next (s.setTile k { t with mx := { t.mx with
        owed := before ++ o :: after.map fun (y : Owed) => { y with due := y.due + 1 } } })

/-- Field addresses of a row of an ATTN block (R121): a key with its rotation row, or a value. -/
def attnAddrs (f n : Nat) : List Nat := if n < 32 then [f + 256 * n, f + 16384 + 256 * n] else [f + 8192 + 256 * (n - 32)]

/-- The port-A slots of a bank that are free at the end of the field cycle of `now` for the operand pipe: what the A-core pipeline
has left, less the one that the oldest entry of a full buffer takes (R60–R62). -/
def Tile.slotsLeft (t : Tile) (now b : Nat) : Nat :=
  let first := match t.sb with
    | e :: _ => b2n (decide (16 ≤ t.sb.length) && decide (e.commit ≤ now) && e.granule % 32 == b && t.bankOpen now e.granule)
    | [] => 0
  2 - (t.bankUses false now b + t.bankUses true now b + first)

/-- How many rows of the group of `a` the operand pipe can read in the field cycle of `now`. -/
def Tile.rowSlots (t : Tile) (now a : Nat) : Nat :=
  (onesOf (banksOf a 256).toNat 32).foldl (fun n b => min n (t.slotsLeft now b)) 2

/-- The operand pipe's read of one row: its slots, and the POISON it may meet. -/
def Tile.readRow (t : Tile) (x : MxRun) (now a : Nat) : Tile :=
  let t := t.usePort { cycle := now, banks := banksOf a 256, write := false }
  if t.isDead a 256 && t.poisonE.isNone then { t with poisonE := some (x.cmd.pc, w64 (t.deadAt a 256)) } else t

/-- The bytes of the row at `a` that an LNDSET of this cycle has written. -/
def Tile.justSet (t : Tile) (now a : Nat) : Option OldBytes := t.before.filter fun o => o.cycle == now && o.addr / 256 == a / 256

/-- A row as the operand pipe reads it: within a cycle its read comes before the A-strand's access (R136). -/
def Tile.rowSeen (t : Tile) (now a : Nat) : Vec :=
  let x := t.fieldRead false (now - 1) a 256
  BitVec.ofNat 2048 (match t.justSet now a with
    | some o =>
      let lo := 8 * (o.addr - a)
      x - (bits x lo 128 <<< lo) + (o.bytes <<< lo)
    | none => x)

/-- A row's tags as the operand pipe reads them. -/
def Tile.rowTagsBefore (t : Tile) (now row : Nat) : Nat × Nat :=
  match t.justSet now (256 * row) with
  | some o => o.tags
  | none => t.rowTagsSeen false (now - 1) row

/-- The rows that row `n` of an ATTN block still needs. -/
def MxRun.rowsLeft (x : MxRun) (f n : Nat) : List Nat := if x.half.isSome then (attnAddrs f n).drop 1 else attnAddrs f n

/-- The reads of row `n` of an ATTN block that have slots in the field cycle of `now`: a key row waits for its rotation row where
only one slot of each bank is free, and the pipe is delayed by one field cycle (log entry 82). -/
def Tile.attnRead (t : Tile) (x : MxRun) (f n now : Nat) : Tile :=
  let as := attnAddrs f n
  let a := as.headD 0
  let free := t.rowSlots now a
  let tags := t.rowTagsBefore now (a / 256)
  let r : AttnRow := x.half.getD { n := n, data := t.rowSeen now a, rot := t.rowSeen now a, ftag := tags.1, ptag := tags.2 }
  let left := x.rowsLeft f n
  let t := (left.take free).foldl (fun t a => t.readRow x now a) t
  let y := if left.length ≤ free then
      { x with want := none, half := none, rows := x.rows ++ [{ r with rot := t.rowSeen now (as.getLastD 0) }] }
    else { x with half := if free = 0 then x.half else some r, stall := 2 }
  { t with mx := { t.mx with run := some y } }

/-- ATTN_ROW_READ (R61, R121): at the end of the field cycle the operand pipe takes the slots that the A-core pipeline leaves
free; a field cycle that leaves it too few delays it by one field cycle. -/
def execAttnRowRead (k : Nat) (s : State) : Result :=
  match (s.tile k).mx.run with
  | none => .next s
  | some x =>
    match x.want, x.cmd.op with
    | some n, .attn _ v _ _ =>
      let f := wbits v 0 22
      let reads := (x.rowsLeft f n).take ((s.tile k).rowSlots s.cycle ((attnAddrs f n).headD 0))
      let s := reads.foldl (fun s a => s.repair k a 256) s
      .next (s.modTile k fun t => t.attnRead x f n s.cycle)
    | _, _ => .next s

/-! ## Barriers and debug stops (R241, R369) -/

/-- The barrier trees of a die in service, and those of them that deliver with good parity (R267). -/
def Die.treesIn (y : Die) : List Nat := [0, 1].filter fun n => y.trees.getLsbD n
def Die.treesGood (y : Die) : List Nat := y.treesIn.filter fun n => !y.treeBad.getLsbD n

/-- A completion has travelled on both trees: one in service that has not delivered it with good parity has disagreed with the other since
now (R267). -/
def State.noteTrees (s : State) (d : Nat) : State :=
  s.modDie d fun y =>
    { y with odd := y.odd ++ (y.treesIn.filter fun n => y.treeBad.getLsbD n && !y.odd.any (·.1 == n)).map fun n => (n, s.time) }

/-- BARRIER_COMPLETE (R267, R369): on the first tree of the die that delivers with good parity, every member's flag is cleared in the same
cycle.  While no tree in service does, the barrier is not complete. -/
def execBarrierComplete (id : Nat) (s : State) : Result :=
  match s.run id with
  | none => .next s
  | some r =>
    match r.barrier with
    | none => .next s
    | some c =>
      if c ≤ s.cycle ∧ (s.die (dieOf r.origin)).treesGood ≠ [] then
        .next (r.members.foldl (fun s k => s.modTile k fun t =>
            { t with arrived := false, a := { t.a with waitb := false }, e := { t.e with waitb := false } })
          ((s.noteTrees (dieOf r.origin)).modRun id fun r => { r with barrier := none }))
      else .next s

/-- A debug stop (R241): code 0x00; it resumes at the word whose first prefix word matched, or at its next unissued word. -/
def Regs.debugInfo (r : Regs) (sub : Nat) : TrapInfo :=
  { code := 0#8, sub := BitVec.ofNat 8 sub, pc := r.runPc, addr := 0#64, kind := 0#4, resume := r.pc, sync := true
    atRestart := false, debug := true }

/-- DEBUG_STOP (R241): the strand stops with subcode n of a breakpoint or 4 of a step. -/
def execDebugStop (k : Nat) (σ : Side) (sub : Nat) (s : State) : Result :=
  let t := s.tile k
  let x := t.strand σ
  if x.atBoundary then
    .next (s.setTile k (t.setStrand σ { x with phase := .trapped (x.regs.debugInfo sub), restart := none, zerof := none, waitb := false }))
  else .next s

end Sys2Proof.Machine
end

