-- ==== Sys2Proof/Machine/Perform.lean ====
section
/-!
DEFINITION. Sys2Proof/Machine/Perform.lean: the performance of a home-unit request in its unit's single order (R363–R365), and
the walk of a future's waiters (R185).
-/
namespace Sys2Proof.Machine

/-- Does the failing check of a request give a reservation back (R397)? -/
def HomeOp.slot : HomeOp → Option Nat
  | .futr _ _ _ c => c
  | .await _ _ _ _ c => c
  | .fcompact _ _ _ c => c
  | _ => none

/-- What a request does at its home unit: the checks that the tile's own operands failed come first (R365). -/
def State.perform (s : State) (q : HomeReq) : Answer :=
  match q.bad with
  | some t => refuseBack s q q.op.slot t
  | none =>
    match q.op with
    | .gatom fn h v d => s.performWord0 q h d fun old => gatomFn fn old v
    | .gcas h x y d => s.performWord0 q h d fun old => if old = x then y else old
    | .gred h v d => s.performGred q h v d
    | .futw h v => s.performFutw q h v
    | .futr h x pf c => s.performFutr q h x pf c
    | .salloc r d pf => s.performSalloc q r d pf
    | .sfree h => s.performSfree q h
    | .gparam n d => s.performGparam q n d
    | .gpset n v => s.performGpset q n v
    | .await x0 x1 x pf c => if awaitGran x0 then s.performAwaitCell q x0 x1 x pf c else s.performAwaitTile q x0 pf
    | .tclaim d pf => s.performTclaim q d pf
    | .tpatch h k v => s.performTpatch q h k v
    | .tarm h => plainAnswer (s.arm (s.ctxOf q) h)
    | .tfree h => s.performTfree q h
    | .signal h => plainAnswer (s.signal (s.ctxOf q) h)
    | .chain h => s.performChain q h
    | .book h d => s.performBook q h d
    | .rett save h image read => s.performRett q save h image read
    | .fpush x d => s.performFpush q x d
    | .fret x d => s.performFret q x d
    | .fshare h => s.performFshare q h
    | .fdrop h => s.performFdrop q h
    | .fappend tok d => s.performFappend q tok d
    | .fcompact h sel pf c => s.performFcompact q h sel pf c
    | .finfo h sel d => s.performFinfo q h sel d
    | .beammap x => s.performBeammap q x
    | .pfxlook va b fut => s.performPfxlook q va b fut
    | .pfxput n frame hash depth => s.performPfxput q n frame hash depth
    | .pfxpin h d => s.performPfxpin q h d
    | .pfxunpin h => s.performPfxunpin q h

/-- A request is sent once the stores older than it have drained, for a release form (R149). -/
def State.sendReady (s : State) (q : HomeReq) : Bool := (s.tile q.tile).sb.all fun e => decide (q.sbMark ≤ e.id)

/-- The request sent in this cycle, if it waited and its stores have drained. -/
def State.sendHome (s : State) (i : Nat) : State :=
  match mget s.homes i with
  | none => s
  | some q => if q.sentAt = none ∧ s.sendReady q then { s with homes := mput s.homes i { q with sentAt := some s.cycle } } else s

/-- HOME_UNIT_PERFORM (R364): the request is performed in the cycle it reaches its unit, and its reply is on its way. -/
def execHomeUnitPerform (i : Nat) (s : State) : Result :=
  match mget s.homes i with
  | none => .next s
  | some q =>
    match q.sentAt with
    | none => .next s
    | some c =>
      if q.reply.isSome || s.cycle < c + q.reach then .next s
      else
        let y := s.perform q
        let s := { y.1 with homes := mput y.1.homes i { q with reply := some y.2 } }
        .next s.observeTails

/-- FUTURE_WAITER_WALK (R185, R374). -/
def execFutureWaiterWalk (i : Nat) (s : State) : Result :=
  match mget s.walks i with
  | none => .next s
  | some w => .next ({ s with walks := mdel s.walks i }.walkWaiters w)

end Sys2Proof.Machine
end

