-- ==== Sys2Proof/Machine/Engine.lean ====
section
/-!
DEFINITION. Sys2Proof/Machine/Engine.lean: how copies, walks and far accesses move after their issue (R43–R58, R133–R146): parts
sent and accepted, translated, performed piece by piece, landed or read by port B, credited, cancelled and completed.

A landing or port-B read names a granule of a tile as granule + 131072 · tile id.
-/
namespace Sys2Proof.Machine

/-! ## The pieces of a part (R52, R146) -/

/-- Does the operation write far memory? -/
def Op.writes (o : Op) : Bool :=
  match o.kind with
  | .cpyw => true
  | .fst => true
  | .hwalk => o.walkDesc.back
  | _ => false

/-- What its far accesses want of a page (R29). -/
def Op.access (o : Op) : Access := if o.writes then .write else .read

/-- Tile coordinates of tile n of a walk (R52). -/
def WalkDesc.coords (x : WalkDesc) (n : Nat) : Nat → Nat
  | 0 => (x.origin 0 + n) % x.count 0
  | 1 => (x.origin 1 + (x.origin 0 + n) / x.count 0) % x.count 1
  | 2 => (x.origin 2 + (x.origin 1 + (x.origin 0 + n) / x.count 0) / x.count 1) % x.count 2
  | _ => (x.origin 3 + (x.origin 2 + (x.origin 1 + (x.origin 0 + n) / x.count 0) / x.count 1) / x.count 2) % x.count 3

/-- Index of element i of a tile along dimension d. -/
def WalkDesc.inner (x : WalkDesc) (i : Nat) : Nat → Nat
  | 0 => i % x.tile 0
  | 1 => i / x.tile 0 % x.tile 1
  | 2 => i / x.tile 0 / x.tile 1 % x.tile 2
  | _ => i / x.tile 0 / x.tile 1 / x.tile 2

/-- Tensor index of element i of tile n (R52). -/
def WalkDesc.index (x : WalkDesc) (n i d : Nat) : Nat := x.coords n d * x.tile d + x.inner i d

/-- Is element i of tile n clipped (R54)? -/
def WalkDesc.clips (x : WalkDesc) (n i : Nat) : Bool := [0, 1, 2, 3].any fun d => decide (x.extent d ≤ x.index n i d)

/-- VA of element i of tile n (R52). -/
def WalkDesc.va (x : WalkDesc) (n i : Nat) : Nat :=
  x.base + x.index n i 0 * x.size + x.index n i 1 * x.stride 1 + x.index n i 2 * x.stride 2 + x.index n i 3 * x.stride 3

/-- Pieces of a part: aligned doubles of a copy, elements of a walk's tile. -/
def Op.pieces (o : Op) (p : Part) : Nat := if o.kind = .hwalk then o.walkDesc.elems else p.bytes / 8
def Op.pieceBytes (o : Op) : Nat := if o.kind = .hwalk then o.walkDesc.size else 8

/-- The far VA of a piece; none for a clipped element. -/
def Op.pieceVa (o : Op) (p : Part) (i : Nat) : Option Nat :=
  if o.kind = .hwalk then (if o.walkDesc.clips p.off i then none else some (o.walkDesc.va p.off i)) else some (p.va + 8 * i)

/-- The field address of a part's first byte (R43, R50, R52). -/
def Op.fieldAt (o : Op) (p : Part) : Nat :=
  if o.kind = .hwalk then o.walkDesc.slotAt (p.off % o.walkDesc.slots) + 32
  else (if p.rot then o.rotDst.getD 0 else if o.kind = .cpyw then o.src % 2 ^ 22 else o.dst) + p.off

/-- Bytes of a part in the field. -/
def Op.partBytes (o : Op) (p : Part) : Nat := if o.kind = .hwalk then o.walkDesc.tileBytes else p.bytes

/-- The VA pages a piece lies in. -/
def Op.piecePages (o : Op) (p : Part) (i : Nat) : List Nat :=
  match o.pieceVa p i with
  | none => []
  | some va =>
    let a := va / 65536
    let b := (va + o.pieceBytes - 1) / 65536
    if a = b then [a] else [a, b]

/-- Has a page failed in a walk's tile (R34)? -/
def Part.badPage (p : Part) (g : Nat) : Bool := p.bad.any (·.1 == g)

/-- The pages of a piece that have not failed: the bytes there go on (R34). -/
def Op.goodPages (o : Op) (p : Part) (i : Nat) : List Nat := (o.piecePages p i).filter fun g => !p.badPage g

/-- Have all pages of the piece failed (R34)? -/
def Op.badPiece (o : Op) (p : Part) (i : Nat) : Bool := !p.bad.isEmpty && (o.pieceVa p i).isSome && (o.goodPages p i).isEmpty

/-- Has the piece been performed? -/
def Op.piecePut (o : Op) (p : Part) (i : Nat) : Bool := if o.writes then p.put.contains i else (mget p.got i).isSome

/-- Far pieces of a part that have not been performed and have not failed. -/
def Op.openPieces (o : Op) (p : Part) : List Nat :=
  (List.range (o.pieces p)).filter fun i => (o.pieceVa p i).isSome && !o.piecePut p i && !o.badPiece p i

/-- The granules of a part. -/
def Op.granulesOf (o : Op) (p : Part) : List Nat := if o.kind = .fst then [] else granules (o.fieldAt p) (o.partBytes p)

/-- The bytes of a part in a granule: their first address and their number. -/
def Op.inGranule (o : Op) (p : Part) (g : Nat) : Nat × Nat :=
  let lo := max (o.fieldAt p) (32 * g)
  (lo, min (o.fieldAt p + o.partBytes p) (32 * g + 32) - lo)

/-- The pieces of a part that lie in a granule. -/
def Op.piecesIn (o : Op) (p : Part) (g : Nat) : List Nat :=
  let x := o.inGranule p g
  if x.2 = 0 then [] else
    let i := (x.1 - o.fieldAt p) / o.pieceBytes
    List.range' i ((x.1 + x.2 - 1 - o.fieldAt p) / o.pieceBytes + 1 - i)

/-- Have the far pieces of a part all been performed, or failed with their page? -/
def Op.partDone (o : Op) (p : Part) : Bool :=
  (List.range (o.pieces p)).all fun i => (o.pieceVa p i).isNone || o.piecePut p i || o.badPiece p i

/-- Granules named with their tile. -/
def granuleKey (k g : Nat) : Nat := g + 131072 * k
def granuleTile (n : Nat) : Nat := n / 131072
def granuleOf (n : Nat) : Nat := n % 131072

/-- The tiles a part lands in: a CPYM's and a walk's members that have accepted it, else the issuing tile. -/
def Op.partTiles (o : Op) (p : Part) : List Nat :=
  if o.kind = .cpym then o.members else if o.kind = .hwalk then p.accepted else [o.tile]

/-- Does the part land a byte in a granule: has not every piece there failed? -/
def Op.landsIn (o : Op) (p : Part) (g : Nat) : Bool := (o.piecesIn p g).any fun i => !o.badPiece p i

/-- Has the part finished (R45)? -/
def Op.partOver (o : Op) (p : Part) : Bool :=
  match p.phase with
  | .unsent => false
  | .live => o.partDone p &&
      (o.writes || (o.partTiles p).all fun k => (o.granulesOf p).all fun g => p.landed.contains (k, g) || !o.landsIn p g)
  | _ => true

/-! ## Channels (R143, R144) -/

/-- Is the operation of the same strand as another? -/
def Op.sameStrand (o q : Op) : Bool := o.tile == q.tile && o.side == q.side && o.run == q.run

/-- Tiles of a walk that have left FILLING or DRAINING. -/
def Walk.isOver (w : Walk) : Bool := w.left == 0 && w.busy.isEmpty

/-- Has the operation been performed (R143): for a walk, every tile of it? -/
def Op.isPerformed (o : Op) : Bool :=
  (o.parts.all fun p => match p.phase with
    | .unsent => false
    | .live => o.partDone p
    | _ => true) &&
  o.walk.all fun w => w.isOver || o.lowestFault.isSome

/-- Writes that are performed and visible at a scope. -/
def State.visibleAt (s : State) (scope : Nat) (f : FarWrite → Bool) : Bool := s.writes.all fun w => !f w || decide (scope ≤ w.level)

/-- Does a write belong to the strand of an operation and to an earlier entry? -/
def FarWrite.before (w : FarWrite) (o : Op) : Bool := w.tile == o.tile && w.side == o.side && w.run == o.run && decide (w.op < o.seq)

/-- The stores of a tile older than a mark have drained (R137, R144). -/
def Tile.drainedTo (t : Tile) (mark : Nat) : Bool := t.sb.all fun e => decide (mark ≤ e.id)

/-- May an entry of a far channel be performed (R143, R144)?  Walks stand in no channel, which orders them by R53 only; a release
comes after them too (R55). -/
def State.channelOpen (s : State) (o : Op) : Bool :=
  o.kind == .hwalk ||
  (let earlier := (s.ops.filter fun p => p.2.sameStrand o && decide (p.2.seq < o.seq)).map (·.2)
   let pending (f : Op → Bool) : Bool := earlier.any fun q => f q && !q.isPerformed
   !pending (fun q => q.kind != .hwalk && (q.stream == o.stream || q.acquire)) &&
   (!o.release || (!pending (fun _ => true) && s.visibleAt o.scope (·.before o) && (s.tile o.tile).drainedTo o.sbMark)) &&
   (s.fences.all fun f =>
     !(f.tile == o.tile && f.side == o.side && f.run == o.run && decide (f.seq < o.seq) && f.mask.getLsbD o.stream) ||
     (!pending (fun q => q.kind != .hwalk && decide (q.seq < f.seq) && f.mask.getLsbD q.stream) &&
      s.visibleAt f.scope fun w => w.before o && decide (w.op < f.seq) && f.mask.getLsbD w.stream)))

/-! ## Budgets (R58, R249, R255) -/

/-- A field of TBUDGET in bytes per furrow, as rescaled in COOL: 0 drill, 1 harrow, 2 link, 3 host. -/
def State.budget (s : State) (x i : Nat) : Nat :=
  let v := wbits (s.ctx x).tbudget (16 * i) 16
  let v := if s.clockSlow then
      (if i = 0 then min 0xFFFF (4 * v / 3) else if i = 1 then v else min 0xFFFF (2 * v))
    else v
  1024 * (if s.holdBook ∧ (i = 0 ∨ i = 2) then v / 2 else v)

/-- Bytes a unit has counted for a context in this furrow. -/
def spentOf (l : List (Nat × Nat)) (x : Nat) : Nat := (mget l x).getD 0
def spend (l : List (Nat × Nat)) (x n : Nat) : List (Nat × Nat) := mput l x (spentOf l x + n)

/-- Bytes counted for a context at a harrow (tile) or a host port. -/
def spent2 (l : List ((Nat × Nat) × Nat)) (a x : Nat) : Nat := ((l.find? fun p => p.1 == (a, x)).map (·.2)).getD 0
def spend2 (l : List ((Nat × Nat) × Nat)) (a x n : Nat) : List ((Nat × Nat) × Nat) :=
  ((a, x), spent2 l a x + n) :: l.filter fun p => p.1 != (a, x)

/-- The host port through which the drill of a colour reaches host memory: the nearer one (R16, R257; log entry 16). -/
def hostPortOf (c : Nat) : Nat := dieOfCtrl c / 2

/-- May the drill of colour `c` serve a context another line? -/
def State.drillOpen (s : State) (c x : Nat) : Bool := decide (spentOf (s.ctrl c).spent x < s.budget x 0)

/-- Bytes counted for a context at the drill of colour `c`. -/
def State.spendDrill (s : State) (c x n : Nat) : State := s.modCtrl c fun y => { y with spent := spend y.spent x n }

/-- May the link port towards a module send another line of a context? -/
def State.linkBudget (s : State) (x m : Nat) : Bool :=
  match s.route m with
  | some p => decide (spentOf (s.link p).spent x < s.budget x 2)
  | none => true

/-- Bytes of a context counted at the link port towards a module. -/
def State.spendLink (s : State) (x m n : Nat) : State :=
  match s.route m with
  | some p => s.modLink p fun y => { y with spent := spend y.spent x n }
  | none => s

/-- Do the drill of colour `c` and the port that a translation leads to let a context begin another line?  A link port counts the bytes
sent. -/
def State.unitsOpen (s : State) (x c : Nat) (t : Trans) (write : Bool) : Bool :=
  s.drillOpen c x && (t.target != 1 || decide (spent2 s.hostSpent (hostPortOf c) x < s.budget x 3)) &&
  (t.target != 2 || !write || s.linkBudget x t.module)

/-- The `n` bytes of a line counted there. -/
def State.spendUnits (s : State) (x c : Nat) (t : Trans) (write : Bool) (n : Nat) : State :=
  let s := s.spendDrill c x n
  let s := if t.target = 1 then { s with hostSpent := spend2 s.hostSpent (hostPortOf c) x n } else s
  if t.target = 2 ∧ write then s.spendLink x t.module n else s

/-- The 64-byte lines, by VA, of a piece's bytes on pages that have not failed. -/
def Op.pieceLines (o : Op) (p : Part) (i : Nat) : List Nat :=
  match o.pieceVa p i with
  | none => []
  | some va => (linesOf va o.pieceBytes).filter fun l => !p.badPage (l / 1024)

/-- The pieces of a part with bytes in a line. -/
def Op.linePieces (o : Op) (p : Part) (l : Nat) : List Nat :=
  (List.range (o.pieces p)).filter fun i => (o.pieceLines p i).contains l

/-- The bytes of a part in a line. -/
def Op.lineBytes (o : Op) (p : Part) (l : Nat) : Nat :=
  ((o.linePieces p l).filterMap (o.pieceVa p)).foldl (fun n va => n + (min (va + o.pieceBytes) (64 * l + 64) - max va (64 * l))) 0

/-- Has a piece of a line been performed, so that the units have counted the line? -/
def Op.lineBegun (o : Op) (p : Part) (l : Nat) : Bool := (o.linePieces p l).any (o.piecePut p)

/-- Do the budgets let a context's part begin a line through its drill and target? -/
def State.inBudget (s : State) (o : Op) (t : Trans) (l : Nat) : Bool :=
  s.unitsOpen o.ctx (colour (l / 1024)) t o.writes &&
  (o.kind != .hwalk || decide (spent2 s.harrowSpent o.tile o.ctx < s.budget o.ctx 1))

/-- The `n` bytes of a line counted. -/
def State.charge (s : State) (o : Op) (t : Trans) (l n : Nat) : State :=
  let s := s.spendUnits o.ctx (colour (l / 1024)) t o.writes n
  if o.kind = .hwalk then { s with harrowSpent := spend2 s.harrowSpent o.tile o.ctx n } else s

/-- A line is counted as its first piece is performed (R58). -/
def State.chargeLine (s : State) (o : Op) (p : Part) (l : Nat) : State :=
  match mget p.trans (l / 1024) with
  | some t => if o.lineBegun p l then s else s.charge o t l (o.lineBytes p l)
  | none => s

/-- The lines of a piece are counted as the first piece of each is performed (R58). -/
def State.chargePiece (s : State) (o : Op) (p : Part) (i : Nat) : State := (o.pieceLines p i).foldl (·.chargeLine o p) s

/-! ## Parts -/

/-- Part j of an operation changed. -/
def Op.modPart (o : Op) (j : Nat) (f : Part → Part) : Op :=
  { o with parts := o.parts.zipIdx.map fun p => if p.2 = j then f p.1 else p.1 }
def State.modPart (s : State) (i j : Nat) (f : Part → Part) : State :=
  match mget s.ops i with
  | some o => { s with ops := mput s.ops i (o.modPart j f) }
  | none => s
/-- A part that fails with a fault kind at a VA (R45); one of kind 5 counts as an uncorrectable event (R269). -/
def State.failPart (s : State) (i j kind va : Nat) : State :=
  (if kind = 5 then s.countUncorrectable else s).modPart i j fun p => { p with phase := .failed kind (w64 va) }

/-- The lowest address of a piece in a page. -/
def Op.vaInPage (o : Op) (p : Part) (page i : Nat) : Option Nat :=
  if (o.piecePages p i).contains page then (o.pieceVa p i).map (max · (65536 * page)) else none

/-- The lowest VA that a part accesses in a page. -/
def Op.lowestIn (o : Op) (p : Part) (page : Nat) : Nat :=
  ((List.range (o.pieces p)).filterMap (o.vaInPage p page)).foldl min (65536 * page + 65535)

/-- A page of a part fails with a kind at a VA: a copy's part lies in one page and ends; the other pages of a walk's tile go on
(R34). -/
def State.failPage (s : State) (i j : Nat) (o : Op) (kind va : Nat) : State :=
  if o.kind = .hwalk then
    (if kind = 5 then s.countUncorrectable else s).modPart i j fun p => { p with bad := (va / 65536, kind, va) :: p.bad }
  else s.failPart i j kind va

/-- Operation i and its part j while the part is live and the operation is not cancelled. -/
def State.livePart (s : State) (i j : Nat) : Option (Op × Part) :=
  match mget s.ops i with
  | none => none
  | some o =>
    match o.parts[j]? with
    | some p => if p.phase = .live ∧ !o.cancel ∧ !o.spilled then some (o, p) else none
    | none => none

/-- May operation i send its next part in this cycle (R43): one part per cycle of an A-core, the oldest copy first? -/
def State.canSend (s : State) (i : Nat) (o : Op) : Bool :=
  let others := s.ops.filter fun q => q.2.tile == o.tile
  let busy := others.any fun q => q.2.kind != .fld && q.2.kind != .fst && q.2.kind != .hwalk &&
    q.2.parts.any fun p => p.phase != .unsent && p.sent == s.cycle
  o.parts.any (·.phase == .unsent) && decide (o.sendAt ≤ s.cycle) && !busy && !o.cancel && !o.spilled &&
  others.all fun q => decide (i ≤ q.1) || q.2.cancel || q.2.spilled || !(q.2.parts.any (·.phase == .unsent))

/-- COPY_PART_SEND (R43): the A-core sends one part per cycle, the oldest copy first, in ascending order. -/
def execCopyPartSend (i : Nat) (s : State) : Result :=
  match mget s.ops i with
  | none => .next s
  | some o =>
    match o.parts.findIdx? (·.phase == .unsent) with
    | some j =>
      if !s.canSend i o then .next s
      else
        let dest := if o.writes then [] else if o.kind = .cpym then o.members else [o.tile]
        .next ((s.modPart i j fun p => { p with phase := .live, sent := s.cycle }).post i j o.ctx dest)
    | none => .next s

/-- The pages a part's open pieces need that have no translation yet, lowest VA of each first. -/
def Op.untranslated (o : Op) (p : Part) : Option Nat :=
  if o.kind = .hwalk then
    ((o.openPieces p).findSome? fun i => (o.goodPages p i).find? fun g => (mget p.trans g).isNone).map (o.lowestIn p)
  else if (mget p.trans (p.va / 65536)).isNone then some p.va else none

/-- May a part be served: a CPYM's part waits until every member has accepted it (R49); rows that a FRET is still moving
are held back (R201). -/
def State.servable (s : State) (o : Op) (p : Part) : Bool :=
  (o.kind != .cpym || o.members.all p.accepted.contains) &&
  (match o.frame with
    | some (h, _, _) => s.frets.all fun j => !(j.2.into == h && decide (j.2.seq < o.seq))
    | none => true)

/-- Is an invalidation that covers a page under way at its drill?  `global`: the page's leaf has G set (R32). -/
def State.invalidating (s : State) (x page : Nat) (global : Bool) (f : Invalidation → Bool) : Bool :=
  s.invals.any fun v => v.2.ctx == x && v.2.arrived.contains (colour page) && f v.2 &&
    (match v.2.va with
      | some va => va.toNat / 65536 == page
      | none => v.2.withG || !global)

/-- Does an invalidation refuse every part that translates the page: it has removed a translation to a private host page (R238)? -/
def State.refusesPage (s : State) (x page : Nat) : Bool := s.invals.any fun v =>
  v.2.ctx == x && v.2.arrived.contains (colour page) && v.2.refuse.contains page

/-- Is a page's translation, made while an invalidation covers it, one to a private host page (R238)? -/
def State.refusesTrans (s : State) (x page : Nat) (t : Trans) : Bool :=
  t.target == 1 && s.hostPriv.contains t.ppn &&
    s.invalidating x page ((tlbFind (s.ctrl (colour page)).tlb x page).any (·.global)) fun _ => true

/-- PAGE_WALK (R29): the drill translates the next page a part needs; a failing translation ends the part (R34, R45). -/
def execPageWalk (i j : Nat) (s : State) : Result :=
  match s.livePart i j with
  | none => .next s
  | some (o, p) =>
    match o.untranslated p with
    | none => .next s
    | some va =>
      if s.refusesPage o.ctx (va / 65536) then .next (s.failPage i j o 1 va)
      else match s.translate o.ctx va o.access with
      | (s, .inl kind) => .next (s.failPage i j o kind va)
      | (s, .inr t) =>
        if s.refusesTrans o.ctx (va / 65536) t then .next (s.failPage i j o 1 va)
        else if t.target = 2 ∧ (s.route t.module).isNone then .next (s.failPage i j o 5 va)
        else .next (s.modPart i j fun p => { p with
          trans := mput p.trans (va / 65536) t
          port := if t.target = 2 then s.route t.module else p.port })

/-- What a KV rebuild would do on an uncorrectable row page of a frame: is a CLAIMED record registered (R209)? -/
def State.rebuildTask (s : State) (x : Nat) : Option Word :=
  let h := (s.ctx x).kvrb
  if h != 0#64 && (s.taskTrip x h).isNone && (s.taskAt h).state == 1 then some h else none

/-- The frame of a CPYF and the page-list entry of a part's page (R194). -/
def Op.entryOf (o : Op) (p : Part) : Option (Word × Nat) := o.frame.map fun x => (x.1, pageEntry o.plane (x.2.2 + p.off / 256))

/-- Checked access of the `n` bytes at a VA of a translated page: the fault kind or the place (R231, R237). -/
def State.partPlace (s : State) (o : Op) (p : Part) (va : Nat) : State × (Nat ⊕ (Trans × Place)) :=
  match mget p.trans (va / 65536) with
  | none => (s, .inl 1)
  | some t =>
    match s.place o.ctx t o.writes (va % 65536) with
    | (s, .inl k) => (s, .inl k)
    | (s, .inr x) => (s, .inr (t, x))

/-- A part fails at the lowest of its open pieces' addresses in the failing page that fail too, those of a piece that begins in the page
before among them (R34). -/
def State.lowestFailing (s : State) (o : Op) (p : Part) (va : Nat) : Nat :=
  ((o.openPieces p).filterMap (o.vaInPage p (va / 65536))).foldl (init := va) fun a v =>
    if v < a ∧ (s.partPlace o p v).2.isLeft then v else a

/-- Is the page of a page-list entry being rebuilt (R209)? -/
def State.rebuilding (s : State) (h : Word) (e : Nat) : Bool := s.rebuilds.any fun r => r.2.frame == h && r.2.entry == e

/-- A part that met an uncorrectable line: a row page of a frame with a registered rebuild starts it, and one that is being rebuilt
lands nothing (R45, R209). -/
def State.failOrRebuild (s : State) (i j : Nat) (o : Op) (p : Part) (kind va : Nat) : State :=
  match (if kind = 3 ∧ !p.rot then o.entryOf p else none) with
  | some (h, e) =>
    if s.rebuilding h e then s.modPart i j fun p => { p with phase := .rebuild h e }
    else if (s.rebuildTask o.ctx).isSome then
      { (s.modPart i j fun p => { p with phase := .rebuild h e }) with todo := s.todo ++ [.ev (.kvRebuildStart i j)] }
    else s.failPage i j o kind va
  | none => s.failPage i j o kind va

/-- A read of `n` bytes at a VA, byte by byte where they cross a page (R52), none of them torn (log entry 95); bytes on a page that has
failed are not read (R34). -/
def State.pieceRead (s : State) (o : Op) (p : Part) (va : Nat) : (n : Nat) → State × ((Nat × Nat) ⊕ Nat)
  | 0 => (s, .inr 0)
  | n + 1 =>
    match s.pieceRead o p va n with
    | (s, .inl f) => (s, .inl f)
    | (s, .inr v) =>
      if p.badPage ((va + n) / 65536) then (s, .inr v)
      else match s.partPlace o p (va + n) with
      | (s, .inl k) => (s, .inl (k, va + n))
      | (s, .inr (_, sp, a, key)) => (s, .inr (v + (s.farByte (.tile o.tile) sp (some key) a).toNat * 2 ^ (8 * n)))

/-- The value a piece writes: FST's register, or the field bytes that stood at the read's place in the tile's order (R138, R308). -/
def Op.pieceData (o : Op) (p : Part) (i : Nat) : Word :=
  if o.kind = .fst then o.value else w64 (bits p.image (8 * (o.pieceBytes * i)) (8 * o.pieceBytes))

/-- The granules of the field that a piece's bytes lie in. -/
def Op.pieceGranules (o : Op) (p : Part) (i : Nat) : List Nat := granules (o.fieldAt p + o.pieceBytes * i) o.pieceBytes

/-- The far write of some bytes of an operation, at tile level. -/
def Op.farWrite (o : Op) (id i : Nat) (x : Place) (bs : List Byte) : FarWrite :=
  { id := id, op := i, run := o.run, side := o.side, stream := if o.kind = .hwalk then 16 else o.stream, space := x.1, addr := x.2.1
    bytes := bs, key := x.2.2, tile := o.tile, level := 0 }

/-- The write enters the coherence order (R143). -/
def State.pushWrite (s : State) (o : Op) (i : Nat) (x : Place) (bs : List Byte) : State :=
  { s with writes := s.writes ++ [o.farWrite s.seq i x bs], seq := s.seq + 1 }

/-- A write of `n` bytes at a VA at tile level (R142, R143), in pieces that lie in one page; none on a page that has failed (R34). -/
def State.pieceWrite (s : State) (i : Nat) (o : Op) (p : Part) (va v : Nat) : (n : Nat) → State × Option (Nat × Nat)
  | 0 => (s, none)
  | n + 1 =>
    if p.badPage ((va + n) / 65536) then s.pieceWrite i o p va v n
    else if va / 65536 = (va + n) / 65536 then
      match s.partPlace o p va with
      | (s, .inl k) => (s, some (k, va))
      | (s, .inr (_, x)) => (s.pushWrite o i x (bytesOfNum v (n + 1)), none)
    else
      match s.pieceWrite i o p va v n with
      | (s, some f) => (s, some f)
      | (s, none) =>
        match s.partPlace o p (va + n) with
        | (s, .inl k) => (s, some (k, va + n))
        | (s, .inr (_, x)) => (s.pushWrite o i x [byteAt v n], none)

/-- The stream under which a part's sequence numbers count: a walk, which has none, counts under 16 (R266). -/
def Op.linkStream (o : Op) : Nat := if o.kind = .hwalk then 16 else o.stream

/-- Has a part been sent to a module on its stream, and not all been performed there? -/
def Op.sentTo (o : Op) (p : Part) (m stream : Nat) : Bool :=
  o.linkStream == stream && p.phase == .live && (mget p.nums m).isSome && !o.partDone p

/-- May a part be sent to, or go on at, a remote module?  Its parts of one stream are performed there in the order they are sent,
so none is sent while another stands unacknowledged, and one that waits behind a port that is retried goes no further (R264,
R266). -/
def State.linkOpen (s : State) (o : Op) (p : Part) (t : Trans) : Bool :=
  t.target != 2 ||
    (if o.sentTo p t.module o.linkStream then (s.route t.module).all fun q => (s.link q).tx.since.isNone
     else !(s.ops.any fun q => !q.2.spilled && !q.2.cancel && q.2.parts.any fun y => q.2.sentTo y t.module o.linkStream))

/-- The next sequence number of the parts for a module on a stream (R266). -/
def State.nextNum (s : State) (m stream : Nat) : Nat := ((s.linkSeq.find? fun x => x.1 == (m, stream)).map (·.2)).getD 0

/-- A part for a remote module takes its sequence number as it is first sent (R266). -/
def State.sendLink (s : State) (i j : Nat) (o : Op) (p : Part) (t : Trans) : State :=
  if t.target ≠ 2 ∨ o.sentTo p t.module o.linkStream then s
  else
    let n := s.nextNum t.module o.linkStream
    { (s.modPart i j fun p => { p with nums := mput p.nums t.module n, since := mput p.since t.module s.time }) with
      linkSeq := ((t.module, o.linkStream), n + 1) :: s.linkSeq.filter fun x => x.1 != (t.module, o.linkStream) }

/-- Does the link that would carry a part retry a flit (R264)? -/
def State.linkStalled (s : State) (t : Trans) : Bool :=
  t.target == 2 && (s.route t.module).any fun q => (s.link q).tx.since.isSome

/-- Has the replay buffer of the port towards a part's target a place for its next line (R264)? -/
def State.linkFits (s : State) (t : Trans) : Bool := t.target != 2 || (s.route t.module).all fun q => (s.link q).fits

/-- May a line of a part be read or written now: its page is translated, its link open, and it is begun or may be? -/
def State.lineReady (s : State) (o : Op) (p : Part) (l : Nat) : Bool :=
  match mget p.trans (l / 1024) with
  | some t => s.linkOpen o p t && (o.lineBegun p l || (s.inBudget o t l && s.linkFits t))
  | none => false

/-- May the lines of a piece be read or written now, each after those before it have been counted (R58)? -/
def State.linesReady (s : State) (o : Op) (p : Part) : List Nat → Bool
  | [] => true
  | l :: ls => s.lineReady o p l && (s.chargeLine o p l).linesReady o p ls

/-- May this piece of a part be performed now? -/
def State.pieceReady (s : State) (o : Op) (p : Part) (n : Nat) : Bool :=
  (o.openPieces p).contains n && s.servable o p && s.channelOpen o &&
  (!o.writes || o.kind == .fst || (o.pieceGranules p n).all p.read.contains) &&
  s.linesReady o p (o.pieceLines p n)

/-- The lines that a piece begins at other modules leave on their ports, each in a packet of its own (R264, log entry 90). -/
def State.sendLines (s : State) (i j : Nat) (o : Op) (p : Part) (n : Nat) : State :=
  ((o.pieceLines p n).filter fun l => !o.lineBegun p l).foldl (fun s l =>
    match (mget p.trans (l / 1024)).bind fun t => if t.target = 2 then s.route t.module else none with
    | some q => s.sendOn q (.line i j l)
    | none => s) s

/-- The translations of the pages of a piece that have not failed. -/
def Op.pieceTrans (o : Op) (p : Part) (n : Nat) : List Trans := (o.goodPages p n).filterMap fun g => mget p.trans g

/-- CHANNEL_PERFORM (R143, R146): one piece of a part is read, or written at tile level. -/
def execChannelPerform (i j n : Nat) (s : State) : Result :=
  match s.livePart i j with
  | none => .next s
  | some (o, p) =>
    if !s.pieceReady o p n then .next s
    else
      let va := (o.pieceVa p n).getD 0
      let ts := o.pieceTrans p n
      let s := ts.foldl (fun s t => s.sendLink i j o p t) s
      if ts.any s.linkStalled then .next s
      else
        let s := s.sendLines i j o p n
        if o.writes then
          match s.pieceWrite i o p va (o.pieceData p n).toNat o.pieceBytes with
          | (s, some (k, a)) => .next (s.failPage i j o k (s.lowestFailing o p a))
          | (s, none) => .next ((s.modPart i j fun p => { p with put := ins p.put n }).chargePiece o p n)
        else
          match s.pieceRead o p va o.pieceBytes with
          | (s, .inl (k, a)) => .next (s.failOrRebuild i j o p k (s.lowestFailing o p a))
          | (s, .inr v) => .next ((s.modPart i j fun p => { p with got := mput p.got n (w64 v) }).chargePiece o p n)

/-- VISIBILITY_WIDEN (R142). -/
def execVisibilityWiden (n : Nat) (s : State) : Result :=
  match s.writes.find? (·.id == n) with
  | none => .next s
  | some w => if s.mayWiden w then .next (s.widen w) else .next s

/-! ## Members (R49) -/

/-- May a member accept a part that its router has let in? -/
def State.acceptReady (s : State) (i j m : Nat) (o : Op) (p : Part) : Bool :=
  o.kind == .cpym && o.members.contains m && !p.accepted.contains m &&
  !(s.messages.any fun x => x.2.op == i && x.2.part == j && x.2.tile == m)

/-- The granules of tile k for which an operation's credits stand in an advanced generation since a pre-emption: their in-flight bits do
not come back (R48, R57). -/
def State.settledGranules (s : State) (o : Op) (k : Nat) : List Nat :=
  (o.credits.filter fun c => c.tile == k && c.gen.toNat != (s.tile k).counterGen s.cycle c.addr).map (·.granule)

/-- Granules no longer in flight for operation i. -/
def Tile.disownAt (t : Tile) (i : Nat) (gs : List Nat) : Tile :=
  { t with field := Field.settle { t.field with
      flight := (t.field.flight.map fun g => if gs.contains g.1 then (g.1, g.2.filter (· != i)) else g).filter fun g => !g.2.isEmpty } }

def State.disownSettled (s : State) (i : Nat) (o : Op) (k : Nat) : State :=
  match s.settledGranules o k with
  | [] => s
  | gs => s.modTile k (·.disownAt i gs)

/-- MEMBER_ACCEPT: a member accepts a CPYM's part and sets its in-flight bits (R48). -/
def execMemberAccept (i j m : Nat) (s : State) : Result :=
  match s.livePart i j with
  | none => .next s
  | some (o, p) =>
    if s.acceptReady i j m o p then
      .next (((s.modPart i j fun p => { p with accepted := ins p.accepted m }).modTile m fun t =>
        t.setFlight i (o.fieldAt p) p.bytes).disownSettled i o m)
    else .next s

/-! ## Credits (R46, R47) -/

/-- A landing counter's fields. -/
def lcTarget (v : Nat) : Nat := bits v 0 32
def lcCount (v : Nat) : Nat := bits v 32 32
def lcGen (v : Nat) : Nat := bits v 64 16
def lcOver (v : Nat) : Bool := v.testBit 80

/-- A counter's 16 bytes with its count, generation and overflow replaced. -/
def lcPut (v count gen : Nat) (oflow : Bool) : Nat :=
  lcTarget v + count % 2 ^ 32 * 2 ^ 32 + gen % 2 ^ 16 * 2 ^ 64 + b2n oflow * 2 ^ 80 + (v >>> 81) <<< 81

/-- LNDSETs made on a tile's counter so far. -/
def Tile.resetsAt (t : Tile) (a : Nat) : Nat := (mget t.field.resets a).getD 0

/-- The granules that a tile's counter has been credited for in its current generation (R47). -/
def State.creditedGranules (s : State) (k a : Nat) (gen : BitVec 16) : List Nat :=
  s.ops.flatMap fun o => if o.2.spilled then [] else (o.2.credits.filter fun c => c.tile == k && c.addr == a && c.gen == gen).map (·.granule)

/-- The waiters of a tile's counter whose generation it is are readied (R182, R184). -/
def State.readyCounter (s : State) (k a gen : Nat) : State :=
  (List.range 4).foldl (fun s d =>
    (s.die d).conts.foldl (fun s c =>
      if c.2.state == 1 && c.2.kind == 2 && c.2.word 5 == w64 (k * 2 ^ 32 + a) && wbits (c.2.word 0) 0 16 == gen then
        s.meet (mkHandle 2 c.2.gen d c.1) id
      else s) s) s

/-- A slot header that is FILLING becomes FULL when its counter's generation advances (R53). -/
def fillToFull (v : Nat) : Nat := if bits v 81 2 = 1 then v + (1 <<< 81) else v

/-- A fetch slot leaves FILLING once no member's header reads FILLING (R53, R55). -/
def State.leaveFilling (s : State) (i a : Nat) : State :=
  match mget s.ops i with
  | none => s
  | some o =>
    let x := o.walkDesc
    let q := (a - x.ring) / x.slotBytes
    match o.walk with
    | none => s
    | some w =>
      if x.back || !(w.busy.contains q) || o.members.any (fun m => (s.tile m).slotState s.cycle a == 1) then s
      else { s with ops := mput s.ops i { o with walk := some { w with busy := w.busy.filter (· != q), left := w.left - 1 } } }

/-- The running fetch walk of which a counter is a slot header at member k (R52, R53). -/
def State.slotWalk (s : State) (k a : Nat) : Option Nat :=
  (s.ops.find? fun p =>
    let x := p.2.walkDesc
    p.2.kind == .hwalk && !p.2.cancel && !p.2.spilled && p.2.walk.any (·.running) && !x.back && p.2.members.contains k &&
      decide (x.ring ≤ a) && (a - x.ring) % x.slotBytes == 0 && decide ((a - x.ring) / x.slotBytes < x.slots)).map (·.1)

/-- One credit of `n` bytes to the counter at `a` of tile k for a granule, by operation i (R47).  A slot that is FILLING becomes FULL as
the generation of its header advances, whichever operation credits it (R53). -/
def State.credit (s : State) (i : Nat) (o : Op) (k a g n : Nat) : State :=
  let t := s.tile k
  let v := t.fieldRead false s.cycle a 16
  if lcOver v then s
  else if lcTarget v < lcCount v + n then
    let s := s.modTile k fun t => t.atomicWrite s.cycle a 16 (lcPut v (lcCount v) (lcGen v) true)
    let fb := (mget t.field.lease (a / 65536)).getD o.fibre
    s.raiseOverflow fb k a
  else
    let gen := BitVec.ofNat 16 (lcGen v)
    let c : Credit := { tile := k, addr := a, gen := gen, reset := t.resetsAt a, bytes := n, granule := g }
    let s := { s with ops := mput s.ops i { (mget s.ops i).getD o with credits := ((mget s.ops i).getD o).credits ++ [c] } }
    if lcCount v + n = lcTarget v then
      let gs := s.creditedGranules k a gen
      let v := lcPut v 0 (lcGen v + 1) false
      let w := s.slotWalk k a
      let v := if w.isSome then fillToFull v else v
      let s := s.modTile k fun t => (t.atomicWrite s.cycle a 16 v).clearFlight gs
      let s := match w with
        | some i => s.leaveFilling i a
        | none => s
      s.readyCounter k a (lcGen v)
    else s.modTile k fun t => t.atomicWrite s.cycle a 16 (lcPut v (lcCount v + n) (lcGen v) false)

/-- The counter a part credits at a tile, and whether it is a slot header. -/
def Op.counterOf (o : Op) (p : Part) : Option (Nat × Bool) :=
  if o.kind = .hwalk then some (o.fieldAt p - 32, true) else o.counter.map fun a => (a, false)

/-- Clipped bytes of a part in a granule (R54). -/
def Op.clippedIn (o : Op) (p : Part) (g : Nat) : Nat :=
  if o.kind = .hwalk then
    let x := o.inGranule p g
    ((List.range x.2).filter fun b => o.walkDesc.clips p.off ((x.1 + b - o.fieldAt p) / o.walkDesc.size)).length
  else 0

/-! A granule that two parts of one copy share is written, or read, and credited once with the bytes of both (R47, R139): the
field address and the VA of a copy need agree modulo 8 only (R42). -/

/-- The parts of an operation that hold bytes of a granule, where part `p` does. -/
def Op.sharers (o : Op) (p : Part) (g : Nat) : List (Nat × Part) :=
  (o.parts.zipIdx.filter fun q => if o.kind = .hwalk then q.1 == p else q.1.rot == p.rot && (o.granulesOf q.1).contains g).map
    fun q => (q.2, q.1)

/-- Those that are live. -/
def Op.liveSharers (o : Op) (p : Part) (g : Nat) : List (Nat × Part) := (o.sharers p g).filter fun q => q.2.phase == .live

/-- The byte that a part brings for a field address: a piece read, or a walk's fill element (R54). -/
def Op.byteFor (o : Op) (p : Part) (a : Nat) : Option Byte :=
  if a < o.fieldAt p ∨ o.fieldAt p + o.partBytes p ≤ a then none
  else
    let at_ := a - o.fieldAt p
    let i := at_ / o.pieceBytes
    if !p.bad.isEmpty && (o.pieceVa p i).any fun va => p.badPage ((va + at_ % o.pieceBytes) / 65536) then none
    else some (byteAt (match mget p.got i with | some v => v.toNat | none => o.walkDesc.fill) (at_ % o.pieceBytes))

/-- The bytes of a granule that the parts sharing it bring. -/
def Op.granuleBytes (o : Op) (ps : List (Nat × Part)) (g : Nat) : List (Option Byte) :=
  (List.range 32).map fun b => ps.findSome? fun q => o.byteFor q.2 (32 * g + b)

/-- How many bytes of a granule lie in the parts that share it. -/
def Op.granuleCount (o : Op) (ps : List (Nat × Part)) (g : Nat) : Nat := (ps.map fun q => (o.inGranule q.2 g).2).foldl (· + ·) 0

/-- A slot header's clipped field grows by n bytes (R54). -/
def Tile.addClipped (t : Tile) (now a n : Nat) : Tile :=
  if n = 0 then t
  else
    let v := t.fieldRead false now a 16
    t.atomicWrite now a 16 (bits v 0 96 + (bits v 96 32 + n) % 2 ^ 32 * 2 ^ 96)

/-- The credit of a granule's `n` bytes, with its clipped bytes. -/
def State.creditPart (s : State) (i : Nat) (o : Op) (p : Part) (k g n : Nat) : State :=
  match o.counterOf p with
  | none => s
  | some (a, slot) =>
    let s := if slot then s.modTile k fun t => t.addClipped s.cycle a (o.clippedIn p g) else s
    s.credit i o k a g n

/-! ## Landings and port-B reads (R63, R64, R139) -/

/-- Does a queued or running ATTN, or a feed, that started no later than an operation's issue still have to read the granule
(R63)? -/
def Tile.awaitsRead (t : Tile) (g issue : Nat) : Bool :=
  let attn (c : MxCmd) (rows : List AttnRow) : Bool :=
    match c.op with
    | .attn _ v _ _ =>
      decide (c.issue ≤ issue) && (List.range 64).any fun n =>
        !(rows.any (·.n == n)) && (attnAddrs (wbits v 0 22) n).any fun a => decide (a / 32 ≤ g) && decide (g < a / 32 + 8)
    | _ => false
  let feed (f : Option Feed) : Bool := f.any fun f =>
    decide (f.since ≤ issue) && (match t.wget f.w with
      | some w => ((List.range f.left).foldl (fun (y : Walker × Bool) _ =>
          (y.1.advance.1, y.2 || decide (y.1.addr.toNat / 32 ≤ g) && decide (g < y.1.addr.toNat / 32 + 2))) (w, false)).2
      | none => false)
  t.mx.queue.any (attn · []) || (t.mx.run.any fun x => attn x.cmd x.rows) || feed t.feedA || feed t.feedB

/-- Is port B free to reach a granule: no store for it waits, and no earlier pipe read of it is owed (R63, R137)? -/
def Tile.portBOpen (t : Tile) (g issue : Nat) : Bool := !(t.sb.any (·.granule == g)) && !t.awaitsRead g issue

/-- The cycle a part's place in the tile's order belongs to: its operation's issue, or the HPERMIT that started a walk's tile
(R63, R308). -/
def Op.placeOf (o : Op) (p : Part) : Nat := if o.kind = .hwalk then p.sent else o.issue

/-- Is a counter's or slot header's granule free for the harrow or a credit: every store to it that is older than the operation
has drained, and no earlier pipe read of it is owed (R63)? -/
def Tile.counterOpen (t : Tile) (own : Bool) (mark issue a : Nat) : Bool :=
  !(t.sb.any fun e => e.granule == a / 32 && (if own then decide (e.id < mark) else e.parts.any fun p => decide (p.since ≤ issue))) &&
    !t.awaitsRead (a / 32) issue

/-- The same for the counter that a part credits at tile k. -/
def State.creditOpen (s : State) (o : Op) (p : Part) (k : Nat) : Bool :=
  (o.counterOf p).all fun c => (s.tile k).counterOpen (k == o.tile) o.sbMark (o.placeOf p) c.1

/-- Has the router of tile k let in the messages of a part (R228)? -/
def State.letIn (s : State) (i j k : Nat) : Bool := !(s.messages.any fun m => m.2.op == i && m.2.part == j && m.2.tile == k)

/-- Have the pieces of a part in a granule been read, or failed? -/
def Op.piecesHere (o : Op) (p : Part) (g : Nat) : Bool :=
  (o.piecesIn p g).all fun i => (o.pieceVa p i).isNone || (mget p.got i).isSome || o.badPiece p i

/-- May a granule of a part land at tile k?  The parts that share it have all been sent, and those that still stand have their
bytes. -/
def State.landReady (s : State) (i j : Nat) (o : Op) (p : Part) (k g : Nat) : Bool :=
  !o.writes && (o.partTiles p).contains k && (o.granulesOf p).contains g && !p.landed.contains (k, g) && o.landsIn p g &&
  ((o.sharers p g).all fun q => q.2.phase != .unsent) &&
  ((o.liveSharers p g).all fun q => s.letIn i q.1 k && o.piecesHere q.2 g) && s.letIn i j k &&
  (s.tile k).portBOpen g (o.placeOf p) && s.creditOpen o p k

/-- The sideband tags of a CPYF's row (R50). -/
def Op.rowTags (o : Op) (p : Part) (g : Nat) : Option (Nat × Nat × Nat) :=
  match o.frame with
  | some (h, base, first) =>
    if p.rot then none
    else some (g / 8, hDie h * 2 ^ 22 + hIndex h, (base + first + (32 * g - o.dst) / 256) % 2 ^ 24)
  | none => none

/-- The lowest VA of a part's pieces in a granule. -/
def Op.vaIn (o : Op) (p : Part) (g : Nat) : Nat :=
  ((o.piecesIn p g).filterMap (o.pieceVa p)).foldl min ((((o.piecesIn p g).findSome? (o.pieceVa p))).getD p.va)

/-- What an access of port B to a granule and to the counter it credits meets: a tile without a key (R66), or a granule that
must be read and cannot be rebuilt (R65). -/
def State.portBTrip (s : State) (o : Op) (p : Part) (k g : Nat) (reads : Bool) : Option Nat :=
  let t := s.tile k
  if !t.keyOk then some 2
  else if reads && t.lost g then some 3
  else if (o.counterOf p).any fun c => t.lost (c.1 / 32) then some 3
  else none

/-- Errors that port B corrects or rebuilds in a granule it reads and in the counter it credits (R65). -/
def State.repairB (s : State) (o : Op) (p : Part) (k g : Nat) (reads : Bool) : State :=
  let s := if reads then s.repair k (32 * g) 32 else s
  match o.counterOf p with
  | some c => s.repair k c.1 16
  | none => s

/-- A granule with some of its bytes replaced (R64). -/
def Tile.landBytes (t : Tile) (g : Nat) (bs : List (Option Byte)) : Tile :=
  let old := t.bankRead (32 * g) 32
  t.bankWrite (32 * g) 32 (numOfBytes (bs.zipIdx.map fun b => b.1.getD (byteAt old b.2)))

/-- GRANULE_LANDING (R47, R139): the granule's new bytes are written, and credited, at once; a tile whose key is not valid refuses
it (R66), and so does a granule that is not written whole and cannot be rebuilt (R65). -/
def execGranuleLanding (i j n : Nat) (s : State) : Result :=
  let k := granuleTile n
  let g := granuleOf n
  match s.livePart i j with
  | none => .next s
  | some (o, p) =>
    if !s.landReady i j o p k g then .next s
    else
      let ps := o.liveSharers p g
      let bs := o.granuleBytes ps g
      let m := (bs.filter (·.isSome)).length
      match s.portBTrip o p k g (m != 32) with
      | some kind => .next (s.failPart i j kind (o.vaIn p g))
      | none =>
        let s := (s.repairB o p k g (m != 32)).modTile k fun t =>
          let t := t.landBytes g bs
          match o.rowTags p g with
          | some (row, f, q) => t.stampRow row f q
          | none => t
        let s := ps.foldl (fun s q => s.modPart i q.1 fun p => { p with landed := (k, g) :: p.landed }) s
        let s := { s with ops := mput s.ops i { (mget s.ops i).getD o with landed := ((mget s.ops i).getD o).landed + m } }
        .next (s.creditPart i o p k g m)

/-- May port B read a source granule of a part?  The parts that share it have all been sent. -/
def State.readReady (s : State) (i j : Nat) (o : Op) (p : Part) (k g : Nat) : Bool :=
  o.writes && o.kind != .fst && (o.granulesOf p).contains g && !p.read.contains g && (o.partTiles p).contains k &&
  ((o.sharers p g).all fun q => q.2.phase != .unsent) && s.letIn i j k &&
  (s.tile k).portBOpen g (o.placeOf p) && s.creditOpen o p k

/-- PORT_B_READ (R64, R65): a source granule of a CPYW or a write-back walk is read whole, and credited; a tile whose key is not
valid refuses it (R66).  What it reads stands in the part's image (R138, R308). -/
def execPortBRead (i j n : Nat) (s : State) : Result :=
  let k := granuleTile n
  let g := granuleOf n
  match s.livePart i j with
  | none => .next s
  | some (o, p) =>
    if !s.readReady i j o p k g then .next s
    else match s.portBTrip o p k g true with
      | some kind => .next (s.failPart i j kind (o.vaIn p g))
      | none =>
        let ps := o.liveSharers p g
        let s := ps.foldl (fun s q => s.modPart i q.1 fun p => { p with read := ins p.read g }) (s.repairB o p k g true)
        .next (s.creditPart i o p k g (o.granuleCount ps g))

/-! ## Completion (R45, R55, R145) -/

/-- Are the far writes of an operation visible at its scope? -/
def State.opVisible (s : State) (i : Nat) (o : Op) : Bool := s.visibleAt o.scope (·.op == i)

/-- Bytes an operation transferred: landed, or read by port B for one that writes far memory. -/
def Op.transferred (o : Op) : Nat :=
  if o.kind = .fst then 8
  else if o.kind = .hwalk then o.walkDesc.tileBytes * o.walkDesc.tiles * o.members.length
  else if o.writes then o.length else o.landed

/-- The final value of a completion register: the first of R45's conditions that applies. -/
def Op.finalValue (o : Op) : Word :=
  match o.lowestFault with
  | some (k, va) => cval 3 k va.toNat
  | none =>
    if o.parts.any fun p => match p.phase with | .rebuild _ _ => true | _ => false then cval 5 0 0
    else if o.cancel then cval 4 0 (if o.writes then ((o.parts.map fun p => o.pieceBytes * p.put.length).foldl (· + ·) 0) else o.landed)
    else cval 2 0 o.transferred

/-- The in-flight bits that an operation has set and no event has cleared since are cleared (R48, R56). -/
def State.clearOp (s : State) (i : Nat) (o : Op) : State :=
  (o.tile :: o.members).foldl (fun s k => s.modTile k (·.clearOwned i)) s

/-- An operation ends: bits cleared, its hold on a frame's pages gone, its register written (R48, R195). -/
def State.endOp (s : State) (i : Nat) (o : Op) : State :=
  let s := s.clearOp i o
  let s := { s with messages := s.messages.filter fun m => m.2.op != i }
  let s := s.finishOp i o o.finalValue
  match o.frame with
  | some (h, _, _) => s.dropFrameRef h
  | none => s

/-- Has an operation's issue been confirmed: is its verdict's cycle here (R301)? -/
def State.opConfirmed (s : State) (o : Op) : Bool := decide (o.sendAt ≤ s.cycle + 1)

/-- Has a copy, a walk or a far access finished (R45, R55)?  A walk of no tiles, as a copy of no bytes, has at its verdict
(R42, R51, R306); it then writes no slot headers (log entry 104). -/
def State.opOver (s : State) (i : Nat) (o : Op) : Bool :=
  !o.cancel && !o.spilled && o.parts.all o.partOver && s.opVisible i o && s.opConfirmed o &&
  (match o.walk with
    | some w => o.walkDesc.tiles == 0 || (w.running && w.isOver) || o.lowestFault.isSome
    | none => true)

/-- Does an operation that moves nothing complete in this cycle, that of its verdict (R42, R51, R301)? -/
def State.emptyDue (s : State) (o : Op) : Bool :=
  o.length == 0 && !o.cancel && !o.spilled && s.opConfirmed o

/-- COPY_COMPLETE (R45). -/
def execCopyComplete (i : Nat) (s : State) : Result :=
  match mget s.ops i with
  | none => .next s
  | some o => if s.opOver i o then .next (s.endOp i o) else .next s

/-! ## Walks (R51–R55, R306–R308) -/

/-- A slot header of a walk that starts: target, count 0, EMPTY; the generation stays (R53). -/
def Tile.writeHeader (t : Tile) (x : WalkDesc) (now f : Nat) : Tile :=
  t.atomicWrite now f 16 (x.tileBytes % 2 ^ 32 + lcGen (t.fieldRead false now f 16) * 2 ^ 64)

/-- Every slot header of walk i written at one member (R53, R65). -/
def State.writeHeaders (s : State) (i m : Nat) (x : WalkDesc) : State :=
  (List.range x.slots).foldl (fun s q => s.onHeader i m (x.slotAt q) fun t => t.writeHeader x s.cycle (x.slotAt q)) s

/-- Are the headers of some slots of a walk free for the harrow at every member (R63)? -/
def State.headersOpen (s : State) (o : Op) (slots : List Nat) : Bool :=
  o.members.all fun m => slots.all fun q => (s.tile m).counterOpen (m == o.tile) o.sbMark o.issue (o.walkDesc.slotAt q)

/-- The walk that a tile's harrow may start: the oldest queued one, when none runs, a cancelled one that has not stopped among them, and
its issue has committed (R51). -/
def State.nextWalk (s : State) (k : Nat) : Option (Nat × Op) :=
  let ws := s.walksOf k
  if ws.any fun p => p.2.walk.any (·.running) then none
  else ((ws.filter fun p => !p.2.cancel).find? fun p => p.2.walk.any (!·.running)).filter fun p =>
    decide (p.2.issue + 14 < s.cycle) && s.headersOpen p.2 (List.range p.2.walkDesc.slots)

/-- HARROW_WALK_START (R53, R307). -/
def execHarrowWalkStart (k : Nat) (s : State) : Result :=
  match s.nextWalk k with
  | none => .next s
  | some (i, o) =>
      match o.walk with
      | none => .next s
      | some w =>
        let x := o.walkDesc
        let s := o.members.foldl (fun s m => s.writeHeaders i m x) s
        let permits := if x.back then [] else o.members.flatMap fun m => (List.range x.slots).map fun q => slotKey q m
        let left := if x.back then x.tiles * o.members.length else x.tiles
        let w := { w with running := true, permits := permits.foldl ins [], left := left, early := [] }
        let s := { s with ops := mput s.ops i { (mget s.ops i).getD o with walk := some w } }
        .next (((o.walk.map (·.early)).getD []).foldl (fun s p => s.permit i (p / 65536) (p % 65536)) s)

/-- May the next tile of a running fetch walk start: every member's permit held and slot EMPTY (R53)?  After a tile of the walk has
faulted none starts, which is the model's choice (log entry 73). -/
def State.tileReady (s : State) (o : Op) (w : Walk) : Bool :=
  let x := o.walkDesc
  let q := w.next % x.slots
  w.running && !x.back && !o.cancel && decide (w.next < x.tiles) && o.lowestFault.isNone && s.headersOpen o [q] &&
  o.members.all fun m => w.permits.contains (slotKey q m) && (s.tile m).slotState s.cycle (x.slotAt q) == 0

/-- HARROW_TILE_START (R53): the next tile's slot is FILLING at every member; its permits are consumed. -/
def execHarrowTileStart (k : Nat) (s : State) : Result :=
  match (s.walksOf k).find? fun p => p.2.walk.any fun w => s.tileReady p.2 w with
  | none => .next s
  | some (i, o) =>
    match o.walk with
    | none => .next s
    | some w =>
      let x := o.walkDesc
      let q := w.next % x.slots
      if o.members.any fun m => (s.tile m).lost (x.slotAt q / 32) then .next (s.failHeader i)
      else
      let s := o.members.foldl (fun s m => (s.repair m (x.slotAt q) 16).modTile m fun t =>
        (t.startSlot s.cycle (x.slotAt q) 1).setFlight i (x.slotAt q + 32) x.tileBytes) s
      let p := { Part.new x.base x.tileBytes w.next false with phase := .live, accepted := o.members, sent := s.cycle }
      let w := { w with next := w.next + 1, permits := w.permits.filter fun y => !((o.members.map (slotKey q ·)).contains y)
                        busy := ins w.busy q }
      .next ({ s with ops := mput s.ops i { o with parts := o.parts ++ [p], walk := some w } }.post i o.parts.length o.ctx o.members)

/-- A slot of a write-back walk at one member has finished its tile: every byte written at its scope, the generation
advanced (R53). -/
def State.slotOver (s : State) (i : Nat) (o : Op) (y : Nat) : Bool :=
  let x := o.walkDesc
  let f := x.slotAt (y % 65536)
  let t := s.tile (y / 65536)
  (o.parts.all fun p => !(p.accepted.contains (y / 65536) && p.off % x.slots == y % 65536) || (o.partOver p && p.faults.isEmpty)) &&
  s.opVisible i o && t.counterOpen (y / 65536 == o.tile) o.sbMark o.issue f &&
  (o.walk.bind fun w => mget w.gens y).any fun g => t.counterGen s.cycle f != g

/-- SLOT_DRAINED (R53): a DRAINING slot returns to EMPTY. -/
def execSlotDrained (i y : Nat) (s : State) : Result :=
  match mget s.ops i with
  | none => .next s
  | some o =>
    match o.walk with
    | none => .next s
    | some w =>
      if !o.walkDesc.back || !(w.busy.contains y) || o.cancel || o.spilled || !s.slotOver i o y then .next s
      else
        let w := { w with busy := w.busy.filter (· != y), left := w.left - 1 }
        let s := { s with ops := mput s.ops i { o with walk := some w } }
        .next (s.onHeader i (y / 65536) (o.walkDesc.slotAt (y % 65536)) fun t => t.setSlot s.cycle (o.walkDesc.slotAt (y % 65536)) 0)

/-! ## Cancellation (R56) -/

/-- Credits that still count: of the counter's current generation, after its latest LNDSET. -/
def State.liveCredits (s : State) (o : Op) : List Credit :=
  o.credits.filter fun c =>
    let t := s.tile c.tile
    c.gen.toNat == lcGen (t.fieldRead false s.cycle c.addr 16) && c.reset == t.resetsAt c.addr

/-- The counters an operation credited are debited (R56, R65). -/
def State.debit (s : State) (i : Nat) (o : Op) : State :=
  (s.liveCredits o).foldl (fun s c =>
    s.onHeader i c.tile c.addr fun t =>
      let v := t.fieldRead false s.cycle c.addr 16
      t.atomicWrite s.cycle c.addr 16 (lcPut v (lcCount v - c.bytes) (lcGen v) (lcOver v))) s

/-- The FILLING and DRAINING slots of a cancelled walk return to EMPTY, with permits held in a fetch walk (R56). -/
def State.emptySlots (s : State) (i : Nat) (o : Op) : State :=
  match o.walk with
  | none => s
  | some w =>
    let x := o.walkDesc
    w.busy.foldl (fun s y =>
      (if x.back then [y / 65536] else o.members).foldl (fun s m =>
        s.onHeader i m (x.slotAt (y % 65536)) fun t =>
          let f := x.slotAt (y % 65536)
          if t.slotState s.cycle f % 2 = 1 then t.setSlot s.cycle f 0 else t) s) s

/-- May a cancelled operation's register read 4: its issue is confirmed and its performed writes are visible (R56, R303)? -/
def State.cancelDue (s : State) (i : Nat) (o : Op) : Bool := o.cancel && !o.spilled && s.opConfirmed o && s.opVisible i o

/-- CANCELLATION_DONE (R56): every part has stopped. -/
def execCancellationDone (i : Nat) (s : State) : Result :=
  match mget s.ops i with
  | none => .next s
  | some o =>
    if s.cancelDue i o then
      let s := (s.debit i o).emptySlots i o
      .next (s.endOp i ((mget s.ops i).getD o))
    else .next s

/-- DMA_TIMEOUT_ABORT (R238): a part on a host page is aborted with kind 5. -/
def execDmaTimeoutAbort (i j : Nat) (s : State) : Result :=
  match s.livePart i j with
  | none => .next s
  | some (o, p) =>
    match p.trans.find? fun t => t.2.target == 1 && s.hostPriv.contains t.2.ppn && !p.badPage t.1 with
    | some (page, _) => .next (s.failPage i j o 5 (o.lowestIn p page))
    | none => .next s

/-- Reference time of 1 ms (R266). -/
def linkTimeout : Nat := 2400000

/-- The pages of a part that a link carries and that have open pieces. -/
def Op.linkPages (o : Op) (p : Part) : List (Nat × Trans) :=
  let l := o.openPieces p
  p.trans.filter fun t => t.2.target == 2 && l.any fun n => (o.goodPages p n).contains t.1

/-- Has a part reached a module: has a piece of one of its pages there been performed? -/
def Op.reached (o : Op) (p : Part) (m : Nat) : Bool :=
  (List.range (o.pieces p)).any fun n => o.piecePut p n && (o.pieceTrans p n).any fun t => t.target == 2 && t.module == m

/-- A page of a part whose module has not been reached within 1 ms of the part's first send there (R266). -/
def State.latePage (s : State) (o : Op) (p : Part) : Option Nat :=
  if p.phase != .live || p.since.isEmpty then none
  else ((o.linkPages p).find? fun t =>
    (mget p.since t.2.module).any (fun c => decide (c + linkTimeout ≤ s.time)) && !o.reached p t.2.module).map (·.1)

/-- LINK_PART_TIMEOUT (R266): a part that has not reached its target fails with kind 5. -/
def execLinkPartTimeout (i j : Nat) (s : State) : Result :=
  match s.livePart i j with
  | none => .next s
  | some (o, p) =>
    match s.latePage o p with
    | some page => .next (s.failPage i j o 5 (o.lowestIn p page))
    | none => .next s

end Sys2Proof.Machine
end

