-- ==== Sys2Proof/Machine/Moves.lean ====
section
/-!
DEFINITION. Sys2Proof/Machine/Moves.lean: the moves of the Sheaf and the drills outside any task (R201–R203, R207, R209),
invalidations (R32, R33, R238), mesh messages (R228), remote windows (R235, R236) and module links (R264–R266).
-/
namespace Sys2Proof.Machine

/-! ## Row moves (R201–R203) -/

/-- `n` aligned doubles moved from one VA to another: the first fault with its VA. -/
def State.moveRow (s : State) (d x src dst : Nat) : (n : Nat) → State × Option (Nat × Nat)
  | 0 => (s, none)
  | n + 1 =>
    match s.moveRow d x src dst n with
    | (s, some f) => (s, some f)
    | (s, none) =>
      match s.vaGet (.die d) x (src + 8 * n) 8 .read with
      | (s, .inl k) => (s, some (k, src + 8 * n))
      | (s, .inr v) =>
        match s.vaPut x (dst + 8 * n) 8 v with
        | (s, some k) => (s, some (k, dst + 8 * n))
        | (s, none) => (s, none)

/-- Do the drill of a VA's page and the port that its translation leads to let a context begin another line there (R58), and does the link
towards another module take it (R264)?  A page that does not translate holds nothing back. -/
def State.lineOpen (s : State) (x va : Nat) (k : Access) : Bool :=
  match (s.translate x va k).2 with
  | .inl _ => true
  | .inr t => s.unitsOpen x (colour (va / 65536)) t (k == .write) && s.linkCalm t

/-- Does the link towards the page of a VA take another access (R264)? -/
def State.lineCalm (s : State) (x va : Nat) (k : Access) : Bool :=
  match (s.translate x va k).2 with
  | .inl _ => true
  | .inr t => s.linkCalm t

/-- `n` bytes of a line at a VA, counted by its drill and port (R58). -/
def State.spendLine (s : State) (x va n : Nat) (k : Access) : State :=
  match (s.translate x va k).2 with
  | .inl _ => s
  | .inr t => s.spendUnits x (colour (va / 65536)) t (k == .write) n

/-- May a line move from one VA to another: may it be read, and written once its reading has been counted (R58)? -/
def State.moveOpen (s : State) (x a b : Nat) : Bool := s.lineOpen x a .read && (s.spendLine x a 64 .read).lineOpen x b .write

/-- A line of 64 bytes moved by the drills, and counted (R58); its reading and its writing leave in packets where they are remote, the
writing only once a double has been read (R264). -/
def State.moveLine (s : State) (d x a b : Nat) : State × Option (Nat × Nat) :=
  let y := s.moveRow d x a b 8
  let s := y.1.reachLine x a .read
  let s := if y.2.any fun f => f.2 == a then s else s.reachLine x b .write
  ((s.spendLine x a 64 .read).spendLine x b 64 .write, y.2)

/-- Does an earlier FRET still move rows of a frame of this one, or into one (R201)? -/
def State.fretBlocked (s : State) (j : FretJob) : Bool := s.frets.any fun q =>
  decide (q.2.seq < j.seq) && (q.2.into == j.from_ || q.2.into == j.into || q.2.from_ == j.into)

/-- May a FRET move its next line? -/
def State.fretDue (s : State) (j : FretJob) : Bool := !s.fretBlocked j &&
  match j.moves with
  | [] => true
  | (a, b) :: _ => s.moveOpen j.ctx a.toNat b.toNat

/-- A FRET's moves are over: its hold on both frames' pages ends (R50, R195). -/
def State.endFret (s : State) (i : Nat) (j : FretJob) : State :=
  ({ s with frets := mdel s.frets i }.dropFrameRef j.from_).dropFrameRef j.into

/-- The rows left after a line of the first has been moved. -/
def restMoves (a b : Word) (r : List (Word × Word)) : List (Word × Word) :=
  if wbits a 0 8 = 192 then r else (a + 64#64, b + 64#64) :: r

/-- FRET_ROW_MOVE (R201): the drills move the next line of a returned span; after the last the callee's pages are free.  A line that meets a
fault is not moved, and the next one is (log entry 98). -/
def execFretRowMove (i : Nat) (s : State) : Result :=
  match mget s.frets i with
  | none => .next s
  | some j =>
    if !s.fretDue j then .next s
    else match j.moves with
    | [] => .next (s.endFret i j)
    | (a, b) :: r =>
      let s := (s.moveLine (hDie j.from_) j.ctx a.toNat b.toNat).1
      let r := restMoves a b r
      if r.isEmpty then .next (s.endFret i j)
      else .next { s with frets := mput s.frets i { j with moves := r } }

/-- The compaction list of a frame (R194): n token indices. -/
def State.readList (s : State) (d x : Nat) (f : Frame) (n : Nat) : State × ((Nat × Nat) ⊕ List Nat) :=
  s.vaReadMany (.die d) x (f.list + 32768) 4 .read n

/-- Is a compaction list refused: not strictly ascending, below k, or at or beyond the token count (R202)? -/
def listBad (l : List Nat) (k count : Nat) : Bool :=
  ((l.zip (l.drop 1)).any fun p => decide (p.2 ≤ p.1)) || l.head?.any (fun a => decide (a < k)) ||
  l.getLast?.any (fun a => decide (count ≤ a))

/-- A compaction ends: its wait and those of earlier FCOMPACTs of the frame are met (R183, R202). -/
def State.meetCompaction (s : State) (i : Nat) (j : CompactJob) (f : ContRec → ContRec) : State :=
  (j.conts ++ [j.cont]).foldl (fun s h => s.meet h f) { s with compacts := mdel s.compacts i }

/-- A compaction stops at a fault (R203): at POISON the continuation resumes TRAPPED; otherwise it is reported to the host and
waits for the resume command. -/
def State.compactFault (s : State) (i : Nat) (j : CompactJob) (kind va : Nat) : State :=
  if kind = 3 then s.meetCompaction i j fun c => { c with trap := some (codePoison, 0#8) }
  else
    let tile := wbits ((s.cont (hDie j.cont) (hIndex j.cont)).word 0) 37 10
    { s with compacts := mput s.compacts i { j with halted := true, step := 0 } }.send
      (.compactionFault (coreOf tile) (s.frameHandle j.die j.frame) (w64 va))

/-- The next line of a row of a compaction, plane after plane (R202): its source and destination, or a fault with its VA. -/
def State.compactLine (s : State) (j : CompactJob) (src dst : Nat) : State × ((Nat × Nat) ⊕ (Nat × Nat)) :=
  let f := s.frame j.die j.frame
  let q := j.step / 4
  match s.rowVa j.die f.ctx f q src with
  | (s, .inl k) => (s, .inl (k, f.list + 8 * pageEntry q src))
  | (s, .inr a) =>
    match s.rowVa j.die f.ctx f q dst with
    | (s, .inl k) => (s, .inl (k, f.list + 8 * pageEntry q dst))
    | (s, .inr b) => (s, .inr (a + 64 * (j.step % 4), b + 64 * (j.step % 4)))

/-- A row's log entry, in both copies (R202). -/
def State.compactLog (s : State) (j : CompactJob) (src dst : Nat) : State × Option (Nat × Nat) :=
  let f := s.frame j.die j.frame
  match s.logRead j.die f.ctx f src with
  | (s, .inl k) => (s, some (k, f.log + 4 * src))
  | (s, .inr v) =>
    match s.logWrite f.ctx f dst v with
    | (s, some k) => (s, some (k, f.log + 4 * dst))
    | (s, none) => (s, none)

/-- A compaction is finished: the token count, the pages beyond it returned, the last taken first, the frame OPEN, the waits met
(R202, R394). -/
def State.endCompaction (s : State) (i : Nat) (j : CompactJob) (count : Nat) : State :=
  let f := s.frame j.die j.frame
  let old := (f.tokens + 255) / 256
  let new := (count + 255) / 256
  let entries := (List.range' new (old - new)).flatMap fun t => (List.range f.planes).map fun q => 64 * q + t
  let y := entries.foldl (fun (acc : State × List Nat) e =>
    match acc.1.vaRead (.die j.die) f.ctx (f.list + 8 * e) 8 .read with
    | (s, .inl _) => (s, acc.2)
    | (s, .inr v) => ((s.vaWrite f.ctx (f.list + 8 * e) 8 0).1, bits v 16 39 :: acc.2)) (s, [])
  let freed (p : Word) : Bool := y.2.contains (wbits p 16 39)
  let s := (f.pages.reverse.filter freed).foldl (fun s p => s.returnPage j.die f.ctx p) y.1
  let s := s.modFrame j.die j.frame fun f =>
    { (f.setState frameOpen).setTokens count with pages := f.pages.filter (fun p => !freed p), was := none }
  s.meetCompaction i j id

/-- A refused list: the frame is OPEN again with the fields that stood before (R202). -/
def Frame.uncompacted (f : Frame) : Frame :=
  match f.was with
  | none => f.setState frameOpen
  | some (w2, w3) =>
    { ((f.setState frameOpen).setField 2 39 15 (wbits w2 39 15)).setField 3 30 15 (wbits w3 30 15) with was := none }.setField 3 15 15
      (wbits w3 15 15)

/-- The row a compaction moves next: source and destination. -/
def State.compactMove (s : State) (j : CompactJob) : Option (Nat × Nat) :=
  let f := s.frame j.die j.frame
  (j.list.bind fun l => l[f.progress]?).map fun a => (a, wbits (f.word 2) 39 15 + f.progress)

/-- May a compaction take its next step?  A row waits while a part of an earlier CPYF still has to read the frame (R50), and each
line for the drills' budgets (R58). -/
def State.compactDue (s : State) (j : CompactJob) : Bool :=
  let f := s.frame j.die j.frame
  !j.halted && f.refs == 0 && (match s.compactMove j with
    | none => true
    | some (src, dst) =>
      if 4 * f.planes ≤ j.step then s.lineCalm f.ctx (f.log + 4 * src) .read && s.lineCalm f.ctx (f.log + 4 * dst) .write
      else match (s.compactLine j src dst).2 with
      | .inl _ => true
      | .inr (a, b) => s.moveOpen f.ctx a b)

/-- The next step of a row from `src` to `dst`: a line, or after the last the log entry and the progress. -/
def State.compactStep (s : State) (i : Nat) (j : CompactJob) (src dst : Nat) : State :=
  let f := s.frame j.die j.frame
  if j.step < 4 * f.planes then
    match s.compactLine j src dst with
    | (s, .inl (kind, va)) => s.compactFault i j kind va
    | (s, .inr (a, b)) =>
      match s.moveLine j.die f.ctx a b with
      | (s, some (kind, va)) => s.compactFault i j kind va
      | (s, none) => { s with compacts := mput s.compacts i { j with step := j.step + 1 } }
  else
    match s.compactLog j src dst with
    | (s, some (kind, va)) => s.compactFault i j kind va
    | (s, none) =>
      { (s.modFrame j.die j.frame fun f => f.setProgress (f.progress + 1)) with compacts := mput s.compacts i { j with step := 0 } }

/-- COMPACTION_ROW_MOVE (R202): the list is read first, then one row at a time. -/
def execCompactionRowMove (i : Nat) (s : State) : Result :=
  match mget s.compacts i with
  | none => .next s
  | some j =>
    let f := s.frame j.die j.frame
    let k := wbits (f.word 2) 39 15
    let n := wbits (f.word 3) 30 15
    if !s.compactDue j then .next s
    else match j.list with
      | none =>
        match s.readList j.die f.ctx f n with
        | (s, .inl (kind, va)) => .next (s.compactFault i j kind va)
        | (s, .inr l) =>
          if listBad l k f.tokens then
            let s := s.modFrame j.die j.frame (·.uncompacted)
            .next (s.meetCompaction i j fun c => { c with trap := some (codeStack, subBadSpan) })
          else .next { s with compacts := mput s.compacts i { j with list := some l } }
      | some _ =>
        match s.compactMove j with
        | none => .next (s.endCompaction i j (k + n))
        | some (src, dst) => .next (s.compactStep i j src dst)

/-! ## Prefix lookup (R207) -/

/-- The tokens of a prompt of b blocks, as doubles; none where reading it faults. -/
def State.readPrompt (s : State) (x : Nat) (va : Word) (n : Nat) : State × Option (List Nat) :=
  match s.vaReadMany (.die 0) x va.toNat 4 .read n with
  | (s, .inr l) => (s, some l)
  | (s, .inl _) => (s, none)

/-- The chain hashes H_1 to H_b of a prompt (R206). -/
def chainHashes (tokens : List Nat) : (b : Nat) → Word → List Word
  | 0, _ => []
  | b + 1, h =>
    let h := (tokens.take 16).foldl hashStep h
    h :: chainHashes (tokens.drop 16) b h

/-- The start value of a chain (R206). -/
def chainStart : Word := 0xCBF29CE484222325#64

/-- Do the first n tokens of a frame's log equal the prompt's? -/
def State.logMatches (s : State) (x : Nat) (h : Word) (tokens : List Nat) : State × Bool :=
  (tokens.zipIdx).foldl (fun (acc : State × Bool) t =>
    if acc.2 then
      match acc.1.logRead (hDie h) x (s.frameAt h) t.2 with
      | (s, .inr v) => (s, v == t.1)
      | (s, .inl _) => (s, false)
    else acc) (s, true)

/-- The winning entry of a lookup's table: greatest depth, lowest index, with a verified log (R207). -/
def State.findPrefix (s : State) (j : LookupJob) (tokens : List Nat) (hs : List Word) : State × Option (Nat × PrefixEnt) :=
  let es := j.table.filter fun e =>
    decide (e.1 < 64) && e.2.valid && decide (e.2.depth ≤ hs.length) && hs[e.2.depth - 1]? == some (e.2.word 0)
  let sorted := (List.range 1024).reverse.flatMap fun d => es.filter fun e => e.2.depth == d + 1
  sorted.foldl (fun (acc : State × Option (Nat × PrefixEnt)) e =>
    if acc.2.isSome then acc
    else
      match acc.1.logMatches j.ctx (e.2.word 1) (tokens.take (16 * e.2.depth)) with
      | (s, true) => (s, some e)
      | (s, false) => (s, none)) (s, none)

/-- The value a lookup writes (R207). -/
def lookupValue : Option (Nat × PrefixEnt) → Word
  | none => 0#64
  | some (i, e) => w64 (e.depth + i * 2 ^ 16 + e.gen.toNat * 2 ^ 22)

/-- A lookup ends: its future is written, and what it held is let go (R22). -/
def State.endLookup (s : State) (j : LookupJob) (v : Word) : State :=
  j.frames.foldl (fun s h => s.dropFrameRef h) ((s.moduleFutw j.ctx j.fut v).dropCellRef j.fut)

/-- PREFIX_LOOKUP (R207): the prompt is read and the table, as it stood at the lookup's place, compared (R388). -/
def execPrefixLookup (i : Nat) (s : State) : Result :=
  match mget s.lookups i with
  | none => .next s
  | some j =>
    let s := { s with lookups := mdel s.lookups i }
    match s.readPrompt j.ctx j.va (16 * j.b) with
    | (s, none) => .next (s.endLookup j 0x8000000000000000#64)
    | (s, some tokens) =>
      let y := s.findPrefix j tokens (chainHashes tokens j.b chainStart)
      .next (y.1.endLookup j (lookupValue y.2))

/-! ## KV rebuild (R209) -/

/-- Does a part of an operation land rows of a frame's page? -/
def Op.onEntry (o : Op) (h : Word) (e : Nat) (p : Part) : Bool :=
  o.kind == .cpyf && !p.rot && o.entryOf p == some (h, e) &&
    (p.phase == .unsent || (p.phase == .live && !o.partOver p))

/-- The parts of an operation on a page that is being rebuilt stop. -/
def Op.markEntry (o : Op) (h : Word) (e : Nat) : Op :=
  { o with parts := o.parts.map fun p => if o.onEntry h e p then { p with phase := .rebuild h e } else p }

/-- The parts on a page that is being rebuilt land nothing and credit nothing (R209). -/
def State.markRebuild (s : State) (h : Word) (e : Nat) : State :=
  { s with ops := s.ops.map fun x => (x.1, x.2.markEntry h e) }

/-- The lowest VA of a part's pieces that have not been performed. -/
def Op.lowestOpen (o : Op) (p : Part) : Nat :=
  match (o.openPieces p).filterMap (o.pieceVa p) with
  | [] => p.va
  | v :: l => l.foldl min v

/-- KV_REBUILD_START (R209): the page-list entry is marked, a fresh page taken, which the frame took last (R394), the registered
record patched and armed.  Where that cannot be done the part fails with kind 3. -/
def execKvRebuildStart (i j : Nat) (s : State) : Result :=
  match (mget s.ops i).bind fun o => o.parts[j]?.map fun p => (o, p) with
  | none => .next s
  | some (o, p) =>
    match p.phase with
    | .rebuild h e =>
      if s.rebuilding h e then .next s
      else
        let f := s.frameAt h
        let va := o.lowestOpen p
        match s.rebuildTask o.ctx, s.vaRead (.die (hDie h)) o.ctx (f.list + 8 * e) 8 .read with
        | some k, (s, .inr v) =>
          let first := e % 64 * 256
          let n := min 256 (f.tokens - first)
          match s.takePage (hDie h) o.ctx with
          | (s, none) => .next (s.failPart i j 3 va)
          | (s, some page) =>
            let s := (s.vaWrite o.ctx (f.list + 8 * e) 8 (v / 2 * 2 + 1)).1
            let s := s.modFrame (hDie h) (hIndex h) fun f => { f with pages := f.pages ++ [page] }
            let t := s.taskAt k
            let t := ((t.setWord 8 h).setWord 9 (w64 (first + n * 2 ^ 16 + e / 64 * 2 ^ 32))).setWord 10 page
            let s := s.putTaskAt k t
            let job : RebuildJob := { ctx := o.ctx, frame := h, entry := e, page := page, fut := t.word 11 }
            .next (({ s with rebuilds := mput s.rebuilds s.seq job, seq := s.seq + 1 }.arm o.ctx k).1.markRebuild h e)
        | _, (s, _) => .next (s.failPart i j 3 va)
    | _ => .next s

/-- No continuation waits for a future any more unless another rebuild does (R209). -/
def State.releaseRebuild (s : State) (fut : Word) : State :=
  if s.rebuilds.any fun q => q.2.fut == fut then s
  else { s with dies := s.dies.map fun (y : Die) =>
    { y with conts := y.conts.map fun c => (c.1, { c.2 with rebuild := c.2.rebuild.filter (· != fut) }) } }

/-- The fresh page of a rebuild is not needed: it goes back to the pool (R394). -/
def State.giveFresh (s : State) (j : RebuildJob) : State :=
  (s.modFrame (hDie j.frame) (hIndex j.frame) fun f => { f with pages := f.pages.filter (· != j.page) }).returnPage (hDie j.frame) j.ctx j.page

/-- KV_REBUILD_DONE (R209): on FULL the fresh page is put into the entry, unless the frame has been freed meanwhile, and its pages with it,
or a compaction has freed the entry's page; the page it replaces is poisoned and does not go back to the pool (R195). -/
def execKvRebuildDone (i : Nat) (s : State) : Result :=
  match mget s.rebuilds i with
  | none => .next s
  | some j =>
    if !s.futureIsFull j.fut then .next s
    else
      let f := s.frameAt j.frame
      let s := { s with rebuilds := mdel s.rebuilds i }.releaseRebuild j.fut
      if f.gen ≠ hGen j.frame ∨ f.state = 0 then .next s
      else
        match s.vaRead (.die (hDie j.frame)) j.ctx (f.list + 8 * j.entry) 8 .read with
        | (s, .inl _) => .next s
        | (s, .inr v) =>
          if v % 2 = 0 then .next (s.giveFresh j)
          else
          let s := (s.vaWrite j.ctx (f.list + 8 * j.entry) 8 (wbits j.page 16 39 * 65536)).1
          .next (s.modFrame (hDie j.frame) (hIndex j.frame) fun f =>
            { f with pages := f.pages.filter fun p => wbits p 16 39 ≠ bits v 16 39 })

/-! ## Invalidations (R32, R33, R238) -/

/-- Does an invalidation remove a TLB entry? -/
def Invalidation.covers (v : Invalidation) (e : TlbEntry) : Bool :=
  e.ctx == v.ctx && (match v.va with
    | some va => decide (e.page ≤ va.toNat / 65536) && decide (va.toNat / 65536 < e.page + e.pages)
    | none => v.withG || !e.global)

/-- Was a part's translation of a page one that an invalidation removes: `gone` are the TLB entries it has found (R33)? -/
def Invalidation.usedBy (v : Invalidation) (c : Nat) (gone : List TlbEntry) (page : Nat) : Bool :=
  colour page == c && (match v.va with
    | none => true
    | some va => va.toNat / 65536 == page || gone.any fun e => decide (e.page ≤ page) && decide (page < e.page + e.pages))

/-- Parts of a context that hold a translation which an invalidation removes at drill c, and have neither finished nor been
cancelled, by CPYX or pre-emption (R33). -/
def State.partsAt (s : State) (v : Invalidation) (c : Nat) (gone : List TlbEntry) : List (Nat × Nat) :=
  s.ops.flatMap fun o =>
    if o.2.ctx != v.ctx || o.2.spilled then []
    else (o.2.parts.zipIdx.filter fun p =>
      p.1.phase == .live && !o.2.partOver p.1 && p.1.trans.any fun t => v.usedBy c gone t.1).map fun p => (o.1, p.2)

/-- The VA pages of private host pages that a TLB entry covers (R238). -/
def State.privatePages (s : State) (e : TlbEntry) : List Nat :=
  if e.tr.target = 1 then
    (s.hostPriv.filter fun p => decide (e.tr.ppn ≤ p) && decide (p < e.tr.ppn + e.pages)).map fun p => e.page + (p - e.tr.ppn)
  else []

/-- The VA pages of private host pages whose translation an invalidation removes at drill c, in its TLB or held by a part (R238). -/
def State.refusedPages (s : State) (v : Invalidation) (c : Nat) (gone : List TlbEntry) (waits : List (Nat × Nat)) : List Nat :=
  gone.flatMap s.privatePages ++ waits.flatMap fun w =>
    (((mget s.ops w.1).bind (·.parts[w.2]?)).map fun p =>
      (p.trans.filter fun t => v.usedBy c gone t.1 && t.2.target == 1 && s.hostPriv.contains t.2.ppn).map (·.1)).getD []

/-- INVALIDATION_ARRIVAL (R33): at drill c, and with it at the walkers of its die, whose later walks read the entries that have
been performed (R31). -/
def execInvalidationArrival (i c : Nat) (s : State) : Result :=
  match mget s.invals i with
  | none => .next s
  | some v =>
    if 24 ≤ c ∨ v.arrived.contains c then .next s
    else
      let s := s.settleWrites .tier
      let gone := (s.ctrl c).tlb.filter v.covers
      let waits := s.partsAt v c gone
      let refuse := s.refusedPages v c gone waits
      let s := s.modCtrl c fun y => { y with tlb := y.tlb.filter fun e => !v.covers e }
      let s := s.modDie (dieOfCtrl c) fun y => { y with walkCache := y.walkCache.filter (·.1 != v.ctx) }
      let v := { v with arrived := ins v.arrived c, waits := v.waits ++ waits, refuse := v.refuse ++ refuse }
      .next { s with invals := mput s.invals i v }

/-- Has a part that an invalidation waits for ended? -/
def State.partEnded (s : State) (w : Nat × Nat) : Bool :=
  match (mget s.ops w.1).bind fun o => o.parts[w.2]?.map fun p => (o, p) with
  | some (o, p) => o.spilled || p.phase != .live || o.partOver p
  | none => true

/-- Word0 of a mailbox whose command has completed: go clear, the status written, the reserved bits as they read (R8, R258). -/
def doneWord (w : Word) (status : Nat) : Word := setBits (setBits w 24 40 0) 8 8 status

/-- A mailbox command completes: word0's go clears and its status is written, and the host is told (R258). -/
def State.mailDone (s : State) (core slot status : Nat) : State :=
  let w0 (m : Vector Word 8) : Word := doneWord (m[0]?.getD 0#64) status
  let s := s.modCore core fun c =>
    { c with mail := c.mail.setIfInBounds slot (((c.mail[slot]?.getD (Vector.replicate 8 0#64)).setIfInBounds 0
               (w0 (c.mail[slot]?.getD (Vector.replicate 8 0#64)))))
             open_ := c.open_.filter (· != slot) }
  (s.send (.mailDone core slot status)).sendMsix (core / 8) (2032 + core)

/-- May an invalidation complete: every drill reached and every operation that used a removed translation ended; those of one
service core complete in order (R33)? -/
def State.invalDue (s : State) (i : Nat) (v : Invalidation) : Bool :=
  let earlier := s.invals.any fun w => decide (w.1 < i) && v.core.isSome && w.2.core.map (·.1) == v.core.map (·.1)
  decide (24 ≤ v.arrived.length) && v.waits.all s.partEnded && !earlier

/-- INVALIDATION_COMPLETE (R33): reported to its requester, a mailbox or the reeve. -/
def execInvalidationComplete (i : Nat) (s : State) : Result :=
  match mget s.invals i with
  | none => .next s
  | some v =>
    if !s.invalDue i v then .next s
    else
      let s := { s with invals := mdel s.invals i }
      match v.core with
      | some (c, slot) => .next (s.mailDone c slot 0)
      | none => .next (s.send (.invalidated v.ctx v.va))

/-! ## Mesh messages (R228) -/

/-- The lowest VA that a part accesses (R34). -/
def Op.lowestVa (o : Op) (p : Part) : Nat :=
  match (List.range (o.pieces p)).filterMap (o.pieceVa p) with
  | [] => p.va
  | v :: l => l.foldl min v

/-- MESSAGE_DELIVERY (R228): a message whose context does not own the tile is discarded and logged, and its part fails with
kind 2, a CPYM's for every member (log entry 74). -/
def execMessageDelivery (i : Nat) (s : State) : Result :=
  match mget s.messages i with
  | none => .next s
  | some m =>
    let s := { s with messages := mdel s.messages i }
    match m.ctx with
    | none => .next s
    | some x =>
      if s.owns x m.tile then .next s
      else
        let va := (mget s.ops m.op).bind fun o => o.parts[m.part]?.map o.lowestVa
        .next ((s.failPart m.op m.part 2 (va.getD 0)).send (.logDiscard m.tile))

/-! ## Remote windows (R235, R236) and links (R233, R264–R266) -/

/-- The checks of an arriving part (R236): the fault kind. -/
def State.windowKind (s : State) (r : RemotePart) : Option Nat :=
  let w := s.wintab[r.window]?.getD (0#64, 0#64)
  let base := wbits w.1 0 32 * 65536
  if !w.1.getLsbD 63 then some 4
  else if r.key ≠ w.2 then some 4
  else if r.pa < base ∨ base + wbits w.1 32 24 * 65536 < r.pa + r.bytes then some 2
  else if !(if r.write then w.1.getLsbD 61 else w.1.getLsbD 60) then some 2
  else none

/-- The key id of a local page in a context's own page tables: that of the first leaf that maps it (R27, R235). -/
def State.keyIdOf (s : State) (table ppn : Nat) : (lvl : Nat) → Option Nat
  | 0 => none
  | lvl + 1 => (List.range 8192).findSome? fun i =>
    let p := w64 (s.farRead .sys .tier none (65536 * table + 8 * i) 8)
    if !pteWellFormed p lvl then none
    else if pteLeaf p lvl then
      (if pteTarget p == 0 && decide (ptePpn p ≤ ppn) && decide (ppn < ptePpn p + leafPages lvl) then some (wbits p 8 4) else none)
    else s.keyIdOf (ptePpn p) ppn lvl

/-- The key under which a window's page is enciphered: the key id of the target-side context's own PTE names an entry of the
drill's key table (R231, R235).  Where no PTE of the context maps the page the part fails with kind 1 (log entry 56). -/
def State.windowKey (s : State) (page x : Nat) : Nat ⊕ Nat :=
  let root := (s.ctx x).xlroot
  match (if root.getLsbD 0 then s.keyIdOf (wbits root 16 32) page 3 else none) with
  | none => .inl 1
  | some k =>
    let e := (s.ctrl (colour page)).keys[k]?.getD KeyEntry.reset
    if e.valid && e.ctx.toNat == x then .inr e.key else .inl 2

/-- The 64-byte lines of a part. -/
def remoteLines (r : RemotePart) : List Nat := if r.bytes = 0 then [] else linesOf r.pa r.bytes

/-- The bytes of a part in a line: address and number. -/
def remoteLine (r : RemotePart) (l : Nat) : Nat × Nat :=
  let lo := max r.pa (64 * l)
  (lo, min (r.pa + r.bytes) (64 * l + 64) - lo)

/-- The target-side context of the entry that a part was checked against (R235). -/
def RemoteJob.ctx (j : RemoteJob) : Nat := wbits j.entry.1 56 4

/-- The outcome known before a part's next line: its window's refusal, that of its page's key, or the key (R231, R236). -/
def State.remoteKey (s : State) (j : RemoteJob) : Nat ⊕ Nat :=
  match j.kind with
  | some k => .inl k
  | none => s.windowKey (j.part.pa / 65536) j.ctx

/-- The next sequence number of a source's stream at this module (R266). -/
def State.expectedSeq (s : State) (r : RemotePart) : Nat :=
  ((s.remoteSeq.find? fun p => p.1 == (r.source, r.stream)).map (·.2)).getD 0

/-- May the drill serve a part another line: the clocks run, and its budget and for a read that of the port back have bytes left (R58, R252;
log entry 24)? -/
def State.remoteOpen (s : State) (j : RemoteJob) : Bool :=
  s.clockOn && s.drillOpen (colour (j.part.pa / 65536)) j.ctx && (j.part.write || s.linkBudget j.ctx j.part.source)

/-- Does a part go on now: it is the next of its stream, and it is refused, or its next line may be served (R58, R266)?  In WARM none is. -/
def State.remoteDue (s : State) (j : RemoteJob) : Bool :=
  j.part.seq == s.expectedSeq j.part && s.mstate != .warm &&
    ((s.remoteKey j).isLeft || j.lines == (remoteLines j.part).length || s.remoteOpen j)

/-- Writes of window entries are complete when no part that was checked against the old entry is left (R236). -/
def State.settleWindows (s : State) : State :=
  let done := s.windowWrites.filter fun n => !s.remoteHeld.any fun j => j.old && j.part.window == n
  done.foldl (fun s n => s.send (.windowWritten n))
    { s with windowWrites := s.windowWrites.filter fun n => !done.contains n
             ctxs := s.ctxs.map fun (c : Ctx) => { c with opening := c.opening.filter fun n => !done.contains n } }

/-- A part ends with a fault kind, or 0 and the bytes it has read: its answer goes out, and the next of its stream is due (R266). -/
def State.endRemote (s : State) (r : RemotePart) (kind : Nat) (bytes : List Byte) : State :=
  ({ s with
    remoteHeld := s.remoteHeld.filter fun q => q.part != r
    remoteSeq := ((r.source, r.stream), s.expectedSeq r + 1) :: s.remoteSeq.filter fun p => p.1 != (r.source, r.stream)
  }.answerPart r.source r.seq kind bytes).settleWindows

/-- The next line of a part is served (R58, R236). -/
def State.serveLine (s : State) (j : RemoteJob) (key l : Nat) : State :=
  let r := j.part
  let x := remoteLine r l
  match s.touchLines r.write x.1 x.2 with
  | (s, false) => s.endRemote r 3 []
  | (s, true) =>
    let s := s.spendDrill (colour (r.pa / 65536)) j.ctx x.2
    let y := if r.write then (s.sysPut .tier key x.1 ((r.data.drop (x.1 - r.pa)).take x.2), j.got)
      else (s.spendLink j.ctx r.source x.2, j.got ++ bytesOfNum (s.farRead .sys .tier (some key) x.1 x.2) x.2)
    { y.1 with remoteHeld := y.1.remoteHeld.map fun q => if q.part = r then { j with lines := j.lines + 1, got := y.2 } else q }

/-- A part that is due goes one step on: it is refused, it is over, or its next line is served under the key that its page has now. -/
def State.stepRemote (s : State) (j : RemoteJob) : State :=
  match j.kind, (remoteLines j.part)[j.lines]? with
  | some k, _ => s.endRemote j.part k []
  | none, none => s.endRemote j.part 0 j.got
  | none, some l =>
    match s.windowKey (j.part.pa / 65536) j.ctx with
    | .inl k => s.endRemote j.part k []
    | .inr key => s.serveLine j key l

/-- The parts that are due go on. -/
def State.serveFor (s : State) : (fuel : Nat) → State
  | 0 => s
  | n + 1 =>
    match s.remoteHeld.find? s.remoteDue with
    | none => s
    | some j => (s.stepRemote j).serveFor n

/-- The steps that the parts here can take. -/
def State.remoteSteps (s : State) : Nat := (s.remoteHeld.map fun j => (remoteLines j.part).length + 1).foldl (· + ·) 0

/-- Every part that can goes on as far as it can. -/
def State.serveHeld (s : State) : State := s.serveFor s.remoteSteps

/-- A part is checked as it arrives, and is served under the entry it is checked against (R236). -/
def State.takeRemote (s : State) (r : RemotePart) : State :=
  let j : RemoteJob := { part := r, entry := s.wintab[r.window]?.getD (0#64, 0#64), kind := s.windowKind r, old := false, lines := 0, got := [] }
  { s with remoteHeld := s.remoteHeld ++ [j] }.serveHeld

/-- Has a part arrived before (R266)? -/
def State.remoteTwice (s : State) (r : RemotePart) : Bool :=
  decide (r.seq < s.expectedSeq r) ||
    s.remoteHeld.any fun q => q.part.source == r.source && q.part.stream == r.stream && q.part.seq == r.seq

/-- REMOTE_PART_ARRIVAL (R236, R265, R266): a part for this module is checked, and served in the sequence of its stream; a duplicate is
discarded; a part for another module goes on, unless it has passed 8 hops. -/
def execRemotePartArrival (r : RemotePart) (s : State) : Result :=
  if r.target ≠ s.cfg.moduleId.toNat then
    (if r.hops < 8 then .next (s.passOn { r with hops := r.hops + 1 }) else .next (s.countUncorrectable.answerPart r.source r.seq 5 []))
  else if s.remoteTwice r then .next s
  else .next (s.takeRemote r)

/-- An entry of the window table is written; the write is complete when the parts that were checked against the old one have been served
(R235, R236). -/
def State.writeWindow (s : State) (n : Nat) (word0 word1 : Word) : State :=
  let old (j : RemoteJob) : RemoteJob := if j.part.window = n ∧ j.kind.isNone then { j with old := true } else j
  { s with wintab := s.wintab.setIfInBounds n (setBits word0 62 1 0, word1), remoteHeld := s.remoteHeld.map old
           windowWrites := ins s.windowWrites n }.settleWindows

/-- WINTAB_WRITE (R235, R236). -/
def execWintabWrite (n : Nat) (word0 word1 : Word) (s : State) : Result := .next (s.writeWindow n word0 word1)

/-! ### Link ports -/

/-- LINK_FLIT_RECEIVE (R233, R264): a flit of a direction is checked by its receiver. -/
def execLinkFlitReceive (port : LinkEnd) (good : Bool) (s : State) : Result :=
  .next (if port.out then s.flitOut port.port good else s.flitIn port.port good)

/-- A page of a part whose port has gone down goes to the next port that LROUTE selects, before any newer part, or is refused with
kind 5 (R265, R266). -/
def State.reroutePage (s : State) (i j : Nat) (o : Op) (p : Part) (t : Nat × Trans) : State :=
  match s.route t.2.module with
  | some q => s.modPart i j fun p => { p with port := some q }
  | none => s.failPage i j o 5 (o.lowestIn p t.1)

/-- Every part that a port carried is rerouted. -/
def State.reroute (s : State) (port : Nat) : State :=
  s.ops.foldl (fun s x => x.2.parts.zipIdx.foldl (fun s y =>
    if y.1.port == some port && y.1.phase == .live && !x.2.cancel && !x.2.spilled then
      (x.2.linkPages y.1).foldl (fun s t => s.reroutePage x.1 y.2 x.2 y.1 t) s
    else s) s) s

/-- What a port that has gone down had sent or was to send goes out on the next port (R266); a line of a part that no port reaches is
dropped, and its part fails. -/
def State.resend (s : State) : LinkItem → State
  | .access m pa =>
    match s.route m with
    | some q => s.sendOn q (.access m pa)
    | none => s
  | .line i j l =>
    match (s.livePart i j).bind fun x => (mget x.2.trans (l / 1024)).bind fun t => s.route t.module with
    | some q => s.sendOn q (.line i j l)
    | none => s
  | .forward r => s.passOn r
  | .answer source seq kind bytes => s.answerPart source seq kind bytes

/-- LINK_PORT_DOWN (R264, R266): a port whose retries have failed for 100 µs goes down; its parts go to the next port, and the packets that
have not been acknowledged are sent again there before any newer one. -/
def execLinkPortDown (port : Nat) (s : State) : Result :=
  if s.portDead port then
    let p := s.link port
    let s := (s.modLink port fun _ => { LinkPort.reset with spent := p.spent, tx := { p.tx with since := none }, rx := { p.rx with since := none } }).reroute port
    .next ((p.replay.map (·.item) ++ p.queue).foldl State.resend s)
  else .next s

/-- LINK_REKEY (R233): a direction of a port. -/
def execLinkRekey (port : LinkEnd) (seq : Nat) (s : State) : Result := .next (s.rekey port.port port.out seq)

end Sys2Proof.Machine
end

