-- ==== Sys2Proof/Machine/Almanac.lean ====
section
/-!
DEFINITION. Sys2Proof/Machine/Almanac.lean: code staging (R37, R38, R157, R158), fit, booking and compaction (R159–R165), the boundary of
a furrow (R160), the overrun check (R166), ALMSTAT (R170) and what pre-emption does at a boundary (R171, R224).
-/
namespace Sys2Proof.Machine

/-! ## Placement (R156, R184) -/

/-- The tile a task is fixed to: its pinned continuation's, else its fixed origin; none for "any". -/
def State.fixedAt (s : State) (t : TaskRec) : Option Nat :=
  let c := (s.cont (hDie (t.word 7)) (hIndex (t.word 7))).word 0
  if t.word 7 != 0#64 && c.getLsbD 47 then some (wbits c 37 10) else if t.any then none else some t.origin

/-- The die a task of home die `h` belongs to (R156). -/
def State.gangDie (s : State) (h : Nat) (t : TaskRec) : Nat := ((s.fixedAt t).map dieOf).getD h

/-- The task records that belong to a die: home die, index, record. -/
def State.tasksOf (s : State) (d : Nat) : List (Nat × Nat × TaskRec) :=
  (List.range 4).flatMap fun h => ((s.die h).tasks.filter fun t => s.gangDie h t.2 == d).map fun t => (h, t.1, t.2)

/-! ## Staging (R37, R38, R157) -/

/-- The staging entry of a task's key. -/
def Stage.isFor (e : Stage) (t : TaskRec) : Bool := e.ctx == t.ctx && e.base == t.codeBase && e.len == t.codeLen

/-- A task takes or shares a staging entry; with none free it stays unstaged. -/
def State.stageTask (s : State) (h i : Nat) : State :=
  let t := s.task h i
  let d := s.gangDie h t
  let put (s : State) (e : Nat) : State := s.setTask h i { t with stage := some e }
  match (s.die d).stages.find? fun e => e.2.isFor t with
  | some (e, _) => put s e
  | none =>
    match (List.range 64).find? fun e => (mget (s.die d).stages e).isNone with
    | none => s
    | some e =>
      let x : Stage :=
        { ctx := t.ctx, base := t.codeBase, len := t.codeLen, mem := []
          left := linesOf t.codeBase t.codeLen
          done := false }
      put (s.modDie d fun y => { y with stages := mput y.stages e x }) e

/-- CODE_STAGING (R157). -/
def execCodeStaging (h i : Nat) (s : State) : Result :=
  let t := s.task h i
  if t.state = 3 ∧ t.stage = none then .next (s.stageTask h i) else .next s

/-- The TRAPPED continuation of a task whose staging fetch faulted: it resumes at the task's entry PCs and holds no live
registers (R38).  A continuation that the task was to resume is freed first (log entry 31), a gang is given one too (log entry 75),
and a pinned task placed "any" is pinned to tile 0 (log entry 76). -/
def State.stagingCont (s : State) (h i k : Nat) : State × Word :=
  let t := s.task h i
  let hd := s.taskHandle h i
  let d := s.gangDie h t
  let s := if t.word 7 = 0#64 then s else s.useCont (t.word 7)
  match s.claimCont d with
  | none => (s, 0#64)
  | some (j, s) =>
    ((s.modCont d j fun c =>
      (((c.setWord 0 (trapWord0 3 t.pinned k codeCodeRange 0#8)).setWord 1 hd).setWord 2 (t.word 2)).setWord 3 (t.word 3)).addTaskRef hd,
     s.contHandle d j)

/-- A task whose staging fetch faulted ends before its first instruction, TRAPPED with CODE-RANGE (R38). -/
def State.failTask (s : State) (h i : Nat) (kind : BitVec 4) (va : Word) : State :=
  let t := s.task h i
  let at_ := s.fixedAt t
  let hd := s.taskHandle h i
  let k := at_.getD 0
  let y := s.stagingCont h i k
  let s := y.1.modTask h i fun t => { (t.setState 1).setWord 7 y.2 with stage := none }
  s.armHandler
    { fibre := t.fibre, ctx := t.ctx, ops := [], w8 := y.2
      w9 := w64 (codeCodeRange.toNat + k * 2 ^ 17 + kind.toNat * 2 ^ 27), w10 := hd, w11 := va, origin := k, saveAt := 0
      saved := [], self := hd, debug := false, place := at_.isSome }

/-- The bytes of a staging entry's range that lie in a line: VA and number. -/
def Stage.inLine (e : Stage) (line : Nat) : Nat × Nat :=
  let lo := max e.base (64 * line)
  (lo, min (e.base + e.len) (64 * line + 64) - lo)

/-- Do the drill and port of an entry's next line serve its context another line (R58)? -/
def State.stageDue (s : State) (e : Stage) : Bool := e.left.head?.any fun l => s.lineOpen e.ctx (e.inLine l).1 .exec

/-- STAGING_COMPLETE (R37, R157): the drills fetch the next line of an entry, with X permission, and count it (R58); after the last
its tasks are bookable, and a fault ends them. -/
def execStagingComplete (d n : Nat) (s : State) : Result :=
  match mget (s.die d).stages n with
  | none => .next s
  | some e =>
    match e.left with
    | [] => .next s
    | line :: rest =>
      let x := e.inLine line
      let c := colour (line / 1024)
      if !s.stageDue e then .next s
      else match s.vaReadMany (.die (dieOfCtrl c)) e.ctx x.1 2 .exec (x.2 / 2) with
      | (s, .inl (kind, va)) =>
        let users := (s.tasksOf d).filter fun t => t.2.2.state == 3 && t.2.2.stage == some n
        let s := users.foldl (fun s t => s.failTask t.1 t.2.1 (BitVec.ofNat 4 kind) (w64 va)) s
        .next (s.modDie d fun y => { y with stages := mdel y.stages n })
      | (s, .inr l) =>
        let v := l.foldr (fun w acc => w + 65536 * acc) 0
        let e := { e with mem := Memory.write e.mem (x.1 - e.base) x.2 v, left := rest, done := rest.isEmpty }
        .next ((s.spendLine e.ctx x.1 x.2 .exec).modDie d fun y => { y with stages := mput y.stages n e })

/-- Staging entries that no task uses any more are freed (R157). -/
def State.freeStages (s : State) (d : Nat) : State :=
  let used := (s.tasksOf d).filterMap (·.2.2.stage)
  s.modDie d fun y => { y with stages := y.stages.filter fun e => used.contains e.1 }

/-! ## Fit (R159) -/

/-- Does the calendar hold the booking against a task's classes, other than BAR, in [f, f + n) on a member? -/
def Booking.blocks (b : Booking) (m f n : Nat) (mask : BitVec 16) : Bool :=
  decide (b.start < f + n) && decide (f < b.stop) && (b.mask &&& mask &&& 0x0FFF#16) != 0#16 && b.members.contains m

/-- Does it hold the standby bank of a member in [f − lead, f)? -/
def Booking.holdsStandby (b : Booking) (m f lead : Nat) : Bool :=
  !b.started && decide (b.start < f + b.lead) && decide (f - lead < b.start) && b.members.contains m

/-- The bookings seen by a fit: all but the task's own. -/
def State.others (s : State) (h i : Nat) : List Booking := s.bookings.filter fun b => !(b.die == h && b.idx == i)

/-- Does the task fit at furrow f on members (R159)? -/
def State.fits (s : State) (h i : Nat) (t : TaskRec) (ms : List Nat) (f : Nat) : Bool :=
  let bs := s.others h i
  decide (s.furrow + 1 + t.lead ≤ f) && decide (f + t.duration ≤ s.furrow + 4096) &&
  ms.all fun m =>
    !(bs.any fun b => b.blocks m f t.duration t.mask || b.holdsStandby m f t.lead) &&
    (List.range' t.scratch.1 t.scratch.2).all fun u => (mget (s.tile m).field.lease u).isNone

/-- The lowest barrier channel free on the members in [f, f + n), for a task that books BAR (R159). -/
def State.freeChannel (s : State) (h i : Nat) (ms : List Nat) (f n : Nat) : Option Nat :=
  (List.range 16).find? fun c => !((s.others h i).any fun b =>
    b.chan == some c && decide (b.start < f + n) && decide (f < b.stop) && ms.any b.members.contains)

/-- Furrows at which a fit can begin to hold: the first allowed one, the ends of bookings, and the ends of standby holds.
Between two of these no condition of R159 turns from false to true. -/
def State.candidates (s : State) (t : TaskRec) : List Nat :=
  let lo := s.furrow + 1 + t.lead
  (s.bookings.flatMap fun b => [b.stop, b.start + t.lead]).foldl (fun l f => if lo < f then ins l f else l) [lo]

/-- The earliest fitting furrow on members, below a bound. -/
def State.earliest (s : State) (h i : Nat) (t : TaskRec) (ms : List Nat) (bound : Nat) : Option Nat :=
  (s.candidates t).find? fun f => decide (f < bound) && s.fits h i t ms f &&
    (!t.mask.getLsbD 12 || (s.freeChannel h i ms f t.duration).isSome)

/-- The origins a task may take: its fixed one, or with "any" every origin of its home die, within the context's tiles (R156). -/
def State.origins (s : State) (h : Nat) (t : TaskRec) : List Nat :=
  (match s.fixedAt t with
    | some k => [k]
    | none => (List.range 256).map (256 * h + ·)).filter fun o => s.rectOwned t.ctx o t.width t.height

/-- The earliest furrow, and among origins that fit there the lowest (R156). -/
def State.placeTask (s : State) (h i : Nat) (t : TaskRec) : Option (Nat × Nat) :=
  (s.origins h t).foldl (fun best o =>
    match s.earliest h i t (rect o t.width t.height) (best.elim (s.furrow + 4097) (·.1)) with
    | some f => some (f, o)
    | none => best) none

/-! ## Booking and compaction (R161, R162, R165) -/

/-- The base priority of a task (R162). -/
def State.basePriority (s : State) (t : TaskRec) : Nat :=
  let q := (s.ctx t.ctx).qpri
  let i := wbits (t.word 0) 54 4
  if q.getLsbD (3 * i + 2) then wbits (t.word 0) 58 2 else wbits q (3 * i) 2

/-- The effective priority (R161). -/
def State.effective (s : State) (t : TaskRec) : Nat := s.basePriority t - (s.furrow - t.ready) / 256

/-- Is one task before another in the booking order? -/
def before (a b : Nat × Nat × Nat) : Bool :=
  decide (a.1 < b.1) || (a.1 == b.1 && (decide (a.2.1 < b.2.1) || (a.2.1 == b.2.1 && decide (a.2.2 ≤ b.2.2))))

/-- Insertion into a list sorted by a key, stable. -/
def insBy (key : α → Nat × Nat × Nat) (x : α) : List α → List α
  | [] => [x]
  | y :: r => if before (key y) (key x) then y :: insBy key x r else x :: y :: r
def sortBy (key : α → Nat × Nat × Nat) (l : List α) : List α := l.foldl (fun acc x => insBy key x acc) []

/-- Word 5 of a booked record: start and end furrow modulo 2^32 (R174). -/
def furrowWord (f g : Nat) : Word := w64 (f % 2 ^ 32 + g % 2 ^ 32 * 2 ^ 32)

/-- A task is booked at furrow f on origin o (R159). -/
def State.bookAt (s : State) (h i f o : Nat) : State :=
  let t := s.task h i
  let ms := rect o t.width t.height
  let b : Booking :=
    { die := h, idx := i, origin := o, width := t.width, height := t.height, mask := t.mask, start := f
      stop := f + t.duration, lead := t.lead
      chan := if t.mask.getLsbD 12 then s.freeChannel h i ms f t.duration else none
      scratch := t.scratch, begun := false, started := false, gone := false }
  { s.setTask h i ((t.setState 4).setWord 5 (furrowWord f (f + t.duration))) with bookings := s.bookings ++ [b] }

/-- May the Almanac book the task now (R161, R171, R220, R229, R252, R255)? -/
def State.bookable (s : State) (d : Nat) (t : TaskRec) : Bool :=
  t.state == 3 && (t.stage.any fun e => (mget (s.die d).stages e).any (·.done)) && (s.ctx t.ctx).live && (s.ctx t.ctx).opening.isEmpty &&
  (s.ctx t.ctx).pre == PreState.none && (s.mstate == .run || s.mstate == .retreat) &&
  !(s.holdBook && (t.mask.getLsbD 1 || t.mask.getLsbD 6))

/-- The booking pass of a die (R161): at most 64 tasks.  Of two that tie in all that R161 compares, that of the lower home die goes first (log
entry 97). -/
def State.bookingPass (s : State) (d : Nat) : State :=
  let ts := sortBy (fun (t : Nat × Nat × TaskRec) => (s.effective t.2.2, t.2.2.ready, t.2.1))
    ((s.tasksOf d).filter fun t => s.bookable d t.2.2)
  (ts.foldl (fun (acc : State × Nat) t =>
    if acc.2 = 64 then acc
    else match acc.1.placeTask t.1 t.2.1 t.2.2 with
      | some (f, o) => (acc.1.bookAt t.1 t.2.1 f o, acc.2 + 1)
      | none => acc) (s, 0)).1

/-- The compaction pass of a die (R165); ties as in log entry 97. -/
def State.compactionPass (s : State) (d : Nat) : State :=
  let bs := sortBy (fun (b : Booking) => (b.start, b.idx, b.die))
    (s.bookings.filter fun b => dieOf b.origin == d && !b.begun && !b.started)
  bs.foldl (fun s b =>
    let t := s.task b.die b.idx
    match s.earliest b.die b.idx t b.members b.start with
    | none => s
    | some f =>
      let b' := { b with start := f, stop := f + t.duration
                         chan := if t.mask.getLsbD 12 then s.freeChannel b.die b.idx b.members f t.duration else none }
      { s.setTask b.die b.idx (t.setWord 5 (furrowWord f (f + t.duration))) with
        bookings := s.bookings.map fun y => if y.die = b.die ∧ y.idx = b.idx ∧ !y.gone then b' else y }) s

/-- The bookings of some tasks that have not started. -/
def State.unstarted (s : State) (f : TaskRec → Bool) : List Booking :=
  s.bookings.filter fun b => !b.started && !b.gone && f (s.task b.die b.idx)

/-- Bookings that have not started are taken back, and their tasks are READY again (R171). -/
def State.unbook (s : State) (f : TaskRec → Bool) : State :=
  let back := s.unstarted f
  let s := back.foldl (fun s b => s.modTask b.die b.idx (·.setState 3)) s
  { s with bookings := s.bookings.filter fun b => !back.contains b
           tiles := s.tiles.map fun p => if back.any fun b => b.members.contains p.1 then (p.1, { p.2 with standby := none }) else p }

/-! ## The boundary of a furrow (R160) -/

/-- Step 1: the bookings of tasks that retired in the furrow before are gone (R164). -/
def State.freeBookings (s : State) (d : Nat) : State :=
  { s with bookings := s.bookings.filter fun b => !(b.gone && dieOf b.origin == d) }

/-- Step 1: the RETIRED records of the furrow before (R180): those whose booking is gone, a record that retires in the boundary's
own cycle waiting for the next one. -/
def State.freeRetired (s : State) (d : Nat) : State :=
  ((s.die d).tasks.filter fun t => t.2.state == 6 && !s.bookings.any fun b => b.gone && b.die == d && b.idx == t.1).foldl
    (fun s t => if t.2.retain then s.modTask d t.1 (·.setState 1) else s.freeTask d t.1) s

/-- The bank that a task's code makes: its range and the staged bytes (R37). -/
def State.bankOf (s : State) (d : Nat) (t : TaskRec) : Bank :=
  { base := t.codeBase, len := t.codeLen
    mem := ((t.stage.bind fun e => mget (s.die d).stages e).map (·.mem)).getD [] }

/-- Step 2: tasks booked to start in this furrow start on every member, with the bank that their transfer has filled. -/
def State.startTasks (s : State) (d : Nat) : State :=
  (s.bookings.filter fun b => b.start == s.furrow && !b.started && !b.gone && dieOf b.origin == d).foldl (fun s b =>
    let bank := (((s.tile b.origin).standby.map (·.2))).getD (s.bankOf d (s.task b.die b.idx))
    let s := { s with bookings := s.bookings.map fun y => if y = b then { y with started := true } else y }
    let s := s.startTask b bank
    let s := b.members.foldl (fun s k => s.modTile k fun t => { t with standby := none }) s
    (s.modTask b.die b.idx fun t => { t with stage := none }).freeStages d) s

/-- Step 3: standby transfers whose first furrow this is begin (R158). -/
def State.beginStandby (s : State) (d : Nat) : State :=
  (s.bookings.filter fun b => b.start == s.furrow + b.lead && !b.begun && !b.started && dieOf b.origin == d).foldl (fun s b =>
    let bank := s.bankOf d (s.task b.die b.idx)
    let s := { s with bookings := s.bookings.map fun y => if y = b then { y with begun := true } else y }
    b.members.foldl (fun s k => s.modTile k fun t => { t with standby := some (b.start, bank) }) s) s

/-- Step 5: staging is retried in booking order (log entry 97), then the booking pass runs. -/
def State.retryStaging (s : State) (d : Nat) : State :=
  (sortBy (fun (t : Nat × Nat × TaskRec) => (s.effective t.2.2, t.2.2.ready, t.2.1))
    ((s.tasksOf d).filter fun t => t.2.2.state == 3 && t.2.2.stage.isNone)).foldl (fun s t => s.stageTask t.1 t.2.1) s

/-- ALMSTAT at the end of a boundary's steps (R170). -/
def State.almstat (s : State) (d : Nat) : Word :=
  let ts := s.tasksOf d
  let done (t : TaskRec) : Bool := t.stage.any fun e => (mget (s.die d).stages e).any (·.done)
  let cap (n : Nat) : Nat := min n 16383
  w64 (cap (s.runs.filter fun r => dieOf r.2.origin == d).length +
    cap (s.bookings.filter fun b => dieOf b.origin == d && !b.started && !b.gone).length * 2 ^ 14 +
    cap (ts.filter fun t => t.2.2.state == 3 && done t.2.2).length * 2 ^ 28 +
    cap (ts.filter fun t => t.2.2.state == 3 && !done t.2.2).length * 2 ^ 42 +
    min (s.die d).stages.length 255 * 2 ^ 56)

/-- Per-furrow budgets of a die's units restart; those of the host and link ports with die 0's (R58, R160).  Remote parts that
waited for a budget are served. -/
def State.restartBudgets (s : State) (d : Nat) : State :=
  let s := (List.range 6).foldl (fun s i => s.modCtrl (6 * d + i) fun y => { y with spent := [] }) s
  let s := { s with harrowSpent := s.harrowSpent.filter fun p => dieOf p.1.1 != d }
  let s := if d = 0 then { s with hostSpent := [], links := s.links.map fun (p : LinkPort) => { p with spent := [] } } else s
  s.serveHeld

/-- The events of the module as a whole at a boundary, with die 0's: the clock follows a module band of COLD or COOL (R249), and
a power hold whose average has fallen lifts (R255). -/
def State.moduleBoundary (s : State) : State :=
  let s := if s.bandReg.getLsbD 10 ∧ wbits s.bandReg 0 2 < 2 then
      { s with clockSlow := wbits s.bandReg 0 2 == 1, bandReg := setBits s.bandReg 10 1 0 }
    else s
  let sum := s.power.foldl (· + ·) 0
  if s.holdBook ∧ 100 * sum < 95 * s.cfg.power * max 1 s.power.length then { s with holdBook := false } else s

/-- Pre-emption at a boundary (R224, R232): a request takes effect; at its deadline running tasks are cut where they can be; one furrow after
a teardown has taken effect they are cut or stopped. -/
def State.preemptBoundary (s : State) (x : Nat) : State :=
  match (s.ctx x).pre with
  | .asked td =>
    let mine (t : TaskRec) : Bool := t.ctx == x
    let back := s.unstarted mine
    (s.unbook mine).modCtx x fun c => { c with pre := .running (if td then some s.furrow else none) s.furrow, unbooked := back }
  | .running td since =>
    let last := td.any fun n => decide (s.furrow = n + 1)
    if last ∨ s.furrow = since + max 1 (wbits (s.ctx x).prectl 0 12) then
      (s.runs.filter fun r => r.2.ctx == x).foldl (fun s r =>
        if s.canCut r.2 then s.setStop r.1 .preempt
        else if last then s.setStop r.1 .teardown
        else s) s
    else s
  | _ => s

/-- A held LANDING-OVERFLOW of a die's fibres is retried (R219). -/
def State.retryOverflows (s : State) (d : Nat) : State :=
  (s.die d).fibres.foldl (fun s f =>
    match f.2.held with
    | some (k, a) => s.overflow (BitVec.ofNat 16 (16384 * d + f.1)) k a
    | none => s) s

/-- The controllers of a COLD die go back to the cold timing set, without refresh, at a furrow boundary (R245, R248). -/
def State.coldSet (s : State) (d : Nat) : State :=
  if ((s.die d).warmSet ∨ (s.die d).refresh) ∧ (s.die d).band = .cold then
    s.modDie d fun y => { y with warmSet := false, switchBy := none, refresh := false }
  else s

/-- What the Almanac does to the task pool at a boundary, after the operations of tasks that reach the pool in that cycle (R364): records
released, the compaction pass, staging and the booking pass, held LANDING-OVERFLOW events, ALMSTAT (R160, R170, R180, R219). -/
def State.boundaryPasses (s : State) (d : Nat) : State :=
  let s := (((s.freeRetired d).compactionPass d).retryStaging d).bookingPass d
  let s := s.retryOverflows d
  s.modDie d fun y => { y with almstat := s.almstat d }

/-- The phase of a cycle in which a die's boundary passes run. -/
def passPhase (d : Nat) : Nat := 6 + d

/-- FURROW_BOUNDARY (R160): the steps of one die, in order; the passes come at the end of the cycle, after the tasks' own operations
on the pool (R364).  In PARK the furrow count stands still (R252). -/
def execFurrowBoundary (d : Nat) (s : State) : Result :=
  if s.cycle % 256 ≠ 0 ∨ 4 ≤ d then .next s
  else
    let s := if d = 0 then (List.range 16).foldl (fun s x => s.preemptBoundary x) s.moduleBoundary else s
    let s := (((s.restartBudgets d).coldSet d).freeBookings d).startTasks d
    let s := s.beginStandby d
    .next { s with todo := s.todo ++ [.plan (passPhase d)] }

/-! ## Overrun (R166) -/

/-- Is every class of a booking, and its channel, free in its end furrow on every member? -/
def State.graceFree (s : State) (b : Booking) : Bool :=
  !((s.others b.die b.idx).any fun y => b.members.any fun m =>
    y.blocks m b.stop 1 b.mask || (b.chan.isSome && y.chan == b.chan && decide (y.start ≤ b.stop) && decide (b.stop < y.stop) &&
      y.members.contains m))

/-- OVERRUN_CHECK (R166): at cycle 192 of a task's last booked furrow. -/
def execOverrunCheck (id : Nat) (s : State) : Result :=
  match s.run id with
  | none => .next s
  | some r =>
    match s.bookings.find? fun b => b.die == r.die && b.idx == r.idx && b.started && !b.gone with
    | none => .next s
    | some b =>
      if s.cycle % 256 ≠ 192 ∨ s.furrow + 1 ≠ b.stop then .next s
      else
        let t := s.task r.die r.idx
        if 0 < t.grace ∧ s.graceFree b then
          let t := (t.setWord 0 (setBits (t.word 0) 19 4 (t.grace - 1))).setWord 5 (furrowWord b.start (b.stop + 1))
          .next { s.setTask r.die r.idx t with
            bookings := s.bookings.map fun y => if y = b then { y with stop := b.stop + 1 } else y }
        else if r.culprit.isSome then .next s
        else .next (s.setStop id .overrun)

end Sys2Proof.Machine
end

