-- ==== Sys2Proof/Machine/Module.lean ====
section
/-!
DEFINITION. Sys2Proof/Machine/Module.lean: sensors and bands (R244–R248), what a band change does (R220, R246, R250), the module
state machine (R251–R253), the power limit (R255), coolant flow (R252, R256), patrol scrub (R247) and barrier trees (R267).
-/
namespace Sys2Proof.Machine

/-! ## Reference time (R244): units of one cycle of 2.4 GHz -/

/-- One millisecond. -/
def millisecond : Nat := 1000 * microsecond
/-- One second. -/
def second : Nat := 1000 * millisecond

/-! ## Bands (R245, R246) -/

def Band.num : Band → Nat
  | .cold => 0
  | .cool => 1
  | .warm => 2
  | .hot => 3

def Band.ofNum : Nat → Band
  | 0 => .cold
  | 1 => .cool
  | 2 => .warm
  | _ => .hot

/-- The highest maximum reading with which a band is left towards a warmer one (R245): the fields of BANDTH. -/
def State.bandLimit (s : State) (b : Nat) : Nat := wbits s.cfg.bandth (16 * b) 16
/-- The hysteresis of BANDTH (R245). -/
def State.hysteresis (s : State) : Nat := wbits s.cfg.bandth 48 8

/-- The band of a maximum reading (R245). -/
def State.bandOf (s : State) (k16 : Nat) : Nat :=
  if k16 ≤ s.bandLimit 0 then 0 else if k16 ≤ s.bandLimit 1 then 1 else if k16 ≤ s.bandLimit 2 then 2 else 3

/-- The module band: the warmest of the dies' (R246). -/
def State.moduleBand (s : State) : Nat := (s.dies.toList.map (·.band.num)).foldl max 0
/-- Is every die COLD or COOL? -/
def State.diesCool (s : State) : Bool := s.dies.toList.all fun y => decide (y.band.num ≤ 1)
/-- The die bands as BAND [9:2] lays them out (R246). -/
def State.dieBands (s : State) : Nat := (s.dies.toList.zipIdx.map fun y => y.1.band.num * 4 ^ y.2).foldl (· + ·) 0

/-! ## DRAIN and the end of RUN (R220, R252, R253) -/

/-- A transition of MSTATE with its cause (R251). -/
def State.moveTo (s : State) (m : MState) (cause : BitVec 8) : State := { s with mstate := m, cause := cause, since := none }

/-- Entry to DRAIN: every booked task that has not started is READY again (R252). -/
def State.enterDrain (s : State) (cause : BitVec 8) : State := (s.moveTo .drain cause).unbook fun _ => true

/-- Mailbox commands that wait for DRAIN to end complete (log entry 40). -/
def State.drainOver (s : State) : State :=
  let s := { s with drainCmd := false }
  (List.range 16).foldl (fun s k =>
    ((s.core k).open_.filter fun i => wbits (((s.core k).mail[i]?.getD (Vector.replicate 8 0#64))[0]?.getD 0#64) 0 8 == 0x10).foldl
      (fun s i => s.mailDone k i 0) s) s

/-- A field store that has lost its power: what was written deciphers to bytes that carry no meaning, as under a key that
exists nowhere (R67, R253). -/
def Field.lost (x : Field) (tag : Nat) : Field := { Field.reset with mem := x.mem, keys := x.keys.map fun p => (p.1, tag) }

/-- The field dies, SRAM dies, Granaries and Sheaves lose their contents (R253): with the tiles, the pools and what is under way, the TLBs and
key tables of the drills, the window table with the parts held there, the service cores, and the registers and parameters of every context;
the reeve keeps a context's key, session and interface state. -/
def State.losePower (s : State) : State :=
  let tag := 16384 * s.reeve.nextKey
  let lost (c : Ctx) : Ctx := { Ctx.reset with key := c.key, tdisp := c.tdisp, session := c.session }
  let s := (s.settleWrites .tier).settleWrites .host
  { s with
    tiles := s.tiles.map fun p => (p.1, { Tile.reset with field := p.2.field.lost tag })
    dies := s.dies.map fun (y : Die) =>
      { Die.reset with sensors := y.sensors, tempsense := y.tempsense, band := y.band, coolSince := y.coolSince
                       warmSet := y.warmSet, switchBy := y.switchBy, refresh := y.refresh, trees := y.trees }
    runs := [], bookings := [], ops := [], fences := [], homes := [], walks := [], handlers := [], frets := []
    compacts := [], lookups := [], rebuilds := [], messages := [], harrowSpent := [], hostSpent := [], todo := []
    who := none, writes := []
    ctxs := s.ctxs.map lost, ctrls := Vector.replicate 24 Ctrl.reset, cores := Vector.replicate 16 Core.reset, invals := []
    wintab := Vector.replicate 64 (0#64, 0#64), remoteHeld := [], windowWrites := []
    reeve := { s.reeve with nextKey := s.reeve.nextKey + 1 } }

/-- Entry to WARM: the clocks of the field dies stop, the second tier is in self-refresh until WARM is left (R252, R253), and no drain command
holds the module any more. -/
def State.enterWarm (s : State) (cause : BitVec 8) : State :=
  { s.drainOver.moveTo .warm cause with clockOn := false, selfRefresh := true }

/-- The number of a key of the second tier that exists nowhere any more (R253), from a number drawn by the reeve. -/
def goneKey (n : Nat) : Nat := 4 * n + 3

/-- OFF (R253): every register and every contents is as at reset but for the second tier's lines, whose keys are gone, the host,
the reeve's non-volatile storage and what lies outside the module. -/
def State.powerOff (s : State) : State :=
  let gone := goneKey s.reeve.nextKey
  let s := s.losePower
  { State.reset with
    time := s.time, choice := s.choice, seq := s.seq, inputs := s.inputs, sent := s.sent, tiles := s.tiles
    dies := s.dies.map fun (y : Die) => { Die.reset with sensors := y.sensors }
    tier := s.tier, tierKeys := s.tierKeys.map (fun p => (p.1, gone)), poison := s.poison, soft := s.soft, hard := s.hard, host := s.host, remotes := s.remotes, refusing := s.refusing
    hostPriv := s.hostPriv, flow := s.flow, powerNow := s.powerNow, freeCount := s.freeCount, cause := 1#8
    reeve := { s.reeve with tried := false, bootOk := false } }

/-! ## A change of a die's band (R220, R246, R248, R250, R252) -/

/-- The runs of a die take BAND at their next boundary (R220), after every other event of the cycle (R213). -/
def State.bandStops (s : State) (d : Nat) : State :=
  (s.runs.filter fun p => dieOf p.2.origin == d).foldl (fun s p => s.setStop p.1 .band) s

/-- The value written to a BANDFUT future (R250): the new and the previous module band, the die bands, the change furrow. -/
def State.bandWord (s : State) (prev : Nat) : Word :=
  w64 (s.moduleBand + prev * 4 + s.dieBands * 16 + wbits s.bandReg 32 32 * 2 ^ 32)

/-- BAND and the BANDFUT futures after a change, `prev` being the module band before it (R246, R250). -/
def State.postBand (s : State) (prev : Nat) : State :=
  let new := s.moduleBand
  let reg := setBits (setBits s.bandReg 0 2 new) 2 8 s.dieBands
  let reg := if new = prev then reg else setBits (setBits reg 32 32 s.furrow) 10 1 1
  let s := { s with bandReg := reg }
  (List.range 16).foldl (fun s x =>
    if (s.ctx x).bandfut = 0#64 then s else s.moduleFutw x (s.ctx x).bandfut (s.bandWord prev)) s

/-- What the state machine makes of the dies' bands (R252). -/
def State.followBand (s : State) (d : Nat) (b : Nat) (warmer : Bool) : State :=
  let m := s.moduleBand
  if warmer ∧ b = 3 then
    if s.mstate = .off ∨ s.mstate = .warm then s else (s.losePower).enterWarm 4#8
  else
    let s := if warmer ∧ b = 2 then s.bandStops d else s
    match s.mstate with
    | .run => if m = 0 then s else if m = 1 then s.moveTo .retreat 2#8 else s.enterDrain 2#8
    | .retreat => if m = 0 then s.moveTo .run 2#8 else if m = 1 then s else s.enterDrain 2#8
    | .park => { s with since := if s.diesCool then some (s.since.getD s.time) else none }
    | _ => s

/-- Die d changes to band b: its controllers' timing set is due to switch (R248), BAND and the futures follow (R246, R250),
then the module state (R252). -/
def State.changeBand (s : State) (d b : Nat) : State :=
  let old := (s.die d).band.num
  let prev := s.moduleBand
  let s := s.modDie d fun y =>
    { y with band := Band.ofNum b, coolSince := none
             switchBy := if b = 0 then none else if y.warmSet then none else some (y.switchBy.getD (s.time + 2 * millisecond)) }
  (s.postBand prev).followBand d b (decide (old < b))

/-! ## Samples (R244, R245, R256) -/

/-- The warmest and the coldest of a set of readings. -/
def readMax (l : List Nat) : Nat := l.foldl max 0
def readMin (l : List Nat) : Nat := l.foldl min (readMax l)

/-- TEMPSENSE of a sample set (R244). -/
def tempWord (l : List Nat) : Word := w64 (readMax l % 2 ^ 16 + readMin l % 2 ^ 16 * 2 ^ 16 + (readMax l - readMin l) % 2 ^ 16 * 2 ^ 32 + 2 ^ 63)

/-- Has every die sampled, with a property of its maximum and gradient? -/
def State.allDies (s : State) (f : Nat → Nat → Nat → Bool) : Bool :=
  s.dies.toList.all fun y => y.tempsense.getLsbD 63 && f (wbits y.tempsense 0 16) (wbits y.tempsense 16 16) (wbits y.tempsense 32 16)

/-- The transitions of R252 that a sample brings about: CHILL to SOAK at 100 K, the hold of SOAK at 90 K with a gradient
below 2 K, WARM to OFF at 280 K. -/
def State.sampleMoves (s : State) : State :=
  match s.mstate with
  | .chill => if s.allDies fun hi _ _ => decide (hi ≤ 1600) then s.moveTo .soak 1#8 else s
  | .soak =>
    { s with since := if s.allDies fun hi _ g => decide (hi ≤ 1440) && decide (g < 32) then some (s.since.getD s.time) else none }
  | .warm => if s.allDies fun _ lo _ => decide (4480 ≤ lo) then s.powerOff else s
  | _ => s

/-- SENSOR_SAMPLE (R244, R245): TEMPSENSE and COOLFLOW are written; a maximum above its band's limit moves the die to a warmer
band at once; readings below the limit minus the hysteresis begin the second of R245, any other ends it. -/
def execSensorSample (d : Nat) (s : State) : Result :=
  let l := (s.die d).sensors
  if 4 ≤ d ∨ l = [] then .next s
  else
    let s := s.modDie d fun y => { y with tempsense := tempWord l }
    let s := { s with coolflow := w64 (min s.flow 65535)
                      flowLow := if s.flow < 700 then some (s.flowLow.getD s.time) else none }
    let cur := (s.die d).band.num
    let b := s.bandOf (readMax l)
    let s := if cur < b then s.changeBand d b
      else
        let below := decide (0 < cur) && decide (readMax l + s.hysteresis < s.bandLimit (cur - 1))
        s.modDie d fun y => { y with coolSince := if below then some (y.coolSince.getD s.time) else none }
    .next s.sampleMoves

/-- Has a die read below its limit to cool for 1 s (R245)? -/
def State.coolDue (s : State) (d : Nat) : Bool :=
  decide (d < 4) && (s.die d).coolSince.any (fun t => decide (t + second ≤ s.time)) && (s.die d).band.num != 0

/-- BAND_COOL_HOLD (R245): after 1 s of such readings the die moves to the next cooler band. -/
def execBandCoolHold (d : Nat) (s : State) : Result :=
  if s.coolDue d then .next (s.changeBand d ((s.die d).band.num - 1)) else .next s

/-- TIMING_SET_SWITCH (R248): within 2 ms of the sample the die's controllers run the warm timing set with refresh.  The switch
back to the cold set is a step of the furrow boundary. -/
def execTimingSetSwitch (d : Nat) (s : State) : Result :=
  if (s.die d).switchBy.isNone then .next s
  else .next (s.modDie d fun y => { y with warmSet := true, switchBy := none, refresh := true })

/-- PATROL_SCRUB (R36, R247): a line is read, corrected and rewritten; an uncorrectable one poisons its page. -/
def execPatrolScrub (line : Nat) (s : State) : Result := .next (s.tierTouch (64 * line)).1

/-- BARRIER_TREE_DISAGREE (R267): a tree that has disagreed with the other is logged and taken out of service; the other carries the
barriers. -/
def execBarrierTreeDisagree (d tree : Nat) (s : State) : Result :=
  if 4 ≤ d ∨ !(s.die d).odd.any (·.1 == tree) then .next s
  else .next ((s.modDie d fun y =>
    { y with trees := y.trees &&& ~~~(1#2 <<< tree), odd := y.odd.filter (·.1 != tree) }).send (.logTree d tree))

/-- Disagreements of barrier trees that are not logged yet: die, tree, and whether the millisecond of R267 is over. -/
def State.treeFaults (s : State) : List (Nat × Nat × Bool) :=
  (List.range 4).flatMap fun d => (s.die d).odd.map fun o => (d, o.1, decide (o.2 + millisecond ≤ s.time))

/-! ## Power (R255) and coolant (R252) -/

/-- Does the average of the power readings of the latest millisecond exceed the limit? -/
def State.powerOver (s : State) : Bool := decide (s.cfg.power * s.power.length < s.power.foldl (· + ·) 0)

/-- POWER_SAMPLE (R255): the average over the latest 1 ms; above the limit the holds apply until a furrow boundary lifts them. -/
def execPowerSample (s : State) : Result :=
  let s := { s with power := (s.powerNow :: s.power).take 100 }
  .next (if s.powerOver then { s with holdBook := true } else s)

/-- Has the flow been below 7 g/s for 100 ms in RUN or RETREAT (R252)? -/
def State.coolantDue (s : State) : Bool :=
  s.flowLow.any (fun t => decide (t + 100 * millisecond ≤ s.time)) && (s.mstate == .run || s.mstate == .retreat)

/-- COOLANT_LOW (R252). -/
def execCoolantLow (s : State) : Result := if s.coolantDue then .next (s.enterDrain 5#8) else .next s

/-! ## The state machine (R252) -/

/-- Has SOAK's condition held for 60 s? -/
def State.soakDue (s : State) : Bool := s.mstate == .soak && s.since.any fun t => decide (t + 60 * second ≤ s.time)

/-- SOAK_DONE. -/
def execSoakDone (s : State) : Result := if s.soakDue then .next (s.moveTo .train 1#8) else .next s

/-- The enabled link ports come up, trained, with keys that the reeves have exchanged (R233, R252). -/
def State.portsUp (s : State) : State :=
  (List.range 16).foldl (fun s i =>
    if !s.cfg.ports.getLsbD i then s.modLink i fun p => { p with up := false }
    else if (s.link i).up then s else s.bringUp i) s

/-- TRAINING_DONE. -/
def execTrainingDone (ok : Bool) (s : State) : Result :=
  if s.mstate ≠ .train then .next s
  else if ok then .next (s.portsUp.moveTo .configOpen 1#8) else .next (s.enterWarm 3#8)

/-- RUN or RETREAT, by the module band.  The refresh of PARK ends on a COLD die that runs the cold timing set (R245, R247). -/
def State.enterRun (s : State) (cause : BitVec 8) : State :=
  { s.moveTo (if s.moduleBand = 0 then .run else .retreat) cause with
    clockOn := true, dies := s.dies.map fun (y : Die) => { y with refresh := y.refresh && (y.warmSet || y.band != .cold) } }

/-- May the lock complete: every die is COLD or COOL? -/
def State.lockDue (s : State) : Bool := s.mstate == .configLocked && s.diesCool

/-- Must it: the millisecond of R252 is over? -/
def State.lockLate (s : State) : Bool := s.lockDue && s.since.any fun t => decide (t + millisecond ≤ s.time)

/-- LOCK_DISTRIBUTED.  The first entry to RUN after power-on begins the count of cycles (R153); where that entry is to RETREAT, the count begins
there and goes on in RUN (log entry 109). -/
def execLockDistributed (s : State) : Result :=
  if !s.lockDue then .next s
  else
    let s := s.portsUp.enterRun 0#8
    if s.everRun then .next s else .next { s with everRun := true, cycle := 0, todo := s.todo ++ [.plan 0] }

/-- Is nothing of any context running or pending (R252)? -/
def State.quiet (s : State) : Bool := s.runs.isEmpty && s.ops.all (·.2.spilled)

/-- Is DRAIN over? -/
def State.drainDue (s : State) : Bool := s.mstate == .drain && s.quiet

/-- DRAIN_DONE: the module parks, the clocks of the field dies stop, every controller refreshes (R247). -/
def execDrainDone (s : State) : Result :=
  if !s.drainDue then .next s
  else
    let cause := s.cause
    let s := { s.moveTo .park cause with
      clockOn := false, dies := s.dies.map fun (y : Die) => { y with refresh := true } }
    .next ({ s with since := if s.diesCool then some s.time else none }.drainOver)

/-- The reference time of a cycle: twice as long in COOL (R7, R249). -/
def State.timeStep (s : State) : Nat := if s.clockOn && s.clockSlow then 2 else 1

/-- Must a die's controllers switch now, since the next cycle begins more than 2 ms after the sample (R248)? -/
def State.switchLate (s : State) (d : Nat) : Bool := (s.die d).switchBy.any fun t => decide (t < s.time + s.timeStep)

/-- Does patrol scrub run: the second tier has power and is not in self-refresh (R247, R253)? -/
def State.scrubs (s : State) : Bool := s.mstate != .off && !s.selfRefresh

/-- Lines with an error that patrol scrub has not met yet (R36, R247). -/
def State.scrubLines (s : State) : List Nat := if s.scrubs then s.soft.map (·.1) ++ s.hard.map (·.1) else []

/-- Patrol scrub has met every line within 64 s (R247, R267). -/
def State.scrubAll (s : State) : State := s.scrubLines.foldl (fun s l => (s.tierTouch (64 * l)).1) s

/-- The longest round of patrol scrub (R247). -/
def scrubPeriod : Nat := 64 * second

/-- Is every die COLD or COOL for 1 s in PARK, with no drain command outstanding? -/
def State.parkDue (s : State) : Bool :=
  s.mstate == .park && s.diesCool && !s.drainCmd && s.since.any fun t => decide (t + second ≤ s.time)

/-- PARK_EXIT. -/
def execParkExit (s : State) : Result := if s.parkDue then .next (s.enterRun 1#8) else .next s

end Sys2Proof.Machine
end

