-- ==== Sys2Proof/Machine/Service.lean ====
section
/-!
DEFINITION. Sys2Proof/Machine/Service.lean: the service cores (R151, R257–R260), their mailbox commands (R189, R195, R203, R252, R254,
R259, R261), token rings (R263), pre-emption, spill, resumption and teardown (R57, R74, R224, R225, R232), and what the reeve
writes (R229, R230).
-/
namespace Sys2Proof.Machine

/-! ## Mailboxes (R258) -/

/-- A mailbox of a service core. -/
def Core.box (c : Core) (slot : Nat) : Vector Word 8 := c.mail[slot]?.getD (Vector.replicate 8 0#64)
/-- Word `i` of a mailbox. -/
def mailWord (m : Vector Word 8) (i : Nat) : Word := m[i]?.getD 0#64

/-- The statuses of R258. -/
def statOk : Nat := 0
def statLocked : Nat := 1
def statBusy : Nat := 2
def statBad : Nat := 3
def statSpillFault : Nat := 5
def statReset : Nat := 7
def statStale : Nat := 8
def statDenied : Nat := 9

/-- A command in performance: its core and slot, its words, and the stream it came over (none: the reeve's). -/
structure Cmd where
  core   : Nat
  slot   : Nat
  words  : Vector Word 8
  stream : Option Nat
  deriving DecidableEq, Repr

def Cmd.word (c : Cmd) (i : Nat) : Word := mailWord c.words i
/-- The context a command names, and its code (R258). -/
def Cmd.ctx (c : Cmd) : Nat := wbits (c.word 0) 16 8
def Cmd.code (c : Cmd) : Nat := wbits (c.word 0) 0 8

/-- The command a service core performs now. -/
def State.command (s : State) (k : Nat) : Option Cmd :=
  (s.core k).cur.map fun (p : Nat × Option Nat) => { core := k, slot := p.1, words := (s.core k).box p.1, stream := p.2 }

/-- The command completes with a status (R258). -/
def State.reply (s : State) (c : Cmd) (status : Nat) : State :=
  (s.modCore c.core fun y => { y with cur := none }).mailDone c.core c.slot status

/-- The command has begun and completes later (R33, R224, R252). -/
def State.defer (s : State) (c : Cmd) : State := s.modCore c.core fun y => { y with cur := none }

/-- A mailbox command with its code: over the context's stream (T) or the reeve's (R259); reserved bits of word0 and a context
beyond 15 are CFG-BAD (log entry 41). -/
def mailCommand (code : Nat) (tenant : Bool) (f : Cmd → State → State) (k : Nat) (s : State) : Result :=
  match s.command k with
  | none => .next s
  | some c =>
    if c.code ≠ code then .next s
    else if c.stream ≠ (if tenant then some c.ctx else none) then .next (s.reply c statDenied)
    else if wbits (c.word 0) 24 39 ≠ 0 ∨ 16 ≤ c.ctx then .next (s.reply c statBad)
    else .next (f c s)

/-- A command that only checks and writes: the first status that applies, or the effect with OK. -/
def State.settle (s : State) (c : Cmd) (checks : List (Bool × Nat)) (effect : State → State) : State :=
  match checks.find? (·.1) with
  | some x => s.reply c x.2
  | none => (effect s).reply c statOk

/-! ## Fibres and pools (R195, R259) -/

/-- The other bad contents of a fibre setup (R259). -/
def Cmd.fibreBad (c : Cmd) : Bool :=
  let w0 := c.word 2
  wbits w0 60 4 != 1 || wbits w0 52 4 == 0 || wbits w0 48 4 != 0 || c.word 7 != 0#64 ||
  wbits (c.word 1) 32 13 != 0 || wbits w0 0 44 != 0 || wbits (c.word 1) 16 16 != 0 || wbits (c.word 1) 54 10 != 0 ||
  wbits (c.word 1) 12 2 != 0

/-- The fibre id a command names. -/
def Cmd.fibre (c : Cmd) : BitVec 16 := (c.word 1).extractLsb' 0 16

/-- FIBRE_SETUP (R259): the record is written whole, so a double error of it is gone (R267). -/
def execFibreSetup (k : Nat) (s : State) : Result :=
  mailCommand 0x01 true (fun c s =>
    let formed := wbits (c.word 1) 12 2 == 0
    s.settle c
      [(formed && wbits ((s.fibre c.fibre).word 0) 60 4 != 0, statBusy),
       (wbits (c.word 2) 56 4 != c.ctx, statDenied),
       (c.fibreBad, statBad)]
      fun s => (s.renew (c.fibre.toNat / 16384) 6 (c.fibre.toNat % 4096)).setFibre c.fibre
        { w := Vector.ofFn fun i : Fin 8 => if i.val < 6 then c.word (2 + i.val) else if i.val = 6 then w64 (wbits (c.word 1) 32 22) else 0#64
          held := none, wrote := none }) k s

/-- Is a task of the fibre booked or running (R259)? -/
def State.fibreBusy (s : State) (f : BitVec 16) : Bool :=
  s.dies.toList.any fun y => y.tasks.any fun t => t.2.fibre == f && (t.2.state == 4 || t.2.state == 5)

/-- FIBRE_TEARDOWN (R259): the record is free again. -/
def execFibreTeardown (k : Nat) (s : State) : Result :=
  mailCommand 0x02 true (fun c s =>
    let f := s.fibre c.fibre
    let active := wbits (f.word 0) 60 4 == 1
    s.settle c
      [(wbits (c.word 1) 12 2 != 0 || wbits (c.word 1) 16 48 != 0, statBad),
       (active && wbits (f.word 0) 56 4 != c.ctx, statDenied),
       (active && s.fibreBusy c.fibre, statBusy)]
      fun s => s.setFibre c.fibre Fibre.reset) k s

/-- PAGE_POOL (R195). -/
def execPagePool (k : Nat) (s : State) : Result :=
  mailCommand 0x03 true (fun c s =>
    s.settle c [(decide (3 < (c.word 1).toNat), statBad)] fun s => s.setPool (c.word 1).toNat c.ctx (c.word 2, c.word 3)) k s

/-! ## Records, parameters, go (R189, R259) -/

/-- Does a record write of `v` under a mask break R378's table, or its result the rules of TPATCH (R176)? -/
def State.recordBad (s : State) (x k : Nat) (v new : Word) : Bool := patchStray k v || s.patchBad x k new

/-- RECORD_WRITE (R259). -/
def execRecordWrite (k : Nat) (s : State) : Result :=
  mailCommand 0x04 true (fun c s =>
    let h := c.word 1
    let i := (c.word 2).toNat
    let t := s.taskAt h
    let new := (t.word i &&& ~~~(c.word 4)) ||| (c.word 3 &&& c.word 4)
    s.settle c
      [(!s.taskOk h, statStale),
       (t.ctx != c.ctx, statDenied),
       (t.state != 1, statBusy),
       (decide (15 < i) || s.recordBad c.ctx i (c.word 3 &&& c.word 4) new, statBad)]
      fun s => s.putTaskAt h (t.patch i new)) k s

/-- GP_WRITE (R189): the register is written whole (R267). -/
def execGpWrite (k : Nat) (s : State) : Result :=
  mailCommand 0x05 true (fun c s =>
    s.settle c [(decide (63 < (c.word 1).toNat), statBad)] fun s =>
      (s.renew 0 8 (64 * c.ctx + (c.word 1).toNat)).setGp c.ctx (c.word 1).toNat (c.word 2)) k s

/-- The first failing check of a go list, head by head (R189); `seen`: heads named before. -/
def State.goCheck (s : State) (x : Nat) (seen : List Word) : List Word → Option Nat
  | [] => none
  | h :: r =>
    let t := s.taskAt h
    if !s.taskOk h then some statStale
    else if t.ctx ≠ x then some statDenied
    else if t.state ≠ 1 ∨ t.word 7 ≠ 0#64 ∨ seen.contains h then some statBusy
    else if s.shapeBad (hDie h) t then some statBad
    else s.goCheck x (h :: seen) r

/-- GO (R189): the whole list is checked before any head is armed, in list order. -/
def execGo (k : Nat) (s : State) : Result :=
  mailCommand 0x06 true (fun c s =>
    let n := (c.word 1).toNat
    let heads := (List.range n).map fun i => c.word (2 + i)
    if n < 1 ∨ 6 < n then s.reply c statBad
    else match s.goCheck c.ctx [] heads with
      | some e => s.reply c e
      | none => (heads.foldl (fun s h => s.armWith (hDie h) (hIndex h) (wbits ((s.taskAt h).word 0) 0 16)) s).reply c statOk) k s

/-! ## Invalidation (R32, R33) -/

/-- An invalidation begins; it reaches the drills in later steps. -/
def State.invalidate (s : State) (core : Option (Nat × Nat)) (x : Nat) (va : Option Word) (withG : Bool) : State :=
  { s with invals := mput s.invals s.seq { core := core, ctx := x, va := va, withG := withG, arrived := [], waits := [], refuse := [] }
           seq := s.seq + 1 }

/-- INVALIDATE_BY_PAGE (R32). -/
def execInvalidateByPage (k : Nat) (s : State) : Result :=
  mailCommand 0x07 false (fun c s => (s.invalidate (some (c.core, c.slot)) c.ctx (some (c.word 1)) false).defer c) k s

/-- INVALIDATE_BY_TENANT (R32). -/
def execInvalidateByTenant (k : Nat) (s : State) : Result :=
  mailCommand 0x08 false (fun c s => (s.invalidate (some (c.core, c.slot)) c.ctx none false).defer c) k s

/-! ## Pre-emption, spill, teardown (R57, R74, R224, R232) -/

/-- PRE_EMPT (R224): it takes effect at the next furrow boundary; after a spill fault it retries the spill. -/
def execPreEmpt (k : Nat) (s : State) : Result :=
  mailCommand 0x09 false (fun c s =>
    let start (p : PreState) (retry : Bool) : State :=
      (s.modCtx c.ctx fun y => { y with pre := p, preCore := some (c.core, c.slot), retry := retry }).defer c
    match (s.ctx c.ctx).pre with
    | .none => if (s.ctx c.ctx).live then start (.asked false) false else s.reply c statBad
    | .spillFault => start (.running none s.furrow) true
    | .spilled => s.reply c statOk
    | _ => s.reply c statBusy) k s

/-- TEARDOWN (R232): steps 1 to 3 of a pre-emption with a deadline of one furrow come first; of a context whose pre-emption is over the next
step is due at once (log entry 115). -/
def State.askTeardown (s : State) (x : Nat) (by_ : Option (Nat × Nat)) : State :=
  match (s.ctx x).pre with
  | .none => s.modCtx x fun y => { y with pre := .asked true, preCore := by_, retry := false }
  | .spilled => s.modCtx x fun y => { y with pre := .running (some s.furrow) s.furrow, preCore := by_, retry := false }
  | .spillFault => s.modCtx x fun y => { y with pre := .running (some s.furrow) s.furrow, preCore := by_, retry := true }
  | _ => s

/-- May a teardown of the context begin: it is assigned, and no other pre-emption or teardown is under way? -/
def Ctx.mayDie (c : Ctx) : Bool :=
  c.live && (match c.pre with | .none => true | .spilled => true | .spillFault => true | _ => false)

def execTeardown (k : Nat) (s : State) : Result :=
  mailCommand 0x0B false (fun c s =>
    if !(s.ctx c.ctx).live then s.reply c statOk
    else if (s.ctx c.ctx).mayDie then (s.askTeardown c.ctx (some (c.core, c.slot))).defer c
    else s.reply c statBusy) k s

/-- The tiles a context owns. -/
def State.tilesOf (s : State) (x : Nat) : List Nat := (s.tiles.filter fun p => p.2.owner == some (BitVec.ofNat 4 x)).map (·.1)

/-- The request of a pre-emption or teardown is answered (R224, R232). -/
def State.preDone (s : State) (x status : Nat) : State :=
  let c := (s.ctx x).preCore
  let s := s.modCtx x fun y => { y with preCore := none, retry := false, unbooked := [] }
  match c with
  | some (k, slot) => s.mailDone k slot status
  | none => s

/-! What stands of an operation that stops (R57): bytes that a counter's advanced generation, or a counter that an LNDSET has set anew since,
has counted are not debited, so they are not transferred again. -/

/-- The credits of an operation that a debit does not take back. -/
def State.standing (s : State) (o : Op) : List Credit :=
  let live := s.liveCredits o
  o.credits.filter fun c => !live.contains c

/-- Has port B read the whole tile of a DRAINING slot: the header's generation has advanced (R53)? -/
def State.slotRead (s : State) (o : Op) (y : Nat) : Bool :=
  (o.walk.bind fun w => mget w.gens y).any fun g => (s.tile (y / 65536)).counterGen s.cycle (o.walkDesc.slotAt (y % 65536)) != g

/-- Is a part the latest tile of its slot, at the same members? -/
def Op.latest (o : Op) (p : Part) : Bool :=
  let x := o.walkDesc
  o.parts.all fun q => q.off % x.slots != p.off % x.slots || (x.back && q.accepted != p.accepted) || decide (q.off ≤ p.off)

/-- A part of an operation that stops: of a copy the granules that its standing credits count are kept; of a write-back walk a tile that has
been read; of a fetch walk the members whose slot is still FILLING begin the tile again. -/
def State.stopPart (s : State) (o : Op) (p : Part) : Part :=
  let x := o.walkDesc
  if o.kind ≠ .hwalk then
    let cs := s.standing o
    { p with landed := p.landed.filter fun y => cs.any fun c => c.tile == y.1 && c.granule == y.2
             read := p.read.filter fun g => cs.any (·.granule == g) }
  else if x.back then
    (if s.slotRead o (slotKey (p.off % x.slots) (p.accepted.headD 0)) then p else { p with read := [] })
  else
    let filling := if o.latest p then p.accepted.filter fun k => (s.tile k).slotState s.cycle (x.slotAt (p.off % x.slots)) == 1 else []
    { p with accepted := filling, landed := p.landed.filter fun y => !filling.contains y.1 }

/-- Bytes of a walk's part that landed in a granule. -/
def Op.landedIn (o : Op) (p : Part) (g : Nat) : Nat := ((o.granuleBytes [(0, p)] g).filter (·.isSome)).length

/-- The bytes landed so far that stand. -/
def State.landedOf (s : State) (o : Op) (parts : List Part) : Nat :=
  if o.kind = .hwalk then parts.foldl (fun n p => p.landed.foldl (fun n y => n + o.landedIn p y.2) n) 0
  else if o.writes then 0
  else (s.standing o).foldl (fun n c => n + c.bytes) 0

/-- An operation of a pre-empted context stops as R56 has it, its register unchanged (R57): counters debited, slots EMPTY,
in-flight bits cleared. -/
def State.spillOp (s : State) (i : Nat) (o : Op) : State :=
  let parts := (o.parts.filter fun p => p.bytes != 0).map (s.stopPart o)
  let stopped (q : Op) : Op :=
    { q with spilled := true, credits := if q.kind = .hwalk then [] else s.standing o, parts := parts, landed := s.landedOf o parts }
  let s := ((s.debit i o).emptySlots i o).clearOp i o
  { s with
    ops := mput s.ops i (stopped o), messages := s.messages.filter fun m => m.2.op != i
    invals := s.invals.map fun v => (v.1, { v.2 with waits := v.2.waits.filter fun w => w.1 != i }) }

/-- The spill area of a context, and the VA of tile n's share of it (R223). -/
def Ctx.spillVa (c : Ctx) (n : Nat) : Nat := wbits c.prectl 16 28 * 2 ^ 27 + n * 0x420000

/-- The cells of a list at [lo, lo + n), from address 0 on. -/
def cellsIn (m : List Host.Cell) (lo n : Nat) : List Host.Cell :=
  (m.filter fun c => decide (lo ≤ c.1) && decide (c.1 < lo + n)).map fun c => (c.1 - lo, c.2)

/-- A row's tags as the spill holds them, 8 bytes a row: NOTAG is 0. -/
def tagCode (f q : Nat) : Nat := 0xFFFFFF - f % 2 ^ 24 + q % 2 ^ 24 * 2 ^ 24

/-- The tags of leased rows, 8 bytes a row (R74). -/
def Tile.tagCells (t : Tile) : List Host.Cell :=
  (t.field.tags.filter fun r => (mget t.field.lease (r.1 / 256)).isSome).flatMap fun r =>
    Memory.cells (8 * r.1) (tagCode r.2.1 r.2.2) 0 8

/-- The pages that the spill of a tile writes from page `base` on: unit u at page u, the tags at pages 64 and 65. -/
def Tile.spillPages (t : Tile) (base : Nat) : List (Nat × List Host.Cell) :=
  (t.field.lease.map fun l => (base + l.1, cellsIn t.field.mem (65536 * l.1) 65536)) ++
    [(base + 64, cellsIn t.tagCells 0 65536), (base + 65, cellsIn t.tagCells 65536 65536)]

/-- The VA pages the spill writes, with what it writes: per tile its leased units and their tags, at the end the commands, which
the module keeps beside it (R74, R223). -/
def State.spillPages (s : State) (x : Nat) : List (Nat × List Host.Cell) :=
  let ks := s.tilesOf x
  (ks.zipIdx.flatMap fun k => (s.tile k.1).spillPages ((s.ctx x).spillVa k.2 / 65536)) ++
    (List.range 16).map fun u => ((s.ctx x).spillVa ks.length / 65536 + u, [])

/-- A page of the spill area, which must lie in the local second tier: the fault kind or its PPN (R74, R223). -/
def State.spillPage (s : State) (x page : Nat) (write : Bool) : State × Option Nat :=
  match s.translateLocal x (65536 * page) (if write then .write else .read) with
  | (s, .inl _) => (s, none)
  | (s, .inr t) =>
    if t.target ≠ 0 then (s, none)
    else match s.place x t write 0 with
      | (s, .inl _) => (s, none)
      | (s, .inr _) => (s, some t.ppn)

/-- The pages of the spill area for writing, each with what it takes; none where one faults (R224). -/
def State.spillArea (s : State) (x : Nat) : State × Option (List (Nat × List Host.Cell)) :=
  (s.spillPages x).foldl (fun acc page =>
    match acc.2 with
    | none => acc
    | some l =>
      match acc.1.spillPage x page.1 true with
      | (s, none) => (s, none)
      | (s, some ppn) => (s, some (l ++ [(ppn, page.2)]))) (s, some [])

/-- A page of the second tier written whole under a key: no error of its lines stands any more (log entry 70). -/
def State.putPage (s : State) (ppn key : Nat) (cells : List Host.Cell) : State :=
  let lo := 1024 * ppn
  { s with
    tier := cells.foldl (fun m c => Memory.write m (65536 * ppn + c.1) 1 c.2.toNat) (s.tier.filter fun c => c.1 / 65536 != ppn)
    tierKeys := s.tierKeys.takeWhile (·.1 < lo) ++ (List.range' lo 1024).map (·, key) ++ s.tierKeys.dropWhile (·.1 < lo + 1024)
    soft := s.soft.filter fun l => l.1 / 1024 != ppn, hard := s.hard.filter fun l => l.1 / 1024 != ppn }

/-- A page of the second tier as it deciphers under a key; none where a line of it cannot be read. -/
def State.getPage (s : State) (ppn key : Nat) : State × Option (List Host.Cell) :=
  match s.touchLines false (65536 * ppn) 65536 with
  | (s, false) => (s, none)
  | (s, true) =>
    let line (l : Nat) : List Host.Cell :=
      let k := (mget s.tierKeys (1024 * ppn + l)).getD key
      if k = key then (cellsIn s.tier (65536 * ppn + 64 * l) 64).map fun c => (64 * l + c.1, c.2)
      else ((List.range 64).map fun b => (64 * l + b, Config.garbledByte k key (65536 * ppn + 64 * l + b))).filter
        fun c => c.2 != Memory.blank
    (s, some ((List.range 1024).flatMap line))

/-- The number of the key of a spill's pages, from a number drawn by the reeve. -/
def spillKey (n : Nat) : Nat := 4 * n + 2

/-- What the module keeps of a tile beside its spill area: the leased units, the keys of their granules, and those that could not
be rebuilt, which stay so (log entry 78). -/
def Tile.spilled (t : Tile) (k place key : Nat) : SpillTile :=
  let leased (a : Nat) : Bool := (mget t.field.lease (a / 65536)).isSome
  { tile := k, vtile := t.vtile, place := place, key := key, lease := t.field.lease
    keys := t.field.keys.filter fun g => leased (32 * g.1)
    dead := (t.field.dead.filter fun g => leased (32 * g) && t.lost g) }

/-- The spill of a context none of whose tasks runs (R57, R74, R224). -/
def State.spillCtx (s : State) (x : Nat) : State :=
  let s := (s.ops.filter fun o => o.2.ctx == x && !o.2.spilled).foldl (fun s o => s.spillOp o.1 o.2) s
  match s.spillArea x with
  | (s, none) => ((s.modCtx x fun y => { y with pre := .spillFault }).send (.spillFault x)).preDone x statSpillFault
  | (s, some pages) =>
    let key := spillKey s.reeve.nextKey
    let s := { (s.settleWrites .tier) with reeve := { s.reeve with nextKey := s.reeve.nextKey + 1 } }
    let s := pages.foldl (fun s p => s.putPage p.1 key p.2) s
    let ks := s.tilesOf x
    let l := ks.zipIdx.map fun k => (s.tile k.1).spilled k.1 k.2 key
    let s := ks.foldl (fun s k => s.modTile k fun t => { t with field := { t.field with lease := [] } }) s
    ((s.modCtx x fun y => { y with pre := .spilled, spill := l }).send (.preempted x)).preDone x statOk

/-- Everything under way for a context is given up by its teardown, with its hold on frames and cells (R22). -/
def State.dropCtx (s : State) (x : Nat) : State :=
  let mine := s.ops.filter fun o => o.2.ctx == x
  let s := mine.foldl (fun s o => if o.2.spilled then s else s.spillOp o.1 o.2) s
  let s := (mine.filterMap fun o => o.2.frame.map (·.1)).foldl (fun s h => s.dropFrameRef h) s
  let s := (s.frets.filter fun j => j.2.ctx == x).foldl (fun s j => s.endFret j.1 j.2) s
  let s := (s.lookups.filter fun j => j.2.ctx == x).foldl (fun s j =>
    j.2.frames.foldl (fun s h => s.dropFrameRef h) (s.dropCellRef j.2.fut)) s
  { s with
    ops := s.ops.filter fun o => o.2.ctx != x, handlers := s.handlers.filter fun h => h.2.ctx != x
    compacts := s.compacts.filter fun j => (s.frame j.2.die j.2.frame).ctx != x
    lookups := s.lookups.filter fun j => j.2.ctx != x, rebuilds := s.rebuilds.filter fun j => j.2.ctx != x }

/-- Steps 2 and 3 of a teardown: keys gone, the invalidation by tenant with G under way (R232).  What a watchdog would have to
put back (R260) is kept until the invalidation is complete. -/
def State.beginDeath (s : State) (x : Nat) : State :=
  let s := (s.ops.filter fun o => o.2.ctx == x && !o.2.spilled).foldl (fun s o => s.spillOp o.1 o.2) s
  let s := (s.tilesOf x).foldl (fun s k => s.modTile k fun t => { t with keyOk := false, key := 0 }) s
  let mine (e : KeyEntry) : Bool := e.ctx.toNat == x
  let mineW (w : Word × Word) : Bool := wbits w.1 56 4 == x
  let entries := (List.range 24).flatMap fun c =>
    ((s.ctrl c).keys.toList.zipIdx.filter fun e => mine e.1 && e.1.valid).map fun e => (c, e.2, e.1)
  let windows := (s.wintab.toList.zipIdx.filter fun w => mineW w.1).map fun w => (w.2, w.1)
  let s := { s with
    ctrls := s.ctrls.map fun (c : Ctrl) => { c with keys := c.keys.map fun (e : KeyEntry) => if mine e then KeyEntry.reset else e } }
  let s := windows.foldl (fun s w => s.writeWindow w.1 0#64 0#64) s
  let s := s.modCtx x fun y => { y with pre := .dying s.seq y.key entries windows, key := 0 }
  (s.invalidate none x none true).serveHeld

/-- Does a task record's, a continuation's context match (R174, R175)? -/
def TaskRec.isOf (t : TaskRec) (x : Nat) : Bool := t.state != 0 && t.ctx == x

/-- An entry of a prefix table that a teardown has cleared: its slot's generation stays (R22). -/
def PrefixEnt.cleared (e : PrefixEnt) : PrefixEnt := { e with w := Vector.replicate 4 0#64 }

/-- Step 4 of a teardown: the context's records are freed under R22, its tables cleared (R232). -/
def State.freeRecords (s : State) (x : Nat) : State :=
  let conts := (List.range 4).flatMap fun d =>
    ((s.die d).conts.filter fun c => c.2.state != 0 && s.contCtx c.2 == some x).map fun c => (d, c.1)
  let s := conts.foldl (fun s c => s.freeCont c.1 c.2) s
  let s := (List.range 4).foldl (fun s d => s.modDie d fun y =>
    { y with
      tasks := y.tasks.map fun t => if t.2.isOf x then (t.1, { TaskRec.reset with gen := t.2.gen }) else t
      frames := y.frames.map fun f => if f.2.state ≠ 0 ∧ f.2.ctx = x then (f.1, { Frame.reset with gen := f.2.gen }) else f
      cells := y.cells.map fun c => if c.2.kind ≠ .free ∧ c.2.ctx = x then (c.1, { Cell.reset with gen := c.2.gen }) else c
      beams := y.beams.map fun b => if b.2.ctx = x then (b.1, { b.2 with slots := Vector.replicate 64 0#64 }) else b }) s
  let s := (List.range 4).foldl (fun s d => s.freeStages d) s
  s.modCtx x fun y =>
    { y with pfx := y.pfx.map fun e => (e.1, e.2.cleared), kvrb := 0#64, gftab := 0#64, gp := Vector.replicate 64 0#64 }

/-- Steps 4 and 5 of a teardown, and the report (R232). -/
def State.endDeath (s : State) (x : Nat) : State :=
  let s := (s.dropCtx x).freeRecords x
  let s := (s.tilesOf x).foldl (fun s k => s.modTile k fun t => { t with owner := none }) s
  let s := s.modCtx x fun y => { y with live := false, pre := .none, spill := [], tdisp := .unlocked, session := false }
  (s.send (.tornDown x)).preDone x statOk

/-- May the next step of a pre-emption or teardown be taken: a teardown has taken effect, no task of the context runs, its stores have drained and every
cancelled operation has stopped; for a teardown under way, its invalidation and its writes of window entries are complete (R33, R236)? -/
def State.spillDue (s : State) (x : Nat) : Bool :=
  match (s.ctx x).pre with
  | .running td _ => td.all (fun n => decide (n ≤ s.furrow)) && s.runs.all (fun r => r.2.ctx != x) && ((s.tilesOf x).all fun k => (s.tile k).sb.isEmpty) &&
      s.ops.all fun o => o.2.ctx != x || o.2.spilled || (!o.2.cancel && s.opVisible o.1 o.2)
  | .dying i _ _ ws => (mget s.invals i).isNone && ws.all fun w => !s.windowWrites.contains w.1
  | _ => false

/-- SPILL (R74, R224, R232), and the further steps of a teardown. -/
def execSpill (x : Nat) (s : State) : Result :=
  if !s.spillDue x then .next s
  else match (s.ctx x).pre with
    | .running td _ => if td.isSome then .next (s.beginDeath x) else .next (s.spillCtx x)
    | .dying _ _ _ _ => .next (s.endDeath x)
    | _ => .next s

/-! ## Resumption (R57, R74, R225) -/

/-- The tile that a spilled tile's contents come back to: one of the context on the same die with its virtual number. -/
def State.newTile (s : State) (x : Nat) (l : SpillTile) : Option Nat :=
  (s.tilesOf x).find? fun k => dieOf k == dieOf l.tile && (s.tile k).vtile == l.vtile

/-- Where a tile of the context before is now. -/
def State.mapTile (s : State) (x k : Nat) : Option Nat := ((s.ctx x).spill.find? (·.tile == k)).bind (s.newTile x)

/-- The entries of one list put over those of another. -/
def mergeOver (old new : List (Nat × α)) : List (Nat × α) := new.foldl (fun m c => mput m c.1 c.2) old

/-- The tags of a row as the spill holds them; NOTAG rows are not listed. -/
def tagsOf (cells : List Host.Cell) (row : Nat) : Option (Nat × Nat × Nat) :=
  let v := Memory.read cells (8 * row) 8
  if bits v 0 48 = 0 then none else some (row, 0xFFFFFF - bits v 0 24, bits v 24 24)

/-- A spilled tile is written back onto a tile, its parity with it (R65, R74): the units and the tags as its pages hold them. -/
def Tile.restore (t : Tile) (l : SpillTile) (units : List (Nat × List Host.Cell)) (tags : List Host.Cell) : Tile :=
  let held (a : Nat) : Bool := (mget l.lease (a / 65536)).isSome
  let rows := (List.range 16384).filter fun r => held (256 * r)
  { t with field := { t.field with
      lease := l.lease
      mem := units.foldl (fun m u => u.2.foldl (fun m c => Memory.write m (65536 * u.1 + c.1) 1 c.2.toNat) m)
        (t.field.mem.filter fun c => !held c.1)
      keys := mergeOver (t.field.keys.filter fun g => !held (32 * g.1)) l.keys
      tags := mergeOver (t.field.tags.filter fun r => !held (256 * r.1)) (rows.filterMap (tagsOf tags))
      worn := t.field.worn.filter fun g => !held (32 * g)
      dead := (t.field.dead.filter fun g => !held (32 * g)) ++ l.dead } }

/-- A page of the spill area read back; none where that faults. -/
def State.readSpill (s : State) (x page key : Nat) : State × Option (List Host.Cell) :=
  match s.spillPage x page false with
  | (s, none) => (s, none)
  | (s, some ppn) => s.getPage ppn key

/-- The spill of a tile read back: its units, and its tags. -/
def State.readTile (s : State) (x : Nat) (l : SpillTile) : State × Option (List (Nat × List Host.Cell) × List Host.Cell) :=
  let base := (s.ctx x).spillVa l.place / 65536
  let y := l.lease.foldl (fun (acc : State × Option (List (Nat × List Host.Cell))) u =>
    match acc.2 with
    | none => acc
    | some us =>
      match acc.1.readSpill x (base + u.1) l.key with
      | (s, none) => (s, none)
      | (s, some cs) => (s, some (us ++ [(u.1, cs)]))) (s, some [])
  match y with
  | (s, none) => (s, none)
  | (s, some us) =>
    match s.readSpill x (base + 64) l.key with
    | (s, none) => (s, none)
    | (s, some a) =>
      match s.readSpill x (base + 65) l.key with
      | (s, none) => (s, none)
      | (s, some b) => (s, some (us, a ++ b.map fun c => (65536 + c.1, c.2)))

/-- Every spilled tile read back and restored where the map puts it; none where a page cannot be read (log entry 33). -/
def State.restoreTiles (s : State) (x : Nat) (f : Nat → Option Nat) : State × Bool :=
  (s.ctx x).spill.foldl (fun (acc : State × Bool) l =>
    match f l.tile with
    | none => acc
    | some k =>
      match acc.1.readTile x l with
      | (s, none) => (s, false)
      | (s, some (us, tags)) => (s.modTile k fun t => t.restore l us tags, acc.2)) (s, true)

/-- A part to be served anew from its beginning, but for what stands of it (R57). -/
def Part.again (p : Part) (walk : Bool) (now : Nat) : Part :=
  { p with phase := if walk then .live else .unsent, trans := [], got := [], put := []
           accepted := if walk then p.accepted else [], port := none, bad := [], since := [], nums := []
           sent := if walk then now else p.sent }

/-- The tiles an operation names, moved. -/
def Op.move (o : Op) (f : Nat → Nat) : Op :=
  let key (y : Nat) : Nat := y % 65536 + 65536 * f (y / 65536)
  { o with
    tile := f o.tile, members := o.members.map f, credits := o.credits.map fun c => { c with tile := f c.tile }
    parts := o.parts.map fun p => { p with accepted := p.accepted.map f, landed := p.landed.map fun q => (f q.1, q.2) }
    walk := o.walk.map fun (w : Walk) =>
      { w with permits := w.permits.map key, early := w.early.map key, begun := w.begun.map fun b => (key b.1, b.2)
               busy := if o.walkDesc.back then w.busy.map key else w.busy, gens := w.gens.map fun g => (key g.1, g.2) } }

/-- The field ranges of the issuing tile that a copy or far load holds in flight from its issue on (R48, R138). -/
def Op.flightRanges (o : Op) : List (Nat × Nat) :=
  match o.kind with
  | .cpy => (o.dst, o.length) :: o.rotDst.toList.map fun g => (g, o.length)
  | .cpyf => (o.dst, o.length) :: o.rotDst.toList.map fun g => (g, o.length)
  | .cpyw => [(o.src % 2 ^ 22, o.length)]
  | .fld => [(o.dst, 8)]
  | _ => []

/-- A tile of a walk that had not finished begins again: its slot is FILLING or DRAINING with no clipped bytes, its data granules
in flight; of a tile that has been read only the far writes are left. -/
def State.refill (s : State) (i j : Nat) (o : Op) (p : Part) : State :=
  let x := o.walkDesc
  let f := x.slotAt (p.off % x.slots)
  let s := if x.back && s.slotRead o (slotKey (p.off % x.slots) (p.accepted.headD 0)) then s
    else p.accepted.foldl (fun s k => s.onHeader i k f fun t =>
      (t.startSlot s.cycle f (if x.back then 3 else 1)).setFlight i (f + 32) x.tileBytes) s
  s.post i j o.ctx p.accepted

/-- The DRAINING slots of a write-back walk, which its stop left EMPTY. -/
def State.redrain (s : State) (i : Nat) (o : Op) : State :=
  match o.walk with
  | none => s
  | some w =>
    if !o.walkDesc.back then s
    else w.busy.foldl (fun s y => s.onHeader i (y / 65536) (o.walkDesc.slotAt (y % 65536)) fun t =>
      t.setSlot s.cycle (o.walkDesc.slotAt (y % 65536)) 3) s

/-- The parts of a copy that is issued again: a CPYF's rows as its page list names them now (R50, R57), its rotation rows, and the
parts of any other copy as they were. -/
def State.partsAgain (s : State) (o : Op) : State × List Part :=
  let old := o.parts.map (·.again false s.cycle)
  match o.frame with
  | none => (s, old)
  | some (h, _, first) =>
    let y := s.rowParts (hDie h) o.ctx h ((s.frameAt h).word 6) o.plane first (o.length / 256)
    let kept := (old.filter (!·.rot)).flatMap (·.landed)
    let rows := y.2.map fun p => { p with landed := kept.filter fun l => (o.granulesOf p).contains l.2 }
    (y.1, sortParts (rows ++ old.filter (·.rot)))

/-- The image of a part that writes far memory, read anew at its place unless bytes of it that have been read stand (R57, R138). -/
def State.imageAgain (s : State) (o : Op) (p : Part) : Part :=
  if !o.writes || o.kind == .fst || !p.read.isEmpty then p
  else { p with image := (s.tile ((o.partTiles p).headD o.tile)).fieldRead false s.cycle (o.fieldAt p) (o.partBytes p) }

/-- A recorded copy command is issued whole again; of a walk, the tiles that had not finished (R57). -/
def State.reissue (s : State) (i : Nat) (o : Op) (f : Nat → Nat) : State :=
  let o := o.move f
  let walk := o.kind == .hwalk
  let again (p : Part) : Bool := !o.partOver p || !p.faults.isEmpty
  let s := { s with ops := mput s.ops i o }
  let s := if walk then
      (o.parts.zipIdx.filter fun p => again p.1).foldl (fun s p => s.refill i p.2 o p.1) (s.redrain i o)
    else (o.flightRanges.foldl (fun s r => s.modTile o.tile (·.setFlight i r.1 r.2)) s).disownSettled i o o.tile
  let y : State × List Part := if walk then (s, o.parts.map fun p => if again p then p.again true s.cycle else p) else s.partsAgain o
  let s := y.1
  let renew (p : Part) : Part := if p.phase = .live ∨ p.phase = .unsent then s.imageAgain o p else p
  let o := { o with spilled := false, parts := y.2.map renew, sendAt := s.cycle + 15, issue := s.cycle, sbMark := (s.tile o.tile).nextId }
  let lost := (((mget s.ops i).map (·.parts)).getD []).filter (·.bytes == 0)
  { s with ops := mput s.ops i { o with parts := o.parts ++ lost } }

/-- A continuation of the context after the move: its pin tile and the tile of its wait; with its pin tile gone it resumes
TRAPPED with SECURITY (R225). -/
def ContRec.moved (c : ContRec) (f : Nat → Option Nat) : ContRec :=
  let w0 := c.word 0
  let c := { c with held := false }
  let c := if c.kind = 2 ∨ (c.kind = 5 ∧ c.word 1 = 0#64) then
      match f (wbits (c.word 5) 32 10) with
      | some k => c.setWord 5 (setBits (c.word 5) 32 10 k)
      | none => c
    else c
  if !w0.getLsbD 47 then c
  else match f (wbits w0 37 10) with
    | some k => c.setWord 0 (setBits w0 37 10 k)
    | none =>
      if c.state = 3 then c
      else { c.setState 1 with met := true, rebuild := [], trap := some (codeSecurity, 0#8) }

/-- Records of the context after the move (R225): pin tiles, fixed origins, and what names a tile beside them.  A ready task that is so
no longer gives its staging entry up (R157). -/
def State.moveRecords (s : State) (x : Nat) (f : Nat → Option Nat) : State :=
  let owned (c : ContRec) : Bool := c.state != 0 && s.contCtx c == some x
  let gone (c : ContRec) : Bool := owned c && c.state == 2 && (c.word 0).getLsbD 47 && (f (wbits (c.word 0) 37 10)).isNone
  let back := s.dies.toList.flatMap fun y => (y.conts.filter fun c => gone c.2).map fun c => c.2.word 1
  let s := { s with
    dies := s.dies.map fun (y : Die) =>
      { y with
        conts := y.conts.map fun c => if owned c.2 then (c.1, c.2.moved f) else c
        tasks := y.tasks.map fun t =>
          if t.2.isOf x && !t.2.any then (t.1, t.2.setWord 0 (setBits (t.2.word 0) 35 10 ((f t.2.origin).getD t.2.origin))) else t
        fibres := y.fibres.map fun b =>
          if wbits (b.2.word 0) 56 4 = x then (b.1, { b.2 with held := b.2.held.map fun (h : Nat × Nat) => ((f h.1).getD h.1, h.2) }) else b }
    handlers := s.handlers.map fun h =>
      if h.2.ctx = x then
        (h.1, { h.2 with origin := (f h.2.origin).getD h.2.origin, saved := h.2.saved.map fun k => (f k).getD k })
      else h }
  let s := back.foldl (fun s h => s.modTask (hDie h) (hIndex h) fun t => { t.setState 1 with stage := none }) s
  (List.range 4).foldl State.freeStages s

/-- The recorded commands of a context are issued again (R57). -/
def State.reissueAll (s : State) (x : Nat) (f : Nat → Nat) : State :=
  (s.ops.filter fun o => o.2.ctx == x && o.2.spilled).foldl (fun s o => s.reissue o.1 o.2 f) s

/-- The steps of R225; with a page of the spill area that cannot be read nothing is changed but what reading it has found (log
entry 33).  A recorded command of a tile that the context has not come back with is issued again at that tile's old number, where the context
owns nothing (log entry 102). -/
def State.resumeCtx (s : State) (x : Nat) : State × Bool :=
  let f := s.mapTile x
  match (s.moveRecords x f).restoreTiles x f with
  | (t, false) => ({ s with poison := t.poison, hard := t.hard, soft := t.soft, errstat := t.errstat }, false)
  | (s, true) => ((s.reissueAll x fun k => (f k).getD k).modCtx x fun y => { y with pre := .none, spill := [] }, true)

/-- RESUME (R225). -/
def execResume (k : Nat) (s : State) : Result :=
  mailCommand 0x0A false (fun c s =>
    match (s.ctx c.ctx).pre with
    | .spilled =>
      (match s.resumeCtx c.ctx with
        | (s, true) => (s.send (.resumed c.ctx)).reply c statOk
        | (s, false) => s.reply c statSpillFault)
    | .none => if (s.ctx c.ctx).live then s.reply c statOk else s.reply c statBad
    | _ => s.reply c statBusy) k s

/-! ## Sheaf, second tier (R35, R203) -/

/-- COMPACTION_RESUME (R203): a stopped compaction of the frame goes on from its recorded progress. -/
def execCompactionResume (k : Nat) (s : State) : Result :=
  mailCommand 0x0C true (fun c s =>
    let h := c.word 1
    let f := s.frameAt h
    let mine (j : CompactJob) : Bool := j.die == hDie h && j.frame == hIndex h && j.halted
    s.settle c
      [(!handleForm h 4 framePool || f.gen != hGen h || f.state == 0, statStale),
       (f.ctx != c.ctx, statDenied),
       (!(s.compacts.any fun j => mine j.2), statBad)]
      fun s => { s with compacts := s.compacts.map fun j => if mine j.2 then (j.1, { j.2 with halted := false }) else j }) k s

/-- POISON_CLEAR (R35): the page is zero-filled.  Of a page that is not POISON nothing is changed, and a PPN beyond the second tier
is CFG-BAD, which are the model's choices (log entry 77). -/
def execPoisonClear (k : Nat) (s : State) : Result :=
  mailCommand 0x0D false (fun c s =>
    let p := (c.word 1).toNat
    s.settle c [(decide (tierPages ≤ p), statBad)] fun s =>
      if !s.poison.contains p then s
      else
        let s := s.settleWrites .tier
        let out (a n : Nat) : Bool := a / n != p
        { s with
          tier := s.tier.filter fun b => out b.1 65536, tierKeys := s.tierKeys.filter fun l => out l.1 1024
          poison := s.poison.filter (· != p), soft := s.soft.filter fun l => out l.1 1024, hard := s.hard.filter fun l => out l.1 1024 }) k s

/-! ## Configuration (R252, R254, R255) -/

/-- A BANDTH that R245 rejects. -/
def bandthBad (v : Word) : Bool :=
  !(decide (wbits v 0 16 < wbits v 16 16) && decide (wbits v 16 16 < wbits v 32 16)) ||
  decide (0x05F0 < wbits v 0 16) || decide (0x08C0 < wbits v 16 16) || decide (0x0C80 < wbits v 32 16) ||
  decide (0x20 < wbits v 48 8) || wbits v 56 8 != 0

/-- The locked configuration registers by number (log entry 42), each with its value's check and its write. -/
def LockedCfg.put (c : LockedCfg) (n : Nat) (v : Word) : Option LockedCfg :=
  match n with
  | 0 => if bandthBad v then none else some { c with bandth := v }
  | 1 => some { c with timing := (v, c.timing.2) }
  | 2 => some { c with timing := (c.timing.1, v) }
  | 3 => if wbits v 28 36 ≠ 0 then none else some { c with moduleId := v.setWidth 12, ports := v.extractLsb' 12 16 }
  | 4 => some { c with hostPort := v }
  | 5 => if v.toNat < 500 ∨ 2000 < v.toNat then none else some { c with power := v.toNat }
  | _ => none

/-- CONFIGURATION_WRITE (R254). -/
def execConfigurationWrite (k : Nat) (s : State) : Result :=
  mailCommand 0x0E false (fun c s =>
    if s.mstate ≠ .configOpen then (s.send (.logCfg (c.word 1))).reply c statLocked
    else match s.cfg.put (c.word 1).toNat (c.word 2) with
      | none => s.reply c statBad
      | some g => { s with cfg := g }.reply c statOk) k s

/-- LOCK (R252). -/
def execLock (k : Nat) (s : State) : Result :=
  mailCommand 0x0F false (fun c s =>
    if s.mstate = .configOpen then { s.moveTo .configLocked 0#8 with since := some s.time }.reply c statOk else s.reply c statBusy) k s

/-- DRAIN (R252): outstanding until the module parks; one given in PARK holds it there until a shutdown (log entry 40). -/
def execDrain (k : Nat) (s : State) : Result :=
  mailCommand 0x10 false (fun c s =>
    match s.mstate with
    | .run => ({ s.enterDrain 0#8 with drainCmd := true }).defer c
    | .retreat => ({ s.enterDrain 0#8 with drainCmd := true }).defer c
    | .drain => { s with drainCmd := true }.defer c
    | .park => { s with drainCmd := true }.defer c
    | _ => s.reply c statBusy) k s

/-- SHUTDOWN (R252). -/
def execShutdown (k : Nat) (s : State) : Result :=
  mailCommand 0x11 false (fun c s =>
    if s.mstate = .configOpen ∨ s.mstate = .configLocked ∨ s.mstate = .park then (s.enterWarm 0#8).reply c statOk
    else s.reply c statBusy) k s

/-! ## Token rings (R261, R263) -/

/-- RING_SETUP (R261): TRING written, the timer stopped, Q reset to the tail. -/
def execRingSetup (k : Nat) (s : State) : Result :=
  mailCommand 0x12 true (fun c s =>
    let n := (c.word 1).toNat
    let h := c.word 2
    let w1 := c.word 3
    let tail := (s.cellAt h).w0
    s.settle c
      [(decide (3 < n) || wbits w1 35 28 != 0 || wbits w1 0 8 == 0 || wbits w1 8 16 == 0 || decide (2031 < wbits w1 24 11), statBad),
       (!s.cellOk h || (s.cellAt h).kind != .plain, statBad),
       ((s.cellAt h).ctx != c.ctx, statDenied)]
      fun s => s.modCtx c.ctx fun y =>
        { y with tring := y.tring.setIfInBounds n { w0 := h, w1 := w1, q := tail, timer := none, seen := tail } }) k s

/-- UNKNOWN_COMMAND (R259). -/
def execUnknownCommand (k : Nat) (s : State) : Result :=
  match s.command k with
  | none => .next s
  | some c => if 1 ≤ c.code ∧ c.code ≤ 0x12 then .next s else .next (s.reply c statBad)

/-- Ring n of a context. -/
def Ctx.ring (c : Ctx) (n : Nat) : Tring := c.tring[n]?.getD Tring.reset
/-- The host port a context's ring vectors belong to (log entry 43). -/
def ringPort (x : Nat) : Nat := x / 8
/-- `s` with ring n of a context changed. -/
def State.modRing (s : State) (x n : Nat) (r : Tring) : State := s.modCtx x fun c => { c with tring := c.tring.setIfInBounds n r }

/-- TAIL_UPDATE (R263). -/
def execTailUpdate (x n : Nat) (s : State) : Result :=
  let r := (s.ctx x).ring n
  let t := (s.cellAt r.w0).w0
  if !r.w1.getLsbD 63 || !s.cellOk r.w0 || t == r.seen then .next s
  else if wbits r.w1 0 8 ≤ (t - r.q).toNat then
    .next ((s.modRing x n { r with seen := t, q := t, timer := none }).sendMsix (ringPort x) (wbits r.w1 24 11))
  else
    .next (s.modRing x n { r with seen := t, timer := some (r.timer.getD (s.time + wbits r.w1 8 16 * microsecond)) })

/-- Has a ring's timer expired? -/
def Tring.expired (r : Tring) (time : Nat) : Bool := r.timer.any fun t => decide (t ≤ time)

/-- COALESCING_TIMER (R263). -/
def execCoalescingTimer (x n : Nat) (s : State) : Result :=
  let r := (s.ctx x).ring n
  if !r.expired s.time then .next s
  else
    let tail := if s.cellOk r.w0 then (s.cellAt r.w0).w0 else r.q
    if r.q.toNat < tail.toNat then
      .next ((s.modRing x n { r with timer := none, q := tail }).sendMsix (ringPort x) (wbits r.w1 24 11))
    else .next (s.modRing x n { r with timer := none })

/-! ## The host queue (R151, R257, R258) -/

/-- The number of the key of the HDM range, held by the reeve (R257); no context has it. -/
def hdmKey : Nat := 0

/-- Does an access lie within the HDM range (R257)? -/
def State.inHdmRange (s : State) (pa n : Nat) : Bool :=
  n != 0 && decide (s.cfg.hdm.1 ≤ pa) && decide (pa + n ≤ s.cfg.hdm.1 + s.cfg.hdm.2)

/-- The mailbox command of a core is performed (R259). -/
def State.performCommand (s : State) (k : Nat) : Result :=
  match (s.command k).map (·.code) with
  | some 0x01 => execFibreSetup k s
  | some 0x02 => execFibreTeardown k s
  | some 0x03 => execPagePool k s
  | some 0x04 => execRecordWrite k s
  | some 0x05 => execGpWrite k s
  | some 0x06 => execGo k s
  | some 0x07 => execInvalidateByPage k s
  | some 0x08 => execInvalidateByTenant k s
  | some 0x09 => execPreEmpt k s
  | some 0x0A => execResume k s
  | some 0x0B => execTeardown k s
  | some 0x0C => execCompactionResume k s
  | some 0x0D => execPoisonClear k s
  | some 0x0E => execConfigurationWrite k s
  | some 0x0F => execLock k s
  | some 0x10 => execDrain k s
  | some 0x11 => execShutdown k s
  | some 0x12 => execRingSetup k s
  | _ => execUnknownCommand k s

/-- HOST_REQUEST_PERFORM (R151): the head of a service core's queue, at system level. -/
def execHostRequestPerform (k : Nat) (s : State) : Result :=
  match (s.core k).queue with
  | [] => .next s
  | q :: rest =>
    let s := s.modCore k fun c => { c with queue := rest }
    match q with
    | .mail slot stream =>
      (s.modCore k fun c => { c with cur := some (slot, stream), open_ := c.open_ ++ [slot] }).performCommand k
    | .read pa n =>
      if !s.inHdmRange pa n then .next (s.send (.cxlFailed k))
      else match s.touchLines false pa n with
        | (s, false) => .next (s.send (.cxlFailed k))
        | (s, true) => .next (s.send (.cxlData k (bytesOfNum (s.farRead .sys .tier (some hdmKey) pa n) n)))
    | .write pa bs =>
      if !s.inHdmRange pa bs.length then .next (s.send (.cxlFailed k))
      else match s.touchLines true pa bs.length with
        | (s, false) => .next (s.send (.cxlFailed k))
        | (s, true) => .next ((s.sysPut .tier hdmKey pa bs).send (.cxlDone k))

/-- A go write arrives at a mailbox (R258): ignored while go is still 1. -/
def State.goWrite (s : State) (k slot : Nat) (words : Vector Word 8) (stream : Option Nat) : State :=
  if 16 ≤ k ∨ 8 ≤ slot ∨ (mailWord ((s.core k).box slot) 0).getLsbD 63 then s
  else
    let s := s.modCore k fun c => { c with mail := c.mail.setIfInBounds slot words }
    if (mailWord words 0).getLsbD 63 then s.modCore k fun c => { c with queue := c.queue ++ [.mail slot stream] } else s

/-- A CXL.mem request goes to the core of its page (R257). -/
def State.cxlRequest (s : State) (r : HostReq) (pa : Nat) : State :=
  s.modCore (pa / 65536 % 16) fun c => { c with queue := c.queue ++ [r] }

/-! ## The watchdog (R260) -/

/-- Is a drain command outstanding at a service core, other than slot `slot` of core k? -/
def State.drainsElse (s : State) (k slot : Nat) : Bool := (List.range 16).any fun j =>
  (s.core j).open_.any fun i => !(j == k && i == slot) && wbits (mailWord ((s.core j).box i) 0) 0 8 == 0x10

/-- A drain command is no longer outstanding, so the module leaves PARK again; from DRAIN the only way that R252 has leads there first (log
entry 35). -/
def State.undoDrain (s : State) (k slot : Nat) : State :=
  if s.drainsElse k slot then s else { s with drainCmd := false }

/-- Is it the pre-emption of a teardown (R232)? -/
def PreState.tearsDown : PreState → Bool
  | .asked td => td
  | .running td _ => td.isSome
  | .dying _ _ _ _ => true
  | _ => false

/-- Continuations of a context that a cut or a deferred stop holds become READY again. -/
def State.unhold (s : State) (x : Nat) : State :=
  let mine (c : ContRec) : Bool := c.state != 0 && s.contCtx c == some x
  { s with
    dies := s.dies.map fun (y : Die) =>
      { y with conts := y.conts.map fun (c : Nat × ContRec) => if mine c.2 then (c.1, { c.2 with held := false }) else c } }

/-- What steps 2 and 3 of a teardown have cleared is put back (R260). -/
def State.undoDeath (s : State) (x inval key : Nat) (entries : List (Nat × Nat × KeyEntry)) (windows : List (Nat × Word × Word)) : State :=
  let s := { s with invals := mdel s.invals inval }
  let s := (s.tilesOf x).foldl (fun s k => s.modTile k fun t => { t with keyOk := true, key := key }) s
  let s := entries.foldl (fun s e => s.modCtrl e.1 fun c => { c with keys := c.keys.setIfInBounds e.2.1 e.2.2 }) s
  let s := windows.foldl (fun s e => s.writeWindow e.1 e.2.1 e.2.2) s
  s.modCtx x fun y => { y with key := key }

/-- The bookings that a pre-emption has taken back stand again, where their furrows are still to come and still free (R260), unless the module
has left RUN and RETREAT (R252). -/
def State.rebook (s : State) (x : Nat) : State :=
  let s := (s.ctx x).unbooked.foldl (fun s b =>
    let t := s.task b.die b.idx
    let ms := rect b.origin b.width b.height
    let chan := if t.mask.getLsbD 12 then s.freeChannel b.die b.idx ms b.start t.duration else none
    if (s.mstate = .run ∨ s.mstate = .retreat) ∧ t.state = 3 ∧ t.isOf x ∧ b.stop = b.start + t.duration ∧ s.fits b.die b.idx t ms b.start ∧ t.mask.getLsbD 12 = chan.isSome then
      { s.setTask b.die b.idx ((t.setState 4).setWord 5 (furrowWord b.start b.stop)) with
        bookings := s.bookings ++ [{ b with chan := chan, begun := false }] }
    else s) s
  s.modCtx x fun y => { y with unbooked := [] }

/-- What a command that has begun and not completed has brought about is undone (R260): an invalidation, a drain, a pre-emption or
teardown.  Bookings that it has taken back stand again where they can, and tasks that it has cut are READY again and go on as a cut task
does (R152, R222; log entry 35); a context whose spill had faulted before is as it was.  The teardown that a STOP_INTERFACE has made of a pre-emption goes on (R237). -/
def State.giveUp (s : State) (k slot : Nat) : State :=
  let s := { s with invals := s.invals.filter fun v => v.2.core != some (k, slot) }
  let cmd := wbits (mailWord ((s.core k).box slot) 0) 0 8
  let s := if cmd = 0x10 then s.undoDrain k slot else s
  (List.range 16).foldl (fun s x =>
    if (s.ctx x).preCore ≠ some (k, slot) then s
    else if cmd = 0x09 ∧ (s.ctx x).pre.tearsDown then s.modCtx x fun y => { y with preCore := none }
    else
      let back (s : State) : State :=
        if (s.ctx x).retry then s.modCtx x fun y => { y with pre := .spillFault }
        else if (s.ctx x).spill.isEmpty then (((s.reissueAll x id).unhold x).rebook x).modCtx x fun y => { y with pre := .none }
        else s.modCtx x fun y => { y with pre := .spilled }
      let s := match (s.ctx x).pre with
        | .asked _ => (s.unhold x).modCtx x fun y => { y with pre := .none }
        | .running _ _ => back s
        | .dying i key es ws => back (s.undoDeath x i key es ws)
        | _ => s
      s.modCtx x fun y => { y with preCore := none, retry := false }) s

/-- SERVICE_WATCHDOG (R260): the core is restarted, and every mailbox it had accepted and not completed completes CORE-RESET
without effect. -/
def execServiceWatchdog (k : Nat) (s : State) : Result :=
  let c := s.core k
  let queued := c.queue.filterMap fun q => match q with
    | .mail slot _ => some slot
    | _ => none
  let other := c.queue.filter fun q => match q with
    | .mail _ _ => false
    | _ => true
  let s := c.open_.foldl (fun s slot => s.giveUp k slot) s
  let s := s.modCore k fun y => { y with queue := [], cur := none }
  let s := (c.open_ ++ queued).foldl (fun s slot => s.mailDone k slot statReset) s
  .next (other.foldl (fun s _ => s.send (.cxlFailed k)) s)

/-- CXL_SNOOP (R257): the module keeps no host line. -/
def execCxlSnoop (port addr : Nat) (s : State) : Result := .next (s.send (.snoopInvalid port addr))

/-- ERRSTAT_READ (R269): the host's read returns the counts and clears them. -/
def execErrstatRead (k : Nat) (s : State) : Result := .next { (s.send (.errstat k s.errstat)) with errstat := 0#64 }

/-! ## Assignment (R66, R229, R230) -/

/-- The number of the second-tier key pair of a context's key id.  The numbers of the HDM range's key, of a spill's and of a lost
key are others. -/
def tierKeyOf (key id : Nat) : Nat := 4 * (16 * key + id) + 1
def Ctx.tierKey (c : Ctx) (id : Nat) : Nat := tierKeyOf c.key id

/-- The number of a key: one that the tenant's session supplies, or one drawn by the reeve (R230). -/
def keyNumber (tenant : Option Nat) (drawn : Nat) : Nat :=
  match tenant with
  | some k => 2 * k + 1
  | none => 2 * drawn

/-- The tiles of an assignment. -/
def assignTiles (a : Assignment) : List Nat := a.clusters.flatMap fun c => clusterTiles c.1 c.2

/-- The virtual number a tile has after an assignment: a tile of the context keeps its own (R66). -/
def State.vtileOf (s : State) (a : Assignment) (k : Nat) : Option (BitVec 10) :=
  if s.owns a.ctx k ∧ (s.ctx a.ctx).pre ≠ PreState.spilled then some (s.tile k).vtile else mget a.vtiles k

/-- Are the virtual numbers of an assignment given, and distinct within the context; after a spill, those of tiles that it was
spilled from on the same die (R66, R225)? -/
def State.vtilesOk (s : State) (a : Assignment) : Bool :=
  let ks := assignTiles a
  let vs := ks.filterMap (s.vtileOf a)
  let spilled := (s.ctx a.ctx).pre == PreState.spilled
  let rest := if spilled then [] else ((s.tilesOf a.ctx).filter fun k => !ks.contains k).map fun k => (s.tile k).vtile
  vs.length == ks.length && decide (vs ++ rest).Nodup &&
    (!spilled || ks.all fun k => (s.ctx a.ctx).spill.any fun l => some l.vtile == s.vtileOf a k && dieOf l.tile == dieOf k)

/-- May the reeve assign: every cluster exists and is free, or its own context's, or that of a context that has been spilled
(R224, R227), and the virtual tile numbers are as R66 has them? -/
def State.mayAssign (s : State) (a : Assignment) : Bool :=
  decide (a.ctx < 16) && a.clusters.all (fun c => decide (c.1 < 4) && decide (c.2 < 16)) &&
  ((assignTiles a).all fun k => match (s.tile k).owner with
    | none => true
    | some o => o.toNat == a.ctx || (s.ctx o.toNat).pre == PreState.spilled) && s.vtilesOk a

/-- A tile handed to a context: OWNER, key slot, FSCTX; where it was another's, or comes back to a context that has been spilled (`anew`), its
lease units are free and every row is NOTAG (R69, R227, R229). -/
def Tile.assign (t : Tile) (x key : Nat) (v : BitVec 10) (anew : Bool) : Tile :=
  let fresh := anew || t.owner != some (BitVec.ofNat 4 x)
  { t with owner := some (BitVec.ofNat 4 x), keyOk := true, key := key, fsctx := BitVec.ofNat 4 x, vtile := v
           field := if fresh then { t.field with lease := [], held := [], tags := [] } else t.field }

/-- Tiles that a spilled context does not come back to are no longer its own. -/
def State.leaveTiles (s : State) (a : Assignment) : State :=
  if (s.ctx a.ctx).pre = PreState.spilled then
    ((s.tilesOf a.ctx).filter fun k => !(assignTiles a).contains k).foldl (fun s k => s.modTile k fun t => { t with owner := none, keyOk := false }) s
  else s

/-- The bits of registers that are not reserved, which read as zero (R8): XLROOT (R25), ROTBASE (R229), PRECTL (R223), RKTAB (R234),
QPRI (R162). -/
def maskXlroot (v : Word) : Word := v &&& 0x0000FFFFFFFF0001#64
def maskRotbase (v : Word) : Word := v &&& 0x007FFFFFFFFFFF00#64
def maskPrectl (v : Word) : Word := v &&& 0x00000FFFFFFF0FFF#64
def maskRktab (v : Word) : Word := v &&& 0x007FFFFFFFFF0000#64
def maskQpri (v : Word) : Word := v &&& 0x0000FFFFFFFFFFFF#64

/-- CONTEXT_ASSIGN (R229): OWNER, key slots and FSCTX, the registers, the key-table and window entries, in this order; then booking
for the context is open, once the writes of window entries are complete (R236). -/
def execContextAssign (a : Assignment) (s : State) : Result :=
  if !s.mayAssign a then .next s
  else
    let new := !(s.ctx a.ctx).live
    let key := if new then keyNumber a.tenantKey s.reeve.nextKey else (s.ctx a.ctx).key
    let vs := (assignTiles a).map fun k => (k, (s.vtileOf a k).getD 0#10)
    let anew := (s.ctx a.ctx).pre == PreState.spilled
    let s := { s.leaveTiles a with reeve := { s.reeve with nextKey := s.reeve.nextKey + 1 } }
    let s := vs.foldl (fun s k => s.modTile k.1 fun t => t.assign a.ctx key k.2 anew) s
    let s := s.modCtx a.ctx fun c =>
      { c with key := key, xlroot := maskXlroot a.xlroot, rotbase := maskRotbase a.rotbase, tbudget := a.tbudget
               prectl := maskPrectl a.prectl }
    let s := a.keyIds.foldl (fun s e => s.modCtrl e.1 fun y =>
      { y with keys := y.keys.setIfInBounds e.2 { valid := true, ctx := BitVec.ofNat 4 a.ctx, key := tierKeyOf key e.2 } }) s
    let s := a.windows.foldl (fun s w => s.writeWindow w.1 w.2.1 w.2.2) s
    .next (s.modCtx a.ctx fun c => { c with live := true, opening := (a.windows.map (·.1)).filter s.windowWrites.contains })

/-- FSCTX written by the reeve (R66); the virtual number of a tile that a context owns stays. -/
def State.putFsctx (s : State) (k : Nat) (v : Word) : State :=
  s.modTile k fun t =>
    { t with fsctx := v.setWidth 4, vtile := if t.owner.isSome then t.vtile else v.extractLsb' 4 10, keyOk := v.getLsbD 14
             key := if v.getLsbD 14 then (s.ctx (wbits v 0 4)).key else 0 }

/-- REGISTER_WRITE (R229): a write of a register that has no row of its own; the locked ones only in CONFIG_OPEN (R254, R257,
R265).  A beam set that is assigned anew has its slots cleared, and the references they held are not dropped (log entry 100). -/
def execRegisterWrite (w : RegWrite) (s : State) : Result :=
  let locked (f : LockedCfg → LockedCfg) (n : Nat) : Result :=
    if s.mstate = .configOpen then .next { s with cfg := f s.cfg } else .next (s.send (.logCfg (w64 n)))
  match w with
  | .xlroot x v => .next (s.modCtx x fun c => { c with xlroot := maskXlroot v })
  | .rotbase x v => .next (s.modCtx x fun c => { c with rotbase := maskRotbase v })
  | .tbudget x v => .next (s.modCtx x fun c => { c with tbudget := v })
  | .prectl x v => .next (s.modCtx x fun c => { c with prectl := maskPrectl v })
  | .rktab x v => .next (s.modCtx x fun c => { c with rktab := maskRktab v })
  | .qpri x v => .next (s.modCtx x fun c => { c with qpri := maskQpri v })
  | .kvrb x v => .next (if v == 0#64 || (hClass v == 1 && hReserved v == 0) then s.modCtx x fun c => { c with kvrb := v } else s)
  | .fsctx k v => .next (s.putFsctx k v)
  | .keyTable c id valid x =>
    let key := if (s.ctx x.toNat).live then (s.ctx x.toNat).key else keyNumber none s.reeve.nextKey
    let e : KeyEntry := if valid then { valid := true, ctx := x, key := tierKeyOf key id } else KeyEntry.reset
    .next ({ s with reeve := { s.reeve with nextKey := s.reeve.nextKey + 1 } }.modCtrl c fun y => { y with keys := y.keys.setIfInBounds id e })
  | .beamSet d n x =>
    let b : BeamSet := { ctx := x.toNat, slots := Vector.replicate 64 0#64 }
    .next ((s.renew d 7 n).modDie d fun y => { y with beams := mput y.beams n b })
  | .lroute m ports => locked (fun c => { c with lroute := mput c.lroute m ports }) 6
  | .hdm base size => locked (fun c => { c with hdm := (base, min size (64 * 2 ^ 30)) }) 7
  | .hostPrivate page priv => .next { s with hostPriv := if priv then ins s.hostPriv page else s.hostPriv.filter (· != page) }

end Sys2Proof.Machine
end

