-- ==== Sys2Proof/Machine/Security.lean ====
section
/-!
DEFINITION. Sys2Proof/Machine/Security.lean: firmware and power-on (R242, R252), attestation (R243), debug sessions (R239–R241) and the
TDISP requests (R237).
-/
namespace Sys2Proof.Machine

/-! ## Firmware and power-on (R242, R252) -/

/-- Does the boot ROM accept an image (R242)? -/
def Reeve.accepts (r : Reeve) (i : Image) : Bool := i.signed && i.whole && decide (r.fusedMin ≤ i.version)

/-- The boot ROM's verification at power-on: an update takes effect first. -/
def Reeve.boot (r : Reeve) : Reeve :=
  let image := match r.update with
    | some i => some i
    | none => r.image
  { r with image := image, update := none, tried := true, bootOk := image.any r.accepts }

/-- BOOT_VERIFY (R242). -/
def execBootVerify (s : State) : Result := if s.mstate = .off then .next { s with reeve := s.reeve.boot } else .next s

/-- HOST_IMAGE_LOAD (R242): an image that the host supplies after verification has failed is verified in the same way. -/
def execHostImageLoad (i : Image) (s : State) : Result :=
  if s.mstate = .off ∧ s.reeve.tried ∧ !s.reeve.bootOk ∧ s.reeve.accepts i then .next { s with reeve := { s.reeve with image := some i, bootOk := true } }
  else .next s

/-- FIRMWARE_UPDATE (R242): it takes effect at the next power-on; one that was interrupted then fails its verification. -/
def execFirmwareUpdate (i : Image) (s : State) : Result := .next { s with reeve := { s.reeve with update := some i } }

/-- POWER_ON (R242, R252): OFF to CHILL with a coolant flow of at least 7 g/s and firmware that verifies; an update takes effect
here. -/
def execPowerOn (s : State) : Result :=
  if s.mstate ≠ .off ∨ s.flow < 700 then .next s
  else
    let s := if s.reeve.bootOk && s.reeve.update.isNone then s else { s with reeve := s.reeve.boot }
    if s.reeve.bootOk then .next (s.moveTo .chill 0#8) else .next s

/-! ## Attestation (R243) -/

/-- Does a context hold a cluster (R227)? -/
def State.holdsCluster (s : State) (x d c : Nat) : Bool := (clusterTiles d c).all (s.owns x)

/-- The clusters of a context: die and cluster. -/
def State.clustersOf (s : State) (x : Nat) : List (Nat × Nat) :=
  (List.range 4).flatMap fun d => ((List.range 16).filter (s.holdsCluster x d)).map fun c => (d, c)

/-- The cluster mask of a context, bit 16·die + cluster (R243). -/
def State.clusterMask (s : State) (x : Nat) : Nat := (s.clustersOf x).foldl (fun m c => m ||| (1 <<< (16 * c.1 + c.2))) 0

/-- The reeve-written configuration of a context, as words (R229, R234). -/
def State.reeveConfig (s : State) (x : Nat) : List Word :=
  let c := s.ctx x
  [w64 (s.clusterMask x), c.xlroot, c.rotbase, c.tbudget, c.prectl, c.rktab]

/-- Bytes 0–111 of a report. -/
def State.reportHead (s : State) (x : Nat) (nonce : BitVec 256) : List Byte :=
  let i := s.reeve.image.getD { signed := false, version := 0, hash := 0#256, whole := false }
  bytesOfNum nonce.toNat 32 ++ bytesOfNum i.hash.toNat 32 ++ bytesOfNum i.version 4 ++
    bytesOfNum (Config.sha256 (s.reeveConfig x)).toNat 32 ++ bytesOfNum (s.clusterMask x) 8 ++ bytesOfNum s.reeve.q 4

/-- ATTESTATION_REQUEST (R243): the index is stored as used before the signature leaves; with none left the answer is
KEYS-SPENT. -/
def execAttestationRequest (x : Nat) (nonce : BitVec 256) (s : State) : Result :=
  if lmsKeys ≤ s.reeve.q then .next (s.send (.keysSpent x))
  else
    let head := s.reportHead x nonce
    let sig := Config.lmsSignature s.reeve.q (numOfBytes head)
    .next ({ s with reeve := { s.reeve with q := s.reeve.q + 1 } }.send (.report (head ++ sig)))

/-! ## Debug (R239–R241) -/

/-- SPDM_SESSION_OPEN (R239). -/
def execSpdmSessionOpen (x : Nat) (s : State) : Result :=
  if (s.ctx x).live then .next (s.modCtx x fun c => { c with session := true }) else .next s

/-- Does a fibre of the context have its trap save over [a, a + 8) of a tile (R172, R241)? -/
def State.inSave (s : State) (x a : Nat) : Bool :=
  s.dies.toList.any fun y => y.fibres.any fun f =>
    wbits (f.2.word 0) 60 4 == 1 && wbits (f.2.word 0) 56 4 == x && decide (f.2.saveAt ≤ a) && decide (a + 8 ≤ f.2.saveAt + 8192)

/-- Is a handle one of a continuation of the context? -/
def State.contOf (s : State) (x : Nat) (h : Word) : Bool := s.contOk h && s.contCtx (s.cont (hDie h) (hIndex h)) == some x
/-- Is a handle one of a task record of the context? -/
def State.taskOf (s : State) (x : Nat) (h : Word) : Bool := s.taskOk h && (s.taskAt h).ctx == x

/-- Is a handle one of a frame of the context? -/
def State.frameOf (s : State) (x : Nat) (h : Word) : Bool := (s.frameTrip x h).isNone
/-- Is a fibre record the context's? -/
def State.fibreIn (s : State) (x : Nat) (f : BitVec 16) : Bool :=
  wbits ((s.fibre f).word 0) 60 4 == 1 && wbits ((s.fibre f).word 0) 56 4 == x
/-- Is a handle one of a Granary cell of the context? -/
def State.cellOf (s : State) (x : Nat) (h : Word) : Bool := s.cellOk h && (s.cellAt h).ctx == x

/-- Single-stepping counts the instructions from here on (R241). -/
def State.clearIssued (s : State) (x : Nat) : State :=
  (s.runs.filter fun r => r.2.ctx == x).foldl (fun s r => r.2.members.foldl (fun s k =>
    s.modTile k fun t => { t with a := { t.a with issued := false }, e := { t.e with issued := false } }) s) s

/-! What a patch may put into a word of a record (R241): reserved bits stay zero (R8), a record's context and its slot's generation stay, and
what the spec says is never written, or is reserved, is refused (log entry 44). -/

/-- A word patched: the bits of `all` are not reserved, those of `keep` stay. -/
def patchWord (all keep old v : Word) : Word := (v &&& all &&& ~~~keep) ||| (old &&& keep)

/-- A word of a task record (R174). -/
def TaskRec.debugged (t : TaskRec) (i : Nat) (v : Word) : Option TaskRec :=
  let all : Word := match i with
    | 1 => 0xFFFFFFFF000FFFFF#64
    | 2 => 0x007FFFFFFFFFFFFF#64
    | 3 => 0x007FFFFFFFFFFFFF#64
    | 4 => 0x3FFFFFFFFFFFFFFF#64
    | _ => 0xFFFFFFFFFFFFFFFF#64
  if 16 ≤ i ∨ (i = 0 ∧ 8 ≤ wbits v 60 4) then none
  else some (t.setWord i (patchWord all (if i = 1 then 0xF0000#64 else 0#64) (t.word i) v))

/-- A word of a continuation record (R183). -/
def ContRec.debugged (c : ContRec) (i : Nat) (v : Word) : Option ContRec :=
  if 24 ≤ i ∨ (i = 0 ∧ (4 < wbits v 60 4 ∨ 6 < wbits v 56 4)) then none
  else some (c.setWord i (patchWord (if i = 0 then 0xFFFFFFE0FFFFFFFF#64 else 0xFFFFFFFFFFFFFFFF#64) 0#64 (c.word i) v))

/-- A word of a frame descriptor (R193). -/
def Frame.debugged (f : Frame) (i : Nat) (v : Word) : Option Frame :=
  let all : Word := match i with
    | 1 => 0x007FFFFFFFFFFFFF#64
    | 2 => 0x003FFFFFFFFFFFFF#64
    | 3 => 0x1FFFFFFFFFFFFFFF#64
    | 6 => 0x007FFFFFFFFF0000#64
    | 7 => 0x007FFFFFFFFF0000#64
    | _ => 0xFFFFFFFFFFFFFFFF#64
  if 8 ≤ i ∨ (i = 0 ∧ 5 < wbits v 60 4) then none
  else some (f.setWord i (patchWord all (if i = 0 then 0x00FFFFF000000000#64 else 0#64) (f.word i) v))

/-- A word of a fibre record (R172). -/
def Fibre.debugged (f : Fibre) (i : Nat) (v : Word) : Option Fibre :=
  let all : Word := match i with
    | 0 => 0xFFFFF00000000000#64
    | 6 => 0x3FFFFF#64
    | 7 => 0#64
    | _ => 0xFFFFFFFFFFFFFFFF#64
  if 8 ≤ i ∨ (i = 0 ∧ 1 < wbits v 60 4) then none
  else some (f.setWord i (patchWord all (if i = 0 then 0x0F00000000000000#64 else 0#64) (f.word i) v))

/-- A word of a Granary cell (R185, R186, R188). -/
def Cell.debugged (c : Cell) (i : Nat) (v : Word) : Option Cell :=
  match i with
  | 0 => some { c with w0 := v }
  | 1 => (match c.kind with
    | .future => if wbits v 0 2 = 3 then none else some { c with w1 := v &&& 3#64 }
    | .header => some { c with w1 := v &&& 0x80000007FFFFFFFF#64 }
    | _ => some { c with w1 := v })
  | _ => none

/-- What a command of an open session answers and changes, none where it does not concern the session's context (R239, R241).  A patch
answers the value given; one of a counter's word0 wakes no waiter (log entry 113). -/
def State.debug (s : State) (x : Nat) : DebugCmd → Option (Word × State)
  | .readField k a n =>
    if s.owns x k ∧ n ≤ 8 ∧ a + n ≤ fieldTop then some (w64 ((s.tile k).fieldRead false s.cycle a n), s) else none
  | .patchField k a v =>
    if s.owns x k ∧ s.inSave x a ∧ a + 8 ≤ fieldTop then some (v, s.modTile k fun t => (t.sbFlush s.cycle).bankWrite a 8 v.toNat) else none
  | .readTask h i => if s.taskOf x h ∧ i < 16 then some ((s.taskAt h).word i, s) else none
  | .patchTask h i v =>
    if s.taskOf x h then ((s.taskAt h).debugged i v).map fun t => (v, s.putTaskAt h t) else none
  | .readCont h i => if s.contOf x h ∧ i < 24 then some ((s.cont (hDie h) (hIndex h)).word i, s) else none
  | .patchCont h i v =>
    if s.contOf x h ∧ (i = 1 → s.taskOf x v) then
      ((s.cont (hDie h) (hIndex h)).debugged i v).map fun c => (v, s.setCont (hDie h) (hIndex h) c)
    else none
  | .readFrame h i => if s.frameOf x h ∧ i < 8 then some ((s.frameAt h).word i, s) else none
  | .patchFrame h i v =>
    if s.frameOf x h then ((s.frameAt h).debugged i v).map fun f => (v, s.putFrameAt h f) else none
  | .readFibre f i => if s.fibreIn x f ∧ i < 8 then some ((s.fibre f).word i, s) else none
  | .patchFibre f i v => if s.fibreIn x f then ((s.fibre f).debugged i v).map fun y => (v, s.setFibre f y) else none
  | .readCell h i => if s.cellOf x h ∧ i < 2 then some (if i = 0 then (s.cellAt h).w0 else (s.cellAt h).w1, s) else none
  | .patchCell h i v =>
    if s.cellOf x h then ((s.cellAt h).debugged i v).map fun c => (v, (s.putCellAt h c).observeTails) else none
  | .breakpoint n v =>
    if n < 4 then some (v, s.modCtx x fun c => { c with dbgbp := c.dbgbp.setIfInBounds n (w64 (wbits v 1 54 * 2)) }) else none
  | .control v => some (v, (s.modCtx x fun c => { c with dbgctl := w64 (wbits v 0 23) }).clearIssued x)

/-- DEBUG_COMMAND (R239, R241): without a session it is refused. -/
def execDebugCommand (x : Nat) (c : DebugCmd) (s : State) : Result :=
  if !(s.ctx x).session then .next (s.send (.noSession x))
  else match s.debug x c with
    | none => .next (s.send (.noSession x))
    | some (v, s) => .next (s.send (.debugData x v))

/-- The save image at a field address of the tile where the continuation stopped (R218); none where it may not be read. -/
def State.savedImage (s : State) (c : ContRec) (save : Word) : Option (List Byte) :=
  let k := wbits (c.word 0) 37 10
  let a := wbits save 0 22
  let t := s.tile k
  if save.toNat % 8192 ≠ 0 ∨ 2 ^ 22 ≤ save.toNat ∨ !t.inLease (s.taskAt (c.word 1)).fibre a 8192 then none
  else some (bytesOfNum (t.fieldRead false s.cycle a saveImageBytes) saveImageBytes)

/-- DEBUG_RESUME (R218, R241). -/
def execDebugResume (x : Nat) (h save : Word) (s : State) : Result :=
  let c := s.cont (hDie h) (hIndex h)
  if !(s.ctx x).session || !s.contOf x h || c.state != 3 then .next (s.send (.noSession x))
  else if save = 0#64 then .next (s.resumeCont h)
  else match s.savedImage c save with
    | none => .next (s.send (.noSession x))
    | some img =>
      if imageBad img then .next (s.send (.noSession x))
      else .next ((s.modCont (hDie h) (hIndex h) (·.reload img)).resumeCont h)

/-! ## TDISP (R237) -/

/-- LOCK_INTERFACE. -/
def execLockInterface (x : Nat) (s : State) : Result :=
  if (s.ctx x).tdisp = .unlocked then .next (s.modCtx x fun c => { c with tdisp := .locked }) else .next s

/-- GET_DEVICE_INTERFACE_REPORT. -/
def execGetDeviceInterfaceReport (x : Nat) (s : State) : Result := .next (s.send (.tdispReport x (s.clustersOf x)))

/-- START_INTERFACE. -/
def execStartInterface (x : Nat) (s : State) : Result :=
  if (s.ctx x).tdisp = .locked then .next (s.modCtx x fun c => { c with tdisp := .run }) else .next s

/-- STOP_INTERFACE: the context is torn down (R232); a pre-emption under way becomes the teardown's, which takes effect at the next boundary
and has a deadline of one furrow from there. -/
def execStopInterface (x : Nat) (s : State) : Result :=
  let s := s.modCtx x fun c => { c with tdisp := .unlocked }
  match (s.ctx x).pre with
  | .asked _ => .next (s.modCtx x fun c => { c with pre := .asked true })
  | .running none since => .next (s.modCtx x fun c => { c with pre := .running (some (s.furrow + 1)) since })
  | _ => if (s.ctx x).live then .next (s.askTeardown x none) else .next s

end Sys2Proof.Machine
end

