-- ==== Sys2Proof/Machine/Select.lean ====
section
/-!
DEFINITION. Sys2Proof/Machine/Select.lean: the select unit (R126–R130, R352, R353): keys, histograms, top lists and samples.
-/
namespace Sys2Proof.Machine

/-- The key of an FP16 value (R126). -/
def fpKey (x : Nat) : Nat :=
  if isNan fp16 x then 0
  else if isZero fp16 x || !fneg fp16 x then (x % 32768) ||| 0x8000
  else 65535 - x

def execVfkey (m : Bool) (d a : BitVec 4) (s : State) : Result :=
  vecUnary m formD2 2 d a (fun _ x => (fpKey (x % 65536), 0#5)) s

/-- Lanes whose key agrees with the prefix above digit `g` and whose digit is `b` (R127). -/
def histCount (keys : Vec) (g pre b : Nat) : Nat :=
  ((List.range 64).filter fun i =>
    let k := laneN keys i % 65536
    k >>> (4 * g + 4) == pre >>> (4 * g + 4) && bits k (4 * g) 4 == b).length

/-- VHIST (R127): s[b] gives digit and prefix. -/
def execVhist (m : Bool) (d a : BitVec 4) (s : State) : Result :=
  issueIf (fun p => decide (28 ≤ dNum p d)) m formD3.page1.eOnly false
    (fun e => tV (dNum e.pl d) ++ tV (aNum e.pl a) ++ [tS (bNum e.pl)])
    (fun e =>
      let b := e.r.sget (bNum e.pl)
      if wbits b 2 14 != 0 || wbits b 32 32 != 0 then .trap (trip codeIllegal) e.now
      else match e.t.vread e.now [aNum e.pl a] with
        | none => .wait
        | some (vs, t) =>
          let old := e.t.vget (dNum e.pl d)
          let y := ofLanes fun i =>
            if i < 16 then lane old i + BitVec.ofNat 32 (histCount (vecArg vs 0) (wbits b 0 2) (wbits b 16 16) i) else lane old i
          .done (e.s.setTile e.k (e.vresult t (dNum e.pl d) 4 y 0#5)) none 1 none) s

/-- Does entry x = (key, index) come before y (R128): key descending, then index ascending? -/
def topBefore (x y : Nat × Nat) : Bool := decide (y.1 < x.1) || (x.1 == y.1 && decide (x.2 ≤ y.2))

/-- Insertion into a list in the order of R128, after equal entries. -/
def topInsert (x : Nat × Nat) : List (Nat × Nat) → List (Nat × Nat)
  | [] => [x]
  | y :: r => if topBefore y x then y :: topInsert x r else x :: y :: r

/-- The entries of two vectors of keys and indices. -/
def topEntries (k i : Vec) : List (Nat × Nat) := (List.range 64).map fun n => (laneN k n % 65536, laneN i n)

/-- VTOPK (R128): v[d] and v[d + 1] hold the list. -/
def execVtopk (m : Bool) (d a : BitVec 4) (s : State) : Result :=
  issueIf (fun p => decide (27 ≤ dNum p d)) m formD3.page1.eOnly false
    (fun e => tV (dNum e.pl d) ++ tV (dNum e.pl d + 1) ++ tV (aNum e.pl a) ++ tV (bNum e.pl))
    (fun e =>
      match e.t.vread e.now [aNum e.pl a, bNum e.pl] with
      | none => .wait
      | some (vs, t) =>
        let d := dNum e.pl d
        let all := topEntries (e.t.vget d) (e.t.vget (d + 1)) ++ topEntries (vecArg vs 0) (vecArg vs 1)
        let top := all.foldl (fun l x => topInsert x l) []
        let ks := ofLanes fun i => BitVec.ofNat 32 (top[i]?.getD (0, 0)).1
        let is := ofLanes fun i => BitVec.ofNat 32 (top[i]?.getD (0, 0)).2
        .done (e.s.setTile e.k (e.vresult (e.vresult t d 8 ks 0#5) (d + 1) 8 is 0#5)) none 1 none) s

/-! ## VSAMP (R129, R130, R353) -/

/-- One round of Philox-4x32 (R353). -/
def philoxRound (c : Nat × Nat × Nat × Nat) (k0 k1 : Nat) : Nat × Nat × Nat × Nat :=
  let p0 := 0xD2511F53 * c.1
  let p1 := 0xCD9E8D57 * c.2.2.1
  ((p1 >>> 32) ^^^ c.2.1 ^^^ k0, p1 % 2 ^ 32, (p0 >>> 32) ^^^ c.2.2.2 ^^^ k1, p0 % 2 ^ 32)

/-- `n` rounds, each with its key. -/
def philoxRounds : (n : Nat) → Nat × Nat × Nat × Nat → Nat → Nat → Nat × Nat × Nat × Nat
  | 0, c, _, _ => c
  | n + 1, c, k0, k1 => philoxRounds n (philoxRound c k0 k1) ((k0 + 0x9E3779B9) % 2 ^ 32) ((k1 + 0xBB67AE85) % 2 ^ 32)

/-- Word 0 of Philox-4x32-10 (R353). -/
def philox (seed : Word) (ctr : BitVec 128) : Nat :=
  (philoxRounds 10 (bits ctr.toNat 0 32, bits ctr.toNat 32 32, bits ctr.toNat 64 32, bits ctr.toNat 96 32)
    (wbits seed 0 32) (wbits seed 32 32)).1

/-- The weight of a finite candidate with its flags (R130). -/
def sampWeight (t : Nat) (mx x : Nat) : Nat × FFlags :=
  if t = infBits fp32 false then (0x3F800000, 0#5)
  else
    let a := fSub fp32 0 false x mx
    let b := fMul fp32 0 false a.1 0x3FB8AA3B
    let c := fDiv fp32 0 false b.1 t
    let w := exp2 false c.1
    (w.1, a.2 ||| b.2 ||| c.2 ||| w.2)

/-- The cumulative sums of the weights, in lane order, with flags (R130). -/
def cumulate (ws : List Nat) : List Nat × FFlags :=
  let z := ws.foldl (fun (acc : List Nat × Nat × FFlags) w =>
    let y := fAdd fp32 0 false acc.2.1 w
    (acc.1 ++ [y.1], y.1, acc.2.2 ||| y.2)) ([], 0, 0#5)
  (z.1, z.2.2)

/-- The first lane that satisfies a test; the sentinel 0xFFFF_FFFF where none does. -/
def firstLane (f : Nat → Bool) : Nat := ((List.range 64).find? f).getD 0xFFFFFFFF

/-- The lane VSAMP chooses (R130), with its flags. -/
def sample (x : Vec) (t u : Nat) : Nat × FFlags :=
  let xs := (List.range 64).map (laneN x)
  let nanFl := if xs.any (isNan fp32) then fInvalid else 0#5
  let fin := xs.filter (isFin fp32)
  let mx := fin.foldl (fun m y => if fKey fp32 m < fKey fp32 y then y else m) (fin.headD 0)
  let at_ (i : Nat) : Nat := xs[i]?.getD 0
  if isNan fp32 t || (fneg fp32 t && !isZero fp32 t && !isSub fp32 t) then (0xFFFFFFFF, nanFl ||| fInvalid)
  else if fin.isEmpty then (0xFFFFFFFF, nanFl)
  else if isZero fp32 t || isSub fp32 t then (firstLane fun i => isFin fp32 (at_ i) && fEqual fp32 (at_ i) mx, nanFl)
  else
    let ws := xs.map fun y => if isFin fp32 y then sampWeight t mx y else (0, 0#5)
    let cum := cumulate (ws.map (·.1))
    let a := roundTo fp32 0 false false u (-32) false
    let thr := fMul fp32 0 false a.1 (cum.1[63]?.getD 0)
    (firstLane fun i => decide (0 < (ws[i]?.getD (0, 0#5)).1) && !fLess fp32 (cum.1[i]?.getD 0) thr.1,
      ws.foldl (fun f w => f ||| w.2) (nanFl ||| cum.2 ||| a.2 ||| thr.2))

/-- VSAMP (R129, R130): PXCTR advances in the issue cycle, whatever the case. -/
def execVsamp (m : Bool) (d a : BitVec 4) (s : State) : Result :=
  issue m formD3.page1.eOnly false (fun e => tS (dNum e.pl d) :: tS (bNum e.pl) :: tV (aNum e.pl a))
    (fun e =>
      match e.t.vread e.now [aNum e.pl a] with
      | none => .wait
      | some (vs, t) =>
        let y := sample (vecArg vs 0) (fpOf (e.r.sget (bNum e.pl))) (philox e.t.pxseed e.t.pxctr)
        let t := { t with pxctr := t.pxctr + 1#128 }
        .done (e.s.setTile e.k
          ((t.modRegs e.σ (·.post (e.now + 40) (.s (dNum e.pl d) (w64 y.1)) y.2)).checkResult (e.now + 40))) none 1 none) s

end Sys2Proof.Machine
end

