-- ==== Sys2Proof/Machine/System.lean ====
section
/-!
DEFINITION. Sys2Proof/Machine/System.lean: the system registers (R367, R368, R286) that SYSRD reads and SYSWR writes.
-/
namespace Sys2Proof.Machine

/-! ## Register words -/

/-- FSCTX (R66). -/
def Tile.fsctxWord (t : Tile) : Word := w64 (t.fsctx.toNat + t.vtile.toNat * 2 ^ 4 + b2n t.keyOk * 2 ^ 14)

/-- OWNER (R227). -/
def Tile.ownerWord (t : Tile) : Word :=
  match t.owner with
  | some c => w64 (c.toNat + 16)
  | none => 0#64

/-- The state field of MSTATE (R251). -/
def MState.num : MState → Nat
  | .off => 0
  | .chill => 1
  | .soak => 2
  | .train => 3
  | .configOpen => 4
  | .configLocked => 5
  | .run => 6
  | .retreat => 7
  | .drain => 8
  | .park => 9
  | .warm => 10

/-- MSTATE (R251). -/
def State.mstateWord (s : State) : Word := w64 (s.mstate.num + s.cause.toNat * 2 ^ 8)

/-! ## The numbers (R368) -/

/-- Where a system register lives, and so when it is read and written (R367). -/
inductive SysScope where
  | strand
  | tile
  | die
  | wide
  deriving DecidableEq, Repr

/-- The scope of register `n`, none for a number absent from the table. -/
def sysScope (n : Nat) : Option SysScope :=
  if n ≤ 2 ∨ (0x10 ≤ n ∧ n ≤ 0x18) then some .strand
  else if n ≤ 8 ∨ n = 0x20 ∨ n = 0x21 then some .tile
  else if n = 0x22 ∨ n = 0x30 then some .die
  else if (0x23 ≤ n ∧ n ≤ 0x2F) ∨ (0x31 ≤ n ∧ n ≤ 0x35) then some .wide
  else none

/-- Is register `n` one that SYSWR may write, but for OWNER (R368)? -/
def sysWritable (n : Nat) : Bool :=
  n == 0 || n == 4 || n == 5 || n == 7 || n == 8 || (decide (0x10 ≤ n) && decide (n ≤ 0x18)) ||
  (decide (0x23 ≤ n) && decide (n ≤ 0x26))

/-- The number an instruction names. -/
def sysNum (p : BitVec 128) (i : BitVec 4) : Nat := immU p 4 i.toNat

/-- Does the table exclude the strand from reading register `n` (R368)? -/
def sysReadBarred (n : Nat) (σ : Side) : Bool := n == 4 && σ == .a
/-- Does the table exclude the strand from writing it? -/
def sysWriteBarred (n : Nat) (σ : Side) : Bool := (n == 4 || n == 7 || n == 8) && σ == .a

/-! ## SYSRD (R367) -/

/-- The value of register `n` for the issuing strand. -/
def Env.sysRead (e : Env) (n : Nat) : Word :=
  let c := e.s.ctx e.run.ctx
  let d := e.s.die (dieOf e.k)
  match n with
  | 0x00 => e.r.st.setWidth 64
  | 0x01 => e.pl.extractLsb' 0 64
  | 0x02 => e.pl.extractLsb' 64 64
  | 0x03 => w64 e.s.cycle
  | 0x04 => e.t.ascale
  | 0x05 => e.t.fplane
  | 0x06 => e.t.pxseed
  | 0x07 => e.t.pxctr.extractLsb' 0 64
  | 0x08 => e.t.pxctr.extractLsb' 64 64
  | 0x18 => e.r.live.setWidth 64
  | 0x20 => e.t.fsctxWord
  | 0x21 => e.t.ownerWord
  | 0x22 => d.almstat
  | 0x23 => c.qpri
  | 0x24 => c.gftab
  | 0x25 => c.bandfut
  | 0x26 => c.kvrb
  | 0x27 => c.tbudget
  | 0x30 => d.tempsense
  | 0x31 => e.s.bandReg
  | 0x32 => e.s.mstateWord
  | 0x33 => e.s.cfg.bandth
  | 0x34 => e.s.errstat
  | 0x35 => e.s.coolflow
  | n =>
    if n ≤ 0x17 then e.r.lget (n - 0x10)
    else
      let r := c.tring[(n - 0x28) / 2]?.getD Tring.reset
      if n % 2 = 0 then r.w0 else r.w1

/-- Latency of a SYSRD by the register's scope (R367). -/
def SysScope.latency : SysScope → Nat
  | .strand => 2
  | .tile => 2
  | .die => 8
  | .wide => 24

/-- The form of SYSRD and SYSWR (R366). -/
def formSys : Form := (formI 2).page1

/-- SYSRD: a marked read of st also sees the flags of the strand's MX commands, so it waits for them (R91). -/
def execSysrd (m : Bool) (d i : BitVec 4) (s : State) : Result :=
  let σ := (s.who.map (·.2)).getD .a
  issueIf (fun p => (sysScope (sysNum p i)).isNone || sysReadBarred (sysNum p i) σ) m formSys false
    (fun e => [tS (dNum e.pl d)])
    (fun e =>
      let n := sysNum e.pl i
      if m && n == 0 && e.σ == .e && !(e.t.mx.idle && e.t.mx.flags.isEmpty) then .wait
      else e.later ((sysScope n).getD .strand).latency (.s (dNum e.pl d) (e.sysRead n))) s

/-! ## SYSWR (R183, R286, R367) -/

/-- The completion registers that an AWAIT-class operation's continuation carries (R182, R183). -/
def HomeOp.carries : HomeOp → Nat
  | .await x0 _ _ _ _ => if wbits x0 60 4 = 1 then wbits x0 0 8 else 0
  | _ => 0

/-- Does a request end its strand: as its reply says, or before it is performed as its unit would answer now (R183, log entry 111)? -/
def State.requestEnds (s : State) (q : HomeReq) : Bool := (q.reply.getD (s.perform q).2).ends && !q.op.isRett

/-- The completion registers the run's continuation carries once the other strand has claimed it, or has issued the instruction
that claims it (R183, R286). -/
def Env.partnerClaim (e : Env) : Option Nat :=
  let x := e.t.strand (sideOther e.σ)
  if x.phase = .ended true then e.run.cont.map fun p => wbits ((e.s.cont p.1 p.2).word 0) 48 8
  else match x.home.bind (mget e.s.homes ·) with
    | some q => if e.s.requestEnds q then some q.op.carries else none
    | none => none

/-- Would a value of LIVE break the 16-register limit after the partner claimed the continuation (R183)? -/
def Env.liveBreaks (e : Env) (v : Word) : Bool :=
  match e.partnerClaim with
  | some c => decide (16 < popcount v.toNat 32 + popcount (e.t.regs (sideOther e.σ)).live.toNat 32 + popcount c 8)
  | none => false

/-- Does a value break the rules of register `n` (R91, R162, R187, R194, R286, R367)? -/
def Env.sysBad (e : Env) (n : Nat) (v : Word) : Bool :=
  match n with
  | 0x00 => wbits v 10 54 != 0
  | 0x04 => wbits v 32 32 != 0
  | 0x05 => wbits v 6 58 != 0
  | 0x18 => wbits v 32 32 != 0 || e.liveBreaks v
  | 0x23 => wbits v 48 16 != 0
  | 0x24 => wbits v 32 32 != 0
  | 0x25 => v != 0#64 && (hClass v != 3 || hReserved v != 0)
  | 0x26 => v != 0#64 && (hClass v != 1 || hReserved v != 0)
  | _ => false

/-- The state after the issuing strand wrote register `n`. -/
def Env.sysWrite (e : Env) (n : Nat) (v : Word) : State :=
  let ctx (f : Ctx → Ctx) : State := e.s.modCtx e.run.ctx f
  let tile (f : Tile → Tile) : State := e.s.modTile e.k f
  match n with
  | 0x00 => e.regs fun r => { r with st := (v.setWidth 16 &&& ~~~(0x200#16)) ||| (r.st &&& 0x200#16) }
  | 0x04 => tile fun t => { t with ascale := v }
  | 0x05 => tile fun t => { t with fplane := v }
  | 0x07 => tile fun t => { t with pxctr := t.pxctr.extractLsb' 64 64 ++ v }
  | 0x08 => tile fun t => { t with pxctr := v ++ t.pxctr.extractLsb' 0 64 }
  | 0x18 => e.regs fun r => { r with live := v.setWidth 32 }
  | 0x23 => ctx fun c => { c with qpri := v }
  | 0x24 => ctx fun c => { c with gftab := v }
  | 0x25 => ctx fun c => { c with bandfut := v }
  | 0x26 => ctx fun c => { c with kvrb := v }
  | n => e.regs (·.lset (n - 0x10) v)

/-- PLATCH of the strand in focus. -/
def State.latch (s : State) : BitVec 128 := (s.focus.map (·.pl)).getD 0#128

/-- SYSWR: a write of OWNER raises SECURITY in place of the stage-1 check; a strand register may be written provisionally
(R212); a context register costs 24 cycles and is written at issue (log entry 13). -/
def execSyswr (m : Bool) (d i : BitVec 4) (s : State) : Result :=
  let σ := (s.who.map (·.2)).getD .a
  let n := sysNum s.latch i
  if n = 0x21 ∧ formSys.stage1 s.latch σ then
    match s.focus with
    | none => .fault .noStrand
    | some e => if m && !e.r.out.isEmpty then .next s else .next (e.trap (trip codeSecurity) e.now)
  else
    issueIf (fun p => !sysWritable (sysNum p i) || sysWriteBarred (sysNum p i) σ) m formSys (sysScope n != some .strand)
      (fun e => [tS (dNum e.pl d)])
      (fun e =>
        let v := e.r.sget (dNum e.pl d)
        if e.sysBad n v then .trap (trip codeIllegal) e.now
        else .done (e.sysWrite n v) none (if sysScope n = some .wide then 24 else 1) none) s

end Sys2Proof.Machine
end

