-- ==== Sys2Proof/Machine/Dispatch.lean ====
section
/-!
DEFINITION. Sys2Proof/Machine/Dispatch.lean: one arm per row of spec/opcode_table.json, each one call of that row's meaning.
-/
namespace Sys2Proof.Machine

/-- The meaning of one step of the opcode table on a state. -/
def exec (i : Instr) (s : State) : Host.Outcome State Fault Refusal :=
  match i with
  | .ximm imm => Sys2Proof.Machine.execXimm imm s
  | .xreg d a b => Sys2Proof.Machine.execXreg d a b s
  | .page p => Sys2Proof.Machine.execPage p s
  | .memq sc c q => Sys2Proof.Machine.execMemq sc c q s
  | .nfmt a b => Sys2Proof.Machine.execNfmt a b s
  | .guard p n => Sys2Proof.Machine.execGuard p n s
  | .nop m => Sys2Proof.Machine.execNop m s
  | .endStrand m => Sys2Proof.Machine.execEndStrand m s
  | .br m p n o => Sys2Proof.Machine.execBr m p n o s
  | .jmp m o => Sys2Proof.Machine.execJmp m o s
  | .call m o => Sys2Proof.Machine.execCall m o s
  | .ret m => Sys2Proof.Machine.execRet m s
  | .jmpr m a => Sys2Proof.Machine.execJmpr m a s
  | .jmpt m d a => Sys2Proof.Machine.execJmpt m d a s
  | .loop m l e => Sys2Proof.Machine.execLoop m l e s
  | .brq m n o => Sys2Proof.Machine.execBrq m n o s
  | .pusho m p => Sys2Proof.Machine.execPusho m p s
  | .await m p x => Sys2Proof.Machine.execAwait m p x s
  | .chain m a => Sys2Proof.Machine.execChain m a s
  | .trap m imm => Sys2Proof.Machine.execTrap m imm s
  | .restartpt m imm => Sys2Proof.Machine.execRestartpt m imm s
  | .fence m sc => Sys2Proof.Machine.execFence m sc s
  | .mov m d a => Sys2Proof.Machine.execMov m d a s
  | .movi m d imm => Sys2Proof.Machine.execMovi m d imm s
  | .ldc m d imm => Sys2Proof.Machine.execLdc m d imm s
  | .add m d a => Sys2Proof.Machine.execAdd m d a s
  | .sub m d a => Sys2Proof.Machine.execSub m d a s
  | .addi m d imm => Sys2Proof.Machine.execAddi m d imm s
  | .mul m d a => Sys2Proof.Machine.execMul m d a s
  | .mulh m d a => Sys2Proof.Machine.execMulh m d a s
  | .madd m d a => Sys2Proof.Machine.execMadd m d a s
  | .div m d a => Sys2Proof.Machine.execDiv m d a s
  | .rem m d a => Sys2Proof.Machine.execRem m d a s
  | .and m d a => Sys2Proof.Machine.execAnd m d a s
  | .or m d a => Sys2Proof.Machine.execOr m d a s
  | .xor m d a => Sys2Proof.Machine.execXor m d a s
  | .andi m d imm => Sys2Proof.Machine.execAndi m d imm s
  | .shl m d a => Sys2Proof.Machine.execShl m d a s
  | .shr m d a => Sys2Proof.Machine.execShr m d a s
  | .sra m d a => Sys2Proof.Machine.execSra m d a s
  | .shli m d imm => Sys2Proof.Machine.execShli m d imm s
  | .shri m d imm => Sys2Proof.Machine.execShri m d imm s
  | .srai m d imm => Sys2Proof.Machine.execSrai m d imm s
  | .rotl m d a => Sys2Proof.Machine.execRotl m d a s
  | .min m d a => Sys2Proof.Machine.execMin m d a s
  | .max m d a => Sys2Proof.Machine.execMax m d a s
  | .minu m d a => Sys2Proof.Machine.execMinu m d a s
  | .maxu m d a => Sys2Proof.Machine.execMaxu m d a s
  | .clz m d a => Sys2Proof.Machine.execClz m d a s
  | .popc m d a => Sys2Proof.Machine.execPopc m d a s
  | .ext m d a => Sys2Proof.Machine.execExt m d a s
  | .ins m d a => Sys2Proof.Machine.execIns m d a s
  | .cmpeq m p a => Sys2Proof.Machine.execCmpeq m p a s
  | .cmpne m p a => Sys2Proof.Machine.execCmpne m p a s
  | .cmplt m p a => Sys2Proof.Machine.execCmplt m p a s
  | .cmple m p a => Sys2Proof.Machine.execCmple m p a s
  | .cmpltu m p a => Sys2Proof.Machine.execCmpltu m p a s
  | .cmpleu m p a => Sys2Proof.Machine.execCmpleu m p a s
  | .plog m d a o => Sys2Proof.Machine.execPlog m d a o s
  | .pset m p v => Sys2Proof.Machine.execPset m p v s
  | .pget m d => Sys2Proof.Machine.execPget m d s
  | .pput m a => Sys2Proof.Machine.execPput m a s
  | .ldb m d a => Sys2Proof.Machine.execLdb m d a s
  | .ldh m d a => Sys2Proof.Machine.execLdh m d a s
  | .ldw m d a => Sys2Proof.Machine.execLdw m d a s
  | .ldd m d a => Sys2Proof.Machine.execLdd m d a s
  | .ldv m q a => Sys2Proof.Machine.execLdv m q a s
  | .stb m d a => Sys2Proof.Machine.execStb m d a s
  | .sth m d a => Sys2Proof.Machine.execSth m d a s
  | .stw m d a => Sys2Proof.Machine.execStw m d a s
  | .std m d a => Sys2Proof.Machine.execStd m d a s
  | .stv m q a => Sys2Proof.Machine.execStv m q a s
  | .wld m q w k => Sys2Proof.Machine.execWld m q w k s
  | .wst m q w => Sys2Proof.Machine.execWst m q w s
  | .wset m w a => Sys2Proof.Machine.execWset m w a s
  | .wfeed m w t n => Sys2Proof.Machine.execWfeed m w t n s
  | .zerof m d a => Sys2Proof.Machine.execZerof m d a s
  | .wstat m d w => Sys2Proof.Machine.execWstat m d w s
  | .cpy m c a => Sys2Proof.Machine.execCpy m c a s
  | .cpyw m c a => Sys2Proof.Machine.execCpyw m c a s
  | .cpym m c a => Sys2Proof.Machine.execCpym m c a s
  | .cpyx m c => Sys2Proof.Machine.execCpyx m c s
  | .hwalk m c a => Sys2Proof.Machine.execHwalk m c a s
  | .hpermit m d a => Sys2Proof.Machine.execHpermit m d a s
  | .lndset m d a => Sys2Proof.Machine.execLndset m d a s
  | .fld m c a => Sys2Proof.Machine.execFld m c a s
  | .fst m d a => Sys2Proof.Machine.execFst m d a s
  | .cstat m d => Sys2Proof.Machine.execCstat m d s
  | .cmov m d c => Sys2Proof.Machine.execCmov m d c s
  | .lease m d a => Sys2Proof.Machine.execLease m d a s
  | .vadd m d a => Sys2Proof.Machine.execVadd m d a s
  | .vsub m d a => Sys2Proof.Machine.execVsub m d a s
  | .vmul m d a => Sys2Proof.Machine.execVmul m d a s
  | .vfma m d a => Sys2Proof.Machine.execVfma m d a s
  | .vmax m d a => Sys2Proof.Machine.execVmax m d a s
  | .vmin m d a => Sys2Proof.Machine.execVmin m d a s
  | .vcmp m d a => Sys2Proof.Machine.execVcmp m d a s
  | .vsel m d a => Sys2Proof.Machine.execVsel m d a s
  | .vlogic m d a => Sys2Proof.Machine.execVlogic m d a s
  | .vshift m d a => Sys2Proof.Machine.execVshift m d a s
  | .vcvt m d a => Sys2Proof.Machine.execVcvt m d a s
  | .vred m d a => Sys2Proof.Machine.execVred m d a s
  | .vscan m d a => Sys2Proof.Machine.execVscan m d a s
  | .vperm m d a => Sys2Proof.Machine.execVperm m d a s
  | .vbcast m d a => Sys2Proof.Machine.execVbcast m d a s
  | .vext m d a => Sys2Proof.Machine.execVext m d a s
  | .viota m d => Sys2Proof.Machine.execViota m d s
  | .vexp2 m d a => Sys2Proof.Machine.execVexp2 m d a s
  | .vrcp m d a => Sys2Proof.Machine.execVrcp m d a s
  | .vfkey m d a => Sys2Proof.Machine.execVfkey m d a s
  | .mzero m n => Sys2Proof.Machine.execMzero m n s
  | .mma m n k => Sys2Proof.Machine.execMma m n k s
  | .mmas m n k => Sys2Proof.Machine.execMmas m n k s
  | .mdrain m n d => Sys2Proof.Machine.execMdrain m n d s
  | .cbload m n a => Sys2Proof.Machine.execCbload m n a s
  | .attn m n x => Sys2Proof.Machine.execAttn m n x s
  | .attnfin m n d => Sys2Proof.Machine.execAttnfin m n d s
  | .qrot m d a => Sys2Proof.Machine.execQrot m d a s
  | .fadd m d a => Sys2Proof.Machine.execFadd m d a s
  | .fsub m d a => Sys2Proof.Machine.execFsub m d a s
  | .fmul m d a => Sys2Proof.Machine.execFmul m d a s
  | .fma m d a => Sys2Proof.Machine.execFma m d a s
  | .fdiv m d a => Sys2Proof.Machine.execFdiv m d a s
  | .fsqrt m d a => Sys2Proof.Machine.execFsqrt m d a s
  | .fmin m d a => Sys2Proof.Machine.execFmin m d a s
  | .fmax m d a => Sys2Proof.Machine.execFmax m d a s
  | .fcmpeq m p a => Sys2Proof.Machine.execFcmpeq m p a s
  | .fcmplt m p a => Sys2Proof.Machine.execFcmplt m p a s
  | .fcmple m p a => Sys2Proof.Machine.execFcmple m p a s
  | .fcvt m d a => Sys2Proof.Machine.execFcvt m d a s
  | .fclass m d a => Sys2Proof.Machine.execFclass m d a s
  | .divu m d a => Sys2Proof.Machine.execDivu m d a s
  | .remu m d a => Sys2Proof.Machine.execRemu m d a s
  | .vrsqrt m d a => Sys2Proof.Machine.execVrsqrt m d a s
  | .vhist m d a => Sys2Proof.Machine.execVhist m d a s
  | .vtopk m d a => Sys2Proof.Machine.execVtopk m d a s
  | .vsamp m d a => Sys2Proof.Machine.execVsamp m d a s
  | .qstat m d => Sys2Proof.Machine.execQstat m d s
  | .arrive m => Sys2Proof.Machine.execArrive m s
  | .waitb m => Sys2Proof.Machine.execWaitb m s
  | .gatom m d a => Sys2Proof.Machine.execGatom m d a s
  | .gcas m d a => Sys2Proof.Machine.execGcas m d a s
  | .gred m d a => Sys2Proof.Machine.execGred m d a s
  | .futw m d a => Sys2Proof.Machine.execFutw m d a s
  | .futr m p x => Sys2Proof.Machine.execFutr m p x s
  | .salloc m p d => Sys2Proof.Machine.execSalloc m p d s
  | .sfree m a => Sys2Proof.Machine.execSfree m a s
  | .signal m a => Sys2Proof.Machine.execSignal m a s
  | .tclaim m p d => Sys2Proof.Machine.execTclaim m p d s
  | .tpatch m d a => Sys2Proof.Machine.execTpatch m d a s
  | .tarm m a => Sys2Proof.Machine.execTarm m a s
  | .book m d a => Sys2Proof.Machine.execBook m d a s
  | .calq m d a => Sys2Proof.Machine.execCalq m d a s
  | .unlease m d a => Sys2Proof.Machine.execUnlease m d a s
  | .gparam m d imm => Sys2Proof.Machine.execGparam m d imm s
  | .gpset m d imm => Sys2Proof.Machine.execGpset m d imm s
  | .tfree m a => Sys2Proof.Machine.execTfree m a s
  | .fpush m d a => Sys2Proof.Machine.execFpush m d a s
  | .fret m d a => Sys2Proof.Machine.execFret m d a s
  | .fshare m a => Sys2Proof.Machine.execFshare m a s
  | .fdrop m a => Sys2Proof.Machine.execFdrop m a s
  | .fappend m d a => Sys2Proof.Machine.execFappend m d a s
  | .fcompact m p a => Sys2Proof.Machine.execFcompact m p a s
  | .finfo m d a => Sys2Proof.Machine.execFinfo m d a s
  | .beammap m a => Sys2Proof.Machine.execBeammap m a s
  | .pfxlook m a => Sys2Proof.Machine.execPfxlook m a s
  | .pfxput m d a => Sys2Proof.Machine.execPfxput m d a s
  | .pfxpin m d a => Sys2Proof.Machine.execPfxpin m d a s
  | .pfxunpin m a => Sys2Proof.Machine.execPfxunpin m a s
  | .bhash m d a => Sys2Proof.Machine.execBhash m d a s
  | .cpyf m c a => Sys2Proof.Machine.execCpyf m c a s
  | .sysrd m d imm => Sys2Proof.Machine.execSysrd m d imm s
  | .syswr m d imm => Sys2Proof.Machine.execSyswr m d imm s
  | .rett m d a => Sys2Proof.Machine.execRett m d a s
  | .xprobe m d a => Sys2Proof.Machine.execXprobe m d a s
  | .reservedEncoding w => Sys2Proof.Machine.execReservedEncoding w s
  | .verdictReturn k side => Sys2Proof.Machine.execVerdictReturn k side s
  | .resultWrite k side => Sys2Proof.Machine.execResultWrite k side s
  | .loadQueueFill k q => Sys2Proof.Machine.execLoadQueueFill k q s
  | .storeDrain k => Sys2Proof.Machine.execStoreDrain k s
  | .feedAccess k port => Sys2Proof.Machine.execFeedAccess k port s
  | .feedEntryLand k port => Sys2Proof.Machine.execFeedEntryLand k port s
  | .feedPoison k side => Sys2Proof.Machine.execFeedPoison k side s
  | .mxCommandStart k => Sys2Proof.Machine.execMxCommandStart k s
  | .mxOwedPush k => Sys2Proof.Machine.execMxOwedPush k s
  | .attnRowRead k => Sys2Proof.Machine.execAttnRowRead k s
  | .mxCommandEnd k => Sys2Proof.Machine.execMxCommandEnd k s
  | .taskRetire run => Sys2Proof.Machine.execTaskRetire run s
  | .barrierComplete run => Sys2Proof.Machine.execBarrierComplete run s
  | .homeUnitPerform req => Sys2Proof.Machine.execHomeUnitPerform req s
  | .futureWaiterWalk walk => Sys2Proof.Machine.execFutureWaiterWalk walk s
  | .continuationReady die idx => Sys2Proof.Machine.execContinuationReady die idx s
  | .furrowBoundary die => Sys2Proof.Machine.execFurrowBoundary die s
  | .codeStaging die idx => Sys2Proof.Machine.execCodeStaging die idx s
  | .stagingComplete die entry => Sys2Proof.Machine.execStagingComplete die entry s
  | .overrunCheck run => Sys2Proof.Machine.execOverrunCheck run s
  | .trapDelivery run => Sys2Proof.Machine.execTrapDelivery run s
  | .handlerArm id => Sys2Proof.Machine.execHandlerArm id s
  | .debugStop k side sub => Sys2Proof.Machine.execDebugStop k side sub s
  | .copyPartSend op => Sys2Proof.Machine.execCopyPartSend op s
  | .pageWalk op part => Sys2Proof.Machine.execPageWalk op part s
  | .channelPerform op part piece => Sys2Proof.Machine.execChannelPerform op part piece s
  | .visibilityWiden write => Sys2Proof.Machine.execVisibilityWiden write s
  | .granuleLanding op part granule => Sys2Proof.Machine.execGranuleLanding op part granule s
  | .memberAccept op part member => Sys2Proof.Machine.execMemberAccept op part member s
  | .copyComplete op => Sys2Proof.Machine.execCopyComplete op s
  | .harrowWalkStart k => Sys2Proof.Machine.execHarrowWalkStart k s
  | .harrowTileStart k => Sys2Proof.Machine.execHarrowTileStart k s
  | .slotDrained op slot => Sys2Proof.Machine.execSlotDrained op slot s
  | .cancellationDone op => Sys2Proof.Machine.execCancellationDone op s
  | .fretRowMove job => Sys2Proof.Machine.execFretRowMove job s
  | .compactionRowMove job => Sys2Proof.Machine.execCompactionRowMove job s
  | .prefixLookup job => Sys2Proof.Machine.execPrefixLookup job s
  | .kvRebuildStart op part => Sys2Proof.Machine.execKvRebuildStart op part s
  | .kvRebuildDone job => Sys2Proof.Machine.execKvRebuildDone job s
  | .invalidationArrival inv drill => Sys2Proof.Machine.execInvalidationArrival inv drill s
  | .invalidationComplete inv => Sys2Proof.Machine.execInvalidationComplete inv s
  | .cut run => Sys2Proof.Machine.execCut run s
  | .spill ctx => Sys2Proof.Machine.execSpill ctx s
  | .bandCoolHold die => Sys2Proof.Machine.execBandCoolHold die s
  | .timingSetSwitch die => Sys2Proof.Machine.execTimingSetSwitch die s
  | .messageDelivery msg => Sys2Proof.Machine.execMessageDelivery msg s
  | .hostRequestPerform core => Sys2Proof.Machine.execHostRequestPerform core s
  | .tailUpdate ctx ring => Sys2Proof.Machine.execTailUpdate ctx ring s
  | .coalescingTimer ctx ring => Sys2Proof.Machine.execCoalescingTimer ctx ring s
  | .portBRead op part granule => Sys2Proof.Machine.execPortBRead op part granule s
  | .residueCheck k bad => Sys2Proof.Machine.execResidueCheck k bad s
  | .barrierTreeDisagree die tree => Sys2Proof.Machine.execBarrierTreeDisagree die tree s
  | .patrolScrub line => Sys2Proof.Machine.execPatrolScrub line s
  | .dmaTimeoutAbort op part => Sys2Proof.Machine.execDmaTimeoutAbort op part s
  | .sensorSample die => Sys2Proof.Machine.execSensorSample die s
  | .powerSample => Sys2Proof.Machine.execPowerSample s
  | .coolantLow => Sys2Proof.Machine.execCoolantLow s
  | .soakDone => Sys2Proof.Machine.execSoakDone s
  | .trainingDone ok => Sys2Proof.Machine.execTrainingDone ok s
  | .lockDistributed => Sys2Proof.Machine.execLockDistributed s
  | .drainDone => Sys2Proof.Machine.execDrainDone s
  | .parkExit => Sys2Proof.Machine.execParkExit s
  | .bootVerify => Sys2Proof.Machine.execBootVerify s
  | .hostImageLoad img => Sys2Proof.Machine.execHostImageLoad img s
  | .firmwareUpdate img => Sys2Proof.Machine.execFirmwareUpdate img s
  | .attestationRequest ctx nonce => Sys2Proof.Machine.execAttestationRequest ctx nonce s
  | .spdmSessionOpen ctx => Sys2Proof.Machine.execSpdmSessionOpen ctx s
  | .debugCommand ctx cmd => Sys2Proof.Machine.execDebugCommand ctx cmd s
  | .debugResume ctx cont save => Sys2Proof.Machine.execDebugResume ctx cont save s
  | .contextAssign a => Sys2Proof.Machine.execContextAssign a s
  | .wintabWrite n word0 word1 => Sys2Proof.Machine.execWintabWrite n word0 word1 s
  | .registerWrite w => Sys2Proof.Machine.execRegisterWrite w s
  | .errstatRead core => Sys2Proof.Machine.execErrstatRead core s
  | .remotePartArrival part => Sys2Proof.Machine.execRemotePartArrival part s
  | .linkFlitReceive port good => Sys2Proof.Machine.execLinkFlitReceive port good s
  | .linkPortDown port => Sys2Proof.Machine.execLinkPortDown port s
  | .linkPartTimeout op part => Sys2Proof.Machine.execLinkPartTimeout op part s
  | .linkRekey port seq => Sys2Proof.Machine.execLinkRekey port seq s
  | .cxlSnoop port addr => Sys2Proof.Machine.execCxlSnoop port addr s
  | .serviceWatchdog core => Sys2Proof.Machine.execServiceWatchdog core s
  | .fibreSetup core => Sys2Proof.Machine.execFibreSetup core s
  | .fibreTeardown core => Sys2Proof.Machine.execFibreTeardown core s
  | .pagePool core => Sys2Proof.Machine.execPagePool core s
  | .recordWrite core => Sys2Proof.Machine.execRecordWrite core s
  | .gpWrite core => Sys2Proof.Machine.execGpWrite core s
  | .go core => Sys2Proof.Machine.execGo core s
  | .invalidateByPage core => Sys2Proof.Machine.execInvalidateByPage core s
  | .invalidateByTenant core => Sys2Proof.Machine.execInvalidateByTenant core s
  | .preEmpt core => Sys2Proof.Machine.execPreEmpt core s
  | .resume core => Sys2Proof.Machine.execResume core s
  | .teardown core => Sys2Proof.Machine.execTeardown core s
  | .compactionResume core => Sys2Proof.Machine.execCompactionResume core s
  | .poisonClear core => Sys2Proof.Machine.execPoisonClear core s
  | .configurationWrite core => Sys2Proof.Machine.execConfigurationWrite core s
  | .lock core => Sys2Proof.Machine.execLock core s
  | .drain core => Sys2Proof.Machine.execDrain core s
  | .shutdown core => Sys2Proof.Machine.execShutdown core s
  | .ringSetup core => Sys2Proof.Machine.execRingSetup core s
  | .unknownCommand core => Sys2Proof.Machine.execUnknownCommand core s
  | .powerOn => Sys2Proof.Machine.execPowerOn s
  | .lockInterface ctx => Sys2Proof.Machine.execLockInterface ctx s
  | .getDeviceInterfaceReport ctx => Sys2Proof.Machine.execGetDeviceInterfaceReport ctx s
  | .startInterface ctx => Sys2Proof.Machine.execStartInterface ctx s
  | .stopInterface ctx => Sys2Proof.Machine.execStopInterface ctx s

end Sys2Proof.Machine
end

