-- ==== Sys2Proof/Machine/Plan.lean ====
section
/-!
DEFINITION. Sys2Proof/Machine/Plan.lean: what the module does in one cycle and in which order, how a strand's next word is fetched and
issued (R39, R87, R240, R241, R279), which moves are enabled beside the strands (R135), how the outside reaches the module,
and how a cycle ends (R7, R244).

A cycle is worked off in phases, each of which puts its steps at the head of `todo`: 0 the furrow boundary (R160); 1 what the
tiles' pipes bring about; 2 the strands' issues, tiles ascending, A before E (R87); 3 feeds, drains, operand-pipe reads and home units;
4 what the module then does by itself for tasks and continuations; 5 stops, trap delivery and overrun checks; 6 to 9, after a furrow
boundary, the booking passes and releases of one die each, which follow the tiles' operations of that cycle (R364).  Between two cycles
any enabled move may be taken, or the clock ticks (R135, log entry 3).
-/
namespace Sys2Proof.Machine

/-! ## Outcomes -/

/-- A result with its next state changed. -/
def andThen (r : Result) (f : State → State) : Result :=
  match r with
  | .next s => .next (f s)
  | .fault x => .fault x
  | .refused x => .refused x

/-- The next state of a result, or the state before where there is none. -/
def nextOr (s : State) : Result → State
  | .next t => t
  | _ => s

/-! ## Fetch (R39, R87, R279) -/

/-- The instruction that a word stands for under a page; a word that the decoder rejects is a reserved encoding (R279). -/
def decodeWord (page : Nat) (w : BitVec 16) : Instr :=
  match decode page w with
  | .ok i => i
  | .error _ => .reservedEncoding w

/-- The next word of a strand, from the tile's instruction store. -/
def Tile.nextWord (t : Tile) (σ : Side) : BitVec 16 := t.codeWord (t.regs σ).pc.toNat
/-- The next instruction of a strand. -/
def Tile.nextInstr (t : Tile) (σ : Side) : Instr := decodeWord (plPage (t.regs σ).platch) (t.nextWord σ)

/-- Does a strand's next word lie in its code range (R39)? -/
def Tile.fetches (t : Tile) (r : Run) (σ : Side) : Bool := r.inCode (t.regs σ).pc.toNat 2

/-- Does a strand issue a bare END in this cycle, which outranks an asynchronous stop (R213)?  One that is parked or stands inside the
cost of a transfer is at a boundary and stops (R398). -/
def Tile.endsNow (t : Tile) (r : Run) (σ : Side) (now : Nat) : Bool :=
  let x := t.strand σ
  t.fetches r σ && !x.regs.ppv && x.phase == .run && decide (x.readyAt ≤ now) && x.verdicts.isEmpty && x.home.isNone &&
  x.restart.isNone && x.zerof.isNone && !x.waitb &&
  (match t.nextInstr σ with
    | .endStrand m => !m || x.regs.out.isEmpty
    | _ => false)

/-! ## Debug (R240, R241) -/

/-- Does a context's debugger act in a run? -/
def Ctx.debugs (c : Ctx) (r : Run) : Bool := !c.dbgctl.getLsbD 22 || c.dbgctl.extractLsb' 6 16 == r.fibre

/-- The breakpoint that the first word of a strand's next instruction matches. -/
def State.breakAt (s : State) (r : Run) (x : Regs) : Option Nat :=
  let c := s.ctx r.ctx
  if c.debugs r && x.runPc == x.pc then
    (List.range 4).find? fun n => c.dbgctl.getLsbD n && wbits (c.dbgbp[n]?.getD 0#64) 0 55 == x.pc.toNat
  else none

/-- Is the strand single-stepped, and has it issued an instruction since stepping was set? -/
def State.stepped (s : State) (r : Run) (t : Tile) (σ : Side) : Bool :=
  let c := s.ctx r.ctx
  let x := t.strand σ
  c.debugs r && c.dbgctl.getLsbD 4 && c.dbgctl.getLsbD 5 == (σ == .e) && x.phase == .run && x.issued && !x.regs.ppv

/-! ## Issue (R86, R87, R211–R213, R362, R363, R369) -/

/-- Could a strand of a run issue a word in this cycle, if nothing stops the run? -/
def State.canIssue (s : State) (k : Nat) (σ : Side) (r : Run) : Bool :=
  let t := s.tile k
  let x := t.strand σ
  x.phase == .run && decide (x.readyAt ≤ s.cycle) && x.home.isNone && !x.waitb && !x.barred s.cycle &&
  (x.restart.isNone || (t.strand (sideOther σ)).hasEnded) && (t.pipeTrap σ).isNone && !s.stepped r t σ

/-- The strand in focus issues its next word: an address outside the code range raises CODE-RANGE (R39), else the decoded instruction is
executed. -/
def State.runWord (s : State) (k : Nat) (σ : Side) (r : Run) : Result :=
  let t := s.tile k
  let s' := { s with who := some (k, σ) }
  if t.fetches r σ then exec (t.nextInstr σ) s'
  else match s'.focus with
    | some e => .next (e.trap (tripAt codeCodeRange (t.regs σ).pc.toNat) s.cycle)
    | none => .next s'

/-- Would a strand's next word trap in this cycle, if it issued? -/
def State.trapsNow (s : State) (k : Nat) (σ : Side) (r : Run) : Bool :=
  match s.runWord k σ r with
  | .next t => ((t.tile k).strand σ).trapOf.isSome
  | _ => false

/-- Does a strand have an event of its own at this boundary that outranks an asynchronous stop: POISON of its pipes, a debug stop, which ranks
as a synchronous trap (R241), a synchronous trap, or its END (R213, log entry 114)? -/
def State.outranks (s : State) (k : Nat) (σ : Side) (r : Run) : Bool :=
  let t := s.tile k
  (t.strand σ).atBoundary &&
  ((t.pipeTrap σ).isSome || s.stepped r t σ ||
    (s.canIssue k σ r && ((s.breakAt r (t.regs σ)).isSome || t.endsNow r σ s.cycle || s.trapsNow k σ r)))

/-- May a strand of a run issue a word in this cycle?  Not after another strand's trap (R211), nor, at a boundary, before an asynchronous stop
that its own events do not outrank (R213, log entry 114). -/
def State.mayIssue (s : State) (k : Nat) (σ : Side) (r : Run) : Bool :=
  r.culprit.isNone && s.canIssue k σ r && (r.stop.isNone || s.outranks k σ r)

/-- A strand issues its next word: a breakpoint stops it, unless the word would be discarded (R212). -/
def State.issueTurn (s : State) (k : Nat) (σ : Side) : Result :=
  match s.runOf k with
  | none => .next s
  | some r =>
    if !s.mayIssue k σ r then .next s
    else
      let t := s.tile k
      match s.breakAt r (t.regs σ) with
      | some n => if (t.strand σ).undo.isSome then .next s else execDebugStop k σ n s
      | none => andThen (s.runWord k σ r) fun s => { s with who := none }

/-! ## The phases of a cycle -/

/-- Tiles on which something may happen in a cycle. -/
def State.busyTiles (s : State) : List (Nat × Tile) := s.tiles.filter fun p => p.2.run.isSome || !p.2.sb.isEmpty

/-- Tiles with a run. -/
def State.runTiles (s : State) : List (Nat × Tile) := s.tiles.filter fun p => p.2.run.isSome

def bothSides : List Side := [.a, .e]

/-- Turns put at the head of what is left to do. -/
def State.put (s : State) (l : List Turn) : State := { s with todo := l ++ s.todo }

/-- Phase 0: the furrow boundary of every die (R160). -/
def State.planBoundary (s : State) : State :=
  s.put ((if s.cycle % 256 = 0 then (List.range 4).map fun d => Turn.ev (.furrowBoundary d) else []) ++ [.plan 1])

/-- What the MX of a tile does in a cycle (R114): commands that end and start, the running command's cycle, pushes that are
due. -/
def Tile.mxTurns (t : Tile) (k now : Nat) : List Turn :=
  if t.mx.idle then []
  else
    (List.replicate (t.mx.queue.length + 1) [Turn.ev (.mxCommandEnd k), Turn.ev (.mxCommandStart k)]).flatten ++ [.mx k] ++
      ((t.mx.owed.filter fun o => decide (28 ≤ o.d) && decide (o.due ≤ now)).map fun _ => Turn.ev (.mxOwedPush k))

/-- What the pipes of a tile bring about in a cycle: verdicts, results, queue and feed entries, the MX. -/
def Tile.pipeTurns (t : Tile) (k now : Nat) : List Turn :=
  let verdict (σ : Side) : List Turn :=
    let x := t.strand σ
    if x.home.isSome || x.verdicts.any (fun v => decide (v.due ≤ now)) then [.ev (.verdictReturn k σ)] else []
  let result (σ : Side) : List Turn :=
    if (t.strand σ).home.isSome || (t.regs σ).out.any (·.isDue now) || (σ == .e && ((t.mx.owed.any fun o => decide (o.d < 28) && decide (o.due ≤ now)) || t.mx.flags.any fun f => decide (f.1 ≤ now))) then
      [.ev (.resultWrite k σ)]
    else []
  let fills (q : Queue) : Bool := q.ents.any fun e => !e.filled && decide (e.due ≤ now)
  let queue (n : Nat) : List Turn :=
    if fills (if n < 4 then t.lqget n else t.sqget (n - 4)) then [.ev (.loadQueueFill k n)] else []
  let lands (p : Bool) : List Turn :=
    if (t.port p).flight.any fun e => decide (e.1 ≤ now) then [.ev (.feedEntryLand k p)] else []
  bothSides.flatMap verdict ++ bothSides.flatMap result ++ (List.range 6).flatMap queue ++ lands false ++ lands true ++
    t.mxTurns k now

/-- The residue checks that are not over. -/
def Tile.pruneChecks (t : Tile) (now : Nat) : Tile := if t.checks.all (now ≤ ·) then t else { t with checks := t.checks.filter (now ≤ ·) }

/-- Residue checks that have failed and are complete (R391). -/
def State.failResidue (s : State) : State :=
  s.runTiles.foldl (fun s p =>
    let s := if p.2.checks.all (s.cycle ≤ ·) then s else s.modTile p.1 (·.pruneChecks s.cycle)
    if p.2.residue.any fun c => decide (c ≤ s.cycle) then nextOr s (execResidueCheck p.1 true s) else s) s

/-- The A-core pipeline's slots that a JMPT's table read takes in its cycle (R226). -/
def State.takeJmpt (s : State) : State :=
  s.runTiles.foldl (fun s p =>
    match p.2.jmptAt with
    | some (c, banks) => if c = s.cycle then s.modTile p.1 (·.usePort { cycle := c, banks := banks, write := false }) else s
    | none => s) s

/-- Phase 1: home-unit requests whose stores have drained are sent (R149); the pipes; copies and walks that move nothing;
barriers. -/
def State.planPipes (s : State) : State :=
  let s := s.homes.foldl (fun s q => s.sendHome q.1) s
  let s := s.failResidue.takeJmpt
  let pipes := s.runTiles.flatMap fun p => p.2.pipeTurns p.1 s.cycle
  let barriers := (s.runs.filter fun r => r.2.barrier.any fun c => decide (c ≤ s.cycle)).map fun r => Turn.ev (.barrierComplete r.1)
  let empty := (s.ops.filter fun o => s.emptyDue o.2).map fun o => Turn.ev (.copyComplete o.1)
  s.put (pipes ++ empty ++ barriers ++ [.plan 2])

/-- Strands at a boundary stop before they issue: for a trap of an earlier cycle, or for an asynchronous stop that no event of their own
outranks in this cycle (R211, R213, R398). -/
def State.stopNow (s : State) : State :=
  s.runs.foldl (fun s r =>
    if r.2.stop.isSome || r.2.halting then s.stopStrands r.2 fun k σ => r.2.culprit.isNone && s.outranks k σ r.2 else s) s

/-- Debug stops after an instruction, for strands at a boundary (R241). -/
def State.stepTurns (s : State) : List Turn :=
  s.runTiles.flatMap fun p => bothSides.flatMap fun σ =>
    match p.2.run.bind s.run with
    | some r => if s.stepped r p.2 σ && (p.2.strand σ).atBoundary then [Turn.ev (.debugStop p.1 σ 4)] else []
    | none => []

/-- Phase 2: stops, then the strands that may issue, tiles ascending, A before E. -/
def State.planIssues (s : State) : State :=
  let s := s.stopNow
  let poison := s.runTiles.flatMap fun p => bothSides.flatMap fun σ =>
    if (p.2.pipeTrap σ).isSome && (p.2.strand σ).takesPoison then [Turn.ev (.feedPoison p.1 σ)] else []
  let issues := s.runTiles.flatMap fun p => bothSides.flatMap fun σ =>
    match p.2.run.bind s.run with
    | some r => if s.mayIssue p.1 σ r then [Turn.issue p.1 σ] else []
    | none => []
  s.put (poison ++ s.stepTurns ++ issues ++ [.plan 3])

/-- The feeds of a tile, the one whose last access is older first (R84); one that has made none counts as the older (log entry 92). -/
def Tile.feedTurns (t : Tile) (k : Nat) : List Turn :=
  match t.feedA, t.feedB with
  | some a, some b => if b.last < a.last then [.ev (.feedAccess k true), .ev (.feedAccess k false)]
      else [.ev (.feedAccess k false), .ev (.feedAccess k true)]
  | some _, none => [.ev (.feedAccess k false)]
  | none, some _ => [.ev (.feedAccess k true)]
  | none, none => []

/-- At the end of a field cycle: the operand pipe's read, then the drains (R61, R62, R136).  That the read falls into the second cycle of its
field cycle is the model's choice (log entry 108). -/
def Tile.drainTurns (t : Tile) (k now : Nat) : List Turn :=
  if now % 2 = 0 then []
  else
    (if t.mx.run.any (·.want.isSome) then [Turn.ev (.attnRowRead k)] else []) ++
      List.replicate (t.sb.takeWhile fun e => decide (e.commit ≤ now)).length (Turn.ev (.storeDrain k))

/-- Is one request performed before another that reaches its unit in the same cycle: tiles ascending, A before E? -/
def insReq (q : Nat × HomeReq) : List (Nat × HomeReq) → List (Nat × HomeReq)
  | [] => [q]
  | p :: r =>
    if p.2.tile < q.2.tile ∨ (p.2.tile = q.2.tile ∧ sideNum p.2.side ≤ sideNum q.2.side) then p :: insReq q r else q :: p :: r

/-- Home-unit requests that reach their unit in this cycle (R364). -/
def State.homeTurns (s : State) : List Turn :=
  let due := s.homes.filter fun q => q.2.reply.isNone && q.2.sentAt.any fun c => decide (c + q.2.reach ≤ s.cycle)
  (due.foldl (fun l q => insReq q l) []).map fun q => Turn.ev (.homeUnitPerform q.1)

/-- Phase 3. -/
def State.planAccesses (s : State) : State :=
  let s := s.runTiles.foldl (fun s p => if p.2.wantsCounts then s.modTile p.1 (·.takeCounts s.cycle) else s) s
  let feeds := s.runTiles.flatMap fun p => p.2.feedTurns p.1
  let drains := s.busyTiles.flatMap fun p => p.2.drainTurns p.1 s.cycle
  s.put (s.stepTurns ++ feeds ++ drains ++ s.homeTurns ++ [.plan 4])

/-- Runs by ascending task index, the order in which those that end in one cycle end (R173); with one index the older run first (log entry
110). -/
def insRun (q : Nat × Run) : List (Nat × Run) → List (Nat × Run)
  | [] => [q]
  | p :: r => if p.2.idx ≤ q.2.idx then p :: insRun q r else q :: p :: r

/-- Phase 4: waiters of written futures first; then retirements, readied continuations, handlers.  The continuations are those whose wait was
met before this cycle's retirements: that of a run that ends in it is readied in the next cycle (log entry 112). -/
def State.planTasks (s : State) : State :=
  if s.walks.isEmpty then
    let retires := ((s.runs.filter fun r => s.allEnded r.2).foldl (fun l r => insRun r l) []).map fun r => Turn.ev (.taskRetire r.1)
    let ready := (List.range 4).flatMap fun d =>
      ((s.die d).conts.filter fun c => s.contDue d c.1).map fun c => Turn.ev (.continuationReady d c.1)
    let arms := (s.handlers.filter fun h => !(h.2.ops.any fun o => (mget s.ops o).isSome)).map fun h => Turn.ev (.handlerArm h.1)
    s.put (retires ++ ready ++ arms ++ [.plan 5])
  else s.put (s.walks.map (fun w => Turn.ev (.futureWaiterWalk w.1)) ++ [.plan 4])

/-! ### The end of a furrow (R166; log entry 83)

A save must be finished before the task's last furrow ends.  Where a strand is then still inside a home-unit instruction, or the
MX inside a command, the model lets the furrow's last cycle end it: what has an outcome takes it now, the rest is dropped. -/

/-- Later than every result that a strand can have under way (R88, R364). -/
def forcedNow (now : Nat) : Nat := now + 256

/-- A strand's home-unit request ends: its verdict is taken now, or it is dropped before its performance. -/
def State.forceHome (s : State) (k : Nat) (σ : Side) : State :=
  match ((s.tile k).strand σ).home with
  | none => s
  | some i =>
    let drop (s : State) : State :=
      { s with homes := mdel s.homes i }.modTile k fun t => t.setStrand σ { t.strand σ with home := none }
    match mget s.homes i with
    | none => drop s
    | some q =>
      match q.reply with
      | none => drop (s.giveBack q q.op.slot)
      | some a =>
        let s := drop s
        match a.trap with
        | some t => s.modTile k fun y => y.takeTrap σ (TrapInfo.ofTrip (y.regs σ) t)
        | none => s.modTile k fun y => y.setStrand σ ((y.strand σ).answered s.cycle s.cycle (!q.op.isRett) a)

/-- The verdicts and results of a tile's strands come now, and the MX ends. -/
def Tile.forcePipes (t : Tile) (now : Nat) : Tile :=
  let far := forcedNow now
  let t := (t.returnVerdicts .a far).returnVerdicts .e far
  let t := ((((t.landDue .a far).landDue .e far).landMx far).landFlags far).dropCommands
  { t with mx := { t.mx with run := none, owed := [] } }.modRegs .e fun r => { r with out := r.out.filter (·.due.isSome) }

/-- A run that still stands in the last cycle of its booking stops now, with OVERRUN unless something else stops it. -/
def State.forceRun (s : State) (id : Nat) (r : Run) : State :=
  if !s.lastCycle r then s
  else
    let s := s.modRun id fun r => { r with stop := some (match r.stop with
      | some w => if w != .residue && s.allEnded r then .overrun else w
      | none => .overrun) }
    let s := r.strands.foldl (fun s x => s.forceHome x.1 x.2) s
    let s := r.members.foldl (fun s k => s.modTile k (·.forcePipes s.cycle)) s
    s.stopStrands r fun _ _ => false

/-- Phase 5: the stops of this cycle, the delivery of traps and cuts whose strands have all stopped, and the overrun checks,
which come after the cycle's issues and retirements: a task that they find running takes OVERRUN from the next cycle on
(R166, R213; log entry 9). -/
def State.planStops (s : State) : State :=
  let s := s.runs.foldl (fun s r => s.forceRun r.1 r.2) s
  let s := s.runs.foldl (fun s r => s.settleStops r.1) s
  let overruns := if s.cycle % 256 = 192 then s.runs.map fun r => Turn.ev (.overrunCheck r.1) else []
  s.put ((s.runs.filter fun r => r.2.halting).map (fun r => Turn.ev (.trapDelivery r.1)) ++ overruns)

/-- One phase; from 6 on the boundary passes of a die. -/
def State.planPhase (s : State) (n : Nat) : State :=
  match n with
  | 0 => s.planBoundary
  | 1 => s.planPipes
  | 2 => s.planIssues
  | 3 => s.planAccesses
  | 4 => s.planTasks
  | 5 => s.planStops
  | n => s.boundaryPasses (n - 6)

/-- One turn. -/
def State.turn (s : State) : Turn → Result
  | .ev i => exec i s
  | .issue k σ => s.issueTurn k σ
  | .mx k => .next (s.mxAdvance k)
  | .plan n => .next (s.planPhase n)

/-! ## Moves between cycles (R135) -/

/-- One of a list, by a number. -/
def pickOf (n : Nat) (l : List α) : List α := (l[n % max 1 l.length]?).toList

/-- Moves of a part (R135). -/
def State.partMoves (s : State) (n i : Nat) (o : Op) (j : Nat) (p : Part) : List Instr :=
  if p.phase != .live then []
  else
    let ks := o.partTiles p
    let gs := o.granulesOf p
    let pairs := ks.flatMap fun k => gs.map fun g => (k, g)
    (if (o.untranslated p).isSome then [.pageWalk i j] else []) ++
    (pickOf n ((o.openPieces p).filter (s.pieceReady o p))).map (fun q => .channelPerform i j q) ++
    (pickOf n (o.members.filter fun m => s.acceptReady i j m o p)).map (fun m => .memberAccept i j m) ++
    (pickOf n (pairs.filter fun x => s.landReady i j o p x.1 x.2)).map (fun x => .granuleLanding i j (granuleKey x.1 x.2)) ++
    (pickOf n (pairs.filter fun x => s.readReady i j o p x.1 x.2)).map (fun x => .portBRead i j (granuleKey x.1 x.2))

/-- A move without what its free choice names: the key under which it waits (R135). -/
def moveKey : Instr → Instr
  | .channelPerform i j _ => .channelPerform i j 0
  | .memberAccept i j _ => .memberAccept i j 0
  | .granuleLanding i j _ => .granuleLanding i j 0
  | .portBRead i j _ => .portBRead i j 0
  | .invalidationArrival i _ => .invalidationArrival i 0
  | i => i

/-- Moves of an operation. -/
def State.opMoves (s : State) (n i : Nat) (o : Op) : List Instr :=
  if o.spilled then []
  else if o.cancel then (if s.cancelDue i o then [.cancellationDone i] else [])
  else
    (if s.canSend i o then [.copyPartSend i] else []) ++
    (o.parts.zipIdx.flatMap fun p => s.partMoves n i o p.2 p.1) ++
    (match o.walk with
      | some w => (if o.walkDesc.back then w.busy.filter fun y => s.slotOver i o y else []).map (fun y => .slotDrained i y)
      | none => []) ++
    (if s.opOver i o then [.copyComplete i] else [])

/-- Moves of the harrows. -/
def State.harrowMoves (s : State) : List Instr :=
  let ks := (s.ops.filter fun o => o.2.kind == .hwalk && !o.2.spilled).foldl (fun l o => ins l o.2.tile) []
  ks.flatMap fun k =>
    (if (s.nextWalk k).isSome then [.harrowWalkStart k] else []) ++
    (if (s.walksOf k).any fun p => p.2.walk.any fun w => s.tileReady p.2 w then [.harrowTileStart k] else [])

/-- Moves of dies: staging fetches, timing sets, cooler bands. -/
def State.dieMoves (s : State) : List Instr :=
  (List.range 4).flatMap fun d =>
    (if s.clockOn then ((s.die d).stages.filter fun e => s.stageDue e.2).map (fun e => Instr.stagingComplete d e.1) else []) ++
    (if (s.die d).switchBy.isSome then [.timingSetSwitch d] else []) ++
    (if s.coolDue d then [.bandCoolHold d] else [])

/-- Is a context's teardown past the point from which nothing of it moves any more (R232)? -/
def State.isDying (s : State) (x : Nat) : Bool :=
  match (s.ctx x).pre with
  | .dying _ _ _ _ => true
  | _ => false

/-- Moves of the Sheaf and the mesh. -/
def State.sheafMoves (s : State) : List Instr :=
  (s.frets.filter fun j => s.fretDue j.2 && !s.isDying j.2.ctx).map (fun j => .fretRowMove j.1) ++
  (s.compacts.filter fun j => s.compactDue j.2 && !s.isDying (s.frame j.2.die j.2.frame).ctx).map (fun j => .compactionRowMove j.1) ++
  (s.lookups.filter fun j => !s.isDying j.2.ctx).map (fun j => .prefixLookup j.1) ++
  (s.rebuilds.filter fun j => s.futureIsFull j.2.fut).map (fun j => .kvRebuildDone j.1) ++
  s.messages.map (fun m => .messageDelivery m.1)

/-- Moves of the invalidations, of far writes, of the links, whose packets the other side acknowledges (R264), and patrol scrub (R36). -/
def State.unitMoves (s : State) (n : Nat) : List Instr :=
  s.invals.flatMap (fun v => (pickOf n ((List.range 24).filter fun c => !v.2.arrived.contains c)).map fun c => .invalidationArrival v.1 c) ++
  (s.invals.filter fun v => s.invalDue v.1 v.2).map (fun v => .invalidationComplete v.1) ++
  (s.writes.filter s.mayWiden).map (fun w => .visibilityWiden w.id) ++
  ((List.range 16).filter fun p => !(s.link p).replay.isEmpty && (s.link p).tx.since.isNone).map (fun p => .linkFlitReceive ⟨p, true⟩ true) ++
  s.scrubLines.map (fun l => .patrolScrub l)

/-- Moves of the service cores and the reeve.  In WARM and OFF the cores serve nobody (R253). -/
def State.serviceMoves (s : State) : List Instr :=
  ((List.range 16).filter fun k => !(s.core k).queue.isEmpty && s.mstate != .warm && s.mstate != .off).map (fun k => Instr.hostRequestPerform k) ++
  ((List.range 16).filter fun x => s.spillDue x && (s.clockOn || s.isDying x)).map (fun x => Instr.spill x) ++
  ((List.range 64).filter fun i => ((s.ctx (i / 4)).ring (i % 4)).expired s.time).map fun i => Instr.coalescingTimer (i / 4) (i % 4)

/-- Transitions of the module state that are due (R252), and barrier trees that have disagreed (R267). -/
def State.moduleMoves (s : State) : List Instr :=
  (if s.coolantDue then [.coolantLow] else []) ++ (if s.soakDue then [.soakDone] else []) ++
  (if s.lockDue then [.lockDistributed] else []) ++ (if s.drainDue then [.drainDone] else []) ++
  (if s.parkDue then [.parkExit] else []) ++ s.treeFaults.map (fun t => .barrierTreeDisagree t.1 t.2.1)

/-- Moves of units whose clocks stop in PARK and WARM (R252). -/
def State.clockedMoves (s : State) (n : Nat) : List Instr :=
  if s.clockOn then (s.ops.flatMap fun o => s.opMoves n o.1 o.2) ++ s.harrowMoves ++ s.sheafMoves else []

/-- Every move that is enabled. -/
def State.moves (s : State) (n : Nat) : List Instr :=
  s.clockedMoves n ++ s.dieMoves ++ s.unitMoves n ++ s.serviceMoves ++ s.moduleMoves

/-- What moves whose time has come do, which nothing goes before: a timing set 2 ms after its sample (R248), a lock after 1 ms (R252), a port
whose retries have failed for 100 µs (R264), a part that has not reached its target within 1 ms (R266), a barrier tree 1 ms after it
disagreed (R267), a link key near its last number (R233). -/
def State.urgent (s : State) : List Result :=
  ((List.range 4).filter s.switchLate).map (fun d => execTimingSetSwitch d s) ++
  ((List.range 16).filter s.portDead).map (fun p => execLinkPortDown p s) ++
  (if s.lockLate then [execLockDistributed s] else []) ++
  ((s.treeFaults.filter (·.2.2)).map fun t => execBarrierTreeDisagree t.1 t.2.1 s) ++
  ([true, false].flatMap fun out =>
    ((List.range 16).filter (s.rekeyDue · out)).map fun p => execLinkRekey ⟨p, out⟩ (((s.link p).dir out).seq + 1) s) ++
  s.ops.flatMap fun o => if o.2.cancel || o.2.spilled then [] else
    (o.2.parts.zipIdx.filter fun p => (s.latePage o.2 p.1).isSome).map fun p => execLinkPartTimeout o.1 p.2 s

/-! ## The clock (R7, R153, R244, R249) -/

/-- Reference time of 10 µs, the interval of samples (R244, R255). -/
def samplePeriod : Nat := 10 * microsecond

/-- Sensors, flow and power are sampled. -/
def State.sample (s : State) : State :=
  let s := (List.range 4).foldl (fun s d => nextOr s (execSensorSample d s)) s
  nextOr s (execPowerSample s)

/-- One cycle, twice as long in COOL; with the clocks of the field dies stopped only time goes on.  Samples are taken every 10 µs, and patrol
scrub ends a round every 64 s (R244, R247). -/
def State.tick (s : State) : State :=
  let time := s.time + s.timeStep
  let sampled := time / samplePeriod != s.time / samplePeriod
  let scrubbed := time / scrubPeriod != s.time / scrubPeriod
  let s := { s with time := time, cycle := if s.clockOn then s.cycle + 1 else s.cycle }
  let s := if sampled then s.sample else s
  let s := if scrubbed then s.scrubAll else s
  if s.clockOn then s.put [.plan 0] else s

/-- The enabled moves and the tick, each with the choice since which it waits. -/
def State.waits (s : State) (l : List (Option Instr)) : List (Option Instr × Nat) :=
  l.map fun m => (m, ((s.waiting.find? fun w => w.1 == m.map moveKey).map (·.2)).getD s.choice)

/-- The one that has waited longest. -/
def longest : List (Option Instr × Nat) → Option (Option Instr × Nat)
  | [] => none
  | w :: r =>
    match longest r with
    | some x => if x.2 < w.2 then some x else some w
    | none => some w

/-- The move taken: one that has waited `Config.patience` choices, the longest first, else one by free choice (R135, log entry 3). -/
def State.chosen (s : State) (l : List (Option Instr × Nat)) : Option Instr :=
  match longest (l.filter fun w => decide (w.2 + Config.patience ≤ s.choice)) with
  | some w => w.1
  | none => (l[Config.freeChoice s.choice % max 1 l.length]?).bind (·.1)

/-- A move is taken, or the clock ticks; what else is enabled waits on (R135). -/
def State.takeMove (s : State) (m : Option Instr) (l : List (Option Instr × Nat)) : Result :=
  let s := { s with choice := s.choice + 2
                    waiting := (l.map fun w => (w.1.map moveKey, w.2)).filter fun w => w.1 != m.map moveKey }
  match m with
  | some i => exec i s
  | none => .next s.tick

/-- Between two cycles: a move whose time has come, else a move or the clock's tick (R135). -/
def State.background (s : State) : Result :=
  match s.urgent with
  | r :: _ => r
  | [] =>
    let ms := s.moves (Config.freeChoice (s.choice + 1))
    if ms.isEmpty then .next { s with waiting := [] }.tick
    else
      let l := s.waits (ms.map some ++ [none])
      s.takeMove (s.chosen l) l

/-! ## What reaches the module from outside -/

/-- The first input that is due, with the state without it. -/
def dueInput (time : Nat) : List (Nat × Input) → Option (Input × List (Nat × Input))
  | [] => none
  | (t, x) :: r => if t ≤ time then some (x, r) else (dueInput time r).map fun y => (y.1, (t, x) :: y.2)

/-- A double error of a Granary cell poisons it (R267). -/
def State.cellError (s : State) (d i : Nat) : State :=
  let c := s.cell d i
  if c.kind = .free then s
  else if c.kind = .future then (s.poisonFuture (mkHandle 3 c.gen d i)).countUncorrectable
  else (s.setCell d i { c with poison := true }).countUncorrectable

/-- A double error of a record of a pool fails it (R267). -/
def State.recordError (s : State) (d cls i : Nat) : State :=
  (s.modDie d fun y => { y with spoiled := if y.spoiled.contains (cls, i) then y.spoiled else y.spoiled ++ [(cls, i)] }).countUncorrectable

/-- An error of the result whose residue check is the nth under way: that check fails when it is complete (R391). -/
def Tile.residueError (t : Tile) (now n : Nat) : Tile :=
  match (t.checks.filter (now < ·))[n]? with
  | some c => { t with residue := some (min c (t.residue.getD c)) }
  | none => t

/-- The deliveries of a barrier tree have bad parity, or good parity again (R267). -/
def State.treeFault (s : State) (d n : Nat) (bad : Bool) : State :=
  s.modDie d fun y => { y with treeBad := if bad then y.treeBad ||| (1#2 <<< n) else y.treeBad &&& ~~~(1#2 <<< n) }

/-- A line with an error: one symbol is corrected, more are not (R35). -/
def State.lineError (s : State) (line n : Nat) : State :=
  if n = 1 then { s with soft := mput s.soft line 0 } else { s with hard := mput s.hard line 0 }

/-- A write of another module in its second tier, or of a module beyond. -/
def State.remoteWrite (s : State) (m pa : Nat) (bs : List Byte) : State := s.sysPut (.remote m) 0 pa bs

/-- A window of another module refuses this module's parts with a fault kind, or with 0 serves them (R236). -/
def State.remoteWindow (s : State) (m n kind : Nat) : State :=
  let l := s.refusing.filter fun r => r.1 != (m, n)
  { s with refusing := if kind = 0 then l else ((m, n), kind) :: l }

/-- An input takes effect. -/
def State.applyInput (s : State) : Input → Result
  | .event i => exec i s
  | .go core slot words stream => .next (s.goWrite core slot words stream)
  | .request _ r => match r with
    | .read pa n => .next (s.cxlRequest (.read pa n) pa)
    | .write pa bs => .next (s.cxlRequest (.write pa bs) pa)
    | .mail _ _ => .next s
  | .sensors d l => .next (s.modDie d fun y => { y with sensors := l })
  | .flow n => .next { s with flow := n }
  | .power n => .next { s with powerNow := n }
  | .hostWrite pa bs => .next (s.sysPut .host 0 pa bs)
  | .remoteWrite m pa bs => .next (s.remoteWrite m pa bs)
  | .remoteWindow m n kind => .next (s.remoteWindow m n kind)
  | .reeveInvalidate x va => .next (s.invalidate none x va false)
  | .fieldError k g dead => .next (s.modTile k fun t =>
      { t with field := if dead then { t.field with dead := ins t.field.dead g } else { t.field with worn := ins t.field.worn g } })
  | .lineError line n => .next (s.lineError line n)
  | .cellError d i => .next (s.cellError d i)
  | .recordError d cls i => .next (s.recordError d cls i)
  | .sramError => .next s.countSram
  | .residueError k n => .next (s.modTile k (·.residueError s.cycle n))
  | .treeFault d n bad => .next (s.treeFault d n bad)
  | .msixControl p en fm =>
    .next ((s.setMsixFn p { s.msixFn p with enable := en, fnMask := fm }).flushMsix p)
  | .msixVector p v mask =>
    let f := s.msixFn p
    .next ((s.setMsixFn p { f with open_ := if mask then f.open_.filter (· != v) else ins f.open_ v }).flushMsix p)

/-- One step: an input that is due, else the next turn of this cycle, else a move or the tick. -/
def State.advance (s : State) : Result :=
  match dueInput s.time s.inputs with
  | some (x, rest) => { s with inputs := rest }.applyInput x
  | none =>
    match s.todo with
    | t :: rest => { s with todo := rest }.turn t
    | [] => s.background

/-! ## A program loaded from outside (log entry 45) -/

/-- The VA of the code range, and the run of words, of a program that is placed from outside. -/
def placeBase : Nat := 0x10000

/-- The task that a placed program runs as: context 1, fibre 0, tile 0 of die 0, every engine class, the whole field store
as scratch. -/
def placeRun : Run :=
  { die := 0, idx := 0, handle := mkHandle 1 0#16 0 0, ctx := 1, fibre := 0#16, mask := 0xFFFF#16, origin := 0, width := 1
    height := 1, codeBase := placeBase, codeLen := 64, scratch := (0, 64), chan := some 0, chain := none, cont := none
    awaitSide := none, retts := [], barrier := none, stop := none, culprit := none, halting := false, haltAt := 0 }

/-- The strand a word issues from: E for the opcodes that only the E-strand takes, else A (R280, R281). -/
def placeSide (page : Nat) (w : BitVec 16) : Side :=
  let op := bits w.toNat 8 7
  if page = 1 then (if op < 0x0D ∨ (0x10 ≤ op ∧ op < 0x14) then .e else .a)
  else if 0x54 ≤ op ∧ op < 0x70 then .e else .a

/-- A strand about to issue the word at `pc`, with the page latched where it stands on page 1. -/
def Strand.placed (x : Strand) (page : Nat) : Strand :=
  { x with
    phase := .run, readyAt := 0, verdicts := [], undo := none, home := none, restart := none, zerof := none, waitb := false
    regs := { x.regs with
      platch := if page = 1 then plAddPage 0#128 1#2 else 0#128
      st := if page = 1 then x.regs.st ||| 0x200#16 else x.regs.st &&& ~~~(0x200#16)
      pc := w64 (placeBase + 2 * page), runPc := w64 placeBase } }

/-- A program of one instruction, loaded from outside: the module in RUN with its clocks on, context 1 with fibre 0 and a
RUNNING task on tile 0 whose code range starts with the words, and the strand's issue as all that is left of this cycle. -/
def State.placeWords (s : State) (ws : List (BitVec 16)) : State :=
  let page := ws.length - 1
  let σ := placeSide page (ws.getLastD 0#16)
  let code := (ws.zipIdx).foldl (fun m p => Memory.write m (2 * p.2) 2 p.1.toNat) []
  let t := s.tile 0
  let t := { t with owner := some 1#4, keyOk := true, run := some 0
                    store := { base := placeBase, len := 64, mem := code } }
  let s := s.setTile 0 (t.setStrand σ ((t.strand σ).placed page))
  let s := s.setTask 0 0 ((s.task 0 0).setWord 0 (w64 (5 * 2 ^ 60)))
  let s := s.modTask 0 0 fun x => x.setWord 1 (w64 (2 ^ 16 + 0xFFFF))
  let s := s.modFibre 0#16 fun f => f.setWord 0 (w64 (2 ^ 60 + 2 ^ 56))
  { s.modCtx 1 fun c => { c with live := true } with
    runs := mput s.runs 0 placeRun, mstate := .run, clockOn := true, everRun := true, who := none, inputs := []
    todo := [.issue 0 σ] }

end Sys2Proof.Machine
end

