-- ==== Sys2Proof/Machine/Step.lean ====
section
/-!
DEFINITION. Sys2Proof/Machine/Step.lean: one step of the module, and how an instruction is placed where the next step
fetches it.
-/
namespace Sys2Proof.Machine

/-- One step: `State.advance`. -/
def step (s : State) : Host.Outcome State Fault Refusal := s.advance

/-- `s` with an instruction of the opcode table stored where the next step fetches it and the strand about to issue it:
`State.placeWords` (log entry 45). -/
def State.withFetchWord (s : State) (nbits w : Nat) : State := s.placeWords (tableWords nbits w)

end Sys2Proof.Machine
end

