-- ==== Sys2Proof/WellFormed.lean ====
section
/-!
DEFINITION. Sys2Proof/WellFormed.lean: which instructions have every operand within the range its layout gives it. A word
that breaks one of these still decodes, and its meaning raises ILLEGAL (R275, R278, R279).
-/
namespace Sys2Proof

/-- A tile id of the module (R13). -/
def tileOk (k : Nat) : Bool := decide (k < 1024)
/-- A field die (R12). -/
def dieOk (d : Nat) : Bool := decide (d < 4)
/-- A tenant context (R227). -/
def ctxOk (x : Nat) : Bool := decide (x < 16)
/-- A service core (R12). -/
def coreOk (k : Nat) : Bool := decide (k < 16)

/-- Did the decoder answer an instruction? -/
def accepted : Except Reject Instr → Bool
  | .ok _ => true
  | .error _ => false

/-- A word that some page's map reserves (R279). -/
def isReserved (w : BitVec 16) : Bool := !accepted (decode 0 w) || !accepted (decode 1 w)

/-- Every operand of the instruction lies within its range. -/
def Instr.wellFormed : Instr → Bool
  | .page p => p == 1#2
  | .memq _ c _ => decide (c.toNat ≤ 5)
  | .wld _ _ _ k => decide (k.toNat ≤ 3)
  | .mdrain _ _ d => decide (d.toNat ≤ 12) || d == 28#5 || d == 29#5
  | .attnfin _ _ d => decide (d.toNat ≤ 29)
  | .verdictReturn k _ => tileOk k
  | .resultWrite k _ => tileOk k
  | .loadQueueFill k q => tileOk k && decide (q < 6)
  | .storeDrain k => tileOk k
  | .feedAccess k _ => tileOk k
  | .feedEntryLand k _ => tileOk k
  | .feedPoison k _ => tileOk k
  | .mxCommandStart k => tileOk k
  | .mxOwedPush k => tileOk k
  | .attnRowRead k => tileOk k
  | .mxCommandEnd k => tileOk k
  | .residueCheck k _ => tileOk k
  | .barrierTreeDisagree d t => dieOk d && decide (t < 2)
  | .continuationReady d i => dieOk d && decide (i < 65536)
  | .furrowBoundary d => dieOk d
  | .codeStaging d i => dieOk d && decide (i < 16384)
  | .stagingComplete d n => dieOk d && decide (n < 64)
  | .debugStop k _ n => tileOk k && decide (n ≤ 4)
  | .harrowWalkStart k => tileOk k
  | .harrowTileStart k => tileOk k
  | .invalidationArrival _ d => decide (d < 24)
  | .spill x => ctxOk x
  | .sensorSample d => dieOk d
  | .bandCoolHold d => dieOk d
  | .timingSetSwitch d => dieOk d
  | .attestationRequest x _ => ctxOk x
  | .spdmSessionOpen x => ctxOk x
  | .debugCommand x _ => ctxOk x
  | .debugResume x _ _ => ctxOk x
  | .contextAssign a => ctxOk a.ctx && a.clusters.all (fun p => dieOk p.1 && decide (p.2 < 16)) &&
    a.windows.all (fun p => decide (p.1 < 64))
  | .wintabWrite n _ _ => decide (n < 64)
  | .errstatRead k => coreOk k
  | .remotePartArrival r =>
    decide (r.drill < 24) && decide (r.window < 64) && decide (0 < r.bytes) && (!r.write || r.data.length == r.bytes)
  | .linkFlitReceive p _ => decide (p.port < 16)
  | .linkPortDown p => decide (p < 16)
  | .linkRekey p _ => decide (p.port < 16)
  | .hostRequestPerform k => coreOk k
  | .cxlSnoop p _ => decide (p < 2)
  | .serviceWatchdog k => coreOk k
  | .tailUpdate x r => ctxOk x && decide (r < 4)
  | .coalescingTimer x r => ctxOk x && decide (r < 4)
  | .fibreSetup k => coreOk k
  | .fibreTeardown k => coreOk k
  | .pagePool k => coreOk k
  | .recordWrite k => coreOk k
  | .gpWrite k => coreOk k
  | .go k => coreOk k
  | .invalidateByPage k => coreOk k
  | .invalidateByTenant k => coreOk k
  | .preEmpt k => coreOk k
  | .resume k => coreOk k
  | .teardown k => coreOk k
  | .compactionResume k => coreOk k
  | .poisonClear k => coreOk k
  | .configurationWrite k => coreOk k
  | .lock k => coreOk k
  | .drain k => coreOk k
  | .shutdown k => coreOk k
  | .ringSetup k => coreOk k
  | .unknownCommand k => coreOk k
  | .lockInterface x => ctxOk x
  | .getDeviceInterfaceReport x => ctxOk x
  | .startInterface x => ctxOk x
  | .stopInterface x => ctxOk x
  | .reservedEncoding w => isReserved w
  | .ximm .. | .xreg .. | .nfmt .. | .guard .. | .nop .. | .endStrand .. | .br .. | .jmp .. | .call .. | .ret ..
  | .jmpr .. | .jmpt .. | .loop .. | .brq .. | .pusho .. | .await .. | .chain .. | .trap .. | .restartpt ..
  | .fence .. | .mov .. | .movi .. | .ldc .. | .add .. | .sub .. | .addi .. | .mul .. | .mulh .. | .madd .. | .div ..
  | .rem .. | .and .. | .or .. | .xor .. | .andi .. | .shl .. | .shr .. | .sra .. | .shli .. | .shri .. | .srai ..
  | .rotl .. | .min .. | .max .. | .minu .. | .maxu .. | .clz .. | .popc .. | .ext .. | .ins .. | .cmpeq ..
  | .cmpne .. | .cmplt .. | .cmple .. | .cmpltu .. | .cmpleu .. | .plog .. | .pset .. | .pget .. | .pput .. | .ldb ..
  | .ldh .. | .ldw .. | .ldd .. | .ldv .. | .stb .. | .sth .. | .stw .. | .std .. | .stv .. | .wst .. | .wset ..
  | .wfeed .. | .zerof .. | .wstat .. | .cpy .. | .cpyw .. | .cpym .. | .cpyx .. | .hwalk .. | .hpermit ..
  | .lndset .. | .fld .. | .fst .. | .cstat .. | .cmov .. | .lease .. | .vadd .. | .vsub .. | .vmul .. | .vfma ..
  | .vmax .. | .vmin .. | .vcmp .. | .vsel .. | .vlogic .. | .vshift .. | .vcvt .. | .vred .. | .vscan .. | .vperm ..
  | .vbcast .. | .vext .. | .viota .. | .vexp2 .. | .vrcp .. | .vfkey .. | .mzero .. | .mma .. | .mmas ..
  | .cbload .. | .attn .. | .qrot .. | .fadd .. | .fsub .. | .fmul .. | .fma .. | .fdiv .. | .fsqrt .. | .fmin ..
  | .fmax .. | .fcmpeq .. | .fcmplt .. | .fcmple .. | .fcvt .. | .fclass .. | .divu .. | .remu .. | .vrsqrt ..
  | .vhist .. | .vtopk .. | .vsamp .. | .qstat .. | .arrive .. | .waitb .. | .gatom .. | .gcas .. | .gred ..
  | .futw .. | .futr .. | .salloc .. | .sfree .. | .signal .. | .tclaim .. | .tpatch .. | .tarm .. | .book ..
  | .calq .. | .unlease .. | .gparam .. | .gpset .. | .tfree .. | .fpush .. | .fret .. | .fshare .. | .fdrop ..
  | .fappend .. | .fcompact .. | .finfo .. | .beammap .. | .pfxlook .. | .pfxput .. | .pfxpin .. | .pfxunpin ..
  | .bhash .. | .cpyf .. | .sysrd .. | .syswr .. | .rett .. | .xprobe .. | .taskRetire .. | .barrierComplete ..
  | .homeUnitPerform .. | .futureWaiterWalk .. | .overrunCheck .. | .trapDelivery .. | .handlerArm ..
  | .copyPartSend .. | .pageWalk .. | .channelPerform .. | .visibilityWiden .. | .granuleLanding ..
  | .memberAccept .. | .copyComplete .. | .slotDrained .. | .cancellationDone .. | .fretRowMove ..
  | .compactionRowMove .. | .prefixLookup .. | .kvRebuildStart .. | .kvRebuildDone .. | .patrolScrub ..
  | .invalidationComplete .. | .dmaTimeoutAbort .. | .cut .. | .powerSample | .coolantLow | .soakDone
  | .trainingDone .. | .lockDistributed | .drainDone | .parkExit | .bootVerify | .hostImageLoad ..
  | .firmwareUpdate .. | .registerWrite .. | .messageDelivery .. | .linkPartTimeout .. | .powerOn | .portBRead .. => true

end Sys2Proof
end

