-- ==== Sys2Proof/Safety.lean ====
section
/-!
DEFINITION. Sys2Proof/Safety.lean: the terms that claims use: when a word executes normally, what of a state a word leaves
alone, when the memories are in canonical form, and what a safe run is.
-/
namespace Sys2Proof.Machine

/-- A step that goes on. -/
def State.goesOn (s : State) : Prop := ∃ t, step s = .next t

/-- A state that a run from `s` meets after some number of steps, none of which stopped. -/
inductive Reaches (s : State) : State → Prop where
  | here : Reaches s s
  | more (t u : State) : Reaches s t → step t = .next u → Reaches s u

/-- A safe run: no state that it meets stops with a fault or a refusal. -/
def State.safe (s : State) : Prop := ∀ t, Reaches s t → t.goesOn

/-- The word of marker `m` and form `f` with touched registers `uses` executes normally in the strand in focus: it is not
parked (R89), its prefixes are those its form accepts and its strand is allowed (R278), its guard is true or absent (R278),
no register it touches raises HAZARD in checked mode (R90), and an instruction that may not be provisional finds every
earlier verdict returned (R212). -/
def Env.runs (e : Env) (m : Bool) (f : Form) (commit : Bool) (uses : List Touch) : Bool :=
  (!m || e.r.out.isEmpty) && f.stage1 e.pl e.σ && !e.hazard (guardTouch e.pl) && !e.nullified &&
  (!commit || (e.t.strand e.σ).verdicts.isEmpty) && !e.hazard uses

/-- The state after a word of cost 1 whose checked result `f` is written at issue (R86, R88, R391). -/
def Env.wrote (e : Env) (f : Regs → Regs) : State := e.apply (e.shortChecked f)

/-- The state after a word of cost 1 that writes registers at issue without a check of arithmetic (R86, R88). -/
def Env.moved (e : Env) (f : Regs → Regs) : State := e.apply (e.short f)

/-- The state after a word of cost 1 with a checked result of latency `lat` outstanding (R86, R88, R391). -/
def Env.posted (e : Env) (lat : Nat) (v : ResVal) (flags : BitVec 5) : State := e.apply (e.laterChecked lat v flags)

/-- The state after a word of cost 1 with an unchecked result of latency `lat` outstanding (R86, R88). -/
def Env.sentLater (e : Env) (lat : Nat) (v : ResVal) : State := e.apply (e.later lat v)

/-- The state after the word in focus has retired with effect `s`, transferring where `jump` says, at a cost, with its
verdict due in a cycle (R86, R92, R212). -/
def Env.retired (e : Env) (s : State) (jump : Option (Word × Bool)) (cost : Nat) (due : Option Nat) : State :=
  e.apply (.done s jump cost due)

/-- Everything outside tile `k` is the same in both states, every field of the state among it, but for the counts of errors that
ERRSTAT holds (R269). -/
def SameElsewhere (k : Nat) (s t : State) : Prop :=
  (∀ j, j ≠ k → t.tile j = s.tile j) ∧ t = { s with tiles := t.tiles, errstat := t.errstat }

/-- The tile is the same in every field but its two strands, the residue checks under way (R391) and the POISON that its pipes have
met (R212): its memories, its registers, its queues and all that its strands share. -/
def SameTileMemory (x y : Tile) : Prop :=
  y = { x with a := y.a, e := y.e, checks := y.checks, poisonA := y.poisonA, poisonE := y.poisonE }

/-- The second tier, the host's memory and the second tiers of other modules are in canonical form. -/
def State.farCanonical (s : State) : Prop := Memory.wf s.tier ∧ Memory.wf s.host ∧ ∀ p ∈ s.remotes, Memory.wf p.2

/-- Every memory of the module is in canonical form. -/
def State.memoriesCanonical (s : State) : Prop :=
  s.farCanonical ∧
  (∀ p ∈ s.tiles, Memory.wf p.2.field.mem ∧ Memory.wf p.2.store.mem)

end Sys2Proof.Machine
end

