-- ==== Sys2Proof/Certificates/Slice0/Obligations.lean ====
section
/-!
DEFINITION. Sys2Proof/Certificates/Slice0/Obligations.lean: the statements for the provers, from the numbered rules of the
spec.
-/
open Sys2Proof Sys2Proof.Machine

/-! ## Words in general -/

/-- R89: a marked word is not issued while a result of its strand is outstanding; nothing changes.  Said of the issue that every
word is given to, and of one marked word of each shape: register, immediate, comparison, transfer, load, store, vector, END, and a
reserved word. -/
def Sys2Proof.markedWordParks : Prop :=
  ∀ (s : State) (e : Env) (d a : BitVec 4) (p : BitVec 3) (a5 : BitVec 5) (o : BitVec 8),
    s.focus = some e → e.r.out ≠ [] →
    (∀ bad f commit uses body, issueIf bad true f commit uses body s = .next s) ∧
    (∀ w : BitVec 16, w.getLsbD 15 = true → exec (.reservedEncoding w) s = .next s) ∧ exec (.vadd true d a) s = .next s ∧
    exec (.add true d a) s = .next s ∧ exec (.addi true d a) s = .next s ∧ exec (.cmpeq true p a5) s = .next s ∧
    exec (.jmp true o) s = .next s ∧ exec (.ldd true d a) s = .next s ∧ exec (.std true d a) s = .next s ∧
    exec (.mul true d a) s = .next s ∧ exec (.endStrand true) s = .next s ∧ exec (.fence true o) s = .next s

/-- R278: an instruction whose guard is false is nullified: it costs one cycle, clears PLATCH and does nothing else.  Said of the issue
that every word of a form is given to, and of five words. -/
def Sys2Proof.falseGuardNullifies : Prop :=
  ∀ (s : State) (e : Env) (m : Bool) (d a : BitVec 4) (o : BitVec 8),
    s.focus = some e → (m = true → e.r.out = []) → e.hazard (guardTouch e.pl) = false → e.nullified = true →
    (∀ f commit uses body, f.stage1 e.pl e.σ = true → issue m f commit uses body s = .next (s.retire e.k e.σ none 1 none)) ∧
    (formD.stage1 e.pl e.σ = true → exec (.add m d a) s = .next (s.retire e.k e.σ none 1 none)) ∧
    (formJ.stage1 e.pl e.σ = true → exec (.jmp m o) s = .next (s.retire e.k e.σ none 1 none)) ∧
    (formD2.aOnly.stage1 e.pl e.σ = true →
      exec (.ldd m d a) s = .next (s.retire e.k e.σ none 1 none) ∧ exec (.std m d a) s = .next (s.retire e.k e.σ none 1 none)) ∧
    (formZ.stage1 e.pl e.σ = true → exec (.nop m) s = .next (s.retire e.k e.σ none 1 none))

/-- R89, R278: a marked word parks while a result of its strand is outstanding, and a word with a false guard is nullified. -/
def Obligations.WordsThatDoNotRun : Prop := markedWordParks ∧ falseGuardNullifies

/-- R90: in checked mode a word that reads or writes a register with an outstanding result raises HAZARD, here ADD and MUL. -/
def Sys2Proof.checkedModeRaisesHazard : Prop :=
  ∀ (s : State) (e : Env) (m : Bool) (d a : BitVec 4) (x : Touch),
    s.focus = some e → (m = true → e.r.out = []) → formD.stage1 e.pl e.σ = true →
    e.hazard (guardTouch e.pl) = false → e.nullified = false → e.r.checked = true → e.r.outstanding x = true →
    x ∈ [tS (dNum e.pl d), tS (dSources e.pl d a).1, tS (dSources e.pl d a).2] →
    exec (.add m d a) s = .next (e.trap (trip codeHazard) e.now) ∧ exec (.mul m d a) s = .next (e.trap (trip codeHazard) e.now)

/-- R278, R279: a prefix that the instruction does not accept, a missing one that it requires, a wrong page or a wrong strand
raise ILLEGAL, here of ADD, MADD and LDD; so does a reserved encoding. -/
def Sys2Proof.wrongFormRaisesIllegal : Prop :=
  ∀ (s : State) (e : Env) (m : Bool) (d a : BitVec 4) (w : BitVec 16),
    s.focus = some e → (m = true → e.r.out = []) →
    (formD.stage1 e.pl e.σ = false → exec (.add m d a) s = .next (e.trap (trip codeIllegal) e.now)) ∧
    (formD3.stage1 e.pl e.σ = false → exec (.madd m d a) s = .next (e.trap (trip codeIllegal) e.now)) ∧
    (formD2.aOnly.stage1 e.pl e.σ = false → exec (.ldd m d a) s = .next (e.trap (trip codeIllegal) (e.now + 6))) ∧
    ((w.getLsbD 15 = true → e.r.out = []) → exec (.reservedEncoding w) s = .next (e.trap (trip codeIllegal) e.now))

/-- R90, R278, R279: HAZARD in checked mode, and ILLEGAL for a wrong form or a reserved word. -/
def Obligations.BadWordsTrap : Prop := checkedModeRaisesHazard ∧ wrongFormRaisesIllegal

/-- R85, R86, R92: a word that has issued, of whatever effect, clears PLATCH and PPV, and goes on at the next word after its cost
unless it is the last word of a loop's body. -/
def Obligations.RetiredWordGoesOn : Prop :=
  ∀ (s t : State) (e : Env) (cost : Nat) (due : Option Nat),
    s.focus = some e → (∀ x ∈ ((t.tile e.k).regs e.σ).loops, x.stop ≠ ((t.tile e.k).regs e.σ).pc) → t.cycle = s.cycle →
    let r := ((e.retired t none cost due).tile e.k).regs e.σ
    let x := (e.retired t none cost due).tile e.k |>.strand e.σ
    r.pc = ((t.tile e.k).regs e.σ).pc + 2#64 ∧ r.platch = 0#128 ∧ r.st.getLsbD 9 = false ∧ x.readyAt = s.cycle + cost ∧
    r.s = ((t.tile e.k).regs e.σ).s ∧ r.p = ((t.tile e.k).regs e.σ).p ∧ r.l = ((t.tile e.k).regs e.σ).l

/-- R85, R323: at the last word of the innermost body the loop goes on from its start with its register one lower while that
register is above 1, and is left with the register 0 otherwise; of nested bodies that end with the same word, the next is then checked in
the same cycle. -/
def Sys2Proof.loopGoesRound : Prop :=
  ∀ (r : Regs) (x : LoopEntry) (rest : List LoopEntry),
    r.loops = x :: rest → x.stop = r.pc → x.l < 8 →
    (1 < (r.lget x.l).toNat → (r.retire none).pc = x.start ∧ (r.retire none).lget x.l = r.lget x.l - 1#64 ∧
      (r.retire none).loops = x :: rest) ∧
    ((r.lget x.l).toNat ≤ 1 → (∀ y ∈ rest, y.stop ≠ r.pc) → (r.retire none).pc = r.pc + 2#64 ∧
      (r.retire none).lget x.l = 0#64 ∧ (r.retire none).loops = rest) ∧
    (∀ y more, rest = y :: more → y.stop = r.pc → y.l < 8 → y.l ≠ x.l → (r.lget x.l).toNat ≤ 1 →
      (1 < (r.lget y.l).toNat → (r.retire none).pc = y.start ∧ (r.retire none).lget x.l = 0#64 ∧
        (r.retire none).lget y.l = r.lget y.l - 1#64 ∧ (r.retire none).loops = y :: more) ∧
      ((r.lget y.l).toNat ≤ 1 → (∀ z ∈ more, z.stop ≠ r.pc) → (r.retire none).pc = r.pc + 2#64 ∧
        (r.retire none).lget x.l = 0#64 ∧ (r.retire none).lget y.l = 0#64 ∧ (r.retire none).loops = more))

/-- R275, R276, R317, R92: with fewer than four prefix words latched, a prefix word of a kind that does not stand yet, or up to the
fourth XIMM, is latched, costs one cycle, and the strand goes on at the next word; a fifth prefix word of any kind, a kind that
stands already, and a field outside its range raise ILLEGAL. -/
def Obligations.PrefixWordLatches : Prop :=
  ∀ (s : State) (e : Env) (imm : BitVec 8) (xd xa : Bool) (xb : BitVec 5) (g2 : BitVec 2) (q : BitVec 4) (c : BitVec 3) (b : Bool)
    (fa fb : BitVec 4) (g : BitVec 3) (n : Bool),
    s.focus = some e →
    let latched (p : BitVec 128) : State :=
      s.setTile e.k (e.t.setStrand e.σ { e.t.strand e.σ with regs := (e.t.strand e.σ).regs.latch p, readyAt := e.now + 1 })
    let illegal : State := e.trap (trip codeIllegal) e.now
    (plWords e.pl ≠ 4 → plXcount e.pl ≠ 4 → exec (.ximm imm) s = .next (latched (plAddXimm e.pl imm))) ∧
    (plWords e.pl ≠ 4 → plXreg e.pl = false →
      exec (.xreg xd xa xb) s = .next (latched (plAddXreg e.pl (BitVec.ofBool xd ++ BitVec.ofBool xa ++ xb)))) ∧
    (plWords e.pl ≠ 4 → plPage e.pl = 0 → g2 ≠ 0#2 → g2 ≠ 3#2 → exec (.page g2) s = .next (latched (plAddPage e.pl g2))) ∧
    (plWords e.pl ≠ 4 → plMemq e.pl = false → c.toNat ≤ 5 →
      exec (.memq q c b) s = .next (latched (plAddMemq e.pl (q ++ c ++ BitVec.ofBool b)))) ∧
    (plWords e.pl ≠ 4 → plNfmt e.pl = false → exec (.nfmt fa fb) s = .next (latched (plAddNfmt e.pl (fa ++ fb)))) ∧
    (plWords e.pl ≠ 4 → plGuard e.pl = false → exec (.guard g n) s = .next (latched (plAddGuard e.pl g n))) ∧
    (plWords e.pl = 4 ∨ plXcount e.pl = 4 → exec (.ximm imm) s = .next illegal) ∧
    (plWords e.pl = 4 ∨ plXreg e.pl = true → exec (.xreg xd xa xb) s = .next illegal) ∧
    (plWords e.pl = 4 ∨ plPage e.pl ≠ 0 ∨ g2 = 0#2 ∨ g2 = 3#2 → exec (.page g2) s = .next illegal) ∧
    (plWords e.pl = 4 ∨ plMemq e.pl = true ∨ 5 < c.toNat → exec (.memq q c b) s = .next illegal) ∧
    (plWords e.pl = 4 ∨ plNfmt e.pl = true → exec (.nfmt fa fb) s = .next illegal) ∧
    (plWords e.pl = 4 ∨ plGuard e.pl = true → exec (.guard g n) s = .next illegal)

/-! ## Integers, moves and predicates (R326–R336) -/

/-- R328: the two-operand integer instructions of latency 1. -/
def Sys2Proof.shortIntegers : Prop :=
  ∀ (s : State) (e : Env) (m : Bool) (d a : BitVec 4), s.focus = some e →
    e.runs m formD false [tS (dNum e.pl d), tS (dSources e.pl d a).1, tS (dSources e.pl d a).2] = true →
    let x := e.r.sget (dSources e.pl d a).1
    let y := e.r.sget (dSources e.pl d a).2
    let k := y.toNat % 64
    let to_ (v : Word) : State := e.wrote (·.sset (dNum e.pl d) v)
    exec (.add m d a) s = .next (to_ (x + y)) ∧ exec (.sub m d a) s = .next (to_ (x - y)) ∧
    exec (.and m d a) s = .next (to_ (x &&& y)) ∧ exec (.or m d a) s = .next (to_ (x ||| y)) ∧
    exec (.xor m d a) s = .next (to_ (x ^^^ y)) ∧ exec (.shl m d a) s = .next (to_ (x <<< k)) ∧
    exec (.shr m d a) s = .next (to_ (x >>> k)) ∧ exec (.sra m d a) s = .next (to_ (x.sshiftRight k)) ∧
    exec (.rotl m d a) s = .next (to_ (x.rotateLeft k)) ∧
    exec (.min m d a) s = .next (to_ (if x.toInt < y.toInt then x else y)) ∧
    exec (.max m d a) s = .next (to_ (if x.toInt < y.toInt then y else x)) ∧
    exec (.minu m d a) s = .next (to_ (if x.toNat < y.toNat then x else y)) ∧
    exec (.maxu m d a) s = .next (to_ (if x.toNat < y.toNat then y else x))

/-- R328, R331: multiplication, of latency 4, and division, of latency 20, with the corners of division by zero. -/
def Sys2Proof.productsAndQuotients : Prop :=
  ∀ (s : State) (e : Env) (m : Bool) (d a : BitVec 4), s.focus = some e →
    let u := [tS (dNum e.pl d), tS (dSources e.pl d a).1, tS (dSources e.pl d a).2]
    let x := e.r.sget (dSources e.pl d a).1
    let y := e.r.sget (dSources e.pl d a).2
    let at_ (lat : Nat) (v : Word) : State := e.posted lat (.s (dNum e.pl d) v) 0#5
    (e.runs m formD false u = true →
      exec (.mul m d a) s = .next (at_ 4 (BitVec.ofInt 64 (x.toInt * y.toInt))) ∧
      exec (.mulh m d a) s = .next (at_ 4 (BitVec.ofInt 64 (x.toInt * y.toInt / 2 ^ 64))) ∧
      exec (.div m d a) s = .next (at_ 20 (if y = 0#64 then BitVec.allOnes 64 else BitVec.ofInt 64 (x.toInt.tdiv y.toInt))) ∧
      exec (.rem m d a) s = .next (at_ 20 (if y = 0#64 then x else BitVec.ofInt 64 (x.toInt.tmod y.toInt)))) ∧
    (e.runs m formD.page1 false u = true →
      exec (.divu m d a) s = .next (at_ 20 (if y = 0#64 then BitVec.allOnes 64 else BitVec.ofNat 64 (x.toNat / y.toNat))) ∧
      exec (.remu m d a) s = .next (at_ 20 (if y = 0#64 then x else BitVec.ofNat 64 (x.toNat % y.toNat))))

/-- R328, R331: the two-operand integer instructions, with the corners of division. -/
def Obligations.IntegerResults : Prop := shortIntegers ∧ productsAndQuotients

/-- R326, R329, R330, R332, R333: moves, immediates, MADD, counts and bit fields. -/
def Sys2Proof.registerMoves : Prop :=
  ∀ (s : State) (e : Env) (m : Bool) (d a imm : BitVec 4), s.focus = some e →
    let i := immS e.pl 4 imm.toNat
    let k := immU e.pl 4 imm.toNat % 2 ^ 64 % 64
    let z := e.r.sget (dNum e.pl d)
    let x := e.r.sget (aNum e.pl a)
    let y := e.r.sget (bNum e.pl)
    let to_ (v : Word) : State := e.wrote (·.sset (dNum e.pl d) v)
    (e.runs m formD2 false [tS (dNum e.pl d), tS (aNum e.pl a)] = true →
      exec (.mov m d a) s = .next (e.moved (·.sset (dNum e.pl d) x)) ∧
      exec (.clz m d a) s = .next (to_ (leadingZeros x)) ∧ exec (.popc m d a) s = .next (to_ (onesCount x))) ∧
    (e.runs m (formI 4) false [tS (dNum e.pl d)] = true →
      exec (.movi m d imm) s = .next (e.moved (·.sset (dNum e.pl d) i)) ∧
      exec (.addi m d imm) s = .next (to_ (z + i)) ∧ exec (.andi m d imm) s = .next (to_ (z &&& i))) ∧
    (e.runs m formI63 false [tS (dNum e.pl d)] = true →
      exec (.shli m d imm) s = .next (to_ (z <<< k)) ∧ exec (.shri m d imm) s = .next (to_ (z >>> k)) ∧
      exec (.srai m d imm) s = .next (to_ (z.sshiftRight k))) ∧
    (e.runs m formD3 false [tS (dNum e.pl d), tS (aNum e.pl a), tS (bNum e.pl)] = true →
      exec (.madd m d a) s = .next (e.posted 4 (.s (dNum e.pl d) (z + x * y)) 0#5) ∧
      (fieldPos y + fieldLen y ≤ 64 →
        exec (.ext m d a) s = .next (to_ ((x &&& fieldMask y) >>> fieldPos y)) ∧
        exec (.ins m d a) s = .next (to_ ((z &&& ~~~(fieldMask y)) ||| ((x <<< fieldPos y) &&& fieldMask y)))) ∧
      (64 < fieldPos y + fieldLen y →
        exec (.ext m d a) s = .next (e.trap (trip codeIllegal) e.now) ∧
        exec (.ins m d a) s = .next (e.trap (trip codeIllegal) e.now)))

/-- R327: LDC's literal, its alignment and its code range. -/
def Sys2Proof.literalLoads : Prop :=
  ∀ (s : State) (e : Env) (m : Bool) (d imm : BitVec 4), s.focus = some e →
    e.runs m (formI 4) false [tS (dNum e.pl d)] = true →
    let la := (addrNext e.r).toNat + 2 * immU e.pl 4 imm.toNat
    (la % 8 = 0 → e.run.codeBase ≤ la → la + 8 ≤ e.run.codeBase + e.run.codeLen →
      exec (.ldc m d imm) s = .next (e.sentLater 3 (.s (dNum e.pl d) (e.t.code64 la)))) ∧
    (la % 8 ≠ 0 → exec (.ldc m d imm) s = .next (e.trap (trip codeIllegal) e.now)) ∧
    (la % 8 = 0 → la < e.run.codeBase ∨ e.run.codeBase + e.run.codeLen < la + 8 →
      exec (.ldc m d imm) s = .next (e.trap (tripAt codeCodeRange la) e.now))

/-- R326, R327, R329, R330, R332, R333: moves, immediates, literals, MADD, counts and bit fields. -/
def Obligations.MovesAndImmediates : Prop := registerMoves ∧ literalLoads

/-- R334, R335, R336: comparisons, predicate logic, and the queue counts, which a QSTAT takes when both strands have issued. -/
def Sys2Proof.comparisons : Prop :=
  ∀ (s : State) (e : Env) (m : Bool) (p q : BitVec 3) (a5 : BitVec 5) (o : BitVec 2) (v : Bool) (d a : BitVec 4),
    s.focus = some e →
    let x := e.r.sget a5.toNat
    let y := if plXreg e.pl then e.r.sget (bNum e.pl) else 0#64
    let set (b : Bool) : State := e.wrote (·.pset p.toNat b)
    (e.runs m formC false ([tP p.toNat, tS a5.toNat] ++ (if plXreg e.pl then [tS (bNum e.pl)] else [])) = true →
      exec (.cmpeq m p a5) s = .next (set (decide (x = y))) ∧ exec (.cmpne m p a5) s = .next (set (decide (x ≠ y))) ∧
      exec (.cmplt m p a5) s = .next (set (decide (x.toInt < y.toInt))) ∧
      exec (.cmple m p a5) s = .next (set (decide (x.toInt ≤ y.toInt))) ∧
      exec (.cmpltu m p a5) s = .next (set (decide (x.toNat < y.toNat))) ∧
      exec (.cmpleu m p a5) s = .next (set (decide (x.toNat ≤ y.toNat)))) ∧
    (e.runs m formZ false [tP p.toNat, tP q.toNat] = true →
      exec (.plog m p q o) s = .next (set (plogOp o (e.r.pget p.toNat) (e.r.pget q.toNat)))) ∧
    (e.runs m formZ false [tP p.toNat] = true → exec (.pset m p v) s = .next (e.moved (·.pset p.toNat v))) ∧
    (e.runs m formDd false (tS (dNum e.pl d) :: allPreds) = true →
      exec (.pget m d) s = .next (e.moved (·.sset (dNum e.pl d) ((e.r.p ||| 1#8).setWidth 64)))) ∧
    (e.runs m formDa false (tS (aNum e.pl a) :: allPreds.drop 1) = true →
      exec (.pput m a) s = .next (e.moved fun r => { r with p := (e.r.sget (aNum e.pl a)).setWidth 8 &&& 0xFE#8 })) ∧
    (e.runs m { formZ with page := 1 } false [tS d.toNat] = true →
      exec (.qstat m d) s = .next (e.sentLater 2 (.counts d.toNat))) ∧
    (∀ (t : Tile) (σ : Side) (f : BitVec 5) (c : Nat), (t.regs σ).out = [{ due := some c, cmd := 0, val := .counts d.toNat, flags := f }] →
      ((t.takeCounts e.now).regs σ).out = [{ due := some c, cmd := 0, val := .s d.toNat (t.queueCounts e.now), flags := f }])

/-- R11: p0 reads as true whatever is written to it, and writing it changes nothing. -/
def Sys2Proof.predicateZeroIsTrue : Prop :=
  ∀ (s : State) (e : Env) (m v : Bool) (t : State), s.focus = some e →
    exec (.pset m 0#3 v) s = .next t →
    ((t.tile e.k).regs e.σ).pget 0 = true ∧ ((t.tile e.k).regs e.σ).p = e.r.p

/-- R11, R334, R335, R336: comparisons, predicate logic, the queue counts, and p0, which reads as true and discards writes. -/
def Obligations.PredicateResults : Prop := comparisons ∧ predicateZeroIsTrue

/-! ## Transfers, loops, outcome queues, the end of a strand (R318–R325, R369) -/

/-- R318–R322, R85: where each transfer goes. -/
def Obligations.TransferTargets : Prop :=
  ∀ (s : State) (e : Env) (m n : Bool) (p : BitVec 3) (o4 a : BitVec 4) (o8 : BitVec 8), s.focus = some e →
    let to_ (w : Word) (cost : Nat) : State := e.retired s (some (w, true)) cost none
    let on : State := e.retired s none 1 none
    (e.runs m formZ false [] = true → exec (.nop m) s = .next on) ∧
    (e.runs m formJ false [tP p.toNat] = true →
      exec (.br m p n o4) s = .next (if e.r.pget p.toNat = n then on
        else to_ (e.r.pc + 2#64 + 2#64 * immS e.pl 4 o4.toNat) 1)) ∧
    (e.runs m formJ false [] = true →
      exec (.jmp m o8) s = .next (to_ (e.r.pc + 2#64 + 2#64 * immS e.pl 8 o8.toNat) 1)) ∧
    (e.runs m formJ false [tS 31] = true →
      exec (.call m o8) s = .next (e.retired (e.regs (·.sset 31 (e.r.pc + 2#64)))
        (some (e.r.pc + 2#64 + 2#64 * immS e.pl 8 o8.toNat, false)) 1 none)) ∧
    (e.runs m formZ false [tS 31] = true →
      exec (.ret m) s = .next (if (e.r.sget 31).getLsbD 0 then e.trap (trip codeIllegal) e.now else to_ (e.r.sget 31) 6)) ∧
    (e.runs m formDa false [tS (aNum e.pl a)] = true →
      exec (.jmpr m a) s = .next (if (e.r.sget (aNum e.pl a)).getLsbD 0 then e.trap (trip codeIllegal) e.now
        else to_ (e.r.sget (aNum e.pl a)) 6))

/-- R226: JMPT goes to the entry of its table that the index selects, the last one standing for every index past it; its
table read is a port-A read of two bytes, whose failing check traps, as do a granule that cannot be rebuilt and an odd entry; its next word
issues with its verdict, six cycles after issue. -/
def Obligations.TableTransfer : Prop :=
  ∀ (s : State) (e : Env) (m : Bool) (d a : BitVec 4), s.focus = some e →
    e.runs m formD3 false [tS (dNum e.pl d), tS (aNum e.pl a), tS (bNum e.pl)] = true →
    let i := (e.r.sget (dNum e.pl d)).toNat
    let t := e.r.sget (aNum e.pl a)
    let n := (e.r.sget (bNum e.pl)).toNat
    let f := wbits t 0 22 + 2 * min i n
    let v := e.t.fieldRead (e.σ == .a) (e.now + 1) f 2
    let read : State := (s.repair e.k f 2).modTile e.k fun x => { x with jmptAt := some (e.now + 1, banksOf f 2) }
    (t.getLsbD 0 = false → n ≤ 32767 → portACheck e.t e.run f 2 2 = none → e.t.isDead f 2 = false → v % 2 = 0 →
      exec (.jmpt m d a) s = .next (e.retired read
        (some (w64 (e.run.codeBase + v), true)) 6 (some (e.now + 6)))) ∧
    (∀ x, t.getLsbD 0 = false → n ≤ 32767 → portACheck e.t e.run f 2 2 = some x →
      exec (.jmpt m d a) s = .next (e.trapStay s x (e.now + 6))) ∧
    (t.getLsbD 0 = false → n ≤ 32767 → portACheck e.t e.run f 2 2 = none → e.t.isDead f 2 = true →
      exec (.jmpt m d a) s = .next (e.trapStay read (tripAt codePoison (e.t.deadAt f 2)) (e.now + 6))) ∧
    (t.getLsbD 0 = false → n ≤ 32767 → portACheck e.t e.run f 2 2 = none → e.t.isDead f 2 = false → v % 2 = 1 →
      exec (.jmpt m d a) s = .next (e.trapStay read (trip codeIllegal) (e.now + 6))) ∧
    (t.getLsbD 0 = true ∨ 32767 < n → exec (.jmpt m d a) s = .next (e.trapStay s (trip codeIllegal) (e.now + 6)))

/-- R323: LOOP enters its body, or skips it when its register is 0; a fifth nested loop and a body that ends in a prefix word
are ILLEGAL. -/
def Sys2Proof.loopEnters : Prop :=
  ∀ (s : State) (e : Env) (m : Bool) (l : BitVec 3) (o : BitVec 5), s.focus = some e →
    e.runs m { formJ with guard := false } false [] = true →
    let stop := e.r.pc + 2#64 + 2#64 * w64 (immU e.pl 5 o.toNat)
    let bad := e.run.inCode stop.toNat 2 && isPrefixWord (e.t.codeWord stop.toNat)
    (bad = true → exec (.loop m l o) s = .next (e.trap (trip codeIllegal) e.now)) ∧
    (bad = false → e.r.lget l.toNat = 0#64 →
      exec (.loop m l o) s = .next (e.retired s (some (stop + 2#64, false)) 1 none)) ∧
    (bad = false → e.r.lget l.toNat ≠ 0#64 → e.r.loops.length < 4 →
      exec (.loop m l o) s = .next (e.retired
        (e.regs fun r => { r with loops := { start := e.r.pc + 2#64, stop := stop, l := l.toNat } :: r.loops })
        (some (e.r.pc + 2#64, false)) 1 none)) ∧
    (bad = false → e.r.lget l.toNat ≠ 0#64 → e.r.loops.length = 4 →
      exec (.loop m l o) s = .next (e.trap (trip codeIllegal) e.now))

/-- R85, R323: LOOP enters or skips its body, and the last word of a body goes round or leaves. -/
def Obligations.Loops : Prop := loopEnters ∧ loopGoesRound

/-- R78, R79, R324: PUSHO appends its predicate to the strand's outcome queue, and waits while 16 entries are taken; BRQ pops
the other strand's oldest and branches on it, and waits while there is none. -/
def Obligations.OutcomeQueues : Prop :=
  ∀ (s : State) (e : Env) (m n : Bool) (p : BitVec 3) (o : BitVec 7), s.focus = some e →
    (e.runs m formZ true [tP p.toNat] = true →
      ((e.t.outQ e.σ).used e.now < 16 → exec (.pusho m p) s = .next (e.retired
        (s.setTile e.k (e.t.setOutQ e.σ ((e.t.outQ e.σ).push (e.r.pget p.toNat) e.now))) none 1 none)) ∧
      (16 ≤ (e.t.outQ e.σ).used e.now → exec (.pusho m p) s = .next s)) ∧
    (e.runs m formJ true [] = true →
      ((e.t.inQ e.σ).head e.now = none → exec (.brq m n o) s = .next s) ∧
      (∀ b, (e.t.inQ e.σ).head e.now = some b →
        exec (.brq m n o) s = .next (e.retired (s.setTile e.k (e.t.setInQ e.σ ((e.t.inQ e.σ).pop e.now)))
          (if b = n then none else some (e.r.pc + 2#64 + 2#64 * immS e.pl 7 o.toNat, true)) 1 none)))

/-- R325, R210, R211: TRAP takes trap 0x30 with its immediate as the subcode: the strand stops, its prefix words are gone, and
it resumes at the word after TRAP. -/
def Obligations.TrapIsTaken : Prop :=
  ∀ (s : State) (e : Env) (m : Bool) (imm : BitVec 8), s.focus = some e → e.runs m formZ true [] = true →
    let i : TrapInfo := { code := 0x30#8, sub := imm, pc := e.r.runPc, addr := 0#64, kind := 0#4, resume := e.r.pc + 2#64,
                          sync := true, atRestart := false, debug := false }
    exec (.trap m imm) s = .next (s.setTile e.k (e.t.takeTrap e.σ i)) ∧
    ((e.t.takeTrap e.σ i).strand e.σ).phase = .trapped i ∧ ((e.t.takeTrap e.σ i).regs e.σ).pc = e.r.pc + 2#64 ∧
    ((e.t.takeTrap e.σ i).regs e.σ).platch = 0#128 ∧ (e.t.takeTrap e.σ i).strand (sideOther e.σ) = e.t.strand (sideOther e.σ)

/-- R75, R76, R289, R319: END ends its strand, which resumes at the word after; the second strand to end raises QUEUE-RESIDUE if a queue,
port or feed of the tile is not empty. -/
def Obligations.StrandEnds : Prop :=
  ∀ (s : State) (e : Env) (m : Bool), s.focus = some e → e.runs m formBare true [] = true →
    (s.sideEnded e.k (sideOther e.σ) = false ∨ e.t.hasResidue = false →
      exec (.endStrand m) s = .next (e.retired
        (s.modTile e.k fun t => t.setStrand e.σ { t.strand e.σ with phase := .ended false })
        (some (e.r.pc + 2#64, false)) 1 none)) ∧
    (s.sideEnded e.k (sideOther e.σ) = true → e.t.hasResidue = true →
      exec (.endStrand m) s = .next (e.trap (trip codeResidue) e.now))

/-- R369, R150: ARRIVE sets its member's flag and WAITB waits for it to clear; a task that books no barrier raises BOOK-SHAPE,
and a second ARRIVE in an episode ILLEGAL. -/
def Sys2Proof.barrierWords : Prop :=
  ∀ (s : State) (e : Env) (m : Bool), s.focus = some e → e.runs m formZ1 true [] = true →
    let arrived := s.setTile e.k { e.t with arrived := true }
    (e.run.mask.getLsbD 12 = false →
      exec (.arrive m) s = .next (e.trap (trip codeBookShape) e.now) ∧
      exec (.waitb m) s = .next (e.trap (trip codeBookShape) e.now)) ∧
    (e.run.mask.getLsbD 12 = true →
      (e.t.arrived = true → exec (.arrive m) s = .next (e.trap (trip codeIllegal) e.now)) ∧
      (e.t.arrived = false → (∃ j ∈ e.run.members, (arrived.tile j).arrived = false) →
        exec (.arrive m) s = .next (e.retired arrived none 1 none)) ∧
      (∀ r, e.t.run = some r → e.t.arrived = false → (∀ j ∈ e.run.members, (arrived.tile j).arrived = true) →
        exec (.arrive m) s = .next (e.retired (arrived.modRun r fun x => { x with barrier := some (e.now + 12) }) none 1 none)) ∧
      exec (.waitb m) s = .next (e.retired
        (s.setTile e.k (e.t.setStrand e.σ { e.t.strand e.σ with waitb := e.t.arrived })) none 1 none))

/-- R221, R361, R362: a RESTARTPT waits for its partner's; with the partner waiting at the same index, a literal in the code
range and nothing in the queues or the MX, both complete and the tile has a restart point. -/
def Sys2Proof.restartPoints : Prop :=
  ∀ (s : State) (e : Env) (m : Bool) (imm : BitVec 8), s.focus = some e → e.runs true formBare true [] = true →
    (e.σ = .e → e.t.mx.idle = true) → (e.t.strand (sideOther e.σ)).hasEnded = false →
    ((e.t.strand (sideOther e.σ)).restart = none →
      exec (.restartpt m imm) s = .next
        (s.setTile e.k (e.t.setStrand e.σ { e.t.strand e.σ with restart := some imm.toNat }))) ∧
    ((e.t.strand (sideOther e.σ)).restart = some imm.toNat → e.run.inCode (e.run.codeBase + 8 * imm.toNat) 8 = true →
      popcount (e.t.code64 (e.run.codeBase + 8 * imm.toNat)).toNat 64 ≤ 16 → e.t.hasResidue = false → e.t.mx.idle = true →
      exec (.restartpt m imm) s = .next
        (((s.setTile e.k { e.t with point := some (e.t.restartPoint (e.t.code64 (e.run.codeBase + 8 * imm.toNat)) s.seq) }).retire
          e.k .a none 1 none).retire e.k .e none 1 none))


/-- R369, R150, R221, R361, R362: ARRIVE, WAITB and RESTARTPT. -/
def Obligations.BarriersAndRestartPoints : Prop := barrierWords ∧ restartPoints
/-! ## Field memory (R290–R300, R309, R313–R315) -/

/-- R290, R292: a load of `n` bytes through port A: its value is the field store as the A-core sees it, 14 cycles later; its
checks, an uncorrectable granule last, trap in the verdict cycle, six cycles after issue; the strand goes on until then, the load's result
outstanding as if they had passed. -/
def Sys2Proof.loadsBytes (n : Nat) (i : Bool → BitVec 4 → BitVec 4 → Instr) : Prop :=
  ∀ (s : State) (e : Env) (m : Bool) (d a : BitVec 4), s.focus = some e → e.pipeTaken = false →
    e.runs m formD2.aOnly false [tS (dNum e.pl d), tS (aNum e.pl a)] = true →
    let f := (e.r.sget (aNum e.pl a)).toNat % 2 ^ 22
    let trapsLater (x : Trip) : State := e.apply (.trapHeld
      (s.modTile e.k fun t => t.modRegs e.σ (·.post (e.now + 14) (.s (dNum e.pl d) 0#64))) x (e.now + 6) none)
    (portACheck e.t e.run f n n = none → e.t.isDead f n = false →
      exec (i m d a) s = .next (e.retired
        ((s.repair e.k f n).modTile e.k fun t => (t.useBanks e.now (banksOf f n) false).modRegs e.σ
          (·.post (e.now + 14) (.s (dNum e.pl d) (BitVec.ofNat 64 (e.t.fieldRead true e.now f n))))) none 1 (some (e.now + 6)))) ∧
    (portACheck e.t e.run f n n = none → e.t.isDead f n = true →
      exec (i m d a) s = .next (trapsLater (tripAt codePoison (e.t.deadAt f n)))) ∧
    (∀ x, portACheck e.t e.run f n n = some x → exec (i m d a) s = .next (trapsLater x))

def Obligations.ScalarLoads : Prop :=
  loadsBytes 1 .ldb ∧ loadsBytes 2 .ldh ∧ loadsBytes 4 .ldw ∧ loadsBytes 8 .ldd

/-- R290, R293, R62: a store of the low `n` bytes of s[d] enters the store buffer, merged into the newest entry for its granule
or in one of its own; it waits for room, and commits with the verdicts before it. -/
def Sys2Proof.storesBytes (n : Nat) (i : Bool → BitVec 4 → BitVec 4 → Instr) : Prop :=
  ∀ (s : State) (e : Env) (m : Bool) (d a : BitVec 4), s.focus = some e → e.pipeTaken = false →
    e.runs m formD2.aOnly false [tS (dNum e.pl d), tS (aNum e.pl a)] = true →
    let f := (e.r.sget (aNum e.pl a)).toNat % 2 ^ 22
    let v := (e.r.sget (dNum e.pl d)).toNat
    let at_ := e.storeTime (e.now + 6)
    (portACheck e.t e.run f n n = none → e.t.sbMergeable (f / 32) = true →
      exec (i m d a) s = .next (e.retired
        (s.modTile e.k fun t => (t.useBanks e.now (banksOf f n) true).sbNarrow f n v at_) none 1 (some (e.now + 6)))) ∧
    (portACheck e.t e.run f n n = none → e.t.sbMergeable (f / 32) = false → e.t.isDead f n = false → e.t.sb.length < 16 →
      exec (i m d a) s = .next (e.retired
        ((s.repair e.k f n).modTile e.k fun t => (t.useBanks e.now (banksOf f n) false).sbNarrow f n v at_)
        none 1 (some (e.now + 6)))) ∧
    (portACheck e.t e.run f n n = none → e.t.sbMergeable (f / 32) = false → e.t.isDead f n = false → 16 ≤ e.t.sb.length →
      exec (i m d a) s = .next s) ∧
    (portACheck e.t e.run f n n = none → e.t.sbMergeable (f / 32) = false → e.t.isDead f n = true →
      exec (i m d a) s = .next (e.trap (tripAt codePoison (e.t.deadAt f n)) (e.now + 6))) ∧
    (∀ x, portACheck e.t e.run f n n = some x → exec (i m d a) s = .next (e.trap x (e.now + 6)))

def Obligations.ScalarStores : Prop :=
  storesBytes 1 .stb ∧ storesBytes 2 .sth ∧ storesBytes 4 .stw ∧ storesBytes 8 .std

/-- R290: the checks of a port-A access, in their order: alignment, key, range and booked groups, bytes in flight. -/
def Obligations.PortAChecksInOrder : Prop :=
  ∀ (t : Tile) (r : Run) (f n al : Nat),
    (f % al ≠ 0 → portACheck t r f n al = some (trip codeIllegal)) ∧
    (f % al = 0 → t.keyOk = false → portACheck t r f n al = some (trip codeSecurity)) ∧
    (f % al = 0 → t.keyOk = true → (t.inRange r f n = false ∨ r.groupsBooked f n = false) →
      portACheck t r f n al = some (tripAt codeFieldRange f)) ∧
    (f % al = 0 → t.keyOk = true → t.inRange r f n = true → r.groupsBooked f n = true → t.inFlight f n = true →
      portACheck t r f n al = some (tripAt codeEarlyTouch f)) ∧
    (f % al = 0 → t.keyOk = true → t.inRange r f n = true → r.groupsBooked f n = true → t.inFlight f n = false →
      portACheck t r f n al = none)

/-- R294, R295, R79: LDV reserves an entry of its load queue that is filled 14 cycles after issue, and waits for room; where its checks fail the
entry stands until the verdict, six cycles after issue.  STV stores the oldest row of its store queue as eight entries of the store buffer; it
waits for a row and for eight free entries, and a failing check traps at once. -/
def Obligations.RowLoadsAndStores : Prop :=
  ∀ (s : State) (e : Env) (m : Bool) (q : BitVec 2) (b : Bool) (a : BitVec 4), s.focus = some e → e.pipeTaken = false →
    let f := (e.r.sget a.toNat).toNat % 2 ^ 22
    (e.runs m formZ.aOnly false [tS a.toNat] = true →
      ((e.t.lqget q.toNat).room e.now = false → exec (.ldv m q a) s = .next s) ∧
      ((e.t.lqget q.toNat).room e.now = true → portACheck e.t e.run f 256 256 = none → e.t.isDead f 256 = false →
        exec (.ldv m q a) s = .next (e.retired
          ((s.repair e.k f 256).modTile e.k fun t =>
            (t.useBanks e.now (banksOf f 256) false).lqPush q.toNat (e.now + 14) (e.t.fieldRead true e.now f 256))
          none 1 (some (e.now + 6)))) ∧
      (∀ x, (e.t.lqget q.toNat).room e.now = true →
        portACheck e.t e.run f 256 256 = some x ∨
          (portACheck e.t e.run f 256 256 = none ∧ e.t.isDead f 256 = true ∧ x = tripAt codePoison (e.t.deadAt f 256)) →
        exec (.ldv m q a) s = .next (e.apply (.trapHeld (s.modTile e.k (·.lqPush q.toNat (e.now + 14) 0)) x (e.now + 6) none)))) ∧
    (e.runs m formZ.aOnly true [tS a.toNat] = true →
      ((e.t.sqget (b2n b)).ready 1 = false → exec (.stv m b a) s = .next s) ∧
      ((e.t.sqget (b2n b)).ready 1 = true → portACheck e.t e.run f 256 256 = none → 16 < e.t.sb.length + 8 →
        exec (.stv m b a) s = .next s) ∧
      (∀ x, (e.t.sqget (b2n b)).ready 1 = true → portACheck e.t e.run f 256 256 = some x →
        exec (.stv m b a) s = .next (e.trap x e.now)) ∧
      ((e.t.sqget (b2n b)).ready 1 = true → portACheck e.t e.run f 256 256 = none → e.t.sb.length + 8 ≤ 16 →
        exec (.stv m b a) s = .next (e.retired
          (s.modTile e.k fun t => ((t.useBanks e.now (banksOf f 256) true).sqset (b2n b) ((e.t.sqget (b2n b)).drop 1 e.now)).sbWhole
            f 256 (e.t.sqHead (b2n b)).toNat { since := e.now, commit := e.now }) none 1 none)))

/-- R296, R392: ZEROF writes zeros over s[d] bytes from its address, a row's part a cycle, and retires with the last; it holds its strand
before a row for which the store buffer has no room; zero bytes do nothing; a size that is no multiple of 32, or above 4 MiB, is ILLEGAL; the
checks are made once, at issue. -/
def Obligations.ZeroFill : Prop :=
  ∀ (s : State) (e : Env) (m : Bool) (d a : BitVec 4), s.focus = some e → e.pipeTaken = false →
    let zeros (f n : Nat) : State := s.modTile e.k fun t =>
      (t.useBanks e.now (banksOf f n) true).sbWhole f n 0 (e.storeTime e.now)
    let rowEnd (f : Nat) : Nat := 256 * (f / 256) + 256
    let held (s : State) (f stop : Nat) : State := s.modTile e.k fun t => t.setStrand e.σ { t.strand e.σ with zerof := some (f, stop) }
    ((e.t.strand e.σ).zerof = none → e.runs m formD2.aOnly false [tS (dNum e.pl d), tS (aNum e.pl a)] = true →
      let f := (e.r.sget (aNum e.pl a)).toNat % 2 ^ 22
      let n := (e.r.sget (dNum e.pl d)).toNat
      (n % 32 ≠ 0 ∨ 0x400000 < n → exec (.zerof m d a) s = .next (e.trap (trip codeIllegal) e.now)) ∧
      (∀ x, n % 32 = 0 → 0 < n → n ≤ 0x400000 → portACheck e.t e.run f n 32 = some x →
        exec (.zerof m d a) s = .next (e.trap x e.now)) ∧
      (n % 32 = 0 → 0 < n → n ≤ 0x400000 → portACheck e.t e.run f n 32 = none →
        16 < e.t.sb.length + (min (f + n) (rowEnd f) - f) / 32 → exec (.zerof m d a) s = .next (held s f (f + n))) ∧
      (n = 0 → exec (.zerof m d a) s = .next (e.retired s none 1 none)) ∧
      (n % 32 = 0 → 0 < n → n ≤ 0x400000 → portACheck e.t e.run f n 32 = none → f + n ≤ rowEnd f →
        e.t.sb.length + n / 32 ≤ 16 → exec (.zerof m d a) s = .next (e.retired (zeros f n) none 1 none)) ∧
      (n % 32 = 0 → n ≤ 0x400000 → portACheck e.t e.run f n 32 = none → rowEnd f < f + n →
        e.t.sb.length + (rowEnd f - f) / 32 ≤ 16 →
        exec (.zerof m d a) s = .next (held (zeros f (rowEnd f - f)) (rowEnd f) (f + n)))) ∧
    (∀ f stop, (e.t.strand e.σ).zerof = some (f, stop) →
      (16 < e.t.sb.length + (min stop (rowEnd f) - f) / 32 → exec (.zerof m d a) s = .next (held s f stop)) ∧
      (rowEnd f < stop → e.t.sb.length + (rowEnd f - f) / 32 ≤ 16 →
        exec (.zerof m d a) s = .next (held (zeros f (rowEnd f - f)) (rowEnd f) stop)) ∧
      (stop ≤ rowEnd f → e.t.sb.length + (stop - f) / 32 ≤ 16 →
        exec (.zerof m d a) s = .next (e.retired (zeros f (stop - f)) none 1 none)))

/-- R82, R83, R297–R300: WSET sets a walker from its descriptor, WLD and WST access through one and advance it, WFEED starts a
feed of a port, WSTAT reads the indices. -/
def Obligations.WalkerWords : Prop :=
  ∀ (s : State) (e : Env) (m b : Bool) (w k : BitVec 3) (q : BitVec 2) (a : BitVec 4), s.focus = some e → e.pipeTaken = false →
    let f := (e.r.sget a.toNat).toNat % 2 ^ 22
    (∀ x, e.runs m formZ.aOnly false [.w w.toNat, tS a.toNat] = true → e.t.feedUses w.toNat = false →
      portACheck e.t e.run f 64 64 = none → e.t.isDead f 64 = false →
      Walker.ofWords (wordAt (e.t.fieldRead true e.now f 64)) = some x →
      exec (.wset m w a) s = .next (e.retired ((s.repair e.k f 64).modTile e.k fun t =>
        (t.useBanks e.now (banksOf f 64) false).modRegs e.σ (·.post (e.now + 14) (.w w.toNat x))) none 1 (some (e.now + 14)))) ∧
    (∀ x, e.t.wget w.toNat = some x → e.t.feedUses w.toNat = false →
      (e.runs m formZ.aOnly false (walkTouch e w.toNat) = true → k.toNat < 4 → (e.t.lqget q.toNat).room e.now = true →
        walkCheck e.t e.run x.addr (32 <<< k.toNat) = none → e.t.isDead x.addr.toNat (32 <<< k.toNat) = false →
        exec (.wld m q w k) s = .next (e.retired ((s.repair e.k x.addr.toNat (32 <<< k.toNat)).modTile e.k fun t =>
          e.walkStep w.toNat x ((t.useBanks e.now (banksOf x.addr.toNat (32 <<< k.toNat)) false).lqPush q.toNat (e.now + 14)
            (e.t.fieldRead true e.now x.addr.toNat (32 <<< k.toNat)))) none 1 (some (e.now + 6)))) ∧
      (e.runs m formZ.aOnly true (walkTouch e w.toNat) = true → (e.t.sqget (b2n b)).ready 1 = true →
        walkCheck e.t e.run x.addr 256 = none → e.t.sb.length + 8 ≤ 16 →
        exec (.wst m b w) s = .next (e.retired
          (s.modTile e.k fun t => e.walkStep w.toNat x (e.storeRow (b2n b) x.addr.toNat t)) none 1 none)) ∧
      (e.runs m formZ.aOnly true [.w w.toNat, tS a.toNat] = true → (if b then e.t.feedB else e.t.feedA) = none →
        0 < (e.r.sget a.toNat).toNat → (e.r.sget a.toNat).toNat ≤ 65536 →
        feedCheck e.t e.run x (e.r.sget a.toNat).toNat = none →
        exec (.wfeed m w b a) s = .next (e.retired (s.modTile e.k fun t =>
          let fd := some { w := w.toNat, left := (e.r.sget a.toNat).toNat, since := e.now, last := 0, pc := e.r.runPc }
          if b then { t with feedB := fd } else { t with feedA := fd }) none 1 none)) ∧
      (e.runs m formZ.aOnly false [tS a.toNat, .w w.toNat] = true →
        exec (.wstat m a w) s = .next (e.sentLater 2 (.s a.toNat
          (((x.idx[0]?.getD 0#16).setWidth 64) ||| ((x.idx[1]?.getD 0#16).setWidth 64 <<< 16) |||
            ((x.idx[2]?.getD 0#16).setWidth 64 <<< 32) ||| ((x.idx[3]?.getD 0#16).setWidth 64 <<< 48)))))) ∧
    (e.t.wget w.toNat = none → e.runs m formZ.aOnly false [tS a.toNat, .w w.toNat] = true →
      exec (.wstat m a w) s = .next (e.sentLater 2 (.s a.toNat (BitVec.allOnes 64))))

/-- R304, R305, R309, R313–R315: completion registers, landing counters, leases and probes. -/
def Obligations.CountersLeasesAndProbes : Prop :=
  ∀ (s : State) (e : Env) (m : Bool) (c : BitVec 3) (d a : BitVec 4), s.focus = some e → e.pipeTaken = false →
    let f := (e.r.sget (aNum e.pl a)).toNat % 2 ^ 22
    let v := e.r.sget (dNum e.pl d)
    let u := [tS (dNum e.pl d), tS (aNum e.pl a)]
    let g := 32 * (f / 32)
    (e.runs m formZ.aOnly false [tS d.toNat] = true →
      exec (.cmov m d c) s = .next (e.moved (·.sset d.toNat (e.t.cget c.toNat))) ∧
      exec (.cstat m d) s = .next (e.moved (·.sset d.toNat
        (w64 ((List.range 8).foldl (fun x i => x ||| (e.t.cstate i <<< (4 * i))) 0))))) ∧
    (e.runs m formD2.aOnly true u = true → v.toNat / 2 ^ 32 = 0 → portACheck e.t e.run f 16 16 = none → e.t.isDead f 16 = false →
      exec (.lndset m d a) s = .next (e.retired ((s.repair e.k f 16).modTile e.k fun t =>
        let x := (t.useBanks e.now (banksOf f 16) false).atomicWrite e.now f 16
          (v.toNat + (setBits (wordAt (e.t.fieldRead true e.now f 16) 1) 16 1 0).toNat * 2 ^ 64)
        { x with before := some (e.t.oldBytes e.now f), field := { x.field with resets := mput x.field.resets f ((mget x.field.resets f).getD 0 + 1) } }) none 1 none)) ∧
    (e.runs m formD2.aOnly true (u ++ [tP 1]) = true → 1 ≤ (e.r.sget (aNum e.pl a)).toNat → (e.r.sget (aNum e.pl a)).toNat ≤ 64 →
      exec (.lease m d a) s = .next (e.retired (s.setTile e.k
        (match s.freeRun e.k (e.r.sget (aNum e.pl a)).toNat 64 0 0 with
          | some i => (e.t.leaseTo e.run.fibre i (e.r.sget (aNum e.pl a)).toNat).modRegs e.σ fun r =>
              (r.post (e.now + 4) (.s (dNum e.pl d) (w64 (65536 * i)))).post (e.now + 4) (.p 1 true)
          | none => e.t.modRegs e.σ fun r =>
              (r.post (e.now + 4) (.s (dNum e.pl d) 0#64)).post (e.now + 4) (.p 1 false))) none 1 none)) ∧
    (e.runs m formD2.page1.aOnly true u = true → f % 65536 = 0 → 1 ≤ v.toNat → f / 65536 + v.toNat ≤ 64 →
      (∀ i ∈ List.range' (f / 65536) v.toNat, e.t.leased e.run.fibre i = true) →
      exec (.unlease m d a) s = .next (e.retired (s.setTile e.k (e.t.unlease (f / 65536) v.toNat)) none 1 none)) ∧
    (e.runs m formD2.page1.aOnly false u = true →
      (e.t.inRange e.run g 32 = true → e.run.groupsBooked g 32 = true →
        exec (.xprobe m d a) s = .next (e.sentLater 8 (.s (dNum e.pl d)
          (w64 ((e.t.rowTagsSeen true e.now (f / 256)).2 + (e.t.rowTagsSeen true e.now (f / 256)).1 * 2 ^ 24 +
            b2n (e.t.inFlight g 32) * 2 ^ 48))))) ∧
      (e.t.inRange e.run g 32 = false → exec (.xprobe m d a) s = .next (e.trap (tripAt codeFieldRange g) e.now)))

/-! ## Copies, walks, far accesses and fences (R42–R56, R301–R312) -/

/-- R42, R138, R301, R302: a copy whose checks pass makes its completion register pending and forks an operation with the
descriptor's fields; a failing check traps with its verdict at issue + 14 and nothing is forked, and until then a legal descriptor's
ranges count as in flight. -/
def Sys2Proof.copies (k : CopyKind) (f : Form) (i : Bool → BitVec 3 → BitVec 4 → Instr) : Prop :=
  ∀ (s : State) (e : Env) (m : Bool) (c : BitVec 3) (a : BitVec 4), s.focus = some e → e.pipeTaken = false →
    e.runs m f true [tS a.toNat] = true →
    let da := (e.r.sget a.toNat).toNat % 2 ^ 22
    let v := e.t.fieldRead true e.now da 32
    let x : CopyDesc := { w0 := wordAt v 0, w1 := wordAt v 1, w2 := wordAt v 2, w3 := wordAt v 3 }
    (portACheck e.t e.run da 32 32 = none → e.t.isDead da 32 = false → e.copyTrip k c.toNat x = none →
      ∃ t o, exec (i m c a) s = .next t ∧ (t.tile e.k).cget c.toNat = 0x1000000000000000#64 ∧ mget t.ops s.seq = some o ∧
        o.kind = k.op ∧ o.tile = e.k ∧ o.creg = c.toNat ∧ o.length = x.length ∧ o.counter = x.counter ∧
        o.members = e.copyMembers k x ∧ o.issue = s.cycle ∧ t.tier = s.tier ∧ t.host = s.host ∧
        (t.tile e.k).field.mem = e.t.field.mem ∧ (t.tile e.k).sb = e.t.sb) ∧
    (∀ y, portACheck e.t e.run da 32 32 = some y → exec (i m c a) s = .next (e.trap y (e.now + 14))) ∧
    (∀ y, portACheck e.t e.run da 32 32 = none → e.t.isDead da 32 = false → e.copyTrip k c.toNat x = some y →
      (x.illegal k = true → exec (i m c a) s = .next (e.trap y (e.now + 14))) ∧
      (x.illegal k = false →
        let fs := (x.flight k).filter fun f => e.t.inRange e.run f x.length
        exec (i m c a) s = .next (e.apply (.trapHeld
          ({ s with seq := s.seq + 1 }.modTile e.k fun t => fs.foldl (fun t f => t.setFlight s.seq f x.length) t)
          y (e.now + 14) (some s.seq)))))

def Obligations.CopiesFork : Prop :=
  copies .cpy formZ.aOnly .cpy ∧ copies .cpyw formZ.aOnly .cpyw ∧ copies .cpym formZ.aOnly .cpym ∧
  copies .cpyf formZ1.aOnly .cpyf

/-- R51, R53, R56, R303, R306, R307: cancelling an operation, starting a Harrow walk, giving a walk a permit. -/
def Obligations.WalksAndCancels : Prop :=
  ∀ (s : State) (e : Env) (m : Bool) (c : BitVec 3) (d a : BitVec 4), s.focus = some e → e.pipeTaken = false →
    let da := (e.r.sget a.toNat).toNat % 2 ^ 22
    let v := e.t.fieldRead true e.now da 64
    let x : WalkDesc := { w := Vector.ofFn fun i => wordAt v i.val }
    (e.runs m formZ.aOnly true [] = true →
      (∀ i o, s.pendingOp e.k c.toNat = some (i, o) →
        exec (.cpyx m c) s = .next (e.retired { s with ops := mput s.ops i o.cancelled } none 1 none)) ∧
      (s.pendingOp e.k c.toNat = none → exec (.cpyx m c) s = .next (e.retired s none 1 none))) ∧
    (e.runs m formZ.aOnly true [tS a.toNat] = true →
      (e.run.mask.getLsbD 6 = false → exec (.hwalk m c a) s = .next (e.trap (trip codeBookShape) (e.now + 14))) ∧
      (e.run.mask.getLsbD 6 = true → (s.walksOf e.k).length < 4 → portACheck e.t e.run da 64 64 = none →
        e.t.isDead da 64 = false → e.walkTrip c.toNat x = none →
        ∃ t o, exec (.hwalk m c a) s = .next t ∧ (t.tile e.k).cget c.toNat = 0x1000000000000000#64 ∧
          mget t.ops s.seq = some o ∧ o.kind = .hwalk ∧ o.tile = e.k ∧ o.src = x.base ∧ o.dst = x.ring ∧
          o.length = x.tileBytes * x.tiles ∧ o.members = e.walkMembers x)) ∧
    (e.runs m formD2.aOnly true [tS (dNum e.pl d), tS (aNum e.pl a)] = true →
      let slot := (e.r.sget (aNum e.pl a)).toNat
      (e.run.mask.getLsbD 6 = false → exec (.hpermit m d a) s = .next (e.trap (trip codeBookShape) e.now)) ∧
      (e.run.mask.getLsbD 6 = true → s.walkAt e.k ((e.r.sget (dNum e.pl d)).toNat % 2 ^ 22) = none →
        exec (.hpermit m d a) s = .next (e.retired s none 1 none)) ∧
      (∀ i o, e.run.mask.getLsbD 6 = true → s.walkAt e.k ((e.r.sget (dNum e.pl d)).toNat % 2 ^ 22) = some (i, o) →
        slot < o.walkDesc.slots →
        exec (.hpermit m d a) s = .next (e.retired
          (let o' : Op := { o with walk := o.walk.map fun w => { w with early := w.early ++ [slotKey slot e.k] } }
           if o.walk.any (·.running) then s.permit i e.k slot else { s with ops := mput s.ops i o' }) none 1 none)))

/-- R310, R311, R312: FLD and FST fork an operation of eight bytes whose completion register is pending at once; FENCE puts a
marker into the strand's far channels, or does nothing with a mask of 0. -/
def Obligations.FarAccessesAndFences : Prop :=
  ∀ (s : State) (e : Env) (m : Bool) (c : BitVec 3) (a5 : BitVec 5) (d a : BitVec 4) (o8 : BitVec 8), s.focus = some e →
    (e.runs m { formZ.aOnly with memq := .all } true [tS a5.toNat, tS (a5.toNat + 1)] = true → a5 ≠ 31#5 →
      let va := e.r.sget a5.toNat
      let f := (e.r.sget (a5.toNat + 1)).toNat % 2 ^ 22
      va.toNat % 8 = 0 → f % 8 = 0 → e.t.cstate c.toNat ≠ 1 → e.t.keyOk = true → e.t.inRange e.run f 8 = true →
      e.t.inFlight f 8 = false →
      ∃ t o, exec (.fld m c a5) s = .next t ∧ (t.tile e.k).cget c.toNat = 0x1000000000000000#64 ∧
        mget t.ops s.seq = some o ∧ o.kind = .fld ∧ o.src = va.toNat ∧ o.dst = f ∧ o.length = 8) ∧
    (e.runs m { formD.aOnly with xzero := 0x18, memq := .all } true [tS (dNum e.pl d), tS (aNum e.pl a)] = true →
      let va := e.r.sget (aNum e.pl a)
      (va.toNat % 8 ≠ 0 ∨ e.t.cstate (bNum e.pl) = 1 → exec (.fst m d a) s = .next (e.trap (trip codeIllegal) e.now)) ∧
      (va.toNat % 8 = 0 → e.t.cstate (bNum e.pl) ≠ 1 →
        ∃ t o, exec (.fst m d a) s = .next t ∧ t.tile e.k = ((e.retired (s.setTile e.k (e.t.cset (bNum e.pl) (cval 1 0 0)))
            none 1 none).tile e.k) ∧
          mget t.ops s.seq = some o ∧ o.kind = .fst ∧ o.dst = va.toNat ∧ o.length = 8 ∧ o.value = e.r.sget (dNum e.pl d))) ∧
    (e.runs m { ximm := 1, memq := .scopeOnly } true [] = true →
      (immU e.pl 8 o8.toNat = 0 → exec (.fence m o8) s = .next (e.retired s none 1 none)) ∧
      (immU e.pl 8 o8.toNat ≠ 0 →
        exec (.fence m o8) s = .next (e.retired
          (let x : FenceMark := { tile := e.k, side := e.σ, run := e.t.run.getD 0, seq := s.seq,
                                  mask := BitVec.ofNat 16 (immU e.pl 8 o8.toNat), scope := memqScope e.pl }
           { s with fences := s.fences ++ [x], seq := s.seq + 1 }) none 1 none)))

/-! ## Vectors, floating point, the select unit (R80, R111–R113, R120, R126–R130, R337–R357) -/

/-- R78, R80, R337: a vector instruction whose sources are there and whose destination has room takes them, in field order with
the pops of its queue aliases, and its result is readable `lat` cycles later; it waits while a source or room is missing. -/
def Sys2Proof.vectorGives (i : Bool → BitVec 4 → BitVec 4 → Instr) (f : Form) (lat : Nat)
    (srcs : BitVec 128 → BitVec 4 → BitVec 4 → List Nat) (old : Bool) (op : Env → List Vec → Vec × FFlags) : Prop :=
  ∀ (s : State) (e : Env) (m : Bool) (d a : BitVec 4), s.focus = some e →
    (if old then dNum e.pl d < 28 else dNum e.pl d < 30) →
    e.runs m f.eOnly false (tV (dNum e.pl d) ++ (srcs e.pl d a).flatMap tV) = true →
    (∀ vs t, e.t.vread e.now (srcs e.pl d a) = some (vs, t) → e.t.vroom (dNum e.pl d) e.now = true →
      let y := op e (if old then e.t.vget (dNum e.pl d) :: vs else vs)
      exec (i m d a) s = .next (e.retired (s.setTile e.k (e.vresult t (dNum e.pl d) lat y.1 y.2)) none 1 none)) ∧
    (∀ vs t, e.t.vread e.now (srcs e.pl d a) = some (vs, t) → e.t.vroom (dNum e.pl d) e.now = false → exec (i m d a) s = .next s) ∧
    (e.t.vread e.now (srcs e.pl d a) = none → exec (i m d a) s = .next s)

/-- R337, R339, R340, R350, R351, R126: lane-wise arithmetic of FP32 lanes under the strand's rounding and FTZ; exponentials,
reciprocals and keys. -/
def Obligations.VectorArithmetic : Prop :=
  let two (p : BitVec 128) (d a : BitVec 4) : List Nat := [(dSources p d a).1, (dSources p d a).2]
  let one (p : BitVec 128) (_d a : BitVec 4) : List Nat := [aNum p a]
  let lanes (f : Env → Nat → Nat → Nat × FFlags) (e : Env) (vs : List Vec) : Vec × FFlags :=
    perLane fun n => f e (laneN (vecArg vs 0) n) (laneN (vecArg vs 1) n)
  let lanes1 (f : Env → Nat → Nat × FFlags) (e : Env) (vs : List Vec) : Vec × FFlags :=
    perLane fun n => f e (laneN (vecArg vs 0) n)
  vectorGives .vadd formD 4 two false (lanes fun e => fAdd fp32 e.r.rounding e.r.ftz) ∧
  vectorGives .vsub formD 4 two false (lanes fun e => fSub fp32 e.r.rounding e.r.ftz) ∧
  vectorGives .vmul formD 4 two false (lanes fun e => fMul fp32 e.r.rounding e.r.ftz) ∧
  vectorGives .vmax formD 4 two false (lanes fun e => fMaxMin fp32 e.r.ftz true) ∧
  vectorGives .vmin formD 4 two false (lanes fun e => fMaxMin fp32 e.r.ftz false) ∧
  vectorGives .vfma formD 4 (fun p _ a => [aNum p a, if plXreg p then bNum p else a.toNat]) true
    (fun e vs => perLane fun n => fFma fp32 e.r.rounding e.r.ftz (laneN (vecArg vs 1) n) (laneN (vecArg vs 2) n)
      (laneN (vecArg vs 0) n)) ∧
  vectorGives .vexp2 formD2 6 one false (lanes1 fun e => exp2 e.r.ftz) ∧
  vectorGives .vrcp formD2 8 one false (lanes1 fun e => fDiv fp32 0 e.r.ftz 0x3F800000) ∧
  vectorGives .vrsqrt formD2.page1 8 one false (lanes1 fun e => recipSqrt e.r.ftz) ∧
  vectorGives .vfkey formD2 2 one false (lanes1 fun _ x => (fpKey (x % 65536), 0#5))

/-- R341–R345, R347, R348, R120: comparison, selection, logic, shifts, scan, permutation, rotation, the lane numbers, broadcast
and conversion; each waits while a source is missing, and one that may name sq0 or sq1 as its destination while that has no room. -/
def Obligations.VectorLanes : Prop :=
  vectorGives .vsel formD3 2 (fun p _ a => [aNum p a, bNum p]) true
    (fun _ vs => (ofLanes fun n => if lane (vecArg vs 0) n ≠ 0#32 then lane (vecArg vs 1) n else lane (vecArg vs 2) n, 0#5)) ∧
  vectorGives .vlogic { formD3 with xzero := 0x1C } 2 (fun p _ a => [aNum p a]) true
    (fun e vs => (vlogicOp (bits (plXregByte e.pl) 0 2) (vecArg vs 0) (vecArg vs 1), 0#5)) ∧
  vectorGives .vshift { formD3 with xzero := 0x1C } 2 (fun p _ a => [aNum p a]) true
    (fun e vs => (ofLanes fun n => vshiftOp (bits (plXregByte e.pl) 0 2) (lane (vecArg vs 0) n) (lane (vecArg vs 1) n), 0#5)) ∧
  vectorGives .vscan formD2 12 (fun p _ a => [aNum p a]) false
    (fun e vs => (ofLanes fun n => BitVec.ofNat 32 ((scanLanes e.r.rounding e.r.ftz (vecArg vs 0)).1[n]?.getD 0),
      (scanLanes e.r.rounding e.r.ftz (vecArg vs 0)).2)) ∧
  vectorGives .vperm formD3 4 (fun p _ a => [aNum p a, bNum p]) false
    (fun _ vs => (BitVec.ofNat 2048 ((List.range 256).foldr
      (fun j acc => (vecByte (vecArg vs 0) (vecByte (vecArg vs 1) j)) <<< (8 * j) ||| acc) 0), 0#5)) ∧
  vectorGives .qrot formD3 4 (fun p _ a => [aNum p a, bNum p]) false
    (fun _ vs => rotateRow (vecArg vs 0) (vecArg vs 1)) ∧
  vectorGives (fun m d _ => .viota m d) formDd 2 (fun _ _ _ => []) false (fun _ _ => (ofLanes fun n => BitVec.ofNat 32 n, 0#5)) ∧
  (∀ (s : State) (e : Env) (m : Bool) (d a : BitVec 4), s.focus = some e →
    (dNum e.pl d < 28 → bits (plXregByte e.pl) 0 4 < 11 → e.t.vread e.now [aNum e.pl a] = none →
      e.runs m ({ formD3 with xzero := 0x10 } : Form).eOnly false (tV (dNum e.pl d) ++ tV (aNum e.pl a)) = true →
      exec (.vcmp m d a) s = .next s) ∧
    (dNum e.pl d < 30 → badConversion (nfmtA e.pl 0) (nfmtB e.pl 0) = false →
      e.t.vread e.now [aNum e.pl a] = none ∨ e.t.vroom (dNum e.pl d) e.now = false →
      e.runs m ({ formD2 with nfmt := .must } : Form).eOnly false
        (tV (dNum e.pl d) ++ tV (aNum e.pl a) ++ cbTouch (nfmtA e.pl 0)) = true → exec (.vcvt m d a) s = .next s) ∧
    (dNum e.pl d < 30 → e.t.vroom (dNum e.pl d) e.now = false →
      e.runs m formD2.eOnly false (tS (aNum e.pl a) :: tV (dNum e.pl d)) = true → exec (.vbcast m d a) s = .next s)) ∧
  (∀ (s : State) (e : Env) (m : Bool) (d a : BitVec 4) (vs : List Vec) (t : Tile), s.focus = some e →
    (dNum e.pl d < 28 → bits (plXregByte e.pl) 0 4 < 11 → e.t.vread e.now [aNum e.pl a] = some (vs, t) →
      e.runs m ({ formD3 with xzero := 0x10 } : Form).eOnly false (tV (dNum e.pl d) ++ tV (aNum e.pl a)) = true →
      let y := perLane fun n =>
        let c := vcmpCond e.r.ftz (bits (plXregByte e.pl) 0 4) (laneN (e.t.vget (dNum e.pl d)) n) (laneN (vecArg vs 0) n)
        (if c.1 then 0xFFFFFFFF else 0, c.2)
      exec (.vcmp m d a) s = .next (e.retired (s.setTile e.k (e.vresult t (dNum e.pl d) 2 y.1 y.2)) none 1 none)) ∧
    (dNum e.pl d < 30 → badConversion (nfmtA e.pl 0) (nfmtB e.pl 0) = false → e.t.vread e.now [aNum e.pl a] = some (vs, t) →
      e.t.vroom (dNum e.pl d) e.now = true →
      e.runs m ({ formD2 with nfmt := .must } : Form).eOnly false
        (tV (dNum e.pl d) ++ tV (aNum e.pl a) ++ cbTouch (nfmtA e.pl 0)) = true →
      let y := perLane fun n => convert e.r.rounding e.r.ftz (nfmtA e.pl 0) (nfmtB e.pl 0) (e.t.cbget (nfmtA e.pl 0 - 5))
        (laneN (vecArg vs 0) n)
      exec (.vcvt m d a) s = .next (e.retired (s.setTile e.k (e.vresult t (dNum e.pl d) 4 y.1 y.2)) none 1 none)) ∧
    (dNum e.pl d < 30 → e.t.vroom (dNum e.pl d) e.now = true →
      e.runs m formD2.eOnly false (tS (aNum e.pl a) :: tV (dNum e.pl d)) = true →
      exec (.vbcast m d a) s = .next (e.retired
        (s.setTile e.k (e.vresult e.t (dNum e.pl d) 2 (ofLanes fun _ => (e.r.sget (aNum e.pl a)).setWidth 32) 0#5)) none 1 none)))

/-- R118, R127–R130, R346, R349, R352, R353: reductions, extraction, codebooks, histograms, top lists and samples; each waits while a source
is missing. -/
def Obligations.VectorSelections : Prop :=
  ∀ (s : State) (e : Env) (m : Bool) (d a : BitVec 4) (n : BitVec 2) (a5 : BitVec 5) (vs : List Vec) (t : Tile), s.focus = some e →
    let posted (lat : Nat) (v : ResVal) (f : FFlags) (t : Tile) : State :=
      e.retired (s.setTile e.k ((t.modRegs e.σ (·.post (e.now + lat) v f)).checkResult (e.now + lat))) none 1 none
    (e.t.vread e.now [aNum e.pl a] = none →
      (e.runs m { formD2.eOnly with ximm := 1, xneed := 1, izero := 0xF0, nfmt := .yes } false
          (tS (dNum e.pl d) :: tV (aNum e.pl a)) = true → plXbits e.pl % 16 < 11 → badRed e.pl = false →
        exec (.vred m d a) s = .next s) ∧
      (e.runs m { formD2.eOnly with ximm := 1, xneed := 1, izero := 0xC0 } false (tS (dNum e.pl d) :: tV (aNum e.pl a)) = true →
        exec (.vext m d a) s = .next s) ∧
      (e.runs m formD3.page1.eOnly false (tS (dNum e.pl d) :: tS (bNum e.pl) :: tV (aNum e.pl a)) = true →
        exec (.vsamp m d a) s = .next s) ∧
      (e.runs m formD3.page1.eOnly false (tV (dNum e.pl d) ++ tV (aNum e.pl a) ++ [tS (bNum e.pl)]) = true → dNum e.pl d < 28 →
        wbits (e.r.sget (bNum e.pl)) 2 14 = 0 → wbits (e.r.sget (bNum e.pl)) 32 32 = 0 → exec (.vhist m d a) s = .next s)) ∧
    (e.t.vread e.now [aNum e.pl a, bNum e.pl] = none → dNum e.pl d < 27 →
      e.runs m formD3.page1.eOnly false
        (tV (dNum e.pl d) ++ tV (dNum e.pl d + 1) ++ tV (aNum e.pl a) ++ tV (bNum e.pl)) = true → exec (.vtopk m d a) s = .next s) ∧
    (e.t.vread e.now [a5.toNat] = none → e.runs m formZ.eOnly false (.cb n.toNat :: tV a5.toNat) = true →
      exec (.cbload m n a5) s = .next s) ∧
    (e.t.vread e.now [aNum e.pl a] = some (vs, t) →
      (e.runs m { formD2.eOnly with ximm := 1, xneed := 1, izero := 0xF0, nfmt := .yes } false
          (tS (dNum e.pl d) :: tV (aNum e.pl a)) = true → plXbits e.pl % 16 < 11 → badRed e.pl = false →
        let ls := vredLanes e.r.ftz (if plXbits e.pl < 3 then nfmtA e.pl 0 else 0) (vecArg vs 0)
        let y := treeReduce (vredOp e.r.rounding e.r.ftz (plXbits e.pl)) 6 (ls.map (·.1))
        exec (.vred m d a) s = .next (posted 8 (.s (dNum e.pl d) (w64 y.1)) (ls.foldl (fun f l => f ||| l.2) y.2) t)) ∧
      (e.runs m { formD2.eOnly with ximm := 1, xneed := 1, izero := 0xC0 } false (tS (dNum e.pl d) :: tV (aNum e.pl a)) = true →
        exec (.vext m d a) s = .next (posted 2 (.s (dNum e.pl d) (w64 (laneN (vecArg vs 0) (plXbits e.pl)))) 0#5 t)) ∧
      (e.runs m formD3.page1.eOnly false (tS (dNum e.pl d) :: tS (bNum e.pl) :: tV (aNum e.pl a)) = true →
        let y := sample (vecArg vs 0) (fpOf (e.r.sget (bNum e.pl))) (philox e.t.pxseed e.t.pxctr)
        exec (.vsamp m d a) s = .next (posted 40 (.s (dNum e.pl d) (w64 y.1)) y.2 { t with pxctr := t.pxctr + 1#128 })) ∧
      (e.runs m formD3.page1.eOnly false (tV (dNum e.pl d) ++ tV (aNum e.pl a) ++ [tS (bNum e.pl)]) = true → dNum e.pl d < 28 →
        let b := e.r.sget (bNum e.pl)
        wbits b 2 14 = 0 → wbits b 32 32 = 0 →
        exec (.vhist m d a) s = .next (e.retired (s.setTile e.k (e.vresult t (dNum e.pl d) 4
          (ofLanes fun i => if i < 16 then lane (e.t.vget (dNum e.pl d)) i +
              BitVec.ofNat 32 (histCount (vecArg vs 0) (wbits b 0 2) (wbits b 16 16) i)
            else lane (e.t.vget (dNum e.pl d)) i) 0#5)) none 1 none))) ∧
    (e.t.vread e.now [aNum e.pl a, bNum e.pl] = some (vs, t) → dNum e.pl d < 27 →
      e.runs m formD3.page1.eOnly false
        (tV (dNum e.pl d) ++ tV (dNum e.pl d + 1) ++ tV (aNum e.pl a) ++ tV (bNum e.pl)) = true →
      let top := (topEntries (e.t.vget (dNum e.pl d)) (e.t.vget (dNum e.pl d + 1)) ++
        topEntries (vecArg vs 0) (vecArg vs 1)).foldl (fun l x => topInsert x l) []
      exec (.vtopk m d a) s = .next (e.retired (s.setTile e.k
        (e.vresult (e.vresult t (dNum e.pl d) 8 (ofLanes fun i => BitVec.ofNat 32 (top[i]?.getD (0, 0)).1) 0#5) (dNum e.pl d + 1) 8
          (ofLanes fun i => BitVec.ofNat 32 (top[i]?.getD (0, 0)).2) 0#5)) none 1 none)) ∧
    (e.t.vread e.now [a5.toNat] = some (vs, t) → e.runs m formZ.eOnly false (.cb n.toNat :: tV a5.toNat) = true →
      exec (.cbload m n a5) s = .next (posted 2 (.cb n.toNat (BitVec.ofNat 256 ((List.range 16).foldr
        (fun c acc => (laneN (vecArg vs 0) c % 65536) <<< (16 * c) ||| acc) 0))) 0#5 t))

/-- R354–R357: scalar floating point, rounded as st says, with its flags; comparisons into a predicate. -/
def Obligations.ScalarFloats : Prop :=
  ∀ (s : State) (e : Env) (m : Bool) (d a : BitVec 4) (p : BitVec 3) (a5 : BitVec 5), s.focus = some e →
    let x := fpOf (e.r.sget (dSources e.pl d a).1)
    let y := fpOf (e.r.sget (dSources e.pl d a).2)
    let u := fpOf (e.r.sget (aNum e.pl a))
    let md := e.r.rounding
    let to_ (lat : Nat) (z : Nat × FFlags) : State := e.posted lat (.s (dNum e.pl d) (w64 z.1)) z.2
    let q := if plXreg e.pl then fpOf (e.r.sget (bNum e.pl)) else 0
    let set (c : Nat) : State := e.wrote fun r =>
      (r.pset p.toNat (fCond fp32 false c (fpOf (e.r.sget a5.toNat)) q).1).orFlags (fCond fp32 false c (fpOf (e.r.sget a5.toNat)) q).2
    (e.runs m formD.page1.eOnly false [tS (dNum e.pl d), tS (dSources e.pl d a).1, tS (dSources e.pl d a).2] = true →
      exec (.fadd m d a) s = .next (to_ 4 (fAdd fp32 md false x y)) ∧ exec (.fsub m d a) s = .next (to_ 4 (fSub fp32 md false x y)) ∧
      exec (.fmul m d a) s = .next (to_ 4 (fMul fp32 md false x y)) ∧ exec (.fdiv m d a) s = .next (to_ 12 (fDiv fp32 md false x y)) ∧
      exec (.fmin m d a) s = .next (to_ 4 (fMaxMin fp32 false false x y)) ∧
      exec (.fmax m d a) s = .next (to_ 4 (fMaxMin fp32 false true x y))) ∧
    (e.runs m formD3.page1.eOnly false [tS (dNum e.pl d), tS (aNum e.pl a), tS (bNum e.pl)] = true →
      exec (.fma m d a) s = .next (to_ 4 (fFma fp32 md false u (fpOf (e.r.sget (bNum e.pl))) (fpOf (e.r.sget (dNum e.pl d)))))) ∧
    (e.runs m formD2.page1.eOnly false [tS (dNum e.pl d), tS (aNum e.pl a)] = true →
      exec (.fsqrt m d a) s = .next (to_ 12 (fSqrt fp32 md false u)) ∧
      exec (.fclass m d a) s = .next (to_ 4 (1 <<< fclass u, 0#5))) ∧
    (e.runs m { formD2.page1.eOnly with nfmt := .must } false ([tS (dNum e.pl d), tS (aNum e.pl a)] ++ cbTouch (nfmtA e.pl 0)) = true →
      (badConversion (nfmtA e.pl 0) (nfmtB e.pl 0) = false →
        exec (.fcvt m d a) s = .next (to_ 4 (convert md false (nfmtA e.pl 0) (nfmtB e.pl 0) (e.t.cbget (nfmtA e.pl 0 - 5)) u))) ∧
      (badConversion (nfmtA e.pl 0) (nfmtB e.pl 0) = true → exec (.fcvt m d a) s = .next (e.trap (trip codeIllegal) e.now))) ∧
    (e.runs m formC.page1.eOnly false ([tP p.toNat, tS a5.toNat] ++ (if plXreg e.pl then [tS (bNum e.pl)] else [])) = true →
      exec (.fcmpeq m p a5) s = .next (set 0) ∧ exec (.fcmplt m p a5) s = .next (set 2) ∧ exec (.fcmple m p a5) s = .next (set 3))

/-! ## The MX and the system registers (R114–R125, R358–R360, R367, R368) -/

/-- R114–R125, R154, R359: an MX command enters the tile's queue in its issue cycle, with its results outstanding until the MX
writes them, or waits while four are queued or running; every one of them raises BOOK-SHAPE in a task that does not book the MX. -/
def Obligations.MatrixCommands : Prop :=
  ∀ (s : State) (e : Env) (m : Bool) (n : BitVec 2) (k : BitVec 3) (d x : BitVec 5), s.focus = some e →
    let put (op : MxOp) (out : List ResVal) : State :=
      if 4 ≤ e.t.mx.queue.length + b2n e.t.mx.run.isSome then s
      else
        let c : MxCmd := { id := e.t.mx.nextId, pc := e.r.runPc, issue := e.now, op := op }
        let mx : Mx := { e.t.mx with queue := e.t.mx.queue ++ [c], nextId := e.t.mx.nextId + 1 }
        let owed : List Pending := out.map fun v => { due := none, cmd := e.t.mx.nextId, val := v, flags := 0#5 }
        let t : Tile := { e.t with mx := mx }
        e.retired (s.setTile e.k (t.modRegs e.σ fun r => { r with out := r.out ++ owed })) none 1 none
    let fa := nfmtA e.pl 1
    let fb := nfmtB e.pl 1
    let kk := (e.r.lget k.toNat).toNat
    let v := e.r.sget x.toNat
    let f := v.toNat % 2 ^ 22
    (e.run.mask.getLsbD 1 = true →
      (e.runs m formZ.eOnly false [] = true → exec (.mzero m n) s = .next (put (.mzero n.toNat) [])) ∧
      (e.runs m { formZ.eOnly with nfmt := .yes } false (cbTouch fa ++ cbTouch fb) = true → kk ≤ 65536 →
        (mmaFormat false fa = true → mmaFormat false fb = true →
          exec (.mma m n k) s = .next (put (.mma false n.toNat kk fa fb e.t.cb) [])) ∧
        (mmaFormat true fa = true → mmaFormat true fb = true →
          exec (.mmas m n k) s = .next (put (.mma true n.toNat kk fa fb e.t.cb) []))) ∧
      (e.runs m { formZ.eOnly with nfmt := .yes } false
          ((List.range 16).flatMap fun i => if d.toNat < 28 then tV (d.toNat + i) else []) = true →
        (d.toNat ≤ 12 ∨ d.toNat = 28 ∨ d.toNat = 29) → plNfmt e.pl = false →
        exec (.mdrain m n d) s = .next (put (.mdrain n.toNat false d.toNat) (drainOut d.toNat))) ∧
      (e.runs m formZ.eOnly false [tS x.toNat, .fd] = true → v.toNat / 2 ^ 48 = 0 → v.getLsbD 22 = false → f % 256 = 0 →
        e.t.keyOk = true → e.t.inRange e.run f 24576 = true → e.run.groupsBooked f 24576 = true →
        e.t.inFlightBut (s.copiesNow e.k) f 24576 = false →
        exec (.attn m n x) s = .next (put (.attn n.toNat v e.t.fd (e.t.ascale.setWidth 32)) [])) ∧
      (e.runs m formZ.eOnly false (tV d.toNat) = true → d.toNat < 30 →
        exec (.attnfin m n d) s = .next (put (.attnfin n.toNat d.toNat)
          [if d.toNat < 28 then .v d.toNat 0#2048 else .none]))) ∧
    (e.run.mask.getLsbD 1 = false →
      (e.runs m formZ.eOnly false [] = true → exec (.mzero m n) s = .next (e.trap (trip codeBookShape) e.now)) ∧
      (e.runs m { formZ.eOnly with nfmt := .yes } false (cbTouch fa ++ cbTouch fb) = true →
        exec (.mma m n k) s = .next (e.trap (trip codeBookShape) e.now) ∧
        exec (.mmas m n k) s = .next (e.trap (trip codeBookShape) e.now)) ∧
      (e.runs m { formZ.eOnly with nfmt := .yes } false
          ((List.range 16).flatMap fun i => if d.toNat < 28 then tV (d.toNat + i) else []) = true →
        (d.toNat ≤ 12 ∨ d.toNat = 28 ∨ d.toNat = 29) → exec (.mdrain m n d) s = .next (e.trap (trip codeBookShape) e.now)) ∧
      (e.runs m formZ.eOnly false [tS x.toNat, .fd] = true →
        exec (.attn m n x) s = .next (e.trap (trip codeBookShape) e.now)) ∧
      (e.runs m formZ.eOnly false (tV d.toNat) = true → d.toNat < 30 →
        exec (.attnfin m n d) s = .next (e.trap (trip codeBookShape) e.now)))

/-- R367, R368, R91: SYSRD reads every register of the table its strand may read, with the latency of its scope; SYSWR writes a
register that it may write; a number absent from the table, or barred, is ILLEGAL; a write of OWNER raises SECURITY. -/
def Obligations.SystemRegisters : Prop :=
  ∀ (s : State) (e : Env) (m : Bool) (d imm : BitVec 4), s.focus = some e →
    let n := immU e.pl 4 imm.toNat
    let v := e.r.sget (dNum e.pl d)
    (e.runs m formSys false [tS (dNum e.pl d)] = true →
      (∀ sc, sysScope n = some sc → sysReadBarred n e.σ = false → (n ≠ 0 ∨ m = false ∨ e.σ = .a) →
        exec (.sysrd m d imm) s = .next (e.sentLater sc.latency (.s (dNum e.pl d) (e.sysRead n)))) ∧
      (sysScope n = none ∨ sysReadBarred n e.σ = true →
        exec (.sysrd m d imm) s = .next (e.trap (trip codeIllegal) e.now))) ∧
    (e.runs m formSys (sysScope n != some .strand) [tS (dNum e.pl d)] = true → n ≠ 0x21 →
      (sysWritable n = true → sysWriteBarred n e.σ = false → e.sysBad n v = false →
        exec (.syswr m d imm) s = .next (e.retired (e.sysWrite n v) none (if sysScope n = some .wide then 24 else 1) none)) ∧
      (sysWritable n = false ∨ sysWriteBarred n e.σ = true → exec (.syswr m d imm) s = .next (e.trap (trip codeIllegal) e.now))) ∧
    (n = 0x21 → formSys.stage1 e.pl e.σ = true → (m = true → e.r.out = []) →
      exec (.syswr m d imm) s = .next (e.trap (trip codeSecurity) e.now))

/-! ## Home-unit instructions (R363–R366, R370–R388, R397) -/

/-- R363, R364: a home-unit instruction sends its request, with the operands its registers hold, to the home unit of the die its
handle names, and its strand waits for the verdict.  Granary (R370–R376) and task records (R377–R384). -/
def Obligations.GranaryAndTaskRequests : Prop :=
  ∀ (s : State) (e : Env) (m : Bool) (d a imm : BitVec 4) (p : BitVec 3) (x : BitVec 5), s.focus = some e →
    let asked (q : HomeReq) (s : State) : State :=
      { s with homes := mput s.homes s.seq q, seq := s.seq + 1 }.modTile e.k fun t =>
        t.setStrand e.σ { t.strand e.σ with home := some s.seq }
    let sd := e.r.sget (dNum e.pl d)
    let sa := e.r.sget (aNum e.pl a)
    let sb := e.r.sget (bNum e.pl)
    let sx := e.r.sget x.toNat
    let sx1 := e.r.sget (x.toNat + 1)
    let die := hDie sa
    let rel := memqBit e.pl
    let cx := (s.ctx e.run.ctx).gftab
    let three := [tS (dNum e.pl d), tS (aNum e.pl a), tS (bNum e.pl)]
    let two := [tS (dNum e.pl d), tS (aNum e.pl a)]
    let fn := wbits cx (4 * (plXbits e.pl % 8)) 4
    (e.runs m formGatom true three = true → exec (.gatom m d a) s = .next (asked (e.request granFig die rel
      (firstTrip [e.noGran, failIf (decide (6 ≤ fn)) (trip codeIllegal)]) (.gatom fn sa sb (dNum e.pl d))) s)) ∧
    (e.runs m formGran3 true three = true →
      exec (.gcas m d a) s = .next (asked (e.request granFig die rel e.noGran (.gcas sa sd sb (dNum e.pl d))) s) ∧
      exec (.gred m d a) s = .next (asked (e.request gredFig die rel e.noGran
        (.gred sa sb (dNum e.pl d))) s)) ∧
    (e.runs m formGran2 true two = true →
      exec (.futw m d a) s = .next (asked (e.request granFig die rel e.noGran (.futw sa sd)) s)) ∧
    (e.runs m formGranX true [tS x.toNat, tP p.toNat] = true →
      (∀ i s', s.reserveCont (dieOf e.k) = some (i, s') →
        exec (.futr m p x) s = .next (asked (e.request granWait (hDie sx) false e.noGran (.futr sx x.toNat p.toNat (some i))) s')) ∧
      (s.reserveCont (dieOf e.k) = none →
        exec (.futr m p x) s = .next (asked (e.request granWait (hDie sx) false e.noGran (.futr sx x.toNat p.toNat none)) s))) ∧
    (e.runs m formZ1 true [tS x.toNat, tP p.toNat] = true →
      exec (.salloc m p x) s = .next (asked (e.request granWait (wbits sx 24 2) false e.noGran (.salloc sx x.toNat p.toNat)) s) ∧
      exec (.tclaim m p x) s = .next (asked (e.request taskFig (dieOf e.k) false none (.tclaim x.toNat p.toNat)) s)) ∧
    (e.runs m formDa.page1 true [tS (aNum e.pl a)] = true →
      exec (.sfree m a) s = .next (asked (e.request granFig die false e.noGran (.sfree sa)) s) ∧
      exec (.tarm m a) s = .next (asked (e.request taskFig die rel none (.tarm sa)) s) ∧
      exec (.tfree m a) s = .next (asked (e.request taskFig die rel none (.tfree sa)) s)) ∧
    (e.runs m formI63.page1 true [tS (dNum e.pl d)] = true →
      exec (.gparam m d imm) s = .next (asked (e.request granFig 0 false e.noGran
        (.gparam (immU e.pl 4 imm.toNat) (dNum e.pl d))) s) ∧
      exec (.gpset m d imm) s = .next (asked (e.request granFig 0 false e.noGran (.gpset (immU e.pl 4 imm.toNat) sd)) s)) ∧
    (e.runs m formGranA true [tS (aNum e.pl a)] = true →
      exec (.signal m a) s = .next (asked (e.request taskFig die rel none (.signal sa)) s)) ∧
    (e.runs m formDa true [tS (aNum e.pl a)] = true →
      exec (.chain m a) s = .next (asked (e.request taskFig die rel none (.chain sa)) s)) ∧
    (e.runs m formD3.page1 true three = true →
      exec (.tpatch m d a) s = .next (asked (e.request taskFig die false none (.tpatch sa sb sd)) s)) ∧
    (e.runs m formD2.page1 true two = true →
      exec (.book m d a) s = .next (asked (e.request taskFig die false none (.book sa (dNum e.pl d))) s)) ∧
    (e.runs m { formD2.page1 with guard := false } true two = true → sd = 0#64 →
      exec (.rett m d a) s = .next (asked (e.request taskFig die false none (.rett 0#64 sa none none)) s)) ∧
    (e.runs m { formD2.page1 with guard := false } true two = true → sd ≠ 0#64 → sd.toNat % 8192 = 0 → sd.toNat < 2 ^ 22 →
      exec (.rett m d a) s = .next (asked (e.request taskFig die false none (.rett sd sa
        (some (bytesOfNum (e.t.fieldRead (e.σ == .a) e.now sd.toNat saveImageBytes) saveImageBytes))
        (firstTrip [failIf (e.t.inFlight sd.toNat saveImageBytes) (tripAt codeEarlyTouch sd.toNat),
          failIf (e.t.isDead sd.toNat saveImageBytes) (tripAt codePoison (e.t.deadAt sd.toNat saveImageBytes))])))
        (if e.t.inFlight sd.toNat saveImageBytes then s else s.repair e.k sd.toNat saveImageBytes))) ∧
    (e.runs m formZ true [tP p.toNat, tS x.toNat] = true → awaitGran sx = false →
      exec (.await m p x) s = .next (asked (e.request awaitFig (dieOf e.k) false (e.awaitBad x.toNat sx)
        (.await sx sx1 x.toNat p.toNat none)) s)) ∧
    (e.runs m formZ true [tP p.toNat, tS x.toNat, tS (x.toNat + 1)] = true → awaitGran sx = true →
      (∀ i s', s.reserveCont (dieOf e.k) = some (i, s') →
        exec (.await m p x) s = .next (asked (e.request granWait (hDie sx1) false (e.awaitBad x.toNat sx)
          (.await sx sx1 x.toNat p.toNat (some i))) s')) ∧
      (s.reserveCont (dieOf e.k) = none → e.awaitBad x.toNat sx = none → e.run.cont = none →
        e.t.liveCount ≤ 16 → pinsKind (wbits sx 60 4) (s.task e.run.die e.run.idx) = false →
        exec (.await m p x) s = .next (asked
          { e.request granWait (hDie sx1) false none (.await sx sx1 x.toNat p.toNat none) with
            reply := some { trap := none, res := [.p p.toNat false], ends := false } } s)))

/-- R363, R364, R383, R385–R388, R206: frames, beams and prefixes, and the local BHASH and CALQ. -/
def Obligations.FrameAndPrefixRequests : Prop :=
  ∀ (s : State) (e : Env) (m : Bool) (d a : BitVec 4) (p : BitVec 3) (a5 : BitVec 5), s.focus = some e →
    let asked (q : HomeReq) (s : State) : State :=
      { s with homes := mput s.homes s.seq q, seq := s.seq + 1 }.modTile e.k fun t =>
        t.setStrand e.σ { t.strand e.σ with home := some s.seq }
    let n := aNum e.pl a
    let sd := e.r.sget (dNum e.pl d)
    let sa := e.r.sget n
    let sb := e.r.sget (bNum e.pl)
    let home := e.run.fibre.toNat / 16384
    let two := [tS (dNum e.pl d), tS n]
    let sheaf (die : Nat) (op : HomeOp) : State := asked (e.request sheafFig die false none op) s
    (e.runs m formD2.page1 true (.fd :: tS (dNum e.pl d) :: e.pushTouch n) = true → n ≤ 26 →
      exec (.fpush m d a) s = .next (sheaf home (.fpush (e.r.six n) (dNum e.pl d)))) ∧
    (e.runs m formD2.page1 true (.fd :: two) = true → exec (.fret m d a) s = .next (sheaf home (.fret sa (dNum e.pl d)))) ∧
    (e.runs m formD2.page1 true two = true →
      exec (.fappend m d a) s = .next (sheaf home (.fappend sa (dNum e.pl d))) ∧
      exec (.pfxpin m d a) s = .next (sheaf 0 (.pfxpin sa (dNum e.pl d)))) ∧
    (e.runs m formDa.page1 true [tS n] = true →
      exec (.fshare m a) s = .next (sheaf (hDie sa) (.fshare sa)) ∧
      exec (.pfxunpin m a) s = .next (sheaf 0 (.pfxunpin sa))) ∧
    (e.runs m formDa.page1 true (if sa = e.topHandle then [.fd, tS n] else [tS n]) = true →
      exec (.fdrop m a) s = .next (sheaf (hDie sa) (.fdrop sa))) ∧
    (e.runs m { page := 1, xreg := .must, xzero := 0x60 } true [tP p.toNat, tS a5.toNat, tS (bNum e.pl)] = true →
      (∀ i s', s.reserveCont (dieOf e.k) = some (i, s') →
        exec (.fcompact m p a5) s = .next (asked (e.request sheafWait (hDie (e.r.sget a5.toNat)) false none
          (.fcompact (e.r.sget a5.toNat) sb p.toNat (some i))) s')) ∧
      (s.reserveCont (dieOf e.k) = none →
        exec (.fcompact m p a5) s = .next (asked (e.request sheafWait (hDie (e.r.sget a5.toNat)) false none
          (.fcompact (e.r.sget a5.toNat) sb p.toNat none)) s))) ∧
    (e.runs m formD3.page1 true ([tS (dNum e.pl d), tS n, tS (bNum e.pl)] ++ (if wbits sb 0 4 = 8 then [.fd] else [])) = true →
      exec (.finfo m d a) s = .next (sheaf (if wbits sb 0 4 = 8 ∨ wbits sb 0 4 = 10 then home else hDie sa)
        (.finfo sa sb (dNum e.pl d)))) ∧
    (e.runs m formDa.page1 true (tSs n (beamRegs sa)) = true → n + beamRegs sa ≤ 32 →
      exec (.beammap m a) s = .next (sheaf (dieOf e.k) (.beammap ((List.range (beamRegs sa)).map fun i => e.r.sget (n + i))))) ∧
    (e.runs m formDa.page1 true (tSs n 3) = true → n ≤ 29 →
      exec (.pfxlook m a) s = .next (sheaf 0 (.pfxlook sa (e.r.sget (n + 1)) (e.r.sget (n + 2))))) ∧
    (e.runs m formD2.page1 true (tS (dNum e.pl d) :: tSs n (if sa = 0#64 then 1 else 3)) = true → n ≤ 29 →
      exec (.pfxput m d a) s = .next (sheaf 0 (.pfxput sd sa (e.r.sget (n + 1)) (e.r.sget (n + 2))))) ∧
    (bNum e.pl ≤ 24 → e.runs m formD3.page1 false (two ++ tSs (bNum e.pl) 8) = true →
      exec (.bhash m d a) s = .next (e.sentLater 4 (.s (dNum e.pl d) (hashBlock sa fun i => e.r.sget (bNum e.pl + i))))) ∧
    (e.runs m formD2.page1 false two = true → wbits sa 16 48 = 0 →
      (wbits sa 0 4 = 0 → exec (.calq m d a) s = .next (e.sentLater 8 (.s (dNum e.pl d)
        (s.slice e.k (s.furrow + wbits sa 4 12) e.run)))) ∧
      (wbits sa 0 4 = 1 → wbits sa 4 12 = 0 → exec (.calq m d a) s = .next (e.sentLater 8 (.s (dNum e.pl d)
        (unitMask fun u => e.t.leased e.run.fibre u)))) ∧
      (wbits sa 0 4 = 2 → wbits sa 4 12 = 0 → exec (.calq m d a) s = .next (e.sentLater 8 (.s (dNum e.pl d)
        (unitMask fun u => s.unitFree e.k u)))) ∧
      (wbits sa 0 4 = 3 → wbits sa 4 12 = 0 → exec (.calq m d a) s = .next (e.sentLater 8 (.s (dNum e.pl d)
        (unitMask fun u => e.run.scratchUnit u)))))

/-! ## What a tile's pipes do by themselves -/

/-- R212, R363, R88: a verdict that has returned leaves the strand's list; the first of them that fails takes its trap, and what the strand
has done since that instruction is discarded: its registers, walkers, load-queue entries and stores are as they were at its issue; the
verdict of a home-unit request retires its word, its results due at the request's latency, and where it ends the strand the word
after it is the resume PC (R289); or it takes its trap. -/
def Obligations.VerdictsReturn : Prop :=
  ∀ (s : State) (k : Nat) (σ : Side),
    let x := (s.tile k).strand σ
    (x.home = none → (∀ v ∈ x.verdicts, v.due ≤ s.cycle → v.fail = none) →
      ∃ t, exec (.verdictReturn k σ) s = .next t ∧ SameElsewhere k s t ∧ SameTileMemory (s.tile k) (t.tile k) ∧
        (t.tile k).strand σ = { x with verdicts := x.verdicts.dropWhile fun v => decide (v.due ≤ s.cycle) }) ∧
    (∀ pre v post i, x.home = none → x.verdicts = pre ++ v :: post → (∀ w ∈ pre, w.due ≤ s.cycle ∧ w.fail = none) →
      v.due ≤ s.cycle → v.fail = some i →
      ∃ t, exec (.verdictReturn k σ) s = .next t ∧ SameElsewhere k s t ∧ ((t.tile k).strand σ).phase = .trapped i ∧
        ((t.tile k).strand σ).verdicts = [] ∧ ((t.tile k).regs σ).pc = i.resume ∧ ((t.tile k).regs σ).platch = 0#128 ∧
        (x.undo = none → ((t.tile k).regs σ).s = x.regs.s ∧ (t.tile k).w = (s.tile k).w ∧ (t.tile k).lq = (s.tile k).lq ∧
          (t.tile k).sb = (s.tile k).sb) ∧
        (∀ u, x.undo = some u →
          let r := (t.tile k).regs σ
          r.s = u.regs.s ∧ r.p = u.regs.p ∧ r.l = u.regs.l ∧ r.live = u.regs.live ∧ r.loops = u.regs.loops ∧ r.out = u.regs.out ∧
          (∀ n w, u.walkers = [(n, w)] → n < 8 → (t.tile k).wget n = w) ∧
          (σ = .a → (∀ q, q < 4 → ((t.tile k).lqget q).ents = ((s.tile k).lqget q).ents.filter fun e => decide (e.id < u.mark)) ∧
            (t.tile k).sb = (s.tile k).sb.filterMap (·.upTo u.since)))) ∧
    (∀ i q c r, x.verdicts = [] → x.home = some i → mget s.homes i = some q → q.sentAt = some c → q.reply = some r →
      c + q.cost ≤ s.cycle →
      ∃ t, exec (.verdictReturn k σ) s = .next t ∧ t.homes = mdel s.homes i ∧ ((t.tile k).strand σ).home = none ∧
        (r.trap = none →
          (t.tile k).regs σ = r.res.foldl (fun g v => g.post (c + q.lat) v) (x.regs.retire (if r.ends then some (x.regs.pc + 2#64, false) else none)) ∧
          ((t.tile k).strand σ).readyAt = s.cycle ∧
          ((t.tile k).strand σ).phase = if r.ends then .ended (!q.op.isRett) else x.phase) ∧
        (∀ y, r.trap = some y →
          ((t.tile k).strand σ).phase = .trapped (TrapInfo.ofTrip x.regs y) ∧ ((t.tile k).regs σ).s = x.regs.s))

/-- The register that results of the form `mk v` name holds what the last of them in the list gives it, or else what it held. -/
def Sys2Proof.holdsLast {α β : Type} (l : List Pending) (mk : α → ResVal) (f : α → β) (old new : β) : Prop :=
  (∀ pre p post v, l = pre ++ p :: post → p.val = mk v → (∀ q ∈ post, ∀ u, q.val ≠ mk u) → new = f v) ∧
  ((∀ q ∈ l, ∀ u, q.val ≠ mk u) → new = old)

/-- R88, R90, R91: the results of a strand that are due land in the order of their cycles, those of one cycle in the order of their issue (the
model's choice, log entry 107): a register of any kind, scalar, predicate, vector, codebook, walker or the frame registers, holds the value of
the last of them that names it, or what it held, and the flags of all of them are set; the vectors and flags that the MX owes land too. -/
def Sys2Proof.resultsLand : Prop :=
  ∀ (s : State) (k : Nat) (σ : Side),
    let x := s.tile k
    let l := sortDue ((x.regs σ).out.filter (·.isDue s.cycle))
    ((σ = .e → x.mx.owed = [] ∧ x.mx.flags = []) →
      ∃ t, exec (.resultWrite k σ) s = .next t ∧ SameElsewhere k s t ∧
        (t.tile k).strand (sideOther σ) = x.strand (sideOther σ) ∧
        ((t.tile k).regs σ).out = (x.regs σ).out.filter (fun p => !p.isDue s.cycle) ∧
        (∀ n, n < 32 → holdsLast l (.s n) id ((x.regs σ).sget n) (((t.tile k).regs σ).sget n)) ∧
        (∀ n, 0 < n → n < 8 → holdsLast l (.p n) id ((x.regs σ).pget n) (((t.tile k).regs σ).pget n)) ∧
        (∀ n, n < 28 → holdsLast l (.v n) id (x.vget n) ((t.tile k).vget n)) ∧
        (∀ n, n < 4 → holdsLast l (.cb n) id (x.cbget n) ((t.tile k).cbget n)) ∧
        (∀ n, n < 8 → holdsLast l (.w n) some (x.wget n) ((t.tile k).wget n)) ∧
        holdsLast l .fd id x.fd (t.tile k).fd ∧
        ((t.tile k).regs σ).st = l.foldl (fun (y : BitVec 16) (p : Pending) => y ||| (p.flags.setWidth 16 <<< 4)) (x.regs σ).st) ∧
    (∀ o, (s.tile k).mx.owed = [o] → o.d < 28 → o.due ≤ s.cycle → ((s.tile k).regs .e).out = [] → (s.tile k).mx.flags = [] →
      ∃ t, exec (.resultWrite k .e) s = .next t ∧ (t.tile k).vget o.d = o.data ∧ (t.tile k).mx.owed = []) ∧
    (∀ c f, (s.tile k).mx.owed = [] → (s.tile k).mx.flags = [(c, f)] → c ≤ s.cycle → ((s.tile k).regs .e).out = [] →
      ∃ t, exec (.resultWrite k .e) s = .next t ∧ (t.tile k).mx.flags = [] ∧
        ((t.tile k).regs .e).st = ((s.tile k).regs .e).st ||| (f.setWidth 16 <<< 4))

/-- R88, R91, R79, R84: results that are due are written to their registers, the flags with them, and are outstanding no longer;
queue entries and feed entries whose cycle has come are filled. -/
def Obligations.ResultsAndFillsLand : Prop :=
  resultsLand ∧ ∀ (s : State) (k : Nat) (port : Bool),
    (∀ q, q < 4 → ∃ t, exec (.loadQueueFill k q) s = .next t ∧ SameElsewhere k s t ∧
      ((t.tile k).lqget q).ents = ((s.tile k).lqget q).ents.map (fun e => { e with filled := e.filled || decide (e.due ≤ s.cycle) }) ∧
      (∀ j, j ≠ q → (t.tile k).lqget j = (s.tile k).lqget j)) ∧
    (∀ q, q < 2 → ∃ t, exec (.loadQueueFill k (q + 4)) s = .next t ∧ SameElsewhere k s t ∧
      ((t.tile k).sqget q).ents = ((s.tile k).sqget q).ents.map (fun e => { e with filled := e.filled || decide (e.due ≤ s.cycle) })) ∧
    (∃ t, exec (.feedEntryLand k port) s = .next t ∧ SameElsewhere k s t ∧
      ((t.tile k).port port).ents = ((s.tile k).port port).ents ++ (((s.tile k).port port).flight.filter (·.1 ≤ s.cycle)).map (·.2) ∧
      ((t.tile k).port port).flight = ((s.tile k).port port).flight.filter (s.cycle < ·.1) ∧
      (t.tile k).port (!port) = (s.tile k).port (!port))

/-- R62, R84, R212, R241: the oldest committed entry of the store buffer is written into its bank and leaves the buffer; a feed's
access takes contiguous entries of one row, which are due 14 cycles later, and sees the stores committed before its cycle; a strand stops at a boundary, or where it has ended, with the
POISON its pipes met, and at a boundary for the debugger. -/
def Obligations.DrainsFeedsAndStops : Prop :=
  ∀ (s : State) (k : Nat) (port : Bool) (σ : Side) (sub : Nat),
    (∀ e r, (s.tile k).sb = e :: r → e.commit ≤ s.cycle → (s.tile k).bankOpen s.cycle e.granule = true →
      ∃ t, exec (.storeDrain k) s = .next t ∧ SameElsewhere k s t ∧ (t.tile k).sb = r ∧ (t.tile k).regs .a = (s.tile k).regs .a ∧
        (t.tile k).field.mem = ((s.tile k).sbWrite e).field.mem ∧
        (e.mask = 0xFFFFFFFF#32 ∨ (s.tile k).lost e.granule = false → e.granule ∉ (t.tile k).field.dead) ∧
        mget (t.tile k).field.keys e.granule = some (s.tile k).keyTag ∧ mget (t.tile k).field.tags (e.granule / 8) = none) ∧
    (∀ f, (s.tile k).feed port = some f → (s.tile k).usedNow s.cycle = false → (s.tile k).jmptAt = none →
      (s.tile k).feedReady port s.cycle = true →
      let as := ((s.tile k).feedNext f).1
      ∃ t, exec (.feedAccess k port) s = .next t ∧ SameElsewhere k s t ∧
        ((t.tile k).port port).flight = ((s.tile k).port port).flight ++
          as.map (fun a => (s.cycle + 14, BitVec.ofNat 512 ((s.tile k).fieldRead false (s.cycle - 1) a 64))) ∧
        (t.tile k).feed port = (if f.left - as.length = 0 then none
          else some { f with left := f.left - as.length, last := s.cycle }) ∧
        (t.tile k).sb = (s.tile k).sb) ∧
    (∀ i, ((s.tile k).strand σ).takesPoison = true → (s.tile k).pipeTrap σ = some i →
      ∃ t, exec (.feedPoison k σ) s = .next t ∧ SameElsewhere k s t ∧ SameTileMemory (s.tile k) (t.tile k) ∧
        ((t.tile k).strand σ).phase = .trapped i ∧ i.code = codePoison ∧ (t.tile k).regs σ = (s.tile k).regs σ) ∧
    (((s.tile k).strand σ).atBoundary = true →
      ∃ t, exec (.debugStop k σ sub) s = .next t ∧ SameElsewhere k s t ∧ SameTileMemory (s.tile k) (t.tile k) ∧
        ((t.tile k).strand σ).phase = .trapped
          { code := 0#8, sub := BitVec.ofNat 8 sub, pc := ((s.tile k).regs σ).runPc, addr := 0#64, kind := 0#4
            resume := ((s.tile k).regs σ).pc, sync := true, atRestart := false, debug := true } ∧
        (t.tile k).regs σ = (s.tile k).regs σ)

/-- R114, R117, R121, R125, R131: the MX starts its oldest command in the cycle after its issue at the earliest, ends it after its
busy period with its effect on the accumulators, m, l and the flags (an ATTNFIN divides only its own accumulator), pushes the
vectors it owes, and reads the rows of an ATTN block, before an LNDSET of the same cycle, at field cycles that leave it a slot of every bank
for each; else it waits one field cycle. -/
def Obligations.MatrixUnitRuns : Prop :=
  ∀ (s : State) (k : Nat),
    let t := s.tile k
    (∀ c q, t.mx.run = none → t.mx.queue = c :: q → c.issue < s.cycle → t.mxBarred s.cycle = false →
      ∃ u, exec (.mxCommandStart k) s = .next u ∧ SameElsewhere k s u ∧ (u.tile k).mx.queue = q ∧
        (∃ x, (u.tile k).mx.run = some x ∧ x.cmd = c ∧ x.start = s.cycle ∧ x.done = 0) ∧
        (u.tile k).mx.owed = t.mx.owed ++ t.mx.owes c s.cycle ∧ (u.tile k).mx.acc = t.mx.acc) ∧
    (∀ x, t.mx.run = some x → x.cmd.op.busy ≤ x.done →
      (∀ n, x.cmd.op = .mzero n → n < 4 →
        ∃ u, exec (.mxCommandEnd k) s = .next u ∧ SameElsewhere k s u ∧ (u.tile k).mx.run = none ∧
          (u.tile k).mx.accAt n = 0#32768 ∧ (∀ j, j ≠ n → (u.tile k).mx.accAt j = t.mx.accAt j)) ∧
      (∀ sc n kk fa fb cb, x.cmd.op = .mma sc n kk fa fb cb → 0 < kk → n < 4 →
        ∃ u, exec (.mxCommandEnd k) s = .next u ∧ SameElsewhere k s u ∧ (u.tile k).mx.run = none ∧
          (u.tile k).mx.accAt n = (mmaAcc sc kk fa fb cb x.ea x.eb (t.mx.accAt n)).1 ∧
          (∀ j, j ≠ n → (u.tile k).mx.accAt j = t.mx.accAt j) ∧
          (u.tile k).mx.flags = t.mx.flags ++ [(s.cycle + 6, (mmaAcc sc kk fa fb cb x.ea x.eb (t.mx.accAt n)).2)]) ∧
      (∀ n v fd sc, x.cmd.op = .attn n v fd sc →
        let y := attnBlock (v.getLsbD 23) (wbits v 24 24) fd sc.toNat x.ea x.rows ((List.range 4).map fun c => t.mx.accAt ((n + c) % 4))
          t.mx.m t.mx.l
        ∃ u, exec (.mxCommandEnd k) s = .next u ∧ SameElsewhere k s u ∧ (u.tile k).mx.run = none ∧ (u.tile k).mx.m = y.2.1 ∧
          (u.tile k).mx.l = y.2.2.1 ∧ (∀ c, c < 4 → (u.tile k).mx.accAt ((n + c) % 4) = y.1.getD c 0#32768) ∧
          ((u.tile k).regs .e).st = (t.regs .e).st ||| (y.2.2.2.setWidth 16 <<< 4)) ∧
      (∀ n d, x.cmd.op = .attnfin n d → n < 4 →
        let y := attnFinish (t.mx.accAt n) t.mx.m t.mx.l
        ∃ u, exec (.mxCommandEnd k) s = .next u ∧ SameElsewhere k s u ∧ (u.tile k).mx.run = none ∧ (u.tile k).mx.accAt n = y.1 ∧
          (∀ j, j ≠ n → (u.tile k).mx.accAt j = t.mx.accAt j) ∧
          ((u.tile k).regs .e).st = (t.regs .e).st ||| (y.2.1.setWidth 16 <<< 4)) ∧
      (∀ n bf d, x.cmd.op = .mdrain n bf d →
        ∃ u, exec (.mxCommandEnd k) s = .next u ∧ (u.tile k).mx.run = none ∧ (u.tile k).mx.acc = t.mx.acc)) ∧
    (∀ o r, t.mx.owed = o :: r → (o.d = 28 ∨ o.d = 29) → o.due ≤ s.cycle → (t.sqget (o.d - 28)).room s.cycle = true →
      ∃ u, exec (.mxOwedPush k) s = .next u ∧ SameElsewhere k s u ∧ (u.tile k).mx.owed = r ∧
        ((u.tile k).sqget (o.d - 28)).ents =
          (t.sqget (o.d - 28)).ents ++ [{ id := t.nextId, due := s.cycle, data := o.data, filled := true }]) ∧
    (∀ o r, t.mx.owed = o :: r → (o.d = 28 ∨ o.d = 29) → o.due ≤ s.cycle → (t.sqget (o.d - 28)).room s.cycle = false →
      ∃ u, exec (.mxOwedPush k) s = .next u ∧
        (u.tile k).mx.owed = o :: r.map (fun (y : Owed) => { y with due := y.due + 1 })) ∧
    (∀ x n m v fd sc, t.mx.run = some x → x.want = some n → x.cmd.op = .attn m v fd sc → n < 64 →
      let f := wbits v 0 22
      let free := t.rowSlots s.cycle ((attnAddrs f n).headD 0)
      let row (a : Nat) : Vec := t.rowSeen s.cycle a
      ((x.rowsLeft f n).length ≤ free →
        ∃ u, exec (.attnRowRead k) s = .next u ∧ SameElsewhere k s u ∧
          ∃ y r, (u.tile k).mx.run = some y ∧ y.want = none ∧ y.half = none ∧ y.rows = x.rows ++ [r] ∧
            (x.half = none → r.n = n ∧ r.data = row (if n < 32 then f + 256 * n else f + 8192 + 256 * (n - 32))) ∧
            (∀ h, x.half = some h → r.n = h.n ∧ r.data = h.data) ∧
            (n < 32 → r.rot = row (f + 16384 + 256 * n))) ∧
      (free < (x.rowsLeft f n).length →
        ∃ u, exec (.attnRowRead k) s = .next u ∧ SameElsewhere k s u ∧
          ∃ y, (u.tile k).mx.run = some y ∧ y.want = some n ∧ y.stall = 2 ∧ y.rows = x.rows ∧ y.done = x.done)) ∧
    (∀ a, (t.before = none → t.rowSeen s.cycle a = BitVec.ofNat 2048 (t.fieldRead false (s.cycle - 1) a 256)) ∧
      (∀ o, t.before = some o → o.cycle = s.cycle → a % 256 = 0 → a ≤ o.addr → o.addr + 16 ≤ a + 256 → o.bytes < 2 ^ 128 →
        bits (t.rowSeen s.cycle a).toNat (8 * (o.addr - a)) 128 = o.bytes))

/-! ## Runs, traps and continuations by themselves -/

/-- R163, R176, R180, R183, R369, R166, R222, R213, R268, R184: a run whose strands have all ended and drained retires, DONE by END and
CLAIMED with its continuation by AWAIT, also where a stop stands that is no failed residue check, since the end comes first (R213); a barrier that a tree delivers with good
parity lets every member go on, and a tree in service that does not deliver it so has disagreed; an overrun is granted a furrow or stops the run; a cut stops it, before a BAND that no strand has acted on yet, and a failed residue check does; a stop of a later rank does
not replace one that stands (R213); a continuation whose wait is met becomes READY and arms its task. -/
def Obligations.RunsEnd : Prop :=
  ∀ (s : State) (id : Nat) (r : Run), s.run id = some r → r.die < 4 →
    (s.allEnded r = true → r.stop ≠ some .residue → r.culprit = none →
      (∀ k ∈ r.members, (s.tile k).drained s.cycle = true ∧ (s.tile k).poisonA = none ∧ (s.tile k).poisonE = none) →
      r.chain = none → r.retts = [] →
      (r.cont = none → (s.task r.die r.idx).word 6 = 0#64 →
        ∃ t, exec (.taskRetire id) s = .next t ∧ t.run id = none ∧ (t.task r.die r.idx).state = 6 ∧
          ∀ k ∈ r.members, (t.tile k).run = none ∧ (t.tile k).a.phase = .off ∧ (t.tile k).e.phase = .off) ∧
      (∀ d i, r.cont = some (d, i) →
        ∃ t, exec (.taskRetire id) s = .next t ∧ t.run id = none ∧ (t.task r.die r.idx).state = 1 ∧
          (t.task r.die r.idx).word 7 = s.contHandle d i)) ∧
    (∀ c, r.barrier = some c → c ≤ s.cycle →
      ((s.die (dieOf r.origin)).treesGood ≠ [] →
        ∃ t, exec (.barrierComplete id) s = .next t ∧ (t.run id).map (·.barrier) = some none ∧
          (∀ n ∈ (s.die (dieOf r.origin)).treesIn, (s.die (dieOf r.origin)).treeBad.getLsbD n = true →
            (t.die (dieOf r.origin)).odd.any (·.1 == n) = true) ∧
          ∀ k ∈ r.members, (t.tile k).arrived = false ∧ (t.tile k).a.waitb = false ∧ (t.tile k).e.waitb = false) ∧
      ((s.die (dieOf r.origin)).treesGood = [] → exec (.barrierComplete id) s = .next s)) ∧
    (∀ b, s.bookings = [b] → b.die = r.die → b.idx = r.idx → b.started = true → b.gone = false → s.cycle % 256 = 192 →
      s.furrow + 1 = b.stop →
      (0 < (s.task r.die r.idx).grace →
        ∃ t, exec (.overrunCheck id) s = .next t ∧ t.bookings = [{ b with stop := b.stop + 1 }] ∧
          (t.task r.die r.idx).grace = (s.task r.die r.idx).grace - 1) ∧
      ((s.task r.die r.idx).grace = 0 → r.stop = none → r.culprit = none →
        ∃ t, exec (.overrunCheck id) s = .next t ∧ (t.run id).map (·.stop) = some (some .overrun) ∧ t.bookings = [b])) ∧
    (s.canCut r = true →
      (r.stop = none ∨ (r.stop = some .band ∧ ∀ x ∈ r.strands, ((s.tile x.1).strand x.2).phase ≠ .stopped)) →
      ∃ t, exec (.cut id) s = .next t ∧ (t.run id).map (·.stop) = some (some .preempt) ∧ t.tiles = s.tiles) ∧
    (∀ k, (s.tile k).run = some id → (s.tile k).residueDue s.cycle = true →
      ∃ t, exec (.residueCheck k true) s = .next t ∧ (t.run id).map (·.stop) = some (some .residue) ∧ (t.tile k).residue = none) ∧
    (∀ w x, r.stop = some x → x.rank ≤ w.rank → (s.setStop id w).run id = some r) ∧
    (∀ d i, d < 4 → i < 65536 → s.contDue d i = true → (s.cont d i).trap = none →
      s.taskOk ((s.cont d i).word 1) = true → (s.taskAt ((s.cont d i).word 1)).state = 1 →
      ∃ t, exec (.continuationReady d i) s = .next t ∧ (t.cont d i).state = 2 ∧
        (t.taskAt ((s.cont d i).word 1)).word 7 = s.contHandle d i ∧
        ((t.taskAt ((s.cont d i).word 1)).state = 2 ∨ (t.taskAt ((s.cont d i).word 1)).state = 3))

/-- R214, R215, R216, R222, R232: once every strand of a trapped run has stopped, the trap is delivered: the record is CLAIMED,
the run is gone, the handler is owed the trapped task's handle and the faulting address, and the save of a tile whose lease
covers it begins with the code and, from byte 8, the trap PC.  A stop by a teardown owes no handler.  A handler that is owed is armed with
w8 to w11, and for a trap the culprit's tile as its origin, in its task record, or its fault is reported. -/
def Obligations.TrapIsDelivered : Prop :=
  ∀ (s : State) (id : Nat),
    (∀ r, s.run id = some r → r.die < 4 → r.halting = true → s.allStopped r = true →
      (∀ k ∈ r.members, (s.tile k).landed s.cycle = true) →
      (r.culprit.isSome = true →
        ∃ t, exec (.trapDelivery id) s = .next t ∧ t.run id = none ∧ (t.task r.die r.idx).state = 1 ∧
          (∃ h, mget t.handlers s.seq = some h ∧ h.w10 = r.handle ∧ h.w11 = (s.delivered r).addr ∧ h.fibre = r.fibre) ∧
          (∀ k, r.members = [k] → (s.fibre r.fibre).saveAt % 8192 = 0 → (s.tile k).inLease r.fibre (s.fibre r.fibre).saveAt 8192 = true →
            (t.tile k).bankRead (s.fibre r.fibre).saveAt 1 = (s.delivered r).code.toNat ∧
            (t.tile k).bankRead ((s.fibre r.fibre).saveAt + 8) 8 = (s.delivered r).pc.toNat)) ∧
      (r.culprit = none → s.allEnded r = false → r.stop = some .teardown →
        ∃ t, exec (.trapDelivery id) s = .next t ∧ t.run id = none ∧ (t.task r.die r.idx).state = 1 ∧
          (t.task r.die r.idx).word 7 = 0#64 ∧ t.handlers = s.handlers)) ∧
    (∀ h, mget s.handlers id = some h → (∀ o ∈ h.ops, mget s.ops o = none) → h.debug = false →
      let k := (s.fibre h.fibre).word 4
      let armed := ((((s.taskAt k).setWord 8 h.w8).setWord 9 h.w9).setWord 10 h.w10).setWord 11 h.w11
      let x := if h.place then armed.setWord 0 (setBits (setBits (armed.word 0) 35 10 h.origin) 45 1 0) else armed
      (k = 0#64 ∨ k = h.self ∨ (s.taskTrip h.ctx k).isSome = true ∨ (s.taskAt k).state ≠ 1 ∨ s.fibreSpoiled h.fibre = true →
        ∃ t, exec (.handlerArm id) s = .next t ∧ mget t.handlers id = none ∧
          t.sent = .fibreFault (coreOf h.origin) h.w8 h.w9 h.w10 h.w11 :: s.sent) ∧
      (k ≠ 0#64 → k ≠ h.self → s.taskTrip h.ctx k = none → (s.taskAt k).state = 1 → s.fibreSpoiled h.fibre = false →
        (s.putTaskAt k x).armTrip k = none →
        ∃ t, exec (.handlerArm id) s = .next t ∧ mget t.handlers id = none ∧
          (t.taskAt k).word 8 = h.w8 ∧ (t.taskAt k).word 9 = h.w9 ∧ (t.taskAt k).word 10 = h.w10 ∧ (t.taskAt k).word 11 = h.w11 ∧
          (h.place = true → h.origin < 1024 → (t.taskAt k).origin = h.origin ∧ (t.taskAt k).any = false) ∧
          ((t.taskAt k).state = 2 ∨ (t.taskAt k).state = 3)))

/-- R364, R365, R372, R374, R376, R185: a home unit performs a request that has reached it, at once: a check that the tile's own
operands failed has no effect; GATOM and GCAS update word0 of a plain cell and answer the old one; FUTW fills an EMPTY future
and raises DOUBLE-WRITE on another; graph parameters are read and written; the waiters of a future that was filled take its value. -/
def Obligations.HomeUnitsPerform : Prop :=
  ∀ (s : State) (i : Nat),
    (∀ q c, mget s.homes i = some q → q.sentAt = some c → q.reply = none → c + q.reach ≤ s.cycle →
      ∃ t, exec (.homeUnitPerform i) s = .next t ∧ mget t.homes i = some { q with reply := some (s.perform q).2 } ∧
        t.tiles = (s.perform q).1.tiles ∧ t.dies = (s.perform q).1.dies ∧ t.ctxs = (s.perform q).1.ctxs) ∧
    (∀ q x, q.bad = some x → q.op.slot = none → s.perform q = (s, { trap := some x, res := [], ends := false })) ∧
    (∀ q h, q.bad = none → s.cellTrip (s.ctxOf q) h [.plain] = none →
      (∀ fn v d, q.op = .gatom fn h v d →
        ((s.perform q).1.cellAt h).w0 = gatomFn fn (s.cellAt h).w0 v ∧
        (s.perform q).2 = { trap := none, res := [.s d (s.cellAt h).w0], ends := false }) ∧
      (∀ x y d, q.op = .gcas h x y d →
        ((s.perform q).1.cellAt h).w0 = (if (s.cellAt h).w0 = x then y else (s.cellAt h).w0) ∧
        (s.perform q).2 = { trap := none, res := [.s d (s.cellAt h).w0], ends := false })) ∧
    (∀ q h v, q.bad = none → q.op = .futw h v → s.cellTrip (s.ctxOf q) h [.future] = none →
      ((s.cellAt h).futureState = 0 → ((s.perform q).1.cellAt h).w0 = v ∧ ((s.perform q).1.cellAt h).futureState = 1 ∧
        (s.perform q).2.trap = none) ∧
      ((s.cellAt h).futureState ≠ 0 → s.perform q = (s, { trap := some (trip codeDoubleWrite), res := [], ends := false }))) ∧
    (∀ q n v d, q.bad = none → s.ctxOf q < 16 → n < 64 →
      (s.gpTrip (s.ctxOf q) n = none →
        (q.op = .gpset n v → (((s.perform q).1.ctx (s.ctxOf q)).gpGet n) = v ∧ (s.perform q).2.trap = none) ∧
        (q.op = .gparam n d → s.perform q = (s, { trap := none, res := [.s d ((s.ctx (s.ctxOf q)).gpGet n)], ends := false }))) ∧
      (∀ y, s.gpTrip (s.ctxOf q) n = some y → q.op = .gpset n v ∨ q.op = .gparam n d →
        s.perform q = (s, { trap := some y, res := [], ends := false }))) ∧
    (∀ w, mget s.walks i = some w →
      ∃ t, exec (.futureWaiterWalk i) s = .next t ∧ mget t.walks i = none ∧
        (∀ h, s.futureList w.head (waitFuel s) = [h] → s.contOk h = true → (s.cont (hDie h) (hIndex h)).state = 1 →
          (s.cont (hDie h) (hIndex h)).met = false → w.poison = false →
          (t.cont (hDie h) (hIndex h)).word 5 = w.value ∧ (t.cont (hDie h) (hIndex h)).met = true))

/-- R160, R58, R170, R364, R157, R37: at a furrow boundary a die's budgets restart, and its passes come at the end of that cycle, after
which ALMSTAT shows what they leave; a READY task takes a staging entry while one is free; the drills fetch an entry's code line by
line. -/
def Obligations.AlmanacWorks : Prop :=
  ∀ (s : State) (d : Nat), d < 4 →
    (s.cycle % 256 = 0 → s.remoteHeld = [] →
      ∃ t, exec (.furrowBoundary d) s = .next t ∧ (∀ i, i < 6 → (t.ctrl (6 * d + i)).spent = []) ∧
        (∀ p ∈ t.harrowSpent, dieOf p.1.1 ≠ d) ∧ t.todo = s.todo ++ [.plan (passPhase d)]) ∧
    (∀ rest, dueInput s.time s.inputs = none → s.todo = .plan (passPhase d) :: rest →
      ∃ t, step s = .next t ∧ t = { s with todo := rest }.boundaryPasses d ∧ (t.die d).almstat = t.almstat d) ∧
    (∀ i, (s.task d i).state = 3 → (s.task d i).stage = none →
      (∃ e, e < 64 ∧ mget (s.die (s.gangDie d (s.task d i))).stages e = none) →
      ∃ t, exec (.codeStaging d i) s = .next t ∧ (t.task d i).stage.isSome = true ∧ (t.task d i).state = 3) ∧
    (∀ n e line rest, mget (s.die d).stages n = some e → e.left = line :: rest → s.stageDue e = true →
      let x := e.inLine line
      let y := s.vaReadMany (.die (dieOfCtrl (colour (line / 1024)))) e.ctx x.1 2 .exec (x.2 / 2)
      (∀ l, y.2 = .inr l →
        ∃ t z, exec (.stagingComplete d n) s = .next t ∧ mget (t.die d).stages n = some z ∧ z.left = rest ∧ z.done = rest.isEmpty ∧
          z.mem = Memory.write e.mem (x.1 - e.base) x.2 (l.foldr (fun w acc => w + 65536 * acc) 0)) ∧
      (∀ f, y.2 = .inl f →
        ∃ t, exec (.stagingComplete d n) s = .next t ∧ mget (t.die d).stages n = none))

/-- R156, R159, R161: a task's place is the earliest furrow, and among the origins it may take the lowest, at which it fits; with
none it is not placed. -/
def Sys2Proof.taskPlaces : Prop :=
  ∀ (s : State) (h i : Nat) (t : TaskRec),
    let ms (o : Nat) : List Nat := rect o t.width t.height
    let ok (g o : Nat) : Prop := s.fits h i t (ms o) g = true ∧ (t.mask.getLsbD 12 = true → (s.freeChannel h i (ms o) g t.duration).isSome = true)
    (∀ f o, s.placeTask h i t = some (f, o) →
      o ∈ s.origins h t ∧ ok f o ∧ ∀ g, ∀ k ∈ s.origins h t, ok g k → f < g ∨ (f = g ∧ o ≤ k)) ∧
    (s.placeTask h i t = none → ∀ g, ∀ k ∈ s.origins h t, ¬ ok g k)

/-- R159, R161, R165: a task is booked with the classes, the channel and the scratch of its record in [start, start + duration); the
booking pass adds at most 64 bookings, each of a task that may be booked and after the furrow; the compaction pass moves bookings
only to earlier furrows, and none whose transfer has begun or that has started. -/
def Sys2Proof.passesBook : Prop :=
  ∀ (s : State) (d : Nat), d < 4 →
    (∀ i f o, let t := s.task d i
      let u := s.bookAt d i f o
      (u.task d i).state = 4 ∧ (u.task d i).word 5 = furrowWord f (f + t.duration) ∧
      ∃ b, u.bookings = s.bookings ++ [b] ∧ b.die = d ∧ b.idx = i ∧ b.origin = o ∧ b.width = t.width ∧ b.height = t.height ∧
        b.mask = t.mask ∧ b.start = f ∧ b.stop = f + t.duration ∧ b.scratch = t.scratch ∧ b.started = false ∧ b.gone = false) ∧
    (∃ bs, (s.bookingPass d).bookings = s.bookings ++ bs ∧ bs.length ≤ 64 ∧
      ∀ b ∈ bs, ∃ t, (b.die, b.idx, t) ∈ s.tasksOf d ∧ s.bookable d t = true ∧ s.furrow + 1 + t.lead ≤ b.start ∧
        b.start + t.duration ≤ s.furrow + 4096) ∧
    ((s.bookings.map fun b => (b.die, b.idx)).Nodup →
      (∀ c ∈ (s.compactionPass d).bookings, ∃ b ∈ s.bookings,
        c.die = b.die ∧ c.idx = b.idx ∧ c.origin = b.origin ∧ c.mask = b.mask ∧ c.start ≤ b.start) ∧
      (∀ b ∈ s.bookings, b.begun = true ∨ b.started = true → b ∈ (s.compactionPass d).bookings))

/-- R77, R156, R159–R165, R173: where a task is placed, how it is booked and compacted; and the task whose booking starts in this
furrow is RUNNING on every member, with its parameters in s0 to s7 and its entry PCs where it resumes no continuation. -/
def Obligations.TasksAreBooked : Prop :=
  taskPlaces ∧ passesBook ∧ ∀ (s : State) (d : Nat) (b : Booking),
    (s.bookings.filter fun b => b.start == s.furrow && !b.started && !b.gone && dieOf b.origin == d) = [b] → b.die < 4 →
    let t := s.task b.die b.idx
    let u := s.startTasks d
    (u.task b.die b.idx).state = 5 ∧ (u.task b.die b.idx).word 7 = 0#64 ∧
    u.bookings = s.bookings.map (fun y => if y = b then { y with started := true } else y) ∧
    (∃ r, u.run s.seq = some r ∧ r.handle = s.taskHandle b.die b.idx ∧ r.fibre = t.fibre ∧ r.ctx = t.ctx ∧ r.mask = b.mask ∧ r.origin = b.origin) ∧
    ∀ k ∈ b.members, (u.tile k).run = some s.seq ∧ (u.tile k).standby = none ∧ (u.tile k).a.phase = .run ∧ (u.tile k).e.phase = .run ∧
      (t.word 7 = 0#64 →
        ((u.tile k).regs .a).pc = t.word 2 ∧ ((u.tile k).regs .e).pc = t.word 3 ∧ (u.tile k).c = Vector.replicate 8 0#64 ∧
        ∀ n, n < 8 → ((u.tile k).regs .a).sget n = t.word (8 + n) ∧ ((u.tile k).regs .e).sget n = t.word (8 + n))

/-! ## Copies, walks and far accesses by themselves (R43–R58, R142–R146) -/

/-- Part j of an operation stands after a step with what the step changes of it. -/
def Sys2Proof.partIs (t : State) (i j : Nat) (p : Part) : Prop := ∃ q, mget t.ops i = some q ∧ q.parts[j]? = some p

/-- A part has failed with a kind at a VA: a copy's part ends, a walk's tile loses that page only (R34, R45). -/
def Sys2Proof.failsAt (t : State) (i j : Nat) (o : Op) (p : Part) (kind va : Nat) : Prop :=
  partIs t i j (if o.kind = .hwalk then { p with bad := (va / 65536, kind, va) :: p.bad } else { p with phase := .failed kind (w64 va) })

/-- R43, R29, R49, R143, R146, R34, R238, R266: a part is sent in order by its A-core, accepted by a CPYM's member, translated, and performed
piece by piece; a translation that fails or that an invalidation refuses, an aborted host access and a part that has not reached
its module in time end it, or its page, with a fault kind. -/
def Sys2Proof.partsMove : Prop :=
  ∀ (s : State) (i j : Nat),
    (∀ o p, mget s.ops i = some o → o.parts.findIdx? (·.phase == .unsent) = some j → o.parts[j]? = some p → s.canSend i o = true →
      ∃ t, exec (.copyPartSend i) s = .next t ∧ partIs t i j { p with phase := .live, sent := s.cycle } ∧ t.tiles = s.tiles) ∧
    (∀ o p, s.livePart i j = some (o, p) →
      (∀ va, o.untranslated p = some va →
        let y := s.translate o.ctx va o.access
        (s.refusesPage o.ctx (va / 65536) = true → ∃ t, exec (.pageWalk i j) s = .next t ∧ failsAt t i j o p 1 va) ∧
        (s.refusesPage o.ctx (va / 65536) = false → ∀ kind, y.2 = .inl kind →
          ∃ t, exec (.pageWalk i j) s = .next t ∧ failsAt t i j o p kind va) ∧
        (s.refusesPage o.ctx (va / 65536) = false → ∀ tr, y.2 = .inr tr → y.1.refusesTrans o.ctx (va / 65536) tr = true →
          ∃ t, exec (.pageWalk i j) s = .next t ∧ failsAt t i j o p 1 va) ∧
        (s.refusesPage o.ctx (va / 65536) = false → ∀ tr, y.2 = .inr tr → y.1.refusesTrans o.ctx (va / 65536) tr = false →
          tr.target ≠ 2 →
          ∃ t, exec (.pageWalk i j) s = .next t ∧ partIs t i j { p with trans := mput p.trans (va / 65536) tr })) ∧
      (∀ m, s.acceptReady i j m o p = true →
        ∃ t, exec (.memberAccept i j m) s = .next t ∧ partIs t i j { p with accepted := ins p.accepted m } ∧
          ∀ g ∈ granules (o.fieldAt p) p.bytes, g ∉ s.settledGranules o m → (mget (t.tile m).field.flight g).any (·.contains i) = true) ∧
      (∀ n va, s.pieceReady o p n = true → o.pieceVa p n = some va → (∀ e ∈ p.trans, e.2.target ≠ 2) →
        (o.writes = false → ∀ v, (s.pieceRead o p va o.pieceBytes).2 = .inr v →
          ∃ t, exec (.channelPerform i j n) s = .next t ∧ partIs t i j { p with got := mput p.got n (w64 v) } ∧ t.writes = s.writes ∧
            t.tier = s.tier) ∧
        (o.writes = true → (s.pieceWrite i o p va (o.pieceData p n).toNat o.pieceBytes).2 = none →
          ∃ t ws, exec (.channelPerform i j n) s = .next t ∧ partIs t i j { p with put := ins p.put n } ∧ t.tier = s.tier ∧
            t.writes = s.writes ++ ws ∧ ∀ w ∈ ws, w.op = i ∧ w.level = 0)) ∧
      (∀ e, p.trans.find? (fun t => t.2.target == 1 && s.hostPriv.contains t.2.ppn && !p.bad.any (·.1 == t.1)) = some e →
        ∃ t, exec (.dmaTimeoutAbort i j) s = .next t ∧ failsAt t i j o p 5 (o.lowestIn p e.1)) ∧
      (∀ page, s.latePage o p = some page →
        ∃ t, exec (.linkPartTimeout i j) s = .next t ∧ failsAt t i j o p 5 (o.lowestIn p page)) ∧
      (s.latePage o p = none → exec (.linkPartTimeout i j) s = .next s))

/-- R63–R66, R139: the bytes that the parts of a copy bring for one granule land in one step, with a CPYF's row tags, and are credited
once; port B reads a source granule whole; a tile without a valid key refuses either, and so does a granule that must be read
and cannot be rebuilt. -/
def Sys2Proof.granulesLand : Prop :=
  ∀ (s : State) (i j k g : Nat) (o : Op) (p : Part), s.livePart i j = some (o, p) → g < 131072 →
    (s.landReady i j o p k g = true →
      let bs := o.granuleBytes (o.liveSharers p g) g
      let m := (bs.filter (·.isSome)).length
      (s.portBTrip o p k g (m != 32) = none →
        ∃ (u : State) (q : Op) (x : Part), exec (.granuleLanding i j (granuleKey k g)) s = .next (u.creditPart i o p k g m) ∧ mget u.ops i = some q ∧
          q.landed = o.landed + m ∧ q.parts[j]? = some x ∧ (k, g) ∈ x.landed ∧
          (let y := ((s.repairB o p k g (m != 32)).tile k).landBytes g bs
           (u.tile k).field = (match o.rowTags p g with | some (row, f, n) => (y.stampRow row f n).field | none => y.field))) ∧
      (∀ kind, s.portBTrip o p k g (m != 32) = some kind →
        ∃ t, exec (.granuleLanding i j (granuleKey k g)) s = .next t ∧ partIs t i j { p with phase := .failed kind (w64 (o.vaIn p g)) })) ∧
    (s.readReady i j o p k g = true →
      (s.portBTrip o p k g true = none →
        ∃ (u : State) (q : Op) (x : Part), exec (.portBRead i j (granuleKey k g)) s = .next (u.creditPart i o p k g (o.granuleCount (o.liveSharers p g) g)) ∧
          mget u.ops i = some q ∧ q.parts[j]? = some x ∧ x.read = ins p.read g ∧ (u.tile k).field.mem = (s.tile k).field.mem) ∧
      (∀ kind, s.portBTrip o p k g true = some kind →
        ∃ t, exec (.portBRead i j (granuleKey k g)) s = .next t ∧ partIs t i j { p with phase := .failed kind (w64 (o.vaIn p g)) })) ∧
    ((s.tile k).keyOk = false → ∀ b, s.portBTrip o p k g b = some 2) ∧
    ((s.tile k).keyOk = true → (s.tile k).lost g = true → s.portBTrip o p k g true = some 3)

/-- R46, R47, R53: a credit counts its bytes; at the target the count returns to 0, the generation advances, a FILLING slot of a running fetch
walk becomes FULL and the in-flight bits of its granules clear; beyond the target it counts nothing and overflow is set; an overflowed counter takes no credit. -/
def Sys2Proof.creditsCount : Prop :=
  ∀ (s : State) (i : Nat) (o : Op) (k a g n : Nat),
    let t := s.tile k
    let v := t.fieldRead false s.cycle a 16
    let u := s.credit i o k a g n
    let wrote (count gen : Nat) (full : Bool) : Tile := t.atomicWrite s.cycle a 16 (lcPut v count gen full)
    (lcOver v = true → u = s) ∧
    (lcOver v = false → lcTarget v < lcCount v + n →
      (u.tile k).field = (wrote (lcCount v) (lcGen v) true).field ∧ (u.tile k).sb = (wrote (lcCount v) (lcGen v) true).sb) ∧
    (lcOver v = false → lcCount v + n = lcTarget v → mget s.ops i = some o → o.spilled = false →
      let w := lcPut v 0 (lcGen v + 1) false
      (u.tile k).field.mem = (t.atomicWrite s.cycle a 16 (if (s.slotWalk k a).isSome then fillToFull w else w)).field.mem ∧
      (∀ c ∈ o.credits, c.tile = k → c.addr = a → c.gen = BitVec.ofNat 16 (lcGen v) → mget (u.tile k).field.flight c.granule = none) ∧
      mget (u.tile k).field.flight g = none) ∧
    (lcOver v = false → lcCount v + n < lcTarget v →
      (u.tile k).field = (wrote (lcCount v + n) (lcGen v) false).field ∧
      ∃ q c, mget u.ops i = some q ∧ q.credits = ((mget s.ops i).getD o).credits ++ [c] ∧ c.tile = k ∧ c.addr = a ∧ c.granule = g ∧ c.bytes = n)

/-- R45, R56, R65, R142, R145: an operation whose parts are over, or whose cancellation has stopped them, leaves the machine with its final
value in its completion register, that of a cancelled one with the failure of a counter that cannot be debited; a far write becomes visible level by level, in coherence order, and at the last is the contents. -/
def Sys2Proof.copiesEnd : Prop :=
  ∀ (s : State) (i : Nat),
    (∀ o, mget s.ops i = some o →
      (s.opOver i o = true → ∃ t, exec (.copyComplete i) s = .next t ∧ mget t.ops i = none ∧
        ((s.tile o.tile).run = some o.run → o.creg < 8 → (t.tile o.tile).cget o.creg = o.finalValue)) ∧
      (s.cancelDue i o = true →
        let q := (mget ((s.debit i o).emptySlots i o).ops i).getD o
        ∃ t, exec (.cancellationDone i) s = .next t ∧ mget t.ops i = none ∧
          ((s.tile o.tile).run = some o.run → o.creg < 8 → (t.tile o.tile).cget o.creg = q.finalValue) ∧
          (s.liveCredits o = [] → o.walk = none → q = o))) ∧
    (∀ w rest, s.writes = w :: rest → w.id = i → (∀ x ∈ rest, x.id ≠ i) →
      (w.level < 4 → ∃ t, exec (.visibilityWiden i) s = .next t ∧ t.writes = { w with level := w.level + 1 } :: rest ∧ t.tier = s.tier) ∧
      (w.level = 4 → ∃ t, exec (.visibilityWiden i) s = .next t ∧ t.writes = rest ∧ t.tier = (s.basePut w.space w.key w.addr w.bytes).tier))

/-- R29, R34, R43–R49, R56, R63–R66, R139, R142–R146: the life of a copy: its parts move, its granules land and are credited, it ends. -/
def Obligations.CopiesMove : Prop := partsMove ∧ granulesLand ∧ creditsCount ∧ copiesEnd

/-- R53, R65, R307: a harrow starts its oldest committed walk, writes its slot headers and holds a permit for every slot of a fetch
walk; the next tile of a running fetch walk makes its slot FILLING, with its granules in flight, at every member; a drained slot returns to
EMPTY; a header that cannot be rebuilt fails the walk with kind 3, at an address that is the model's choice (log entry 101). -/
def Obligations.WalksRun : Prop :=
  ∀ (s : State) (k : Nat),
    (∀ i o w, s.nextWalk k = some (i, o) → o.walk = some w → w.early = [] →
      ∃ t q, exec (.harrowWalkStart k) s = .next t ∧ mget t.ops i = some q ∧
        q.walk = some { w with
          running := true, early := []
          permits := (if o.walkDesc.back then [] else
            o.members.flatMap fun m => (List.range o.walkDesc.slots).map fun q => slotKey q m).foldl ins []
          left := if o.walkDesc.back then o.walkDesc.tiles * o.members.length else o.walkDesc.tiles } ∧
        (o.members.Nodup → ∀ m ∈ o.members, t.tile m = (s.writeHeaders i m o.walkDesc).tile m)) ∧
    (∀ i o w, (s.walksOf k).find? (fun p => p.2.walk.any fun w => s.tileReady p.2 w) = some (i, o) → o.walk = some w →
      let slot := w.next % o.walkDesc.slots
      let f := o.walkDesc.slotAt slot
      ((∀ m ∈ o.members, (s.tile m).lost (f / 32) = false) →
        ∃ t q x, exec (.harrowTileStart k) s = .next t ∧ mget t.ops i = some q ∧ q.walk = some x ∧ x.next = w.next + 1 ∧
          x.busy = ins w.busy slot ∧ q.parts.length = o.parts.length + 1 ∧
          (o.members.Nodup → ∀ m ∈ o.members,
            t.tile m = (((s.repair m f 16).tile m).startSlot s.cycle f 1).setFlight i (f + 32) o.walkDesc.tileBytes)) ∧
      (mget s.ops i = some o → (∃ m ∈ o.members, (s.tile m).lost (f / 32) = true) →
        ∃ t q, exec (.harrowTileStart k) s = .next t ∧ mget t.ops i = some q ∧ q.walk = some w ∧ t.tiles = s.tiles ∧
          ∃ va, q.parts = o.parts ++ [{ Part.new va 0 0 false with phase := .failed 3 (w64 va) }])) ∧
    (∀ i o w y, mget s.ops i = some o → o.walk = some w → o.walkDesc.back = true → w.busy.contains y = true → o.cancel = false →
      o.spilled = false → s.slotOver i o y = true →
      let f := o.walkDesc.slotAt (y % 65536)
      let m := y / 65536
      ∃ t q, exec (.slotDrained i y) s = .next t ∧ mget t.ops i = some q ∧
        q.walk = some { w with busy := w.busy.filter (· != y), left := w.left - 1 } ∧
        ((s.tile m).lost (f / 32) = false → t.tile m = ((s.repair m f 16).tile m).setSlot s.cycle f 0) ∧
        ((s.tile m).lost (f / 32) = true → t.tile m = s.tile m ∧ q.lowestFault.isSome = true))

/-! ## The Sheaf, invalidations, messages by themselves (R32, R33, R201–R209, R228) -/

/-- R202: a compaction reads its list and refuses a bad one, the frame then as it was before; it moves each row line by line, then its
log entry with the progress, and ends OPEN with the new token count. -/
def Sys2Proof.compactionsMove : Prop :=
  ∀ (s : State) (i : Nat) (c : CompactJob), mget s.compacts i = some c → s.compactDue c = true → c.die < 4 →
    let f := s.frame c.die c.frame
    let kept := wbits (f.word 2) 39 15
    let n := wbits (f.word 3) 30 15
    (c.list = none → ∀ l, (s.readList c.die f.ctx f n).2 = .inr l →
      (listBad l kept f.tokens = false → ∃ t, exec (.compactionRowMove i) s = .next t ∧ mget t.compacts i = some { c with list := some l }) ∧
      (listBad l kept f.tokens = true → ∃ t, exec (.compactionRowMove i) s = .next t ∧ mget t.compacts i = none ∧
        t.frame c.die c.frame = f.uncompacted)) ∧
    (∀ l a, c.list = some l → l[f.progress]? = some a →
      (∀ x y u, c.step < 4 * f.planes → (s.compactLine c a (kept + f.progress)).2 = .inr (x, y) →
        (s.compactLine c a (kept + f.progress)).1.moveLine c.die f.ctx x y = (u, none) →
        ∃ t, exec (.compactionRowMove i) s = .next t ∧ mget t.compacts i = some { c with step := c.step + 1 }) ∧
      (∀ u, 4 * f.planes ≤ c.step → s.compactLog c a (kept + f.progress) = (u, none) → f.progress + 1 < 32768 →
        ∃ t, exec (.compactionRowMove i) s = .next t ∧ mget t.compacts i = some { c with step := 0 } ∧
          (t.frame c.die c.frame).progress = f.progress + 1)) ∧
    (∀ l, c.list = some l → l[f.progress]? = none → kept + n < 32768 →
      ∃ t, exec (.compactionRowMove i) s = .next t ∧ mget t.compacts i = none ∧ (t.frame c.die c.frame).state = frameOpen ∧
        (t.frame c.die c.frame).tokens = kept + n)

/-- R201, R202, R207, R209, R388: the drills move the next line of a returned span, in the order of the FRETs, and end after the last;
compactions; a prefix lookup that cannot read its prompt writes bit 63 into its future; a rebuild waits on a fresh page and ends on its
future, and with no task registered the part fails with kind 3. -/
def Obligations.SheafMoves : Prop :=
  compactionsMove ∧ ∀ (s : State) (i j : Nat),
    (∀ f, mget s.frets i = some f →
      (s.fretBlocked f = true → exec (.fretRowMove i) s = .next s) ∧
      (∀ a b r, s.fretDue f = true → f.moves = (a, b) :: r →
        (restMoves a b r ≠ [] →
          ∃ t, exec (.fretRowMove i) s = .next t ∧ mget t.frets i = some { f with moves := restMoves a b r }) ∧
        (restMoves a b r = [] → ∃ t, exec (.fretRowMove i) s = .next t ∧ mget t.frets i = none))) ∧
    (∀ c, mget s.lookups i = some c →
      ∃ t, exec (.prefixLookup i) s = .next t ∧ mget t.lookups i = none ∧
        (∀ u, { s with lookups := mdel s.lookups i }.readPrompt c.ctx c.va (16 * c.b) = (u, none) →
          u.cellTrip c.ctx c.fut [.future] = none → (u.cellAt c.fut).futureState = 0 →
          (u.cell (hDie c.fut) (u.cellAt c.fut).first).kind ≠ .draining →
          (t.cellAt c.fut).w0 = 0x8000000000000000#64 ∧ (t.cellAt c.fut).futureState = 1)) ∧
    (∀ o p h e, mget s.ops i = some o → o.parts[j]? = some p → p.phase = .rebuild h e → s.rebuilding h e = false →
      (∀ k v page, s.rebuildTask o.ctx = some k →
        let u := s.vaRead (.die (hDie h)) o.ctx ((s.frameAt h).list + 8 * e) 8 .read
        u.2 = .inr v → (u.1.takePage (hDie h) o.ctx).2 = some page →
        ∃ t x n, exec (.kvRebuildStart i j) s = .next t ∧ mget t.rebuilds n = some x ∧ x.frame = h ∧ x.entry = e ∧ x.page = page ∧
          x.fut = (s.taskAt k).word 11) ∧
      (s.rebuildTask o.ctx = none →
        ∃ t, exec (.kvRebuildStart i j) s = .next t ∧ partIs t i j { p with phase := .failed 3 (w64 (o.lowestOpen p)) })) ∧
    (∀ x, mget s.rebuilds i = some x → s.futureIsFull x.fut = true →
      ∃ t, exec (.kvRebuildDone i) s = .next t ∧ mget t.rebuilds i = none ∧
        ((∀ r ∈ s.rebuilds, r.2.fut = x.fut → r.1 = i) → ∀ d n c, d < 4 → (n, c) ∈ (t.die d).conts → x.fut ∉ c.rebuild))

/-- R32, R33, R228, R238, R258: an invalidation removes the entries it covers from each drill's TLB as it reaches it, waits for the parts
that used them, and completes its mailbox command, or reports to the reeve, once every one has ended; a message for a tile that its context does not own is discarded,
logged, and its part fails with kind 2. -/
def Obligations.InvalidationsAndMessages : Prop :=
  ∀ (s : State) (i c : Nat),
    (∀ v, mget s.invals i = some v →
      (c < 24 → v.arrived.contains c = false →
        ∃ t x, exec (.invalidationArrival i c) s = .next t ∧ mget t.invals i = some x ∧ x.arrived = ins v.arrived c ∧
          (t.ctrl c).tlb = (s.ctrl c).tlb.filter (fun e => !v.covers e) ∧
          (let gone := (s.ctrl c).tlb.filter v.covers
           x.waits = v.waits ++ s.partsAt v c gone ∧ x.refuse = v.refuse ++ s.refusedPages v c gone (s.partsAt v c gone)) ∧
          (∀ n, n ≠ c → t.ctrl n = s.ctrl n)) ∧
      (s.invalDue i v = true →
        ∃ t, exec (.invalidationComplete i) s = .next t ∧ mget t.invals i = none ∧
          (∀ k slot, v.core = some (k, slot) → .mailDone k slot 0 ∈ t.sent) ∧
          (v.core = none → t.sent = .invalidated v.ctx v.va :: s.sent))) ∧
    (∀ m, mget s.messages i = some m →
      (m.ctx = none → ∃ t, exec (.messageDelivery i) s = .next t ∧ mget t.messages i = none ∧ t.ops = s.ops ∧ t.sent = s.sent) ∧
      (∀ x, m.ctx = some x → s.owns x m.tile = true →
        ∃ t, exec (.messageDelivery i) s = .next t ∧ mget t.messages i = none ∧ t.ops = s.ops ∧ t.sent = s.sent) ∧
      (∀ x o p, m.ctx = some x → s.owns x m.tile = false → mget s.ops m.op = some o → o.parts[m.part]? = some p →
        ∃ t, exec (.messageDelivery i) s = .next t ∧ mget t.messages i = none ∧
          partIs t m.op m.part { p with phase := .failed 2 (w64 (o.lowestVa p)) } ∧ t.sent = .logDiscard m.tile :: s.sent))

/-! ## Service cores, the reeve and the module by themselves (R151, R224–R270) -/

/-- A service core performs the command `c` of code `code`, over the stream R259 asks for, with its reserved bits 0. -/
def Sys2Proof.mailReady (s : State) (k : Nat) (c : Cmd) (code : Nat) (tenant : Bool) : Prop :=
  s.command k = some c ∧ c.code = code ∧ c.stream = (if tenant then some c.ctx else none) ∧ wbits (c.word 0) 24 39 = 0 ∧ c.ctx < 16

/-- R258, R259, R189, R195, R203, R261: the commands of a context's stream; a go arms every task of its list, or none where one of them
may not be armed. -/
def Obligations.TenantCommands : Prop :=
  ∀ (s : State) (k : Nat) (c : Cmd),
    (mailReady s k c 0x01 true → wbits ((s.fibre c.fibre).word 0) 60 4 = 0 → wbits (c.word 2) 56 4 = c.ctx → c.fibreBad = false →
      ∃ t, exec (.fibreSetup k) s = .next t ∧ .mailDone k c.slot 0 ∈ t.sent ∧ (∀ i, i < 6 → (t.fibre c.fibre).word i = c.word (2 + i)) ∧
        (t.fibre c.fibre).word 6 = w64 (wbits (c.word 1) 32 22)) ∧
    (mailReady s k c 0x02 true → wbits (c.word 1) 12 2 = 0 → wbits (c.word 1) 16 48 = 0 →
      wbits ((s.fibre c.fibre).word 0) 60 4 = 1 → wbits ((s.fibre c.fibre).word 0) 56 4 = c.ctx → s.fibreBusy c.fibre = false →
      ∃ t, exec (.fibreTeardown k) s = .next t ∧ .mailDone k c.slot 0 ∈ t.sent ∧ t.fibre c.fibre = Fibre.reset) ∧
    (mailReady s k c 0x03 true → (c.word 1).toNat < 4 →
      ∃ t, exec (.pagePool k) s = .next t ∧ .mailDone k c.slot 0 ∈ t.sent ∧ t.pool (c.word 1).toNat c.ctx = (c.word 2, c.word 3)) ∧
    (mailReady s k c 0x04 true → s.taskOk (c.word 1) = true → (s.taskAt (c.word 1)).ctx = c.ctx → (s.taskAt (c.word 1)).state = 1 →
      (c.word 2).toNat < 16 →
      let old := (s.taskAt (c.word 1)).word (c.word 2).toNat
      let new := (old &&& ~~~(c.word 4)) ||| (c.word 3 &&& c.word 4)
      s.recordBad c.ctx (c.word 2).toNat (c.word 3 &&& c.word 4) new = false →
      ∃ t, exec (.recordWrite k) s = .next t ∧ .mailDone k c.slot 0 ∈ t.sent ∧
        t.taskAt (c.word 1) = (s.taskAt (c.word 1)).patch (c.word 2).toNat new) ∧
    (mailReady s k c 0x05 true → (c.word 1).toNat < 64 →
      ∃ t, exec (.gpWrite k) s = .next t ∧ .mailDone k c.slot 0 ∈ t.sent ∧ (t.ctx c.ctx).gpGet (c.word 1).toNat = c.word 2) ∧
    (mailReady s k c 0x06 true → 1 ≤ (c.word 1).toNat → (c.word 1).toNat ≤ 6 →
      let heads := (List.range (c.word 1).toNat).map fun i => c.word (2 + i)
      (s.goCheck c.ctx [] heads = none →
        ∃ t, exec (.go k) s = .next t ∧ .mailDone k c.slot 0 ∈ t.sent ∧
          ∀ h ∈ heads, (t.taskAt h).state = 2 ∨ (t.taskAt h).state = 3) ∧
      (∀ e, s.goCheck c.ctx [] heads = some e →
        ∃ t, exec (.go k) s = .next t ∧ .mailDone k c.slot e ∈ t.sent ∧ t.dies = s.dies)) ∧
    (mailReady s k c 0x0C true → handleForm (c.word 1) 4 framePool = true → (s.frameAt (c.word 1)).gen = hGen (c.word 1) →
      (s.frameAt (c.word 1)).state ≠ 0 → (s.frameAt (c.word 1)).ctx = c.ctx →
      let mine (j : Nat × CompactJob) : Bool := j.2.die == hDie (c.word 1) && j.2.frame == hIndex (c.word 1) && j.2.halted
      s.compacts.any mine = true →
      ∃ t, exec (.compactionResume k) s = .next t ∧ .mailDone k c.slot 0 ∈ t.sent ∧ t.compacts.any mine = false) ∧
    (mailReady s k c 0x12 true → (c.word 1).toNat < 4 → wbits (c.word 3) 35 28 = 0 → wbits (c.word 3) 0 8 ≠ 0 →
      wbits (c.word 3) 8 16 ≠ 0 → wbits (c.word 3) 24 11 ≤ 2031 → s.cellTrip c.ctx (c.word 2) [.plain] = none →
      ∃ t, exec (.ringSetup k) s = .next t ∧ .mailDone k c.slot 0 ∈ t.sent ∧
        (t.ctx c.ctx).ring (c.word 1).toNat =
          { w0 := c.word 2, w1 := c.word 3, q := (s.cellAt (c.word 2)).w0, timer := none, seen := (s.cellAt (c.word 2)).w0 })

/-- R258, R259, R32, R35, R224, R225, R232, R252, R254: the commands of the reeve's stream; a command over another stream is DENIED,
an unknown one CFG-BAD, a configuration write outside CONFIG_OPEN LOCKED.  What becomes of a poison clear of a page that is not POISON, or
beyond the second tier, and of a resume that cannot read the spill area, is the model's choice (log entries 77 and 33). -/
def Obligations.ReeveCommands : Prop :=
  ∀ (s : State) (k : Nat) (c : Cmd),
    (mailReady s k c 0x07 false →
      ∃ t, exec (.invalidateByPage k) s = .next t ∧ (t.core k).cur = none ∧ mget t.invals s.seq = some
        { core := some (k, c.slot), ctx := c.ctx, va := some (c.word 1), withG := false, arrived := [], waits := [], refuse := [] }) ∧
    (mailReady s k c 0x08 false →
      ∃ t, exec (.invalidateByTenant k) s = .next t ∧ (t.core k).cur = none ∧ mget t.invals s.seq = some
        { core := some (k, c.slot), ctx := c.ctx, va := none, withG := false, arrived := [], waits := [], refuse := [] }) ∧
    (mailReady s k c 0x09 false → (s.ctx c.ctx).pre = .none → (s.ctx c.ctx).live = true →
      ∃ t, exec (.preEmpt k) s = .next t ∧ (t.ctx c.ctx).pre = .asked false ∧ (t.ctx c.ctx).preCore = some (k, c.slot)) ∧
    (mailReady s k c 0x0A false → (s.ctx c.ctx).pre = .spilled →
      (∀ u, s.resumeCtx c.ctx = (u, true) →
        ∃ t, exec (.resume k) s = .next t ∧ .mailDone k c.slot 0 ∈ t.sent ∧ .resumed c.ctx ∈ t.sent ∧ (t.ctx c.ctx).pre = .none) ∧
      (∀ u, s.resumeCtx c.ctx = (u, false) →
        ∃ t, exec (.resume k) s = .next t ∧ .mailDone k c.slot 5 ∈ t.sent ∧ (t.ctx c.ctx).pre = .spilled)) ∧
    (mailReady s k c 0x0B false → (s.ctx c.ctx).pre = .none → (s.ctx c.ctx).live = true →
      ∃ t, exec (.teardown k) s = .next t ∧ (t.ctx c.ctx).pre = .asked true ∧ (t.ctx c.ctx).preCore = some (k, c.slot)) ∧
    (mailReady s k c 0x0D false →
      ((c.word 1).toNat < tierPages → s.poison.contains (c.word 1).toNat = true →
        ∃ t, exec (.poisonClear k) s = .next t ∧ .mailDone k c.slot 0 ∈ t.sent ∧ (c.word 1).toNat ∉ t.poison ∧
          ∀ a, a / 65536 = (c.word 1).toNat → Memory.get t.tier a = 0#8) ∧
      ((c.word 1).toNat < tierPages → s.poison.contains (c.word 1).toNat = false →
        ∃ t, exec (.poisonClear k) s = .next t ∧ .mailDone k c.slot 0 ∈ t.sent ∧ t.poison = s.poison ∧ t.tier = s.tier) ∧
      (tierPages ≤ (c.word 1).toNat →
        ∃ t, exec (.poisonClear k) s = .next t ∧ .mailDone k c.slot 3 ∈ t.sent ∧ t.poison = s.poison ∧ t.tier = s.tier)) ∧
    (mailReady s k c 0x0E false →
      (∀ g, s.mstate = .configOpen → s.cfg.put (c.word 1).toNat (c.word 2) = some g →
        ∃ t, exec (.configurationWrite k) s = .next t ∧ .mailDone k c.slot 0 ∈ t.sent ∧ t.cfg = g) ∧
      (s.mstate ≠ .configOpen →
        ∃ t, exec (.configurationWrite k) s = .next t ∧ .mailDone k c.slot 1 ∈ t.sent ∧ t.cfg = s.cfg)) ∧
    (mailReady s k c 0x0F false → s.mstate = .configOpen →
      ∃ t, exec (.lock k) s = .next t ∧ .mailDone k c.slot 0 ∈ t.sent ∧ t.mstate = .configLocked) ∧
    (mailReady s k c 0x10 false → s.mstate = .run ∨ s.mstate = .retreat →
      ∃ t, exec (.drain k) s = .next t ∧ t.mstate = .drain ∧ t.cause = 0#8 ∧ t.drainCmd = true) ∧
    (mailReady s k c 0x11 false → s.mstate = .configOpen ∨ s.mstate = .configLocked ∨ s.mstate = .park →
      ∃ t, exec (.shutdown k) s = .next t ∧ .mailDone k c.slot 0 ∈ t.sent ∧ t.mstate = .warm ∧ t.clockOn = false) ∧
    (s.command k = some c → c.code = 0 ∨ 0x12 < c.code →
      ∃ t, exec (.unknownCommand k) s = .next t ∧ .mailDone k c.slot 3 ∈ t.sent) ∧
    (s.command k = some c → c.code = 0x0F → c.stream.isSome = true →
      ∃ t, exec (.lock k) s = .next t ∧ .mailDone k c.slot 9 ∈ t.sent ∧ t.mstate = s.mstate) ∧
    (s.command k = some c → c.code = 0x05 → c.stream ≠ some c.ctx →
      ∃ t, exec (.gpWrite k) s = .next t ∧ .mailDone k c.slot 9 ∈ t.sent ∧ t.ctxs = s.ctxs)

/-- R244–R246, R248, R252: a sample writes TEMPSENSE and COOLFLOW and moves the die to a warmer band at once, a second of cool readings to
the next cooler one, and the module state follows the bands; in CHILL, SOAK and WARM the readings decide the state. -/
def Sys2Proof.samplesMove : Prop :=
  ∀ (s : State) (d : Nat), d < 4 →
    let l := (s.die d).sensors
    let b := s.bandOf (readMax l)
    let word (e : Nat) : Word := if e = d then tempWord l else (s.die e).tempsense
    let all (f : Nat → Nat → Nat → Bool) : Prop :=
      ∀ e, e < 4 → (word e).getLsbD 63 = true ∧ f (wbits (word e) 0 16) (wbits (word e) 16 16) (wbits (word e) 32 16) = true
    let follows (t : State) : Prop :=
      (t.moduleBand = 0 → t.mstate = .run) ∧ (t.moduleBand = 1 → t.mstate = .retreat) ∧ (2 ≤ t.moduleBand → t.mstate = .drain)
    (l ≠ [] →
      (s.mstate = .run ∨ s.mstate = .retreat → b ≤ (s.die d).band.num →
        ∃ t, exec (.sensorSample d) s = .next t ∧ (t.die d).tempsense = tempWord l ∧ (t.die d).band = (s.die d).band ∧
          t.coolflow = w64 (min s.flow 65535) ∧ t.mstate = s.mstate) ∧
      (s.mstate = .run ∨ s.mstate = .retreat → (s.die d).band.num < b → b < 3 →
        ∃ t, exec (.sensorSample d) s = .next t ∧ (t.die d).tempsense = tempWord l ∧ (t.die d).band = Band.ofNum b ∧ follows t) ∧
      ((s.die d).band.num < b → b = 3 → s.mstate ≠ .off → ¬ all (fun _ lo _ => decide (4480 ≤ lo)) →
        ∃ t, exec (.sensorSample d) s = .next t ∧ t.mstate = .warm ∧ (s.mstate ≠ .warm → t.cause = 4#8 ∧ t.clockOn = false ∧ t.runs = [])) ∧
      (s.mstate = .chill → b < 3 → all (fun hi _ _ => decide (hi ≤ 1600)) →
        ∃ t, exec (.sensorSample d) s = .next t ∧ t.mstate = .soak ∧ t.cause = 1#8) ∧
      (s.mstate = .soak → b < 3 →
        ∃ t, exec (.sensorSample d) s = .next t ∧ t.mstate = .soak ∧
          (all (fun hi _ g => decide (hi ≤ 1440) && decide (g < 32)) → t.since = some (s.since.getD s.time)) ∧
          (¬ all (fun hi _ g => decide (hi ≤ 1440) && decide (g < 32)) → t.since = none)) ∧
      (s.mstate = .warm → all (fun _ lo _ => decide (4480 ≤ lo)) →
        ∃ t, exec (.sensorSample d) s = .next t ∧ t.mstate = .off ∧ t.cause = 1#8)) ∧
    (s.coolDue d = true →
      ∃ t, exec (.bandCoolHold d) s = .next t ∧ (t.die d).band.num = (s.die d).band.num - 1 ∧
        (s.mstate = .run ∨ s.mstate = .retreat → follows t)) ∧
    ((s.die d).switchBy.isSome = true →
      ∃ t, exec (.timingSetSwitch d) s = .next t ∧ (t.die d).warmSet = true ∧ (t.die d).switchBy = none ∧ (t.die d).refresh = true)

/-- R242, R244–R248, R252, R253, R255: samples and bands; the average of the latest millisecond above the power limit holds bookings; and the
transitions of the module state machine that no command makes, with the firmware's checks. -/
def Obligations.ModuleStates : Prop :=
  samplesMove ∧ ∀ (s : State) (img : Image),
    (∃ t, exec .powerSample s = .next t ∧ t.power = (s.powerNow :: s.power).take 100 ∧
      (s.cfg.power * t.power.length < t.power.foldl (· + ·) 0 → t.holdBook = true) ∧
      (t.power.foldl (· + ·) 0 ≤ s.cfg.power * t.power.length → t.holdBook = s.holdBook)) ∧
    (s.coolantDue = true → ∃ t, exec .coolantLow s = .next t ∧ t.mstate = .drain ∧ t.cause = 5#8) ∧
    (s.soakDue = true → ∃ t, exec .soakDone s = .next t ∧ t.mstate = .train ∧ t.cause = 1#8) ∧
    (s.mstate = .train →
      (∃ t, exec (.trainingDone true) s = .next t ∧ t.mstate = .configOpen ∧ t.cause = 1#8 ∧
        (s.reeve.q + 16 ≤ lmsKeys → ∀ p, p < 16 → (t.link p).up = s.cfg.ports.getLsbD p) ∧
        (lmsKeys ≤ s.reeve.q → ∀ p, p < 16 → (t.link p).up = (s.cfg.ports.getLsbD p && (s.link p).up))) ∧
      (∃ t, exec (.trainingDone false) s = .next t ∧ t.mstate = .warm ∧ t.cause = 3#8 ∧ t.clockOn = false)) ∧
    (s.lockDue = true → ∃ t, exec .lockDistributed s = .next t ∧ t.mstate = (if s.moduleBand = 0 then .run else .retreat) ∧
      t.clockOn = true ∧ t.everRun = true ∧ (s.everRun = false → t.cycle = 0)) ∧
    (s.drainDue = true → ∃ t, exec .drainDone s = .next t ∧ t.mstate = .park ∧ t.cause = s.cause ∧ t.clockOn = false ∧
      t.drainCmd = false ∧ ∀ d, d < 4 → (t.die d).refresh = true) ∧
    (s.parkDue = true → ∃ t, exec .parkExit s = .next t ∧ t.mstate = (if s.moduleBand = 0 then .run else .retreat) ∧ t.cause = 1#8 ∧
      t.clockOn = true) ∧
    (s.mstate = .off → 700 ≤ s.flow →
      ((s.reeve.bootOk = true ∧ s.reeve.update = none) ∨ s.reeve.boot.bootOk = true →
        ∃ t, exec .powerOn s = .next t ∧ t.mstate = .chill ∧ t.cause = 0#8 ∧ t.reeve.update = none) ∧
      (s.reeve.boot.bootOk = false → s.reeve.bootOk = false ∨ s.reeve.update ≠ none →
        ∃ t, exec .powerOn s = .next t ∧ t.mstate = .off)) ∧
    (s.mstate = .off → ∃ t, exec .bootVerify s = .next t ∧ t.reeve = s.reeve.boot) ∧
    (s.mstate = .off → s.reeve.tried = true → s.reeve.bootOk = false → s.reeve.accepts img = true →
      ∃ t, exec (.hostImageLoad img) s = .next t ∧ t.reeve.image = some img ∧ t.reeve.bootOk = true) ∧
    (∃ t, exec (.firmwareUpdate img) s = .next t ∧ t.reeve.update = some img ∧ t.reeve.image = s.reeve.image)

/-- R218, R229, R235, R237, R239–R241, R243, R254, R269: attestation, debug sessions, TDISP requests, and what the reeve and
the host write and read. -/
def Obligations.ReeveServices : Prop :=
  ∀ (s : State) (x : Nat) (nonce : BitVec 256) (v w0 w1 : Word) (n d : Nat), x < 16 → d < 4 →
    (s.reeve.q < lmsKeys →
      ∃ t, exec (.attestationRequest x nonce) s = .next t ∧ t.reeve.q = s.reeve.q + 1 ∧
        ∃ sig, t.sent = .report (s.reportHead x nonce ++ sig) :: s.sent) ∧
    (lmsKeys ≤ s.reeve.q → ∃ t, exec (.attestationRequest x nonce) s = .next t ∧ t.sent = .keysSpent x :: s.sent ∧ t.reeve = s.reeve) ∧
    ((s.ctx x).live = true → ∃ t, exec (.spdmSessionOpen x) s = .next t ∧ (t.ctx x).session = true) ∧
    (∀ c, ((s.ctx x).session = false → ∃ t, exec (.debugCommand x c) s = .next t ∧ t = s.send (.noSession x)) ∧
      ((s.ctx x).session = true → ∀ a u, s.debug x c = some (a, u) →
        ∃ t, exec (.debugCommand x c) s = .next t ∧ t = u.send (.debugData x a))) ∧
    (∀ h, (s.ctx x).session = true → s.contOf x h = true → (s.cont (hDie h) (hIndex h)).state = 3 →
      (s.cont (hDie h) (hIndex h)).word 1 ≠ 0#64 →
      ∃ t, exec (.debugResume x h 0#64) s = .next t ∧ (t.cont (hDie h) (hIndex h)).state = 2) ∧
    (∀ a, s.mayAssign a = true →
      ∃ t, exec (.contextAssign a) s = .next t ∧ (t.ctx a.ctx).live = true ∧ (t.ctx a.ctx).xlroot = maskXlroot a.xlroot ∧
        (t.ctx a.ctx).rotbase = maskRotbase a.rotbase ∧ (t.ctx a.ctx).tbudget = a.tbudget ∧ (t.ctx a.ctx).prectl = maskPrectl a.prectl ∧
        (∀ e ∈ a.keyIds, e.1 < 24 → e.2 < 16 →
          ((t.ctrl e.1).keys[e.2]?).map (fun y => (y.valid, y.ctx)) = some (true, BitVec.ofNat 4 a.ctx)) ∧
        (∀ w, a.windows = [w] → w.1 < 64 → t.wintab[w.1]? = some (setBits w.2.1 62 1 0, w.2.2)) ∧
        ∀ k ∈ assignTiles a, (t.tile k).owner = some (BitVec.ofNat 4 a.ctx) ∧ (t.tile k).keyOk = true ∧
          (t.tile k).fsctx = BitVec.ofNat 4 a.ctx ∧ some (t.tile k).vtile = s.vtileOf a k) ∧
    (n < 64 → ∃ t, exec (.wintabWrite n w0 w1) s = .next t ∧ t.wintab[n]? = some (setBits w0 62 1 0, w1)) ∧
    (∃ t, exec (.registerWrite (.xlroot x v)) s = .next t ∧ (t.ctx x).xlroot = maskXlroot v) ∧
    (∃ t, exec (.registerWrite (.qpri x v)) s = .next t ∧ (t.ctx x).qpri = maskQpri v) ∧
    (∃ t, exec (.registerWrite (.beamSet d n (BitVec.ofNat 4 x))) s = .next t ∧
      mget (t.die d).beams n = some { ctx := x, slots := Vector.replicate 64 0#64 }) ∧
    (s.mstate = .configOpen → ∃ t, exec (.registerWrite (.hdm n d)) s = .next t ∧ t.cfg.hdm = (n, d)) ∧
    (s.mstate ≠ .configOpen → ∃ t, exec (.registerWrite (.hdm n d)) s = .next t ∧ t.cfg = s.cfg ∧ t.sent = .logCfg 7#64 :: s.sent) ∧
    (∃ t, exec (.errstatRead n) s = .next t ∧ t.errstat = 0#64 ∧ t.sent = .errstat n s.errstat :: s.sent) ∧
    ((s.ctx x).tdisp = .unlocked → ∃ t, exec (.lockInterface x) s = .next t ∧ (t.ctx x).tdisp = .locked) ∧
    (∃ t, exec (.getDeviceInterfaceReport x) s = .next t ∧ t.sent = .tdispReport x (s.clustersOf x) :: s.sent) ∧
    ((s.ctx x).tdisp = .locked → ∃ t, exec (.startInterface x) s = .next t ∧ (t.ctx x).tdisp = .run) ∧
    ((s.ctx x).live = true → (s.ctx x).pre = .none →
      ∃ t, exec (.stopInterface x) s = .next t ∧ (t.ctx x).tdisp = .unlocked ∧ (t.ctx x).pre = .asked true)

/-- The answer to a part goes out on the port towards its source, or waits there for room in the replay buffer. -/
def Sys2Proof.answered (s t : State) (r : RemotePart) (kind : Nat) (bs : List Byte) : Prop :=
  ((s.route r.source).all (fun q => (s.link q).fits) = true → ∃ l, t.sent = l ++ s.sent ∧ .remoteReply r.source r.seq kind bs ∈ l) ∧
  (∀ q, s.route r.source = some q → (s.link q).fits = false → (t.link q).queue = (s.link q).queue ++ [.answer r.source r.seq kind bs])

/-- R58, R231, R235, R236, R252, R253, R265, R266: a part that arrives for this module is checked, and line by line served, or refused with
its kind, in the order of its source's stream; one ahead of its turn, beyond its budget or while the clocks stand is held, a duplicate
discarded; a part for another module goes on by LROUTE, and with no port or at its eighth hop is refused with kind 5.  That a part is held
when the budget of its window's context is spent is the model's reading of R58 (log entry 24). -/
def Sys2Proof.remotePartsArrive : Prop :=
  ∀ (s : State) (r : RemotePart),
    let x := wbits ((s.wintab[r.window]?).getD (0#64, 0#64)).1 56 4
    let j : RemoteJob := { part := r, entry := (s.wintab[r.window]?).getD (0#64, 0#64), kind := s.windowKind r, old := false, lines := 0, got := [] }
    let ended (t : State) (kind : Nat) (bs : List Byte) : Prop :=
      answered s t r kind bs ∧ t.remoteHeld = [] ∧ t.expectedSeq r = s.expectedSeq r + 1
    (r.target = s.cfg.moduleId.toNat → s.remoteHeld = [] →
      (r.seq = s.expectedSeq r → s.mstate ≠ .warm →
        (∀ kind, s.windowKind r = some kind → ∃ t, exec (.remotePartArrival r) s = .next t ∧ ended t kind [] ∧ t.tier = s.tier) ∧
        (∀ l more, s.windowKind r = none → remoteLines r = l :: more →
          (∀ kind, s.windowKey (r.pa / 65536) x = .inl kind →
            ∃ t, exec (.remotePartArrival r) s = .next t ∧ ended t kind [] ∧ t.tier = s.tier) ∧
          (∀ key, s.windowKey (r.pa / 65536) x = .inr key →
            (s.clockOn = false ∨ s.drillOpen (colour (r.pa / 65536)) x = false ∨ (r.write = false ∧ s.linkBudget x r.source = false) →
              ∃ t, exec (.remotePartArrival r) s = .next t ∧ t.remoteHeld = [j] ∧ t.sent = s.sent ∧ t.tier = s.tier) ∧
            (s.clockOn = true → s.drillOpen (colour (r.pa / 65536)) x = true → s.poison = [] → (∀ y, mget s.hard y = none) →
              (r.write = false → s.linkBudget x r.source = true → more = [] →
                ∃ t bs, exec (.remotePartArrival r) s = .next t ∧ ended t 0 bs ∧ bs.length = r.bytes ∧ t.tier = s.tier) ∧
              (r.write = true → r.data.length = r.bytes → more = [] →
                ∃ t, exec (.remotePartArrival r) s = .next t ∧ ended t 0 [] ∧ t.tier = (s.sysPut .tier key r.pa r.data).tier) ∧
              (r.write = false → s.linkBudget x r.source = true → more ≠ [] →
                s.budget x 0 ≤ spentOf (s.ctrl (colour (r.pa / 65536))).spent x + (remoteLine r l).2 →
                ∃ t bs, exec (.remotePartArrival r) s = .next t ∧ t.remoteHeld = [{ j with lines := 1, got := bs }] ∧
                  bs.length = (remoteLine r l).2 ∧ t.sent = s.sent ∧ t.tier = s.tier))))) ∧
      (s.expectedSeq r < r.seq ∨ (r.seq = s.expectedSeq r ∧ s.mstate = .warm) →
        ∃ t, exec (.remotePartArrival r) s = .next t ∧ t.remoteHeld = [j] ∧ t.sent = s.sent ∧ t.tier = s.tier)) ∧
    (r.target = s.cfg.moduleId.toNat →
      r.seq < s.expectedSeq r ∨ (∃ q ∈ s.remoteHeld, q.part.source = r.source ∧ q.part.stream = r.stream ∧ q.part.seq = r.seq) →
      exec (.remotePartArrival r) s = .next s) ∧
    (r.target ≠ s.cfg.moduleId.toNat →
      (∀ p, s.route r.target = some p → r.hops < 8 →
        ((s.link p).fits = true → ∃ t l, exec (.remotePartArrival r) s = .next t ∧ t.sent = l ++ s.sent ∧
          .remoteForward p { r with hops := r.hops + 1 } ∈ l) ∧
        ((s.link p).fits = false → ∃ t, exec (.remotePartArrival r) s = .next t ∧
          (t.link p).queue = (s.link p).queue ++ [.forward { r with hops := r.hops + 1 }])) ∧
      ((r.hops < 8 ∧ s.route r.target = none) ∨ 8 ≤ r.hops →
        ∃ t, exec (.remotePartArrival r) s = .next t ∧ answered s t r 5 []))

/-- R233, R264, R266: an incoming flit uses up its packet number, or fails and is awaited again; an outgoing packet stands in the replay buffer
until the other side has checked it, is sent again from it, under its own nonce and key, when that fails, and makes room for what waits;
a key agreed for a number applies from it, and numbers then begin again at 0 (log entry 84); a port whose retries have failed for 100 µs goes
down, and what it had sent goes out on the next. -/
def Sys2Proof.linksMove : Prop :=
  ∀ (s : State) (p a : Nat) (out : Bool), p < 16 →
    let x := s.link p
    let counted (t : State) : Prop := wbits t.errstat 32 16 = min (wbits s.errstat 32 16 + 1) 65535
    (∃ t, exec (.linkFlitReceive ⟨p, false⟩ false) s = .next t ∧ (t.link p).rx.seq = x.rx.seq ∧
      (t.link p).rx.since = some (x.rx.since.getD s.time) ∧ counted t) ∧
    (x.rx.rekey = none → s.rekeyDue p false = false →
      ∃ t, exec (.linkFlitReceive ⟨p, false⟩ true) s = .next t ∧ (t.link p).rx.seq = x.rx.seq + 1 ∧ (t.link p).rx.since = none ∧
        (t.link p).rx.key = x.rx.key) ∧
    (∀ m key, x.rx.rekey = some (m, key) →
      ∃ t, exec (.linkFlitReceive ⟨p, false⟩ true) s = .next t ∧ (t.link p).rx.since = none ∧
        (m ≤ x.rx.seq + 1 → (t.link p).rx.key = key ∧ (t.link p).rx.rekey = none ∧ (t.link p).rx.seq = 0) ∧
        (x.rx.seq + 1 < m → (t.link p).rx.key = x.rx.key ∧ (t.link p).rx.seq = x.rx.seq + 1)) ∧
    (∀ pk rest, x.replay = pk :: rest →
      (∃ t l, exec (.linkFlitReceive ⟨p, true⟩ false) s = .next t ∧ (t.link p).replay = x.replay ∧ (t.link p).tx.seq = x.tx.seq ∧
        (t.link p).tx.since = some (x.tx.since.getD s.time) ∧ counted t ∧ t.sent = l ++ s.sent ∧
        .linkPacket p (linkNonce s.cfg.moduleId p pk.seq) pk.key pk.item ∈ l) ∧
      (x.queue = [] → ∃ t, exec (.linkFlitReceive ⟨p, true⟩ true) s = .next t ∧ (t.link p).replay = rest ∧ (t.link p).tx.since = none ∧
        (t.link p).tx.seq = x.tx.seq ∧ t.sent = s.sent) ∧
      (∀ item more, x.queue = item :: more → rest.length < 64 → x.tx.seq < linkLimit → x.tx.rekey = none → s.rekeyDue p true = false →
        ∃ t l, exec (.linkFlitReceive ⟨p, true⟩ true) s = .next t ∧ (t.link p).queue = more ∧
          (t.link p).replay = rest ++ [{ seq := x.tx.seq, key := x.tx.key, item := item }] ∧ (t.link p).tx.seq = x.tx.seq + 1 ∧
          t.sent = l ++ s.sent ∧ .linkPacket p (linkNonce s.cfg.moduleId p x.tx.seq) x.tx.key item ∈ l)) ∧
    (x.replay = [] → ∀ good, exec (.linkFlitReceive ⟨p, true⟩ good) s = .next s) ∧
    (s.portDead p = true →
      ∃ t, exec (.linkPortDown p) s = .next t ∧ (t.link p).up = false ∧
        ∀ pk r q, x.replay = [pk] → x.queue = [] → pk.item = .forward r → t.route r.target = some q → (s.link q).fits = true →
          ∃ l, t.sent = l ++ s.sent ∧ .remoteForward q r ∈ l) ∧
    (s.portDead p = false → exec (.linkPortDown p) s = .next s) ∧
    ((x.dir out).seq < a → a < linkLimit → s.canSign = true →
      ∃ t, exec (.linkRekey ⟨p, out⟩ a) s = .next t ∧ ((t.link p).dir out).rekey = some (a, s.reeve.nextKey) ∧
        t.reeve.nextKey = s.reeve.nextKey + 1 ∧ t.reeve.q = s.reeve.q + 1 ∧ t.sent = .kexLink p out a :: s.sent) ∧
    (s.canSign = false → exec (.linkRekey ⟨p, out⟩ a) s = .next s)

/-- R35, R58, R151, R224, R232, R233, R235, R236, R247, R257, R260, R263–R267: arriving remote parts, link flits, ports and keys, snoops, host
requests, token rings, the watchdog, the spill, patrol scrub and barrier trees.  That a remote part waits while the budget of its window's
context is spent rests on log entry 24, and that the watchdog leaves nothing in the core's queue, where R260 speaks of mailboxes only, on
log entry 35: both are the model's choices. -/
def Obligations.LinksAndHost : Prop :=
  remotePartsArrive ∧ linksMove ∧ ∀ (s : State) (p k a x n d : Nat), p < 16 → k < 16 → x < 16 → n < 4 → d < 4 →
    (∃ t, exec (.cxlSnoop p a) s = .next t ∧ t = s.send (.snoopInvalid p a)) ∧
    (∃ t, exec (.serviceWatchdog k) s = .next t ∧ (t.core k).queue = [] ∧ (t.core k).cur = none ∧
      (∀ i ∈ (s.core k).open_, .mailDone k i 7 ∈ t.sent) ∧ ∀ i ws, .mail i ws ∈ (s.core k).queue → .mailDone k i 7 ∈ t.sent) ∧
    (∀ pa m rest, (s.core k).queue = .read pa m :: rest →
      (s.inHdmRange pa m = false →
        ∃ t, exec (.hostRequestPerform k) s = .next t ∧ (t.core k).queue = rest ∧ t.sent = .cxlFailed k :: s.sent) ∧
      (s.inHdmRange pa m = true → s.poison = [] → (∀ l, mget s.hard l = none) →
        ∃ t bs, exec (.hostRequestPerform k) s = .next t ∧ (t.core k).queue = rest ∧ t.sent = .cxlData k bs :: s.sent ∧ bs.length = m)) ∧
    (let r := (s.ctx x).ring n
     let tail := (s.cellAt r.w0).w0
     (r.w1.getLsbD 63 = true → s.cellOk r.w0 = true → tail ≠ r.seen →
        (wbits r.w1 0 8 ≤ (tail - r.q).toNat →
          ∃ t, exec (.tailUpdate x n) s = .next t ∧ (t.ctx x).ring n = { r with seen := tail, q := tail, timer := none }) ∧
        ((tail - r.q).toNat < wbits r.w1 0 8 →
          ∃ t, exec (.tailUpdate x n) s = .next t ∧ (t.ctx x).ring n =
            { r with seen := tail, timer := some (r.timer.getD (s.time + wbits r.w1 8 16 * microsecond)) } ∧ t.sent = s.sent)) ∧
     (r.expired s.time = true → s.cellOk r.w0 = true →
        ∃ t, exec (.coalescingTimer x n) s = .next t ∧ ((t.ctx x).ring n).timer = none ∧
          (r.q.toNat < tail.toNat → ((t.ctx x).ring n).q = tail))) ∧
    (s.spillDue x = true →
      (∀ y, (s.ctx x).pre = .running none y →
        ∃ t, exec (.spill x) s = .next t ∧ ((t.ctx x).pre = .spilled ∨ (t.ctx x).pre = .spillFault)) ∧
      (∀ q y, (s.ctx x).pre = .running (some q) y →
        ∃ t i key es ws, exec (.spill x) s = .next t ∧ (t.ctx x).pre = .dying i key es ws ∧ (t.ctx x).key = 0) ∧
      (∀ y key es ws, (s.ctx x).pre = .dying y key es ws → ∃ t, exec (.spill x) s = .next t ∧ (t.ctx x).pre = .none ∧ (t.ctx x).live = false)) ∧
    (s.poison.contains (a / 1024) = false → (mget s.hard a).isSome = true →
      ∃ t, exec (.patrolScrub a) s = .next t ∧ a / 1024 ∈ t.poison) ∧
    (s.poison.contains (a / 1024) = false → mget s.hard a = none → (mget s.soft a).isSome = true →
      ∃ t, exec (.patrolScrub a) s = .next t ∧ mget t.soft a = none ∧ t.tier = s.tier ∧
        (t.ctrl (colour (a / 1024))).corrected = (s.ctrl (colour (a / 1024))).corrected + 1) ∧
    (∀ tree, tree < 2 →
      ((s.die d).odd.any (·.1 == tree) = true →
        ∃ t, exec (.barrierTreeDisagree d tree) s = .next t ∧ (t.die d).treesIn = (s.die d).treesIn.filter (· != tree) ∧
          (t.die d).odd.any (·.1 == tree) = false ∧ t.sent = .logTree d tree :: s.sent) ∧
      ((s.die d).odd.any (·.1 == tree) = false → exec (.barrierTreeDisagree d tree) s = .next s))

/-! ## Encodings (R271–R281, R310) -/

/-- R271, R273–R281: decoding the bytes of an encoded instruction gives it back, with every operand at every value its field
admits, and reads all of them. -/
def Obligations.DecodeEncode : Prop :=
  ∀ i : Instr, encode i ≠ [] → decodeRun ((encode i).flatMap bytesOfWord) = .ok (i, [])

/-- R310, R271, R273–R281: words that the spec writes out decode to the instructions it writes beside them. -/
def Obligations.DecodeWords : Prop :=
  decode 0 0x7151#16 = .ok (.xreg true false 17#5) ∧ decode 0 0x1343#16 = .ok (.add false 4#4 3#4) ∧
  decode 0 0x70ED#16 = .ok (.ximm 0xED#8) ∧ decode 0 0x1154#16 = .ok (.movi false 5#4 4#4) ∧
  decode 0 0x024A#16 = .ok (.br false 2#3 false 10#4) ∧
  decode 0 0x7570#16 = .ok (.guard 3#3 true) ∧ decode 0 0x3F49#16 = .ok (.stw false 4#4 9#4) ∧
  decode 0 0x7461#16 = .ok (.nfmt 6#4 1#4) ∧ decode 0 0xE9A8#16 = .ok (.mma true 2#2 5#3) ∧
  decode 0 0x7327#16 = .ok (.memq 2#4 3#3 true) ∧ decode 0 0x4F26#16 = .ok (.fld false 1#3 6#5) ∧
  decode 0 0x7201#16 = .ok (.page 1#2) ∧ decode 1 0x7103#16 = .ok (.xreg false false 3#5) ∧
  decode 1 0x12A2#16 = .ok (.vtopk false 10#4 2#4) ∧ decode 0 0x12A2#16 = .ok (.ldc false 10#4 2#4) ∧
  decode 0 0x0745#16 = .ok (.jmpt false 4#4 5#4) ∧
  decode 0 0x7F00#16 = .error .reservedOpcode ∧ decode 0 0xF0ED#16 = .error .prefixMarker

/-- R39, R87, R92, R271: when it is a strand's turn to issue and the two bytes at its program counter, under the page its latch
holds, decode to an instruction, a step is that instruction's execution with the strand in focus; a word that decodes to none is executed
as a reserved encoding, and an event whose turn it is is executed as it stands. -/
def Obligations.StepRunsDecoded : Prop :=
  ∀ (s : State) (k : Nat) (σ : Side) (rest : List Turn) (r : Run), dueInput s.time s.inputs = none →
    let u : State := { s with todo := rest }
    let x := (s.tile k).regs σ
    let w : BitVec 16 := BitVec.ofNat 16 (Memory.read (s.tile k).store.mem (x.pc.toNat - (s.tile k).store.base) 2)
    (s.todo = .issue k σ :: rest → u.runOf k = some r → u.mayIssue k σ r = true → u.breakAt r x = none → r.inCode x.pc.toNat 2 = true →
      (∀ i, decode (plPage x.platch) w = .ok i →
        step s = andThen (exec i { u with who := some (k, σ) }) fun t => { t with who := none }) ∧
      (∀ y, decode (plPage x.platch) w = .error y →
        step s = andThen (exec (.reservedEncoding w) { u with who := some (k, σ) }) fun t => { t with who := none })) ∧
    (∀ i, s.todo = .ev i :: rest → step s = exec i u)

/-! ## Reset -/

/-- R251, R44, R58, R123, R162, R223, R227, R240, R245, R246: after reset the module is OFF, runs nothing and books nothing; its registers hold
the reset values the spec gives.  That the TDISP state is then UNLOCKED is the model's choice (log entry 2): R237 gives it no reset state. -/
def Obligations.ResetValues : Prop :=
  State.reset.mstate = .off ∧ State.reset.runs = [] ∧ State.reset.bookings = [] ∧ State.reset.ops = [] ∧
  State.reset.bandReg = 0x3FF#64 ∧ State.reset.cfg.bandth = 0x00200C8008C005F0#64 ∧
  (∀ x, (State.reset.ctx x).tbudget = BitVec.allOnes 64 ∧ (State.reset.ctx x).prectl = 4#64 ∧
    (State.reset.ctx x).qpri = 0x0000924924924924#64 ∧ (State.reset.ctx x).dbgctl = 0#64 ∧ (State.reset.ctx x).tdisp = .unlocked) ∧
  (∀ k c, (State.reset.tile k).ascale = 0x3E0293EE#64 ∧ (State.reset.tile k).cget c = 0#64 ∧ (State.reset.tile k).owner = none)

/-- The memories of the module have their canonical form after reset. -/
def Obligations.ResetMemoriesCanonical : Prop := State.reset.memoriesCanonical

/-! ## What a word leaves alone -/

/-- The scalar register a register word writes. -/
def Sys2Proof.scalarDest (pl : BitVec 128) : Instr → Option Nat
  | .add _ d _ | .sub _ d _ | .and _ d _ | .or _ d _ | .xor _ d _ | .shl _ d _ | .shr _ d _ | .sra _ d _ | .rotl _ d _
  | .min _ d _ | .max _ d _ | .minu _ d _ | .maxu _ d _ | .mul _ d _ | .mulh _ d _ | .madd _ d _ | .div _ d _ | .rem _ d _
  | .divu _ d _ | .remu _ d _ | .mov _ d _ | .clz _ d _ | .popc _ d _ | .ext _ d _ | .ins _ d _ | .movi _ d _ | .addi _ d _
  | .andi _ d _ | .shli _ d _ | .shri _ d _ | .srai _ d _ | .pget _ d => some (dNum pl d)
  | _ => none

/-- The predicate register a predicate word writes. -/
def Sys2Proof.predDest : Instr → Option Nat
  | .cmpeq _ p _ | .cmpne _ p _ | .cmplt _ p _ | .cmple _ p _ | .cmpltu _ p _ | .cmpleu _ p _ => some p.toNat
  | .plog _ p _ _ | .pset _ p _ => some p.toNat
  | _ => none

/-- R328–R336, R86, R88: whatever comes of a register word (it runs, waits, is nullified or traps), everything of the machine beyond its
tile is as before; of its tile everything but its own strand, the residue checks under way (R391) and the POISON its pipes have met; of the
strand's registers st but for PPV, s and p but for the destination, and every l that counts no loop which ends at its address. -/
def Obligations.RegisterWordsFrame : Prop :=
  ∀ (s t : State) (e : Env) (i : Instr), s.focus = some e → exec i s = .next t →
    let r := (t.tile e.k).regs e.σ
    ((scalarDest e.pl i).isSome = true ∨ (predDest i).isSome = true →
      SameElsewhere e.k s t ∧ t.errstat = s.errstat ∧ SameTileMemory e.t (t.tile e.k) ∧ (t.tile e.k).strand (sideOther e.σ) = e.t.strand (sideOther e.σ) ∧
      r.live = e.r.live ∧ (∀ b, b ≠ 9 → r.st.getLsbD b = e.r.st.getLsbD b) ∧
      (∀ n, (∀ x ∈ e.r.loops, x.stop = e.r.pc → x.l ≠ n) → r.lget n = e.r.lget n)) ∧
    (∀ n, scalarDest e.pl i = some n → r.p = e.r.p ∧ ∀ j, j ≠ n → r.sget j = e.r.sget j) ∧
    (∀ n, predDest i = some n → r.s = e.r.s ∧ ∀ j, j ≠ n → r.pget j = e.r.pget j)

/-- A scalar store with the number of bytes it stores. -/
def Sys2Proof.narrowStore (m : Bool) (d a : BitVec 4) (n : Nat) (i : Instr) : Prop :=
  n = 1 ∧ i = .stb m d a ∨ n = 2 ∧ i = .sth m d a ∨ n = 4 ∧ i = .stw m d a ∨ n = 8 ∧ i = .std m d a

/-- R290, R293, R62: whatever comes of a scalar store, it changes no byte of its tile's field store, as the A-core sees it, outside the
bytes it stores to; of its strand's registers only pc, the loop stack with the l that count loops which end at its address, PLATCH and
PPV, as every word does; of its tile only its strand, the store buffer, the bank slots taken in this field cycle, and the errors that its
read of the granule finds and repairs; and nothing beyond its tile but the count of those (ERRSTAT, R65). -/
def Obligations.StoresFrame : Prop :=
  ∀ (s t : State) (e : Env) (m : Bool) (d a : BitVec 4) (n : Nat) (i : Instr), s.focus = some e → narrowStore m d a n i →
    exec i s = .next t →
    let f := (e.r.sget (aNum e.pl a)).toNat % 2 ^ 22
    let r := (t.tile e.k).regs e.σ
    let y := t.tile e.k
    SameElsewhere e.k s t ∧ y.strand (sideOther e.σ) = e.t.strand (sideOther e.σ) ∧
    r = { e.r with pc := r.pc, runPc := r.runPc, l := r.l, loops := r.loops, st := r.st, platch := r.platch } ∧
    (∀ b, b ≠ 9 → r.st.getLsbD b = e.r.st.getLsbD b) ∧
    (∀ n, (∀ x ∈ e.r.loops, x.stop = e.r.pc → x.l ≠ n) → r.lget n = e.r.lget n) ∧
    y = { e.t with a := y.a, e := y.e, sb := y.sb, nextId := y.nextId, uses := y.uses
                   field := { e.t.field with worn := y.field.worn, dead := y.field.dead } } ∧
    ∀ now b, b < f ∨ f + n ≤ b → y.fieldRead true now b 1 = e.t.fieldRead true now b 1

/-- R290, R293, R62, R136: a scalar store that runs completes, and the A-core then reads the bytes it stored at its address. -/
def Obligations.StoresReadBack : Prop :=
  ∀ (s : State) (e : Env) (m : Bool) (d a : BitVec 4) (n : Nat) (i : Instr), s.focus = some e → narrowStore m d a n i →
    e.pipeTaken = false → e.runs m formD2.aOnly false [tS (dNum e.pl d), tS (aNum e.pl a)] = true →
    let f := (e.r.sget (aNum e.pl a)).toNat % 2 ^ 22
    portACheck e.t e.run f n n = none →
    e.t.sbMergeable (f / 32) = true ∨ (e.t.isDead f n = false ∧ e.t.sb.length < 16) →
    ∃ t, exec i s = .next t ∧ ∀ now, (t.tile e.k).fieldRead true now f n = (e.r.sget (dNum e.pl d)).toNat % 2 ^ (8 * n)

/-! ## What every step keeps -/

/-- The second tier, the second tiers of other modules and the host memory keep their canonical form in every step. -/
def Obligations.FarMemoriesStayCanonical : Prop :=
  ∀ s t : State, s.farCanonical → step s = .next t → t.farCanonical

/-- R254: outside CONFIG_OPEN no step changes the locked configuration, but the one that takes a powered module to OFF. -/
def Obligations.LockedConfigurationStays : Prop :=
  ∀ s t : State, s.mstate ≠ .configOpen → step s = .next t → t.cfg = s.cfg ∨ (s.mstate ≠ .off ∧ t.mstate = .off)
end

