-- ==== Sys2Proof/Laws/Memory.lean ====
section
/-!
SUPPORT. Sys2Proof/Laws/Memory.lean: every operation on a byte memory keeps the canonical form, and what a write leaves
alone (R3, log entry 1).
-/
namespace Sys2Proof.Machine

@[simp] theorem Memory.wf_nil : Memory.wf [] := by simp [Memory.wf]

theorem Memory.cells_bounds (a x : Nat) : ∀ (n i : Nat), ∀ c ∈ Memory.cells a x i n, a + i ≤ c.1 ∧ c.1 < a + i + n ∧ c.2 ≠ Memory.blank
  | 0, _, c, h => by simp [Memory.cells] at h
  | n + 1, i, c, h => by
    unfold Memory.cells at h
    split at h
    · have := Memory.cells_bounds a x n (i + 1) c h
      exact ⟨by omega, by omega, this.2.2⟩
    · rename_i hb
      rcases List.mem_cons.1 h with h | h
      · subst h; exact ⟨by simp, by simp, hb⟩
      · have := Memory.cells_bounds a x n (i + 1) c h
        exact ⟨by omega, by omega, this.2.2⟩

theorem Memory.cells_rising (a x : Nat) : ∀ (n i : Nat), ((Memory.cells a x i n).map (·.1)).Pairwise (· < ·)
  | 0, _ => by simp [Memory.cells]
  | n + 1, i => by
    unfold Memory.cells
    split
    · exact Memory.cells_rising a x n (i + 1)
    · simp only [List.map_cons, List.pairwise_cons]
      refine ⟨fun b hb => ?_, Memory.cells_rising a x n (i + 1)⟩
      obtain ⟨c, hc, rfl⟩ := List.mem_map.1 hb
      have := Memory.cells_bounds a x n (i + 1) c hc
      omega

/-- In a rising memory what is left after dropping the addresses below `b` lies at `b` or above. -/
theorem Memory.dropWhile_above (b : Nat) : ∀ (m : List Host.Cell), (m.map (·.1)).Pairwise (· < ·) →
    ∀ c ∈ m.dropWhile (fun c => decide (c.1 < b)), b ≤ c.1
  | [], _, c, h => by simp at h
  | d :: m, w, c, h => by
    simp only [List.map_cons, List.pairwise_cons] at w
    by_cases hd : d.1 < b
    · rw [List.dropWhile_cons_of_pos (by simpa using hd)] at h
      exact Memory.dropWhile_above b m w.2 c h
    · rw [List.dropWhile_cons_of_neg (by simpa using hd)] at h
      rcases List.mem_cons.1 h with h | h
      · subst h; omega
      · have := w.1 c.1 (List.mem_map.2 ⟨c, h, rfl⟩)
        omega

theorem Memory.takeWhile_below (a : Nat) (m : List Host.Cell) : ∀ c ∈ m.takeWhile (fun c => decide (c.1 < a)), c.1 < a :=
  fun c h => by simpa using List.mem_takeWhile_imp h

/-- A write keeps the canonical form. -/
theorem Memory.write_wf {m : List Host.Cell} (a n x : Nat) (h : Memory.wf m) : Memory.wf (Memory.write m a n x) := by
  obtain ⟨hs, hb⟩ := h
  unfold Memory.write
  refine ⟨?_, fun c hc => ?_⟩
  · rw [List.map_append, List.map_append, List.pairwise_append, List.pairwise_append]
    refine ⟨⟨hs.sublist ((List.takeWhile_sublist _).map _), Memory.cells_rising a x n 0, ?_⟩,
      hs.sublist ((List.dropWhile_sublist _).map _), ?_⟩
    · intro p hp q hq
      obtain ⟨c, hc, rfl⟩ := List.mem_map.1 hp
      obtain ⟨d, hd, rfl⟩ := List.mem_map.1 hq
      have := Memory.takeWhile_below a m c hc
      have := Memory.cells_bounds a x n 0 d hd
      omega
    · intro p hp q hq
      obtain ⟨d, hd, rfl⟩ := List.mem_map.1 hq
      have hq' := Memory.dropWhile_above (a + n) m hs d hd
      rcases List.mem_append.1 hp with hp | hp
      · obtain ⟨c, hc, rfl⟩ := List.mem_map.1 hp
        have := Memory.takeWhile_below a m c hc
        omega
      · obtain ⟨c, hc, rfl⟩ := List.mem_map.1 hp
        have := Memory.cells_bounds a x n 0 c hc
        omega
  · rcases List.mem_append.1 hc with hc | hc
    · rcases List.mem_append.1 hc with hc | hc
      · exact hb c (List.takeWhile_sublist _ |>.subset hc)
      · exact (Memory.cells_bounds a x n 0 c hc).2.2
    · exact hb c (List.dropWhile_sublist _ |>.subset hc)

/-- A memory without some of its cells keeps the canonical form. -/
theorem Memory.filter_wf {m : List Host.Cell} (p : Host.Cell → Bool) (h : Memory.wf m) : Memory.wf (m.filter p) :=
  ⟨h.1.sublist (List.filter_sublist.map _), fun c hc => h.2 c (List.mem_of_mem_filter hc)⟩

/-- A write into a tile's banks keeps the canonical form (R62, R65). -/
theorem Tile.bankWrite_wf {t : Tile} (f n x : Nat) (h : Memory.wf t.field.mem) : Memory.wf (t.bankWrite f n x).field.mem := by
  unfold Tile.bankWrite
  simp only
  split <;> exact Memory.write_wf _ _ _ h

/-- A drained store keeps it (R62). -/
theorem Tile.sbWrite_wf {t : Tile} (e : SbEntry) (h : Memory.wf t.field.mem) : Memory.wf (t.sbWrite e).field.mem := by
  unfold Tile.sbWrite
  dsimp only
  split <;> exact Tile.bankWrite_wf _ _ _ h

end Sys2Proof.Machine
end

