-- ==== Sys2Proof/Laws/State.lean ====
section
/-!
SUPPORT. Sys2Proof/Laws/State.lean: for each update of the state, of a tile, of a strand and of its registers, what each
field is afterwards; and that what is put is what is got.
-/
namespace Sys2Proof.Machine

/-! ## Lists with rising keys -/

theorem mget_mput_same {α : Type} (m : List (Nat × α)) (k : Nat) (x : α) : mget (mput m k x) k = some x := by
  induction m with
  | nil => simp [mput, mget]
  | cons p r ih =>
    obtain ⟨j, y⟩ := p
    unfold mput
    split
    · simp [mget]
    · split
      · simp [mget]
      · rename_i h
        have h' : ¬ j = k := fun e => h e.symm
        simp [mget, h', ih]

theorem mem_of_mget {α : Type} {m : List (Nat × α)} {k : Nat} {x : α} (h : mget m k = some x) : (k, x) ∈ m := by
  induction m with
  | nil => simp [mget] at h
  | cons p r ih =>
    obtain ⟨j, y⟩ := p
    unfold mget at h
    split at h
    · simp_all
    · exact List.mem_cons_of_mem _ (ih h)

theorem mem_mput {α : Type} {m : List (Nat × α)} {k : Nat} {x : α} {p : Nat × α} (h : p ∈ mput m k x) : p = (k, x) ∨ p ∈ m := by
  induction m with
  | nil => simpa [mput] using h
  | cons q r ih =>
    obtain ⟨j, y⟩ := q
    unfold mput at h
    split at h
    · simpa using h
    · split at h
      · rcases List.mem_cons.1 h with h | h
        · exact .inl h
        · exact .inr (List.mem_cons_of_mem _ h)
      · rcases List.mem_cons.1 h with h | h
        · exact .inr (h ▸ List.mem_cons_self ..)
        · rcases ih h with h | h
          · exact .inl h
          · exact .inr (List.mem_cons_of_mem _ h)

theorem mget_mput_ne {α : Type} (m : List (Nat × α)) {j k : Nat} (x : α) (h : j ≠ k) : mget (mput m k x) j = mget m j := by
  induction m with
  | nil => simp [mput, mget, Ne.symm h]
  | cons p r ih =>
    obtain ⟨i, y⟩ := p
    unfold mput
    split
    · simp [mget, Ne.symm h]
    · split
      · rename_i e
        subst e
        simp [mget, Ne.symm h]
      · simp only [mget, ih]

@[simp] theorem State.tile_setTile (s : State) (k : Nat) (t : Tile) : (s.setTile k t).tile k = t := by
  simp [State.tile, State.setTile, mget_mput_same]

theorem State.tile_setTile_ne (s : State) {j k : Nat} (t : Tile) (h : j ≠ k) : (s.setTile k t).tile j = s.tile j := by
  simp [State.tile, State.setTile, mget_mput_ne _ _ h]

@[simp] theorem State.tile_modTile (s : State) (k : Nat) (f : Tile → Tile) : (s.modTile k f).tile k = f (s.tile k) := by
  simp [State.modTile]

theorem State.tile_modTile_ne (s : State) {j k : Nat} (f : Tile → Tile) (h : j ≠ k) : (s.modTile k f).tile j = s.tile j :=
  s.tile_setTile_ne _ h

@[simp] theorem Tile.strand_setStrand (t : Tile) (σ : Side) (x : Strand) : (t.setStrand σ x).strand σ = x := by
  cases σ <;> rfl

@[simp] theorem Tile.strand_setStrand_other (t : Tile) (σ : Side) (x : Strand) :
    (t.setStrand σ x).strand (sideOther σ) = t.strand (sideOther σ) := by
  cases σ <;> rfl

@[simp] theorem Tile.regs_modRegs (t : Tile) (σ : Side) (f : Regs → Regs) : (t.modRegs σ f).regs σ = f (t.regs σ) := by
  cases σ <;> rfl

@[simp] theorem Tile.strand_modRegs_other (t : Tile) (σ : Side) (f : Regs → Regs) :
    (t.modRegs σ f).strand (sideOther σ) = t.strand (sideOther σ) := by
  cases σ <;> rfl

/-! ## Updates of the state -/

@[simp] theorem State.setTile_cycle (s : State) (k : Nat) (t : Tile) : (s.setTile k t).cycle = s.cycle := rfl
@[simp] theorem State.setTile_time (s : State) (k : Nat) (t : Tile) : (s.setTile k t).time = s.time := rfl
@[simp] theorem State.setTile_clockOn (s : State) (k : Nat) (t : Tile) : (s.setTile k t).clockOn = s.clockOn := rfl
@[simp] theorem State.setTile_everRun (s : State) (k : Nat) (t : Tile) : (s.setTile k t).everRun = s.everRun := rfl
@[simp] theorem State.setTile_choice (s : State) (k : Nat) (t : Tile) : (s.setTile k t).choice = s.choice := rfl
@[simp] theorem State.setTile_seq (s : State) (k : Nat) (t : Tile) : (s.setTile k t).seq = s.seq := rfl
@[simp] theorem State.setTile_waiting (s : State) (k : Nat) (t : Tile) : (s.setTile k t).waiting = s.waiting := rfl
@[simp] theorem State.setTile_who (s : State) (k : Nat) (t : Tile) : (s.setTile k t).who = s.who := rfl
@[simp] theorem State.setTile_todo (s : State) (k : Nat) (t : Tile) : (s.setTile k t).todo = s.todo := rfl
@[simp] theorem State.setTile_inputs (s : State) (k : Nat) (t : Tile) : (s.setTile k t).inputs = s.inputs := rfl
@[simp] theorem State.setTile_sent (s : State) (k : Nat) (t : Tile) : (s.setTile k t).sent = s.sent := rfl
@[simp] theorem State.setTile_dies (s : State) (k : Nat) (t : Tile) : (s.setTile k t).dies = s.dies := rfl
@[simp] theorem State.setTile_ctxs (s : State) (k : Nat) (t : Tile) : (s.setTile k t).ctxs = s.ctxs := rfl
@[simp] theorem State.setTile_ctrls (s : State) (k : Nat) (t : Tile) : (s.setTile k t).ctrls = s.ctrls := rfl
@[simp] theorem State.setTile_cores (s : State) (k : Nat) (t : Tile) : (s.setTile k t).cores = s.cores := rfl
@[simp] theorem State.setTile_msix (s : State) (k : Nat) (t : Tile) : (s.setTile k t).msix = s.msix := rfl
@[simp] theorem State.setTile_links (s : State) (k : Nat) (t : Tile) : (s.setTile k t).links = s.links := rfl
@[simp] theorem State.setTile_runs (s : State) (k : Nat) (t : Tile) : (s.setTile k t).runs = s.runs := rfl
@[simp] theorem State.setTile_bookings (s : State) (k : Nat) (t : Tile) : (s.setTile k t).bookings = s.bookings := rfl
@[simp] theorem State.setTile_ops (s : State) (k : Nat) (t : Tile) : (s.setTile k t).ops = s.ops := rfl
@[simp] theorem State.setTile_fences (s : State) (k : Nat) (t : Tile) : (s.setTile k t).fences = s.fences := rfl
@[simp] theorem State.setTile_writes (s : State) (k : Nat) (t : Tile) : (s.setTile k t).writes = s.writes := rfl
@[simp] theorem State.setTile_tier (s : State) (k : Nat) (t : Tile) : (s.setTile k t).tier = s.tier := rfl
@[simp] theorem State.setTile_tierKeys (s : State) (k : Nat) (t : Tile) : (s.setTile k t).tierKeys = s.tierKeys := rfl
@[simp] theorem State.setTile_host (s : State) (k : Nat) (t : Tile) : (s.setTile k t).host = s.host := rfl
@[simp] theorem State.setTile_remotes (s : State) (k : Nat) (t : Tile) : (s.setTile k t).remotes = s.remotes := rfl
@[simp] theorem State.setTile_refusing (s : State) (k : Nat) (t : Tile) : (s.setTile k t).refusing = s.refusing := rfl
@[simp] theorem State.setTile_hostPriv (s : State) (k : Nat) (t : Tile) : (s.setTile k t).hostPriv = s.hostPriv := rfl
@[simp] theorem State.setTile_poison (s : State) (k : Nat) (t : Tile) : (s.setTile k t).poison = s.poison := rfl
@[simp] theorem State.setTile_soft (s : State) (k : Nat) (t : Tile) : (s.setTile k t).soft = s.soft := rfl
@[simp] theorem State.setTile_hard (s : State) (k : Nat) (t : Tile) : (s.setTile k t).hard = s.hard := rfl
@[simp] theorem State.setTile_homes (s : State) (k : Nat) (t : Tile) : (s.setTile k t).homes = s.homes := rfl
@[simp] theorem State.setTile_walks (s : State) (k : Nat) (t : Tile) : (s.setTile k t).walks = s.walks := rfl
@[simp] theorem State.setTile_handlers (s : State) (k : Nat) (t : Tile) : (s.setTile k t).handlers = s.handlers := rfl
@[simp] theorem State.setTile_frets (s : State) (k : Nat) (t : Tile) : (s.setTile k t).frets = s.frets := rfl
@[simp] theorem State.setTile_compacts (s : State) (k : Nat) (t : Tile) : (s.setTile k t).compacts = s.compacts := rfl
@[simp] theorem State.setTile_lookups (s : State) (k : Nat) (t : Tile) : (s.setTile k t).lookups = s.lookups := rfl
@[simp] theorem State.setTile_rebuilds (s : State) (k : Nat) (t : Tile) : (s.setTile k t).rebuilds = s.rebuilds := rfl
@[simp] theorem State.setTile_invals (s : State) (k : Nat) (t : Tile) : (s.setTile k t).invals = s.invals := rfl
@[simp] theorem State.setTile_messages (s : State) (k : Nat) (t : Tile) : (s.setTile k t).messages = s.messages := rfl
@[simp] theorem State.setTile_wintab (s : State) (k : Nat) (t : Tile) : (s.setTile k t).wintab = s.wintab := rfl
@[simp] theorem State.setTile_remoteSeq (s : State) (k : Nat) (t : Tile) : (s.setTile k t).remoteSeq = s.remoteSeq := rfl
@[simp] theorem State.setTile_remoteHeld (s : State) (k : Nat) (t : Tile) : (s.setTile k t).remoteHeld = s.remoteHeld := rfl
@[simp] theorem State.setTile_windowWrites (s : State) (k : Nat) (t : Tile) : (s.setTile k t).windowWrites = s.windowWrites := rfl
@[simp] theorem State.setTile_linkSeq (s : State) (k : Nat) (t : Tile) : (s.setTile k t).linkSeq = s.linkSeq := rfl
@[simp] theorem State.setTile_harrowSpent (s : State) (k : Nat) (t : Tile) : (s.setTile k t).harrowSpent = s.harrowSpent := rfl
@[simp] theorem State.setTile_hostSpent (s : State) (k : Nat) (t : Tile) : (s.setTile k t).hostSpent = s.hostSpent := rfl
@[simp] theorem State.setTile_mstate (s : State) (k : Nat) (t : Tile) : (s.setTile k t).mstate = s.mstate := rfl
@[simp] theorem State.setTile_cause (s : State) (k : Nat) (t : Tile) : (s.setTile k t).cause = s.cause := rfl
@[simp] theorem State.setTile_since (s : State) (k : Nat) (t : Tile) : (s.setTile k t).since = s.since := rfl
@[simp] theorem State.setTile_flowLow (s : State) (k : Nat) (t : Tile) : (s.setTile k t).flowLow = s.flowLow := rfl
@[simp] theorem State.setTile_drainCmd (s : State) (k : Nat) (t : Tile) : (s.setTile k t).drainCmd = s.drainCmd := rfl
@[simp] theorem State.setTile_selfRefresh (s : State) (k : Nat) (t : Tile) : (s.setTile k t).selfRefresh = s.selfRefresh := rfl
@[simp] theorem State.setTile_bandReg (s : State) (k : Nat) (t : Tile) : (s.setTile k t).bandReg = s.bandReg := rfl
@[simp] theorem State.setTile_clockSlow (s : State) (k : Nat) (t : Tile) : (s.setTile k t).clockSlow = s.clockSlow := rfl
@[simp] theorem State.setTile_errstat (s : State) (k : Nat) (t : Tile) : (s.setTile k t).errstat = s.errstat := rfl
@[simp] theorem State.setTile_coolflow (s : State) (k : Nat) (t : Tile) : (s.setTile k t).coolflow = s.coolflow := rfl
@[simp] theorem State.setTile_flow (s : State) (k : Nat) (t : Tile) : (s.setTile k t).flow = s.flow := rfl
@[simp] theorem State.setTile_power (s : State) (k : Nat) (t : Tile) : (s.setTile k t).power = s.power := rfl
@[simp] theorem State.setTile_powerNow (s : State) (k : Nat) (t : Tile) : (s.setTile k t).powerNow = s.powerNow := rfl
@[simp] theorem State.setTile_holdBook (s : State) (k : Nat) (t : Tile) : (s.setTile k t).holdBook = s.holdBook := rfl
@[simp] theorem State.setTile_cfg (s : State) (k : Nat) (t : Tile) : (s.setTile k t).cfg = s.cfg := rfl
@[simp] theorem State.setTile_reeve (s : State) (k : Nat) (t : Tile) : (s.setTile k t).reeve = s.reeve := rfl
@[simp] theorem State.setTile_freeCount (s : State) (k : Nat) (t : Tile) : (s.setTile k t).freeCount = s.freeCount := rfl
@[simp] theorem State.modTile_cycle (s : State) (k : Nat) (f : Tile → Tile) : (s.modTile k f).cycle = s.cycle := rfl
@[simp] theorem State.modTile_time (s : State) (k : Nat) (f : Tile → Tile) : (s.modTile k f).time = s.time := rfl
@[simp] theorem State.modTile_clockOn (s : State) (k : Nat) (f : Tile → Tile) : (s.modTile k f).clockOn = s.clockOn := rfl
@[simp] theorem State.modTile_everRun (s : State) (k : Nat) (f : Tile → Tile) : (s.modTile k f).everRun = s.everRun := rfl
@[simp] theorem State.modTile_choice (s : State) (k : Nat) (f : Tile → Tile) : (s.modTile k f).choice = s.choice := rfl
@[simp] theorem State.modTile_seq (s : State) (k : Nat) (f : Tile → Tile) : (s.modTile k f).seq = s.seq := rfl
@[simp] theorem State.modTile_waiting (s : State) (k : Nat) (f : Tile → Tile) : (s.modTile k f).waiting = s.waiting := rfl
@[simp] theorem State.modTile_who (s : State) (k : Nat) (f : Tile → Tile) : (s.modTile k f).who = s.who := rfl
@[simp] theorem State.modTile_todo (s : State) (k : Nat) (f : Tile → Tile) : (s.modTile k f).todo = s.todo := rfl
@[simp] theorem State.modTile_inputs (s : State) (k : Nat) (f : Tile → Tile) : (s.modTile k f).inputs = s.inputs := rfl
@[simp] theorem State.modTile_sent (s : State) (k : Nat) (f : Tile → Tile) : (s.modTile k f).sent = s.sent := rfl
@[simp] theorem State.modTile_dies (s : State) (k : Nat) (f : Tile → Tile) : (s.modTile k f).dies = s.dies := rfl
@[simp] theorem State.modTile_ctxs (s : State) (k : Nat) (f : Tile → Tile) : (s.modTile k f).ctxs = s.ctxs := rfl
@[simp] theorem State.modTile_ctrls (s : State) (k : Nat) (f : Tile → Tile) : (s.modTile k f).ctrls = s.ctrls := rfl
@[simp] theorem State.modTile_cores (s : State) (k : Nat) (f : Tile → Tile) : (s.modTile k f).cores = s.cores := rfl
@[simp] theorem State.modTile_msix (s : State) (k : Nat) (f : Tile → Tile) : (s.modTile k f).msix = s.msix := rfl
@[simp] theorem State.modTile_links (s : State) (k : Nat) (f : Tile → Tile) : (s.modTile k f).links = s.links := rfl
@[simp] theorem State.modTile_runs (s : State) (k : Nat) (f : Tile → Tile) : (s.modTile k f).runs = s.runs := rfl
@[simp] theorem State.modTile_bookings (s : State) (k : Nat) (f : Tile → Tile) : (s.modTile k f).bookings = s.bookings := rfl
@[simp] theorem State.modTile_ops (s : State) (k : Nat) (f : Tile → Tile) : (s.modTile k f).ops = s.ops := rfl
@[simp] theorem State.modTile_fences (s : State) (k : Nat) (f : Tile → Tile) : (s.modTile k f).fences = s.fences := rfl
@[simp] theorem State.modTile_writes (s : State) (k : Nat) (f : Tile → Tile) : (s.modTile k f).writes = s.writes := rfl
@[simp] theorem State.modTile_tier (s : State) (k : Nat) (f : Tile → Tile) : (s.modTile k f).tier = s.tier := rfl
@[simp] theorem State.modTile_tierKeys (s : State) (k : Nat) (f : Tile → Tile) : (s.modTile k f).tierKeys = s.tierKeys := rfl
@[simp] theorem State.modTile_host (s : State) (k : Nat) (f : Tile → Tile) : (s.modTile k f).host = s.host := rfl
@[simp] theorem State.modTile_remotes (s : State) (k : Nat) (f : Tile → Tile) : (s.modTile k f).remotes = s.remotes := rfl
@[simp] theorem State.modTile_refusing (s : State) (k : Nat) (f : Tile → Tile) : (s.modTile k f).refusing = s.refusing := rfl
@[simp] theorem State.modTile_hostPriv (s : State) (k : Nat) (f : Tile → Tile) : (s.modTile k f).hostPriv = s.hostPriv := rfl
@[simp] theorem State.modTile_poison (s : State) (k : Nat) (f : Tile → Tile) : (s.modTile k f).poison = s.poison := rfl
@[simp] theorem State.modTile_soft (s : State) (k : Nat) (f : Tile → Tile) : (s.modTile k f).soft = s.soft := rfl
@[simp] theorem State.modTile_hard (s : State) (k : Nat) (f : Tile → Tile) : (s.modTile k f).hard = s.hard := rfl
@[simp] theorem State.modTile_homes (s : State) (k : Nat) (f : Tile → Tile) : (s.modTile k f).homes = s.homes := rfl
@[simp] theorem State.modTile_walks (s : State) (k : Nat) (f : Tile → Tile) : (s.modTile k f).walks = s.walks := rfl
@[simp] theorem State.modTile_handlers (s : State) (k : Nat) (f : Tile → Tile) : (s.modTile k f).handlers = s.handlers := rfl
@[simp] theorem State.modTile_frets (s : State) (k : Nat) (f : Tile → Tile) : (s.modTile k f).frets = s.frets := rfl
@[simp] theorem State.modTile_compacts (s : State) (k : Nat) (f : Tile → Tile) : (s.modTile k f).compacts = s.compacts := rfl
@[simp] theorem State.modTile_lookups (s : State) (k : Nat) (f : Tile → Tile) : (s.modTile k f).lookups = s.lookups := rfl
@[simp] theorem State.modTile_rebuilds (s : State) (k : Nat) (f : Tile → Tile) : (s.modTile k f).rebuilds = s.rebuilds := rfl
@[simp] theorem State.modTile_invals (s : State) (k : Nat) (f : Tile → Tile) : (s.modTile k f).invals = s.invals := rfl
@[simp] theorem State.modTile_messages (s : State) (k : Nat) (f : Tile → Tile) : (s.modTile k f).messages = s.messages := rfl
@[simp] theorem State.modTile_wintab (s : State) (k : Nat) (f : Tile → Tile) : (s.modTile k f).wintab = s.wintab := rfl
@[simp] theorem State.modTile_remoteSeq (s : State) (k : Nat) (f : Tile → Tile) : (s.modTile k f).remoteSeq = s.remoteSeq := rfl
@[simp] theorem State.modTile_remoteHeld (s : State) (k : Nat) (f : Tile → Tile) : (s.modTile k f).remoteHeld = s.remoteHeld := rfl
@[simp] theorem State.modTile_windowWrites (s : State) (k : Nat) (f : Tile → Tile) : (s.modTile k f).windowWrites = s.windowWrites := rfl
@[simp] theorem State.modTile_linkSeq (s : State) (k : Nat) (f : Tile → Tile) : (s.modTile k f).linkSeq = s.linkSeq := rfl
@[simp] theorem State.modTile_harrowSpent (s : State) (k : Nat) (f : Tile → Tile) : (s.modTile k f).harrowSpent = s.harrowSpent := rfl
@[simp] theorem State.modTile_hostSpent (s : State) (k : Nat) (f : Tile → Tile) : (s.modTile k f).hostSpent = s.hostSpent := rfl
@[simp] theorem State.modTile_mstate (s : State) (k : Nat) (f : Tile → Tile) : (s.modTile k f).mstate = s.mstate := rfl
@[simp] theorem State.modTile_cause (s : State) (k : Nat) (f : Tile → Tile) : (s.modTile k f).cause = s.cause := rfl
@[simp] theorem State.modTile_since (s : State) (k : Nat) (f : Tile → Tile) : (s.modTile k f).since = s.since := rfl
@[simp] theorem State.modTile_flowLow (s : State) (k : Nat) (f : Tile → Tile) : (s.modTile k f).flowLow = s.flowLow := rfl
@[simp] theorem State.modTile_drainCmd (s : State) (k : Nat) (f : Tile → Tile) : (s.modTile k f).drainCmd = s.drainCmd := rfl
@[simp] theorem State.modTile_selfRefresh (s : State) (k : Nat) (f : Tile → Tile) : (s.modTile k f).selfRefresh = s.selfRefresh := rfl
@[simp] theorem State.modTile_bandReg (s : State) (k : Nat) (f : Tile → Tile) : (s.modTile k f).bandReg = s.bandReg := rfl
@[simp] theorem State.modTile_clockSlow (s : State) (k : Nat) (f : Tile → Tile) : (s.modTile k f).clockSlow = s.clockSlow := rfl
@[simp] theorem State.modTile_errstat (s : State) (k : Nat) (f : Tile → Tile) : (s.modTile k f).errstat = s.errstat := rfl
@[simp] theorem State.modTile_coolflow (s : State) (k : Nat) (f : Tile → Tile) : (s.modTile k f).coolflow = s.coolflow := rfl
@[simp] theorem State.modTile_flow (s : State) (k : Nat) (f : Tile → Tile) : (s.modTile k f).flow = s.flow := rfl
@[simp] theorem State.modTile_power (s : State) (k : Nat) (f : Tile → Tile) : (s.modTile k f).power = s.power := rfl
@[simp] theorem State.modTile_powerNow (s : State) (k : Nat) (f : Tile → Tile) : (s.modTile k f).powerNow = s.powerNow := rfl
@[simp] theorem State.modTile_holdBook (s : State) (k : Nat) (f : Tile → Tile) : (s.modTile k f).holdBook = s.holdBook := rfl
@[simp] theorem State.modTile_cfg (s : State) (k : Nat) (f : Tile → Tile) : (s.modTile k f).cfg = s.cfg := rfl
@[simp] theorem State.modTile_reeve (s : State) (k : Nat) (f : Tile → Tile) : (s.modTile k f).reeve = s.reeve := rfl
@[simp] theorem State.modTile_freeCount (s : State) (k : Nat) (f : Tile → Tile) : (s.modTile k f).freeCount = s.freeCount := rfl
@[simp] theorem State.modDie_cycle (s : State) (d : Nat) (f : Die → Die) : (s.modDie d f).cycle = s.cycle := rfl
@[simp] theorem State.modDie_time (s : State) (d : Nat) (f : Die → Die) : (s.modDie d f).time = s.time := rfl
@[simp] theorem State.modDie_clockOn (s : State) (d : Nat) (f : Die → Die) : (s.modDie d f).clockOn = s.clockOn := rfl
@[simp] theorem State.modDie_everRun (s : State) (d : Nat) (f : Die → Die) : (s.modDie d f).everRun = s.everRun := rfl
@[simp] theorem State.modDie_choice (s : State) (d : Nat) (f : Die → Die) : (s.modDie d f).choice = s.choice := rfl
@[simp] theorem State.modDie_seq (s : State) (d : Nat) (f : Die → Die) : (s.modDie d f).seq = s.seq := rfl
@[simp] theorem State.modDie_waiting (s : State) (d : Nat) (f : Die → Die) : (s.modDie d f).waiting = s.waiting := rfl
@[simp] theorem State.modDie_who (s : State) (d : Nat) (f : Die → Die) : (s.modDie d f).who = s.who := rfl
@[simp] theorem State.modDie_todo (s : State) (d : Nat) (f : Die → Die) : (s.modDie d f).todo = s.todo := rfl
@[simp] theorem State.modDie_inputs (s : State) (d : Nat) (f : Die → Die) : (s.modDie d f).inputs = s.inputs := rfl
@[simp] theorem State.modDie_sent (s : State) (d : Nat) (f : Die → Die) : (s.modDie d f).sent = s.sent := rfl
@[simp] theorem State.modDie_tiles (s : State) (d : Nat) (f : Die → Die) : (s.modDie d f).tiles = s.tiles := rfl
@[simp] theorem State.modDie_ctxs (s : State) (d : Nat) (f : Die → Die) : (s.modDie d f).ctxs = s.ctxs := rfl
@[simp] theorem State.modDie_ctrls (s : State) (d : Nat) (f : Die → Die) : (s.modDie d f).ctrls = s.ctrls := rfl
@[simp] theorem State.modDie_cores (s : State) (d : Nat) (f : Die → Die) : (s.modDie d f).cores = s.cores := rfl
@[simp] theorem State.modDie_msix (s : State) (d : Nat) (f : Die → Die) : (s.modDie d f).msix = s.msix := rfl
@[simp] theorem State.modDie_links (s : State) (d : Nat) (f : Die → Die) : (s.modDie d f).links = s.links := rfl
@[simp] theorem State.modDie_runs (s : State) (d : Nat) (f : Die → Die) : (s.modDie d f).runs = s.runs := rfl
@[simp] theorem State.modDie_bookings (s : State) (d : Nat) (f : Die → Die) : (s.modDie d f).bookings = s.bookings := rfl
@[simp] theorem State.modDie_ops (s : State) (d : Nat) (f : Die → Die) : (s.modDie d f).ops = s.ops := rfl
@[simp] theorem State.modDie_fences (s : State) (d : Nat) (f : Die → Die) : (s.modDie d f).fences = s.fences := rfl
@[simp] theorem State.modDie_writes (s : State) (d : Nat) (f : Die → Die) : (s.modDie d f).writes = s.writes := rfl
@[simp] theorem State.modDie_tier (s : State) (d : Nat) (f : Die → Die) : (s.modDie d f).tier = s.tier := rfl
@[simp] theorem State.modDie_tierKeys (s : State) (d : Nat) (f : Die → Die) : (s.modDie d f).tierKeys = s.tierKeys := rfl
@[simp] theorem State.modDie_host (s : State) (d : Nat) (f : Die → Die) : (s.modDie d f).host = s.host := rfl
@[simp] theorem State.modDie_remotes (s : State) (d : Nat) (f : Die → Die) : (s.modDie d f).remotes = s.remotes := rfl
@[simp] theorem State.modDie_refusing (s : State) (d : Nat) (f : Die → Die) : (s.modDie d f).refusing = s.refusing := rfl
@[simp] theorem State.modDie_hostPriv (s : State) (d : Nat) (f : Die → Die) : (s.modDie d f).hostPriv = s.hostPriv := rfl
@[simp] theorem State.modDie_poison (s : State) (d : Nat) (f : Die → Die) : (s.modDie d f).poison = s.poison := rfl
@[simp] theorem State.modDie_soft (s : State) (d : Nat) (f : Die → Die) : (s.modDie d f).soft = s.soft := rfl
@[simp] theorem State.modDie_hard (s : State) (d : Nat) (f : Die → Die) : (s.modDie d f).hard = s.hard := rfl
@[simp] theorem State.modDie_homes (s : State) (d : Nat) (f : Die → Die) : (s.modDie d f).homes = s.homes := rfl
@[simp] theorem State.modDie_walks (s : State) (d : Nat) (f : Die → Die) : (s.modDie d f).walks = s.walks := rfl
@[simp] theorem State.modDie_handlers (s : State) (d : Nat) (f : Die → Die) : (s.modDie d f).handlers = s.handlers := rfl
@[simp] theorem State.modDie_frets (s : State) (d : Nat) (f : Die → Die) : (s.modDie d f).frets = s.frets := rfl
@[simp] theorem State.modDie_compacts (s : State) (d : Nat) (f : Die → Die) : (s.modDie d f).compacts = s.compacts := rfl
@[simp] theorem State.modDie_lookups (s : State) (d : Nat) (f : Die → Die) : (s.modDie d f).lookups = s.lookups := rfl
@[simp] theorem State.modDie_rebuilds (s : State) (d : Nat) (f : Die → Die) : (s.modDie d f).rebuilds = s.rebuilds := rfl
@[simp] theorem State.modDie_invals (s : State) (d : Nat) (f : Die → Die) : (s.modDie d f).invals = s.invals := rfl
@[simp] theorem State.modDie_messages (s : State) (d : Nat) (f : Die → Die) : (s.modDie d f).messages = s.messages := rfl
@[simp] theorem State.modDie_wintab (s : State) (d : Nat) (f : Die → Die) : (s.modDie d f).wintab = s.wintab := rfl
@[simp] theorem State.modDie_remoteSeq (s : State) (d : Nat) (f : Die → Die) : (s.modDie d f).remoteSeq = s.remoteSeq := rfl
@[simp] theorem State.modDie_remoteHeld (s : State) (d : Nat) (f : Die → Die) : (s.modDie d f).remoteHeld = s.remoteHeld := rfl
@[simp] theorem State.modDie_windowWrites (s : State) (d : Nat) (f : Die → Die) : (s.modDie d f).windowWrites = s.windowWrites := rfl
@[simp] theorem State.modDie_linkSeq (s : State) (d : Nat) (f : Die → Die) : (s.modDie d f).linkSeq = s.linkSeq := rfl
@[simp] theorem State.modDie_harrowSpent (s : State) (d : Nat) (f : Die → Die) : (s.modDie d f).harrowSpent = s.harrowSpent := rfl
@[simp] theorem State.modDie_hostSpent (s : State) (d : Nat) (f : Die → Die) : (s.modDie d f).hostSpent = s.hostSpent := rfl
@[simp] theorem State.modDie_mstate (s : State) (d : Nat) (f : Die → Die) : (s.modDie d f).mstate = s.mstate := rfl
@[simp] theorem State.modDie_cause (s : State) (d : Nat) (f : Die → Die) : (s.modDie d f).cause = s.cause := rfl
@[simp] theorem State.modDie_since (s : State) (d : Nat) (f : Die → Die) : (s.modDie d f).since = s.since := rfl
@[simp] theorem State.modDie_flowLow (s : State) (d : Nat) (f : Die → Die) : (s.modDie d f).flowLow = s.flowLow := rfl
@[simp] theorem State.modDie_drainCmd (s : State) (d : Nat) (f : Die → Die) : (s.modDie d f).drainCmd = s.drainCmd := rfl
@[simp] theorem State.modDie_selfRefresh (s : State) (d : Nat) (f : Die → Die) : (s.modDie d f).selfRefresh = s.selfRefresh := rfl
@[simp] theorem State.modDie_bandReg (s : State) (d : Nat) (f : Die → Die) : (s.modDie d f).bandReg = s.bandReg := rfl
@[simp] theorem State.modDie_clockSlow (s : State) (d : Nat) (f : Die → Die) : (s.modDie d f).clockSlow = s.clockSlow := rfl
@[simp] theorem State.modDie_errstat (s : State) (d : Nat) (f : Die → Die) : (s.modDie d f).errstat = s.errstat := rfl
@[simp] theorem State.modDie_coolflow (s : State) (d : Nat) (f : Die → Die) : (s.modDie d f).coolflow = s.coolflow := rfl
@[simp] theorem State.modDie_flow (s : State) (d : Nat) (f : Die → Die) : (s.modDie d f).flow = s.flow := rfl
@[simp] theorem State.modDie_power (s : State) (d : Nat) (f : Die → Die) : (s.modDie d f).power = s.power := rfl
@[simp] theorem State.modDie_powerNow (s : State) (d : Nat) (f : Die → Die) : (s.modDie d f).powerNow = s.powerNow := rfl
@[simp] theorem State.modDie_holdBook (s : State) (d : Nat) (f : Die → Die) : (s.modDie d f).holdBook = s.holdBook := rfl
@[simp] theorem State.modDie_cfg (s : State) (d : Nat) (f : Die → Die) : (s.modDie d f).cfg = s.cfg := rfl
@[simp] theorem State.modDie_reeve (s : State) (d : Nat) (f : Die → Die) : (s.modDie d f).reeve = s.reeve := rfl
@[simp] theorem State.modDie_freeCount (s : State) (d : Nat) (f : Die → Die) : (s.modDie d f).freeCount = s.freeCount := rfl
@[simp] theorem State.modCtx_cycle (s : State) (x : Nat) (f : Ctx → Ctx) : (s.modCtx x f).cycle = s.cycle := rfl
@[simp] theorem State.modCtx_time (s : State) (x : Nat) (f : Ctx → Ctx) : (s.modCtx x f).time = s.time := rfl
@[simp] theorem State.modCtx_clockOn (s : State) (x : Nat) (f : Ctx → Ctx) : (s.modCtx x f).clockOn = s.clockOn := rfl
@[simp] theorem State.modCtx_everRun (s : State) (x : Nat) (f : Ctx → Ctx) : (s.modCtx x f).everRun = s.everRun := rfl
@[simp] theorem State.modCtx_choice (s : State) (x : Nat) (f : Ctx → Ctx) : (s.modCtx x f).choice = s.choice := rfl
@[simp] theorem State.modCtx_seq (s : State) (x : Nat) (f : Ctx → Ctx) : (s.modCtx x f).seq = s.seq := rfl
@[simp] theorem State.modCtx_waiting (s : State) (x : Nat) (f : Ctx → Ctx) : (s.modCtx x f).waiting = s.waiting := rfl
@[simp] theorem State.modCtx_who (s : State) (x : Nat) (f : Ctx → Ctx) : (s.modCtx x f).who = s.who := rfl
@[simp] theorem State.modCtx_todo (s : State) (x : Nat) (f : Ctx → Ctx) : (s.modCtx x f).todo = s.todo := rfl
@[simp] theorem State.modCtx_inputs (s : State) (x : Nat) (f : Ctx → Ctx) : (s.modCtx x f).inputs = s.inputs := rfl
@[simp] theorem State.modCtx_sent (s : State) (x : Nat) (f : Ctx → Ctx) : (s.modCtx x f).sent = s.sent := rfl
@[simp] theorem State.modCtx_tiles (s : State) (x : Nat) (f : Ctx → Ctx) : (s.modCtx x f).tiles = s.tiles := rfl
@[simp] theorem State.modCtx_dies (s : State) (x : Nat) (f : Ctx → Ctx) : (s.modCtx x f).dies = s.dies := rfl
@[simp] theorem State.modCtx_ctrls (s : State) (x : Nat) (f : Ctx → Ctx) : (s.modCtx x f).ctrls = s.ctrls := rfl
@[simp] theorem State.modCtx_cores (s : State) (x : Nat) (f : Ctx → Ctx) : (s.modCtx x f).cores = s.cores := rfl
@[simp] theorem State.modCtx_msix (s : State) (x : Nat) (f : Ctx → Ctx) : (s.modCtx x f).msix = s.msix := rfl
@[simp] theorem State.modCtx_links (s : State) (x : Nat) (f : Ctx → Ctx) : (s.modCtx x f).links = s.links := rfl
@[simp] theorem State.modCtx_runs (s : State) (x : Nat) (f : Ctx → Ctx) : (s.modCtx x f).runs = s.runs := rfl
@[simp] theorem State.modCtx_bookings (s : State) (x : Nat) (f : Ctx → Ctx) : (s.modCtx x f).bookings = s.bookings := rfl
@[simp] theorem State.modCtx_ops (s : State) (x : Nat) (f : Ctx → Ctx) : (s.modCtx x f).ops = s.ops := rfl
@[simp] theorem State.modCtx_fences (s : State) (x : Nat) (f : Ctx → Ctx) : (s.modCtx x f).fences = s.fences := rfl
@[simp] theorem State.modCtx_writes (s : State) (x : Nat) (f : Ctx → Ctx) : (s.modCtx x f).writes = s.writes := rfl
@[simp] theorem State.modCtx_tier (s : State) (x : Nat) (f : Ctx → Ctx) : (s.modCtx x f).tier = s.tier := rfl
@[simp] theorem State.modCtx_tierKeys (s : State) (x : Nat) (f : Ctx → Ctx) : (s.modCtx x f).tierKeys = s.tierKeys := rfl
@[simp] theorem State.modCtx_host (s : State) (x : Nat) (f : Ctx → Ctx) : (s.modCtx x f).host = s.host := rfl
@[simp] theorem State.modCtx_remotes (s : State) (x : Nat) (f : Ctx → Ctx) : (s.modCtx x f).remotes = s.remotes := rfl
@[simp] theorem State.modCtx_refusing (s : State) (x : Nat) (f : Ctx → Ctx) : (s.modCtx x f).refusing = s.refusing := rfl
@[simp] theorem State.modCtx_hostPriv (s : State) (x : Nat) (f : Ctx → Ctx) : (s.modCtx x f).hostPriv = s.hostPriv := rfl
@[simp] theorem State.modCtx_poison (s : State) (x : Nat) (f : Ctx → Ctx) : (s.modCtx x f).poison = s.poison := rfl
@[simp] theorem State.modCtx_soft (s : State) (x : Nat) (f : Ctx → Ctx) : (s.modCtx x f).soft = s.soft := rfl
@[simp] theorem State.modCtx_hard (s : State) (x : Nat) (f : Ctx → Ctx) : (s.modCtx x f).hard = s.hard := rfl
@[simp] theorem State.modCtx_homes (s : State) (x : Nat) (f : Ctx → Ctx) : (s.modCtx x f).homes = s.homes := rfl
@[simp] theorem State.modCtx_walks (s : State) (x : Nat) (f : Ctx → Ctx) : (s.modCtx x f).walks = s.walks := rfl
@[simp] theorem State.modCtx_handlers (s : State) (x : Nat) (f : Ctx → Ctx) : (s.modCtx x f).handlers = s.handlers := rfl
@[simp] theorem State.modCtx_frets (s : State) (x : Nat) (f : Ctx → Ctx) : (s.modCtx x f).frets = s.frets := rfl
@[simp] theorem State.modCtx_compacts (s : State) (x : Nat) (f : Ctx → Ctx) : (s.modCtx x f).compacts = s.compacts := rfl
@[simp] theorem State.modCtx_lookups (s : State) (x : Nat) (f : Ctx → Ctx) : (s.modCtx x f).lookups = s.lookups := rfl
@[simp] theorem State.modCtx_rebuilds (s : State) (x : Nat) (f : Ctx → Ctx) : (s.modCtx x f).rebuilds = s.rebuilds := rfl
@[simp] theorem State.modCtx_invals (s : State) (x : Nat) (f : Ctx → Ctx) : (s.modCtx x f).invals = s.invals := rfl
@[simp] theorem State.modCtx_messages (s : State) (x : Nat) (f : Ctx → Ctx) : (s.modCtx x f).messages = s.messages := rfl
@[simp] theorem State.modCtx_wintab (s : State) (x : Nat) (f : Ctx → Ctx) : (s.modCtx x f).wintab = s.wintab := rfl
@[simp] theorem State.modCtx_remoteSeq (s : State) (x : Nat) (f : Ctx → Ctx) : (s.modCtx x f).remoteSeq = s.remoteSeq := rfl
@[simp] theorem State.modCtx_remoteHeld (s : State) (x : Nat) (f : Ctx → Ctx) : (s.modCtx x f).remoteHeld = s.remoteHeld := rfl
@[simp] theorem State.modCtx_windowWrites (s : State) (x : Nat) (f : Ctx → Ctx) : (s.modCtx x f).windowWrites = s.windowWrites := rfl
@[simp] theorem State.modCtx_linkSeq (s : State) (x : Nat) (f : Ctx → Ctx) : (s.modCtx x f).linkSeq = s.linkSeq := rfl
@[simp] theorem State.modCtx_harrowSpent (s : State) (x : Nat) (f : Ctx → Ctx) : (s.modCtx x f).harrowSpent = s.harrowSpent := rfl
@[simp] theorem State.modCtx_hostSpent (s : State) (x : Nat) (f : Ctx → Ctx) : (s.modCtx x f).hostSpent = s.hostSpent := rfl
@[simp] theorem State.modCtx_mstate (s : State) (x : Nat) (f : Ctx → Ctx) : (s.modCtx x f).mstate = s.mstate := rfl
@[simp] theorem State.modCtx_cause (s : State) (x : Nat) (f : Ctx → Ctx) : (s.modCtx x f).cause = s.cause := rfl
@[simp] theorem State.modCtx_since (s : State) (x : Nat) (f : Ctx → Ctx) : (s.modCtx x f).since = s.since := rfl
@[simp] theorem State.modCtx_flowLow (s : State) (x : Nat) (f : Ctx → Ctx) : (s.modCtx x f).flowLow = s.flowLow := rfl
@[simp] theorem State.modCtx_drainCmd (s : State) (x : Nat) (f : Ctx → Ctx) : (s.modCtx x f).drainCmd = s.drainCmd := rfl
@[simp] theorem State.modCtx_selfRefresh (s : State) (x : Nat) (f : Ctx → Ctx) : (s.modCtx x f).selfRefresh = s.selfRefresh := rfl
@[simp] theorem State.modCtx_bandReg (s : State) (x : Nat) (f : Ctx → Ctx) : (s.modCtx x f).bandReg = s.bandReg := rfl
@[simp] theorem State.modCtx_clockSlow (s : State) (x : Nat) (f : Ctx → Ctx) : (s.modCtx x f).clockSlow = s.clockSlow := rfl
@[simp] theorem State.modCtx_errstat (s : State) (x : Nat) (f : Ctx → Ctx) : (s.modCtx x f).errstat = s.errstat := rfl
@[simp] theorem State.modCtx_coolflow (s : State) (x : Nat) (f : Ctx → Ctx) : (s.modCtx x f).coolflow = s.coolflow := rfl
@[simp] theorem State.modCtx_flow (s : State) (x : Nat) (f : Ctx → Ctx) : (s.modCtx x f).flow = s.flow := rfl
@[simp] theorem State.modCtx_power (s : State) (x : Nat) (f : Ctx → Ctx) : (s.modCtx x f).power = s.power := rfl
@[simp] theorem State.modCtx_powerNow (s : State) (x : Nat) (f : Ctx → Ctx) : (s.modCtx x f).powerNow = s.powerNow := rfl
@[simp] theorem State.modCtx_holdBook (s : State) (x : Nat) (f : Ctx → Ctx) : (s.modCtx x f).holdBook = s.holdBook := rfl
@[simp] theorem State.modCtx_cfg (s : State) (x : Nat) (f : Ctx → Ctx) : (s.modCtx x f).cfg = s.cfg := rfl
@[simp] theorem State.modCtx_reeve (s : State) (x : Nat) (f : Ctx → Ctx) : (s.modCtx x f).reeve = s.reeve := rfl
@[simp] theorem State.modCtx_freeCount (s : State) (x : Nat) (f : Ctx → Ctx) : (s.modCtx x f).freeCount = s.freeCount := rfl
@[simp] theorem State.modCtrl_cycle (s : State) (c : Nat) (f : Ctrl → Ctrl) : (s.modCtrl c f).cycle = s.cycle := rfl
@[simp] theorem State.modCtrl_time (s : State) (c : Nat) (f : Ctrl → Ctrl) : (s.modCtrl c f).time = s.time := rfl
@[simp] theorem State.modCtrl_clockOn (s : State) (c : Nat) (f : Ctrl → Ctrl) : (s.modCtrl c f).clockOn = s.clockOn := rfl
@[simp] theorem State.modCtrl_everRun (s : State) (c : Nat) (f : Ctrl → Ctrl) : (s.modCtrl c f).everRun = s.everRun := rfl
@[simp] theorem State.modCtrl_choice (s : State) (c : Nat) (f : Ctrl → Ctrl) : (s.modCtrl c f).choice = s.choice := rfl
@[simp] theorem State.modCtrl_seq (s : State) (c : Nat) (f : Ctrl → Ctrl) : (s.modCtrl c f).seq = s.seq := rfl
@[simp] theorem State.modCtrl_waiting (s : State) (c : Nat) (f : Ctrl → Ctrl) : (s.modCtrl c f).waiting = s.waiting := rfl
@[simp] theorem State.modCtrl_who (s : State) (c : Nat) (f : Ctrl → Ctrl) : (s.modCtrl c f).who = s.who := rfl
@[simp] theorem State.modCtrl_todo (s : State) (c : Nat) (f : Ctrl → Ctrl) : (s.modCtrl c f).todo = s.todo := rfl
@[simp] theorem State.modCtrl_inputs (s : State) (c : Nat) (f : Ctrl → Ctrl) : (s.modCtrl c f).inputs = s.inputs := rfl
@[simp] theorem State.modCtrl_sent (s : State) (c : Nat) (f : Ctrl → Ctrl) : (s.modCtrl c f).sent = s.sent := rfl
@[simp] theorem State.modCtrl_tiles (s : State) (c : Nat) (f : Ctrl → Ctrl) : (s.modCtrl c f).tiles = s.tiles := rfl
@[simp] theorem State.modCtrl_dies (s : State) (c : Nat) (f : Ctrl → Ctrl) : (s.modCtrl c f).dies = s.dies := rfl
@[simp] theorem State.modCtrl_ctxs (s : State) (c : Nat) (f : Ctrl → Ctrl) : (s.modCtrl c f).ctxs = s.ctxs := rfl
@[simp] theorem State.modCtrl_cores (s : State) (c : Nat) (f : Ctrl → Ctrl) : (s.modCtrl c f).cores = s.cores := rfl
@[simp] theorem State.modCtrl_msix (s : State) (c : Nat) (f : Ctrl → Ctrl) : (s.modCtrl c f).msix = s.msix := rfl
@[simp] theorem State.modCtrl_links (s : State) (c : Nat) (f : Ctrl → Ctrl) : (s.modCtrl c f).links = s.links := rfl
@[simp] theorem State.modCtrl_runs (s : State) (c : Nat) (f : Ctrl → Ctrl) : (s.modCtrl c f).runs = s.runs := rfl
@[simp] theorem State.modCtrl_bookings (s : State) (c : Nat) (f : Ctrl → Ctrl) : (s.modCtrl c f).bookings = s.bookings := rfl
@[simp] theorem State.modCtrl_ops (s : State) (c : Nat) (f : Ctrl → Ctrl) : (s.modCtrl c f).ops = s.ops := rfl
@[simp] theorem State.modCtrl_fences (s : State) (c : Nat) (f : Ctrl → Ctrl) : (s.modCtrl c f).fences = s.fences := rfl
@[simp] theorem State.modCtrl_writes (s : State) (c : Nat) (f : Ctrl → Ctrl) : (s.modCtrl c f).writes = s.writes := rfl
@[simp] theorem State.modCtrl_tier (s : State) (c : Nat) (f : Ctrl → Ctrl) : (s.modCtrl c f).tier = s.tier := rfl
@[simp] theorem State.modCtrl_tierKeys (s : State) (c : Nat) (f : Ctrl → Ctrl) : (s.modCtrl c f).tierKeys = s.tierKeys := rfl
@[simp] theorem State.modCtrl_host (s : State) (c : Nat) (f : Ctrl → Ctrl) : (s.modCtrl c f).host = s.host := rfl
@[simp] theorem State.modCtrl_remotes (s : State) (c : Nat) (f : Ctrl → Ctrl) : (s.modCtrl c f).remotes = s.remotes := rfl
@[simp] theorem State.modCtrl_refusing (s : State) (c : Nat) (f : Ctrl → Ctrl) : (s.modCtrl c f).refusing = s.refusing := rfl
@[simp] theorem State.modCtrl_hostPriv (s : State) (c : Nat) (f : Ctrl → Ctrl) : (s.modCtrl c f).hostPriv = s.hostPriv := rfl
@[simp] theorem State.modCtrl_poison (s : State) (c : Nat) (f : Ctrl → Ctrl) : (s.modCtrl c f).poison = s.poison := rfl
@[simp] theorem State.modCtrl_soft (s : State) (c : Nat) (f : Ctrl → Ctrl) : (s.modCtrl c f).soft = s.soft := rfl
@[simp] theorem State.modCtrl_hard (s : State) (c : Nat) (f : Ctrl → Ctrl) : (s.modCtrl c f).hard = s.hard := rfl
@[simp] theorem State.modCtrl_homes (s : State) (c : Nat) (f : Ctrl → Ctrl) : (s.modCtrl c f).homes = s.homes := rfl
@[simp] theorem State.modCtrl_walks (s : State) (c : Nat) (f : Ctrl → Ctrl) : (s.modCtrl c f).walks = s.walks := rfl
@[simp] theorem State.modCtrl_handlers (s : State) (c : Nat) (f : Ctrl → Ctrl) : (s.modCtrl c f).handlers = s.handlers := rfl
@[simp] theorem State.modCtrl_frets (s : State) (c : Nat) (f : Ctrl → Ctrl) : (s.modCtrl c f).frets = s.frets := rfl
@[simp] theorem State.modCtrl_compacts (s : State) (c : Nat) (f : Ctrl → Ctrl) : (s.modCtrl c f).compacts = s.compacts := rfl
@[simp] theorem State.modCtrl_lookups (s : State) (c : Nat) (f : Ctrl → Ctrl) : (s.modCtrl c f).lookups = s.lookups := rfl
@[simp] theorem State.modCtrl_rebuilds (s : State) (c : Nat) (f : Ctrl → Ctrl) : (s.modCtrl c f).rebuilds = s.rebuilds := rfl
@[simp] theorem State.modCtrl_invals (s : State) (c : Nat) (f : Ctrl → Ctrl) : (s.modCtrl c f).invals = s.invals := rfl
@[simp] theorem State.modCtrl_messages (s : State) (c : Nat) (f : Ctrl → Ctrl) : (s.modCtrl c f).messages = s.messages := rfl
@[simp] theorem State.modCtrl_wintab (s : State) (c : Nat) (f : Ctrl → Ctrl) : (s.modCtrl c f).wintab = s.wintab := rfl
@[simp] theorem State.modCtrl_remoteSeq (s : State) (c : Nat) (f : Ctrl → Ctrl) : (s.modCtrl c f).remoteSeq = s.remoteSeq := rfl
@[simp] theorem State.modCtrl_remoteHeld (s : State) (c : Nat) (f : Ctrl → Ctrl) : (s.modCtrl c f).remoteHeld = s.remoteHeld := rfl
@[simp] theorem State.modCtrl_windowWrites (s : State) (c : Nat) (f : Ctrl → Ctrl) : (s.modCtrl c f).windowWrites = s.windowWrites := rfl
@[simp] theorem State.modCtrl_linkSeq (s : State) (c : Nat) (f : Ctrl → Ctrl) : (s.modCtrl c f).linkSeq = s.linkSeq := rfl
@[simp] theorem State.modCtrl_harrowSpent (s : State) (c : Nat) (f : Ctrl → Ctrl) : (s.modCtrl c f).harrowSpent = s.harrowSpent := rfl
@[simp] theorem State.modCtrl_hostSpent (s : State) (c : Nat) (f : Ctrl → Ctrl) : (s.modCtrl c f).hostSpent = s.hostSpent := rfl
@[simp] theorem State.modCtrl_mstate (s : State) (c : Nat) (f : Ctrl → Ctrl) : (s.modCtrl c f).mstate = s.mstate := rfl
@[simp] theorem State.modCtrl_cause (s : State) (c : Nat) (f : Ctrl → Ctrl) : (s.modCtrl c f).cause = s.cause := rfl
@[simp] theorem State.modCtrl_since (s : State) (c : Nat) (f : Ctrl → Ctrl) : (s.modCtrl c f).since = s.since := rfl
@[simp] theorem State.modCtrl_flowLow (s : State) (c : Nat) (f : Ctrl → Ctrl) : (s.modCtrl c f).flowLow = s.flowLow := rfl
@[simp] theorem State.modCtrl_drainCmd (s : State) (c : Nat) (f : Ctrl → Ctrl) : (s.modCtrl c f).drainCmd = s.drainCmd := rfl
@[simp] theorem State.modCtrl_selfRefresh (s : State) (c : Nat) (f : Ctrl → Ctrl) : (s.modCtrl c f).selfRefresh = s.selfRefresh := rfl
@[simp] theorem State.modCtrl_bandReg (s : State) (c : Nat) (f : Ctrl → Ctrl) : (s.modCtrl c f).bandReg = s.bandReg := rfl
@[simp] theorem State.modCtrl_clockSlow (s : State) (c : Nat) (f : Ctrl → Ctrl) : (s.modCtrl c f).clockSlow = s.clockSlow := rfl
@[simp] theorem State.modCtrl_errstat (s : State) (c : Nat) (f : Ctrl → Ctrl) : (s.modCtrl c f).errstat = s.errstat := rfl
@[simp] theorem State.modCtrl_coolflow (s : State) (c : Nat) (f : Ctrl → Ctrl) : (s.modCtrl c f).coolflow = s.coolflow := rfl
@[simp] theorem State.modCtrl_flow (s : State) (c : Nat) (f : Ctrl → Ctrl) : (s.modCtrl c f).flow = s.flow := rfl
@[simp] theorem State.modCtrl_power (s : State) (c : Nat) (f : Ctrl → Ctrl) : (s.modCtrl c f).power = s.power := rfl
@[simp] theorem State.modCtrl_powerNow (s : State) (c : Nat) (f : Ctrl → Ctrl) : (s.modCtrl c f).powerNow = s.powerNow := rfl
@[simp] theorem State.modCtrl_holdBook (s : State) (c : Nat) (f : Ctrl → Ctrl) : (s.modCtrl c f).holdBook = s.holdBook := rfl
@[simp] theorem State.modCtrl_cfg (s : State) (c : Nat) (f : Ctrl → Ctrl) : (s.modCtrl c f).cfg = s.cfg := rfl
@[simp] theorem State.modCtrl_reeve (s : State) (c : Nat) (f : Ctrl → Ctrl) : (s.modCtrl c f).reeve = s.reeve := rfl
@[simp] theorem State.modCtrl_freeCount (s : State) (c : Nat) (f : Ctrl → Ctrl) : (s.modCtrl c f).freeCount = s.freeCount := rfl
@[simp] theorem State.modCore_cycle (s : State) (k : Nat) (f : Core → Core) : (s.modCore k f).cycle = s.cycle := rfl
@[simp] theorem State.modCore_time (s : State) (k : Nat) (f : Core → Core) : (s.modCore k f).time = s.time := rfl
@[simp] theorem State.modCore_clockOn (s : State) (k : Nat) (f : Core → Core) : (s.modCore k f).clockOn = s.clockOn := rfl
@[simp] theorem State.modCore_everRun (s : State) (k : Nat) (f : Core → Core) : (s.modCore k f).everRun = s.everRun := rfl
@[simp] theorem State.modCore_choice (s : State) (k : Nat) (f : Core → Core) : (s.modCore k f).choice = s.choice := rfl
@[simp] theorem State.modCore_seq (s : State) (k : Nat) (f : Core → Core) : (s.modCore k f).seq = s.seq := rfl
@[simp] theorem State.modCore_waiting (s : State) (k : Nat) (f : Core → Core) : (s.modCore k f).waiting = s.waiting := rfl
@[simp] theorem State.modCore_who (s : State) (k : Nat) (f : Core → Core) : (s.modCore k f).who = s.who := rfl
@[simp] theorem State.modCore_todo (s : State) (k : Nat) (f : Core → Core) : (s.modCore k f).todo = s.todo := rfl
@[simp] theorem State.modCore_inputs (s : State) (k : Nat) (f : Core → Core) : (s.modCore k f).inputs = s.inputs := rfl
@[simp] theorem State.modCore_sent (s : State) (k : Nat) (f : Core → Core) : (s.modCore k f).sent = s.sent := rfl
@[simp] theorem State.modCore_tiles (s : State) (k : Nat) (f : Core → Core) : (s.modCore k f).tiles = s.tiles := rfl
@[simp] theorem State.modCore_dies (s : State) (k : Nat) (f : Core → Core) : (s.modCore k f).dies = s.dies := rfl
@[simp] theorem State.modCore_ctxs (s : State) (k : Nat) (f : Core → Core) : (s.modCore k f).ctxs = s.ctxs := rfl
@[simp] theorem State.modCore_ctrls (s : State) (k : Nat) (f : Core → Core) : (s.modCore k f).ctrls = s.ctrls := rfl
@[simp] theorem State.modCore_msix (s : State) (k : Nat) (f : Core → Core) : (s.modCore k f).msix = s.msix := rfl
@[simp] theorem State.modCore_links (s : State) (k : Nat) (f : Core → Core) : (s.modCore k f).links = s.links := rfl
@[simp] theorem State.modCore_runs (s : State) (k : Nat) (f : Core → Core) : (s.modCore k f).runs = s.runs := rfl
@[simp] theorem State.modCore_bookings (s : State) (k : Nat) (f : Core → Core) : (s.modCore k f).bookings = s.bookings := rfl
@[simp] theorem State.modCore_ops (s : State) (k : Nat) (f : Core → Core) : (s.modCore k f).ops = s.ops := rfl
@[simp] theorem State.modCore_fences (s : State) (k : Nat) (f : Core → Core) : (s.modCore k f).fences = s.fences := rfl
@[simp] theorem State.modCore_writes (s : State) (k : Nat) (f : Core → Core) : (s.modCore k f).writes = s.writes := rfl
@[simp] theorem State.modCore_tier (s : State) (k : Nat) (f : Core → Core) : (s.modCore k f).tier = s.tier := rfl
@[simp] theorem State.modCore_tierKeys (s : State) (k : Nat) (f : Core → Core) : (s.modCore k f).tierKeys = s.tierKeys := rfl
@[simp] theorem State.modCore_host (s : State) (k : Nat) (f : Core → Core) : (s.modCore k f).host = s.host := rfl
@[simp] theorem State.modCore_remotes (s : State) (k : Nat) (f : Core → Core) : (s.modCore k f).remotes = s.remotes := rfl
@[simp] theorem State.modCore_refusing (s : State) (k : Nat) (f : Core → Core) : (s.modCore k f).refusing = s.refusing := rfl
@[simp] theorem State.modCore_hostPriv (s : State) (k : Nat) (f : Core → Core) : (s.modCore k f).hostPriv = s.hostPriv := rfl
@[simp] theorem State.modCore_poison (s : State) (k : Nat) (f : Core → Core) : (s.modCore k f).poison = s.poison := rfl
@[simp] theorem State.modCore_soft (s : State) (k : Nat) (f : Core → Core) : (s.modCore k f).soft = s.soft := rfl
@[simp] theorem State.modCore_hard (s : State) (k : Nat) (f : Core → Core) : (s.modCore k f).hard = s.hard := rfl
@[simp] theorem State.modCore_homes (s : State) (k : Nat) (f : Core → Core) : (s.modCore k f).homes = s.homes := rfl
@[simp] theorem State.modCore_walks (s : State) (k : Nat) (f : Core → Core) : (s.modCore k f).walks = s.walks := rfl
@[simp] theorem State.modCore_handlers (s : State) (k : Nat) (f : Core → Core) : (s.modCore k f).handlers = s.handlers := rfl
@[simp] theorem State.modCore_frets (s : State) (k : Nat) (f : Core → Core) : (s.modCore k f).frets = s.frets := rfl
@[simp] theorem State.modCore_compacts (s : State) (k : Nat) (f : Core → Core) : (s.modCore k f).compacts = s.compacts := rfl
@[simp] theorem State.modCore_lookups (s : State) (k : Nat) (f : Core → Core) : (s.modCore k f).lookups = s.lookups := rfl
@[simp] theorem State.modCore_rebuilds (s : State) (k : Nat) (f : Core → Core) : (s.modCore k f).rebuilds = s.rebuilds := rfl
@[simp] theorem State.modCore_invals (s : State) (k : Nat) (f : Core → Core) : (s.modCore k f).invals = s.invals := rfl
@[simp] theorem State.modCore_messages (s : State) (k : Nat) (f : Core → Core) : (s.modCore k f).messages = s.messages := rfl
@[simp] theorem State.modCore_wintab (s : State) (k : Nat) (f : Core → Core) : (s.modCore k f).wintab = s.wintab := rfl
@[simp] theorem State.modCore_remoteSeq (s : State) (k : Nat) (f : Core → Core) : (s.modCore k f).remoteSeq = s.remoteSeq := rfl
@[simp] theorem State.modCore_remoteHeld (s : State) (k : Nat) (f : Core → Core) : (s.modCore k f).remoteHeld = s.remoteHeld := rfl
@[simp] theorem State.modCore_windowWrites (s : State) (k : Nat) (f : Core → Core) : (s.modCore k f).windowWrites = s.windowWrites := rfl
@[simp] theorem State.modCore_linkSeq (s : State) (k : Nat) (f : Core → Core) : (s.modCore k f).linkSeq = s.linkSeq := rfl
@[simp] theorem State.modCore_harrowSpent (s : State) (k : Nat) (f : Core → Core) : (s.modCore k f).harrowSpent = s.harrowSpent := rfl
@[simp] theorem State.modCore_hostSpent (s : State) (k : Nat) (f : Core → Core) : (s.modCore k f).hostSpent = s.hostSpent := rfl
@[simp] theorem State.modCore_mstate (s : State) (k : Nat) (f : Core → Core) : (s.modCore k f).mstate = s.mstate := rfl
@[simp] theorem State.modCore_cause (s : State) (k : Nat) (f : Core → Core) : (s.modCore k f).cause = s.cause := rfl
@[simp] theorem State.modCore_since (s : State) (k : Nat) (f : Core → Core) : (s.modCore k f).since = s.since := rfl
@[simp] theorem State.modCore_flowLow (s : State) (k : Nat) (f : Core → Core) : (s.modCore k f).flowLow = s.flowLow := rfl
@[simp] theorem State.modCore_drainCmd (s : State) (k : Nat) (f : Core → Core) : (s.modCore k f).drainCmd = s.drainCmd := rfl
@[simp] theorem State.modCore_selfRefresh (s : State) (k : Nat) (f : Core → Core) : (s.modCore k f).selfRefresh = s.selfRefresh := rfl
@[simp] theorem State.modCore_bandReg (s : State) (k : Nat) (f : Core → Core) : (s.modCore k f).bandReg = s.bandReg := rfl
@[simp] theorem State.modCore_clockSlow (s : State) (k : Nat) (f : Core → Core) : (s.modCore k f).clockSlow = s.clockSlow := rfl
@[simp] theorem State.modCore_errstat (s : State) (k : Nat) (f : Core → Core) : (s.modCore k f).errstat = s.errstat := rfl
@[simp] theorem State.modCore_coolflow (s : State) (k : Nat) (f : Core → Core) : (s.modCore k f).coolflow = s.coolflow := rfl
@[simp] theorem State.modCore_flow (s : State) (k : Nat) (f : Core → Core) : (s.modCore k f).flow = s.flow := rfl
@[simp] theorem State.modCore_power (s : State) (k : Nat) (f : Core → Core) : (s.modCore k f).power = s.power := rfl
@[simp] theorem State.modCore_powerNow (s : State) (k : Nat) (f : Core → Core) : (s.modCore k f).powerNow = s.powerNow := rfl
@[simp] theorem State.modCore_holdBook (s : State) (k : Nat) (f : Core → Core) : (s.modCore k f).holdBook = s.holdBook := rfl
@[simp] theorem State.modCore_cfg (s : State) (k : Nat) (f : Core → Core) : (s.modCore k f).cfg = s.cfg := rfl
@[simp] theorem State.modCore_reeve (s : State) (k : Nat) (f : Core → Core) : (s.modCore k f).reeve = s.reeve := rfl
@[simp] theorem State.modCore_freeCount (s : State) (k : Nat) (f : Core → Core) : (s.modCore k f).freeCount = s.freeCount := rfl
@[simp] theorem State.modLink_cycle (s : State) (p : Nat) (f : LinkPort → LinkPort) : (s.modLink p f).cycle = s.cycle := rfl
@[simp] theorem State.modLink_time (s : State) (p : Nat) (f : LinkPort → LinkPort) : (s.modLink p f).time = s.time := rfl
@[simp] theorem State.modLink_clockOn (s : State) (p : Nat) (f : LinkPort → LinkPort) : (s.modLink p f).clockOn = s.clockOn := rfl
@[simp] theorem State.modLink_everRun (s : State) (p : Nat) (f : LinkPort → LinkPort) : (s.modLink p f).everRun = s.everRun := rfl
@[simp] theorem State.modLink_choice (s : State) (p : Nat) (f : LinkPort → LinkPort) : (s.modLink p f).choice = s.choice := rfl
@[simp] theorem State.modLink_seq (s : State) (p : Nat) (f : LinkPort → LinkPort) : (s.modLink p f).seq = s.seq := rfl
@[simp] theorem State.modLink_waiting (s : State) (p : Nat) (f : LinkPort → LinkPort) : (s.modLink p f).waiting = s.waiting := rfl
@[simp] theorem State.modLink_who (s : State) (p : Nat) (f : LinkPort → LinkPort) : (s.modLink p f).who = s.who := rfl
@[simp] theorem State.modLink_todo (s : State) (p : Nat) (f : LinkPort → LinkPort) : (s.modLink p f).todo = s.todo := rfl
@[simp] theorem State.modLink_inputs (s : State) (p : Nat) (f : LinkPort → LinkPort) : (s.modLink p f).inputs = s.inputs := rfl
@[simp] theorem State.modLink_sent (s : State) (p : Nat) (f : LinkPort → LinkPort) : (s.modLink p f).sent = s.sent := rfl
@[simp] theorem State.modLink_tiles (s : State) (p : Nat) (f : LinkPort → LinkPort) : (s.modLink p f).tiles = s.tiles := rfl
@[simp] theorem State.modLink_dies (s : State) (p : Nat) (f : LinkPort → LinkPort) : (s.modLink p f).dies = s.dies := rfl
@[simp] theorem State.modLink_ctxs (s : State) (p : Nat) (f : LinkPort → LinkPort) : (s.modLink p f).ctxs = s.ctxs := rfl
@[simp] theorem State.modLink_ctrls (s : State) (p : Nat) (f : LinkPort → LinkPort) : (s.modLink p f).ctrls = s.ctrls := rfl
@[simp] theorem State.modLink_cores (s : State) (p : Nat) (f : LinkPort → LinkPort) : (s.modLink p f).cores = s.cores := rfl
@[simp] theorem State.modLink_msix (s : State) (p : Nat) (f : LinkPort → LinkPort) : (s.modLink p f).msix = s.msix := rfl
@[simp] theorem State.modLink_runs (s : State) (p : Nat) (f : LinkPort → LinkPort) : (s.modLink p f).runs = s.runs := rfl
@[simp] theorem State.modLink_bookings (s : State) (p : Nat) (f : LinkPort → LinkPort) : (s.modLink p f).bookings = s.bookings := rfl
@[simp] theorem State.modLink_ops (s : State) (p : Nat) (f : LinkPort → LinkPort) : (s.modLink p f).ops = s.ops := rfl
@[simp] theorem State.modLink_fences (s : State) (p : Nat) (f : LinkPort → LinkPort) : (s.modLink p f).fences = s.fences := rfl
@[simp] theorem State.modLink_writes (s : State) (p : Nat) (f : LinkPort → LinkPort) : (s.modLink p f).writes = s.writes := rfl
@[simp] theorem State.modLink_tier (s : State) (p : Nat) (f : LinkPort → LinkPort) : (s.modLink p f).tier = s.tier := rfl
@[simp] theorem State.modLink_tierKeys (s : State) (p : Nat) (f : LinkPort → LinkPort) : (s.modLink p f).tierKeys = s.tierKeys := rfl
@[simp] theorem State.modLink_host (s : State) (p : Nat) (f : LinkPort → LinkPort) : (s.modLink p f).host = s.host := rfl
@[simp] theorem State.modLink_remotes (s : State) (p : Nat) (f : LinkPort → LinkPort) : (s.modLink p f).remotes = s.remotes := rfl
@[simp] theorem State.modLink_refusing (s : State) (p : Nat) (f : LinkPort → LinkPort) : (s.modLink p f).refusing = s.refusing := rfl
@[simp] theorem State.modLink_hostPriv (s : State) (p : Nat) (f : LinkPort → LinkPort) : (s.modLink p f).hostPriv = s.hostPriv := rfl
@[simp] theorem State.modLink_poison (s : State) (p : Nat) (f : LinkPort → LinkPort) : (s.modLink p f).poison = s.poison := rfl
@[simp] theorem State.modLink_soft (s : State) (p : Nat) (f : LinkPort → LinkPort) : (s.modLink p f).soft = s.soft := rfl
@[simp] theorem State.modLink_hard (s : State) (p : Nat) (f : LinkPort → LinkPort) : (s.modLink p f).hard = s.hard := rfl
@[simp] theorem State.modLink_homes (s : State) (p : Nat) (f : LinkPort → LinkPort) : (s.modLink p f).homes = s.homes := rfl
@[simp] theorem State.modLink_walks (s : State) (p : Nat) (f : LinkPort → LinkPort) : (s.modLink p f).walks = s.walks := rfl
@[simp] theorem State.modLink_handlers (s : State) (p : Nat) (f : LinkPort → LinkPort) : (s.modLink p f).handlers = s.handlers := rfl
@[simp] theorem State.modLink_frets (s : State) (p : Nat) (f : LinkPort → LinkPort) : (s.modLink p f).frets = s.frets := rfl
@[simp] theorem State.modLink_compacts (s : State) (p : Nat) (f : LinkPort → LinkPort) : (s.modLink p f).compacts = s.compacts := rfl
@[simp] theorem State.modLink_lookups (s : State) (p : Nat) (f : LinkPort → LinkPort) : (s.modLink p f).lookups = s.lookups := rfl
@[simp] theorem State.modLink_rebuilds (s : State) (p : Nat) (f : LinkPort → LinkPort) : (s.modLink p f).rebuilds = s.rebuilds := rfl
@[simp] theorem State.modLink_invals (s : State) (p : Nat) (f : LinkPort → LinkPort) : (s.modLink p f).invals = s.invals := rfl
@[simp] theorem State.modLink_messages (s : State) (p : Nat) (f : LinkPort → LinkPort) : (s.modLink p f).messages = s.messages := rfl
@[simp] theorem State.modLink_wintab (s : State) (p : Nat) (f : LinkPort → LinkPort) : (s.modLink p f).wintab = s.wintab := rfl
@[simp] theorem State.modLink_remoteSeq (s : State) (p : Nat) (f : LinkPort → LinkPort) : (s.modLink p f).remoteSeq = s.remoteSeq := rfl
@[simp] theorem State.modLink_remoteHeld (s : State) (p : Nat) (f : LinkPort → LinkPort) : (s.modLink p f).remoteHeld = s.remoteHeld := rfl
@[simp] theorem State.modLink_windowWrites (s : State) (p : Nat) (f : LinkPort → LinkPort) : (s.modLink p f).windowWrites = s.windowWrites := rfl
@[simp] theorem State.modLink_linkSeq (s : State) (p : Nat) (f : LinkPort → LinkPort) : (s.modLink p f).linkSeq = s.linkSeq := rfl
@[simp] theorem State.modLink_harrowSpent (s : State) (p : Nat) (f : LinkPort → LinkPort) : (s.modLink p f).harrowSpent = s.harrowSpent := rfl
@[simp] theorem State.modLink_hostSpent (s : State) (p : Nat) (f : LinkPort → LinkPort) : (s.modLink p f).hostSpent = s.hostSpent := rfl
@[simp] theorem State.modLink_mstate (s : State) (p : Nat) (f : LinkPort → LinkPort) : (s.modLink p f).mstate = s.mstate := rfl
@[simp] theorem State.modLink_cause (s : State) (p : Nat) (f : LinkPort → LinkPort) : (s.modLink p f).cause = s.cause := rfl
@[simp] theorem State.modLink_since (s : State) (p : Nat) (f : LinkPort → LinkPort) : (s.modLink p f).since = s.since := rfl
@[simp] theorem State.modLink_flowLow (s : State) (p : Nat) (f : LinkPort → LinkPort) : (s.modLink p f).flowLow = s.flowLow := rfl
@[simp] theorem State.modLink_drainCmd (s : State) (p : Nat) (f : LinkPort → LinkPort) : (s.modLink p f).drainCmd = s.drainCmd := rfl
@[simp] theorem State.modLink_selfRefresh (s : State) (p : Nat) (f : LinkPort → LinkPort) : (s.modLink p f).selfRefresh = s.selfRefresh := rfl
@[simp] theorem State.modLink_bandReg (s : State) (p : Nat) (f : LinkPort → LinkPort) : (s.modLink p f).bandReg = s.bandReg := rfl
@[simp] theorem State.modLink_clockSlow (s : State) (p : Nat) (f : LinkPort → LinkPort) : (s.modLink p f).clockSlow = s.clockSlow := rfl
@[simp] theorem State.modLink_errstat (s : State) (p : Nat) (f : LinkPort → LinkPort) : (s.modLink p f).errstat = s.errstat := rfl
@[simp] theorem State.modLink_coolflow (s : State) (p : Nat) (f : LinkPort → LinkPort) : (s.modLink p f).coolflow = s.coolflow := rfl
@[simp] theorem State.modLink_flow (s : State) (p : Nat) (f : LinkPort → LinkPort) : (s.modLink p f).flow = s.flow := rfl
@[simp] theorem State.modLink_power (s : State) (p : Nat) (f : LinkPort → LinkPort) : (s.modLink p f).power = s.power := rfl
@[simp] theorem State.modLink_powerNow (s : State) (p : Nat) (f : LinkPort → LinkPort) : (s.modLink p f).powerNow = s.powerNow := rfl
@[simp] theorem State.modLink_holdBook (s : State) (p : Nat) (f : LinkPort → LinkPort) : (s.modLink p f).holdBook = s.holdBook := rfl
@[simp] theorem State.modLink_cfg (s : State) (p : Nat) (f : LinkPort → LinkPort) : (s.modLink p f).cfg = s.cfg := rfl
@[simp] theorem State.modLink_reeve (s : State) (p : Nat) (f : LinkPort → LinkPort) : (s.modLink p f).reeve = s.reeve := rfl
@[simp] theorem State.modLink_freeCount (s : State) (p : Nat) (f : LinkPort → LinkPort) : (s.modLink p f).freeCount = s.freeCount := rfl
@[simp] theorem State.send_cycle (s : State) (o : Output) : (s.send o).cycle = s.cycle := rfl
@[simp] theorem State.send_time (s : State) (o : Output) : (s.send o).time = s.time := rfl
@[simp] theorem State.send_clockOn (s : State) (o : Output) : (s.send o).clockOn = s.clockOn := rfl
@[simp] theorem State.send_everRun (s : State) (o : Output) : (s.send o).everRun = s.everRun := rfl
@[simp] theorem State.send_choice (s : State) (o : Output) : (s.send o).choice = s.choice := rfl
@[simp] theorem State.send_seq (s : State) (o : Output) : (s.send o).seq = s.seq := rfl
@[simp] theorem State.send_waiting (s : State) (o : Output) : (s.send o).waiting = s.waiting := rfl
@[simp] theorem State.send_who (s : State) (o : Output) : (s.send o).who = s.who := rfl
@[simp] theorem State.send_todo (s : State) (o : Output) : (s.send o).todo = s.todo := rfl
@[simp] theorem State.send_inputs (s : State) (o : Output) : (s.send o).inputs = s.inputs := rfl
@[simp] theorem State.send_tiles (s : State) (o : Output) : (s.send o).tiles = s.tiles := rfl
@[simp] theorem State.send_dies (s : State) (o : Output) : (s.send o).dies = s.dies := rfl
@[simp] theorem State.send_ctxs (s : State) (o : Output) : (s.send o).ctxs = s.ctxs := rfl
@[simp] theorem State.send_ctrls (s : State) (o : Output) : (s.send o).ctrls = s.ctrls := rfl
@[simp] theorem State.send_cores (s : State) (o : Output) : (s.send o).cores = s.cores := rfl
@[simp] theorem State.send_msix (s : State) (o : Output) : (s.send o).msix = s.msix := rfl
@[simp] theorem State.send_links (s : State) (o : Output) : (s.send o).links = s.links := rfl
@[simp] theorem State.send_runs (s : State) (o : Output) : (s.send o).runs = s.runs := rfl
@[simp] theorem State.send_bookings (s : State) (o : Output) : (s.send o).bookings = s.bookings := rfl
@[simp] theorem State.send_ops (s : State) (o : Output) : (s.send o).ops = s.ops := rfl
@[simp] theorem State.send_fences (s : State) (o : Output) : (s.send o).fences = s.fences := rfl
@[simp] theorem State.send_writes (s : State) (o : Output) : (s.send o).writes = s.writes := rfl
@[simp] theorem State.send_tier (s : State) (o : Output) : (s.send o).tier = s.tier := rfl
@[simp] theorem State.send_tierKeys (s : State) (o : Output) : (s.send o).tierKeys = s.tierKeys := rfl
@[simp] theorem State.send_host (s : State) (o : Output) : (s.send o).host = s.host := rfl
@[simp] theorem State.send_remotes (s : State) (o : Output) : (s.send o).remotes = s.remotes := rfl
@[simp] theorem State.send_refusing (s : State) (o : Output) : (s.send o).refusing = s.refusing := rfl
@[simp] theorem State.send_hostPriv (s : State) (o : Output) : (s.send o).hostPriv = s.hostPriv := rfl
@[simp] theorem State.send_poison (s : State) (o : Output) : (s.send o).poison = s.poison := rfl
@[simp] theorem State.send_soft (s : State) (o : Output) : (s.send o).soft = s.soft := rfl
@[simp] theorem State.send_hard (s : State) (o : Output) : (s.send o).hard = s.hard := rfl
@[simp] theorem State.send_homes (s : State) (o : Output) : (s.send o).homes = s.homes := rfl
@[simp] theorem State.send_walks (s : State) (o : Output) : (s.send o).walks = s.walks := rfl
@[simp] theorem State.send_handlers (s : State) (o : Output) : (s.send o).handlers = s.handlers := rfl
@[simp] theorem State.send_frets (s : State) (o : Output) : (s.send o).frets = s.frets := rfl
@[simp] theorem State.send_compacts (s : State) (o : Output) : (s.send o).compacts = s.compacts := rfl
@[simp] theorem State.send_lookups (s : State) (o : Output) : (s.send o).lookups = s.lookups := rfl
@[simp] theorem State.send_rebuilds (s : State) (o : Output) : (s.send o).rebuilds = s.rebuilds := rfl
@[simp] theorem State.send_invals (s : State) (o : Output) : (s.send o).invals = s.invals := rfl
@[simp] theorem State.send_messages (s : State) (o : Output) : (s.send o).messages = s.messages := rfl
@[simp] theorem State.send_wintab (s : State) (o : Output) : (s.send o).wintab = s.wintab := rfl
@[simp] theorem State.send_remoteSeq (s : State) (o : Output) : (s.send o).remoteSeq = s.remoteSeq := rfl
@[simp] theorem State.send_remoteHeld (s : State) (o : Output) : (s.send o).remoteHeld = s.remoteHeld := rfl
@[simp] theorem State.send_windowWrites (s : State) (o : Output) : (s.send o).windowWrites = s.windowWrites := rfl
@[simp] theorem State.send_linkSeq (s : State) (o : Output) : (s.send o).linkSeq = s.linkSeq := rfl
@[simp] theorem State.send_harrowSpent (s : State) (o : Output) : (s.send o).harrowSpent = s.harrowSpent := rfl
@[simp] theorem State.send_hostSpent (s : State) (o : Output) : (s.send o).hostSpent = s.hostSpent := rfl
@[simp] theorem State.send_mstate (s : State) (o : Output) : (s.send o).mstate = s.mstate := rfl
@[simp] theorem State.send_cause (s : State) (o : Output) : (s.send o).cause = s.cause := rfl
@[simp] theorem State.send_since (s : State) (o : Output) : (s.send o).since = s.since := rfl
@[simp] theorem State.send_flowLow (s : State) (o : Output) : (s.send o).flowLow = s.flowLow := rfl
@[simp] theorem State.send_drainCmd (s : State) (o : Output) : (s.send o).drainCmd = s.drainCmd := rfl
@[simp] theorem State.send_selfRefresh (s : State) (o : Output) : (s.send o).selfRefresh = s.selfRefresh := rfl
@[simp] theorem State.send_bandReg (s : State) (o : Output) : (s.send o).bandReg = s.bandReg := rfl
@[simp] theorem State.send_clockSlow (s : State) (o : Output) : (s.send o).clockSlow = s.clockSlow := rfl
@[simp] theorem State.send_errstat (s : State) (o : Output) : (s.send o).errstat = s.errstat := rfl
@[simp] theorem State.send_coolflow (s : State) (o : Output) : (s.send o).coolflow = s.coolflow := rfl
@[simp] theorem State.send_flow (s : State) (o : Output) : (s.send o).flow = s.flow := rfl
@[simp] theorem State.send_power (s : State) (o : Output) : (s.send o).power = s.power := rfl
@[simp] theorem State.send_powerNow (s : State) (o : Output) : (s.send o).powerNow = s.powerNow := rfl
@[simp] theorem State.send_holdBook (s : State) (o : Output) : (s.send o).holdBook = s.holdBook := rfl
@[simp] theorem State.send_cfg (s : State) (o : Output) : (s.send o).cfg = s.cfg := rfl
@[simp] theorem State.send_reeve (s : State) (o : Output) : (s.send o).reeve = s.reeve := rfl
@[simp] theorem State.send_freeCount (s : State) (o : Output) : (s.send o).freeCount = s.freeCount := rfl
@[simp] theorem State.retire_cycle (s : State) (k : Nat) (σ : Side) (j : Option (Word × Bool)) (n : Nat) (d : Option Nat) : (s.retire k σ j n d).cycle = s.cycle := rfl
@[simp] theorem State.retire_time (s : State) (k : Nat) (σ : Side) (j : Option (Word × Bool)) (n : Nat) (d : Option Nat) : (s.retire k σ j n d).time = s.time := rfl
@[simp] theorem State.retire_clockOn (s : State) (k : Nat) (σ : Side) (j : Option (Word × Bool)) (n : Nat) (d : Option Nat) : (s.retire k σ j n d).clockOn = s.clockOn := rfl
@[simp] theorem State.retire_everRun (s : State) (k : Nat) (σ : Side) (j : Option (Word × Bool)) (n : Nat) (d : Option Nat) : (s.retire k σ j n d).everRun = s.everRun := rfl
@[simp] theorem State.retire_choice (s : State) (k : Nat) (σ : Side) (j : Option (Word × Bool)) (n : Nat) (d : Option Nat) : (s.retire k σ j n d).choice = s.choice := rfl
@[simp] theorem State.retire_seq (s : State) (k : Nat) (σ : Side) (j : Option (Word × Bool)) (n : Nat) (d : Option Nat) : (s.retire k σ j n d).seq = s.seq := rfl
@[simp] theorem State.retire_waiting (s : State) (k : Nat) (σ : Side) (j : Option (Word × Bool)) (n : Nat) (d : Option Nat) : (s.retire k σ j n d).waiting = s.waiting := rfl
@[simp] theorem State.retire_who (s : State) (k : Nat) (σ : Side) (j : Option (Word × Bool)) (n : Nat) (d : Option Nat) : (s.retire k σ j n d).who = s.who := rfl
@[simp] theorem State.retire_todo (s : State) (k : Nat) (σ : Side) (j : Option (Word × Bool)) (n : Nat) (d : Option Nat) : (s.retire k σ j n d).todo = s.todo := rfl
@[simp] theorem State.retire_inputs (s : State) (k : Nat) (σ : Side) (j : Option (Word × Bool)) (n : Nat) (d : Option Nat) : (s.retire k σ j n d).inputs = s.inputs := rfl
@[simp] theorem State.retire_sent (s : State) (k : Nat) (σ : Side) (j : Option (Word × Bool)) (n : Nat) (d : Option Nat) : (s.retire k σ j n d).sent = s.sent := rfl
@[simp] theorem State.retire_dies (s : State) (k : Nat) (σ : Side) (j : Option (Word × Bool)) (n : Nat) (d : Option Nat) : (s.retire k σ j n d).dies = s.dies := rfl
@[simp] theorem State.retire_ctxs (s : State) (k : Nat) (σ : Side) (j : Option (Word × Bool)) (n : Nat) (d : Option Nat) : (s.retire k σ j n d).ctxs = s.ctxs := rfl
@[simp] theorem State.retire_ctrls (s : State) (k : Nat) (σ : Side) (j : Option (Word × Bool)) (n : Nat) (d : Option Nat) : (s.retire k σ j n d).ctrls = s.ctrls := rfl
@[simp] theorem State.retire_cores (s : State) (k : Nat) (σ : Side) (j : Option (Word × Bool)) (n : Nat) (d : Option Nat) : (s.retire k σ j n d).cores = s.cores := rfl
@[simp] theorem State.retire_msix (s : State) (k : Nat) (σ : Side) (j : Option (Word × Bool)) (n : Nat) (d : Option Nat) : (s.retire k σ j n d).msix = s.msix := rfl
@[simp] theorem State.retire_links (s : State) (k : Nat) (σ : Side) (j : Option (Word × Bool)) (n : Nat) (d : Option Nat) : (s.retire k σ j n d).links = s.links := rfl
@[simp] theorem State.retire_runs (s : State) (k : Nat) (σ : Side) (j : Option (Word × Bool)) (n : Nat) (d : Option Nat) : (s.retire k σ j n d).runs = s.runs := rfl
@[simp] theorem State.retire_bookings (s : State) (k : Nat) (σ : Side) (j : Option (Word × Bool)) (n : Nat) (d : Option Nat) : (s.retire k σ j n d).bookings = s.bookings := rfl
@[simp] theorem State.retire_ops (s : State) (k : Nat) (σ : Side) (j : Option (Word × Bool)) (n : Nat) (d : Option Nat) : (s.retire k σ j n d).ops = s.ops := rfl
@[simp] theorem State.retire_fences (s : State) (k : Nat) (σ : Side) (j : Option (Word × Bool)) (n : Nat) (d : Option Nat) : (s.retire k σ j n d).fences = s.fences := rfl
@[simp] theorem State.retire_writes (s : State) (k : Nat) (σ : Side) (j : Option (Word × Bool)) (n : Nat) (d : Option Nat) : (s.retire k σ j n d).writes = s.writes := rfl
@[simp] theorem State.retire_tier (s : State) (k : Nat) (σ : Side) (j : Option (Word × Bool)) (n : Nat) (d : Option Nat) : (s.retire k σ j n d).tier = s.tier := rfl
@[simp] theorem State.retire_tierKeys (s : State) (k : Nat) (σ : Side) (j : Option (Word × Bool)) (n : Nat) (d : Option Nat) : (s.retire k σ j n d).tierKeys = s.tierKeys := rfl
@[simp] theorem State.retire_host (s : State) (k : Nat) (σ : Side) (j : Option (Word × Bool)) (n : Nat) (d : Option Nat) : (s.retire k σ j n d).host = s.host := rfl
@[simp] theorem State.retire_remotes (s : State) (k : Nat) (σ : Side) (j : Option (Word × Bool)) (n : Nat) (d : Option Nat) : (s.retire k σ j n d).remotes = s.remotes := rfl
@[simp] theorem State.retire_refusing (s : State) (k : Nat) (σ : Side) (j : Option (Word × Bool)) (n : Nat) (d : Option Nat) : (s.retire k σ j n d).refusing = s.refusing := rfl
@[simp] theorem State.retire_hostPriv (s : State) (k : Nat) (σ : Side) (j : Option (Word × Bool)) (n : Nat) (d : Option Nat) : (s.retire k σ j n d).hostPriv = s.hostPriv := rfl
@[simp] theorem State.retire_poison (s : State) (k : Nat) (σ : Side) (j : Option (Word × Bool)) (n : Nat) (d : Option Nat) : (s.retire k σ j n d).poison = s.poison := rfl
@[simp] theorem State.retire_soft (s : State) (k : Nat) (σ : Side) (j : Option (Word × Bool)) (n : Nat) (d : Option Nat) : (s.retire k σ j n d).soft = s.soft := rfl
@[simp] theorem State.retire_hard (s : State) (k : Nat) (σ : Side) (j : Option (Word × Bool)) (n : Nat) (d : Option Nat) : (s.retire k σ j n d).hard = s.hard := rfl
@[simp] theorem State.retire_homes (s : State) (k : Nat) (σ : Side) (j : Option (Word × Bool)) (n : Nat) (d : Option Nat) : (s.retire k σ j n d).homes = s.homes := rfl
@[simp] theorem State.retire_walks (s : State) (k : Nat) (σ : Side) (j : Option (Word × Bool)) (n : Nat) (d : Option Nat) : (s.retire k σ j n d).walks = s.walks := rfl
@[simp] theorem State.retire_handlers (s : State) (k : Nat) (σ : Side) (j : Option (Word × Bool)) (n : Nat) (d : Option Nat) : (s.retire k σ j n d).handlers = s.handlers := rfl
@[simp] theorem State.retire_frets (s : State) (k : Nat) (σ : Side) (j : Option (Word × Bool)) (n : Nat) (d : Option Nat) : (s.retire k σ j n d).frets = s.frets := rfl
@[simp] theorem State.retire_compacts (s : State) (k : Nat) (σ : Side) (j : Option (Word × Bool)) (n : Nat) (d : Option Nat) : (s.retire k σ j n d).compacts = s.compacts := rfl
@[simp] theorem State.retire_lookups (s : State) (k : Nat) (σ : Side) (j : Option (Word × Bool)) (n : Nat) (d : Option Nat) : (s.retire k σ j n d).lookups = s.lookups := rfl
@[simp] theorem State.retire_rebuilds (s : State) (k : Nat) (σ : Side) (j : Option (Word × Bool)) (n : Nat) (d : Option Nat) : (s.retire k σ j n d).rebuilds = s.rebuilds := rfl
@[simp] theorem State.retire_invals (s : State) (k : Nat) (σ : Side) (j : Option (Word × Bool)) (n : Nat) (d : Option Nat) : (s.retire k σ j n d).invals = s.invals := rfl
@[simp] theorem State.retire_messages (s : State) (k : Nat) (σ : Side) (j : Option (Word × Bool)) (n : Nat) (d : Option Nat) : (s.retire k σ j n d).messages = s.messages := rfl
@[simp] theorem State.retire_wintab (s : State) (k : Nat) (σ : Side) (j : Option (Word × Bool)) (n : Nat) (d : Option Nat) : (s.retire k σ j n d).wintab = s.wintab := rfl
@[simp] theorem State.retire_remoteSeq (s : State) (k : Nat) (σ : Side) (j : Option (Word × Bool)) (n : Nat) (d : Option Nat) : (s.retire k σ j n d).remoteSeq = s.remoteSeq := rfl
@[simp] theorem State.retire_remoteHeld (s : State) (k : Nat) (σ : Side) (j : Option (Word × Bool)) (n : Nat) (d : Option Nat) : (s.retire k σ j n d).remoteHeld = s.remoteHeld := rfl
@[simp] theorem State.retire_windowWrites (s : State) (k : Nat) (σ : Side) (j : Option (Word × Bool)) (n : Nat) (d : Option Nat) : (s.retire k σ j n d).windowWrites = s.windowWrites := rfl
@[simp] theorem State.retire_linkSeq (s : State) (k : Nat) (σ : Side) (j : Option (Word × Bool)) (n : Nat) (d : Option Nat) : (s.retire k σ j n d).linkSeq = s.linkSeq := rfl
@[simp] theorem State.retire_harrowSpent (s : State) (k : Nat) (σ : Side) (j : Option (Word × Bool)) (n : Nat) (d : Option Nat) : (s.retire k σ j n d).harrowSpent = s.harrowSpent := rfl
@[simp] theorem State.retire_hostSpent (s : State) (k : Nat) (σ : Side) (j : Option (Word × Bool)) (n : Nat) (d : Option Nat) : (s.retire k σ j n d).hostSpent = s.hostSpent := rfl
@[simp] theorem State.retire_mstate (s : State) (k : Nat) (σ : Side) (j : Option (Word × Bool)) (n : Nat) (d : Option Nat) : (s.retire k σ j n d).mstate = s.mstate := rfl
@[simp] theorem State.retire_cause (s : State) (k : Nat) (σ : Side) (j : Option (Word × Bool)) (n : Nat) (d : Option Nat) : (s.retire k σ j n d).cause = s.cause := rfl
@[simp] theorem State.retire_since (s : State) (k : Nat) (σ : Side) (j : Option (Word × Bool)) (n : Nat) (d : Option Nat) : (s.retire k σ j n d).since = s.since := rfl
@[simp] theorem State.retire_flowLow (s : State) (k : Nat) (σ : Side) (j : Option (Word × Bool)) (n : Nat) (d : Option Nat) : (s.retire k σ j n d).flowLow = s.flowLow := rfl
@[simp] theorem State.retire_drainCmd (s : State) (k : Nat) (σ : Side) (j : Option (Word × Bool)) (n : Nat) (d : Option Nat) : (s.retire k σ j n d).drainCmd = s.drainCmd := rfl
@[simp] theorem State.retire_selfRefresh (s : State) (k : Nat) (σ : Side) (j : Option (Word × Bool)) (n : Nat) (d : Option Nat) : (s.retire k σ j n d).selfRefresh = s.selfRefresh := rfl
@[simp] theorem State.retire_bandReg (s : State) (k : Nat) (σ : Side) (j : Option (Word × Bool)) (n : Nat) (d : Option Nat) : (s.retire k σ j n d).bandReg = s.bandReg := rfl
@[simp] theorem State.retire_clockSlow (s : State) (k : Nat) (σ : Side) (j : Option (Word × Bool)) (n : Nat) (d : Option Nat) : (s.retire k σ j n d).clockSlow = s.clockSlow := rfl
@[simp] theorem State.retire_errstat (s : State) (k : Nat) (σ : Side) (j : Option (Word × Bool)) (n : Nat) (d : Option Nat) : (s.retire k σ j n d).errstat = s.errstat := rfl
@[simp] theorem State.retire_coolflow (s : State) (k : Nat) (σ : Side) (j : Option (Word × Bool)) (n : Nat) (d : Option Nat) : (s.retire k σ j n d).coolflow = s.coolflow := rfl
@[simp] theorem State.retire_flow (s : State) (k : Nat) (σ : Side) (j : Option (Word × Bool)) (n : Nat) (d : Option Nat) : (s.retire k σ j n d).flow = s.flow := rfl
@[simp] theorem State.retire_power (s : State) (k : Nat) (σ : Side) (j : Option (Word × Bool)) (n : Nat) (d : Option Nat) : (s.retire k σ j n d).power = s.power := rfl
@[simp] theorem State.retire_powerNow (s : State) (k : Nat) (σ : Side) (j : Option (Word × Bool)) (n : Nat) (d : Option Nat) : (s.retire k σ j n d).powerNow = s.powerNow := rfl
@[simp] theorem State.retire_holdBook (s : State) (k : Nat) (σ : Side) (j : Option (Word × Bool)) (n : Nat) (d : Option Nat) : (s.retire k σ j n d).holdBook = s.holdBook := rfl
@[simp] theorem State.retire_cfg (s : State) (k : Nat) (σ : Side) (j : Option (Word × Bool)) (n : Nat) (d : Option Nat) : (s.retire k σ j n d).cfg = s.cfg := rfl
@[simp] theorem State.retire_reeve (s : State) (k : Nat) (σ : Side) (j : Option (Word × Bool)) (n : Nat) (d : Option Nat) : (s.retire k σ j n d).reeve = s.reeve := rfl
@[simp] theorem State.retire_freeCount (s : State) (k : Nat) (σ : Side) (j : Option (Word × Bool)) (n : Nat) (d : Option Nat) : (s.retire k σ j n d).freeCount = s.freeCount := rfl
@[simp] theorem State.fresh_cycle (s : State) : (s.fresh).cycle = s.cycle := rfl
@[simp] theorem State.fresh_time (s : State) : (s.fresh).time = s.time := rfl
@[simp] theorem State.fresh_clockOn (s : State) : (s.fresh).clockOn = s.clockOn := rfl
@[simp] theorem State.fresh_everRun (s : State) : (s.fresh).everRun = s.everRun := rfl
@[simp] theorem State.fresh_choice (s : State) : (s.fresh).choice = s.choice := rfl
@[simp] theorem State.fresh_waiting (s : State) : (s.fresh).waiting = s.waiting := rfl
@[simp] theorem State.fresh_who (s : State) : (s.fresh).who = s.who := rfl
@[simp] theorem State.fresh_todo (s : State) : (s.fresh).todo = s.todo := rfl
@[simp] theorem State.fresh_inputs (s : State) : (s.fresh).inputs = s.inputs := rfl
@[simp] theorem State.fresh_sent (s : State) : (s.fresh).sent = s.sent := rfl
@[simp] theorem State.fresh_tiles (s : State) : (s.fresh).tiles = s.tiles := rfl
@[simp] theorem State.fresh_dies (s : State) : (s.fresh).dies = s.dies := rfl
@[simp] theorem State.fresh_ctxs (s : State) : (s.fresh).ctxs = s.ctxs := rfl
@[simp] theorem State.fresh_ctrls (s : State) : (s.fresh).ctrls = s.ctrls := rfl
@[simp] theorem State.fresh_cores (s : State) : (s.fresh).cores = s.cores := rfl
@[simp] theorem State.fresh_msix (s : State) : (s.fresh).msix = s.msix := rfl
@[simp] theorem State.fresh_links (s : State) : (s.fresh).links = s.links := rfl
@[simp] theorem State.fresh_runs (s : State) : (s.fresh).runs = s.runs := rfl
@[simp] theorem State.fresh_bookings (s : State) : (s.fresh).bookings = s.bookings := rfl
@[simp] theorem State.fresh_ops (s : State) : (s.fresh).ops = s.ops := rfl
@[simp] theorem State.fresh_fences (s : State) : (s.fresh).fences = s.fences := rfl
@[simp] theorem State.fresh_writes (s : State) : (s.fresh).writes = s.writes := rfl
@[simp] theorem State.fresh_tier (s : State) : (s.fresh).tier = s.tier := rfl
@[simp] theorem State.fresh_tierKeys (s : State) : (s.fresh).tierKeys = s.tierKeys := rfl
@[simp] theorem State.fresh_host (s : State) : (s.fresh).host = s.host := rfl
@[simp] theorem State.fresh_remotes (s : State) : (s.fresh).remotes = s.remotes := rfl
@[simp] theorem State.fresh_refusing (s : State) : (s.fresh).refusing = s.refusing := rfl
@[simp] theorem State.fresh_hostPriv (s : State) : (s.fresh).hostPriv = s.hostPriv := rfl
@[simp] theorem State.fresh_poison (s : State) : (s.fresh).poison = s.poison := rfl
@[simp] theorem State.fresh_soft (s : State) : (s.fresh).soft = s.soft := rfl
@[simp] theorem State.fresh_hard (s : State) : (s.fresh).hard = s.hard := rfl
@[simp] theorem State.fresh_homes (s : State) : (s.fresh).homes = s.homes := rfl
@[simp] theorem State.fresh_walks (s : State) : (s.fresh).walks = s.walks := rfl
@[simp] theorem State.fresh_handlers (s : State) : (s.fresh).handlers = s.handlers := rfl
@[simp] theorem State.fresh_frets (s : State) : (s.fresh).frets = s.frets := rfl
@[simp] theorem State.fresh_compacts (s : State) : (s.fresh).compacts = s.compacts := rfl
@[simp] theorem State.fresh_lookups (s : State) : (s.fresh).lookups = s.lookups := rfl
@[simp] theorem State.fresh_rebuilds (s : State) : (s.fresh).rebuilds = s.rebuilds := rfl
@[simp] theorem State.fresh_invals (s : State) : (s.fresh).invals = s.invals := rfl
@[simp] theorem State.fresh_messages (s : State) : (s.fresh).messages = s.messages := rfl
@[simp] theorem State.fresh_wintab (s : State) : (s.fresh).wintab = s.wintab := rfl
@[simp] theorem State.fresh_remoteSeq (s : State) : (s.fresh).remoteSeq = s.remoteSeq := rfl
@[simp] theorem State.fresh_remoteHeld (s : State) : (s.fresh).remoteHeld = s.remoteHeld := rfl
@[simp] theorem State.fresh_windowWrites (s : State) : (s.fresh).windowWrites = s.windowWrites := rfl
@[simp] theorem State.fresh_linkSeq (s : State) : (s.fresh).linkSeq = s.linkSeq := rfl
@[simp] theorem State.fresh_harrowSpent (s : State) : (s.fresh).harrowSpent = s.harrowSpent := rfl
@[simp] theorem State.fresh_hostSpent (s : State) : (s.fresh).hostSpent = s.hostSpent := rfl
@[simp] theorem State.fresh_mstate (s : State) : (s.fresh).mstate = s.mstate := rfl
@[simp] theorem State.fresh_cause (s : State) : (s.fresh).cause = s.cause := rfl
@[simp] theorem State.fresh_since (s : State) : (s.fresh).since = s.since := rfl
@[simp] theorem State.fresh_flowLow (s : State) : (s.fresh).flowLow = s.flowLow := rfl
@[simp] theorem State.fresh_drainCmd (s : State) : (s.fresh).drainCmd = s.drainCmd := rfl
@[simp] theorem State.fresh_selfRefresh (s : State) : (s.fresh).selfRefresh = s.selfRefresh := rfl
@[simp] theorem State.fresh_bandReg (s : State) : (s.fresh).bandReg = s.bandReg := rfl
@[simp] theorem State.fresh_clockSlow (s : State) : (s.fresh).clockSlow = s.clockSlow := rfl
@[simp] theorem State.fresh_errstat (s : State) : (s.fresh).errstat = s.errstat := rfl
@[simp] theorem State.fresh_coolflow (s : State) : (s.fresh).coolflow = s.coolflow := rfl
@[simp] theorem State.fresh_flow (s : State) : (s.fresh).flow = s.flow := rfl
@[simp] theorem State.fresh_power (s : State) : (s.fresh).power = s.power := rfl
@[simp] theorem State.fresh_powerNow (s : State) : (s.fresh).powerNow = s.powerNow := rfl
@[simp] theorem State.fresh_holdBook (s : State) : (s.fresh).holdBook = s.holdBook := rfl
@[simp] theorem State.fresh_cfg (s : State) : (s.fresh).cfg = s.cfg := rfl
@[simp] theorem State.fresh_reeve (s : State) : (s.fresh).reeve = s.reeve := rfl
@[simp] theorem State.fresh_freeCount (s : State) : (s.fresh).freeCount = s.freeCount := rfl
@[simp] theorem State.modRun_cycle (s : State) (r : Nat) (f : Run → Run) : (s.modRun r f).cycle = s.cycle := by unfold State.modRun; split <;> rfl
@[simp] theorem State.modRun_time (s : State) (r : Nat) (f : Run → Run) : (s.modRun r f).time = s.time := by unfold State.modRun; split <;> rfl
@[simp] theorem State.modRun_clockOn (s : State) (r : Nat) (f : Run → Run) : (s.modRun r f).clockOn = s.clockOn := by unfold State.modRun; split <;> rfl
@[simp] theorem State.modRun_everRun (s : State) (r : Nat) (f : Run → Run) : (s.modRun r f).everRun = s.everRun := by unfold State.modRun; split <;> rfl
@[simp] theorem State.modRun_choice (s : State) (r : Nat) (f : Run → Run) : (s.modRun r f).choice = s.choice := by unfold State.modRun; split <;> rfl
@[simp] theorem State.modRun_seq (s : State) (r : Nat) (f : Run → Run) : (s.modRun r f).seq = s.seq := by unfold State.modRun; split <;> rfl
@[simp] theorem State.modRun_waiting (s : State) (r : Nat) (f : Run → Run) : (s.modRun r f).waiting = s.waiting := by unfold State.modRun; split <;> rfl
@[simp] theorem State.modRun_who (s : State) (r : Nat) (f : Run → Run) : (s.modRun r f).who = s.who := by unfold State.modRun; split <;> rfl
@[simp] theorem State.modRun_todo (s : State) (r : Nat) (f : Run → Run) : (s.modRun r f).todo = s.todo := by unfold State.modRun; split <;> rfl
@[simp] theorem State.modRun_inputs (s : State) (r : Nat) (f : Run → Run) : (s.modRun r f).inputs = s.inputs := by unfold State.modRun; split <;> rfl
@[simp] theorem State.modRun_sent (s : State) (r : Nat) (f : Run → Run) : (s.modRun r f).sent = s.sent := by unfold State.modRun; split <;> rfl
@[simp] theorem State.modRun_tiles (s : State) (r : Nat) (f : Run → Run) : (s.modRun r f).tiles = s.tiles := by unfold State.modRun; split <;> rfl
@[simp] theorem State.modRun_dies (s : State) (r : Nat) (f : Run → Run) : (s.modRun r f).dies = s.dies := by unfold State.modRun; split <;> rfl
@[simp] theorem State.modRun_ctxs (s : State) (r : Nat) (f : Run → Run) : (s.modRun r f).ctxs = s.ctxs := by unfold State.modRun; split <;> rfl
@[simp] theorem State.modRun_ctrls (s : State) (r : Nat) (f : Run → Run) : (s.modRun r f).ctrls = s.ctrls := by unfold State.modRun; split <;> rfl
@[simp] theorem State.modRun_cores (s : State) (r : Nat) (f : Run → Run) : (s.modRun r f).cores = s.cores := by unfold State.modRun; split <;> rfl
@[simp] theorem State.modRun_msix (s : State) (r : Nat) (f : Run → Run) : (s.modRun r f).msix = s.msix := by unfold State.modRun; split <;> rfl
@[simp] theorem State.modRun_links (s : State) (r : Nat) (f : Run → Run) : (s.modRun r f).links = s.links := by unfold State.modRun; split <;> rfl
@[simp] theorem State.modRun_bookings (s : State) (r : Nat) (f : Run → Run) : (s.modRun r f).bookings = s.bookings := by unfold State.modRun; split <;> rfl
@[simp] theorem State.modRun_ops (s : State) (r : Nat) (f : Run → Run) : (s.modRun r f).ops = s.ops := by unfold State.modRun; split <;> rfl
@[simp] theorem State.modRun_fences (s : State) (r : Nat) (f : Run → Run) : (s.modRun r f).fences = s.fences := by unfold State.modRun; split <;> rfl
@[simp] theorem State.modRun_writes (s : State) (r : Nat) (f : Run → Run) : (s.modRun r f).writes = s.writes := by unfold State.modRun; split <;> rfl
@[simp] theorem State.modRun_tier (s : State) (r : Nat) (f : Run → Run) : (s.modRun r f).tier = s.tier := by unfold State.modRun; split <;> rfl
@[simp] theorem State.modRun_tierKeys (s : State) (r : Nat) (f : Run → Run) : (s.modRun r f).tierKeys = s.tierKeys := by unfold State.modRun; split <;> rfl
@[simp] theorem State.modRun_host (s : State) (r : Nat) (f : Run → Run) : (s.modRun r f).host = s.host := by unfold State.modRun; split <;> rfl
@[simp] theorem State.modRun_remotes (s : State) (r : Nat) (f : Run → Run) : (s.modRun r f).remotes = s.remotes := by unfold State.modRun; split <;> rfl
@[simp] theorem State.modRun_refusing (s : State) (r : Nat) (f : Run → Run) : (s.modRun r f).refusing = s.refusing := by unfold State.modRun; split <;> rfl
@[simp] theorem State.modRun_hostPriv (s : State) (r : Nat) (f : Run → Run) : (s.modRun r f).hostPriv = s.hostPriv := by unfold State.modRun; split <;> rfl
@[simp] theorem State.modRun_poison (s : State) (r : Nat) (f : Run → Run) : (s.modRun r f).poison = s.poison := by unfold State.modRun; split <;> rfl
@[simp] theorem State.modRun_soft (s : State) (r : Nat) (f : Run → Run) : (s.modRun r f).soft = s.soft := by unfold State.modRun; split <;> rfl
@[simp] theorem State.modRun_hard (s : State) (r : Nat) (f : Run → Run) : (s.modRun r f).hard = s.hard := by unfold State.modRun; split <;> rfl
@[simp] theorem State.modRun_homes (s : State) (r : Nat) (f : Run → Run) : (s.modRun r f).homes = s.homes := by unfold State.modRun; split <;> rfl
@[simp] theorem State.modRun_walks (s : State) (r : Nat) (f : Run → Run) : (s.modRun r f).walks = s.walks := by unfold State.modRun; split <;> rfl
@[simp] theorem State.modRun_handlers (s : State) (r : Nat) (f : Run → Run) : (s.modRun r f).handlers = s.handlers := by unfold State.modRun; split <;> rfl
@[simp] theorem State.modRun_frets (s : State) (r : Nat) (f : Run → Run) : (s.modRun r f).frets = s.frets := by unfold State.modRun; split <;> rfl
@[simp] theorem State.modRun_compacts (s : State) (r : Nat) (f : Run → Run) : (s.modRun r f).compacts = s.compacts := by unfold State.modRun; split <;> rfl
@[simp] theorem State.modRun_lookups (s : State) (r : Nat) (f : Run → Run) : (s.modRun r f).lookups = s.lookups := by unfold State.modRun; split <;> rfl
@[simp] theorem State.modRun_rebuilds (s : State) (r : Nat) (f : Run → Run) : (s.modRun r f).rebuilds = s.rebuilds := by unfold State.modRun; split <;> rfl
@[simp] theorem State.modRun_invals (s : State) (r : Nat) (f : Run → Run) : (s.modRun r f).invals = s.invals := by unfold State.modRun; split <;> rfl
@[simp] theorem State.modRun_messages (s : State) (r : Nat) (f : Run → Run) : (s.modRun r f).messages = s.messages := by unfold State.modRun; split <;> rfl
@[simp] theorem State.modRun_wintab (s : State) (r : Nat) (f : Run → Run) : (s.modRun r f).wintab = s.wintab := by unfold State.modRun; split <;> rfl
@[simp] theorem State.modRun_remoteSeq (s : State) (r : Nat) (f : Run → Run) : (s.modRun r f).remoteSeq = s.remoteSeq := by unfold State.modRun; split <;> rfl
@[simp] theorem State.modRun_remoteHeld (s : State) (r : Nat) (f : Run → Run) : (s.modRun r f).remoteHeld = s.remoteHeld := by unfold State.modRun; split <;> rfl
@[simp] theorem State.modRun_windowWrites (s : State) (r : Nat) (f : Run → Run) : (s.modRun r f).windowWrites = s.windowWrites := by unfold State.modRun; split <;> rfl
@[simp] theorem State.modRun_linkSeq (s : State) (r : Nat) (f : Run → Run) : (s.modRun r f).linkSeq = s.linkSeq := by unfold State.modRun; split <;> rfl
@[simp] theorem State.modRun_harrowSpent (s : State) (r : Nat) (f : Run → Run) : (s.modRun r f).harrowSpent = s.harrowSpent := by unfold State.modRun; split <;> rfl
@[simp] theorem State.modRun_hostSpent (s : State) (r : Nat) (f : Run → Run) : (s.modRun r f).hostSpent = s.hostSpent := by unfold State.modRun; split <;> rfl
@[simp] theorem State.modRun_mstate (s : State) (r : Nat) (f : Run → Run) : (s.modRun r f).mstate = s.mstate := by unfold State.modRun; split <;> rfl
@[simp] theorem State.modRun_cause (s : State) (r : Nat) (f : Run → Run) : (s.modRun r f).cause = s.cause := by unfold State.modRun; split <;> rfl
@[simp] theorem State.modRun_since (s : State) (r : Nat) (f : Run → Run) : (s.modRun r f).since = s.since := by unfold State.modRun; split <;> rfl
@[simp] theorem State.modRun_flowLow (s : State) (r : Nat) (f : Run → Run) : (s.modRun r f).flowLow = s.flowLow := by unfold State.modRun; split <;> rfl
@[simp] theorem State.modRun_drainCmd (s : State) (r : Nat) (f : Run → Run) : (s.modRun r f).drainCmd = s.drainCmd := by unfold State.modRun; split <;> rfl
@[simp] theorem State.modRun_selfRefresh (s : State) (r : Nat) (f : Run → Run) : (s.modRun r f).selfRefresh = s.selfRefresh := by unfold State.modRun; split <;> rfl
@[simp] theorem State.modRun_bandReg (s : State) (r : Nat) (f : Run → Run) : (s.modRun r f).bandReg = s.bandReg := by unfold State.modRun; split <;> rfl
@[simp] theorem State.modRun_clockSlow (s : State) (r : Nat) (f : Run → Run) : (s.modRun r f).clockSlow = s.clockSlow := by unfold State.modRun; split <;> rfl
@[simp] theorem State.modRun_errstat (s : State) (r : Nat) (f : Run → Run) : (s.modRun r f).errstat = s.errstat := by unfold State.modRun; split <;> rfl
@[simp] theorem State.modRun_coolflow (s : State) (r : Nat) (f : Run → Run) : (s.modRun r f).coolflow = s.coolflow := by unfold State.modRun; split <;> rfl
@[simp] theorem State.modRun_flow (s : State) (r : Nat) (f : Run → Run) : (s.modRun r f).flow = s.flow := by unfold State.modRun; split <;> rfl
@[simp] theorem State.modRun_power (s : State) (r : Nat) (f : Run → Run) : (s.modRun r f).power = s.power := by unfold State.modRun; split <;> rfl
@[simp] theorem State.modRun_powerNow (s : State) (r : Nat) (f : Run → Run) : (s.modRun r f).powerNow = s.powerNow := by unfold State.modRun; split <;> rfl
@[simp] theorem State.modRun_holdBook (s : State) (r : Nat) (f : Run → Run) : (s.modRun r f).holdBook = s.holdBook := by unfold State.modRun; split <;> rfl
@[simp] theorem State.modRun_cfg (s : State) (r : Nat) (f : Run → Run) : (s.modRun r f).cfg = s.cfg := by unfold State.modRun; split <;> rfl
@[simp] theorem State.modRun_reeve (s : State) (r : Nat) (f : Run → Run) : (s.modRun r f).reeve = s.reeve := by unfold State.modRun; split <;> rfl
@[simp] theorem State.modRun_freeCount (s : State) (r : Nat) (f : Run → Run) : (s.modRun r f).freeCount = s.freeCount := by unfold State.modRun; split <;> rfl

/-! ## Updates of a tile -/

@[simp] theorem Tile.setStrand_owner (t : Tile) (σ : Side) (x : Strand) : (t.setStrand σ x).owner = t.owner := by cases σ <;> rfl
@[simp] theorem Tile.modRegs_owner (t : Tile) (σ : Side) (f : Regs → Regs) : (t.modRegs σ f).owner = t.owner := by cases σ <;> rfl
@[simp] theorem Tile.setStrand_keyOk (t : Tile) (σ : Side) (x : Strand) : (t.setStrand σ x).keyOk = t.keyOk := by cases σ <;> rfl
@[simp] theorem Tile.modRegs_keyOk (t : Tile) (σ : Side) (f : Regs → Regs) : (t.modRegs σ f).keyOk = t.keyOk := by cases σ <;> rfl
@[simp] theorem Tile.setStrand_vtile (t : Tile) (σ : Side) (x : Strand) : (t.setStrand σ x).vtile = t.vtile := by cases σ <;> rfl
@[simp] theorem Tile.modRegs_vtile (t : Tile) (σ : Side) (f : Regs → Regs) : (t.modRegs σ f).vtile = t.vtile := by cases σ <;> rfl
@[simp] theorem Tile.setStrand_fsctx (t : Tile) (σ : Side) (x : Strand) : (t.setStrand σ x).fsctx = t.fsctx := by cases σ <;> rfl
@[simp] theorem Tile.modRegs_fsctx (t : Tile) (σ : Side) (f : Regs → Regs) : (t.modRegs σ f).fsctx = t.fsctx := by cases σ <;> rfl
@[simp] theorem Tile.setStrand_key (t : Tile) (σ : Side) (x : Strand) : (t.setStrand σ x).key = t.key := by cases σ <;> rfl
@[simp] theorem Tile.modRegs_key (t : Tile) (σ : Side) (f : Regs → Regs) : (t.modRegs σ f).key = t.key := by cases σ <;> rfl
@[simp] theorem Tile.setStrand_run (t : Tile) (σ : Side) (x : Strand) : (t.setStrand σ x).run = t.run := by cases σ <;> rfl
@[simp] theorem Tile.modRegs_run (t : Tile) (σ : Side) (f : Regs → Regs) : (t.modRegs σ f).run = t.run := by cases σ <;> rfl
@[simp] theorem Tile.setStrand_rank (t : Tile) (σ : Side) (x : Strand) : (t.setStrand σ x).rank = t.rank := by cases σ <;> rfl
@[simp] theorem Tile.modRegs_rank (t : Tile) (σ : Side) (f : Regs → Regs) : (t.modRegs σ f).rank = t.rank := by cases σ <;> rfl
@[simp] theorem Tile.setStrand_w (t : Tile) (σ : Side) (x : Strand) : (t.setStrand σ x).w = t.w := by cases σ <;> rfl
@[simp] theorem Tile.modRegs_w (t : Tile) (σ : Side) (f : Regs → Regs) : (t.modRegs σ f).w = t.w := by cases σ <;> rfl
@[simp] theorem Tile.setStrand_c (t : Tile) (σ : Side) (x : Strand) : (t.setStrand σ x).c = t.c := by cases σ <;> rfl
@[simp] theorem Tile.modRegs_c (t : Tile) (σ : Side) (f : Regs → Regs) : (t.modRegs σ f).c = t.c := by cases σ <;> rfl
@[simp] theorem Tile.setStrand_v (t : Tile) (σ : Side) (x : Strand) : (t.setStrand σ x).v = t.v := by cases σ <;> rfl
@[simp] theorem Tile.modRegs_v (t : Tile) (σ : Side) (f : Regs → Regs) : (t.modRegs σ f).v = t.v := by cases σ <;> rfl
@[simp] theorem Tile.setStrand_cb (t : Tile) (σ : Side) (x : Strand) : (t.setStrand σ x).cb = t.cb := by cases σ <;> rfl
@[simp] theorem Tile.modRegs_cb (t : Tile) (σ : Side) (f : Regs → Regs) : (t.modRegs σ f).cb = t.cb := by cases σ <;> rfl
@[simp] theorem Tile.setStrand_fd (t : Tile) (σ : Side) (x : Strand) : (t.setStrand σ x).fd = t.fd := by cases σ <;> rfl
@[simp] theorem Tile.modRegs_fd (t : Tile) (σ : Side) (f : Regs → Regs) : (t.modRegs σ f).fd = t.fd := by cases σ <;> rfl
@[simp] theorem Tile.setStrand_ascale (t : Tile) (σ : Side) (x : Strand) : (t.setStrand σ x).ascale = t.ascale := by cases σ <;> rfl
@[simp] theorem Tile.modRegs_ascale (t : Tile) (σ : Side) (f : Regs → Regs) : (t.modRegs σ f).ascale = t.ascale := by cases σ <;> rfl
@[simp] theorem Tile.setStrand_fplane (t : Tile) (σ : Side) (x : Strand) : (t.setStrand σ x).fplane = t.fplane := by cases σ <;> rfl
@[simp] theorem Tile.modRegs_fplane (t : Tile) (σ : Side) (f : Regs → Regs) : (t.modRegs σ f).fplane = t.fplane := by cases σ <;> rfl
@[simp] theorem Tile.setStrand_pxseed (t : Tile) (σ : Side) (x : Strand) : (t.setStrand σ x).pxseed = t.pxseed := by cases σ <;> rfl
@[simp] theorem Tile.modRegs_pxseed (t : Tile) (σ : Side) (f : Regs → Regs) : (t.modRegs σ f).pxseed = t.pxseed := by cases σ <;> rfl
@[simp] theorem Tile.setStrand_pxctr (t : Tile) (σ : Side) (x : Strand) : (t.setStrand σ x).pxctr = t.pxctr := by cases σ <;> rfl
@[simp] theorem Tile.modRegs_pxctr (t : Tile) (σ : Side) (f : Regs → Regs) : (t.modRegs σ f).pxctr = t.pxctr := by cases σ <;> rfl
@[simp] theorem Tile.setStrand_lq (t : Tile) (σ : Side) (x : Strand) : (t.setStrand σ x).lq = t.lq := by cases σ <;> rfl
@[simp] theorem Tile.modRegs_lq (t : Tile) (σ : Side) (f : Regs → Regs) : (t.modRegs σ f).lq = t.lq := by cases σ <;> rfl
@[simp] theorem Tile.setStrand_sq (t : Tile) (σ : Side) (x : Strand) : (t.setStrand σ x).sq = t.sq := by cases σ <;> rfl
@[simp] theorem Tile.modRegs_sq (t : Tile) (σ : Side) (f : Regs → Regs) : (t.modRegs σ f).sq = t.sq := by cases σ <;> rfl
@[simp] theorem Tile.setStrand_mA (t : Tile) (σ : Side) (x : Strand) : (t.setStrand σ x).mA = t.mA := by cases σ <;> rfl
@[simp] theorem Tile.modRegs_mA (t : Tile) (σ : Side) (f : Regs → Regs) : (t.modRegs σ f).mA = t.mA := by cases σ <;> rfl
@[simp] theorem Tile.setStrand_mB (t : Tile) (σ : Side) (x : Strand) : (t.setStrand σ x).mB = t.mB := by cases σ <;> rfl
@[simp] theorem Tile.modRegs_mB (t : Tile) (σ : Side) (f : Regs → Regs) : (t.modRegs σ f).mB = t.mB := by cases σ <;> rfl
@[simp] theorem Tile.setStrand_oqAE (t : Tile) (σ : Side) (x : Strand) : (t.setStrand σ x).oqAE = t.oqAE := by cases σ <;> rfl
@[simp] theorem Tile.modRegs_oqAE (t : Tile) (σ : Side) (f : Regs → Regs) : (t.modRegs σ f).oqAE = t.oqAE := by cases σ <;> rfl
@[simp] theorem Tile.setStrand_oqEA (t : Tile) (σ : Side) (x : Strand) : (t.setStrand σ x).oqEA = t.oqEA := by cases σ <;> rfl
@[simp] theorem Tile.modRegs_oqEA (t : Tile) (σ : Side) (f : Regs → Regs) : (t.modRegs σ f).oqEA = t.oqEA := by cases σ <;> rfl
@[simp] theorem Tile.setStrand_sb (t : Tile) (σ : Side) (x : Strand) : (t.setStrand σ x).sb = t.sb := by cases σ <;> rfl
@[simp] theorem Tile.modRegs_sb (t : Tile) (σ : Side) (f : Regs → Regs) : (t.modRegs σ f).sb = t.sb := by cases σ <;> rfl
@[simp] theorem Tile.setStrand_nextId (t : Tile) (σ : Side) (x : Strand) : (t.setStrand σ x).nextId = t.nextId := by cases σ <;> rfl
@[simp] theorem Tile.modRegs_nextId (t : Tile) (σ : Side) (f : Regs → Regs) : (t.modRegs σ f).nextId = t.nextId := by cases σ <;> rfl
@[simp] theorem Tile.setStrand_mx (t : Tile) (σ : Side) (x : Strand) : (t.setStrand σ x).mx = t.mx := by cases σ <;> rfl
@[simp] theorem Tile.modRegs_mx (t : Tile) (σ : Side) (f : Regs → Regs) : (t.modRegs σ f).mx = t.mx := by cases σ <;> rfl
@[simp] theorem Tile.setStrand_feedA (t : Tile) (σ : Side) (x : Strand) : (t.setStrand σ x).feedA = t.feedA := by cases σ <;> rfl
@[simp] theorem Tile.modRegs_feedA (t : Tile) (σ : Side) (f : Regs → Regs) : (t.modRegs σ f).feedA = t.feedA := by cases σ <;> rfl
@[simp] theorem Tile.setStrand_feedB (t : Tile) (σ : Side) (x : Strand) : (t.setStrand σ x).feedB = t.feedB := by cases σ <;> rfl
@[simp] theorem Tile.modRegs_feedB (t : Tile) (σ : Side) (f : Regs → Regs) : (t.modRegs σ f).feedB = t.feedB := by cases σ <;> rfl
@[simp] theorem Tile.setStrand_store (t : Tile) (σ : Side) (x : Strand) : (t.setStrand σ x).store = t.store := by cases σ <;> rfl
@[simp] theorem Tile.modRegs_store (t : Tile) (σ : Side) (f : Regs → Regs) : (t.modRegs σ f).store = t.store := by cases σ <;> rfl
@[simp] theorem Tile.setStrand_standby (t : Tile) (σ : Side) (x : Strand) : (t.setStrand σ x).standby = t.standby := by cases σ <;> rfl
@[simp] theorem Tile.modRegs_standby (t : Tile) (σ : Side) (f : Regs → Regs) : (t.modRegs σ f).standby = t.standby := by cases σ <;> rfl
@[simp] theorem Tile.setStrand_arrived (t : Tile) (σ : Side) (x : Strand) : (t.setStrand σ x).arrived = t.arrived := by cases σ <;> rfl
@[simp] theorem Tile.modRegs_arrived (t : Tile) (σ : Side) (f : Regs → Regs) : (t.modRegs σ f).arrived = t.arrived := by cases σ <;> rfl
@[simp] theorem Tile.setStrand_uses (t : Tile) (σ : Side) (x : Strand) : (t.setStrand σ x).uses = t.uses := by cases σ <;> rfl
@[simp] theorem Tile.modRegs_uses (t : Tile) (σ : Side) (f : Regs → Regs) : (t.modRegs σ f).uses = t.uses := by cases σ <;> rfl
@[simp] theorem Tile.setStrand_jmptAt (t : Tile) (σ : Side) (x : Strand) : (t.setStrand σ x).jmptAt = t.jmptAt := by cases σ <;> rfl
@[simp] theorem Tile.modRegs_jmptAt (t : Tile) (σ : Side) (f : Regs → Regs) : (t.modRegs σ f).jmptAt = t.jmptAt := by cases σ <;> rfl
@[simp] theorem Tile.setStrand_point (t : Tile) (σ : Side) (x : Strand) : (t.setStrand σ x).point = t.point := by cases σ <;> rfl
@[simp] theorem Tile.modRegs_point (t : Tile) (σ : Side) (f : Regs → Regs) : (t.modRegs σ f).point = t.point := by cases σ <;> rfl
@[simp] theorem Tile.setStrand_checks (t : Tile) (σ : Side) (x : Strand) : (t.setStrand σ x).checks = t.checks := by cases σ <;> rfl
@[simp] theorem Tile.modRegs_checks (t : Tile) (σ : Side) (f : Regs → Regs) : (t.modRegs σ f).checks = t.checks := by cases σ <;> rfl
@[simp] theorem Tile.setStrand_residue (t : Tile) (σ : Side) (x : Strand) : (t.setStrand σ x).residue = t.residue := by cases σ <;> rfl
@[simp] theorem Tile.modRegs_residue (t : Tile) (σ : Side) (f : Regs → Regs) : (t.modRegs σ f).residue = t.residue := by cases σ <;> rfl
@[simp] theorem Tile.setStrand_poisonA (t : Tile) (σ : Side) (x : Strand) : (t.setStrand σ x).poisonA = t.poisonA := by cases σ <;> rfl
@[simp] theorem Tile.modRegs_poisonA (t : Tile) (σ : Side) (f : Regs → Regs) : (t.modRegs σ f).poisonA = t.poisonA := by cases σ <;> rfl
@[simp] theorem Tile.setStrand_poisonE (t : Tile) (σ : Side) (x : Strand) : (t.setStrand σ x).poisonE = t.poisonE := by cases σ <;> rfl
@[simp] theorem Tile.modRegs_poisonE (t : Tile) (σ : Side) (f : Regs → Regs) : (t.modRegs σ f).poisonE = t.poisonE := by cases σ <;> rfl
@[simp] theorem Tile.setStrand_before (t : Tile) (σ : Side) (x : Strand) : (t.setStrand σ x).before = t.before := by cases σ <;> rfl
@[simp] theorem Tile.modRegs_before (t : Tile) (σ : Side) (f : Regs → Regs) : (t.modRegs σ f).before = t.before := by cases σ <;> rfl
@[simp] theorem Tile.setStrand_field (t : Tile) (σ : Side) (x : Strand) : (t.setStrand σ x).field = t.field := by cases σ <;> rfl
@[simp] theorem Tile.modRegs_field (t : Tile) (σ : Side) (f : Regs → Regs) : (t.modRegs σ f).field = t.field := by cases σ <;> rfl
@[simp] theorem Tile.lqset_owner (t : Tile) (n : Nat) (q : Queue) : (t.lqset n q).owner = t.owner := rfl
@[simp] theorem Tile.lqset_keyOk (t : Tile) (n : Nat) (q : Queue) : (t.lqset n q).keyOk = t.keyOk := rfl
@[simp] theorem Tile.lqset_vtile (t : Tile) (n : Nat) (q : Queue) : (t.lqset n q).vtile = t.vtile := rfl
@[simp] theorem Tile.lqset_fsctx (t : Tile) (n : Nat) (q : Queue) : (t.lqset n q).fsctx = t.fsctx := rfl
@[simp] theorem Tile.lqset_key (t : Tile) (n : Nat) (q : Queue) : (t.lqset n q).key = t.key := rfl
@[simp] theorem Tile.lqset_run (t : Tile) (n : Nat) (q : Queue) : (t.lqset n q).run = t.run := rfl
@[simp] theorem Tile.lqset_rank (t : Tile) (n : Nat) (q : Queue) : (t.lqset n q).rank = t.rank := rfl
@[simp] theorem Tile.lqset_a (t : Tile) (n : Nat) (q : Queue) : (t.lqset n q).a = t.a := rfl
@[simp] theorem Tile.lqset_e (t : Tile) (n : Nat) (q : Queue) : (t.lqset n q).e = t.e := rfl
@[simp] theorem Tile.lqset_w (t : Tile) (n : Nat) (q : Queue) : (t.lqset n q).w = t.w := rfl
@[simp] theorem Tile.lqset_c (t : Tile) (n : Nat) (q : Queue) : (t.lqset n q).c = t.c := rfl
@[simp] theorem Tile.lqset_v (t : Tile) (n : Nat) (q : Queue) : (t.lqset n q).v = t.v := rfl
@[simp] theorem Tile.lqset_cb (t : Tile) (n : Nat) (q : Queue) : (t.lqset n q).cb = t.cb := rfl
@[simp] theorem Tile.lqset_fd (t : Tile) (n : Nat) (q : Queue) : (t.lqset n q).fd = t.fd := rfl
@[simp] theorem Tile.lqset_ascale (t : Tile) (n : Nat) (q : Queue) : (t.lqset n q).ascale = t.ascale := rfl
@[simp] theorem Tile.lqset_fplane (t : Tile) (n : Nat) (q : Queue) : (t.lqset n q).fplane = t.fplane := rfl
@[simp] theorem Tile.lqset_pxseed (t : Tile) (n : Nat) (q : Queue) : (t.lqset n q).pxseed = t.pxseed := rfl
@[simp] theorem Tile.lqset_pxctr (t : Tile) (n : Nat) (q : Queue) : (t.lqset n q).pxctr = t.pxctr := rfl
@[simp] theorem Tile.lqset_sq (t : Tile) (n : Nat) (q : Queue) : (t.lqset n q).sq = t.sq := rfl
@[simp] theorem Tile.lqset_mA (t : Tile) (n : Nat) (q : Queue) : (t.lqset n q).mA = t.mA := rfl
@[simp] theorem Tile.lqset_mB (t : Tile) (n : Nat) (q : Queue) : (t.lqset n q).mB = t.mB := rfl
@[simp] theorem Tile.lqset_oqAE (t : Tile) (n : Nat) (q : Queue) : (t.lqset n q).oqAE = t.oqAE := rfl
@[simp] theorem Tile.lqset_oqEA (t : Tile) (n : Nat) (q : Queue) : (t.lqset n q).oqEA = t.oqEA := rfl
@[simp] theorem Tile.lqset_sb (t : Tile) (n : Nat) (q : Queue) : (t.lqset n q).sb = t.sb := rfl
@[simp] theorem Tile.lqset_nextId (t : Tile) (n : Nat) (q : Queue) : (t.lqset n q).nextId = t.nextId := rfl
@[simp] theorem Tile.lqset_mx (t : Tile) (n : Nat) (q : Queue) : (t.lqset n q).mx = t.mx := rfl
@[simp] theorem Tile.lqset_feedA (t : Tile) (n : Nat) (q : Queue) : (t.lqset n q).feedA = t.feedA := rfl
@[simp] theorem Tile.lqset_feedB (t : Tile) (n : Nat) (q : Queue) : (t.lqset n q).feedB = t.feedB := rfl
@[simp] theorem Tile.lqset_store (t : Tile) (n : Nat) (q : Queue) : (t.lqset n q).store = t.store := rfl
@[simp] theorem Tile.lqset_standby (t : Tile) (n : Nat) (q : Queue) : (t.lqset n q).standby = t.standby := rfl
@[simp] theorem Tile.lqset_arrived (t : Tile) (n : Nat) (q : Queue) : (t.lqset n q).arrived = t.arrived := rfl
@[simp] theorem Tile.lqset_uses (t : Tile) (n : Nat) (q : Queue) : (t.lqset n q).uses = t.uses := rfl
@[simp] theorem Tile.lqset_jmptAt (t : Tile) (n : Nat) (q : Queue) : (t.lqset n q).jmptAt = t.jmptAt := rfl
@[simp] theorem Tile.lqset_point (t : Tile) (n : Nat) (q : Queue) : (t.lqset n q).point = t.point := rfl
@[simp] theorem Tile.lqset_checks (t : Tile) (n : Nat) (q : Queue) : (t.lqset n q).checks = t.checks := rfl
@[simp] theorem Tile.lqset_residue (t : Tile) (n : Nat) (q : Queue) : (t.lqset n q).residue = t.residue := rfl
@[simp] theorem Tile.lqset_poisonA (t : Tile) (n : Nat) (q : Queue) : (t.lqset n q).poisonA = t.poisonA := rfl
@[simp] theorem Tile.lqset_poisonE (t : Tile) (n : Nat) (q : Queue) : (t.lqset n q).poisonE = t.poisonE := rfl
@[simp] theorem Tile.lqset_before (t : Tile) (n : Nat) (q : Queue) : (t.lqset n q).before = t.before := rfl
@[simp] theorem Tile.lqset_field (t : Tile) (n : Nat) (q : Queue) : (t.lqset n q).field = t.field := rfl
@[simp] theorem Tile.sqset_owner (t : Tile) (n : Nat) (q : Queue) : (t.sqset n q).owner = t.owner := rfl
@[simp] theorem Tile.sqset_keyOk (t : Tile) (n : Nat) (q : Queue) : (t.sqset n q).keyOk = t.keyOk := rfl
@[simp] theorem Tile.sqset_vtile (t : Tile) (n : Nat) (q : Queue) : (t.sqset n q).vtile = t.vtile := rfl
@[simp] theorem Tile.sqset_fsctx (t : Tile) (n : Nat) (q : Queue) : (t.sqset n q).fsctx = t.fsctx := rfl
@[simp] theorem Tile.sqset_key (t : Tile) (n : Nat) (q : Queue) : (t.sqset n q).key = t.key := rfl
@[simp] theorem Tile.sqset_run (t : Tile) (n : Nat) (q : Queue) : (t.sqset n q).run = t.run := rfl
@[simp] theorem Tile.sqset_rank (t : Tile) (n : Nat) (q : Queue) : (t.sqset n q).rank = t.rank := rfl
@[simp] theorem Tile.sqset_a (t : Tile) (n : Nat) (q : Queue) : (t.sqset n q).a = t.a := rfl
@[simp] theorem Tile.sqset_e (t : Tile) (n : Nat) (q : Queue) : (t.sqset n q).e = t.e := rfl
@[simp] theorem Tile.sqset_w (t : Tile) (n : Nat) (q : Queue) : (t.sqset n q).w = t.w := rfl
@[simp] theorem Tile.sqset_c (t : Tile) (n : Nat) (q : Queue) : (t.sqset n q).c = t.c := rfl
@[simp] theorem Tile.sqset_v (t : Tile) (n : Nat) (q : Queue) : (t.sqset n q).v = t.v := rfl
@[simp] theorem Tile.sqset_cb (t : Tile) (n : Nat) (q : Queue) : (t.sqset n q).cb = t.cb := rfl
@[simp] theorem Tile.sqset_fd (t : Tile) (n : Nat) (q : Queue) : (t.sqset n q).fd = t.fd := rfl
@[simp] theorem Tile.sqset_ascale (t : Tile) (n : Nat) (q : Queue) : (t.sqset n q).ascale = t.ascale := rfl
@[simp] theorem Tile.sqset_fplane (t : Tile) (n : Nat) (q : Queue) : (t.sqset n q).fplane = t.fplane := rfl
@[simp] theorem Tile.sqset_pxseed (t : Tile) (n : Nat) (q : Queue) : (t.sqset n q).pxseed = t.pxseed := rfl
@[simp] theorem Tile.sqset_pxctr (t : Tile) (n : Nat) (q : Queue) : (t.sqset n q).pxctr = t.pxctr := rfl
@[simp] theorem Tile.sqset_lq (t : Tile) (n : Nat) (q : Queue) : (t.sqset n q).lq = t.lq := rfl
@[simp] theorem Tile.sqset_mA (t : Tile) (n : Nat) (q : Queue) : (t.sqset n q).mA = t.mA := rfl
@[simp] theorem Tile.sqset_mB (t : Tile) (n : Nat) (q : Queue) : (t.sqset n q).mB = t.mB := rfl
@[simp] theorem Tile.sqset_oqAE (t : Tile) (n : Nat) (q : Queue) : (t.sqset n q).oqAE = t.oqAE := rfl
@[simp] theorem Tile.sqset_oqEA (t : Tile) (n : Nat) (q : Queue) : (t.sqset n q).oqEA = t.oqEA := rfl
@[simp] theorem Tile.sqset_sb (t : Tile) (n : Nat) (q : Queue) : (t.sqset n q).sb = t.sb := rfl
@[simp] theorem Tile.sqset_nextId (t : Tile) (n : Nat) (q : Queue) : (t.sqset n q).nextId = t.nextId := rfl
@[simp] theorem Tile.sqset_mx (t : Tile) (n : Nat) (q : Queue) : (t.sqset n q).mx = t.mx := rfl
@[simp] theorem Tile.sqset_feedA (t : Tile) (n : Nat) (q : Queue) : (t.sqset n q).feedA = t.feedA := rfl
@[simp] theorem Tile.sqset_feedB (t : Tile) (n : Nat) (q : Queue) : (t.sqset n q).feedB = t.feedB := rfl
@[simp] theorem Tile.sqset_store (t : Tile) (n : Nat) (q : Queue) : (t.sqset n q).store = t.store := rfl
@[simp] theorem Tile.sqset_standby (t : Tile) (n : Nat) (q : Queue) : (t.sqset n q).standby = t.standby := rfl
@[simp] theorem Tile.sqset_arrived (t : Tile) (n : Nat) (q : Queue) : (t.sqset n q).arrived = t.arrived := rfl
@[simp] theorem Tile.sqset_uses (t : Tile) (n : Nat) (q : Queue) : (t.sqset n q).uses = t.uses := rfl
@[simp] theorem Tile.sqset_jmptAt (t : Tile) (n : Nat) (q : Queue) : (t.sqset n q).jmptAt = t.jmptAt := rfl
@[simp] theorem Tile.sqset_point (t : Tile) (n : Nat) (q : Queue) : (t.sqset n q).point = t.point := rfl
@[simp] theorem Tile.sqset_checks (t : Tile) (n : Nat) (q : Queue) : (t.sqset n q).checks = t.checks := rfl
@[simp] theorem Tile.sqset_residue (t : Tile) (n : Nat) (q : Queue) : (t.sqset n q).residue = t.residue := rfl
@[simp] theorem Tile.sqset_poisonA (t : Tile) (n : Nat) (q : Queue) : (t.sqset n q).poisonA = t.poisonA := rfl
@[simp] theorem Tile.sqset_poisonE (t : Tile) (n : Nat) (q : Queue) : (t.sqset n q).poisonE = t.poisonE := rfl
@[simp] theorem Tile.sqset_before (t : Tile) (n : Nat) (q : Queue) : (t.sqset n q).before = t.before := rfl
@[simp] theorem Tile.sqset_field (t : Tile) (n : Nat) (q : Queue) : (t.sqset n q).field = t.field := rfl
@[simp] theorem Tile.cset_owner (t : Tile) (n : Nat) (v : Word) : (t.cset n v).owner = t.owner := rfl
@[simp] theorem Tile.cset_keyOk (t : Tile) (n : Nat) (v : Word) : (t.cset n v).keyOk = t.keyOk := rfl
@[simp] theorem Tile.cset_vtile (t : Tile) (n : Nat) (v : Word) : (t.cset n v).vtile = t.vtile := rfl
@[simp] theorem Tile.cset_fsctx (t : Tile) (n : Nat) (v : Word) : (t.cset n v).fsctx = t.fsctx := rfl
@[simp] theorem Tile.cset_key (t : Tile) (n : Nat) (v : Word) : (t.cset n v).key = t.key := rfl
@[simp] theorem Tile.cset_run (t : Tile) (n : Nat) (v : Word) : (t.cset n v).run = t.run := rfl
@[simp] theorem Tile.cset_rank (t : Tile) (n : Nat) (v : Word) : (t.cset n v).rank = t.rank := rfl
@[simp] theorem Tile.cset_a (t : Tile) (n : Nat) (v : Word) : (t.cset n v).a = t.a := rfl
@[simp] theorem Tile.cset_e (t : Tile) (n : Nat) (v : Word) : (t.cset n v).e = t.e := rfl
@[simp] theorem Tile.cset_w (t : Tile) (n : Nat) (v : Word) : (t.cset n v).w = t.w := rfl
@[simp] theorem Tile.cset_v (t : Tile) (n : Nat) (v : Word) : (t.cset n v).v = t.v := rfl
@[simp] theorem Tile.cset_cb (t : Tile) (n : Nat) (v : Word) : (t.cset n v).cb = t.cb := rfl
@[simp] theorem Tile.cset_fd (t : Tile) (n : Nat) (v : Word) : (t.cset n v).fd = t.fd := rfl
@[simp] theorem Tile.cset_ascale (t : Tile) (n : Nat) (v : Word) : (t.cset n v).ascale = t.ascale := rfl
@[simp] theorem Tile.cset_fplane (t : Tile) (n : Nat) (v : Word) : (t.cset n v).fplane = t.fplane := rfl
@[simp] theorem Tile.cset_pxseed (t : Tile) (n : Nat) (v : Word) : (t.cset n v).pxseed = t.pxseed := rfl
@[simp] theorem Tile.cset_pxctr (t : Tile) (n : Nat) (v : Word) : (t.cset n v).pxctr = t.pxctr := rfl
@[simp] theorem Tile.cset_lq (t : Tile) (n : Nat) (v : Word) : (t.cset n v).lq = t.lq := rfl
@[simp] theorem Tile.cset_sq (t : Tile) (n : Nat) (v : Word) : (t.cset n v).sq = t.sq := rfl
@[simp] theorem Tile.cset_mA (t : Tile) (n : Nat) (v : Word) : (t.cset n v).mA = t.mA := rfl
@[simp] theorem Tile.cset_mB (t : Tile) (n : Nat) (v : Word) : (t.cset n v).mB = t.mB := rfl
@[simp] theorem Tile.cset_oqAE (t : Tile) (n : Nat) (v : Word) : (t.cset n v).oqAE = t.oqAE := rfl
@[simp] theorem Tile.cset_oqEA (t : Tile) (n : Nat) (v : Word) : (t.cset n v).oqEA = t.oqEA := rfl
@[simp] theorem Tile.cset_sb (t : Tile) (n : Nat) (v : Word) : (t.cset n v).sb = t.sb := rfl
@[simp] theorem Tile.cset_nextId (t : Tile) (n : Nat) (v : Word) : (t.cset n v).nextId = t.nextId := rfl
@[simp] theorem Tile.cset_mx (t : Tile) (n : Nat) (v : Word) : (t.cset n v).mx = t.mx := rfl
@[simp] theorem Tile.cset_feedA (t : Tile) (n : Nat) (v : Word) : (t.cset n v).feedA = t.feedA := rfl
@[simp] theorem Tile.cset_feedB (t : Tile) (n : Nat) (v : Word) : (t.cset n v).feedB = t.feedB := rfl
@[simp] theorem Tile.cset_store (t : Tile) (n : Nat) (v : Word) : (t.cset n v).store = t.store := rfl
@[simp] theorem Tile.cset_standby (t : Tile) (n : Nat) (v : Word) : (t.cset n v).standby = t.standby := rfl
@[simp] theorem Tile.cset_arrived (t : Tile) (n : Nat) (v : Word) : (t.cset n v).arrived = t.arrived := rfl
@[simp] theorem Tile.cset_uses (t : Tile) (n : Nat) (v : Word) : (t.cset n v).uses = t.uses := rfl
@[simp] theorem Tile.cset_jmptAt (t : Tile) (n : Nat) (v : Word) : (t.cset n v).jmptAt = t.jmptAt := rfl
@[simp] theorem Tile.cset_point (t : Tile) (n : Nat) (v : Word) : (t.cset n v).point = t.point := rfl
@[simp] theorem Tile.cset_checks (t : Tile) (n : Nat) (v : Word) : (t.cset n v).checks = t.checks := rfl
@[simp] theorem Tile.cset_residue (t : Tile) (n : Nat) (v : Word) : (t.cset n v).residue = t.residue := rfl
@[simp] theorem Tile.cset_poisonA (t : Tile) (n : Nat) (v : Word) : (t.cset n v).poisonA = t.poisonA := rfl
@[simp] theorem Tile.cset_poisonE (t : Tile) (n : Nat) (v : Word) : (t.cset n v).poisonE = t.poisonE := rfl
@[simp] theorem Tile.cset_before (t : Tile) (n : Nat) (v : Word) : (t.cset n v).before = t.before := rfl
@[simp] theorem Tile.cset_field (t : Tile) (n : Nat) (v : Word) : (t.cset n v).field = t.field := rfl
@[simp] theorem Tile.wset_owner (t : Tile) (n : Nat) (w : Walker) : (t.wset n w).owner = t.owner := rfl
@[simp] theorem Tile.wset_keyOk (t : Tile) (n : Nat) (w : Walker) : (t.wset n w).keyOk = t.keyOk := rfl
@[simp] theorem Tile.wset_vtile (t : Tile) (n : Nat) (w : Walker) : (t.wset n w).vtile = t.vtile := rfl
@[simp] theorem Tile.wset_fsctx (t : Tile) (n : Nat) (w : Walker) : (t.wset n w).fsctx = t.fsctx := rfl
@[simp] theorem Tile.wset_key (t : Tile) (n : Nat) (w : Walker) : (t.wset n w).key = t.key := rfl
@[simp] theorem Tile.wset_run (t : Tile) (n : Nat) (w : Walker) : (t.wset n w).run = t.run := rfl
@[simp] theorem Tile.wset_rank (t : Tile) (n : Nat) (w : Walker) : (t.wset n w).rank = t.rank := rfl
@[simp] theorem Tile.wset_a (t : Tile) (n : Nat) (w : Walker) : (t.wset n w).a = t.a := rfl
@[simp] theorem Tile.wset_e (t : Tile) (n : Nat) (w : Walker) : (t.wset n w).e = t.e := rfl
@[simp] theorem Tile.wset_c (t : Tile) (n : Nat) (w : Walker) : (t.wset n w).c = t.c := rfl
@[simp] theorem Tile.wset_v (t : Tile) (n : Nat) (w : Walker) : (t.wset n w).v = t.v := rfl
@[simp] theorem Tile.wset_cb (t : Tile) (n : Nat) (w : Walker) : (t.wset n w).cb = t.cb := rfl
@[simp] theorem Tile.wset_fd (t : Tile) (n : Nat) (w : Walker) : (t.wset n w).fd = t.fd := rfl
@[simp] theorem Tile.wset_ascale (t : Tile) (n : Nat) (w : Walker) : (t.wset n w).ascale = t.ascale := rfl
@[simp] theorem Tile.wset_fplane (t : Tile) (n : Nat) (w : Walker) : (t.wset n w).fplane = t.fplane := rfl
@[simp] theorem Tile.wset_pxseed (t : Tile) (n : Nat) (w : Walker) : (t.wset n w).pxseed = t.pxseed := rfl
@[simp] theorem Tile.wset_pxctr (t : Tile) (n : Nat) (w : Walker) : (t.wset n w).pxctr = t.pxctr := rfl
@[simp] theorem Tile.wset_lq (t : Tile) (n : Nat) (w : Walker) : (t.wset n w).lq = t.lq := rfl
@[simp] theorem Tile.wset_sq (t : Tile) (n : Nat) (w : Walker) : (t.wset n w).sq = t.sq := rfl
@[simp] theorem Tile.wset_mA (t : Tile) (n : Nat) (w : Walker) : (t.wset n w).mA = t.mA := rfl
@[simp] theorem Tile.wset_mB (t : Tile) (n : Nat) (w : Walker) : (t.wset n w).mB = t.mB := rfl
@[simp] theorem Tile.wset_oqAE (t : Tile) (n : Nat) (w : Walker) : (t.wset n w).oqAE = t.oqAE := rfl
@[simp] theorem Tile.wset_oqEA (t : Tile) (n : Nat) (w : Walker) : (t.wset n w).oqEA = t.oqEA := rfl
@[simp] theorem Tile.wset_sb (t : Tile) (n : Nat) (w : Walker) : (t.wset n w).sb = t.sb := rfl
@[simp] theorem Tile.wset_nextId (t : Tile) (n : Nat) (w : Walker) : (t.wset n w).nextId = t.nextId := rfl
@[simp] theorem Tile.wset_mx (t : Tile) (n : Nat) (w : Walker) : (t.wset n w).mx = t.mx := rfl
@[simp] theorem Tile.wset_feedA (t : Tile) (n : Nat) (w : Walker) : (t.wset n w).feedA = t.feedA := rfl
@[simp] theorem Tile.wset_feedB (t : Tile) (n : Nat) (w : Walker) : (t.wset n w).feedB = t.feedB := rfl
@[simp] theorem Tile.wset_store (t : Tile) (n : Nat) (w : Walker) : (t.wset n w).store = t.store := rfl
@[simp] theorem Tile.wset_standby (t : Tile) (n : Nat) (w : Walker) : (t.wset n w).standby = t.standby := rfl
@[simp] theorem Tile.wset_arrived (t : Tile) (n : Nat) (w : Walker) : (t.wset n w).arrived = t.arrived := rfl
@[simp] theorem Tile.wset_uses (t : Tile) (n : Nat) (w : Walker) : (t.wset n w).uses = t.uses := rfl
@[simp] theorem Tile.wset_jmptAt (t : Tile) (n : Nat) (w : Walker) : (t.wset n w).jmptAt = t.jmptAt := rfl
@[simp] theorem Tile.wset_point (t : Tile) (n : Nat) (w : Walker) : (t.wset n w).point = t.point := rfl
@[simp] theorem Tile.wset_checks (t : Tile) (n : Nat) (w : Walker) : (t.wset n w).checks = t.checks := rfl
@[simp] theorem Tile.wset_residue (t : Tile) (n : Nat) (w : Walker) : (t.wset n w).residue = t.residue := rfl
@[simp] theorem Tile.wset_poisonA (t : Tile) (n : Nat) (w : Walker) : (t.wset n w).poisonA = t.poisonA := rfl
@[simp] theorem Tile.wset_poisonE (t : Tile) (n : Nat) (w : Walker) : (t.wset n w).poisonE = t.poisonE := rfl
@[simp] theorem Tile.wset_before (t : Tile) (n : Nat) (w : Walker) : (t.wset n w).before = t.before := rfl
@[simp] theorem Tile.wset_field (t : Tile) (n : Nat) (w : Walker) : (t.wset n w).field = t.field := rfl
@[simp] theorem Tile.checkResult_owner (t : Tile) (n : Nat) : (t.checkResult n).owner = t.owner := rfl
@[simp] theorem Tile.checkResult_keyOk (t : Tile) (n : Nat) : (t.checkResult n).keyOk = t.keyOk := rfl
@[simp] theorem Tile.checkResult_vtile (t : Tile) (n : Nat) : (t.checkResult n).vtile = t.vtile := rfl
@[simp] theorem Tile.checkResult_fsctx (t : Tile) (n : Nat) : (t.checkResult n).fsctx = t.fsctx := rfl
@[simp] theorem Tile.checkResult_key (t : Tile) (n : Nat) : (t.checkResult n).key = t.key := rfl
@[simp] theorem Tile.checkResult_run (t : Tile) (n : Nat) : (t.checkResult n).run = t.run := rfl
@[simp] theorem Tile.checkResult_rank (t : Tile) (n : Nat) : (t.checkResult n).rank = t.rank := rfl
@[simp] theorem Tile.checkResult_a (t : Tile) (n : Nat) : (t.checkResult n).a = t.a := rfl
@[simp] theorem Tile.checkResult_e (t : Tile) (n : Nat) : (t.checkResult n).e = t.e := rfl
@[simp] theorem Tile.checkResult_w (t : Tile) (n : Nat) : (t.checkResult n).w = t.w := rfl
@[simp] theorem Tile.checkResult_c (t : Tile) (n : Nat) : (t.checkResult n).c = t.c := rfl
@[simp] theorem Tile.checkResult_v (t : Tile) (n : Nat) : (t.checkResult n).v = t.v := rfl
@[simp] theorem Tile.checkResult_cb (t : Tile) (n : Nat) : (t.checkResult n).cb = t.cb := rfl
@[simp] theorem Tile.checkResult_fd (t : Tile) (n : Nat) : (t.checkResult n).fd = t.fd := rfl
@[simp] theorem Tile.checkResult_ascale (t : Tile) (n : Nat) : (t.checkResult n).ascale = t.ascale := rfl
@[simp] theorem Tile.checkResult_fplane (t : Tile) (n : Nat) : (t.checkResult n).fplane = t.fplane := rfl
@[simp] theorem Tile.checkResult_pxseed (t : Tile) (n : Nat) : (t.checkResult n).pxseed = t.pxseed := rfl
@[simp] theorem Tile.checkResult_pxctr (t : Tile) (n : Nat) : (t.checkResult n).pxctr = t.pxctr := rfl
@[simp] theorem Tile.checkResult_lq (t : Tile) (n : Nat) : (t.checkResult n).lq = t.lq := rfl
@[simp] theorem Tile.checkResult_sq (t : Tile) (n : Nat) : (t.checkResult n).sq = t.sq := rfl
@[simp] theorem Tile.checkResult_mA (t : Tile) (n : Nat) : (t.checkResult n).mA = t.mA := rfl
@[simp] theorem Tile.checkResult_mB (t : Tile) (n : Nat) : (t.checkResult n).mB = t.mB := rfl
@[simp] theorem Tile.checkResult_oqAE (t : Tile) (n : Nat) : (t.checkResult n).oqAE = t.oqAE := rfl
@[simp] theorem Tile.checkResult_oqEA (t : Tile) (n : Nat) : (t.checkResult n).oqEA = t.oqEA := rfl
@[simp] theorem Tile.checkResult_sb (t : Tile) (n : Nat) : (t.checkResult n).sb = t.sb := rfl
@[simp] theorem Tile.checkResult_nextId (t : Tile) (n : Nat) : (t.checkResult n).nextId = t.nextId := rfl
@[simp] theorem Tile.checkResult_mx (t : Tile) (n : Nat) : (t.checkResult n).mx = t.mx := rfl
@[simp] theorem Tile.checkResult_feedA (t : Tile) (n : Nat) : (t.checkResult n).feedA = t.feedA := rfl
@[simp] theorem Tile.checkResult_feedB (t : Tile) (n : Nat) : (t.checkResult n).feedB = t.feedB := rfl
@[simp] theorem Tile.checkResult_store (t : Tile) (n : Nat) : (t.checkResult n).store = t.store := rfl
@[simp] theorem Tile.checkResult_standby (t : Tile) (n : Nat) : (t.checkResult n).standby = t.standby := rfl
@[simp] theorem Tile.checkResult_arrived (t : Tile) (n : Nat) : (t.checkResult n).arrived = t.arrived := rfl
@[simp] theorem Tile.checkResult_uses (t : Tile) (n : Nat) : (t.checkResult n).uses = t.uses := rfl
@[simp] theorem Tile.checkResult_jmptAt (t : Tile) (n : Nat) : (t.checkResult n).jmptAt = t.jmptAt := rfl
@[simp] theorem Tile.checkResult_point (t : Tile) (n : Nat) : (t.checkResult n).point = t.point := rfl
@[simp] theorem Tile.checkResult_residue (t : Tile) (n : Nat) : (t.checkResult n).residue = t.residue := rfl
@[simp] theorem Tile.checkResult_poisonA (t : Tile) (n : Nat) : (t.checkResult n).poisonA = t.poisonA := rfl
@[simp] theorem Tile.checkResult_poisonE (t : Tile) (n : Nat) : (t.checkResult n).poisonE = t.poisonE := rfl
@[simp] theorem Tile.checkResult_before (t : Tile) (n : Nat) : (t.checkResult n).before = t.before := rfl
@[simp] theorem Tile.checkResult_field (t : Tile) (n : Nat) : (t.checkResult n).field = t.field := rfl
@[simp] theorem Tile.bankWrite_owner (t : Tile) (f n x : Nat) : (t.bankWrite f n x).owner = t.owner := rfl
@[simp] theorem Tile.bankWrite_keyOk (t : Tile) (f n x : Nat) : (t.bankWrite f n x).keyOk = t.keyOk := rfl
@[simp] theorem Tile.bankWrite_vtile (t : Tile) (f n x : Nat) : (t.bankWrite f n x).vtile = t.vtile := rfl
@[simp] theorem Tile.bankWrite_fsctx (t : Tile) (f n x : Nat) : (t.bankWrite f n x).fsctx = t.fsctx := rfl
@[simp] theorem Tile.bankWrite_key (t : Tile) (f n x : Nat) : (t.bankWrite f n x).key = t.key := rfl
@[simp] theorem Tile.bankWrite_run (t : Tile) (f n x : Nat) : (t.bankWrite f n x).run = t.run := rfl
@[simp] theorem Tile.bankWrite_rank (t : Tile) (f n x : Nat) : (t.bankWrite f n x).rank = t.rank := rfl
@[simp] theorem Tile.bankWrite_a (t : Tile) (f n x : Nat) : (t.bankWrite f n x).a = t.a := rfl
@[simp] theorem Tile.bankWrite_e (t : Tile) (f n x : Nat) : (t.bankWrite f n x).e = t.e := rfl
@[simp] theorem Tile.bankWrite_w (t : Tile) (f n x : Nat) : (t.bankWrite f n x).w = t.w := rfl
@[simp] theorem Tile.bankWrite_c (t : Tile) (f n x : Nat) : (t.bankWrite f n x).c = t.c := rfl
@[simp] theorem Tile.bankWrite_v (t : Tile) (f n x : Nat) : (t.bankWrite f n x).v = t.v := rfl
@[simp] theorem Tile.bankWrite_cb (t : Tile) (f n x : Nat) : (t.bankWrite f n x).cb = t.cb := rfl
@[simp] theorem Tile.bankWrite_fd (t : Tile) (f n x : Nat) : (t.bankWrite f n x).fd = t.fd := rfl
@[simp] theorem Tile.bankWrite_ascale (t : Tile) (f n x : Nat) : (t.bankWrite f n x).ascale = t.ascale := rfl
@[simp] theorem Tile.bankWrite_fplane (t : Tile) (f n x : Nat) : (t.bankWrite f n x).fplane = t.fplane := rfl
@[simp] theorem Tile.bankWrite_pxseed (t : Tile) (f n x : Nat) : (t.bankWrite f n x).pxseed = t.pxseed := rfl
@[simp] theorem Tile.bankWrite_pxctr (t : Tile) (f n x : Nat) : (t.bankWrite f n x).pxctr = t.pxctr := rfl
@[simp] theorem Tile.bankWrite_lq (t : Tile) (f n x : Nat) : (t.bankWrite f n x).lq = t.lq := rfl
@[simp] theorem Tile.bankWrite_sq (t : Tile) (f n x : Nat) : (t.bankWrite f n x).sq = t.sq := rfl
@[simp] theorem Tile.bankWrite_mA (t : Tile) (f n x : Nat) : (t.bankWrite f n x).mA = t.mA := rfl
@[simp] theorem Tile.bankWrite_mB (t : Tile) (f n x : Nat) : (t.bankWrite f n x).mB = t.mB := rfl
@[simp] theorem Tile.bankWrite_oqAE (t : Tile) (f n x : Nat) : (t.bankWrite f n x).oqAE = t.oqAE := rfl
@[simp] theorem Tile.bankWrite_oqEA (t : Tile) (f n x : Nat) : (t.bankWrite f n x).oqEA = t.oqEA := rfl
@[simp] theorem Tile.bankWrite_sb (t : Tile) (f n x : Nat) : (t.bankWrite f n x).sb = t.sb := rfl
@[simp] theorem Tile.bankWrite_nextId (t : Tile) (f n x : Nat) : (t.bankWrite f n x).nextId = t.nextId := rfl
@[simp] theorem Tile.bankWrite_mx (t : Tile) (f n x : Nat) : (t.bankWrite f n x).mx = t.mx := rfl
@[simp] theorem Tile.bankWrite_feedA (t : Tile) (f n x : Nat) : (t.bankWrite f n x).feedA = t.feedA := rfl
@[simp] theorem Tile.bankWrite_feedB (t : Tile) (f n x : Nat) : (t.bankWrite f n x).feedB = t.feedB := rfl
@[simp] theorem Tile.bankWrite_store (t : Tile) (f n x : Nat) : (t.bankWrite f n x).store = t.store := rfl
@[simp] theorem Tile.bankWrite_standby (t : Tile) (f n x : Nat) : (t.bankWrite f n x).standby = t.standby := rfl
@[simp] theorem Tile.bankWrite_arrived (t : Tile) (f n x : Nat) : (t.bankWrite f n x).arrived = t.arrived := rfl
@[simp] theorem Tile.bankWrite_uses (t : Tile) (f n x : Nat) : (t.bankWrite f n x).uses = t.uses := rfl
@[simp] theorem Tile.bankWrite_jmptAt (t : Tile) (f n x : Nat) : (t.bankWrite f n x).jmptAt = t.jmptAt := rfl
@[simp] theorem Tile.bankWrite_point (t : Tile) (f n x : Nat) : (t.bankWrite f n x).point = t.point := rfl
@[simp] theorem Tile.bankWrite_checks (t : Tile) (f n x : Nat) : (t.bankWrite f n x).checks = t.checks := rfl
@[simp] theorem Tile.bankWrite_residue (t : Tile) (f n x : Nat) : (t.bankWrite f n x).residue = t.residue := rfl
@[simp] theorem Tile.bankWrite_poisonA (t : Tile) (f n x : Nat) : (t.bankWrite f n x).poisonA = t.poisonA := rfl
@[simp] theorem Tile.bankWrite_poisonE (t : Tile) (f n x : Nat) : (t.bankWrite f n x).poisonE = t.poisonE := rfl
@[simp] theorem Tile.bankWrite_before (t : Tile) (f n x : Nat) : (t.bankWrite f n x).before = t.before := rfl

/-! ## Updates of the registers -/

@[simp] theorem Regs.sset_p (r : Regs) (n : Nat) (v : Word) : (r.sset n v).p = r.p := rfl
@[simp] theorem Regs.sset_l (r : Regs) (n : Nat) (v : Word) : (r.sset n v).l = r.l := rfl
@[simp] theorem Regs.sset_st (r : Regs) (n : Nat) (v : Word) : (r.sset n v).st = r.st := rfl
@[simp] theorem Regs.sset_platch (r : Regs) (n : Nat) (v : Word) : (r.sset n v).platch = r.platch := rfl
@[simp] theorem Regs.sset_live (r : Regs) (n : Nat) (v : Word) : (r.sset n v).live = r.live := rfl
@[simp] theorem Regs.sset_pc (r : Regs) (n : Nat) (v : Word) : (r.sset n v).pc = r.pc := rfl
@[simp] theorem Regs.sset_runPc (r : Regs) (n : Nat) (v : Word) : (r.sset n v).runPc = r.runPc := rfl
@[simp] theorem Regs.sset_loops (r : Regs) (n : Nat) (v : Word) : (r.sset n v).loops = r.loops := rfl
@[simp] theorem Regs.sset_out (r : Regs) (n : Nat) (v : Word) : (r.sset n v).out = r.out := rfl
@[simp] theorem Regs.lset_s (r : Regs) (n : Nat) (v : Word) : (r.lset n v).s = r.s := rfl
@[simp] theorem Regs.lset_p (r : Regs) (n : Nat) (v : Word) : (r.lset n v).p = r.p := rfl
@[simp] theorem Regs.lset_st (r : Regs) (n : Nat) (v : Word) : (r.lset n v).st = r.st := rfl
@[simp] theorem Regs.lset_platch (r : Regs) (n : Nat) (v : Word) : (r.lset n v).platch = r.platch := rfl
@[simp] theorem Regs.lset_live (r : Regs) (n : Nat) (v : Word) : (r.lset n v).live = r.live := rfl
@[simp] theorem Regs.lset_pc (r : Regs) (n : Nat) (v : Word) : (r.lset n v).pc = r.pc := rfl
@[simp] theorem Regs.lset_runPc (r : Regs) (n : Nat) (v : Word) : (r.lset n v).runPc = r.runPc := rfl
@[simp] theorem Regs.lset_loops (r : Regs) (n : Nat) (v : Word) : (r.lset n v).loops = r.loops := rfl
@[simp] theorem Regs.lset_out (r : Regs) (n : Nat) (v : Word) : (r.lset n v).out = r.out := rfl
@[simp] theorem Regs.orFlags_s (r : Regs) (f : BitVec 5) : (r.orFlags f).s = r.s := rfl
@[simp] theorem Regs.orFlags_p (r : Regs) (f : BitVec 5) : (r.orFlags f).p = r.p := rfl
@[simp] theorem Regs.orFlags_l (r : Regs) (f : BitVec 5) : (r.orFlags f).l = r.l := rfl
@[simp] theorem Regs.orFlags_platch (r : Regs) (f : BitVec 5) : (r.orFlags f).platch = r.platch := rfl
@[simp] theorem Regs.orFlags_live (r : Regs) (f : BitVec 5) : (r.orFlags f).live = r.live := rfl
@[simp] theorem Regs.orFlags_pc (r : Regs) (f : BitVec 5) : (r.orFlags f).pc = r.pc := rfl
@[simp] theorem Regs.orFlags_runPc (r : Regs) (f : BitVec 5) : (r.orFlags f).runPc = r.runPc := rfl
@[simp] theorem Regs.orFlags_loops (r : Regs) (f : BitVec 5) : (r.orFlags f).loops = r.loops := rfl
@[simp] theorem Regs.orFlags_out (r : Regs) (f : BitVec 5) : (r.orFlags f).out = r.out := rfl
@[simp] theorem Regs.clearLatch_s (r : Regs) : (r.clearLatch).s = r.s := rfl
@[simp] theorem Regs.clearLatch_p (r : Regs) : (r.clearLatch).p = r.p := rfl
@[simp] theorem Regs.clearLatch_l (r : Regs) : (r.clearLatch).l = r.l := rfl
@[simp] theorem Regs.clearLatch_live (r : Regs) : (r.clearLatch).live = r.live := rfl
@[simp] theorem Regs.clearLatch_pc (r : Regs) : (r.clearLatch).pc = r.pc := rfl
@[simp] theorem Regs.clearLatch_runPc (r : Regs) : (r.clearLatch).runPc = r.runPc := rfl
@[simp] theorem Regs.clearLatch_loops (r : Regs) : (r.clearLatch).loops = r.loops := rfl
@[simp] theorem Regs.clearLatch_out (r : Regs) : (r.clearLatch).out = r.out := rfl
@[simp] theorem Regs.post_s (r : Regs) (due : Nat) (v : ResVal) (f : BitVec 5) : (r.post due v f).s = r.s := rfl
@[simp] theorem Regs.post_p (r : Regs) (due : Nat) (v : ResVal) (f : BitVec 5) : (r.post due v f).p = r.p := rfl
@[simp] theorem Regs.post_l (r : Regs) (due : Nat) (v : ResVal) (f : BitVec 5) : (r.post due v f).l = r.l := rfl
@[simp] theorem Regs.post_st (r : Regs) (due : Nat) (v : ResVal) (f : BitVec 5) : (r.post due v f).st = r.st := rfl
@[simp] theorem Regs.post_platch (r : Regs) (due : Nat) (v : ResVal) (f : BitVec 5) : (r.post due v f).platch = r.platch := rfl
@[simp] theorem Regs.post_live (r : Regs) (due : Nat) (v : ResVal) (f : BitVec 5) : (r.post due v f).live = r.live := rfl
@[simp] theorem Regs.post_pc (r : Regs) (due : Nat) (v : ResVal) (f : BitVec 5) : (r.post due v f).pc = r.pc := rfl
@[simp] theorem Regs.post_runPc (r : Regs) (due : Nat) (v : ResVal) (f : BitVec 5) : (r.post due v f).runPc = r.runPc := rfl
@[simp] theorem Regs.post_loops (r : Regs) (due : Nat) (v : ResVal) (f : BitVec 5) : (r.post due v f).loops = r.loops := rfl
@[simp] theorem Regs.pset_s (r : Regs) (n : Nat) (b : Bool) : (r.pset n b).s = r.s := by unfold Regs.pset; split <;> rfl
@[simp] theorem Regs.pset_l (r : Regs) (n : Nat) (b : Bool) : (r.pset n b).l = r.l := by unfold Regs.pset; split <;> rfl
@[simp] theorem Regs.pset_st (r : Regs) (n : Nat) (b : Bool) : (r.pset n b).st = r.st := by unfold Regs.pset; split <;> rfl
@[simp] theorem Regs.pset_platch (r : Regs) (n : Nat) (b : Bool) : (r.pset n b).platch = r.platch := by unfold Regs.pset; split <;> rfl
@[simp] theorem Regs.pset_live (r : Regs) (n : Nat) (b : Bool) : (r.pset n b).live = r.live := by unfold Regs.pset; split <;> rfl
@[simp] theorem Regs.pset_pc (r : Regs) (n : Nat) (b : Bool) : (r.pset n b).pc = r.pc := by unfold Regs.pset; split <;> rfl
@[simp] theorem Regs.pset_runPc (r : Regs) (n : Nat) (b : Bool) : (r.pset n b).runPc = r.runPc := by unfold Regs.pset; split <;> rfl
@[simp] theorem Regs.pset_loops (r : Regs) (n : Nat) (b : Bool) : (r.pset n b).loops = r.loops := by unfold Regs.pset; split <;> rfl
@[simp] theorem Regs.pset_out (r : Regs) (n : Nat) (b : Bool) : (r.pset n b).out = r.out := by unfold Regs.pset; split <;> rfl

theorem Regs.sget_sset (r : Regs) {n : Nat} (v : Word) (h : n < 32) : (r.sset n v).sget n = v := by
  simp [Regs.sget, Regs.sset, h]

theorem Regs.sget_sset_ne (r : Regs) {m n : Nat} (v : Word) (h : m ≠ n) : (r.sset n v).sget m = r.sget m := by
  simp [Regs.sget, Regs.sset, Ne.symm h]

@[simp] theorem Regs.pget_pset_zero (r : Regs) (n : Nat) (b : Bool) : (r.pset n b).pget 0 = true := by simp [Regs.pget]

end Sys2Proof.Machine
end

