-- ==== Sys2Proof/Laws/Far.lean ====
section
/-!
SUPPORT. Sys2Proof/Laws/Far.lean: what counting errors, repairing granules, translating and reading far memory leave alone, and
that every write into far memory keeps the canonical form.
-/
namespace Sys2Proof.Machine

/-- Two states with the same tiles, far memories, operations, runs and clocks. -/
def SameCore (s t : State) : Prop :=
  t.tiles = s.tiles ∧ t.tier = s.tier ∧ t.host = s.host ∧ t.ops = s.ops ∧ t.runs = s.runs ∧ t.cycle = s.cycle ∧
  t.time = s.time ∧ t.seq = s.seq ∧ t.writes = s.writes ∧ t.homes = s.homes ∧ t.who = s.who

theorem SameCore.refl (s : State) : SameCore s s := by simp [SameCore]

theorem SameCore.trans {s t u : State} (h : SameCore s t) (g : SameCore t u) : SameCore s u := by
  simp only [SameCore] at *
  simp [h, g]

theorem State.tile_congr {s t : State} (h : t.tiles = s.tiles) (j : Nat) : t.tile j = s.tile j := by
  simp [State.tile, h]

theorem State.count_same (s : State) (lo n : Nat) : SameCore s (s.count lo n) := by simp [SameCore, State.count]

theorem State.countSrams_same (l : List Nat) : ∀ s : State, SameCore s (l.foldl (fun s _ => s.countSram) s) := by
  induction l with
  | nil => exact SameCore.refl
  | cons a l ih => exact fun s => (s.count_same 0 16).trans (ih _)

/-- A repair changes nothing of its tile but the error bits of its field store, and nothing elsewhere but a count (R65). -/
theorem State.repair_keeps (s : State) (k f n : Nat) :
    (∀ j, j ≠ k → (s.repair k f n).tile j = s.tile j) ∧
    (∃ w d, (s.repair k f n).tile k = { s.tile k with field := { (s.tile k).field with worn := w, dead := d } }) ∧
    (s.repair k f n).tier = s.tier ∧ (s.repair k f n).host = s.host ∧ (s.repair k f n).ops = s.ops ∧
    (s.repair k f n).runs = s.runs ∧ (s.repair k f n).cycle = s.cycle ∧ (s.repair k f n).seq = s.seq ∧
    (s.repair k f n).writes = s.writes ∧ (s.repair k f n).homes = s.homes := by
  unfold State.repair
  dsimp only
  split
  · exact ⟨fun _ _ => rfl, ⟨(s.tile k).field.worn, (s.tile k).field.dead, rfl⟩, rfl, rfl, rfl, rfl, rfl, rfl, rfl, rfl⟩
  · obtain ⟨h1, h2, h3, h4, h5, h6, -, h7, h8, h9, -⟩ := State.countSrams_same
      ((s.tile k).repairs f n) s
    refine ⟨fun j hj => ?_, ⟨_, _, State.tile_setTile _ _ _⟩, by simp [h2], by simp [h3], by simp [h4], by simp [h5], by simp [h6],
      by simp [h7], by simp [h8], by simp [h9]⟩
    rw [State.tile_setTile_ne _ _ hj, State.tile_congr h1]

theorem State.tierTouch_same (s : State) (pa : Nat) : SameCore s (s.tierTouch pa).1 := by
  unfold State.tierTouch
  dsimp only
  (repeat' split) <;> simp [SameCore, State.countUncorrectable, State.countTier, State.count]

/-- A descent changes no memory (R29, R30). -/
theorem State.walkFrom_same (k : Access) (x d va : Nat) :
    ∀ (fuel : Nat) (s : State) (table : Nat), SameCore s (s.walkFrom x d va k table fuel).1
  | 0, s, table => SameCore.refl s
  | lvl + 1, s, table => by
    have ht := s.tierTouch_same (65536 * table + 8 * vaIndex va lvl)
    unfold State.walkFrom
    dsimp only
    generalize (s.die d).walkCache.find? _ = hit
    cases hit with
    | none =>
      simp only [Option.isSome_none, Bool.false_eq_true, if_false]
      (repeat' split) <;> first
        | exact ht
        | exact (ht.trans (by simp [SameCore])).trans (State.walkFrom_same k x d va lvl _ _)
    | some c =>
      simp only [Option.isSome_some, if_true, Bool.not_true, Bool.false_eq_true, if_false]
      (repeat' split) <;> first
        | exact SameCore.refl s
        | exact State.walkFrom_same k x d va lvl _ _

/-- A walk for a read or a fetch sets no dirty bit: it changes no memory (R29). -/

theorem State.walk_same {k : Access} (hk : k ≠ .write) (s : State) (x d va : Nat) : SameCore s (s.walk x d va k).1 := by
  have hw : (k != .write) = true := by simpa using hk
  unfold State.walk
  dsimp only
  split
  · exact SameCore.refl s
  · have := State.walkFrom_same k x d va 3 s (wbits (s.ctx x).xlroot 16 32)
    split <;> rename_i h <;> rw [h] at this
    · exact this
    · simpa [hw] using this

theorem State.translateLocal_same {k : Access} (hk : k ≠ .write) (s : State) (x va : Nat) :
    SameCore s (s.translateLocal x va k).1 := by
  have hw : (k == .write) = false := by simpa using hk
  unfold State.translateLocal
  dsimp only
  split
  · exact SameCore.refl s
  split
  · split
    · exact SameCore.refl s
    · simp only [hw, Bool.false_and, Bool.false_eq_true, if_false]
      exact SameCore.refl s
  · have := State.walk_same hk s x (dieOfCtrl (colour (va / 65536))) va
    split <;> rename_i h <;> rw [h] at this
    · exact this
    · exact this.trans (by simp [SameCore])

theorem State.tierAccess_same (s : State) (write : Bool) (pa : Nat) : SameCore s (s.tierAccess write pa).1 := by
  unfold State.tierAccess
  split
  · exact SameCore.refl s
  · exact s.tierTouch_same pa

theorem State.place_same (s : State) (x : Nat) (t : Trans) (write : Bool) (off : Nat) : SameCore s (s.place x t write off).1 := by
  unfold State.place
  dsimp only
  split
  · split
    · exact SameCore.refl s
    · have := s.tierAccess_same write (65536 * t.ppn + off)
      split <;> rename_i h <;> rw [h] at this <;> exact this
  · split
    · split <;> exact SameCore.refl s
    · split <;> exact SameCore.refl s

/-- A read through a translation that is given changes no more than the translation did. -/
theorem State.readBy_same {s : State} (v : Viewer) (x va n : Nat) (y : State × (Nat ⊕ Trans)) (h : SameCore s y.1) :
    SameCore s (State.readBy v x va n y).1 := by
  obtain ⟨s', y⟩ := y
  cases y with
  | inl f => exact h
  | inr t =>
    simp only [State.readBy]
    have h2 := State.place_same s' x t false (va % 65536)
    split <;> rename_i g <;> rw [g] at h2 <;> exact h.trans h2

theorem State.remoteEntry_same (s : State) (x c m : Nat) : SameCore s (s.remoteEntry x c m).1 := by
  unfold State.remoteEntry
  dsimp only
  have h1 := State.readBy_same (.die (dieOfCtrl c)) x (wbits (s.ctx x).rktab 16 39 * 65536 + 16 * m) 8 _
    (State.translateLocal_same (k := .read) (by decide) s x (wbits (s.ctx x).rktab 16 39 * 65536 + 16 * m))
  split <;> rename_i h <;> rw [h] at h1
  · exact h1
  · rename_i s' key
    have h2 := State.readBy_same (.die (dieOfCtrl c)) x (wbits (s.ctx x).rktab 16 39 * 65536 + 16 * m + 8) 8 _
      (State.translateLocal_same (k := .read) (by decide) s' x (wbits (s.ctx x).rktab 16 39 * 65536 + 16 * m + 8))
    split <;> rename_i h <;> rw [h] at h2 <;> exact h1.trans h2

theorem State.translate_same {k : Access} (hk : k ≠ .write) (s : State) (x va : Nat) : SameCore s (s.translate x va k).1 := by
  unfold State.translate
  have h1 := State.translateLocal_same hk s x va
  split <;> rename_i h <;> rw [h] at h1
  · exact h1
  · rename_i s' t
    split
    · have h2 := s'.remoteEntry_same x (colour (va / 65536)) t.module
      dsimp only
      split <;> rename_i h <;> rw [h] at h2
      · exact h1.trans h2
      · split
        · exact h1.trans h2
        · exact (h1.trans h2).trans (by simp [SameCore])
    · exact h1

/-! ### Packets (R264) change nothing but the links, the reeve and what is sent -/

theorem State.modLink_same (s : State) (p : Nat) (f : LinkPort → LinkPort) : SameCore s (s.modLink p f) := .refl s
theorem State.send_same (s : State) (o : Output) : SameCore s (s.send o) := .refl s
theorem State.rekey_same (s : State) (port : Nat) (out : Bool) (seq : Nat) : SameCore s (s.rekey port out seq) := by
  unfold State.rekey
  split <;> exact .refl s
theorem State.rekeyFirst_same (s : State) (port : Nat) (out : Bool) : SameCore s (s.rekeyFirst port out) := by
  unfold State.rekeyFirst
  split
  · exact State.rekey_same ..
  · exact .refl s
theorem State.emit_same (s : State) (port : Nat) (p : Packet) : SameCore s (s.emit port p) := by
  unfold State.emit
  cases p.item <;> exact .refl s
theorem State.sendPacket_same (s : State) (port : Nat) (item : LinkItem) : SameCore s (s.sendPacket port item) :=
  (s.rekeyFirst_same port true).trans (State.emit_same _ port _)
theorem State.sendOn_same (s : State) (port : Nat) (item : LinkItem) : SameCore s (s.sendOn port item) := by
  unfold State.sendOn
  split
  · exact State.sendPacket_same ..
  · exact .refl s
theorem State.reach_same (s : State) (t : Trans) (va : Nat) : SameCore s (s.reach t va) := by
  unfold State.reach
  (repeat' split)
  · exact State.sendOn_same ..
  · exact .refl s
  · exact .refl s

theorem State.reachLine_same {k : Access} (hk : k ≠ .write) (s : State) (x va : Nat) : SameCore s (s.reachLine x va k) := by
  unfold State.reachLine
  have h := State.translate_same hk s x va
  split <;> rename_i g <;> rw [g] at h
  · exact h
  · exact h.trans (State.reach_same ..)

theorem State.vaGet_same {k : Access} (hk : k ≠ .write) (s : State) (v : Viewer) (x va n : Nat) : SameCore s (s.vaGet v x va n k).1 :=
  State.readBy_same v x va n _ (State.translate_same hk s x va)

/-- A read through a translation changes no memory, no tile and no operation. -/
theorem State.vaRead_same {k : Access} (hk : k ≠ .write) (s : State) (v : Viewer) (x va n : Nat) :
    SameCore s (s.vaRead v x va n k).1 :=
  (State.reachLine_same hk s x va).trans (State.vaGet_same hk _ v x va n)

/-! ## Writes into far memory keep the canonical form -/

theorem State.linePut_canonical {s : State} (h : s.farCanonical) (key a : Nat) (bs : List Byte) : (s.linePut key a bs).farCanonical := by
  refine ⟨?_, h.2⟩
  unfold State.linePut
  dsimp only
  split <;> apply Memory.write_wf
  · exact h.1
  · exact Memory.write_wf _ _ _ h.1

/-- A fold of steps that keep a property keeps it. -/
theorem foldl_keeps {α β : Type} {P : β → Prop} {f : β → α → β} (hf : ∀ s x, P s → P (f s x)) (l : List α) :
    ∀ {s : β}, P s → P (l.foldl f s) := by
  induction l with
  | nil => exact fun h => h
  | cons x l ih => exact fun h => ih (hf _ _ h)

theorem State.basePut_canonical {s : State} (h : s.farCanonical) (sp : Space) (key a : Nat) (bs : List Byte) :
    (s.basePut sp key a bs).farCanonical := by
  unfold State.basePut
  cases sp with
  | tier =>
    dsimp only
    split
    · exact h
    · exact foldl_keeps (P := State.farCanonical) (fun s l h => State.linePut_canonical h _ _ _) _ h
  | host => exact ⟨h.1, Memory.write_wf _ _ _ h.2.1, h.2.2⟩
  | remote m =>
    refine ⟨h.1, h.2.1, fun p hp => ?_⟩
    rcases mem_mput hp with rfl | hp
    · refine Memory.write_wf _ _ _ ?_
      cases hm : mget s.remotes m with
      | none => exact ⟨List.Pairwise.nil, fun _ h => absurd h (by simp)⟩
      | some l => exact h.2.2 (m, l) (mem_of_mget hm)
    · exact h.2.2 p hp

theorem State.foldWrite_canonical {s : State} (h : s.farCanonical) (w : FarWrite) : (s.foldWrite w).farCanonical :=
  State.basePut_canonical h _ _ _ _

theorem State.foldWrites_canonical (l : List FarWrite) : ∀ {s : State}, s.farCanonical →
    (l.foldl (fun s w => s.foldWrite w) s).farCanonical := by
  induction l with
  | nil => exact fun h => h
  | cons w l ih => exact fun h => ih (State.foldWrite_canonical h w)

theorem State.widen_canonical {s : State} (h : s.farCanonical) (w : FarWrite) : (s.widen w).farCanonical := by
  unfold State.widen
  split
  · exact State.foldWrite_canonical h w
  · exact h

theorem State.sysPut_canonical {s : State} (h : s.farCanonical) (sp : Space) (key a : Nat) (bs : List Byte) :
    (s.sysPut sp key a bs).farCanonical := by
  unfold State.sysPut
  apply State.basePut_canonical
  split
  · exact State.foldWrites_canonical _ h
  · exact h

end Sys2Proof.Machine
end

