-- ==== Sys2Proof/Laws/Issue.lean ====
section
/-!
SUPPORT. Sys2Proof/Laws/Issue.lean: what the issue of a word can do (R89, R90, R212, R278), once for all: when a word executes
normally its issue answers its own effect, and every next state of an issue is one of five.
-/
namespace Sys2Proof.Machine

/-- What the strand in focus sees is the state's own. -/
theorem State.focus_some {s : State} {e : Env} (h : s.focus = some e) :
    e.s = s ∧ s.who = some (e.k, e.σ) ∧ e.t = s.tile e.k ∧ e.r = e.t.regs e.σ ∧ e.pl = e.r.platch ∧ e.now = s.cycle ∧
      s.runOf e.k = some e.run ∧ (e.t.strand e.σ).phase = .run := by
  unfold State.focus at h
  split at h
  · cases h
  · rename_i k σ hw
    split at h
    · cases h
    · rename_i run hr
      dsimp only at h
      split at h
      · rename_i hp
        cases h
        exact ⟨rfl, hw, rfl, rfl, rfl, rfl, hr, hp⟩
      · cases h

@[simp] theorem Env.apply_wait (e : Env) : e.apply .wait = e.s := rfl
@[simp] theorem Env.apply_hold (e : Env) (s : State) : e.apply (.hold s) = s := rfl
@[simp] theorem Env.apply_trap (e : Env) (t : Trip) (due : Nat) : e.apply (.trap t due) = e.trap t due := rfl
@[simp] theorem Env.apply_trapHeld (e : Env) (s : State) (t : Trip) (due : Nat) (owner : Option Nat) :
    e.apply (.trapHeld s t due owner) = e.raiseLater s (TrapInfo.ofTrip e.r t) due owner := rfl
@[simp] theorem Env.apply_trapStay (e : Env) (s : State) (t : Trip) (due : Nat) : e.apply (.trapStay s t due) = e.trapStay s t due := rfl
@[simp] theorem Env.apply_done (e : Env) (s : State) (j : Option (Word × Bool)) (n : Nat) (d : Option Nat) :
    e.apply (.done s j n d) = s.retire e.k e.σ j n d := rfl
@[simp] theorem Env.retired_eq (e : Env) (s : State) (j : Option (Word × Bool)) (n : Nat) (d : Option Nat) :
    e.retired s j n d = s.retire e.k e.σ j n d := rfl

/-- A word that executes normally answers its own effect. -/
theorem issue_runs {s : State} {e : Env} {m : Bool} {f : Form} {commit : Bool} {uses : Env → List Touch} {body : Env → Effect}
    (h : s.focus = some e) (r : e.runs m f commit (uses e) = true) :
    issue m f commit uses body s = .next (e.apply (body e)) := by
  simp only [Env.runs, Bool.and_eq_true, Bool.or_eq_true, Bool.not_eq_true'] at r
  obtain ⟨⟨⟨⟨⟨a, b⟩, c⟩, d⟩, g⟩, i⟩ := r
  have hm : (m && !e.r.out.isEmpty) = false := by rcases a with a | a <;> simp [a]
  have hc : (commit && !(e.t.strand e.σ).verdicts.isEmpty) = false := by rcases g with g | g <;> simp [g]
  simp [issue, issueIf, Env.issue, h, hm, b, c, d, hc, i]

/-- The same for a word with a stage-1 check of its own over PLATCH. -/
theorem issueIf_runs {s : State} {e : Env} {bad : BitVec 128 → Bool} {m : Bool} {f : Form} {commit : Bool}
    {uses : Env → List Touch} {body : Env → Effect} (h : s.focus = some e) (hb : bad e.pl = false)
    (r : e.runs m f commit (uses e) = true) : issueIf bad m f commit uses body s = .next (e.apply (body e)) := by
  simp only [Env.runs, Bool.and_eq_true, Bool.or_eq_true, Bool.not_eq_true'] at r
  obtain ⟨⟨⟨⟨⟨a, b⟩, c⟩, d⟩, g⟩, i⟩ := r
  have hm : (m && !e.r.out.isEmpty) = false := by rcases a with a | a <;> simp [a]
  have hc : (commit && !(e.t.strand e.σ).verdicts.isEmpty) = false := by rcases g with g | g <;> simp [g]
  simp [issueIf, Env.issue, h, hm, hb, b, c, d, hc, i]

/-- Every next state of an issue: the word parks or waits, it traps, its guard nullifies it, or it has its own effect. -/
theorem issueIf_cases {s t : State} {bad : BitVec 128 → Bool} {m : Bool} {f : Form} {commit : Bool}
    {uses : Env → List Touch} {body : Env → Effect} (h : issueIf bad m f commit uses body s = .next t) :
    ∃ e, s.focus = some e ∧ (t = s ∨ (∃ x, t = e.trapForm f (trip x)) ∨ t = s.retire e.k e.σ none 1 none ∨
      t = e.apply (body e)) := by
  unfold issueIf at h
  split at h
  · cases h
  · rename_i e he
    refine ⟨e, he, ?_⟩
    have hs := (State.focus_some he).1
    split at h
    · exact .inl (by cases h; rfl)
    · unfold Env.issue at h
      (repeat' split at h) <;> cases h
      · exact .inr (.inl ⟨_, rfl⟩)
      · exact .inr (.inl ⟨_, rfl⟩)
      · exact .inr (.inr (.inl (by rw [hs])))
      · exact .inl hs
      · exact .inr (.inl ⟨_, rfl⟩)
      · exact .inr (.inr (.inr rfl))

theorem issue_cases {s t : State} {m : Bool} {f : Form} {commit : Bool} {uses : Env → List Touch} {body : Env → Effect}
    (h : issue m f commit uses body s = .next t) :
    ∃ e, s.focus = some e ∧ (t = s ∨ (∃ x, t = e.trapForm f (trip x)) ∨ t = s.retire e.k e.σ none 1 none ∨
      t = e.apply (body e)) :=
  issueIf_cases h

/-- A word never ends in a refusal, and faults only where no strand is in focus. -/
theorem issueIf_stops {s : State} {bad : BitVec 128 → Bool} {m : Bool} {f : Form} {commit : Bool}
    {uses : Env → List Touch} {body : Env → Effect} :
    (∃ t, issueIf bad m f commit uses body s = .next t) ∨ (s.focus = none ∧ issueIf bad m f commit uses body s = .fault .noStrand) := by
  unfold issueIf
  split
  · rename_i h; exact .inr ⟨h, rfl⟩
  · split
    · exact .inl ⟨_, rfl⟩
    · exact .inl ⟨_, rfl⟩

/-! ## What retiring and trapping leave alone -/

/-- The end-of-body check changes loop registers and the loop stack only (R85, R323). -/
theorem loopCheck_keeps (pc : Word) : ∀ (l : List LoopEntry) (r : Regs),
    (loopCheck pc l r).2.s = r.s ∧ (loopCheck pc l r).2.p = r.p ∧ (loopCheck pc l r).2.st = r.st ∧
    (loopCheck pc l r).2.platch = r.platch ∧ (loopCheck pc l r).2.live = r.live ∧ (loopCheck pc l r).2.out = r.out
  | [], r => by simp [loopCheck]
  | x :: l, r => by
    unfold loopCheck
    split
    · split
      · simp
      · have h := loopCheck_keeps pc l (r.lset x.l 0#64)
        simpa using h
    · simp

/-- Retiring changes no s, p or outstanding result (R85, R92). -/
theorem Regs.retire_keeps (r : Regs) (jump : Option (Word × Bool)) :
    (r.retire jump).s = r.s ∧ (r.retire jump).p = r.p ∧ (r.retire jump).live = r.live ∧ (r.retire jump).out = r.out ∧
    (r.retire jump).st = r.st &&& ~~~(0x200#16) ∧ (r.retire jump).platch = 0#128 := by
  unfold Regs.retire
  cases jump with
  | some x => simp [Regs.clearLatch]
  | none =>
    obtain ⟨a, b, c, d, g, i⟩ := loopCheck_keeps r.clearLatch.pc r.clearLatch.loops r.clearLatch
    exact ⟨a, b, g, i, c, d⟩

/-- A loop register that counts no loop which ends at the address is unchanged by the check (R85, R323). -/
theorem loopCheck_lget (pc : Word) (n : Nat) : ∀ (l : List LoopEntry) (r : Regs), (∀ x ∈ l, x.stop = pc → x.l ≠ n) →
    (loopCheck pc l r).2.lget n = r.lget n
  | [], r, _ => by simp [loopCheck, Regs.lget]
  | x :: l, r, h => by
    unfold loopCheck
    split
    · rename_i hx
      have hn : x.l ≠ n := h x (by simp) hx
      split
      · simp [Regs.lget, Regs.lset, hn]
      · rw [loopCheck_lget pc n l _ fun y hy => h y (by simp [hy])]
        simp [Regs.lget, Regs.lset, hn]
    · simp [Regs.lget]

/-- Retiring without a transfer changes a loop register only where it counts a loop that ends with the word (R85). -/
theorem Regs.retire_lget (r : Regs) (n : Nat) (h : ∀ x ∈ r.loops, x.stop = r.pc → x.l ≠ n) :
    (r.retire none).lget n = r.lget n := loopCheck_lget r.pc n r.loops r.clearLatch h

@[simp] theorem State.retire_regs (s : State) (k : Nat) (σ : Side) (jump : Option (Word × Bool)) (cost : Nat)
    (due : Option Nat) : ((s.retire k σ jump cost due).tile k).regs σ = ((s.tile k).regs σ).retire jump := by
  simp [State.retire, Tile.regs, Strand.retire]

/-! ### What stays the same -/

theorem SameElsewhere.refl (k : Nat) (s : State) : SameElsewhere k s s := ⟨fun _ _ => rfl, rfl⟩

theorem SameElsewhere.trans {k : Nat} {s t u : State} (h : SameElsewhere k s t) (g : SameElsewhere k t u) : SameElsewhere k s u := by
  obtain ⟨a, b⟩ := h
  obtain ⟨c, d⟩ := g
  refine ⟨fun j hj => (c j hj).trans (a j hj), ?_⟩
  rw [b] at d
  exact d

theorem SameElsewhere.setTile (k : Nat) (s : State) (t : Tile) : SameElsewhere k s (s.setTile k t) :=
  ⟨fun _ hj => State.tile_setTile_ne _ _ hj, rfl⟩

theorem SameElsewhere.modTile (k : Nat) (s : State) (f : Tile → Tile) : SameElsewhere k s (s.modTile k f) :=
  SameElsewhere.setTile k s _

theorem SameElsewhere.count (k : Nat) (s : State) (lo n : Nat) : SameElsewhere k s (s.count lo n) := ⟨fun _ _ => rfl, rfl⟩

theorem SameTileMemory.refl (x : Tile) : SameTileMemory x x := rfl

theorem SameTileMemory.strand (x : Tile) (σ : Side) (y : Strand) : SameTileMemory x (x.setStrand σ y) := by cases σ <;> rfl

theorem SameTileMemory.regs (x : Tile) (σ : Side) (f : Regs → Regs) : SameTileMemory x (x.modRegs σ f) := .strand ..

theorem SameTileMemory.check (x : Tile) (n : Nat) : SameTileMemory x (x.checkResult n) := rfl

/-- A repair changes nothing but the tile's marks of errors and the count of those repaired (R65, R269). -/
theorem State.repair_cases (s : State) (k f n : Nat) : SameElsewhere k s (s.repair k f n) ∧
    ∃ w d, (s.repair k f n).tile k = { s.tile k with field := { (s.tile k).field with worn := w, dead := d } } := by
  have counts : ∀ (l : List Nat) (t : State), SameElsewhere k t (l.foldl (fun s _ => s.countSram) t) := by
    intro l
    induction l with
    | nil => exact SameElsewhere.refl k
    | cons _ l ih => exact fun t => (SameElsewhere.count k t 0 16).trans (ih _)
  unfold State.repair
  dsimp only
  split
  · exact ⟨SameElsewhere.refl .., _, _, rfl⟩
  · exact ⟨(counts _ _).trans (SameElsewhere.setTile ..), _, _, by rw [State.tile_setTile]⟩

theorem State.retire_elsewhere (s : State) (k : Nat) (σ : Side) (jump : Option (Word × Bool)) (cost : Nat) (due : Option Nat) :
    SameElsewhere k s (s.retire k σ jump cost due) := .modTile ..

theorem State.retire_memory (s : State) (k : Nat) (σ : Side) (jump : Option (Word × Bool)) (cost : Nat) (due : Option Nat) :
    SameTileMemory (s.tile k) ((s.retire k σ jump cost due).tile k) := by
  rw [State.retire, State.tile_modTile]
  exact .strand ..

theorem Env.raise_elsewhere {s : State} {e : Env} (h : s.focus = some e) (i : TrapInfo) (due : Nat) :
    SameElsewhere e.k s (e.raise i due) := by
  rw [← (State.focus_some h).1]
  unfold Env.raise
  dsimp only
  split <;> exact .setTile ..

theorem Env.raise_memory {s : State} {e : Env} (h : s.focus = some e) (i : TrapInfo) (due : Nat) :
    SameTileMemory (s.tile e.k) ((e.raise i due).tile e.k) := by
  rw [← (State.focus_some h).2.2.1]
  unfold Env.raise
  dsimp only
  split <;> rw [State.tile_setTile]
  · rename_i hv
    unfold Tile.takeTrap
    dsimp only
    rw [hv.2]
    exact .strand ..
  · exact .strand ..

/-- A trap whose verdict falls later leaves everything outside the tile as the given state has it. -/
theorem Env.raiseLater_elsewhere (e : Env) (s : State) (i : TrapInfo) (due : Nat) (owner : Option Nat) :
    SameElsewhere e.k s (e.raiseLater s i due owner) := (SameElsewhere.modTile ..).trans (State.retire_elsewhere ..)

/-- Such a trap changes nothing of the given state's tile but its strand, which goes on (R212). -/
theorem Env.raiseLater_tile (e : Env) (s : State) (i : TrapInfo) (due : Nat) (owner : Option Nat) :
    ∃ y, (e.raiseLater s i due owner).tile e.k = (s.tile e.k).setStrand e.σ y ∧
      y.regs = ((s.tile e.k).regs e.σ).retire none := by
  unfold Env.raiseLater State.retire
  rw [State.tile_modTile, State.tile_modTile]
  refine ⟨(({ (s.tile e.k).strand e.σ with
    undo := e.undo
    verdicts := ((s.tile e.k).strand e.σ).verdicts ++ [{ due := due, fail := some i, owner := owner }] } : Strand).retire
      s.cycle none 1 none), ?_, ?_⟩
  · cases e.σ <;> rfl
  · rfl

theorem Env.trap_elsewhere {s : State} {e : Env} (h : s.focus = some e) (t : Trip) (due : Nat) : SameElsewhere e.k s (e.trap t due) := by
  unfold Env.trap
  split
  · exact e.raise_elsewhere h ..
  · rw [(State.focus_some h).1]; exact Env.raiseLater_elsewhere ..

theorem Env.trap_memory {s : State} {e : Env} (h : s.focus = some e) (t : Trip) (due : Nat) :
    SameTileMemory (s.tile e.k) ((e.trap t due).tile e.k) := by
  unfold Env.trap
  split
  · exact e.raise_memory h ..
  · rw [(State.focus_some h).1]
    obtain ⟨y, hy, -⟩ := e.raiseLater_tile s (TrapInfo.ofTrip e.r t) due none
    rw [hy]
    exact .strand ..

theorem SameTileMemory.trans {x y z : Tile} (h : SameTileMemory x y) (g : SameTileMemory y z) : SameTileMemory x z := by
  unfold SameTileMemory at *
  rw [h] at g
  exact g

/-- A word that only writes registers changes nothing but its strand. -/
theorem Env.short_elsewhere {s : State} {e : Env} (h : s.focus = some e) (f : Regs → Regs) :
    SameElsewhere e.k s (e.moved f) := by
  have hs := (State.focus_some h).1
  have h1 : SameElsewhere e.k s (e.regs f) := by
    unfold Env.regs
    rw [hs]
    exact SameElsewhere.setTile ..
  exact h1.trans (State.retire_elsewhere ..)

end Sys2Proof.Machine
end

