-- ==== Sys2Proof/Laws/PerInstr.lean ====
section
/-!
SUPPORT. Sys2Proof/Laws/PerInstr.lean: the family Encoding, said of each constructor of Instr: where the encoder writes words
for the instruction, the decoder reads exactly that instruction back from their bytes and leaves nothing.  The fields of a word
built from placed fields are worked out once (R271), and each constructor's lemma is one simplification with them.
-/
namespace Sys2Proof.Laws

/-! ## The fields of a word put together from fields -/

@[simp] theorem field_or (x y : BitVec 16) (lo n : Nat) : field (x ||| y) lo n = field x lo n ||| field y lo n := by
  ext i hi; simp [field]

@[simp] theorem field_place_same (k n : Nat) (x : BitVec n) (h : k + n ≤ 16) : field (place k x) k n = x := by
  ext i hi
  have h1 : k + i < 16 := by omega
  simp [field, place, h1, hi]

@[simp] theorem field_place_apart (k lo m n : Nat) (x : BitVec m) (h : k + m ≤ lo ∨ lo + n ≤ k) : field (place k x) lo n = 0 := by
  ext i hi
  simp only [field, place, BitVec.getElem_extractLsb', BitVec.getLsbD_shiftLeft, BitVec.getLsbD_setWidth]
  rcases h with h | h
  · rw [BitVec.getLsbD_of_ge x _ (by omega)]; simp
  · have : lo + i < k := by omega
    simp [this]

@[simp] theorem field_const (c : BitVec 16) (lo n : Nat) (h : ∀ j < n, c.getLsbD (lo + j) = false) : field c lo n = 0 := by
  ext i hi; simp [field, h i hi]

theorem majorOpcode_eq (w : BitVec 16) (n : BitVec 7) (h : field w 8 7 = n) : majorOpcode w = n.toNat := by rw [majorOpcode, h]

@[simp] theorem bit_or (x y : BitVec 16) (i : Nat) : bit (x ||| y) i = (bit x i || bit y i) := by simp [bit]

@[simp] theorem bit_const (c : BitVec 16) (i : Nat) (h : c.getLsbD i = false) : bit c i = false := h

@[simp] theorem bit_place_apart (k i n : Nat) (x : BitVec n) (h : k + n ≤ i ∨ i < k) : bit (place k x) i = false := by
  simp only [bit, place, BitVec.getLsbD_shiftLeft, BitVec.getLsbD_setWidth]
  rcases h with h | h
  · rw [BitVec.getLsbD_of_ge x _ (by omega)]; simp
  · simp [h]

@[simp] theorem field_placeBit_apart (k lo n : Nat) (b : Bool) (h : k + 1 ≤ lo ∨ lo + n ≤ k) : field (placeBit k b) lo n = 0 :=
  field_place_apart k lo 1 n _ h

@[simp] theorem bit_placeBit_apart (k i : Nat) (b : Bool) (h : k + 1 ≤ i ∨ i < k) : bit (placeBit k b) i = false :=
  bit_place_apart k i 1 _ h

@[simp] theorem bit_placeBit_same (i : Nat) (b : Bool) (h : i < 16) : bit (placeBit i b) i = b := by
  simp [bit, placeBit, place, h]

@[simp] theorem and_or (x y z : BitVec 16) : (x ||| y) &&& z = (x &&& z) ||| (y &&& z) := by
  ext i hi; simp [Bool.and_or_distrib_right]

@[simp] theorem place_and (k n : Nat) (x : BitVec n) (z : BitVec 16) (h : ∀ j < n, z.getLsbD (k + j) = false) : place k x &&& z = 0#16 := by
  refine BitVec.eq_of_getLsbD_eq fun i hi => ?_
  simp only [place, BitVec.getLsbD_and, BitVec.getLsbD_shiftLeft, BitVec.getLsbD_setWidth, BitVec.getLsbD_zero]
  by_cases h1 : i < k
  · simp [h1]
  · by_cases h2 : i - k < n
    · have := h (i - k) h2
      rw [show k + (i - k) = i by omega] at this
      simp [this]
    · rw [BitVec.getLsbD_of_ge x _ (by omega)]; simp

@[simp] theorem placeBit_and (k : Nat) (b : Bool) (z : BitVec 16) (h : z.getLsbD k = false) : placeBit k b &&& z = 0#16 :=
  place_and k 1 _ z (by simpa using h)

theorem wordOfBytes_bytesOfWord (w : BitVec 16) : wordOfBytes (w.extractLsb' 0 8) (w.extractLsb' 8 8) = w := by
  refine BitVec.eq_of_getLsbD_eq fun i hi => ?_
  simp only [wordOfBytes, BitVec.getLsbD_append, BitVec.getLsbD_extractLsb']
  by_cases h : i < 8
  · simp [h]
  · simp [h, show i - 8 < 8 by omega, show 8 + (i - 8) = i by omega]

/-! ## Runs of one and of two words -/

theorem decodeRun_one (w : BitVec 16) (i : Instr) (h : decode 0 w = .ok i) : decodeRun ([w].flatMap bytesOfWord) = .ok (i, []) := by
  simp [decodeRun, bytesOfWord, decodeBytes, wordOfBytes_bytesOfWord, h]

theorem decodeRun_two (w : BitVec 16) (i : Instr) (h : decode 1 w = .ok i) :
    decodeRun ([pageOneWord, w].flatMap bytesOfWord) = .ok (i, []) := by
  have hp : pageOfWord pageOneWord = some 1 := by decide
  simp [decodeRun, bytesOfWord, decodeBytes, wordOfBytes_bytesOfWord, h, hp]

namespace Encoding

/-- Decoding what the encoder writes for the instruction gives the instruction back (R271, R275, R280, R281). -/
def Statement (i : Instr) : Prop := encode i ≠ [] → decodeRun ((encode i).flatMap bytesOfWord) = .ok (i, [])

theorem of_words_nil (i : Instr) (h : encode i = []) : Statement i := fun hn => absurd h hn

theorem of_one (i : Instr) (w : BitVec 16) (h : encode i = [w]) (hd : decode 0 w = .ok i) : Statement i := by
  intro _; rw [h]; exact decodeRun_one w i hd

theorem of_two (i : Instr) (w : BitVec 16) (h : encode i = [pageOneWord, w]) (hd : decode 1 w = .ok i) : Statement i := by
  intro _; rw [h]; exact decodeRun_two w i hd

theorem ximm (i : BitVec 8) : Statement (.ximm i) := by
  have hm : majorOpcode (0x7000#16 ||| place 0 i) = 0x70 :=
    majorOpcode_eq _ 0x70#7 (by simp (disch := decide) [show field 0x7000#16 8 7 = 0x70#7 from rfl])
  exact of_one _ _ rfl (by simp (disch := decide) [decode, decodePrefix, hm])

theorem xreg (d : Bool) (a : Bool) (b : BitVec 5) : Statement (.xreg d a b) := by
  have hm : majorOpcode (0x7100#16 ||| placeBit 6 d ||| placeBit 5 a ||| place 0 b) = 0x71 :=
    majorOpcode_eq _ 0x71#7 (by simp (disch := decide) [show field 0x7100#16 8 7 = 0x71#7 from rfl])
  exact of_one _ _ rfl (by simp (disch := decide) [decode, decodePrefix, hm])

theorem page (p : BitVec 2) : Statement (.page p) := by
  have hm : majorOpcode (0x7200#16 ||| place 0 p) = 0x72 :=
    majorOpcode_eq _ 0x72#7 (by simp (disch := decide) [show field 0x7200#16 8 7 = 0x72#7 from rfl])
  exact of_one _ _ rfl (by simp (disch := decide) [decode, decodePrefix, hm])

theorem memq (s : BitVec 4) (c : BitVec 3) (q : Bool) : Statement (.memq s c q) := by
  have hm : majorOpcode (0x7300#16 ||| place 4 s ||| place 1 c ||| placeBit 0 q) = 0x73 :=
    majorOpcode_eq _ 0x73#7 (by simp (disch := decide) [show field 0x7300#16 8 7 = 0x73#7 from rfl])
  exact of_one _ _ rfl (by simp (disch := decide) [decode, decodePrefix, hm])

theorem nfmt (a : BitVec 4) (b : BitVec 4) : Statement (.nfmt a b) := by
  have hm : majorOpcode (0x7400#16 ||| place 4 a ||| place 0 b) = 0x74 :=
    majorOpcode_eq _ 0x74#7 (by simp (disch := decide) [show field 0x7400#16 8 7 = 0x74#7 from rfl])
  exact of_one _ _ rfl (by simp (disch := decide) [decode, decodePrefix, hm])

theorem guard (p : BitVec 3) (n : Bool) : Statement (.guard p n) := by
  have hm : majorOpcode (0x7500#16 ||| place 5 p ||| placeBit 4 n) = 0x75 :=
    majorOpcode_eq _ 0x75#7 (by simp (disch := decide) [show field 0x7500#16 8 7 = 0x75#7 from rfl])
  exact of_one _ _ rfl (by simp (disch := decide) [decode, decodePrefix, hm])

theorem nop (m : Bool) : Statement (.nop m) := by
  have hm : majorOpcode (0x0000#16 ||| placeBit 15 m) = 0x00 :=
    majorOpcode_eq _ 0x00#7 (by simp (disch := decide))
  exact of_one _ _ rfl (by simp (disch := decide) [decode, decodePage0, decodePage00, hm, -BitVec.zero_or])

theorem endStrand (m : Bool) : Statement (.endStrand m) := by
  have hm : majorOpcode (0x0100#16 ||| placeBit 15 m) = 0x01 :=
    majorOpcode_eq _ 0x01#7 (by simp (disch := decide) [show field 0x0100#16 8 7 = 0x01#7 from rfl])
  exact of_one _ _ rfl (by simp (disch := decide) [decode, decodePage0, decodePage00, hm])

theorem br (m : Bool) (p : BitVec 3) (n : Bool) (o : BitVec 4) : Statement (.br m p n o) := by
  have hm : majorOpcode (0x0200#16 ||| placeBit 15 m ||| place 5 p ||| placeBit 4 n ||| place 0 o) = 0x02 :=
    majorOpcode_eq _ 0x02#7 (by simp (disch := decide) [show field 0x0200#16 8 7 = 0x02#7 from rfl])
  exact of_one _ _ rfl (by simp (disch := decide) [decode, decodePage0, decodePage00, hm])

theorem jmp (m : Bool) (o : BitVec 8) : Statement (.jmp m o) := by
  have hm : majorOpcode (0x0300#16 ||| placeBit 15 m ||| place 0 o) = 0x03 :=
    majorOpcode_eq _ 0x03#7 (by simp (disch := decide) [show field 0x0300#16 8 7 = 0x03#7 from rfl])
  exact of_one _ _ rfl (by simp (disch := decide) [decode, decodePage0, decodePage00, hm])

theorem call (m : Bool) (o : BitVec 8) : Statement (.call m o) := by
  have hm : majorOpcode (0x0400#16 ||| placeBit 15 m ||| place 0 o) = 0x04 :=
    majorOpcode_eq _ 0x04#7 (by simp (disch := decide) [show field 0x0400#16 8 7 = 0x04#7 from rfl])
  exact of_one _ _ rfl (by simp (disch := decide) [decode, decodePage0, decodePage00, hm])

theorem ret (m : Bool) : Statement (.ret m) := by
  have hm : majorOpcode (0x0500#16 ||| placeBit 15 m) = 0x05 :=
    majorOpcode_eq _ 0x05#7 (by simp (disch := decide) [show field 0x0500#16 8 7 = 0x05#7 from rfl])
  exact of_one _ _ rfl (by simp (disch := decide) [decode, decodePage0, decodePage00, hm])

theorem jmpr (m : Bool) (a : BitVec 4) : Statement (.jmpr m a) := by
  have hm : majorOpcode (0x0600#16 ||| placeBit 15 m ||| place 0 a) = 0x06 :=
    majorOpcode_eq _ 0x06#7 (by simp (disch := decide) [show field 0x0600#16 8 7 = 0x06#7 from rfl])
  exact of_one _ _ rfl (by simp (disch := decide) [decode, decodePage0, decodePage00, hm])

theorem jmpt (m : Bool) (d : BitVec 4) (a : BitVec 4) : Statement (.jmpt m d a) := by
  have hm : majorOpcode (0x0700#16 ||| placeBit 15 m ||| place 4 d ||| place 0 a) = 0x07 :=
    majorOpcode_eq _ 0x07#7 (by simp (disch := decide) [show field 0x0700#16 8 7 = 0x07#7 from rfl])
  exact of_one _ _ rfl (by simp (disch := decide) [decode, decodePage0, decodePage00, hm])

theorem loop (m : Bool) (l : BitVec 3) (e : BitVec 5) : Statement (.loop m l e) := by
  have hm : majorOpcode (0x0800#16 ||| placeBit 15 m ||| place 5 l ||| place 0 e) = 0x08 :=
    majorOpcode_eq _ 0x08#7 (by simp (disch := decide) [show field 0x0800#16 8 7 = 0x08#7 from rfl])
  exact of_one _ _ rfl (by simp (disch := decide) [decode, decodePage0, decodePage00, hm])

theorem brq (m : Bool) (n : Bool) (o : BitVec 7) : Statement (.brq m n o) := by
  have hm : majorOpcode (0x0900#16 ||| placeBit 15 m ||| placeBit 7 n ||| place 0 o) = 0x09 :=
    majorOpcode_eq _ 0x09#7 (by simp (disch := decide) [show field 0x0900#16 8 7 = 0x09#7 from rfl])
  exact of_one _ _ rfl (by simp (disch := decide) [decode, decodePage0, decodePage00, hm])

theorem pusho (m : Bool) (p : BitVec 3) : Statement (.pusho m p) := by
  have hm : majorOpcode (0x0A00#16 ||| placeBit 15 m ||| place 5 p) = 0x0A :=
    majorOpcode_eq _ 0x0A#7 (by simp (disch := decide) [show field 0x0A00#16 8 7 = 0x0A#7 from rfl])
  exact of_one _ _ rfl (by simp (disch := decide) [decode, decodePage0, decodePage00, hm])

theorem await (m : Bool) (p : BitVec 3) (x : BitVec 5) : Statement (.await m p x) := by
  have hm : majorOpcode (0x0B00#16 ||| placeBit 15 m ||| place 5 p ||| place 0 x) = 0x0B :=
    majorOpcode_eq _ 0x0B#7 (by simp (disch := decide) [show field 0x0B00#16 8 7 = 0x0B#7 from rfl])
  exact of_one _ _ rfl (by simp (disch := decide) [decode, decodePage0, decodePage00, hm])

theorem chain (m : Bool) (a : BitVec 4) : Statement (.chain m a) := by
  have hm : majorOpcode (0x0C00#16 ||| placeBit 15 m ||| place 0 a) = 0x0C :=
    majorOpcode_eq _ 0x0C#7 (by simp (disch := decide) [show field 0x0C00#16 8 7 = 0x0C#7 from rfl])
  exact of_one _ _ rfl (by simp (disch := decide) [decode, decodePage0, decodePage00, hm])

theorem trap (m : Bool) (i : BitVec 8) : Statement (.trap m i) := by
  have hm : majorOpcode (0x0D00#16 ||| placeBit 15 m ||| place 0 i) = 0x0D :=
    majorOpcode_eq _ 0x0D#7 (by simp (disch := decide) [show field 0x0D00#16 8 7 = 0x0D#7 from rfl])
  exact of_one _ _ rfl (by simp (disch := decide) [decode, decodePage0, decodePage00, hm])

theorem restartpt (m : Bool) (i : BitVec 8) : Statement (.restartpt m i) := by
  have hm : majorOpcode (0x0E00#16 ||| placeBit 15 m ||| place 0 i) = 0x0E :=
    majorOpcode_eq _ 0x0E#7 (by simp (disch := decide) [show field 0x0E00#16 8 7 = 0x0E#7 from rfl])
  exact of_one _ _ rfl (by simp (disch := decide) [decode, decodePage0, decodePage00, hm])

theorem fence (m : Bool) (s : BitVec 8) : Statement (.fence m s) := by
  have hm : majorOpcode (0x0F00#16 ||| placeBit 15 m ||| place 0 s) = 0x0F :=
    majorOpcode_eq _ 0x0F#7 (by simp (disch := decide) [show field 0x0F00#16 8 7 = 0x0F#7 from rfl])
  exact of_one _ _ rfl (by simp (disch := decide) [decode, decodePage0, decodePage00, hm])

theorem mov (m : Bool) (d : BitVec 4) (a : BitVec 4) : Statement (.mov m d a) := by
  have hm : majorOpcode (0x1000#16 ||| placeBit 15 m ||| place 4 d ||| place 0 a) = 0x10 :=
    majorOpcode_eq _ 0x10#7 (by simp (disch := decide) [show field 0x1000#16 8 7 = 0x10#7 from rfl])
  exact of_one _ _ rfl (by simp (disch := decide) [decode, decodePage0, decodePage01, hm])

theorem movi (m : Bool) (d : BitVec 4) (i : BitVec 4) : Statement (.movi m d i) := by
  have hm : majorOpcode (0x1100#16 ||| placeBit 15 m ||| place 4 d ||| place 0 i) = 0x11 :=
    majorOpcode_eq _ 0x11#7 (by simp (disch := decide) [show field 0x1100#16 8 7 = 0x11#7 from rfl])
  exact of_one _ _ rfl (by simp (disch := decide) [decode, decodePage0, decodePage01, hm])

theorem ldc (m : Bool) (d : BitVec 4) (i : BitVec 4) : Statement (.ldc m d i) := by
  have hm : majorOpcode (0x1200#16 ||| placeBit 15 m ||| place 4 d ||| place 0 i) = 0x12 :=
    majorOpcode_eq _ 0x12#7 (by simp (disch := decide) [show field 0x1200#16 8 7 = 0x12#7 from rfl])
  exact of_one _ _ rfl (by simp (disch := decide) [decode, decodePage0, decodePage01, hm])

theorem add (m : Bool) (d : BitVec 4) (a : BitVec 4) : Statement (.add m d a) := by
  have hm : majorOpcode (0x1300#16 ||| placeBit 15 m ||| place 4 d ||| place 0 a) = 0x13 :=
    majorOpcode_eq _ 0x13#7 (by simp (disch := decide) [show field 0x1300#16 8 7 = 0x13#7 from rfl])
  exact of_one _ _ rfl (by simp (disch := decide) [decode, decodePage0, decodePage01, hm])

theorem sub (m : Bool) (d : BitVec 4) (a : BitVec 4) : Statement (.sub m d a) := by
  have hm : majorOpcode (0x1400#16 ||| placeBit 15 m ||| place 4 d ||| place 0 a) = 0x14 :=
    majorOpcode_eq _ 0x14#7 (by simp (disch := decide) [show field 0x1400#16 8 7 = 0x14#7 from rfl])
  exact of_one _ _ rfl (by simp (disch := decide) [decode, decodePage0, decodePage01, hm])

theorem addi (m : Bool) (d : BitVec 4) (i : BitVec 4) : Statement (.addi m d i) := by
  have hm : majorOpcode (0x1500#16 ||| placeBit 15 m ||| place 4 d ||| place 0 i) = 0x15 :=
    majorOpcode_eq _ 0x15#7 (by simp (disch := decide) [show field 0x1500#16 8 7 = 0x15#7 from rfl])
  exact of_one _ _ rfl (by simp (disch := decide) [decode, decodePage0, decodePage01, hm])

theorem mul (m : Bool) (d : BitVec 4) (a : BitVec 4) : Statement (.mul m d a) := by
  have hm : majorOpcode (0x1600#16 ||| placeBit 15 m ||| place 4 d ||| place 0 a) = 0x16 :=
    majorOpcode_eq _ 0x16#7 (by simp (disch := decide) [show field 0x1600#16 8 7 = 0x16#7 from rfl])
  exact of_one _ _ rfl (by simp (disch := decide) [decode, decodePage0, decodePage01, hm])

theorem mulh (m : Bool) (d : BitVec 4) (a : BitVec 4) : Statement (.mulh m d a) := by
  have hm : majorOpcode (0x1700#16 ||| placeBit 15 m ||| place 4 d ||| place 0 a) = 0x17 :=
    majorOpcode_eq _ 0x17#7 (by simp (disch := decide) [show field 0x1700#16 8 7 = 0x17#7 from rfl])
  exact of_one _ _ rfl (by simp (disch := decide) [decode, decodePage0, decodePage01, hm])

theorem madd (m : Bool) (d : BitVec 4) (a : BitVec 4) : Statement (.madd m d a) := by
  have hm : majorOpcode (0x1800#16 ||| placeBit 15 m ||| place 4 d ||| place 0 a) = 0x18 :=
    majorOpcode_eq _ 0x18#7 (by simp (disch := decide) [show field 0x1800#16 8 7 = 0x18#7 from rfl])
  exact of_one _ _ rfl (by simp (disch := decide) [decode, decodePage0, decodePage01, hm])

theorem div (m : Bool) (d : BitVec 4) (a : BitVec 4) : Statement (.div m d a) := by
  have hm : majorOpcode (0x1900#16 ||| placeBit 15 m ||| place 4 d ||| place 0 a) = 0x19 :=
    majorOpcode_eq _ 0x19#7 (by simp (disch := decide) [show field 0x1900#16 8 7 = 0x19#7 from rfl])
  exact of_one _ _ rfl (by simp (disch := decide) [decode, decodePage0, decodePage01, hm])

theorem rem (m : Bool) (d : BitVec 4) (a : BitVec 4) : Statement (.rem m d a) := by
  have hm : majorOpcode (0x1A00#16 ||| placeBit 15 m ||| place 4 d ||| place 0 a) = 0x1A :=
    majorOpcode_eq _ 0x1A#7 (by simp (disch := decide) [show field 0x1A00#16 8 7 = 0x1A#7 from rfl])
  exact of_one _ _ rfl (by simp (disch := decide) [decode, decodePage0, decodePage01, hm])

theorem and (m : Bool) (d : BitVec 4) (a : BitVec 4) : Statement (.and m d a) := by
  have hm : majorOpcode (0x1B00#16 ||| placeBit 15 m ||| place 4 d ||| place 0 a) = 0x1B :=
    majorOpcode_eq _ 0x1B#7 (by simp (disch := decide) [show field 0x1B00#16 8 7 = 0x1B#7 from rfl])
  exact of_one _ _ rfl (by simp (disch := decide) [decode, decodePage0, decodePage01, hm])

theorem or (m : Bool) (d : BitVec 4) (a : BitVec 4) : Statement (.or m d a) := by
  have hm : majorOpcode (0x1C00#16 ||| placeBit 15 m ||| place 4 d ||| place 0 a) = 0x1C :=
    majorOpcode_eq _ 0x1C#7 (by simp (disch := decide) [show field 0x1C00#16 8 7 = 0x1C#7 from rfl])
  exact of_one _ _ rfl (by simp (disch := decide) [decode, decodePage0, decodePage01, hm])

theorem xor (m : Bool) (d : BitVec 4) (a : BitVec 4) : Statement (.xor m d a) := by
  have hm : majorOpcode (0x1D00#16 ||| placeBit 15 m ||| place 4 d ||| place 0 a) = 0x1D :=
    majorOpcode_eq _ 0x1D#7 (by simp (disch := decide) [show field 0x1D00#16 8 7 = 0x1D#7 from rfl])
  exact of_one _ _ rfl (by simp (disch := decide) [decode, decodePage0, decodePage01, hm])

theorem andi (m : Bool) (d : BitVec 4) (i : BitVec 4) : Statement (.andi m d i) := by
  have hm : majorOpcode (0x1E00#16 ||| placeBit 15 m ||| place 4 d ||| place 0 i) = 0x1E :=
    majorOpcode_eq _ 0x1E#7 (by simp (disch := decide) [show field 0x1E00#16 8 7 = 0x1E#7 from rfl])
  exact of_one _ _ rfl (by simp (disch := decide) [decode, decodePage0, decodePage01, hm])

theorem shl (m : Bool) (d : BitVec 4) (a : BitVec 4) : Statement (.shl m d a) := by
  have hm : majorOpcode (0x1F00#16 ||| placeBit 15 m ||| place 4 d ||| place 0 a) = 0x1F :=
    majorOpcode_eq _ 0x1F#7 (by simp (disch := decide) [show field 0x1F00#16 8 7 = 0x1F#7 from rfl])
  exact of_one _ _ rfl (by simp (disch := decide) [decode, decodePage0, decodePage01, hm])

theorem shr (m : Bool) (d : BitVec 4) (a : BitVec 4) : Statement (.shr m d a) := by
  have hm : majorOpcode (0x2000#16 ||| placeBit 15 m ||| place 4 d ||| place 0 a) = 0x20 :=
    majorOpcode_eq _ 0x20#7 (by simp (disch := decide) [show field 0x2000#16 8 7 = 0x20#7 from rfl])
  exact of_one _ _ rfl (by simp (disch := decide) [decode, decodePage0, decodePage02, hm])

theorem sra (m : Bool) (d : BitVec 4) (a : BitVec 4) : Statement (.sra m d a) := by
  have hm : majorOpcode (0x2100#16 ||| placeBit 15 m ||| place 4 d ||| place 0 a) = 0x21 :=
    majorOpcode_eq _ 0x21#7 (by simp (disch := decide) [show field 0x2100#16 8 7 = 0x21#7 from rfl])
  exact of_one _ _ rfl (by simp (disch := decide) [decode, decodePage0, decodePage02, hm])

theorem shli (m : Bool) (d : BitVec 4) (i : BitVec 4) : Statement (.shli m d i) := by
  have hm : majorOpcode (0x2200#16 ||| placeBit 15 m ||| place 4 d ||| place 0 i) = 0x22 :=
    majorOpcode_eq _ 0x22#7 (by simp (disch := decide) [show field 0x2200#16 8 7 = 0x22#7 from rfl])
  exact of_one _ _ rfl (by simp (disch := decide) [decode, decodePage0, decodePage02, hm])

theorem shri (m : Bool) (d : BitVec 4) (i : BitVec 4) : Statement (.shri m d i) := by
  have hm : majorOpcode (0x2300#16 ||| placeBit 15 m ||| place 4 d ||| place 0 i) = 0x23 :=
    majorOpcode_eq _ 0x23#7 (by simp (disch := decide) [show field 0x2300#16 8 7 = 0x23#7 from rfl])
  exact of_one _ _ rfl (by simp (disch := decide) [decode, decodePage0, decodePage02, hm])

theorem srai (m : Bool) (d : BitVec 4) (i : BitVec 4) : Statement (.srai m d i) := by
  have hm : majorOpcode (0x2400#16 ||| placeBit 15 m ||| place 4 d ||| place 0 i) = 0x24 :=
    majorOpcode_eq _ 0x24#7 (by simp (disch := decide) [show field 0x2400#16 8 7 = 0x24#7 from rfl])
  exact of_one _ _ rfl (by simp (disch := decide) [decode, decodePage0, decodePage02, hm])

theorem rotl (m : Bool) (d : BitVec 4) (a : BitVec 4) : Statement (.rotl m d a) := by
  have hm : majorOpcode (0x2500#16 ||| placeBit 15 m ||| place 4 d ||| place 0 a) = 0x25 :=
    majorOpcode_eq _ 0x25#7 (by simp (disch := decide) [show field 0x2500#16 8 7 = 0x25#7 from rfl])
  exact of_one _ _ rfl (by simp (disch := decide) [decode, decodePage0, decodePage02, hm])

theorem min (m : Bool) (d : BitVec 4) (a : BitVec 4) : Statement (.min m d a) := by
  have hm : majorOpcode (0x2600#16 ||| placeBit 15 m ||| place 4 d ||| place 0 a) = 0x26 :=
    majorOpcode_eq _ 0x26#7 (by simp (disch := decide) [show field 0x2600#16 8 7 = 0x26#7 from rfl])
  exact of_one _ _ rfl (by simp (disch := decide) [decode, decodePage0, decodePage02, hm])

theorem max (m : Bool) (d : BitVec 4) (a : BitVec 4) : Statement (.max m d a) := by
  have hm : majorOpcode (0x2700#16 ||| placeBit 15 m ||| place 4 d ||| place 0 a) = 0x27 :=
    majorOpcode_eq _ 0x27#7 (by simp (disch := decide) [show field 0x2700#16 8 7 = 0x27#7 from rfl])
  exact of_one _ _ rfl (by simp (disch := decide) [decode, decodePage0, decodePage02, hm])

theorem minu (m : Bool) (d : BitVec 4) (a : BitVec 4) : Statement (.minu m d a) := by
  have hm : majorOpcode (0x2800#16 ||| placeBit 15 m ||| place 4 d ||| place 0 a) = 0x28 :=
    majorOpcode_eq _ 0x28#7 (by simp (disch := decide) [show field 0x2800#16 8 7 = 0x28#7 from rfl])
  exact of_one _ _ rfl (by simp (disch := decide) [decode, decodePage0, decodePage02, hm])

theorem maxu (m : Bool) (d : BitVec 4) (a : BitVec 4) : Statement (.maxu m d a) := by
  have hm : majorOpcode (0x2900#16 ||| placeBit 15 m ||| place 4 d ||| place 0 a) = 0x29 :=
    majorOpcode_eq _ 0x29#7 (by simp (disch := decide) [show field 0x2900#16 8 7 = 0x29#7 from rfl])
  exact of_one _ _ rfl (by simp (disch := decide) [decode, decodePage0, decodePage02, hm])

theorem clz (m : Bool) (d : BitVec 4) (a : BitVec 4) : Statement (.clz m d a) := by
  have hm : majorOpcode (0x2A00#16 ||| placeBit 15 m ||| place 4 d ||| place 0 a) = 0x2A :=
    majorOpcode_eq _ 0x2A#7 (by simp (disch := decide) [show field 0x2A00#16 8 7 = 0x2A#7 from rfl])
  exact of_one _ _ rfl (by simp (disch := decide) [decode, decodePage0, decodePage02, hm])

theorem popc (m : Bool) (d : BitVec 4) (a : BitVec 4) : Statement (.popc m d a) := by
  have hm : majorOpcode (0x2B00#16 ||| placeBit 15 m ||| place 4 d ||| place 0 a) = 0x2B :=
    majorOpcode_eq _ 0x2B#7 (by simp (disch := decide) [show field 0x2B00#16 8 7 = 0x2B#7 from rfl])
  exact of_one _ _ rfl (by simp (disch := decide) [decode, decodePage0, decodePage02, hm])

theorem ext (m : Bool) (d : BitVec 4) (a : BitVec 4) : Statement (.ext m d a) := by
  have hm : majorOpcode (0x2C00#16 ||| placeBit 15 m ||| place 4 d ||| place 0 a) = 0x2C :=
    majorOpcode_eq _ 0x2C#7 (by simp (disch := decide) [show field 0x2C00#16 8 7 = 0x2C#7 from rfl])
  exact of_one _ _ rfl (by simp (disch := decide) [decode, decodePage0, decodePage02, hm])

theorem ins (m : Bool) (d : BitVec 4) (a : BitVec 4) : Statement (.ins m d a) := by
  have hm : majorOpcode (0x2D00#16 ||| placeBit 15 m ||| place 4 d ||| place 0 a) = 0x2D :=
    majorOpcode_eq _ 0x2D#7 (by simp (disch := decide) [show field 0x2D00#16 8 7 = 0x2D#7 from rfl])
  exact of_one _ _ rfl (by simp (disch := decide) [decode, decodePage0, decodePage02, hm])

theorem cmpeq (m : Bool) (p : BitVec 3) (a : BitVec 5) : Statement (.cmpeq m p a) := by
  have hm : majorOpcode (0x2E00#16 ||| placeBit 15 m ||| place 5 p ||| place 0 a) = 0x2E :=
    majorOpcode_eq _ 0x2E#7 (by simp (disch := decide) [show field 0x2E00#16 8 7 = 0x2E#7 from rfl])
  exact of_one _ _ rfl (by simp (disch := decide) [decode, decodePage0, decodePage02, hm])

theorem cmpne (m : Bool) (p : BitVec 3) (a : BitVec 5) : Statement (.cmpne m p a) := by
  have hm : majorOpcode (0x2F00#16 ||| placeBit 15 m ||| place 5 p ||| place 0 a) = 0x2F :=
    majorOpcode_eq _ 0x2F#7 (by simp (disch := decide) [show field 0x2F00#16 8 7 = 0x2F#7 from rfl])
  exact of_one _ _ rfl (by simp (disch := decide) [decode, decodePage0, decodePage02, hm])

theorem cmplt (m : Bool) (p : BitVec 3) (a : BitVec 5) : Statement (.cmplt m p a) := by
  have hm : majorOpcode (0x3000#16 ||| placeBit 15 m ||| place 5 p ||| place 0 a) = 0x30 :=
    majorOpcode_eq _ 0x30#7 (by simp (disch := decide) [show field 0x3000#16 8 7 = 0x30#7 from rfl])
  exact of_one _ _ rfl (by simp (disch := decide) [decode, decodePage0, decodePage03, hm])

theorem cmple (m : Bool) (p : BitVec 3) (a : BitVec 5) : Statement (.cmple m p a) := by
  have hm : majorOpcode (0x3100#16 ||| placeBit 15 m ||| place 5 p ||| place 0 a) = 0x31 :=
    majorOpcode_eq _ 0x31#7 (by simp (disch := decide) [show field 0x3100#16 8 7 = 0x31#7 from rfl])
  exact of_one _ _ rfl (by simp (disch := decide) [decode, decodePage0, decodePage03, hm])

theorem cmpltu (m : Bool) (p : BitVec 3) (a : BitVec 5) : Statement (.cmpltu m p a) := by
  have hm : majorOpcode (0x3200#16 ||| placeBit 15 m ||| place 5 p ||| place 0 a) = 0x32 :=
    majorOpcode_eq _ 0x32#7 (by simp (disch := decide) [show field 0x3200#16 8 7 = 0x32#7 from rfl])
  exact of_one _ _ rfl (by simp (disch := decide) [decode, decodePage0, decodePage03, hm])

theorem cmpleu (m : Bool) (p : BitVec 3) (a : BitVec 5) : Statement (.cmpleu m p a) := by
  have hm : majorOpcode (0x3300#16 ||| placeBit 15 m ||| place 5 p ||| place 0 a) = 0x33 :=
    majorOpcode_eq _ 0x33#7 (by simp (disch := decide) [show field 0x3300#16 8 7 = 0x33#7 from rfl])
  exact of_one _ _ rfl (by simp (disch := decide) [decode, decodePage0, decodePage03, hm])

theorem plog (m : Bool) (d : BitVec 3) (a : BitVec 3) (o : BitVec 2) : Statement (.plog m d a o) := by
  have hm : majorOpcode (0x3400#16 ||| placeBit 15 m ||| place 5 d ||| place 2 a ||| place 0 o) = 0x34 :=
    majorOpcode_eq _ 0x34#7 (by simp (disch := decide) [show field 0x3400#16 8 7 = 0x34#7 from rfl])
  exact of_one _ _ rfl (by simp (disch := decide) [decode, decodePage0, decodePage03, hm])

theorem pset (m : Bool) (p : BitVec 3) (v : Bool) : Statement (.pset m p v) := by
  have hm : majorOpcode (0x3500#16 ||| placeBit 15 m ||| place 5 p ||| placeBit 0 v) = 0x35 :=
    majorOpcode_eq _ 0x35#7 (by simp (disch := decide) [show field 0x3500#16 8 7 = 0x35#7 from rfl])
  exact of_one _ _ rfl (by simp (disch := decide) [decode, decodePage0, decodePage03, hm])

theorem pget (m : Bool) (d : BitVec 4) : Statement (.pget m d) := by
  have hm : majorOpcode (0x3600#16 ||| placeBit 15 m ||| place 4 d) = 0x36 :=
    majorOpcode_eq _ 0x36#7 (by simp (disch := decide) [show field 0x3600#16 8 7 = 0x36#7 from rfl])
  exact of_one _ _ rfl (by simp (disch := decide) [decode, decodePage0, decodePage03, hm])

theorem pput (m : Bool) (a : BitVec 4) : Statement (.pput m a) := by
  have hm : majorOpcode (0x3700#16 ||| placeBit 15 m ||| place 0 a) = 0x37 :=
    majorOpcode_eq _ 0x37#7 (by simp (disch := decide) [show field 0x3700#16 8 7 = 0x37#7 from rfl])
  exact of_one _ _ rfl (by simp (disch := decide) [decode, decodePage0, decodePage03, hm])

theorem ldb (m : Bool) (d : BitVec 4) (a : BitVec 4) : Statement (.ldb m d a) := by
  have hm : majorOpcode (0x3800#16 ||| placeBit 15 m ||| place 4 d ||| place 0 a) = 0x38 :=
    majorOpcode_eq _ 0x38#7 (by simp (disch := decide) [show field 0x3800#16 8 7 = 0x38#7 from rfl])
  exact of_one _ _ rfl (by simp (disch := decide) [decode, decodePage0, decodePage03, hm])

theorem ldh (m : Bool) (d : BitVec 4) (a : BitVec 4) : Statement (.ldh m d a) := by
  have hm : majorOpcode (0x3900#16 ||| placeBit 15 m ||| place 4 d ||| place 0 a) = 0x39 :=
    majorOpcode_eq _ 0x39#7 (by simp (disch := decide) [show field 0x3900#16 8 7 = 0x39#7 from rfl])
  exact of_one _ _ rfl (by simp (disch := decide) [decode, decodePage0, decodePage03, hm])

theorem ldw (m : Bool) (d : BitVec 4) (a : BitVec 4) : Statement (.ldw m d a) := by
  have hm : majorOpcode (0x3A00#16 ||| placeBit 15 m ||| place 4 d ||| place 0 a) = 0x3A :=
    majorOpcode_eq _ 0x3A#7 (by simp (disch := decide) [show field 0x3A00#16 8 7 = 0x3A#7 from rfl])
  exact of_one _ _ rfl (by simp (disch := decide) [decode, decodePage0, decodePage03, hm])

theorem ldd (m : Bool) (d : BitVec 4) (a : BitVec 4) : Statement (.ldd m d a) := by
  have hm : majorOpcode (0x3B00#16 ||| placeBit 15 m ||| place 4 d ||| place 0 a) = 0x3B :=
    majorOpcode_eq _ 0x3B#7 (by simp (disch := decide) [show field 0x3B00#16 8 7 = 0x3B#7 from rfl])
  exact of_one _ _ rfl (by simp (disch := decide) [decode, decodePage0, decodePage03, hm])

theorem ldv (m : Bool) (q : BitVec 2) (a : BitVec 4) : Statement (.ldv m q a) := by
  have hm : majorOpcode (0x3C00#16 ||| placeBit 15 m ||| place 6 q ||| place 0 a) = 0x3C :=
    majorOpcode_eq _ 0x3C#7 (by simp (disch := decide) [show field 0x3C00#16 8 7 = 0x3C#7 from rfl])
  exact of_one _ _ rfl (by simp (disch := decide) [decode, decodePage0, decodePage03, hm])

theorem stb (m : Bool) (d : BitVec 4) (a : BitVec 4) : Statement (.stb m d a) := by
  have hm : majorOpcode (0x3D00#16 ||| placeBit 15 m ||| place 4 d ||| place 0 a) = 0x3D :=
    majorOpcode_eq _ 0x3D#7 (by simp (disch := decide) [show field 0x3D00#16 8 7 = 0x3D#7 from rfl])
  exact of_one _ _ rfl (by simp (disch := decide) [decode, decodePage0, decodePage03, hm])

theorem sth (m : Bool) (d : BitVec 4) (a : BitVec 4) : Statement (.sth m d a) := by
  have hm : majorOpcode (0x3E00#16 ||| placeBit 15 m ||| place 4 d ||| place 0 a) = 0x3E :=
    majorOpcode_eq _ 0x3E#7 (by simp (disch := decide) [show field 0x3E00#16 8 7 = 0x3E#7 from rfl])
  exact of_one _ _ rfl (by simp (disch := decide) [decode, decodePage0, decodePage03, hm])

theorem stw (m : Bool) (d : BitVec 4) (a : BitVec 4) : Statement (.stw m d a) := by
  have hm : majorOpcode (0x3F00#16 ||| placeBit 15 m ||| place 4 d ||| place 0 a) = 0x3F :=
    majorOpcode_eq _ 0x3F#7 (by simp (disch := decide) [show field 0x3F00#16 8 7 = 0x3F#7 from rfl])
  exact of_one _ _ rfl (by simp (disch := decide) [decode, decodePage0, decodePage03, hm])

theorem std (m : Bool) (d : BitVec 4) (a : BitVec 4) : Statement (.std m d a) := by
  have hm : majorOpcode (0x4000#16 ||| placeBit 15 m ||| place 4 d ||| place 0 a) = 0x40 :=
    majorOpcode_eq _ 0x40#7 (by simp (disch := decide) [show field 0x4000#16 8 7 = 0x40#7 from rfl])
  exact of_one _ _ rfl (by simp (disch := decide) [decode, decodePage0, decodePage04, hm])

theorem stv (m : Bool) (q : Bool) (a : BitVec 4) : Statement (.stv m q a) := by
  have hm : majorOpcode (0x4100#16 ||| placeBit 15 m ||| placeBit 7 q ||| place 0 a) = 0x41 :=
    majorOpcode_eq _ 0x41#7 (by simp (disch := decide) [show field 0x4100#16 8 7 = 0x41#7 from rfl])
  exact of_one _ _ rfl (by simp (disch := decide) [decode, decodePage0, decodePage04, hm])

theorem wld (m : Bool) (q : BitVec 2) (w : BitVec 3) (k : BitVec 3) : Statement (.wld m q w k) := by
  have hm : majorOpcode (0x4200#16 ||| placeBit 15 m ||| place 6 q ||| place 3 w ||| place 0 k) = 0x42 :=
    majorOpcode_eq _ 0x42#7 (by simp (disch := decide) [show field 0x4200#16 8 7 = 0x42#7 from rfl])
  exact of_one _ _ rfl (by simp (disch := decide) [decode, decodePage0, decodePage04, hm])

theorem wst (m : Bool) (q : Bool) (w : BitVec 3) : Statement (.wst m q w) := by
  have hm : majorOpcode (0x4300#16 ||| placeBit 15 m ||| placeBit 7 q ||| place 3 w) = 0x43 :=
    majorOpcode_eq _ 0x43#7 (by simp (disch := decide) [show field 0x4300#16 8 7 = 0x43#7 from rfl])
  exact of_one _ _ rfl (by simp (disch := decide) [decode, decodePage0, decodePage04, hm])

theorem wset (m : Bool) (w : BitVec 3) (a : BitVec 4) : Statement (.wset m w a) := by
  have hm : majorOpcode (0x4400#16 ||| placeBit 15 m ||| place 5 w ||| place 0 a) = 0x44 :=
    majorOpcode_eq _ 0x44#7 (by simp (disch := decide) [show field 0x4400#16 8 7 = 0x44#7 from rfl])
  exact of_one _ _ rfl (by simp (disch := decide) [decode, decodePage0, decodePage04, hm])

theorem wfeed (m : Bool) (w : BitVec 3) (t : Bool) (n : BitVec 4) : Statement (.wfeed m w t n) := by
  have hm : majorOpcode (0x4500#16 ||| placeBit 15 m ||| place 5 w ||| placeBit 4 t ||| place 0 n) = 0x45 :=
    majorOpcode_eq _ 0x45#7 (by simp (disch := decide) [show field 0x4500#16 8 7 = 0x45#7 from rfl])
  exact of_one _ _ rfl (by simp (disch := decide) [decode, decodePage0, decodePage04, hm])

theorem zerof (m : Bool) (d : BitVec 4) (a : BitVec 4) : Statement (.zerof m d a) := by
  have hm : majorOpcode (0x4600#16 ||| placeBit 15 m ||| place 4 d ||| place 0 a) = 0x46 :=
    majorOpcode_eq _ 0x46#7 (by simp (disch := decide) [show field 0x4600#16 8 7 = 0x46#7 from rfl])
  exact of_one _ _ rfl (by simp (disch := decide) [decode, decodePage0, decodePage04, hm])

theorem wstat (m : Bool) (d : BitVec 4) (w : BitVec 3) : Statement (.wstat m d w) := by
  have hm : majorOpcode (0x4700#16 ||| placeBit 15 m ||| place 4 d ||| place 0 w) = 0x47 :=
    majorOpcode_eq _ 0x47#7 (by simp (disch := decide) [show field 0x4700#16 8 7 = 0x47#7 from rfl])
  exact of_one _ _ rfl (by simp (disch := decide) [decode, decodePage0, decodePage04, hm])

theorem cpy (m : Bool) (c : BitVec 3) (a : BitVec 4) : Statement (.cpy m c a) := by
  have hm : majorOpcode (0x4800#16 ||| placeBit 15 m ||| place 5 c ||| place 0 a) = 0x48 :=
    majorOpcode_eq _ 0x48#7 (by simp (disch := decide) [show field 0x4800#16 8 7 = 0x48#7 from rfl])
  exact of_one _ _ rfl (by simp (disch := decide) [decode, decodePage0, decodePage04, hm])

theorem cpyw (m : Bool) (c : BitVec 3) (a : BitVec 4) : Statement (.cpyw m c a) := by
  have hm : majorOpcode (0x4900#16 ||| placeBit 15 m ||| place 5 c ||| place 0 a) = 0x49 :=
    majorOpcode_eq _ 0x49#7 (by simp (disch := decide) [show field 0x4900#16 8 7 = 0x49#7 from rfl])
  exact of_one _ _ rfl (by simp (disch := decide) [decode, decodePage0, decodePage04, hm])

theorem cpym (m : Bool) (c : BitVec 3) (a : BitVec 4) : Statement (.cpym m c a) := by
  have hm : majorOpcode (0x4A00#16 ||| placeBit 15 m ||| place 5 c ||| place 0 a) = 0x4A :=
    majorOpcode_eq _ 0x4A#7 (by simp (disch := decide) [show field 0x4A00#16 8 7 = 0x4A#7 from rfl])
  exact of_one _ _ rfl (by simp (disch := decide) [decode, decodePage0, decodePage04, hm])

theorem cpyx (m : Bool) (c : BitVec 3) : Statement (.cpyx m c) := by
  have hm : majorOpcode (0x4B00#16 ||| placeBit 15 m ||| place 5 c) = 0x4B :=
    majorOpcode_eq _ 0x4B#7 (by simp (disch := decide) [show field 0x4B00#16 8 7 = 0x4B#7 from rfl])
  exact of_one _ _ rfl (by simp (disch := decide) [decode, decodePage0, decodePage04, hm])

theorem hwalk (m : Bool) (c : BitVec 3) (a : BitVec 4) : Statement (.hwalk m c a) := by
  have hm : majorOpcode (0x4C00#16 ||| placeBit 15 m ||| place 5 c ||| place 0 a) = 0x4C :=
    majorOpcode_eq _ 0x4C#7 (by simp (disch := decide) [show field 0x4C00#16 8 7 = 0x4C#7 from rfl])
  exact of_one _ _ rfl (by simp (disch := decide) [decode, decodePage0, decodePage04, hm])

theorem hpermit (m : Bool) (d : BitVec 4) (a : BitVec 4) : Statement (.hpermit m d a) := by
  have hm : majorOpcode (0x4D00#16 ||| placeBit 15 m ||| place 4 d ||| place 0 a) = 0x4D :=
    majorOpcode_eq _ 0x4D#7 (by simp (disch := decide) [show field 0x4D00#16 8 7 = 0x4D#7 from rfl])
  exact of_one _ _ rfl (by simp (disch := decide) [decode, decodePage0, decodePage04, hm])

theorem lndset (m : Bool) (d : BitVec 4) (a : BitVec 4) : Statement (.lndset m d a) := by
  have hm : majorOpcode (0x4E00#16 ||| placeBit 15 m ||| place 4 d ||| place 0 a) = 0x4E :=
    majorOpcode_eq _ 0x4E#7 (by simp (disch := decide) [show field 0x4E00#16 8 7 = 0x4E#7 from rfl])
  exact of_one _ _ rfl (by simp (disch := decide) [decode, decodePage0, decodePage04, hm])

theorem fld (m : Bool) (c : BitVec 3) (a : BitVec 5) : Statement (.fld m c a) := by
  have hm : majorOpcode (0x4F00#16 ||| placeBit 15 m ||| place 5 c ||| place 0 a) = 0x4F :=
    majorOpcode_eq _ 0x4F#7 (by simp (disch := decide) [show field 0x4F00#16 8 7 = 0x4F#7 from rfl])
  exact of_one _ _ rfl (by simp (disch := decide) [decode, decodePage0, decodePage04, hm])

theorem fst (m : Bool) (d : BitVec 4) (a : BitVec 4) : Statement (.fst m d a) := by
  have hm : majorOpcode (0x5000#16 ||| placeBit 15 m ||| place 4 d ||| place 0 a) = 0x50 :=
    majorOpcode_eq _ 0x50#7 (by simp (disch := decide) [show field 0x5000#16 8 7 = 0x50#7 from rfl])
  exact of_one _ _ rfl (by simp (disch := decide) [decode, decodePage0, decodePage05, hm])

theorem cstat (m : Bool) (d : BitVec 4) : Statement (.cstat m d) := by
  have hm : majorOpcode (0x5100#16 ||| placeBit 15 m ||| place 4 d) = 0x51 :=
    majorOpcode_eq _ 0x51#7 (by simp (disch := decide) [show field 0x5100#16 8 7 = 0x51#7 from rfl])
  exact of_one _ _ rfl (by simp (disch := decide) [decode, decodePage0, decodePage05, hm])

theorem cmov (m : Bool) (d : BitVec 4) (c : BitVec 3) : Statement (.cmov m d c) := by
  have hm : majorOpcode (0x5200#16 ||| placeBit 15 m ||| place 4 d ||| place 0 c) = 0x52 :=
    majorOpcode_eq _ 0x52#7 (by simp (disch := decide) [show field 0x5200#16 8 7 = 0x52#7 from rfl])
  exact of_one _ _ rfl (by simp (disch := decide) [decode, decodePage0, decodePage05, hm])

theorem lease (m : Bool) (d : BitVec 4) (a : BitVec 4) : Statement (.lease m d a) := by
  have hm : majorOpcode (0x5300#16 ||| placeBit 15 m ||| place 4 d ||| place 0 a) = 0x53 :=
    majorOpcode_eq _ 0x53#7 (by simp (disch := decide) [show field 0x5300#16 8 7 = 0x53#7 from rfl])
  exact of_one _ _ rfl (by simp (disch := decide) [decode, decodePage0, decodePage05, hm])

theorem vadd (m : Bool) (d : BitVec 4) (a : BitVec 4) : Statement (.vadd m d a) := by
  have hm : majorOpcode (0x5400#16 ||| placeBit 15 m ||| place 4 d ||| place 0 a) = 0x54 :=
    majorOpcode_eq _ 0x54#7 (by simp (disch := decide) [show field 0x5400#16 8 7 = 0x54#7 from rfl])
  exact of_one _ _ rfl (by simp (disch := decide) [decode, decodePage0, decodePage05, hm])

theorem vsub (m : Bool) (d : BitVec 4) (a : BitVec 4) : Statement (.vsub m d a) := by
  have hm : majorOpcode (0x5500#16 ||| placeBit 15 m ||| place 4 d ||| place 0 a) = 0x55 :=
    majorOpcode_eq _ 0x55#7 (by simp (disch := decide) [show field 0x5500#16 8 7 = 0x55#7 from rfl])
  exact of_one _ _ rfl (by simp (disch := decide) [decode, decodePage0, decodePage05, hm])

theorem vmul (m : Bool) (d : BitVec 4) (a : BitVec 4) : Statement (.vmul m d a) := by
  have hm : majorOpcode (0x5600#16 ||| placeBit 15 m ||| place 4 d ||| place 0 a) = 0x56 :=
    majorOpcode_eq _ 0x56#7 (by simp (disch := decide) [show field 0x5600#16 8 7 = 0x56#7 from rfl])
  exact of_one _ _ rfl (by simp (disch := decide) [decode, decodePage0, decodePage05, hm])

theorem vfma (m : Bool) (d : BitVec 4) (a : BitVec 4) : Statement (.vfma m d a) := by
  have hm : majorOpcode (0x5700#16 ||| placeBit 15 m ||| place 4 d ||| place 0 a) = 0x57 :=
    majorOpcode_eq _ 0x57#7 (by simp (disch := decide) [show field 0x5700#16 8 7 = 0x57#7 from rfl])
  exact of_one _ _ rfl (by simp (disch := decide) [decode, decodePage0, decodePage05, hm])

theorem vmax (m : Bool) (d : BitVec 4) (a : BitVec 4) : Statement (.vmax m d a) := by
  have hm : majorOpcode (0x5800#16 ||| placeBit 15 m ||| place 4 d ||| place 0 a) = 0x58 :=
    majorOpcode_eq _ 0x58#7 (by simp (disch := decide) [show field 0x5800#16 8 7 = 0x58#7 from rfl])
  exact of_one _ _ rfl (by simp (disch := decide) [decode, decodePage0, decodePage05, hm])

theorem vmin (m : Bool) (d : BitVec 4) (a : BitVec 4) : Statement (.vmin m d a) := by
  have hm : majorOpcode (0x5900#16 ||| placeBit 15 m ||| place 4 d ||| place 0 a) = 0x59 :=
    majorOpcode_eq _ 0x59#7 (by simp (disch := decide) [show field 0x5900#16 8 7 = 0x59#7 from rfl])
  exact of_one _ _ rfl (by simp (disch := decide) [decode, decodePage0, decodePage05, hm])

theorem vcmp (m : Bool) (d : BitVec 4) (a : BitVec 4) : Statement (.vcmp m d a) := by
  have hm : majorOpcode (0x5A00#16 ||| placeBit 15 m ||| place 4 d ||| place 0 a) = 0x5A :=
    majorOpcode_eq _ 0x5A#7 (by simp (disch := decide) [show field 0x5A00#16 8 7 = 0x5A#7 from rfl])
  exact of_one _ _ rfl (by simp (disch := decide) [decode, decodePage0, decodePage05, hm])

theorem vsel (m : Bool) (d : BitVec 4) (a : BitVec 4) : Statement (.vsel m d a) := by
  have hm : majorOpcode (0x5B00#16 ||| placeBit 15 m ||| place 4 d ||| place 0 a) = 0x5B :=
    majorOpcode_eq _ 0x5B#7 (by simp (disch := decide) [show field 0x5B00#16 8 7 = 0x5B#7 from rfl])
  exact of_one _ _ rfl (by simp (disch := decide) [decode, decodePage0, decodePage05, hm])

theorem vlogic (m : Bool) (d : BitVec 4) (a : BitVec 4) : Statement (.vlogic m d a) := by
  have hm : majorOpcode (0x5C00#16 ||| placeBit 15 m ||| place 4 d ||| place 0 a) = 0x5C :=
    majorOpcode_eq _ 0x5C#7 (by simp (disch := decide) [show field 0x5C00#16 8 7 = 0x5C#7 from rfl])
  exact of_one _ _ rfl (by simp (disch := decide) [decode, decodePage0, decodePage05, hm])

theorem vshift (m : Bool) (d : BitVec 4) (a : BitVec 4) : Statement (.vshift m d a) := by
  have hm : majorOpcode (0x5D00#16 ||| placeBit 15 m ||| place 4 d ||| place 0 a) = 0x5D :=
    majorOpcode_eq _ 0x5D#7 (by simp (disch := decide) [show field 0x5D00#16 8 7 = 0x5D#7 from rfl])
  exact of_one _ _ rfl (by simp (disch := decide) [decode, decodePage0, decodePage05, hm])

theorem vcvt (m : Bool) (d : BitVec 4) (a : BitVec 4) : Statement (.vcvt m d a) := by
  have hm : majorOpcode (0x5E00#16 ||| placeBit 15 m ||| place 4 d ||| place 0 a) = 0x5E :=
    majorOpcode_eq _ 0x5E#7 (by simp (disch := decide) [show field 0x5E00#16 8 7 = 0x5E#7 from rfl])
  exact of_one _ _ rfl (by simp (disch := decide) [decode, decodePage0, decodePage05, hm])

theorem vred (m : Bool) (d : BitVec 4) (a : BitVec 4) : Statement (.vred m d a) := by
  have hm : majorOpcode (0x5F00#16 ||| placeBit 15 m ||| place 4 d ||| place 0 a) = 0x5F :=
    majorOpcode_eq _ 0x5F#7 (by simp (disch := decide) [show field 0x5F00#16 8 7 = 0x5F#7 from rfl])
  exact of_one _ _ rfl (by simp (disch := decide) [decode, decodePage0, decodePage05, hm])

theorem vscan (m : Bool) (d : BitVec 4) (a : BitVec 4) : Statement (.vscan m d a) := by
  have hm : majorOpcode (0x6000#16 ||| placeBit 15 m ||| place 4 d ||| place 0 a) = 0x60 :=
    majorOpcode_eq _ 0x60#7 (by simp (disch := decide) [show field 0x6000#16 8 7 = 0x60#7 from rfl])
  exact of_one _ _ rfl (by simp (disch := decide) [decode, decodePage0, decodePage06, hm])

theorem vperm (m : Bool) (d : BitVec 4) (a : BitVec 4) : Statement (.vperm m d a) := by
  have hm : majorOpcode (0x6100#16 ||| placeBit 15 m ||| place 4 d ||| place 0 a) = 0x61 :=
    majorOpcode_eq _ 0x61#7 (by simp (disch := decide) [show field 0x6100#16 8 7 = 0x61#7 from rfl])
  exact of_one _ _ rfl (by simp (disch := decide) [decode, decodePage0, decodePage06, hm])

theorem vbcast (m : Bool) (d : BitVec 4) (a : BitVec 4) : Statement (.vbcast m d a) := by
  have hm : majorOpcode (0x6200#16 ||| placeBit 15 m ||| place 4 d ||| place 0 a) = 0x62 :=
    majorOpcode_eq _ 0x62#7 (by simp (disch := decide) [show field 0x6200#16 8 7 = 0x62#7 from rfl])
  exact of_one _ _ rfl (by simp (disch := decide) [decode, decodePage0, decodePage06, hm])

theorem vext (m : Bool) (d : BitVec 4) (a : BitVec 4) : Statement (.vext m d a) := by
  have hm : majorOpcode (0x6300#16 ||| placeBit 15 m ||| place 4 d ||| place 0 a) = 0x63 :=
    majorOpcode_eq _ 0x63#7 (by simp (disch := decide) [show field 0x6300#16 8 7 = 0x63#7 from rfl])
  exact of_one _ _ rfl (by simp (disch := decide) [decode, decodePage0, decodePage06, hm])

theorem viota (m : Bool) (d : BitVec 4) : Statement (.viota m d) := by
  have hm : majorOpcode (0x6400#16 ||| placeBit 15 m ||| place 4 d) = 0x64 :=
    majorOpcode_eq _ 0x64#7 (by simp (disch := decide) [show field 0x6400#16 8 7 = 0x64#7 from rfl])
  exact of_one _ _ rfl (by simp (disch := decide) [decode, decodePage0, decodePage06, hm])

theorem vexp2 (m : Bool) (d : BitVec 4) (a : BitVec 4) : Statement (.vexp2 m d a) := by
  have hm : majorOpcode (0x6500#16 ||| placeBit 15 m ||| place 4 d ||| place 0 a) = 0x65 :=
    majorOpcode_eq _ 0x65#7 (by simp (disch := decide) [show field 0x6500#16 8 7 = 0x65#7 from rfl])
  exact of_one _ _ rfl (by simp (disch := decide) [decode, decodePage0, decodePage06, hm])

theorem vrcp (m : Bool) (d : BitVec 4) (a : BitVec 4) : Statement (.vrcp m d a) := by
  have hm : majorOpcode (0x6600#16 ||| placeBit 15 m ||| place 4 d ||| place 0 a) = 0x66 :=
    majorOpcode_eq _ 0x66#7 (by simp (disch := decide) [show field 0x6600#16 8 7 = 0x66#7 from rfl])
  exact of_one _ _ rfl (by simp (disch := decide) [decode, decodePage0, decodePage06, hm])

theorem vfkey (m : Bool) (d : BitVec 4) (a : BitVec 4) : Statement (.vfkey m d a) := by
  have hm : majorOpcode (0x6700#16 ||| placeBit 15 m ||| place 4 d ||| place 0 a) = 0x67 :=
    majorOpcode_eq _ 0x67#7 (by simp (disch := decide) [show field 0x6700#16 8 7 = 0x67#7 from rfl])
  exact of_one _ _ rfl (by simp (disch := decide) [decode, decodePage0, decodePage06, hm])

theorem mzero (m : Bool) (n : BitVec 2) : Statement (.mzero m n) := by
  have hm : majorOpcode (0x6800#16 ||| placeBit 15 m ||| place 0 n) = 0x68 :=
    majorOpcode_eq _ 0x68#7 (by simp (disch := decide) [show field 0x6800#16 8 7 = 0x68#7 from rfl])
  exact of_one _ _ rfl (by simp (disch := decide) [decode, decodePage0, decodePage06, hm])

theorem mma (m : Bool) (n : BitVec 2) (k : BitVec 3) : Statement (.mma m n k) := by
  have hm : majorOpcode (0x6900#16 ||| placeBit 15 m ||| place 6 n ||| place 3 k) = 0x69 :=
    majorOpcode_eq _ 0x69#7 (by simp (disch := decide) [show field 0x6900#16 8 7 = 0x69#7 from rfl])
  exact of_one _ _ rfl (by simp (disch := decide) [decode, decodePage0, decodePage06, hm])

theorem mmas (m : Bool) (n : BitVec 2) (k : BitVec 3) : Statement (.mmas m n k) := by
  have hm : majorOpcode (0x6A00#16 ||| placeBit 15 m ||| place 6 n ||| place 3 k) = 0x6A :=
    majorOpcode_eq _ 0x6A#7 (by simp (disch := decide) [show field 0x6A00#16 8 7 = 0x6A#7 from rfl])
  exact of_one _ _ rfl (by simp (disch := decide) [decode, decodePage0, decodePage06, hm])

theorem mdrain (m : Bool) (n : BitVec 2) (d : BitVec 5) : Statement (.mdrain m n d) := by
  have hm : majorOpcode (0x6B00#16 ||| placeBit 15 m ||| place 6 n ||| place 0 d) = 0x6B :=
    majorOpcode_eq _ 0x6B#7 (by simp (disch := decide) [show field 0x6B00#16 8 7 = 0x6B#7 from rfl])
  exact of_one _ _ rfl (by simp (disch := decide) [decode, decodePage0, decodePage06, hm])

theorem cbload (m : Bool) (n : BitVec 2) (a : BitVec 5) : Statement (.cbload m n a) := by
  have hm : majorOpcode (0x6C00#16 ||| placeBit 15 m ||| place 6 n ||| place 0 a) = 0x6C :=
    majorOpcode_eq _ 0x6C#7 (by simp (disch := decide) [show field 0x6C00#16 8 7 = 0x6C#7 from rfl])
  exact of_one _ _ rfl (by simp (disch := decide) [decode, decodePage0, decodePage06, hm])

theorem attn (m : Bool) (n : BitVec 2) (x : BitVec 5) : Statement (.attn m n x) := by
  have hm : majorOpcode (0x6D00#16 ||| placeBit 15 m ||| place 6 n ||| place 0 x) = 0x6D :=
    majorOpcode_eq _ 0x6D#7 (by simp (disch := decide) [show field 0x6D00#16 8 7 = 0x6D#7 from rfl])
  exact of_one _ _ rfl (by simp (disch := decide) [decode, decodePage0, decodePage06, hm])

theorem attnfin (m : Bool) (n : BitVec 2) (d : BitVec 5) : Statement (.attnfin m n d) := by
  have hm : majorOpcode (0x6E00#16 ||| placeBit 15 m ||| place 6 n ||| place 0 d) = 0x6E :=
    majorOpcode_eq _ 0x6E#7 (by simp (disch := decide) [show field 0x6E00#16 8 7 = 0x6E#7 from rfl])
  exact of_one _ _ rfl (by simp (disch := decide) [decode, decodePage0, decodePage06, hm])

theorem qrot (m : Bool) (d : BitVec 4) (a : BitVec 4) : Statement (.qrot m d a) := by
  have hm : majorOpcode (0x6F00#16 ||| placeBit 15 m ||| place 4 d ||| place 0 a) = 0x6F :=
    majorOpcode_eq _ 0x6F#7 (by simp (disch := decide) [show field 0x6F00#16 8 7 = 0x6F#7 from rfl])
  exact of_one _ _ rfl (by simp (disch := decide) [decode, decodePage0, decodePage06, hm])

theorem fadd (m : Bool) (d : BitVec 4) (a : BitVec 4) : Statement (.fadd m d a) := by
  have hm : majorOpcode (0x0000#16 ||| placeBit 15 m ||| place 4 d ||| place 0 a) = 0x00 :=
    majorOpcode_eq _ 0x00#7 (by simp (disch := decide))
  exact of_two _ _ rfl (by simp (disch := decide) [decode, decodePage1, decodePage10, hm, -BitVec.zero_or]; simp)

theorem fsub (m : Bool) (d : BitVec 4) (a : BitVec 4) : Statement (.fsub m d a) := by
  have hm : majorOpcode (0x0100#16 ||| placeBit 15 m ||| place 4 d ||| place 0 a) = 0x01 :=
    majorOpcode_eq _ 0x01#7 (by simp (disch := decide) [show field 0x0100#16 8 7 = 0x01#7 from rfl])
  exact of_two _ _ rfl (by simp (disch := decide) [decode, decodePage1, decodePage10, hm])

theorem fmul (m : Bool) (d : BitVec 4) (a : BitVec 4) : Statement (.fmul m d a) := by
  have hm : majorOpcode (0x0200#16 ||| placeBit 15 m ||| place 4 d ||| place 0 a) = 0x02 :=
    majorOpcode_eq _ 0x02#7 (by simp (disch := decide) [show field 0x0200#16 8 7 = 0x02#7 from rfl])
  exact of_two _ _ rfl (by simp (disch := decide) [decode, decodePage1, decodePage10, hm])

theorem fma (m : Bool) (d : BitVec 4) (a : BitVec 4) : Statement (.fma m d a) := by
  have hm : majorOpcode (0x0300#16 ||| placeBit 15 m ||| place 4 d ||| place 0 a) = 0x03 :=
    majorOpcode_eq _ 0x03#7 (by simp (disch := decide) [show field 0x0300#16 8 7 = 0x03#7 from rfl])
  exact of_two _ _ rfl (by simp (disch := decide) [decode, decodePage1, decodePage10, hm])

theorem fdiv (m : Bool) (d : BitVec 4) (a : BitVec 4) : Statement (.fdiv m d a) := by
  have hm : majorOpcode (0x0400#16 ||| placeBit 15 m ||| place 4 d ||| place 0 a) = 0x04 :=
    majorOpcode_eq _ 0x04#7 (by simp (disch := decide) [show field 0x0400#16 8 7 = 0x04#7 from rfl])
  exact of_two _ _ rfl (by simp (disch := decide) [decode, decodePage1, decodePage10, hm])

theorem fsqrt (m : Bool) (d : BitVec 4) (a : BitVec 4) : Statement (.fsqrt m d a) := by
  have hm : majorOpcode (0x0500#16 ||| placeBit 15 m ||| place 4 d ||| place 0 a) = 0x05 :=
    majorOpcode_eq _ 0x05#7 (by simp (disch := decide) [show field 0x0500#16 8 7 = 0x05#7 from rfl])
  exact of_two _ _ rfl (by simp (disch := decide) [decode, decodePage1, decodePage10, hm])

theorem fmin (m : Bool) (d : BitVec 4) (a : BitVec 4) : Statement (.fmin m d a) := by
  have hm : majorOpcode (0x0600#16 ||| placeBit 15 m ||| place 4 d ||| place 0 a) = 0x06 :=
    majorOpcode_eq _ 0x06#7 (by simp (disch := decide) [show field 0x0600#16 8 7 = 0x06#7 from rfl])
  exact of_two _ _ rfl (by simp (disch := decide) [decode, decodePage1, decodePage10, hm])

theorem fmax (m : Bool) (d : BitVec 4) (a : BitVec 4) : Statement (.fmax m d a) := by
  have hm : majorOpcode (0x0700#16 ||| placeBit 15 m ||| place 4 d ||| place 0 a) = 0x07 :=
    majorOpcode_eq _ 0x07#7 (by simp (disch := decide) [show field 0x0700#16 8 7 = 0x07#7 from rfl])
  exact of_two _ _ rfl (by simp (disch := decide) [decode, decodePage1, decodePage10, hm])

theorem fcmpeq (m : Bool) (p : BitVec 3) (a : BitVec 5) : Statement (.fcmpeq m p a) := by
  have hm : majorOpcode (0x0800#16 ||| placeBit 15 m ||| place 5 p ||| place 0 a) = 0x08 :=
    majorOpcode_eq _ 0x08#7 (by simp (disch := decide) [show field 0x0800#16 8 7 = 0x08#7 from rfl])
  exact of_two _ _ rfl (by simp (disch := decide) [decode, decodePage1, decodePage10, hm])

theorem fcmplt (m : Bool) (p : BitVec 3) (a : BitVec 5) : Statement (.fcmplt m p a) := by
  have hm : majorOpcode (0x0900#16 ||| placeBit 15 m ||| place 5 p ||| place 0 a) = 0x09 :=
    majorOpcode_eq _ 0x09#7 (by simp (disch := decide) [show field 0x0900#16 8 7 = 0x09#7 from rfl])
  exact of_two _ _ rfl (by simp (disch := decide) [decode, decodePage1, decodePage10, hm])

theorem fcmple (m : Bool) (p : BitVec 3) (a : BitVec 5) : Statement (.fcmple m p a) := by
  have hm : majorOpcode (0x0A00#16 ||| placeBit 15 m ||| place 5 p ||| place 0 a) = 0x0A :=
    majorOpcode_eq _ 0x0A#7 (by simp (disch := decide) [show field 0x0A00#16 8 7 = 0x0A#7 from rfl])
  exact of_two _ _ rfl (by simp (disch := decide) [decode, decodePage1, decodePage10, hm])

theorem fcvt (m : Bool) (d : BitVec 4) (a : BitVec 4) : Statement (.fcvt m d a) := by
  have hm : majorOpcode (0x0B00#16 ||| placeBit 15 m ||| place 4 d ||| place 0 a) = 0x0B :=
    majorOpcode_eq _ 0x0B#7 (by simp (disch := decide) [show field 0x0B00#16 8 7 = 0x0B#7 from rfl])
  exact of_two _ _ rfl (by simp (disch := decide) [decode, decodePage1, decodePage10, hm])

theorem fclass (m : Bool) (d : BitVec 4) (a : BitVec 4) : Statement (.fclass m d a) := by
  have hm : majorOpcode (0x0C00#16 ||| placeBit 15 m ||| place 4 d ||| place 0 a) = 0x0C :=
    majorOpcode_eq _ 0x0C#7 (by simp (disch := decide) [show field 0x0C00#16 8 7 = 0x0C#7 from rfl])
  exact of_two _ _ rfl (by simp (disch := decide) [decode, decodePage1, decodePage10, hm])

theorem divu (m : Bool) (d : BitVec 4) (a : BitVec 4) : Statement (.divu m d a) := by
  have hm : majorOpcode (0x0D00#16 ||| placeBit 15 m ||| place 4 d ||| place 0 a) = 0x0D :=
    majorOpcode_eq _ 0x0D#7 (by simp (disch := decide) [show field 0x0D00#16 8 7 = 0x0D#7 from rfl])
  exact of_two _ _ rfl (by simp (disch := decide) [decode, decodePage1, decodePage10, hm])

theorem remu (m : Bool) (d : BitVec 4) (a : BitVec 4) : Statement (.remu m d a) := by
  have hm : majorOpcode (0x0E00#16 ||| placeBit 15 m ||| place 4 d ||| place 0 a) = 0x0E :=
    majorOpcode_eq _ 0x0E#7 (by simp (disch := decide) [show field 0x0E00#16 8 7 = 0x0E#7 from rfl])
  exact of_two _ _ rfl (by simp (disch := decide) [decode, decodePage1, decodePage10, hm])

theorem vrsqrt (m : Bool) (d : BitVec 4) (a : BitVec 4) : Statement (.vrsqrt m d a) := by
  have hm : majorOpcode (0x1000#16 ||| placeBit 15 m ||| place 4 d ||| place 0 a) = 0x10 :=
    majorOpcode_eq _ 0x10#7 (by simp (disch := decide) [show field 0x1000#16 8 7 = 0x10#7 from rfl])
  exact of_two _ _ rfl (by simp (disch := decide) [decode, decodePage1, decodePage11, hm])

theorem vhist (m : Bool) (d : BitVec 4) (a : BitVec 4) : Statement (.vhist m d a) := by
  have hm : majorOpcode (0x1100#16 ||| placeBit 15 m ||| place 4 d ||| place 0 a) = 0x11 :=
    majorOpcode_eq _ 0x11#7 (by simp (disch := decide) [show field 0x1100#16 8 7 = 0x11#7 from rfl])
  exact of_two _ _ rfl (by simp (disch := decide) [decode, decodePage1, decodePage11, hm])

theorem vtopk (m : Bool) (d : BitVec 4) (a : BitVec 4) : Statement (.vtopk m d a) := by
  have hm : majorOpcode (0x1200#16 ||| placeBit 15 m ||| place 4 d ||| place 0 a) = 0x12 :=
    majorOpcode_eq _ 0x12#7 (by simp (disch := decide) [show field 0x1200#16 8 7 = 0x12#7 from rfl])
  exact of_two _ _ rfl (by simp (disch := decide) [decode, decodePage1, decodePage11, hm])

theorem vsamp (m : Bool) (d : BitVec 4) (a : BitVec 4) : Statement (.vsamp m d a) := by
  have hm : majorOpcode (0x1300#16 ||| placeBit 15 m ||| place 4 d ||| place 0 a) = 0x13 :=
    majorOpcode_eq _ 0x13#7 (by simp (disch := decide) [show field 0x1300#16 8 7 = 0x13#7 from rfl])
  exact of_two _ _ rfl (by simp (disch := decide) [decode, decodePage1, decodePage11, hm])

theorem qstat (m : Bool) (d : BitVec 4) : Statement (.qstat m d) := by
  have hm : majorOpcode (0x1400#16 ||| placeBit 15 m ||| place 4 d) = 0x14 :=
    majorOpcode_eq _ 0x14#7 (by simp (disch := decide) [show field 0x1400#16 8 7 = 0x14#7 from rfl])
  exact of_two _ _ rfl (by simp (disch := decide) [decode, decodePage1, decodePage11, hm])

theorem arrive (m : Bool) : Statement (.arrive m) := by
  have hm : majorOpcode (0x2000#16 ||| placeBit 15 m) = 0x20 :=
    majorOpcode_eq _ 0x20#7 (by simp (disch := decide) [show field 0x2000#16 8 7 = 0x20#7 from rfl])
  exact of_two _ _ rfl (by simp (disch := decide) [decode, decodePage1, decodePage12, hm])

theorem waitb (m : Bool) : Statement (.waitb m) := by
  have hm : majorOpcode (0x2100#16 ||| placeBit 15 m) = 0x21 :=
    majorOpcode_eq _ 0x21#7 (by simp (disch := decide) [show field 0x2100#16 8 7 = 0x21#7 from rfl])
  exact of_two _ _ rfl (by simp (disch := decide) [decode, decodePage1, decodePage12, hm])

theorem gatom (m : Bool) (d : BitVec 4) (a : BitVec 4) : Statement (.gatom m d a) := by
  have hm : majorOpcode (0x2200#16 ||| placeBit 15 m ||| place 4 d ||| place 0 a) = 0x22 :=
    majorOpcode_eq _ 0x22#7 (by simp (disch := decide) [show field 0x2200#16 8 7 = 0x22#7 from rfl])
  exact of_two _ _ rfl (by simp (disch := decide) [decode, decodePage1, decodePage12, hm])

theorem gcas (m : Bool) (d : BitVec 4) (a : BitVec 4) : Statement (.gcas m d a) := by
  have hm : majorOpcode (0x2300#16 ||| placeBit 15 m ||| place 4 d ||| place 0 a) = 0x23 :=
    majorOpcode_eq _ 0x23#7 (by simp (disch := decide) [show field 0x2300#16 8 7 = 0x23#7 from rfl])
  exact of_two _ _ rfl (by simp (disch := decide) [decode, decodePage1, decodePage12, hm])

theorem gred (m : Bool) (d : BitVec 4) (a : BitVec 4) : Statement (.gred m d a) := by
  have hm : majorOpcode (0x2400#16 ||| placeBit 15 m ||| place 4 d ||| place 0 a) = 0x24 :=
    majorOpcode_eq _ 0x24#7 (by simp (disch := decide) [show field 0x2400#16 8 7 = 0x24#7 from rfl])
  exact of_two _ _ rfl (by simp (disch := decide) [decode, decodePage1, decodePage12, hm])

theorem futw (m : Bool) (d : BitVec 4) (a : BitVec 4) : Statement (.futw m d a) := by
  have hm : majorOpcode (0x2500#16 ||| placeBit 15 m ||| place 4 d ||| place 0 a) = 0x25 :=
    majorOpcode_eq _ 0x25#7 (by simp (disch := decide) [show field 0x2500#16 8 7 = 0x25#7 from rfl])
  exact of_two _ _ rfl (by simp (disch := decide) [decode, decodePage1, decodePage12, hm])

theorem futr (m : Bool) (p : BitVec 3) (x : BitVec 5) : Statement (.futr m p x) := by
  have hm : majorOpcode (0x2600#16 ||| placeBit 15 m ||| place 5 p ||| place 0 x) = 0x26 :=
    majorOpcode_eq _ 0x26#7 (by simp (disch := decide) [show field 0x2600#16 8 7 = 0x26#7 from rfl])
  exact of_two _ _ rfl (by simp (disch := decide) [decode, decodePage1, decodePage12, hm])

theorem salloc (m : Bool) (p : BitVec 3) (d : BitVec 5) : Statement (.salloc m p d) := by
  have hm : majorOpcode (0x2700#16 ||| placeBit 15 m ||| place 5 p ||| place 0 d) = 0x27 :=
    majorOpcode_eq _ 0x27#7 (by simp (disch := decide) [show field 0x2700#16 8 7 = 0x27#7 from rfl])
  exact of_two _ _ rfl (by simp (disch := decide) [decode, decodePage1, decodePage12, hm])

theorem sfree (m : Bool) (a : BitVec 4) : Statement (.sfree m a) := by
  have hm : majorOpcode (0x2800#16 ||| placeBit 15 m ||| place 0 a) = 0x28 :=
    majorOpcode_eq _ 0x28#7 (by simp (disch := decide) [show field 0x2800#16 8 7 = 0x28#7 from rfl])
  exact of_two _ _ rfl (by simp (disch := decide) [decode, decodePage1, decodePage12, hm])

theorem signal (m : Bool) (a : BitVec 4) : Statement (.signal m a) := by
  have hm : majorOpcode (0x2900#16 ||| placeBit 15 m ||| place 0 a) = 0x29 :=
    majorOpcode_eq _ 0x29#7 (by simp (disch := decide) [show field 0x2900#16 8 7 = 0x29#7 from rfl])
  exact of_two _ _ rfl (by simp (disch := decide) [decode, decodePage1, decodePage12, hm])

theorem tclaim (m : Bool) (p : BitVec 3) (d : BitVec 5) : Statement (.tclaim m p d) := by
  have hm : majorOpcode (0x3000#16 ||| placeBit 15 m ||| place 5 p ||| place 0 d) = 0x30 :=
    majorOpcode_eq _ 0x30#7 (by simp (disch := decide) [show field 0x3000#16 8 7 = 0x30#7 from rfl])
  exact of_two _ _ rfl (by simp (disch := decide) [decode, decodePage1, decodePage13, hm])

theorem tpatch (m : Bool) (d : BitVec 4) (a : BitVec 4) : Statement (.tpatch m d a) := by
  have hm : majorOpcode (0x3100#16 ||| placeBit 15 m ||| place 4 d ||| place 0 a) = 0x31 :=
    majorOpcode_eq _ 0x31#7 (by simp (disch := decide) [show field 0x3100#16 8 7 = 0x31#7 from rfl])
  exact of_two _ _ rfl (by simp (disch := decide) [decode, decodePage1, decodePage13, hm])

theorem tarm (m : Bool) (a : BitVec 4) : Statement (.tarm m a) := by
  have hm : majorOpcode (0x3200#16 ||| placeBit 15 m ||| place 0 a) = 0x32 :=
    majorOpcode_eq _ 0x32#7 (by simp (disch := decide) [show field 0x3200#16 8 7 = 0x32#7 from rfl])
  exact of_two _ _ rfl (by simp (disch := decide) [decode, decodePage1, decodePage13, hm])

theorem book (m : Bool) (d : BitVec 4) (a : BitVec 4) : Statement (.book m d a) := by
  have hm : majorOpcode (0x3300#16 ||| placeBit 15 m ||| place 4 d ||| place 0 a) = 0x33 :=
    majorOpcode_eq _ 0x33#7 (by simp (disch := decide) [show field 0x3300#16 8 7 = 0x33#7 from rfl])
  exact of_two _ _ rfl (by simp (disch := decide) [decode, decodePage1, decodePage13, hm])

theorem calq (m : Bool) (d : BitVec 4) (a : BitVec 4) : Statement (.calq m d a) := by
  have hm : majorOpcode (0x3400#16 ||| placeBit 15 m ||| place 4 d ||| place 0 a) = 0x34 :=
    majorOpcode_eq _ 0x34#7 (by simp (disch := decide) [show field 0x3400#16 8 7 = 0x34#7 from rfl])
  exact of_two _ _ rfl (by simp (disch := decide) [decode, decodePage1, decodePage13, hm])

theorem unlease (m : Bool) (d : BitVec 4) (a : BitVec 4) : Statement (.unlease m d a) := by
  have hm : majorOpcode (0x3500#16 ||| placeBit 15 m ||| place 4 d ||| place 0 a) = 0x35 :=
    majorOpcode_eq _ 0x35#7 (by simp (disch := decide) [show field 0x3500#16 8 7 = 0x35#7 from rfl])
  exact of_two _ _ rfl (by simp (disch := decide) [decode, decodePage1, decodePage13, hm])

theorem gparam (m : Bool) (d : BitVec 4) (i : BitVec 4) : Statement (.gparam m d i) := by
  have hm : majorOpcode (0x3600#16 ||| placeBit 15 m ||| place 4 d ||| place 0 i) = 0x36 :=
    majorOpcode_eq _ 0x36#7 (by simp (disch := decide) [show field 0x3600#16 8 7 = 0x36#7 from rfl])
  exact of_two _ _ rfl (by simp (disch := decide) [decode, decodePage1, decodePage13, hm])

theorem gpset (m : Bool) (d : BitVec 4) (i : BitVec 4) : Statement (.gpset m d i) := by
  have hm : majorOpcode (0x3700#16 ||| placeBit 15 m ||| place 4 d ||| place 0 i) = 0x37 :=
    majorOpcode_eq _ 0x37#7 (by simp (disch := decide) [show field 0x3700#16 8 7 = 0x37#7 from rfl])
  exact of_two _ _ rfl (by simp (disch := decide) [decode, decodePage1, decodePage13, hm])

theorem tfree (m : Bool) (a : BitVec 4) : Statement (.tfree m a) := by
  have hm : majorOpcode (0x3800#16 ||| placeBit 15 m ||| place 0 a) = 0x38 :=
    majorOpcode_eq _ 0x38#7 (by simp (disch := decide) [show field 0x3800#16 8 7 = 0x38#7 from rfl])
  exact of_two _ _ rfl (by simp (disch := decide) [decode, decodePage1, decodePage13, hm])

theorem fpush (m : Bool) (d : BitVec 4) (a : BitVec 4) : Statement (.fpush m d a) := by
  have hm : majorOpcode (0x4000#16 ||| placeBit 15 m ||| place 4 d ||| place 0 a) = 0x40 :=
    majorOpcode_eq _ 0x40#7 (by simp (disch := decide) [show field 0x4000#16 8 7 = 0x40#7 from rfl])
  exact of_two _ _ rfl (by simp (disch := decide) [decode, decodePage1, decodePage14, hm])

theorem fret (m : Bool) (d : BitVec 4) (a : BitVec 4) : Statement (.fret m d a) := by
  have hm : majorOpcode (0x4100#16 ||| placeBit 15 m ||| place 4 d ||| place 0 a) = 0x41 :=
    majorOpcode_eq _ 0x41#7 (by simp (disch := decide) [show field 0x4100#16 8 7 = 0x41#7 from rfl])
  exact of_two _ _ rfl (by simp (disch := decide) [decode, decodePage1, decodePage14, hm])

theorem fshare (m : Bool) (a : BitVec 4) : Statement (.fshare m a) := by
  have hm : majorOpcode (0x4200#16 ||| placeBit 15 m ||| place 0 a) = 0x42 :=
    majorOpcode_eq _ 0x42#7 (by simp (disch := decide) [show field 0x4200#16 8 7 = 0x42#7 from rfl])
  exact of_two _ _ rfl (by simp (disch := decide) [decode, decodePage1, decodePage14, hm])

theorem fdrop (m : Bool) (a : BitVec 4) : Statement (.fdrop m a) := by
  have hm : majorOpcode (0x4300#16 ||| placeBit 15 m ||| place 0 a) = 0x43 :=
    majorOpcode_eq _ 0x43#7 (by simp (disch := decide) [show field 0x4300#16 8 7 = 0x43#7 from rfl])
  exact of_two _ _ rfl (by simp (disch := decide) [decode, decodePage1, decodePage14, hm])

theorem fappend (m : Bool) (d : BitVec 4) (a : BitVec 4) : Statement (.fappend m d a) := by
  have hm : majorOpcode (0x4400#16 ||| placeBit 15 m ||| place 4 d ||| place 0 a) = 0x44 :=
    majorOpcode_eq _ 0x44#7 (by simp (disch := decide) [show field 0x4400#16 8 7 = 0x44#7 from rfl])
  exact of_two _ _ rfl (by simp (disch := decide) [decode, decodePage1, decodePage14, hm])

theorem fcompact (m : Bool) (p : BitVec 3) (a : BitVec 5) : Statement (.fcompact m p a) := by
  have hm : majorOpcode (0x4500#16 ||| placeBit 15 m ||| place 5 p ||| place 0 a) = 0x45 :=
    majorOpcode_eq _ 0x45#7 (by simp (disch := decide) [show field 0x4500#16 8 7 = 0x45#7 from rfl])
  exact of_two _ _ rfl (by simp (disch := decide) [decode, decodePage1, decodePage14, hm])

theorem finfo (m : Bool) (d : BitVec 4) (a : BitVec 4) : Statement (.finfo m d a) := by
  have hm : majorOpcode (0x4600#16 ||| placeBit 15 m ||| place 4 d ||| place 0 a) = 0x46 :=
    majorOpcode_eq _ 0x46#7 (by simp (disch := decide) [show field 0x4600#16 8 7 = 0x46#7 from rfl])
  exact of_two _ _ rfl (by simp (disch := decide) [decode, decodePage1, decodePage14, hm])

theorem beammap (m : Bool) (a : BitVec 4) : Statement (.beammap m a) := by
  have hm : majorOpcode (0x4700#16 ||| placeBit 15 m ||| place 0 a) = 0x47 :=
    majorOpcode_eq _ 0x47#7 (by simp (disch := decide) [show field 0x4700#16 8 7 = 0x47#7 from rfl])
  exact of_two _ _ rfl (by simp (disch := decide) [decode, decodePage1, decodePage14, hm])

theorem pfxlook (m : Bool) (a : BitVec 4) : Statement (.pfxlook m a) := by
  have hm : majorOpcode (0x4800#16 ||| placeBit 15 m ||| place 0 a) = 0x48 :=
    majorOpcode_eq _ 0x48#7 (by simp (disch := decide) [show field 0x4800#16 8 7 = 0x48#7 from rfl])
  exact of_two _ _ rfl (by simp (disch := decide) [decode, decodePage1, decodePage14, hm])

theorem pfxput (m : Bool) (d : BitVec 4) (a : BitVec 4) : Statement (.pfxput m d a) := by
  have hm : majorOpcode (0x4900#16 ||| placeBit 15 m ||| place 4 d ||| place 0 a) = 0x49 :=
    majorOpcode_eq _ 0x49#7 (by simp (disch := decide) [show field 0x4900#16 8 7 = 0x49#7 from rfl])
  exact of_two _ _ rfl (by simp (disch := decide) [decode, decodePage1, decodePage14, hm])

theorem pfxpin (m : Bool) (d : BitVec 4) (a : BitVec 4) : Statement (.pfxpin m d a) := by
  have hm : majorOpcode (0x4A00#16 ||| placeBit 15 m ||| place 4 d ||| place 0 a) = 0x4A :=
    majorOpcode_eq _ 0x4A#7 (by simp (disch := decide) [show field 0x4A00#16 8 7 = 0x4A#7 from rfl])
  exact of_two _ _ rfl (by simp (disch := decide) [decode, decodePage1, decodePage14, hm])

theorem pfxunpin (m : Bool) (a : BitVec 4) : Statement (.pfxunpin m a) := by
  have hm : majorOpcode (0x4B00#16 ||| placeBit 15 m ||| place 0 a) = 0x4B :=
    majorOpcode_eq _ 0x4B#7 (by simp (disch := decide) [show field 0x4B00#16 8 7 = 0x4B#7 from rfl])
  exact of_two _ _ rfl (by simp (disch := decide) [decode, decodePage1, decodePage14, hm])

theorem bhash (m : Bool) (d : BitVec 4) (a : BitVec 4) : Statement (.bhash m d a) := by
  have hm : majorOpcode (0x4C00#16 ||| placeBit 15 m ||| place 4 d ||| place 0 a) = 0x4C :=
    majorOpcode_eq _ 0x4C#7 (by simp (disch := decide) [show field 0x4C00#16 8 7 = 0x4C#7 from rfl])
  exact of_two _ _ rfl (by simp (disch := decide) [decode, decodePage1, decodePage14, hm])

theorem cpyf (m : Bool) (c : BitVec 3) (a : BitVec 4) : Statement (.cpyf m c a) := by
  have hm : majorOpcode (0x4D00#16 ||| placeBit 15 m ||| place 5 c ||| place 0 a) = 0x4D :=
    majorOpcode_eq _ 0x4D#7 (by simp (disch := decide) [show field 0x4D00#16 8 7 = 0x4D#7 from rfl])
  exact of_two _ _ rfl (by simp (disch := decide) [decode, decodePage1, decodePage14, hm])

theorem sysrd (m : Bool) (d : BitVec 4) (i : BitVec 4) : Statement (.sysrd m d i) := by
  have hm : majorOpcode (0x6000#16 ||| placeBit 15 m ||| place 4 d ||| place 0 i) = 0x60 :=
    majorOpcode_eq _ 0x60#7 (by simp (disch := decide) [show field 0x6000#16 8 7 = 0x60#7 from rfl])
  exact of_two _ _ rfl (by simp (disch := decide) [decode, decodePage1, decodePage16, hm])

theorem syswr (m : Bool) (d : BitVec 4) (i : BitVec 4) : Statement (.syswr m d i) := by
  have hm : majorOpcode (0x6100#16 ||| placeBit 15 m ||| place 4 d ||| place 0 i) = 0x61 :=
    majorOpcode_eq _ 0x61#7 (by simp (disch := decide) [show field 0x6100#16 8 7 = 0x61#7 from rfl])
  exact of_two _ _ rfl (by simp (disch := decide) [decode, decodePage1, decodePage16, hm])

theorem rett (m : Bool) (d : BitVec 4) (a : BitVec 4) : Statement (.rett m d a) := by
  have hm : majorOpcode (0x6200#16 ||| placeBit 15 m ||| place 4 d ||| place 0 a) = 0x62 :=
    majorOpcode_eq _ 0x62#7 (by simp (disch := decide) [show field 0x6200#16 8 7 = 0x62#7 from rfl])
  exact of_two _ _ rfl (by simp (disch := decide) [decode, decodePage1, decodePage16, hm])

theorem xprobe (m : Bool) (d : BitVec 4) (a : BitVec 4) : Statement (.xprobe m d a) := by
  have hm : majorOpcode (0x6300#16 ||| placeBit 15 m ||| place 4 d ||| place 0 a) = 0x63 :=
    majorOpcode_eq _ 0x63#7 (by simp (disch := decide) [show field 0x6300#16 8 7 = 0x63#7 from rfl])
  exact of_two _ _ rfl (by simp (disch := decide) [decode, decodePage1, decodePage16, hm])

theorem reservedEncoding (w : BitVec 16) : Statement (.reservedEncoding w) := of_words_nil _ rfl

theorem verdictReturn (k : Nat) (σ : Side) : Statement (.verdictReturn k σ) := of_words_nil _ rfl

theorem resultWrite (k : Nat) (σ : Side) : Statement (.resultWrite k σ) := of_words_nil _ rfl

theorem loadQueueFill (k : Nat) (q : Nat) : Statement (.loadQueueFill k q) := of_words_nil _ rfl

theorem storeDrain (k : Nat) : Statement (.storeDrain k) := of_words_nil _ rfl

theorem feedAccess (k : Nat) (port : Bool) : Statement (.feedAccess k port) := of_words_nil _ rfl

theorem feedEntryLand (k : Nat) (port : Bool) : Statement (.feedEntryLand k port) := of_words_nil _ rfl

theorem feedPoison (k : Nat) (σ : Side) : Statement (.feedPoison k σ) := of_words_nil _ rfl

theorem mxCommandStart (k : Nat) : Statement (.mxCommandStart k) := of_words_nil _ rfl

theorem mxOwedPush (k : Nat) : Statement (.mxOwedPush k) := of_words_nil _ rfl

theorem attnRowRead (k : Nat) : Statement (.attnRowRead k) := of_words_nil _ rfl

theorem mxCommandEnd (k : Nat) : Statement (.mxCommandEnd k) := of_words_nil _ rfl

theorem taskRetire (run : Nat) : Statement (.taskRetire run) := of_words_nil _ rfl

theorem barrierComplete (run : Nat) : Statement (.barrierComplete run) := of_words_nil _ rfl

theorem homeUnitPerform (req : Nat) : Statement (.homeUnitPerform req) := of_words_nil _ rfl

theorem futureWaiterWalk (walk : Nat) : Statement (.futureWaiterWalk walk) := of_words_nil _ rfl

theorem continuationReady (die : Nat) (idx : Nat) : Statement (.continuationReady die idx) := of_words_nil _ rfl

theorem furrowBoundary (die : Nat) : Statement (.furrowBoundary die) := of_words_nil _ rfl

theorem codeStaging (die : Nat) (idx : Nat) : Statement (.codeStaging die idx) := of_words_nil _ rfl

theorem stagingComplete (die : Nat) (entry : Nat) : Statement (.stagingComplete die entry) := of_words_nil _ rfl

theorem overrunCheck (run : Nat) : Statement (.overrunCheck run) := of_words_nil _ rfl

theorem trapDelivery (run : Nat) : Statement (.trapDelivery run) := of_words_nil _ rfl

theorem handlerArm (id : Nat) : Statement (.handlerArm id) := of_words_nil _ rfl

theorem debugStop (k : Nat) (σ : Side) (sub : Nat) : Statement (.debugStop k σ sub) := of_words_nil _ rfl

theorem copyPartSend (op : Nat) : Statement (.copyPartSend op) := of_words_nil _ rfl

theorem pageWalk (op : Nat) (part : Nat) : Statement (.pageWalk op part) := of_words_nil _ rfl

theorem channelPerform (op : Nat) (part : Nat) (piece : Nat) : Statement (.channelPerform op part piece) := of_words_nil _ rfl

theorem visibilityWiden (write : Nat) : Statement (.visibilityWiden write) := of_words_nil _ rfl

theorem granuleLanding (op : Nat) (part : Nat) (granule : Nat) : Statement (.granuleLanding op part granule) := of_words_nil _ rfl

theorem memberAccept (op : Nat) (part : Nat) (member : Nat) : Statement (.memberAccept op part member) := of_words_nil _ rfl

theorem copyComplete (op : Nat) : Statement (.copyComplete op) := of_words_nil _ rfl

theorem harrowWalkStart (k : Nat) : Statement (.harrowWalkStart k) := of_words_nil _ rfl

theorem harrowTileStart (k : Nat) : Statement (.harrowTileStart k) := of_words_nil _ rfl

theorem slotDrained (op : Nat) (slot : Nat) : Statement (.slotDrained op slot) := of_words_nil _ rfl

theorem cancellationDone (op : Nat) : Statement (.cancellationDone op) := of_words_nil _ rfl

theorem fretRowMove (job : Nat) : Statement (.fretRowMove job) := of_words_nil _ rfl

theorem compactionRowMove (job : Nat) : Statement (.compactionRowMove job) := of_words_nil _ rfl

theorem prefixLookup (job : Nat) : Statement (.prefixLookup job) := of_words_nil _ rfl

theorem kvRebuildStart (op : Nat) (part : Nat) : Statement (.kvRebuildStart op part) := of_words_nil _ rfl

theorem kvRebuildDone (job : Nat) : Statement (.kvRebuildDone job) := of_words_nil _ rfl

theorem invalidationArrival (inv : Nat) (drill : Nat) : Statement (.invalidationArrival inv drill) := of_words_nil _ rfl

theorem invalidationComplete (inv : Nat) : Statement (.invalidationComplete inv) := of_words_nil _ rfl

theorem cut (run : Nat) : Statement (.cut run) := of_words_nil _ rfl

theorem spill (ctx : Nat) : Statement (.spill ctx) := of_words_nil _ rfl

theorem bandCoolHold (die : Nat) : Statement (.bandCoolHold die) := of_words_nil _ rfl

theorem timingSetSwitch (die : Nat) : Statement (.timingSetSwitch die) := of_words_nil _ rfl

theorem messageDelivery (msg : Nat) : Statement (.messageDelivery msg) := of_words_nil _ rfl

theorem hostRequestPerform (core : Nat) : Statement (.hostRequestPerform core) := of_words_nil _ rfl

theorem tailUpdate (ctx : Nat) (ring : Nat) : Statement (.tailUpdate ctx ring) := of_words_nil _ rfl

theorem coalescingTimer (ctx : Nat) (ring : Nat) : Statement (.coalescingTimer ctx ring) := of_words_nil _ rfl

theorem portBRead (op : Nat) (part : Nat) (granule : Nat) : Statement (.portBRead op part granule) := of_words_nil _ rfl

theorem residueCheck (k : Nat) (bad : Bool) : Statement (.residueCheck k bad) := of_words_nil _ rfl

theorem barrierTreeDisagree (die : Nat) (tree : Nat) : Statement (.barrierTreeDisagree die tree) := of_words_nil _ rfl

theorem patrolScrub (line : Nat) : Statement (.patrolScrub line) := of_words_nil _ rfl

theorem dmaTimeoutAbort (op : Nat) (part : Nat) : Statement (.dmaTimeoutAbort op part) := of_words_nil _ rfl

theorem sensorSample (die : Nat) : Statement (.sensorSample die) := of_words_nil _ rfl

theorem powerSample : Statement (.powerSample) := of_words_nil _ rfl

theorem coolantLow : Statement (.coolantLow) := of_words_nil _ rfl

theorem soakDone : Statement (.soakDone) := of_words_nil _ rfl

theorem trainingDone (ok : Bool) : Statement (.trainingDone ok) := of_words_nil _ rfl

theorem lockDistributed : Statement (.lockDistributed) := of_words_nil _ rfl

theorem drainDone : Statement (.drainDone) := of_words_nil _ rfl

theorem parkExit : Statement (.parkExit) := of_words_nil _ rfl

theorem bootVerify : Statement (.bootVerify) := of_words_nil _ rfl

theorem hostImageLoad (img : Image) : Statement (.hostImageLoad img) := of_words_nil _ rfl

theorem firmwareUpdate (img : Image) : Statement (.firmwareUpdate img) := of_words_nil _ rfl

theorem attestationRequest (ctx : Nat) (nonce : BitVec 256) : Statement (.attestationRequest ctx nonce) := of_words_nil _ rfl

theorem spdmSessionOpen (ctx : Nat) : Statement (.spdmSessionOpen ctx) := of_words_nil _ rfl

theorem debugCommand (ctx : Nat) (cmd : DebugCmd) : Statement (.debugCommand ctx cmd) := of_words_nil _ rfl

theorem debugResume (ctx : Nat) (cont : BitVec 64) (save : BitVec 64) : Statement (.debugResume ctx cont save) := of_words_nil _ rfl

theorem contextAssign (a : Assignment) : Statement (.contextAssign a) := of_words_nil _ rfl

theorem wintabWrite (n : Nat) (word0 : BitVec 64) (word1 : BitVec 64) : Statement (.wintabWrite n word0 word1) := of_words_nil _ rfl

theorem registerWrite (w : RegWrite) : Statement (.registerWrite w) := of_words_nil _ rfl

theorem errstatRead (core : Nat) : Statement (.errstatRead core) := of_words_nil _ rfl

theorem remotePartArrival (part : RemotePart) : Statement (.remotePartArrival part) := of_words_nil _ rfl

theorem linkFlitReceive (port : LinkEnd) (good : Bool) : Statement (.linkFlitReceive port good) := of_words_nil _ rfl

theorem linkPortDown (port : Nat) : Statement (.linkPortDown port) := of_words_nil _ rfl

theorem linkPartTimeout (op : Nat) (part : Nat) : Statement (.linkPartTimeout op part) := of_words_nil _ rfl

theorem linkRekey (port : LinkEnd) (seq : Nat) : Statement (.linkRekey port seq) := of_words_nil _ rfl

theorem cxlSnoop (port : Nat) (addr : Nat) : Statement (.cxlSnoop port addr) := of_words_nil _ rfl

theorem serviceWatchdog (core : Nat) : Statement (.serviceWatchdog core) := of_words_nil _ rfl

theorem fibreSetup (core : Nat) : Statement (.fibreSetup core) := of_words_nil _ rfl

theorem fibreTeardown (core : Nat) : Statement (.fibreTeardown core) := of_words_nil _ rfl

theorem pagePool (core : Nat) : Statement (.pagePool core) := of_words_nil _ rfl

theorem recordWrite (core : Nat) : Statement (.recordWrite core) := of_words_nil _ rfl

theorem gpWrite (core : Nat) : Statement (.gpWrite core) := of_words_nil _ rfl

theorem go (core : Nat) : Statement (.go core) := of_words_nil _ rfl

theorem invalidateByPage (core : Nat) : Statement (.invalidateByPage core) := of_words_nil _ rfl

theorem invalidateByTenant (core : Nat) : Statement (.invalidateByTenant core) := of_words_nil _ rfl

theorem preEmpt (core : Nat) : Statement (.preEmpt core) := of_words_nil _ rfl

theorem resume (core : Nat) : Statement (.resume core) := of_words_nil _ rfl

theorem teardown (core : Nat) : Statement (.teardown core) := of_words_nil _ rfl

theorem compactionResume (core : Nat) : Statement (.compactionResume core) := of_words_nil _ rfl

theorem poisonClear (core : Nat) : Statement (.poisonClear core) := of_words_nil _ rfl

theorem configurationWrite (core : Nat) : Statement (.configurationWrite core) := of_words_nil _ rfl

theorem lock (core : Nat) : Statement (.lock core) := of_words_nil _ rfl

theorem drain (core : Nat) : Statement (.drain core) := of_words_nil _ rfl

theorem shutdown (core : Nat) : Statement (.shutdown core) := of_words_nil _ rfl

theorem ringSetup (core : Nat) : Statement (.ringSetup core) := of_words_nil _ rfl

theorem unknownCommand (core : Nat) : Statement (.unknownCommand core) := of_words_nil _ rfl

theorem powerOn : Statement (.powerOn) := of_words_nil _ rfl

theorem lockInterface (ctx : Nat) : Statement (.lockInterface ctx) := of_words_nil _ rfl

theorem getDeviceInterfaceReport (ctx : Nat) : Statement (.getDeviceInterfaceReport ctx) := of_words_nil _ rfl

theorem startInterface (ctx : Nat) : Statement (.startInterface ctx) := of_words_nil _ rfl

theorem stopInterface (ctx : Nat) : Statement (.stopInterface ctx) := of_words_nil _ rfl

end Encoding

end Sys2Proof.Laws
end

