-- ==== Sys2Proof/Laws/Store.lean ====
section
/-!
SUPPORT. Sys2Proof/Laws/Store.lean: what a reader sees of the field store, bit by bit, with waiting stores merged over the
banks (R62, R136), and what a store that enters the buffer changes of it.
-/
namespace Sys2Proof.Machine

/-- Removing the bits of a mask. -/
theorem testBit_sub_and (x m i : Nat) : (x - (x &&& m)).testBit i = (x.testBit i && !m.testBit i) := by
  have hle : x &&& m ≤ x := Nat.and_le_left
  have key : x - (x &&& m) = x ^^^ (x &&& m) := by
    have hd : (x ^^^ (x &&& m)) &&& (x &&& m) = 0 := by
      apply Nat.eq_of_testBit_eq; intro j
      simp only [Nat.testBit_and, Nat.testBit_xor, Nat.zero_testBit]
      cases x.testBit j <;> cases m.testBit j <;> rfl
    have ho : (x ^^^ (x &&& m)) ||| (x &&& m) = x := by
      apply Nat.eq_of_testBit_eq; intro j
      simp only [Nat.testBit_and, Nat.testBit_xor, Nat.testBit_or]
      cases x.testBit j <;> cases m.testBit j <;> rfl
    have hx : x < 2 ^ x.size := Nat.lt_size_self x
    have h1 : x ^^^ (x &&& m) < 2 ^ x.size := Nat.xor_lt_two_pow hx (Nat.lt_of_le_of_lt hle hx)
    have h2 : x &&& m < 2 ^ x.size := Nat.lt_of_le_of_lt hle hx
    have hb := BitVec.add_eq_or_of_and_eq_zero (w := x.size) (BitVec.ofNat _ (x ^^^ (x &&& m))) (BitVec.ofNat _ (x &&& m))
      (by apply BitVec.eq_of_toNat_eq
          rw [BitVec.toNat_and, BitVec.toNat_ofNat, BitVec.toNat_ofNat, Nat.mod_eq_of_lt h1, Nat.mod_eq_of_lt h2, hd]
          simp)
    have := congrArg BitVec.toNat hb
    simp only [BitVec.toNat_add, BitVec.toNat_or, BitVec.toNat_ofNat, Nat.mod_eq_of_lt h1, Nat.mod_eq_of_lt h2, ho] at this
    have h3 : (x ^^^ (x &&& m)) + (x &&& m) = x := by
      have h4 : (x ^^^ (x &&& m)) + (x &&& m) < 2 ^ x.size ∨ 2 ^ x.size ≤ (x ^^^ (x &&& m)) + (x &&& m) := by omega
      rcases h4 with h4 | h4
      · rwa [Nat.mod_eq_of_lt h4] at this
      · exfalso
        have h5 : ((x ^^^ (x &&& m)) + (x &&& m)) % 2 ^ x.size = (x ^^^ (x &&& m)) + (x &&& m) - 2 ^ x.size := by
          rw [Nat.mod_eq_sub_mod h4, Nat.mod_eq_of_lt (by omega)]
        omega
    omega
  rw [key]; simp; cases x.testBit i <;> cases m.testBit i <;> rfl

theorem foldl_or_testBit (l : List Nat) (f : Nat → Nat) (i : Nat) : ∀ x : Nat,
    (l.foldl (fun x j => x ||| f j) x).testBit i = (x.testBit i || l.any fun j => (f j).testBit i) := by
  induction l with
  | nil => simp
  | cons a l ih => intro x; simp [ih, Bool.or_assoc]

/-- A byte mask holds bit i where the mask holds byte i / 8. -/
theorem byteMask_testBit (m : BitVec 32) (i : Nat) : (byteMask m).testBit i = m.getLsbD (i / 8) := by
  unfold byteMask onesOf
  rw [foldl_or_testBit]
  have h255 : ∀ k, (255 : Nat).testBit k = decide (k < 8) := by
    intro k
    have : (255 : Nat) = 2 ^ 8 - 1 := rfl
    rw [this, Nat.testBit_two_pow_sub_one]
  simp only [Nat.zero_testBit, Bool.false_or, Nat.testBit_shiftLeft, h255]
  rw [Bool.eq_iff_iff]
  simp only [List.any_eq_true, List.mem_filter, List.mem_range, Bool.and_eq_true, decide_eq_true_eq, ge_iff_le]
  constructor
  · rintro ⟨j, ⟨hj, hb⟩, hle, hlt⟩
    have : i / 8 = j := by omega
    rw [this, BitVec.getLsbD]; exact hb
  · intro h
    have hb := BitVec.lt_of_getLsbD h
    exact ⟨i / 8, ⟨hb, h⟩, by omega, by omega⟩

/-- Does an entry write byte `a` of the field store? -/
def SbEntry.covers (e : SbEntry) (a : Nat) : Bool := decide (a / 32 = e.granule) && e.mask.getLsbD (a % 32)

/-- Bit `b` of the field store, numbered by byte and bit, as an entry holds it. -/
def SbEntry.bitAt (e : SbEntry) (b : Nat) : Bool := e.data.getLsbD (b - 256 * e.granule)

theorem rebase_testBit (x g f i : Nat) :
    (rebase x g f).testBit i = (decide (8 * g ≤ 8 * f + i) && x.testBit (8 * f + i - 8 * g)) := by
  unfold rebase
  split
  · rw [Nat.testBit_shiftLeft]
    by_cases h1 : 8 * g ≤ 8 * f + i
    · rw [decide_eq_true h1, decide_eq_true (by omega)]; congr 2; omega
    · rw [decide_eq_false h1, decide_eq_false (by omega)]; simp
  · have h1 : 8 * g ≤ 8 * f + i := by omega
    rw [Nat.testBit_shiftRight, decide_eq_true h1]
    simp only [Bool.true_and]; congr 1; omega

/-- One entry merged over what is read: its bytes stand, the others stay (R62). -/
theorem SbEntry.over_testBit (e : SbEntry) (f n x : Nat) {i : Nat} (hi : i < 8 * n) :
    (e.over f n x).testBit i = if e.covers (f + i / 8) then e.bitAt (8 * f + i) else x.testBit i := by
  have hm : (rebase (byteMask e.mask) (32 * e.granule) f % 2 ^ (8 * n)).testBit i = e.covers (f + i / 8) := by
    rw [Nat.testBit_mod_two_pow, decide_eq_true hi, Bool.true_and, rebase_testBit, byteMask_testBit]
    unfold SbEntry.covers
    by_cases h1 : 8 * (32 * e.granule) ≤ 8 * f + i
    · rw [decide_eq_true h1, Bool.true_and]
      by_cases h2 : (f + i / 8) / 32 = e.granule
      · rw [decide_eq_true h2, Bool.true_and]; congr 1; omega
      · rw [decide_eq_false h2, Bool.false_and]
        apply BitVec.getLsbD_of_ge; omega
    · rw [decide_eq_false h1, Bool.false_and, decide_eq_false (by omega), Bool.false_and]
  have hd : (rebase e.data.toNat (32 * e.granule) f % 2 ^ (8 * n)).testBit i =
      (decide (8 * (32 * e.granule) ≤ 8 * f + i) && e.bitAt (8 * f + i)) := by
    rw [Nat.testBit_mod_two_pow, decide_eq_true hi, Bool.true_and, rebase_testBit]
    unfold SbEntry.bitAt
    rw [BitVec.getLsbD, ← Nat.mul_assoc]
  unfold SbEntry.over
  simp only [Nat.testBit_or, Nat.testBit_and, testBit_sub_and, hm, hd]
  by_cases hc : e.covers (f + i / 8) = true
  · have : 8 * (32 * e.granule) ≤ 8 * f + i := by
      simp only [SbEntry.covers, Bool.and_eq_true, decide_eq_true_eq] at hc; omega
    simp [hc, this]
  · simp [hc]

/-- Bit `b` as it is seen through waiting stores, oldest first, over what the banks hold. -/
def seenBit (l : List SbEntry) (b : Nat) (bank : Bool) : Bool :=
  l.foldl (fun x e => if e.covers (b / 8) then e.bitAt b else x) bank

theorem overs_testBit (f n : Nat) {i : Nat} (hi : i < 8 * n) : ∀ (l : List SbEntry) (x : Nat),
    (l.foldl (fun x e => e.over f n x) x).testBit i = seenBit l (8 * f + i) (x.testBit i)
  | [], x => rfl
  | e :: l, x => by
    have h8 : (8 * f + i) / 8 = f + i / 8 := by omega
    simp only [List.foldl_cons, seenBit]
    rw [overs_testBit f n hi l, e.over_testBit f n x hi]
    simp only [seenBit, h8]

theorem seenBit_skip (b : Nat) (p : SbEntry → Bool) : ∀ (l : List SbEntry) (x : Bool),
    (∀ e ∈ l, p e = false → e.covers (b / 8) = false) → seenBit (l.filter p) b x = seenBit l b x
  | [], _, _ => rfl
  | e :: l, x, h => by
    have hr := fun x => seenBit_skip b p l x fun e he => h e (by simp [he])
    simp only [seenBit] at *
    by_cases hp : p e = true
    · simp [List.filter_cons, hp, hr]
    · have := h e (by simp) (by simpa using hp)
      simp [List.filter_cons, hp, hr, this]

/-- What the A-core reads, bit by bit: every waiting store over the banks (R62, R136). -/
theorem Tile.fieldRead_testBit (t : Tile) (now f n : Nat) {i : Nat} (hi : i < 8 * n) :
    (t.fieldRead true now f n).testBit i = seenBit t.sb (8 * f + i) ((t.bankRead f n).testBit i) := by
  unfold Tile.fieldRead
  rw [if_pos rfl, overs_testBit f n hi]
  apply seenBit_skip
  intro e _ he
  have h8 : (8 * f + i) / 8 = f + i / 8 := by omega
  simp only [SbEntry.meets, Bool.and_eq_false_iff, decide_eq_false_iff_not] at he
  simp only [SbEntry.covers, h8, Bool.and_eq_false_iff, decide_eq_false_iff_not]
  left; omega

/-- Nothing is read beyond the bytes asked for, where the banks hold bytes. -/
theorem overs_lt (f n : Nat) : ∀ (l : List SbEntry) (x : Nat), x < 2 ^ (8 * n) → l.foldl (fun x e => e.over f n x) x < 2 ^ (8 * n)
  | [], _, h => h
  | e :: l, x, h => by
    apply overs_lt f n l
    unfold SbEntry.over
    apply Nat.or_lt_two_pow
    · omega
    · exact Nat.lt_of_le_of_lt Nat.and_le_right (Nat.mod_lt _ (Nat.two_pow_pos _))

/-- Two tiles whose banks agree and whose waiting stores cover a byte alike are read alike there. -/
theorem Tile.fieldRead_congr {t u : Tile} (now a : Nat) (hb : u.bankRead a 1 = t.bankRead a 1) (hl : t.bankRead a 1 < 256)
    (hs : ∀ (i : Nat) (x : Bool), i < 8 → seenBit u.sb (8 * a + i) x = seenBit t.sb (8 * a + i) x) :
    u.fieldRead true now a 1 = t.fieldRead true now a 1 := by
  apply Nat.eq_of_testBit_eq
  intro i
  by_cases hi : i < 8 * 1
  · rw [u.fieldRead_testBit _ _ _ hi, t.fieldRead_testBit _ _ _ hi, hb]; exact hs i _ (by omega)
  · have h1 : u.fieldRead true now a 1 < 2 ^ (8 * 1) := overs_lt a 1 _ _ (by rw [hb]; exact hl)
    have h2 : t.fieldRead true now a 1 < 2 ^ (8 * 1) := overs_lt a 1 _ _ hl
    rw [Nat.testBit_lt_two_pow (Nat.lt_of_lt_of_le h1 (Nat.pow_le_pow_right (by omega) (by omega))),
      Nat.testBit_lt_two_pow (Nat.lt_of_lt_of_le h2 (Nat.pow_le_pow_right (by omega) (by omega)))]

/-! ## A store enters the buffer -/

/-- What a merge of `n` bytes at byte `o` makes an entry cover, and its bits. -/
theorem SbEntry.merge_covers (e : SbEntry) (o n x : Nat) (at_ : StoreTime) (a : Nat) (ho : o + n ≤ 32) :
    (e.merge o n x at_).covers a =
      (decide (a / 32 = e.granule) && (e.mask.getLsbD (a % 32) || (decide (o ≤ a % 32) && decide (a % 32 < o + n)))) := by
  unfold SbEntry.covers SbEntry.merge
  congr 1
  simp only [BitVec.getLsbD_or]
  congr 1
  have ha : a % 32 < 32 := Nat.mod_lt _ (by omega)
  rw [BitVec.getLsbD_ofNat, decide_eq_true ha, Bool.true_and, Nat.testBit_shiftLeft, Nat.testBit_two_pow_sub_one]
  by_cases h1 : o ≤ a % 32
  · rw [decide_eq_true h1]; simp only [Bool.true_and, decide_eq_decide]; omega
  · rw [decide_eq_false h1, Bool.false_and, Bool.false_and]

theorem SbEntry.merge_bit (e : SbEntry) (o n x : Nat) (at_ : StoreTime) (j : Nat) (ho : o + n ≤ 32) (hj : j < 256) :
    (e.merge o n x at_).data.getLsbD j =
      if o ≤ j / 8 ∧ j / 8 < o + n then x.testBit (j - 8 * o)
      else e.data.getLsbD j := by
  have hm : (byteMask (BitVec.ofNat 32 ((2 ^ n - 1) <<< o))).testBit j = (decide (o ≤ j / 8) && decide (j / 8 < o + n)) := by
    rw [byteMask_testBit, BitVec.getLsbD_ofNat, decide_eq_true (show j / 8 < 32 by omega), Bool.true_and, Nat.testBit_shiftLeft,
      Nat.testBit_two_pow_sub_one]
    by_cases h1 : o ≤ j / 8
    · rw [decide_eq_true h1]; simp only [Bool.true_and, decide_eq_decide]; omega
    · rw [decide_eq_false h1, Bool.false_and, Bool.false_and]
  simp only [SbEntry.merge]
  rw [BitVec.getLsbD_ofNat, decide_eq_true hj, Bool.true_and, Nat.testBit_or, testBit_sub_and, hm, Nat.testBit_shiftLeft,
    Nat.testBit_mod_two_pow]
  by_cases h1 : o ≤ j / 8 ∧ j / 8 < o + n
  · have h2 : j ≥ 8 * o := by omega
    have h3 : j - 8 * o < 8 * n := by omega
    simp [h1, h2, h3]
  · have h4 : (decide (j ≥ 8 * o) && (decide (j - 8 * o < 8 * n) && x.testBit (j - 8 * o))) = false := by
      by_cases h5 : j ≥ 8 * o
      · have h6 : ¬ (j - 8 * o < 8 * n) := by omega
        simp [h6]
      · simp [h5]
    have h7 : (decide (o ≤ j / 8) && decide (j / 8 < o + n)) = false := by
      rw [Bool.and_eq_false_iff, decide_eq_false_iff_not, decide_eq_false_iff_not]; omega
    rw [h4, if_neg h1, h7]
    simp [BitVec.getLsbD]

/-- Bits outside the stored bytes are seen as before (R62). -/
theorem seenBit_changeNewest_outside (g o n x : Nat) (at_ : StoreTime) (b : Nat) (ho : o + n ≤ 32)
    (hb : ¬ (32 * g + o ≤ b / 8 ∧ b / 8 < 32 * g + o + n)) : ∀ (l : List SbEntry) (y : Bool),
    seenBit (changeNewest g (·.merge o n x at_) l) b y = seenBit l b y
  | [], _ => rfl
  | e :: l, y => by
    have ih := fun y => seenBit_changeNewest_outside g o n x at_ b ho hb l y
    unfold changeNewest
    split
    · simp only [seenBit, List.foldl_cons] at *; rw [ih]
    · split
      · rename_i hg
        simp only [seenBit, List.foldl_cons]
        congr 1
        have hcov : (e.merge o n x at_).covers (b / 8) = e.covers (b / 8) := by
          rw [e.merge_covers o n x at_ _ ho, SbEntry.covers]
          by_cases h1 : b / 8 / 32 = e.granule
          · rw [decide_eq_true h1, Bool.true_and, Bool.true_and]
            have : (decide (o ≤ b / 8 % 32) && decide (b / 8 % 32 < o + n)) = false := by
              rw [Bool.and_eq_false_iff, decide_eq_false_iff_not, decide_eq_false_iff_not]; omega
            rw [this, Bool.or_false]
          · rw [decide_eq_false h1, Bool.false_and, Bool.false_and]
        rw [hcov]
        split
        · rename_i hc
          simp only [SbEntry.covers, Bool.and_eq_true, decide_eq_true_eq] at hc
          have hj : b - 256 * e.granule < 256 := by omega
          unfold SbEntry.bitAt
          show (e.merge o n x at_).data.getLsbD (b - 256 * e.granule) = _
          rw [e.merge_bit o n x at_ _ ho hj, if_neg (by omega)]
        · rfl
      · rfl

/-- A narrow store leaves every bit outside its bytes as the A-core sees it (R62, R293). -/
theorem Tile.sbNarrow_outside (t : Tile) (f n x : Nat) (at_ : StoreTime) (b : Nat) (hn : f % 32 + n ≤ 32) (hb : ¬ (f ≤ b / 8 ∧ b / 8 < f + n)) (y : Bool) :
    seenBit (t.sbNarrow f n x at_).sb b y = seenBit t.sb b y := by
  unfold Tile.sbNarrow
  split
  · exact seenBit_changeNewest_outside _ _ _ _ _ _ hn (by omega) _ _
  · unfold Tile.sbNew
    simp only [seenBit, List.foldl_append, List.foldl_cons, List.foldl_nil]
    rw [if_neg]
    simp only [SbEntry.covers, Bool.and_eq_true, decide_eq_true_eq, not_and]
    intro h1
    have ha : b / 8 % 32 < 32 := Nat.mod_lt _ (by omega)
    rw [BitVec.getLsbD_ofNat, decide_eq_true ha, Bool.true_and, Nat.testBit_shiftLeft, Nat.testBit_two_pow_sub_one]
    simp only [Bool.and_eq_true, decide_eq_true_eq]
    omega

theorem seenBit_changeNewest_inside (g o n x : Nat) (at_ : StoreTime) (b : Nat) (ho : o + n ≤ 32)
    (hb : 32 * g + o ≤ b / 8 ∧ b / 8 < 32 * g + o + n) : ∀ (l : List SbEntry) (y : Bool), l.any (·.granule == g) = true →
    seenBit (changeNewest g (·.merge o n x at_) l) b y = x.testBit (b - 8 * (32 * g + o))
  | [], _, h => by simp at h
  | e :: l, y, h => by
    have ih := fun y => seenBit_changeNewest_inside g o n x at_ b ho hb l y
    unfold changeNewest
    split
    · rename_i h1
      simp only [seenBit, List.foldl_cons] at *; exact ih _ h1
    · rename_i h1
      have he : e.granule = g := by
        simp only [List.any_cons, Bool.or_eq_true, beq_iff_eq] at h
        rcases h with h | h
        · exact h
        · exact absurd h h1
      rw [if_pos he]
      have hrest : ∀ (l : List SbEntry) (y : Bool), l.any (·.granule == g) = false → seenBit l b y = y := by
        intro l
        induction l with
        | nil => intro y _; rfl
        | cons d l ihl =>
          intro y hl
          simp only [List.any_cons, Bool.or_eq_false_iff, beq_eq_false_iff_ne] at hl
          simp only [seenBit, List.foldl_cons]
          rw [if_neg]
          · exact ihl y hl.2
          · simp only [SbEntry.covers, Bool.and_eq_true, decide_eq_true_eq]
            intro hc; apply hl.1; omega
      simp only [seenBit, List.foldl_cons]
      rw [if_pos]
      · have := hrest l ((e.merge o n x at_).bitAt b) (by simpa using h1)
        rw [seenBit] at this
        rw [this]
        unfold SbEntry.bitAt
        show (e.merge o n x at_).data.getLsbD (b - 256 * e.granule) = _
        rw [e.merge_bit o n x at_ _ ho (by omega), if_pos (by omega)]
        congr 1; omega
      · rw [e.merge_covers o n x at_ _ ho]
        simp only [Bool.and_eq_true, decide_eq_true_eq, Bool.or_eq_true]
        exact ⟨by omega, .inr (by omega)⟩

/-- A narrow store's bytes are seen by the A-core at once (R62, R136, R293). -/
theorem Tile.sbNarrow_inside (t : Tile) (f n x : Nat) (at_ : StoreTime) (b : Nat) (hn : f % 32 + n ≤ 32) (hb : f ≤ b / 8 ∧ b / 8 < f + n) (y : Bool) :
    seenBit (t.sbNarrow f n x at_).sb b y = x.testBit (b - 8 * f) := by
  have hf : f = 32 * (f / 32) + f % 32 := by omega
  unfold Tile.sbNarrow
  split
  · rename_i hm
    have := seenBit_changeNewest_inside (f / 32) (f % 32) n x at_ b hn (by omega) t.sb y hm
    rw [← hf] at this
    exact this
  · unfold Tile.sbNew
    simp only [seenBit, List.foldl_append, List.foldl_cons, List.foldl_nil]
    have ha : b / 8 % 32 < 32 := Nat.mod_lt _ (by omega)
    rw [if_pos]
    · simp only [SbEntry.bitAt]
      rw [BitVec.getLsbD_ofNat, decide_eq_true (show b - 256 * (f / 32) < 256 by omega), Bool.true_and, Nat.testBit_shiftLeft,
        Nat.testBit_mod_two_pow, decide_eq_true (show b - 256 * (f / 32) ≥ 8 * (f % 32) by omega), Bool.true_and]
      have h3 : b - 256 * (f / 32) - 8 * (f % 32) = b - 8 * f := by omega
      rw [h3, decide_eq_true (show b - 8 * f < 8 * n by omega), Bool.true_and]
    · simp only [SbEntry.covers, Bool.and_eq_true, decide_eq_true_eq]
      refine ⟨by omega, ?_⟩
      rw [BitVec.getLsbD_ofNat, decide_eq_true ha, Bool.true_and, Nat.testBit_shiftLeft, Nat.testBit_two_pow_sub_one]
      simp only [Bool.and_eq_true, decide_eq_true_eq]
      omega

end Sys2Proof.Machine
end

