-- ==== Sys2Proof/Tests/Slice0.lean ====
section
/-!
SUPPORT. Sys2Proof/Tests/Slice0.lean: words written out from the spec's encodings (R271–R281, R310) decode to their
instructions; ill-formed terms are refused; and for every statement with hypotheses a state and operands that meet them.
-/
namespace Sys2Proof.Tests
open Sys2Proof Sys2Proof.Machine
set_option Elab.async false

/-! ## Words of the opcode table (R280, R281) -/

theorem test_decode_first_words :
  ∀ x ∈ ([(0x70A6, .ximm 166#8), (0x716A, .xreg true true 10#5), (0x7202, .page 2#2), (0x7355, .memq 5#4 2#3 true),
    (0x7496, .nfmt 9#4 6#4), (0x75D0, .guard 6#3 true)] : List (BitVec 16 × Instr)),
    (decode 0 x.1).toOption = some x.2 := by decide +kernel

theorem test_decode_page0_row0 :
  ∀ x ∈ ([(0x0000, .nop false), (0x8100, .endStrand true), (0x02B5, .br false 5#3 true 5#4), (0x83A6, .jmp true 166#8),
    (0x04A6, .call false 166#8), (0x8500, .ret true), (0x0606, .jmpr false 6#4), (0x87A5, .jmpt true 10#4 5#4),
    (0x08B5, .loop false 5#3 21#5), (0x89D5, .brq true true 85#7), (0x0AC0, .pusho false 6#3),
    (0x8BAA, .await true 5#3 10#5), (0x0C05, .chain false 5#4), (0x8DA6, .trap true 166#8),
    (0x0EA6, .restartpt false 166#8), (0x8FA6, .fence true 166#8)] : List (BitVec 16 × Instr)),
    (decode 0 x.1).toOption = some x.2 := by decide +kernel

theorem test_decode_page0_row1 :
  ∀ x ∈ ([(0x1059, .mov false 5#4 9#4), (0x9196, .movi true 9#4 6#4), (0x126A, .ldc false 6#4 10#4),
    (0x93A5, .add true 10#4 5#4), (0x1459, .sub false 5#4 9#4), (0x9596, .addi true 9#4 6#4),
    (0x166A, .mul false 6#4 10#4), (0x97A5, .mulh true 10#4 5#4), (0x1859, .madd false 5#4 9#4),
    (0x9996, .div true 9#4 6#4), (0x1A6A, .rem false 6#4 10#4), (0x9BA5, .and true 10#4 5#4),
    (0x1C59, .or false 5#4 9#4), (0x9D96, .xor true 9#4 6#4), (0x1E6A, .andi false 6#4 10#4),
    (0x9FA5, .shl true 10#4 5#4)] : List (BitVec 16 × Instr)),
    (decode 0 x.1).toOption = some x.2 := by decide +kernel

theorem test_decode_page0_row2 :
  ∀ x ∈ ([(0x2059, .shr false 5#4 9#4), (0xA196, .sra true 9#4 6#4), (0x226A, .shli false 6#4 10#4),
    (0xA3A5, .shri true 10#4 5#4), (0x2459, .srai false 5#4 9#4), (0xA596, .rotl true 9#4 6#4),
    (0x266A, .min false 6#4 10#4), (0xA7A5, .max true 10#4 5#4), (0x2859, .minu false 5#4 9#4),
    (0xA996, .maxu true 9#4 6#4), (0x2A6A, .clz false 6#4 10#4), (0xABA5, .popc true 10#4 5#4),
    (0x2C59, .ext false 5#4 9#4), (0xAD96, .ins true 9#4 6#4), (0x2ED5, .cmpeq false 6#3 21#5),
    (0xAFAA, .cmpne true 5#3 10#5)] : List (BitVec 16 × Instr)),
    (decode 0 x.1).toOption = some x.2 := by decide +kernel

theorem test_decode_page0_row3 :
  ∀ x ∈ ([(0x3055, .cmplt false 2#3 21#5), (0xB1CA, .cmple true 6#3 10#5), (0x32B5, .cmpltu false 5#3 21#5),
    (0xB34A, .cmpleu true 2#3 10#5), (0x34D5, .plog false 6#3 5#3 1#2), (0xB5A1, .pset true 5#3 true),
    (0x3660, .pget false 6#4), (0xB70A, .pput true 10#4), (0x3859, .ldb false 5#4 9#4), (0xB996, .ldh true 9#4 6#4),
    (0x3A6A, .ldw false 6#4 10#4), (0xBBA5, .ldd true 10#4 5#4), (0x3C49, .ldv false 1#2 9#4),
    (0xBD96, .stb true 9#4 6#4), (0x3E6A, .sth false 6#4 10#4),
    (0xBFA5, .stw true 10#4 5#4)] : List (BitVec 16 × Instr)),
    (decode 0 x.1).toOption = some x.2 := by decide +kernel

theorem test_decode_page0_row4 :
  ∀ x ∈ ([(0x4059, .std false 5#4 9#4), (0xC186, .stv true true 6#4), (0x4275, .wld false 1#2 6#3 5#3),
    (0xC3A8, .wst true true 5#3), (0x44A9, .wset false 5#3 9#4), (0xC55A, .wfeed true 2#3 true 10#4),
    (0x466A, .zerof false 6#4 10#4), (0xC7A2, .wstat true 10#4 2#3), (0x4849, .cpy false 2#3 9#4),
    (0xC9C6, .cpyw true 6#3 6#4), (0x4AAA, .cpym false 5#3 10#4), (0xCB40, .cpyx true 2#3),
    (0x4CC9, .hwalk false 6#3 9#4), (0xCD96, .hpermit true 9#4 6#4), (0x4E6A, .lndset false 6#4 10#4),
    (0xCFCA, .fld true 6#3 10#5)] : List (BitVec 16 × Instr)),
    (decode 0 x.1).toOption = some x.2 := by decide +kernel

theorem test_decode_page0_row5 :
  ∀ x ∈ ([(0x5059, .fst false 5#4 9#4), (0xD190, .cstat true 9#4), (0x5265, .cmov false 6#4 5#3),
    (0xD3A5, .lease true 10#4 5#4), (0x5459, .vadd false 5#4 9#4), (0xD596, .vsub true 9#4 6#4),
    (0x566A, .vmul false 6#4 10#4), (0xD7A5, .vfma true 10#4 5#4), (0x5859, .vmax false 5#4 9#4),
    (0xD996, .vmin true 9#4 6#4), (0x5A6A, .vcmp false 6#4 10#4), (0xDBA5, .vsel true 10#4 5#4),
    (0x5C59, .vlogic false 5#4 9#4), (0xDD96, .vshift true 9#4 6#4), (0x5E6A, .vcvt false 6#4 10#4),
    (0xDFA5, .vred true 10#4 5#4)] : List (BitVec 16 × Instr)),
    (decode 0 x.1).toOption = some x.2 := by decide +kernel

theorem test_decode_page0_row6 :
  ∀ x ∈ ([(0x6059, .vscan false 5#4 9#4), (0xE196, .vperm true 9#4 6#4), (0x626A, .vbcast false 6#4 10#4),
    (0xE3A5, .vext true 10#4 5#4), (0x6450, .viota false 5#4), (0xE596, .vexp2 true 9#4 6#4),
    (0x666A, .vrcp false 6#4 10#4), (0xE7A5, .vfkey true 10#4 5#4), (0x6801, .mzero false 1#2),
    (0xE9B0, .mma true 2#2 6#3), (0x6A68, .mmas false 1#2 5#3), (0xEB8A, .mdrain true 2#2 10#5),
    (0x6C55, .cbload false 1#2 21#5), (0xED8A, .attn true 2#2 10#5), (0x6E55, .attnfin false 1#2 21#5),
    (0xEFA5, .qrot true 10#4 5#4)] : List (BitVec 16 × Instr)),
    (decode 0 x.1).toOption = some x.2 := by decide +kernel

theorem test_decode_page1_row0 :
  ∀ x ∈ ([(0x0059, .fadd false 5#4 9#4), (0x8196, .fsub true 9#4 6#4), (0x026A, .fmul false 6#4 10#4),
    (0x83A5, .fma true 10#4 5#4), (0x0459, .fdiv false 5#4 9#4), (0x8596, .fsqrt true 9#4 6#4),
    (0x066A, .fmin false 6#4 10#4), (0x87A5, .fmax true 10#4 5#4), (0x0855, .fcmpeq false 2#3 21#5),
    (0x89CA, .fcmplt true 6#3 10#5), (0x0AB5, .fcmple false 5#3 21#5), (0x8BA5, .fcvt true 10#4 5#4),
    (0x0C59, .fclass false 5#4 9#4), (0x8D96, .divu true 9#4 6#4),
    (0x0E6A, .remu false 6#4 10#4)] : List (BitVec 16 × Instr)),
    (decode 1 x.1).toOption = some x.2 := by decide +kernel

theorem test_decode_page1_row1 :
  ∀ x ∈ ([(0x90A5, .vrsqrt true 10#4 5#4), (0x1159, .vhist false 5#4 9#4), (0x9296, .vtopk true 9#4 6#4),
    (0x136A, .vsamp false 6#4 10#4), (0x94A0, .qstat true 10#4)] : List (BitVec 16 × Instr)),
    (decode 1 x.1).toOption = some x.2 := by decide +kernel

theorem test_decode_page1_row2 :
  ∀ x ∈ ([(0x2000, .arrive false), (0xA100, .waitb true), (0x226A, .gatom false 6#4 10#4),
    (0xA3A5, .gcas true 10#4 5#4), (0x2459, .gred false 5#4 9#4), (0xA596, .futw true 9#4 6#4),
    (0x2655, .futr false 2#3 21#5), (0xA7CA, .salloc true 6#3 10#5), (0x2805, .sfree false 5#4),
    (0xA909, .signal true 9#4)] : List (BitVec 16 × Instr)),
    (decode 1 x.1).toOption = some x.2 := by decide +kernel

theorem test_decode_page1_row3 :
  ∀ x ∈ ([(0x30D5, .tclaim false 6#3 21#5), (0xB1A5, .tpatch true 10#4 5#4), (0x3205, .tarm false 5#4),
    (0xB396, .book true 9#4 6#4), (0x346A, .calq false 6#4 10#4), (0xB5A5, .unlease true 10#4 5#4),
    (0x3659, .gparam false 5#4 9#4), (0xB796, .gpset true 9#4 6#4),
    (0x3806, .tfree false 6#4)] : List (BitVec 16 × Instr)),
    (decode 1 x.1).toOption = some x.2 := by decide +kernel

theorem test_decode_page1_row4 :
  ∀ x ∈ ([(0xC0A5, .fpush true 10#4 5#4), (0x4159, .fret false 5#4 9#4), (0xC209, .fshare true 9#4),
    (0x4306, .fdrop false 6#4), (0xC4A5, .fappend true 10#4 5#4), (0x4555, .fcompact false 2#3 21#5),
    (0xC696, .finfo true 9#4 6#4), (0x4706, .beammap false 6#4), (0xC80A, .pfxlook true 10#4),
    (0x4959, .pfxput false 5#4 9#4), (0xCA96, .pfxpin true 9#4 6#4), (0x4B06, .pfxunpin false 6#4),
    (0xCCA5, .bhash true 10#4 5#4), (0x4DA9, .cpyf false 5#3 9#4)] : List (BitVec 16 × Instr)),
    (decode 1 x.1).toOption = some x.2 := by decide +kernel

theorem test_decode_page1_row6 :
  ∀ x ∈ ([(0xE096, .sysrd true 9#4 6#4), (0x616A, .syswr false 6#4 10#4), (0xE2A5, .rett true 10#4 5#4),
    (0x6359, .xprobe false 5#4 9#4)] : List (BitVec 16 × Instr)),
    (decode 1 x.1).toOption = some x.2 := by decide +kernel

/-- A page-1 row's number in the table is its PAGE word above its own word (R275). -/
theorem test_table_words :
    decodeTableWord 16 0x1343 = some (.add false 4#4 3#4) ∧ decodeTableWord 32 0x72010012 = some (.fadd false 1#4 2#4) ∧
    decodeTableWord 32 0x72010F00 = none ∧ decodeTableWord 16 0x7600 = none := by decide +kernel

/-- R276, R279: a marked prefix word, reserved opcodes and nonzero zero fields are refused by name. -/
theorem test_refused_words :
    (match decode 0 0xF155#16 with | .error .prefixMarker => true | _ => false) = true ∧
    (match decode 0 0x7800#16 with | .error .reservedOpcode => true | _ => false) = true ∧
    (match decode 1 0x5000#16 with | .error .reservedOpcode => true | _ => false) = true ∧
    (match decode 0 0x0001#16 with | .error .nonzeroField => true | _ => false) = true ∧
    (match decode 2 0x1343#16 with | .error .reservedPage => true | _ => false) = true := by decide +kernel

/-! ## Ill-formed terms -/

theorem test_ill_formed_words :
    ∀ i ∈ ([.page 0#2, .page 3#2, .memq 0#4 6#3 false, .wld false 0#2 0#3 4#3, .mdrain false 0#2 13#5,
      .attnfin false 0#2 30#5, .reservedEncoding 0x0000#16] : List Instr), i.wellFormed = false := by decide +kernel

theorem test_ill_formed_events :
    ∀ i ∈ ([.verdictReturn 1024 .a, .resultWrite 1024 .e, .loadQueueFill 0 6, .loadQueueFill 1024 0, .storeDrain 1024,
      .feedAccess 1024 true, .feedEntryLand 1024 false, .feedPoison 1024 .e, .mxCommandStart 1024, .mxOwedPush 1024,
      .attnRowRead 1024, .mxCommandEnd 1024, .residueCheck 1024 true, .barrierTreeDisagree 0 2, .barrierTreeDisagree 4 0,
      .continuationReady 4 0, .continuationReady 0 65536, .furrowBoundary 4, .codeStaging 0 16384, .stagingComplete 0 64,
      .debugStop 0 .a 5, .harrowWalkStart 1024, .harrowTileStart 1024, .invalidationArrival 0 24, .spill 16,
      .sensorSample 4, .bandCoolHold 4, .timingSetSwitch 4, .attestationRequest 16 0, .spdmSessionOpen 16, .debugResume 16 0 0,
      .wintabWrite 64 0 0, .errstatRead 16, .linkFlitReceive ⟨16, true⟩ true, .linkPortDown 16, .linkRekey ⟨16, true⟩ 0,
      .hostRequestPerform 16, .cxlSnoop 2 0, .serviceWatchdog 16, .tailUpdate 0 4, .coalescingTimer 16 0, .fibreSetup 16,
      .fibreTeardown 16, .pagePool 16, .recordWrite 16, .gpWrite 16, .go 16, .invalidateByPage 16, .invalidateByTenant 16,
      .preEmpt 16, .resume 16, .teardown 16, .compactionResume 16, .poisonClear 16, .configurationWrite 16, .lock 16, .drain 16,
      .shutdown 16, .ringSetup 16, .unknownCommand 16, .lockInterface 16, .getDeviceInterfaceReport 16, .startInterface 16,
      .stopInterface 16] : List Instr), i.wellFormed = false := by decide +kernel

theorem test_ill_formed_requests :
    let part : RemotePart :=
      { drill := 0, target := 0, source := 0, stream := 0, seq := 0, window := 0, key := 0, write := false, pa := 0, bytes := 8, data := [], hops := 0 }
    let asg : Assignment :=
      { ctx := 0, clusters := [], vtiles := [], keyIds := [], xlroot := 0, rotbase := 0, tbudget := 0, prectl := 0
        tenantKey := none, windows := [] }
    ∀ i ∈ ([.remotePartArrival { part with drill := 24 }, .remotePartArrival { part with window := 64 },
      .remotePartArrival { part with bytes := 0 }, .remotePartArrival { part with write := true, data := [0#8] },
      .contextAssign { asg with ctx := 16 }, .contextAssign { asg with clusters := [(4, 0)] },
      .contextAssign { asg with clusters := [(0, 16)] },
      .contextAssign { asg with windows := [(64, 0, 0)] }] : List Instr), i.wellFormed = false := by decide +kernel

/-! ## States that meet the statements' hypotheses -/

/-- A run of one tile, tile 0, that books everything and whose scratch is the whole field store. -/
def aRun : Run :=
  { die := 0, idx := 0, handle := 0, ctx := 0, fibre := 0, mask := 0xFFFF, origin := 0, width := 1, height := 1
    codeBase := 0, codeLen := 4096, scratch := (0, 64), chan := none, chain := none, cont := none, awaitSide := none
    retts := [], barrier := none, stop := none, culprit := none, halting := false, haltAt := 0 }

/-- An entry of the store buffer of one store. -/
def anEntry (id g : Nat) (mask : BitVec 32) (data : BitVec 256) (commit : Nat) : SbEntry :=
  { id := id, granule := g, mask := mask, data := data, commit := commit, parts := [⟨⟨0, commit⟩, mask, data⟩] }

/-- A strand that runs, with a PLATCH. -/
def aStrand (pl : BitVec 128) : Strand := { Strand.reset with phase := .run, regs := { Regs.reset with platch := pl } }

/-- A tile of that run with both strands running. -/
def aTile (pl : BitVec 128) : Tile :=
  { Tile.reset with owner := some 0#4, keyOk := true, key := 1, run := some 0, a := aStrand pl, e := aStrand pl }

/-- The state with strand σ of tile 0 in focus, its tile and run changed. -/
def aState (σ : Side) (pl : BitVec 128) (f : Tile → Tile) (g : Run → Run) : State :=
  { State.reset with mstate := .run, clockOn := true, who := some (0, σ), tiles := [(0, f (aTile pl))], runs := [(0, g aRun)] }

/-- The state has a strand in focus of which `p` holds. -/
def Meets (s : State) (p : Env → Prop) : Prop := ∃ e, s.focus = some e ∧ p e

/-- The registers of strand σ changed. -/
def regsBe (σ : Side) (f : Regs → Regs) (t : Tile) : Tile := t.modRegs σ f

/-- A field store whose granule 2, at 0x40, has an error and cannot be rebuilt. -/
def deadRow (t : Tile) : Tile := { t with field := { t.field with dead := [2, 131072 + stripeOf 2] } }

/-- A scalar register set. -/
def sBe (n : Nat) (v : Word) (r : Regs) : Regs := r.sset n v

/-- PLATCH with PAGE 1; with XREG of an operand byte; with both; with NFMT. -/
def pl1 : BitVec 128 := plAddPage 0 1
def plX (x : BitVec 7) : BitVec 128 := plAddXreg 0 x
def pl1X (x : BitVec 7) : BitVec 128 := plAddXreg pl1 x


/-- A field store whose bytes from `a` on are the words of the list. -/
def fieldBe (a : Nat) (ws : List Word) (t : Tile) : Tile :=
  { t with field := { t.field with mem := Memory.write [] a (8 * ws.length) (ws.foldr (fun w acc => w.toNat + 2 ^ 64 * acc) 0) } }

/-- A home-unit request of tile 0 that has been sent. -/
def aRequest (op : HomeOp) (reply : Option HomeReply) : HomeReq :=
  { tile := 0, side := .a, run := 0, op := op, issue := 0, bad := none, live := 0, release := false, reach := 8, cost := 8
    lat := 24, sentAt := some 0, sbMark := 0, reply := reply }

/-! ### Words in general, integers, transfers -/

theorem witness_WordsThatDoNotRun :
    Meets (aState .a 0 (regsBe .a (·.post 5 (.s 1 0) 0#5)) id) (fun e => e.r.out ≠ []) ∧
    Meets (aState .a (plAddGuard 0 1#3 false) id id) (fun e =>
      (true = true → e.r.out = []) ∧ e.hazard (guardTouch e.pl) = false ∧ e.nullified = true ∧ formD.stage1 e.pl e.σ = true ∧
      formJ.stage1 e.pl e.σ = true ∧ formD2.aOnly.stage1 e.pl e.σ = true ∧ formZ.stage1 e.pl e.σ = true) ∧
    (0x8001#16).getLsbD 15 = true :=
  ⟨⟨_, rfl, by decide +kernel⟩, ⟨_, rfl, by decide +kernel⟩, by decide⟩

theorem witness_BadWordsTrap :
    Meets (aState .a 0 (regsBe .a fun r => { r.post 5 (.s 1 0) 0#5 with st := 1#16 }) id) (fun e =>
      (false = true → e.r.out = []) ∧ formD.stage1 e.pl e.σ = true ∧ e.hazard (guardTouch e.pl) = false ∧ e.nullified = false ∧
      e.r.checked = true ∧ e.r.outstanding (tS 1) = true ∧
      tS 1 ∈ [tS (dNum e.pl 1#4), tS (dSources e.pl 1#4 2#4).1, tS (dSources e.pl 1#4 2#4).2]) ∧
    Meets (aState .a pl1 id id) (fun e => (true = true → e.r.out = []) ∧ formD.stage1 e.pl e.σ = false ∧
      formD2.aOnly.stage1 e.pl e.σ = false) ∧
    Meets (aState .e 0 id id) (fun e => formD3.stage1 e.pl e.σ = false) :=
  ⟨⟨_, rfl, by decide +kernel⟩, ⟨_, rfl, by decide +kernel⟩, ⟨_, rfl, by decide +kernel⟩⟩

theorem witness_RetiredWordGoesOn :
    let s := aState .a 0 id id
    Meets s (fun e => ∀ x ∈ ((s.tile e.k).regs e.σ).loops, x.stop ≠ ((s.tile e.k).regs e.σ).pc) :=
  ⟨_, rfl, by decide +kernel⟩

theorem witness_PrefixWordLatches :
    let full : BitVec 128 := plAddXimm (plAddXimm (plAddXimm (plAddXimm 0 1#8) 2#8) 3#8) 4#8
    Meets (aState .e (plAddXimm 0 1#8) id id) (fun e => plWords e.pl ≠ 4 ∧ plXcount e.pl ≠ 4 ∧ plXreg e.pl = false ∧ plPage e.pl = 0 ∧
      plMemq e.pl = false ∧ plNfmt e.pl = false ∧ plGuard e.pl = false) ∧
    (2#2 ≠ 0#2 ∧ 2#2 ≠ 3#2) ∧ (5#3 : BitVec 3).toNat ≤ 5 ∧ 5 < (6#3 : BitVec 3).toNat ∧
    Meets (aState .e full id id) (fun e => plWords e.pl = 4 ∧ plXcount e.pl = 4) ∧
    Meets (aState .e (plAddGuard (plAddNfmt (plAddMemq pl1 1) 1) 1#3 true) id id) (fun e => plWords e.pl = 4) ∧
    Meets (aState .e (plAddNfmt (plAddXreg pl1 1#7) 1) id id) (fun e => plXreg e.pl = true ∧ plPage e.pl ≠ 0 ∧ plNfmt e.pl = true) ∧
    Meets (aState .e (plAddGuard (plAddMemq 0 1) 1#3 true) id id) (fun e => plMemq e.pl = true ∧ plGuard e.pl = true) :=
  ⟨⟨_, rfl, by decide +kernel⟩, by decide, by decide, by decide, ⟨_, rfl, by decide +kernel⟩, ⟨_, rfl, by decide +kernel⟩, ⟨_, rfl, by decide +kernel⟩,
    ⟨_, rfl, by decide +kernel⟩⟩

theorem witness_IntegerResults :
    Meets (aState .a 0 id id) (fun e =>
      e.runs true formD false [tS (dNum e.pl 15#4), tS (dSources e.pl 15#4 15#4).1, tS (dSources e.pl 15#4 15#4).2] = true) ∧
    Meets (aState .e (pl1X 0x7F#7) id id) (fun e =>
      e.runs true formD.page1 false [tS (dNum e.pl 15#4), tS (dSources e.pl 15#4 15#4).1, tS (dSources e.pl 15#4 15#4).2] = true) :=
  ⟨⟨_, rfl, by decide +kernel⟩, ⟨_, rfl, by decide +kernel⟩⟩

theorem witness_MovesAndImmediates :
    Meets (aState .a 0 id id) (fun e => e.runs false formD2 false [tS (dNum e.pl 0#4), tS (aNum e.pl 15#4)] = true ∧
      e.runs false (formI 4) false [tS (dNum e.pl 0#4)] = true ∧ e.runs false formI63 false [tS (dNum e.pl 0#4)] = true) ∧
    Meets (aState .a (plX 0x01#7) (regsBe .a (sBe 1 0x2020#64)) id) (fun e =>
      e.runs false formD3 false [tS (dNum e.pl 0#4), tS (aNum e.pl 2#4), tS (bNum e.pl)] = true ∧
      fieldPos (e.r.sget (bNum e.pl)) + fieldLen (e.r.sget (bNum e.pl)) = 64) ∧
    Meets (aState .a (plX 0x01#7) (regsBe .a (sBe 1 0x2021#64)) id) (fun e =>
      e.runs false formD3 false [tS (dNum e.pl 0#4), tS (aNum e.pl 2#4), tS (bNum e.pl)] = true ∧
      64 < fieldPos (e.r.sget (bNum e.pl)) + fieldLen (e.r.sget (bNum e.pl))) ∧
    Meets (aState .a 0 (regsBe .a fun r => { r with pc := 4#64 }) id) (fun e => e.runs false (formI 4) false [tS (dNum e.pl 0#4)] = true ∧
      (let la := (addrNext e.r).toNat + 2 * immU e.pl 4 (1#4 : BitVec 4).toNat
       la % 8 = 0 ∧ e.run.codeBase ≤ la ∧ la + 8 ≤ e.run.codeBase + e.run.codeLen) ∧
      ((addrNext e.r).toNat + 2 * immU e.pl 4 (2#4 : BitVec 4).toNat) % 8 ≠ 0) ∧
    Meets (aState .a 0 (regsBe .a fun r => { r with pc := 4094#64 }) id) (fun e => e.runs false (formI 4) false [tS (dNum e.pl 0#4)] = true ∧
      (let la := (addrNext e.r).toNat + 2 * immU e.pl 4 (0#4 : BitVec 4).toNat
       la % 8 = 0 ∧ e.run.codeBase + e.run.codeLen < la + 8)) :=
  ⟨⟨_, rfl, by decide +kernel⟩, ⟨_, rfl, by decide +kernel⟩, ⟨_, rfl, by decide +kernel⟩, ⟨_, rfl, by decide +kernel⟩,
    ⟨_, rfl, by decide +kernel⟩⟩

theorem witness_PredicateResults :
    Meets (aState .e 0 id id) (fun e =>
      e.runs true formC false ([tP 7, tS 31] ++ (if plXreg e.pl then [tS (bNum e.pl)] else [])) = true ∧
      e.runs true formZ false [tP 7, tP 0] = true ∧ e.runs true formZ false [tP 0] = true ∧
      e.runs true formDd false (tS (dNum e.pl 15#4) :: allPreds) = true ∧
      e.runs true formDa false (tS (aNum e.pl 15#4) :: allPreds.drop 1) = true) ∧
    Meets (aState .e pl1 id id) (fun e => e.runs true { formZ with page := 1 } false [tS 15] = true) ∧
    Meets (aState .a 0 (regsBe .a fun r => { r with out := [{ due := some 3, cmd := 0, val := .counts 15, flags := 0 }] }) id) (fun e =>
      (e.t.regs .a).out = [{ due := some 3, cmd := 0, val := .counts (15#4 : BitVec 4).toNat, flags := 0 }]) ∧
    (∃ e t, (aState .a 0 id id).focus = some e ∧ exec (.pset false 0#3 true) (aState .a 0 id id) = .next t) :=
  ⟨⟨_, rfl, by decide +kernel⟩, ⟨_, rfl, by decide +kernel⟩, ⟨_, rfl, by decide +kernel⟩, ⟨_, _, rfl, rfl⟩⟩

theorem witness_TransferTargets :
    Meets (aState .e 0 id id) (fun e => e.runs false formZ false [] = true ∧ e.runs false formJ false [tP 7] = true ∧
      e.runs false formJ false [] = true ∧ e.runs false formJ false [tS 31] = true ∧ e.runs false formZ false [tS 31] = true ∧
      e.runs false formDa false [tS (aNum e.pl 15#4)] = true) :=
  ⟨_, rfl, by decide +kernel⟩

theorem witness_TableTransfer :
    Meets (aState .a (plX 0x01#7) (regsBe .a fun r => ((r.sset 3 5#64).sset 2 256#64).sset 1 32767#64) id) (fun e =>
      e.runs false formD3 false [tS (dNum e.pl 3#4), tS (aNum e.pl 2#4), tS (bNum e.pl)] = true ∧
      (let i := (e.r.sget (dNum e.pl 3#4)).toNat
       let t := e.r.sget (aNum e.pl 2#4)
       let n := (e.r.sget (bNum e.pl)).toNat
       let f := wbits t 0 22 + 2 * min i n
       t.getLsbD 0 = false ∧ n ≤ 32767 ∧ portACheck e.t e.run f 2 2 = none ∧ e.t.isDead f 2 = false ∧
       e.t.fieldRead (e.σ == .a) (e.now + 1) f 2 % 2 = 0)) ∧
    Meets (aState .e (plX 0x01#7) (regsBe .e (sBe 1 32768#64)) id) (fun e =>
      e.runs false formD3 false [tS (dNum e.pl 3#4), tS (aNum e.pl 2#4), tS (bNum e.pl)] = true ∧
      32767 < (e.r.sget (bNum e.pl)).toNat) ∧
    Meets (aState .a (plX 0x01#7) (fun t => { regsBe .a (sBe 2 256#64) t with keyOk := false }) id) (fun e =>
      portACheck e.t e.run 256 2 2 = some (trip codeSecurity)) ∧
    Meets (aState .a (plX 0x01#7) (fun t => fieldBe 256 [1] (regsBe .a (sBe 2 256#64) t)) id) (fun e =>
      portACheck e.t e.run 256 2 2 = none ∧ e.t.isDead 256 2 = false ∧ e.t.fieldRead (e.σ == .a) (e.now + 1) 256 2 % 2 = 1) ∧
    Meets (aState .a (plX 0x01#7) (fun t => deadRow (regsBe .a (sBe 2 0x40#64) t)) id) (fun e =>
      e.runs false formD3 false [tS (dNum e.pl 3#4), tS (aNum e.pl 2#4), tS (bNum e.pl)] = true ∧
      portACheck e.t e.run 0x40 2 2 = none ∧ e.t.isDead 0x40 2 = true) :=
  ⟨⟨_, rfl, by decide +kernel⟩, ⟨_, rfl, by decide +kernel⟩, ⟨_, rfl, by decide +kernel⟩, ⟨_, rfl, by decide +kernel⟩,
    ⟨_, rfl, by decide +kernel⟩⟩

/-- Two nested loops that end with the same word, the inner one at its last round and the outer one with n rounds left. -/
def sharedEnd (n : Word) : Regs :=
  { (Regs.reset.lset 7 1#64).lset 6 n with pc := 8, loops := [⟨4, 8, 7⟩, ⟨2, 8, 6⟩] }

theorem witness_Loops :
    let bad (e : Env) : Bool := e.run.inCode (e.r.pc + 2#64 + 2#64 * w64 (immU e.pl 5 3)).toNat 2 &&
      isPrefixWord (e.t.codeWord (e.r.pc + 2#64 + 2#64 * w64 (immU e.pl 5 3)).toNat)
    Meets (aState .a 0 (fun t => { t with store := { base := 0, len := 4096, mem := [(9, 0x70#8)] } }) id) (fun e =>
      e.runs true { formJ with guard := false } false [] = true ∧ bad e = true) ∧
    Meets (aState .a 0 id id) (fun e => bad e = false ∧ e.r.lget 7 = 0#64) ∧
    Meets (aState .a 0 (regsBe .a (·.lset 7 1#64)) id) (fun e => bad e = false ∧ e.r.lget 7 ≠ 0#64 ∧ e.r.loops.length < 4) ∧
    Meets (aState .a 0 (regsBe .a fun r => { r.lset 7 1#64 with loops := List.replicate 4 ⟨0, 8, 0⟩ }) id) (fun e =>
      bad e = false ∧ e.r.lget 7 ≠ 0#64 ∧ e.r.loops.length = 4) ∧
    (let r : Regs := { Regs.reset.lset 7 2#64 with pc := 8, loops := [⟨0, 8, 7⟩] }
     r.loops = ⟨0, 8, 7⟩ :: [] ∧ (8 : Word) = r.pc ∧ 1 < (r.lget 7).toNat) ∧
    (let r : Regs := { Regs.reset.lset 7 1#64 with pc := 8, loops := [⟨0, 8, 7⟩, ⟨0, 10, 6⟩] }
     (r.lget 7).toNat ≤ 1 ∧ ∀ y ∈ [(⟨0, 10, 6⟩ : LoopEntry)], y.stop ≠ r.pc) :=
  ⟨⟨_, rfl, by decide +kernel⟩, ⟨_, rfl, by decide +kernel⟩, ⟨_, rfl, by decide +kernel⟩, ⟨_, rfl, by decide +kernel⟩,
    by decide +kernel, by decide +kernel⟩

theorem witness_Loops_shared (n : Word) :
    (sharedEnd n).loops = ⟨4, 8, 7⟩ :: ⟨2, 8, 6⟩ :: [] ∧ (8 : Word) = (sharedEnd n).pc ∧ ((sharedEnd n).lget 7).toNat = 1 ∧
      (sharedEnd n).lget 6 = n := ⟨rfl, rfl, rfl, rfl⟩

/-- R323: the inner entry pops at the shared end, and the outer one is checked in the same cycle. -/
theorem test_shared_end :
    ((sharedEnd 2).retire none).pc = 2#64 ∧ ((sharedEnd 2).retire none).lget 6 = 1#64 ∧ ((sharedEnd 2).retire none).lget 7 = 0#64 ∧
    ((sharedEnd 1).retire none).pc = 10#64 ∧ ((sharedEnd 1).retire none).loops = [] := by decide +kernel

theorem witness_OutcomeQueues :
    let full (n : Nat) : OutQueue := { ents := List.replicate n (true, 0), popCycle := 0, popCount := 0 }
    Meets (aState .a 0 (fun t => { t with oqAE := full 15 }) id) (fun e => e.runs true formZ true [tP 7] = true ∧
      (e.t.outQ e.σ).used e.now < 16) ∧
    Meets (aState .a 0 (fun t => { t with oqAE := full 16 }) id) (fun e => 16 ≤ (e.t.outQ e.σ).used e.now) ∧
    Meets (aState .e 0 id id) (fun e => e.runs true formJ true [] = true ∧ (e.t.inQ e.σ).head e.now = none) ∧
    Meets { aState .e 0 (fun t => { t with oqAE := full 1 }) id with cycle := 9 } (fun e => (e.t.inQ e.σ).head e.now = some true) :=
  ⟨⟨_, rfl, by decide +kernel⟩, ⟨_, rfl, by decide +kernel⟩, ⟨_, rfl, by decide +kernel⟩, ⟨_, rfl, by decide +kernel⟩⟩

theorem witness_TrapIsTaken : Meets (aState .e 0 id id) (fun e => e.runs true formZ true [] = true) :=
  ⟨_, rfl, by decide +kernel⟩

theorem witness_StrandEnds :
    Meets (aState .a 0 id id) (fun e => e.runs true formBare true [] = true ∧ e.s.sideEnded e.k (sideOther e.σ) = false) ∧
    Meets (aState .a 0 (fun t => { t with e := { t.e with phase := .ended false }, sb := [anEntry 0 0 0 0 0], oqAE := ⟨[(true, 0)], 0, 0⟩ }) id)
      (fun e => e.s.sideEnded e.k (sideOther e.σ) = true ∧ e.t.hasResidue = true) ∧
    Meets { aState .a 0 (fun t => { t with e := { t.e with home := some 3 }, oqAE := ⟨[(true, 0)], 0, 0⟩ }) id with
        homes := [(3, aRequest (.await 0 0 0 0 none) (some { trap := none, res := [], ends := true }))] }
      (fun e => e.s.sideEnded e.k (sideOther e.σ) = true ∧ e.t.hasResidue = true) :=
  ⟨⟨_, rfl, by decide +kernel⟩, ⟨_, rfl, by decide +kernel⟩, ⟨_, rfl, by decide +kernel⟩⟩

theorem witness_BarriersAndRestartPoints :
    Meets (aState .a pl1 id fun r => { r with mask := 0 }) (fun e => e.runs true formZ1 true [] = true ∧ e.run.mask.getLsbD 12 = false) ∧
    Meets (aState .a pl1 (fun t => { t with arrived := true }) id) (fun e => e.run.mask.getLsbD 12 = true ∧ e.t.arrived = true) ∧
    Meets (aState .a pl1 id fun r => { r with width := 2 }) (fun e => e.t.arrived = false ∧
      ∃ j ∈ e.run.members, ((e.s.setTile e.k { e.t with arrived := true }).tile j).arrived = false) ∧
    Meets (aState .a pl1 id id) (fun e => e.t.run = some 0 ∧
      ∀ j ∈ e.run.members, ((e.s.setTile e.k { e.t with arrived := true }).tile j).arrived = true) ∧
    Meets (aState .e 0 id id) (fun e => e.runs true formBare true [] = true ∧ e.t.mx.idle = true ∧
      (e.t.strand (sideOther e.σ)).hasEnded = false ∧ (e.t.strand (sideOther e.σ)).restart = none) ∧
    Meets (aState .e 0 (fun t => { t with a := { t.a with restart := some 255 }, store := ⟨0, 4096, [(2040, 0xFF#8), (2045, 0xFF#8)]⟩ }) id)
      (fun e => (e.t.strand (sideOther e.σ)).restart = some (255#8 : BitVec 8).toNat ∧
        e.run.inCode (e.run.codeBase + 8 * 255) 8 = true ∧
        popcount (e.t.code64 (e.run.codeBase + 8 * 255)).toNat 64 ≤ 16 ∧ e.t.hasResidue = false ∧ e.t.mx.idle = true) :=
  ⟨⟨_, rfl, by decide +kernel⟩, ⟨_, rfl, by decide +kernel⟩, ⟨_, rfl, by decide +kernel⟩, ⟨_, rfl, by decide +kernel⟩,
    ⟨_, rfl, by decide +kernel⟩, ⟨_, rfl, by decide +kernel⟩⟩

/-! ### Field memory, copies, far accesses -/

/-- The walker descriptor of one entry per dimension at address 0x100. -/
def oneRow : List Word := [0x100, 1, 1, 1, 1, 0, 0, 0]

/-- The walker it sets. -/
def aWalker : Walker :=
  { base := 0x100, pe := false, counts := #v[1, 1, 1, 1], strides := #v[0, 0, 0, 0], idx := #v[0, 0, 0, 0] }

/-- A state with register 2 of the A-strand holding an address, and PLATCH 0. -/
def at2 (a : Word) (f : Tile → Tile) : State := aState .a 0 (fun t => f (regsBe .a (sBe 2 a) t)) id

theorem witness_ScalarLoads :
    ∀ n ∈ [1, 2, 4, 8],
      Meets (at2 (BitVec.ofNat 64 (0x400000 - n)) id) (fun e => e.pipeTaken = false ∧
        e.runs true formD2.aOnly false [tS (dNum e.pl 1#4), tS (aNum e.pl 2#4)] = true ∧
        portACheck e.t e.run ((e.r.sget (aNum e.pl 2#4)).toNat % 2 ^ 22) n n = none ∧
        e.t.isDead ((e.r.sget (aNum e.pl 2#4)).toNat % 2 ^ 22) n = false) ∧
      Meets (at2 0x40 deadRow) (fun e =>
        portACheck e.t e.run 0x40 n n = none ∧ e.t.isDead 0x40 n = true) ∧
      Meets (at2 0x40 fun t => { t with keyOk := false }) (fun e => portACheck e.t e.run 0x40 n n = some (trip codeSecurity)) := by
  intro n hn
  simp only [List.mem_cons, List.not_mem_nil, or_false] at hn
  rcases hn with rfl | rfl | rfl | rfl <;>
    exact ⟨⟨_, rfl, by decide +kernel⟩, ⟨_, rfl, by decide +kernel⟩, ⟨_, rfl, by decide +kernel⟩⟩

theorem witness_ScalarStores :
    let some16 (n : Nat) : List SbEntry := List.replicate n (anEntry 0 9 1 0 0)
    Meets (at2 0x40 fun t => { t with sb := [anEntry 0 2 1 0 0] }) (fun e => e.pipeTaken = false ∧
      e.runs true formD2.aOnly false [tS (dNum e.pl 1#4), tS (aNum e.pl 2#4)] = true ∧ portACheck e.t e.run 0x40 8 8 = none ∧
      e.t.sbMergeable 2 = true) ∧
    Meets (at2 0x40 fun t => { t with sb := some16 15 }) (fun e => portACheck e.t e.run 0x40 8 8 = none ∧
      e.t.sbMergeable 2 = false ∧ e.t.isDead 0x40 8 = false ∧ e.t.sb.length < 16) ∧
    Meets (at2 0x40 fun t => { t with sb := some16 16 }) (fun e => portACheck e.t e.run 0x40 8 8 = none ∧
      e.t.sbMergeable 2 = false ∧ e.t.isDead 0x40 8 = false ∧ 16 ≤ e.t.sb.length) ∧
    Meets (at2 0x41 id) (fun e => portACheck e.t e.run 0x41 8 8 = some (trip codeIllegal)) ∧
    Meets (at2 0x40 deadRow) (fun e => portACheck e.t e.run 0x40 8 8 = none ∧ e.t.sbMergeable 2 = false ∧ e.t.isDead 0x40 8 = true) :=
  ⟨⟨_, rfl, by decide +kernel⟩, ⟨_, rfl, by decide +kernel⟩, ⟨_, rfl, by decide +kernel⟩, ⟨_, rfl, by decide +kernel⟩,
    ⟨_, rfl, by decide +kernel⟩⟩

theorem witness_PortAChecksInOrder :
    let t := aTile 0
    (1 % 2 ≠ 0) ∧ (0 % 2 = 0 ∧ { t with keyOk := false }.keyOk = false) ∧
    (t.keyOk = true ∧ t.inRange aRun 0x400000 2 = false) ∧
    (t.inRange aRun 0 2 = true ∧ ({ aRun with mask := 0 } : Run).groupsBooked 0 2 = false) ∧
    (aRun.groupsBooked 0 2 = true ∧ { t with field := { t.field with flight := [(0, [1])] } }.inFlight 0 2 = true) ∧
    (t.inRange aRun 0x3FFFFE 2 = true ∧ aRun.groupsBooked 0x3FFFFE 2 = true ∧ t.inFlight 0x3FFFFE 2 = false) := by decide +kernel

theorem witness_RowLoadsAndStores :
    let q (n : Nat) : Queue := { ents := List.replicate n ⟨0, 0, 0, true⟩, popCycle := 0, popCount := 0 }
    Meets (at2 0x3FFF00 id) (fun e => e.pipeTaken = false ∧ e.runs true formZ.aOnly false [tS 2] = true ∧
      (e.t.lqget 3).room e.now = true ∧ portACheck e.t e.run 0x3FFF00 256 256 = none ∧ e.t.isDead 0x3FFF00 256 = false) ∧
    Meets (at2 0 fun t => { t with lq := Vector.replicate 4 (q 8) }) (fun e => (e.t.lqget 3).room e.now = false) ∧
    Meets (at2 0 id) (fun e => e.runs true formZ.aOnly true [tS 2] = true ∧ (e.t.sqget 1).ready 1 = false) ∧
    Meets (at2 0 fun t => { t with sq := Vector.replicate 2 (q 1), sb := List.replicate 8 (anEntry 0 9 1 0 0) }) (fun e =>
      (e.t.sqget 1).ready 1 = true ∧ portACheck e.t e.run 0 256 256 = none ∧ e.t.sb.length + 8 ≤ 16) :=
  ⟨⟨_, rfl, by decide +kernel⟩, ⟨_, rfl, by decide +kernel⟩, ⟨_, rfl, by decide +kernel⟩, ⟨_, rfl, by decide +kernel⟩⟩

theorem witness_RowLoadsAndStores_trap :
    let q : Queue := { ents := [⟨0, 0, 0, true⟩], popCycle := 0, popCount := 0 }
    Meets (at2 0x40 id) (fun e => e.pipeTaken = false ∧ e.runs true formZ.aOnly false [tS 2] = true ∧ (e.t.lqget 3).room e.now = true ∧
      portACheck e.t e.run 0x40 256 256 = some (trip codeIllegal)) ∧
    Meets (at2 0 deadRow) (fun e => e.runs true formZ.aOnly false [tS 2] = true ∧ (e.t.lqget 3).room e.now = true ∧
      portACheck e.t e.run 0 256 256 = none ∧ e.t.isDead 0 256 = true) ∧
    Meets (at2 0 fun t => { t with sq := Vector.replicate 2 q, sb := List.replicate 9 (anEntry 0 9 1 0 0) }) (fun e =>
      e.runs true formZ.aOnly true [tS 2] = true ∧ (e.t.sqget 1).ready 1 = true ∧ portACheck e.t e.run 0 256 256 = none ∧
      16 < e.t.sb.length + 8) ∧
    Meets (at2 0x40 fun t => { t with sq := Vector.replicate 2 q }) (fun e => e.runs true formZ.aOnly true [tS 2] = true ∧
      (e.t.sqget 1).ready 1 = true ∧ portACheck e.t e.run 0x40 256 256 = some (trip codeIllegal)) :=
  ⟨⟨_, rfl, by decide +kernel⟩, ⟨_, rfl, by decide +kernel⟩, ⟨_, rfl, by decide +kernel⟩, ⟨_, rfl, by decide +kernel⟩⟩

theorem witness_ZeroFill :
    let fill (a n : Word) (f : Tile → Tile) : State := at2 a fun t => f (regsBe .a (sBe 1 n) t)
    let ok (e : Env) : Bool := e.runs true formD2.aOnly false [tS (dNum e.pl 1#4), tS (aNum e.pl 2#4)]
    Meets (fill 0 33 id) (fun e => e.pipeTaken = false ∧ (e.t.strand e.σ).zerof = none ∧ ok e = true ∧ (e.r.sget 1).toNat % 32 ≠ 0) ∧
    Meets (fill 0 0 id) (fun e => ok e = true ∧ (e.r.sget 1).toNat = 0) ∧
    Meets (fill 32 224 id) (fun e => (e.r.sget 1).toNat % 32 = 0 ∧ 0 < (e.r.sget 1).toNat ∧ (e.r.sget 1).toNat ≤ 0x400000 ∧
      portACheck e.t e.run 32 224 32 = none ∧ 32 + (e.r.sget 1).toNat ≤ 256 * (32 / 256) + 256 ∧ e.t.sb.length + 224 / 32 ≤ 16) ∧
    Meets (fill 32 256 id) (fun e => portACheck e.t e.run 32 256 32 = none ∧ 256 * (32 / 256) + 256 < 32 + (e.r.sget 1).toNat ∧
      e.t.sb.length + (256 - 32) / 32 ≤ 16) ∧
    Meets (fill 32 256 fun t => t.setStrand .a { t.a with zerof := some (256, 512) }) (fun e =>
      (e.t.strand e.σ).zerof = some (256, 512) ∧ 512 ≤ 256 * (256 / 256) + 256 ∧ e.t.sb.length + (512 - 256) / 32 ≤ 16) :=
  ⟨⟨_, rfl, by decide +kernel⟩, ⟨_, rfl, by decide +kernel⟩, ⟨_, rfl, by decide +kernel⟩, ⟨_, rfl, by decide +kernel⟩,
    ⟨_, rfl, by decide +kernel⟩⟩

theorem witness_ZeroFill_waits :
    let fill (a n : Word) (f : Tile → Tile) : State := at2 a fun t => f (regsBe .a (sBe 1 n) t)
    let ok (e : Env) : Bool := e.runs true formD2.aOnly false [tS (dNum e.pl 1#4), tS (aNum e.pl 2#4)]
    let taken (n : Nat) (t : Tile) : Tile := { t with sb := List.replicate n (anEntry 0 9 1 0 0) }
    Meets (fill 0 0x400020 id) (fun e => ok e = true ∧ 0x400000 < (e.r.sget 1).toNat) ∧
    Meets (fill 1 32 id) (fun e => ok e = true ∧ (e.r.sget 1).toNat % 32 = 0 ∧ portACheck e.t e.run 1 32 32 = some (trip codeIllegal)) ∧
    Meets (fill 32 256 (taken 10)) (fun e => ok e = true ∧ portACheck e.t e.run 32 256 32 = none ∧
      16 < e.t.sb.length + (min (32 + (e.r.sget 1).toNat) (256 * (32 / 256) + 256) - 32) / 32) ∧
    Meets (fill 0 256 fun t => taken 9 (t.setStrand .a { t.a with zerof := some (256, 1024) })) (fun e =>
      (e.t.strand e.σ).zerof = some (256, 1024) ∧ 16 < e.t.sb.length + (min 1024 (256 * (256 / 256) + 256) - 256) / 32) ∧
    Meets (fill 0 256 fun t => taken 8 (t.setStrand .a { t.a with zerof := some (256, 1024) })) (fun e =>
      (e.t.strand e.σ).zerof = some (256, 1024) ∧ 256 * (256 / 256) + 256 < 1024 ∧
      e.t.sb.length + (256 * (256 / 256) + 256 - 256) / 32 ≤ 16) :=
  ⟨⟨_, rfl, by decide +kernel⟩, ⟨_, rfl, by decide +kernel⟩, ⟨_, rfl, by decide +kernel⟩, ⟨_, rfl, by decide +kernel⟩,
    ⟨_, rfl, by decide +kernel⟩⟩

theorem witness_WalkerWords :
    let held (t : Tile) : Tile := { t with w := Vector.replicate 8 (some aWalker) }
    let q : Queue := { ents := [⟨0, 0, 0, true⟩], popCycle := 0, popCount := 0 }
    Meets (at2 0x40 (fieldBe 0x40 oneRow)) (fun e => e.pipeTaken = false ∧
      e.runs true formZ.aOnly false [.w 7, tS 2] = true ∧ e.t.feedUses 7 = false ∧ portACheck e.t e.run 0x40 64 64 = none ∧
      e.t.isDead 0x40 64 = false ∧ Walker.ofWords (wordAt (e.t.fieldRead true e.now 0x40 64)) = some aWalker) ∧
    Meets (at2 1 held) (fun e => e.t.wget 7 = some aWalker ∧ e.t.feedUses 7 = false ∧
      e.runs true formZ.aOnly false (walkTouch e 7) = true ∧ (e.t.lqget 3).room e.now = true ∧
      walkCheck e.t e.run aWalker.addr (32 <<< 3) = none ∧ e.t.isDead aWalker.addr.toNat (32 <<< 3) = false ∧
      e.runs true formZ.aOnly true [.w 7, tS 2] = true ∧ e.t.feedB = none ∧ 0 < (e.r.sget 2).toNat ∧ (e.r.sget 2).toNat ≤ 65536 ∧
      feedCheck e.t e.run aWalker (e.r.sget 2).toNat = none ∧ e.runs true formZ.aOnly false [tS 2, .w 7] = true) ∧
    Meets (at2 0 fun t => { held t with sq := Vector.replicate 2 q }) (fun e => e.t.wget 7 = some aWalker ∧ e.t.feedUses 7 = false ∧
      e.runs true formZ.aOnly true (walkTouch e 7) = true ∧ (e.t.sqget 1).ready 1 = true ∧
      walkCheck e.t e.run aWalker.addr 256 = none ∧ e.t.sb.length + 8 ≤ 16) ∧
    Meets (at2 0 id) (fun e => e.t.wget 7 = none ∧ e.runs true formZ.aOnly false [tS 2, .w 7] = true) :=
  ⟨⟨_, rfl, by decide +kernel⟩, ⟨_, rfl, by decide +kernel⟩, ⟨_, rfl, by decide +kernel⟩, ⟨_, rfl, by decide +kernel⟩⟩

theorem witness_CountersLeasesAndProbes :
    let v1 (pl : BitVec 128) (v a : Word) (f : Tile → Tile) : State :=
      aState .a pl (fun t => f (regsBe .a (fun r => (r.sset 1 v).sset 2 a) t)) id
    let u (e : Env) : List Touch := [tS (dNum e.pl 1#4), tS (aNum e.pl 2#4)]
    Meets (v1 0 0xFFFFFFFF 0x40 id) (fun e => e.pipeTaken = false ∧ e.runs true formZ.aOnly false [tS 15] = true ∧
      e.runs true formD2.aOnly true (u e) = true ∧ (e.r.sget 1).toNat / 2 ^ 32 = 0 ∧ portACheck e.t e.run 0x40 16 16 = none ∧
      e.t.isDead 0x40 16 = false) ∧
    Meets (v1 0 0 64 id) (fun e => e.runs true formD2.aOnly true (u e ++ [tP 1]) = true ∧ 1 ≤ (e.r.sget (aNum e.pl 2#4)).toNat ∧
      (e.r.sget (aNum e.pl 2#4)).toNat ≤ 64) ∧
    Meets (v1 pl1 1 0x3F0000 fun t => { t with field := { t.field with lease := [(63, 0)] } }) (fun e => e.pipeTaken = false ∧
      e.runs true formD2.page1.aOnly true (u e) = true ∧ (e.r.sget 2).toNat % 65536 = 0 ∧ 1 ≤ (e.r.sget 1).toNat ∧
      (e.r.sget 2).toNat / 65536 + (e.r.sget 1).toNat ≤ 64 ∧
      ∀ i ∈ List.range' ((e.r.sget 2).toNat / 65536) (e.r.sget 1).toNat, e.t.leased e.run.fibre i = true) ∧
    Meets (v1 pl1 0 0x3FFFFF id) (fun e => e.runs true formD2.page1.aOnly false (u e) = true ∧ e.t.inRange e.run 0x3FFFE0 32 = true ∧
      e.run.groupsBooked 0x3FFFE0 32 = true) ∧
    Meets (aState .a pl1 id fun r => { r with scratch := (0, 0) }) (fun e => e.runs true formD2.page1.aOnly false (u e) = true ∧
      e.t.inRange e.run 0 32 = false) :=
  ⟨⟨_, rfl, by decide +kernel⟩, ⟨_, rfl, by decide +kernel⟩, ⟨_, rfl, by decide +kernel⟩, ⟨_, rfl, by decide +kernel⟩,
    ⟨_, rfl, by decide +kernel⟩⟩

/-- The copy descriptor that the 32 bytes at 0x40 hold. -/
def descAt (e : Env) : CopyDesc :=
  let v := e.t.fieldRead true e.now 0x40 32
  { w0 := wordAt v 0, w1 := wordAt v 1, w2 := wordAt v 2, w3 := wordAt v 3 }

theorem witness_CopiesFork :
    let framed (s : State) : State := s.modDie 0 fun d => { d with
      frames := [(0, { Frame.reset with gen := 1, w := #v[0x1000000000000000, 0, 0x1000000, 0, 0, 0, 0, 0] })] }
    (∀ x ∈ ([(.cpy, formZ.aOnly, [0x10000, 0x100, 32, 0]), (.cpyw, formZ.aOnly, [0x100, 0x10000, 32, 0]),
        (.cpym, formZ.aOnly, [0x10000, 0x100, 0x1000000000020, 0])] : List (CopyKind × Form × List Word)),
      ∃ e, (at2 0x40 (fieldBe 0x40 x.2.2)).focus = some e ∧ e.pipeTaken = false ∧ e.runs true x.2.1 true [tS 2] = true ∧
        portACheck e.t e.run 0x40 32 32 = none ∧ e.t.isDead 0x40 32 = false ∧ e.copyTrip x.1 7 (descAt e) = none) ∧
    Meets (at2 0x41 id) (fun e => portACheck e.t e.run 0x41 32 32 = some (trip codeIllegal)) ∧
    Meets (at2 0x40 fun t => t.cset 7 (cval 1 0 0)) (fun e => e.copyTrip .cpy 7 (descAt e) = some (trip codeIllegal)) ∧
    Meets (framed (aState .a pl1 (fun t => fieldBe 0x40 [0x4000100000000000, 0x100, 256, 0] (regsBe .a (sBe 2 0x40) t)) id)) (fun e =>
      e.runs true formZ1.aOnly true [tS 2] = true ∧ portACheck e.t e.run 0x40 32 32 = none ∧ e.t.isDead 0x40 32 = false ∧ e.copyTrip .cpyf 7 (descAt e) = none) := by
  refine ⟨?_, ⟨_, rfl, by decide +kernel⟩, ⟨_, rfl, by decide +kernel⟩, ⟨_, rfl, by decide +kernel⟩⟩
  intro x hx
  simp only [List.mem_cons, List.not_mem_nil, or_false] at hx
  rcases hx with rfl | rfl | rfl <;> exact ⟨_, rfl, by decide +kernel⟩

/-- A walk descriptor of one tile of 2 × 1 × 1 × 1 bytes in one slot of 512 bytes at 0x200. -/
def aWalkDesc : List Word :=
  [0x10000, 0x1000100010002, 0x1000100010002, 0, 0, 0x1000000000000, 0x1000000000000, 0x4000200]

/-- The walk descriptor that the 64 bytes at 0x40 hold. -/
def walkAt (e : Env) : WalkDesc := { w := Vector.ofFn fun i => wordAt (e.t.fieldRead true e.now 0x40 64) i.val }

/-- A walk of tile 0 that has been committed. -/
def aWalkOp (w : Walk) : Op :=
  { plane := 0, kind := .hwalk, tile := 0, side := .a, run := 0, ctx := 0, fibre := 0, creg := 7, desc := aWalkDesc, issue := 0, seq := 0
    sbMark := 0, length := 2, src := 0x10000, dst := 0x200, rotDst := none, counter := none, stream := 0, scope := 0
    acquire := false, release := false, members := [0], frame := none, sendAt := 0, value := 0, parts := [], credits := []
    landed := 0, cancel := false, spilled := false, walk := some w }

def freshWalk : Walk := { running := false, next := 0, permits := [], early := [], begun := [], busy := [], left := 0, gens := [] }

theorem witness_WalksAndCancels :
    let pending (t : Tile) : Tile := t.cset 7 (cval 1 0 0)
    Meets { aState .a 0 pending id with ops := [(0, aWalkOp freshWalk)] } (fun e => e.pipeTaken = false ∧
      e.runs true formZ.aOnly true [] = true ∧ e.s.pendingOp e.k 7 = some (0, aWalkOp freshWalk)) ∧
    Meets (aState .a 0 id id) (fun e => e.s.pendingOp e.k 7 = none) ∧
    Meets (aState .a 0 id fun r => { r with mask := 0 }) (fun e => e.runs true formZ.aOnly true [tS 2] = true ∧
      e.run.mask.getLsbD 6 = false ∧ e.runs true formD2.aOnly true [tS (dNum e.pl 1#4), tS (aNum e.pl 2#4)] = true) ∧
    Meets (aState .a 0 (fun t => { fieldBe 0x40 aWalkDesc (regsBe .a (sBe 2 0x40) t) with
        field := { (fieldBe 0x40 aWalkDesc t).field with lease := [(0, 0)] } }) id) (fun e =>
      e.runs true formZ.aOnly true [tS 2] = true ∧ e.run.mask.getLsbD 6 = true ∧ (e.s.walksOf e.k).length < 4 ∧
      portACheck e.t e.run 0x40 64 64 = none ∧ e.t.isDead 0x40 64 = false ∧ e.walkTrip 7 (walkAt e) = none) ∧
    Meets (aState .a 0 id id) (fun e => e.runs true formD2.aOnly true [tS (dNum e.pl 1#4), tS (aNum e.pl 2#4)] = true ∧
      e.run.mask.getLsbD 6 = true ∧ e.s.walkAt e.k ((e.r.sget (dNum e.pl 1#4)).toNat % 2 ^ 22) = none) ∧
    Meets { aState .a 0 (regsBe .a (sBe 1 0x200)) id with ops := [(0, aWalkOp freshWalk)] } (fun e => e.run.mask.getLsbD 6 = true ∧
      e.s.walkAt e.k ((e.r.sget (dNum e.pl 1#4)).toNat % 2 ^ 22) = some (0, aWalkOp freshWalk) ∧
      (e.r.sget (aNum e.pl 2#4)).toNat < (aWalkOp freshWalk).walkDesc.slots) :=
  ⟨⟨_, rfl, by decide +kernel⟩, ⟨_, rfl, by decide +kernel⟩, ⟨_, rfl, by decide +kernel⟩, ⟨_, rfl, by decide +kernel⟩,
    ⟨_, rfl, by decide +kernel⟩, ⟨_, rfl, by decide +kernel⟩⟩

theorem witness_FarAccessesAndFences :
    let fst : Form := { formD.aOnly with xzero := 0x18, memq := .all }
    let ok (e : Env) : Bool := e.runs true fst true [tS (dNum e.pl 1#4), tS (aNum e.pl 2#4)]
    Meets (aState .a 0 (regsBe .a fun r => (r.sset 30 8).sset 31 0x3FFFF8) id) (fun e =>
      e.runs true { formZ.aOnly with memq := .all } true [tS (30#5 : BitVec 5).toNat, tS ((30#5 : BitVec 5).toNat + 1)] = true ∧
      (30#5 : BitVec 5) ≠ 31#5 ∧ (e.r.sget 30).toNat % 8 = 0 ∧ (e.r.sget 31).toNat % 2 ^ 22 % 8 = 0 ∧ e.t.cstate 7 ≠ 1 ∧
      e.t.keyOk = true ∧ e.t.inRange e.run 0x3FFFF8 8 = true ∧ e.t.inFlight 0x3FFFF8 8 = false) ∧
    Meets (at2 4 id) (fun e => ok e = true ∧ (e.r.sget (aNum e.pl 2#4)).toNat % 8 ≠ 0) ∧
    Meets (at2 8 (·.cset 0 (cval 1 0 0))) (fun e => ok e = true ∧ e.t.cstate (bNum e.pl) = 1) ∧
    Meets (at2 8 id) (fun e => ok e = true ∧ (e.r.sget (aNum e.pl 2#4)).toNat % 8 = 0 ∧ e.t.cstate (bNum e.pl) ≠ 1) ∧
    Meets (aState .e 0 id id) (fun e => e.runs true { ximm := 1, memq := .scopeOnly } true [] = true ∧
      immU e.pl 8 (0#8 : BitVec 8).toNat = 0 ∧ immU e.pl 8 (255#8 : BitVec 8).toNat ≠ 0) :=
  ⟨⟨_, rfl, by decide +kernel⟩, ⟨_, rfl, by decide +kernel⟩, ⟨_, rfl, by decide +kernel⟩, ⟨_, rfl, by decide +kernel⟩,
    ⟨_, rfl, by decide +kernel⟩⟩

/-! ### Vectors, floating point, the MX, system registers, home units -/

/-- What `vectorGives` asks of a state, for a form and its source registers. -/
def vecMeets (f : Form) (pl : BitVec 128) (ds : Nat) (srcs : List Nat) : Prop :=
  Meets (aState .e pl id id) (fun e => e.runs true f.eOnly false (tV ds ++ srcs.flatMap tV) = true ∧
    (e.t.vread e.now srcs).isSome = true ∧ e.t.vroom ds e.now = true) ∧
  (srcs = [] ∨ Meets (aState .e pl id id) (fun e => e.t.vread e.now (28 :: srcs) = none))

theorem witness_VectorArithmetic :
    vecMeets formD 0 15 [15, 15] ∧ vecMeets formD (plX 0x00) 15 [15, 0] ∧ vecMeets formD2 0 15 [15] ∧
    vecMeets formD2.page1 pl1 15 [15] ∧
    Meets (aState .e (plX 0x60) id id) (fun e => dNum e.pl 11#4 = 27 ∧ dNum e.pl 13#4 = 29 ∧ aNum e.pl 12#4 = 28 ∧
      e.runs true formD2.eOnly false (tV (dNum e.pl 13#4) ++ [aNum e.pl 12#4].flatMap tV) = true ∧
      e.t.vroom (dNum e.pl 13#4) e.now = true ∧ e.t.vread e.now [aNum e.pl 12#4] = none) := by
  refine ⟨⟨⟨_, rfl, ?_⟩, .inr ⟨_, rfl, ?_⟩⟩, ⟨⟨_, rfl, ?_⟩, .inr ⟨_, rfl, ?_⟩⟩, ⟨⟨_, rfl, ?_⟩, .inr ⟨_, rfl, ?_⟩⟩,
    ⟨⟨_, rfl, ?_⟩, .inr ⟨_, rfl, ?_⟩⟩, ⟨_, rfl, ?_⟩⟩ <;> decide +kernel

/-- A tile whose store queues are full. -/
def fullSq (t : Tile) : Tile :=
  { t with sq := Vector.replicate 2 { ents := List.replicate 8 ⟨0, 0, 0, true⟩, popCycle := 0, popCount := 0 } }

theorem witness_VectorArithmetic_waits :
    Meets (aState .e (plX 0x40) fullSq id) (fun e => dNum e.pl 13#4 = 29 ∧
      e.runs true formD2.eOnly false (tV (dNum e.pl 13#4) ++ [aNum e.pl 15#4].flatMap tV) = true ∧
      (e.t.vread e.now [aNum e.pl 15#4]).isSome = true ∧ e.t.vroom (dNum e.pl 13#4) e.now = false) ∧
    Meets (aState .e (plX 0x40) fullSq id) (fun e => e.runs true formD3.eOnly false (tV 29 ++ tV 15 ++ tV 0) = true ∧
      (e.t.vread e.now [15, 0]).isSome = true ∧ e.t.vroom 29 e.now = false) := by
  refine ⟨⟨_, rfl, ?_⟩, ⟨_, rfl, ?_⟩⟩ <;> decide +kernel

theorem witness_VectorLanes_waits :
    Meets (aState .e (plX 0x2A) id id) (fun e => dNum e.pl 0#4 < 28 ∧ bits (plXregByte e.pl) 0 4 < 11 ∧ aNum e.pl 12#4 = 28 ∧
      e.t.vread e.now [aNum e.pl 12#4] = none ∧
      e.runs true ({ formD3 with xzero := 0x10 } : Form).eOnly false (tV (dNum e.pl 0#4) ++ tV (aNum e.pl 12#4)) = true) ∧
    Meets (aState .e (plAddNfmt (plX 0x60) 0x01) fullSq id) (fun e => dNum e.pl 13#4 < 30 ∧
      badConversion (nfmtA e.pl 0) (nfmtB e.pl 0) = false ∧ e.t.vread e.now [aNum e.pl 12#4] = none ∧
      e.t.vroom (dNum e.pl 13#4) e.now = false ∧ e.runs true ({ formD2 with nfmt := .must } : Form).eOnly false
        (tV (dNum e.pl 13#4) ++ tV (aNum e.pl 12#4) ++ cbTouch (nfmtA e.pl 0)) = true) ∧
    Meets (aState .e (plX 0x60) fullSq id) (fun e => dNum e.pl 13#4 < 30 ∧ e.t.vroom (dNum e.pl 13#4) e.now = false ∧
      e.runs true formD2.eOnly false (tS (aNum e.pl 12#4) :: tV (dNum e.pl 13#4)) = true) := by
  refine ⟨⟨_, rfl, ?_⟩, ⟨_, rfl, ?_⟩, ⟨_, rfl, ?_⟩⟩ <;> decide +kernel

theorem witness_VectorLanes :
    vecMeets formD3 (plX 0x03) 0 [15, 3] ∧ vecMeets { formD3 with xzero := 0x1C } (plX 0x03) 0 [15] ∧ vecMeets formD2 0 0 [15] ∧
    vecMeets formDd 0 0 [] ∧
    Meets (aState .e (plX 0x0A) id id) (fun e => dNum e.pl 0#4 < 28 ∧ bits (plXregByte e.pl) 0 4 < 11 ∧
      (e.t.vread e.now [aNum e.pl 15#4]).isSome = true ∧
      e.runs true ({ formD3 with xzero := 0x10 } : Form).eOnly false (tV (dNum e.pl 0#4) ++ tV (aNum e.pl 15#4) ++ cbTouch (nfmtA e.pl 0)) = true) ∧
    Meets (aState .e (plAddNfmt 0 0x01) id id) (fun e => badConversion (nfmtA e.pl 0) (nfmtB e.pl 0) = false ∧
      e.t.vroom (dNum e.pl 0#4) e.now = true ∧
      e.runs true ({ formD2 with nfmt := .must } : Form).eOnly false (tV (dNum e.pl 0#4) ++ tV (aNum e.pl 15#4) ++ cbTouch (nfmtA e.pl 0)) = true) ∧
    Meets (aState .e 0 id id) (fun e => e.t.vroom (dNum e.pl 0#4) e.now = true ∧
      e.runs true formD2.eOnly false (tS (aNum e.pl 15#4) :: tV (dNum e.pl 0#4)) = true) := by
  refine ⟨⟨⟨_, rfl, ?_⟩, .inr ⟨_, rfl, ?_⟩⟩, ⟨⟨_, rfl, ?_⟩, .inr ⟨_, rfl, ?_⟩⟩, ⟨⟨_, rfl, ?_⟩, .inr ⟨_, rfl, ?_⟩⟩,
    ⟨⟨_, rfl, ?_⟩, .inl rfl⟩, ⟨_, rfl, ?_⟩, ⟨_, rfl, ?_⟩, ⟨_, rfl, ?_⟩⟩ <;> decide +kernel

theorem witness_VectorSelections :
    Meets (aState .e (plAddXimm 0 0x0A) id id) (fun e => (e.t.vread e.now [aNum e.pl 15#4]).isSome = true ∧
      e.runs true { formD2.eOnly with ximm := 1, xneed := 1, izero := 0xF0, nfmt := .yes } false
        (tS (dNum e.pl 1#4) :: tV (aNum e.pl 15#4)) = true ∧ plXbits e.pl % 16 < 11 ∧ badRed e.pl = false) ∧
    Meets (aState .e (plAddXimm 0 0x3F) id id) (fun e =>
      e.runs true { formD2.eOnly with ximm := 1, xneed := 1, izero := 0xC0 } false (tS (dNum e.pl 1#4) :: tV (aNum e.pl 15#4)) = true) ∧
    Meets (aState .e (pl1X 0x02) id id) (fun e =>
      e.runs true formD3.page1.eOnly false (tS (dNum e.pl 1#4) :: tS (bNum e.pl) :: tV (aNum e.pl 15#4)) = true ∧
      e.runs true formD3.page1.eOnly false (tV (dNum e.pl 1#4) ++ tV (aNum e.pl 15#4) ++ [tS (bNum e.pl)]) = true ∧
      dNum e.pl 1#4 < 28 ∧ wbits (e.r.sget (bNum e.pl)) 2 14 = 0 ∧ wbits (e.r.sget (bNum e.pl)) 32 32 = 0) ∧
    Meets (aState .e (pl1X 0x42) id id) (fun e => (e.t.vread e.now [aNum e.pl 15#4, bNum e.pl]).isSome = true ∧ dNum e.pl 10#4 = 26 ∧
      e.runs true formD3.page1.eOnly false
        (tV (dNum e.pl 10#4) ++ tV (dNum e.pl 10#4 + 1) ++ tV (aNum e.pl 15#4) ++ tV (bNum e.pl)) = true) ∧
    Meets (aState .e 0 id id) (fun e => (e.t.vread e.now [(27#5 : BitVec 5).toNat]).isSome = true ∧
      e.runs true formZ.eOnly false (.cb 3 :: tV (27#5 : BitVec 5).toNat) = true) := by
  refine ⟨⟨_, rfl, ?_⟩, ⟨_, rfl, ?_⟩, ⟨_, rfl, ?_⟩, ⟨_, rfl, ?_⟩, ⟨_, rfl, ?_⟩⟩ <;> decide +kernel

theorem witness_VectorSelections_waits :
    Meets (aState .e (plAddXimm (plX 0x20) 0x0A) id id) (fun e => e.t.vread e.now [aNum e.pl 12#4] = none ∧
      e.runs true { formD2.eOnly with ximm := 1, xneed := 1, izero := 0xF0, nfmt := .yes } false
        (tS (dNum e.pl 1#4) :: tV (aNum e.pl 12#4)) = true ∧ plXbits e.pl % 16 < 11 ∧ badRed e.pl = false ∧
      e.runs true { formD2.eOnly with ximm := 1, xneed := 1, izero := 0xC0 } false (tS (dNum e.pl 1#4) :: tV (aNum e.pl 12#4)) = true) ∧
    Meets (aState .e (pl1X 0x22) id id) (fun e => e.t.vread e.now [aNum e.pl 12#4] = none ∧
      e.runs true formD3.page1.eOnly false (tS (dNum e.pl 1#4) :: tS (bNum e.pl) :: tV (aNum e.pl 12#4)) = true ∧
      e.runs true formD3.page1.eOnly false (tV (dNum e.pl 1#4) ++ tV (aNum e.pl 12#4) ++ [tS (bNum e.pl)]) = true ∧
      dNum e.pl 1#4 < 28 ∧ wbits (e.r.sget (bNum e.pl)) 2 14 = 0 ∧ wbits (e.r.sget (bNum e.pl)) 32 32 = 0 ∧
      e.t.vread e.now [aNum e.pl 12#4, bNum e.pl] = none ∧ e.runs true formD3.page1.eOnly false
        (tV (dNum e.pl 1#4) ++ tV (dNum e.pl 1#4 + 1) ++ tV (aNum e.pl 12#4) ++ tV (bNum e.pl)) = true) ∧
    Meets (aState .e 0 id id) (fun e => e.t.vread e.now [(28#5 : BitVec 5).toNat] = none ∧
      e.runs true formZ.eOnly false (.cb 3 :: tV (28#5 : BitVec 5).toNat) = true) := by
  refine ⟨⟨_, rfl, ?_⟩, ⟨_, rfl, ?_⟩, ⟨_, rfl, ?_⟩⟩ <;> decide +kernel

theorem witness_ScalarFloats :
    Meets (aState .e pl1 id id) (fun e =>
      e.runs true formD.page1.eOnly false [tS (dNum e.pl 0#4), tS (dSources e.pl 0#4 15#4).1, tS (dSources e.pl 0#4 15#4).2] = true ∧
      e.runs true formD2.page1.eOnly false ([tS (dNum e.pl 0#4), tS (aNum e.pl 15#4)] ++ cbTouch (nfmtA e.pl 0)) = true ∧
      e.runs true formC.page1.eOnly false ([tP 7, tS 31] ++ (if plXreg e.pl then [tS (bNum e.pl)] else [])) = true) ∧
    Meets (aState .e (pl1X 0x1F) id id) (fun e =>
      e.runs true formD3.page1.eOnly false [tS (dNum e.pl 0#4), tS (aNum e.pl 15#4), tS (bNum e.pl)] = true) ∧
    Meets (aState .e (plAddNfmt pl1 0x01) id id) (fun e =>
      e.runs true { formD2.page1.eOnly with nfmt := .must } false ([tS (dNum e.pl 0#4), tS (aNum e.pl 15#4)] ++ cbTouch (nfmtA e.pl 0)) = true ∧
      badConversion (nfmtA e.pl 0) (nfmtB e.pl 0) = false) ∧
    Meets (aState .e (plAddNfmt pl1 0x00) id id) (fun e =>
      e.runs true { formD2.page1.eOnly with nfmt := .must } false ([tS (dNum e.pl 0#4), tS (aNum e.pl 15#4)] ++ cbTouch (nfmtA e.pl 0)) = true ∧
      badConversion (nfmtA e.pl 0) (nfmtB e.pl 0) = true) := by
  refine ⟨⟨_, rfl, ?_⟩, ⟨_, rfl, ?_⟩, ⟨_, rfl, ?_⟩, ⟨_, rfl, ?_⟩⟩ <;> decide +kernel

theorem witness_MatrixCommands :
    let uses (d : Nat) : List Touch := (List.range 16).flatMap fun i => if d < 28 then tV (d + i) else []
    let mma : Form := { formZ.eOnly with nfmt := .yes }
    let mmaUse (e : Env) : List Touch := cbTouch (nfmtA e.pl 1) ++ cbTouch (nfmtB e.pl 1)
    Meets (aState .e 0 (regsBe .e fun r => (r.lset 7 65536).sset 31 0x3FA000) id) (fun e => e.run.mask.getLsbD 1 = true ∧
      e.runs true formZ.eOnly false [] = true ∧ e.runs true mma false (mmaUse e) = true ∧ (e.r.lget 7).toNat ≤ 65536 ∧
      mmaFormat false (nfmtA e.pl 1) = true ∧ mmaFormat true (nfmtB e.pl 1) = true ∧
      (∀ d ∈ [12, 28, 29], e.runs true mma false (uses d) = true) ∧ plNfmt e.pl = false ∧
      e.runs true formZ.eOnly false [tS 31, .fd] = true ∧ (e.r.sget 31).toNat / 2 ^ 48 = 0 ∧ (e.r.sget 31).getLsbD 22 = false ∧
      (e.r.sget 31).toNat % 2 ^ 22 % 256 = 0 ∧ e.t.keyOk = true ∧ e.t.inRange e.run 0x3FA000 24576 = true ∧
      e.run.groupsBooked 0x3FA000 24576 = true ∧ e.t.inFlightBut (e.s.copiesNow e.k) 0x3FA000 24576 = false ∧
      e.runs true formZ.eOnly false (tV 29) = true ∧ e.runs true formZ.eOnly false (tV 27) = true) ∧
    Meets (aState .e 0 id fun r => { r with mask := 0 }) (fun e => e.run.mask.getLsbD 1 = false ∧
      e.runs true formZ.eOnly false [] = true ∧ e.runs true mma false (mmaUse e) = true ∧
      (∀ d ∈ [12, 28, 29], e.runs true mma false (uses d) = true) ∧ e.runs true formZ.eOnly false [tS 31, .fd] = true ∧
      e.runs true formZ.eOnly false (tV 29) = true ∧ e.runs true formZ.eOnly false (tV 27) = true) := by
  refine ⟨⟨_, rfl, ?_⟩, ⟨_, rfl, ?_⟩⟩ <;> decide +kernel

theorem witness_SystemRegisters :
    let num (n : BitVec 8) : BitVec 128 := plAddXimm pl1 n
    Meets (aState .a (num 0) id id) (fun e => e.runs true formSys false [tS (dNum e.pl 1#4)] = true ∧
      sysScope (immU e.pl 4 (0#4 : BitVec 4).toNat) = some .strand ∧ sysReadBarred (immU e.pl 4 (0#4 : BitVec 4).toNat) e.σ = false) ∧
    Meets (aState .e (num 3) id id) (fun e => sysScope (immU e.pl 4 (5#4 : BitVec 4).toNat) = some .wide ∧
      sysScope (immU e.pl 4 (6#4 : BitVec 4).toNat) = none ∧
      e.runs true formSys (sysScope (immU e.pl 4 (6#4 : BitVec 4).toNat) != some .strand) [tS (dNum e.pl 1#4)] = true ∧
      sysWritable (immU e.pl 4 (6#4 : BitVec 4).toNat) = false) ∧
    Meets (aState .a (num 0) id id) (fun e => sysReadBarred (immU e.pl 4 (4#4 : BitVec 4).toNat) e.σ = true ∧
      sysWriteBarred (immU e.pl 4 (4#4 : BitVec 4).toNat) e.σ = true) ∧
    Meets (aState .e (num 2) id id) (fun e => sysWritable (immU e.pl 4 (6#4 : BitVec 4).toNat) = true ∧
      immU e.pl 4 (6#4 : BitVec 4).toNat ≠ 0x21 ∧ sysWriteBarred (immU e.pl 4 (6#4 : BitVec 4).toNat) e.σ = false ∧
      e.sysBad (immU e.pl 4 (6#4 : BitVec 4).toNat) (e.r.sget (dNum e.pl 1#4)) = false) ∧
    Meets (aState .a (num 2) id id) (fun e => immU e.pl 4 (1#4 : BitVec 4).toNat = 0x21 ∧ formSys.stage1 e.pl e.σ = true) := by
  refine ⟨⟨_, rfl, ?_⟩, ⟨_, rfl, ?_⟩, ⟨_, rfl, ?_⟩, ⟨_, rfl, ?_⟩, ⟨_, rfl, ?_⟩⟩ <;> decide +kernel

theorem goes_through_full (x : ContRec) (n : Nat) (c i fuel : Nat) (h : n ≤ i + c) :
    lowestFree.go (fun _ => false) n fuel i ((List.range' i c).map fun j => (j, x)) = none := by
  induction c generalizing i fuel with
  | zero => cases fuel <;> simp [lowestFree.go, show ¬ i < n by omega]
  | succ c ih => cases fuel <;> simp [lowestFree.go, List.range'_succ, ih (i + 1) _ (by omega)]

/-- A state with every continuation record of die 0 reserved. -/
def noContLeft (pl : BitVec 128) (f : Regs → Regs) : State :=
  (aState .a pl (regsBe .a f) id).modDie 0 fun d =>
    { d with conts := (List.range' 0 contPool).map fun j => (j, { ContRec.reset with held := true }) }

/-- The records of a pool that are all reserved hold no free one. -/
theorem none_free (n : Nat) :
    lowestFree ((List.range' 0 n).map fun j => (j, { ContRec.reset with held := true })) (fun c => c.state == 0 && !c.held) n = none := by
  have hf : ∀ (m : List (Nat × ContRec)), (∀ p ∈ m, p.2.held = true) → ∀ fuel i,
      lowestFree.go (fun c => c.state == 0 && !c.held) n fuel i m = lowestFree.go (fun _ => false) n fuel i m := by
    intro m hm fuel
    induction fuel generalizing m with
    | zero => intro i; rfl
    | succ fuel ih =>
      intro i
      cases m with
      | nil => rfl
      | cons p r =>
        obtain ⟨j, x⟩ := p
        have hx : x.held = true := hm (j, x) (by simp)
        have hr : ∀ p ∈ r, p.2.held = true := fun p hp => hm p (by simp [hp])
        simp only [lowestFree.go, hx, ih r hr]
        simp
  rw [lowestFree, hf _ (by simp), goes_through_full _ _ _ _ _ (by omega)]

theorem witness_noContLeft (pl : BitVec 128) (f : Regs → Regs) :
    Meets (noContLeft pl f) (fun e => dieOf e.k = 0) ∧ (noContLeft pl f).reserveCont 0 = none := by
  have h := none_free contPool
  generalize hn : (lowestFree ((List.range' 0 contPool).map fun j => (j, { ContRec.reset with held := true }))
    (fun c => c.state == 0 && !c.held) contPool) = y at h
  refine ⟨⟨_, rfl, (rfl : dieOf 0 = 0)⟩, ?_⟩
  rw [State.reserveCont, show lowestFree ((noContLeft pl f).die 0).conts (fun c => c.state == 0 && !c.held) contPool = y from hn, h]

theorem witness_GranaryAndTaskRequests :
    let three (e : Env) : List Touch := [tS (dNum e.pl 1#4), tS (aNum e.pl 2#4), tS (bNum e.pl)]
    let two (e : Env) : List Touch := [tS (dNum e.pl 1#4), tS (aNum e.pl 2#4)]
    Meets (aState .a (plAddXimm (pl1X 0x03) 0x07) id id) (fun e => e.runs true formGatom true (three e) = true) ∧
    Meets (aState .a (plAddMemq (pl1X 0x03) 0x01) id id) (fun e => e.runs true formGran3 true (three e) = true) ∧
    Meets (aState .a (pl1X 0x03) id id) (fun e => e.runs true formD3.page1 true (three e) = true) ∧
    Meets (aState .a pl1 id id) (fun e => e.runs true formGran2 true (two e) = true ∧ e.runs true formGranX true [tS 31, tP 7] = true ∧
      (e.s.reserveCont (dieOf e.k)).isSome = true ∧ e.runs true formZ1 true [tS 31, tP 7] = true ∧
      e.runs true formDa.page1 true [tS (aNum e.pl 2#4)] = true ∧ e.runs true formI63.page1 true [tS (dNum e.pl 1#4)] = true ∧
      e.runs true formGranA true [tS (aNum e.pl 2#4)] = true ∧ e.runs true formD2.page1 true (two e) = true ∧
      e.runs true { formD2.page1 with guard := false } true (two e) = true ∧ e.r.sget (dNum e.pl 1#4) = 0) ∧
    Meets (aState .a pl1 (regsBe .a (sBe 1 0x3FE000)) id) (fun e => e.r.sget (dNum e.pl 1#4) ≠ 0#64 ∧
      (e.r.sget (dNum e.pl 1#4)).toNat % 8192 = 0 ∧ (e.r.sget (dNum e.pl 1#4)).toNat < 2 ^ 22) ∧
    Meets (aState .a 0 id id) (fun e => e.runs true formDa true [tS (aNum e.pl 2#4)] = true ∧
      e.runs true formZ true [tS 31, tP 7] = true ∧ awaitGran (e.r.sget 31) = false) ∧
    Meets (aState .a 0 (regsBe .a (sBe 31 0x3000000000000000)) id) (fun e => e.runs true formZ true [tS 31, tP 7] = true ∧
      awaitGran (e.r.sget 31) = true) ∧
    Meets (aState .a 0 (regsBe .a (sBe 30 0x3000000000000000)) id) (fun e => e.runs true formZ true [tP 7, tS 30, tS 31] = true ∧
      awaitGran (e.r.sget 30) = true ∧ (e.s.reserveCont (dieOf e.k)).isSome = true) ∧
    Meets (noContLeft 0 (sBe 30 0x3000000000000000)) (fun e => e.runs true formZ true [tP 7, tS 30, tS 31] = true ∧
      awaitGran (e.r.sget 30) = true ∧ e.awaitBad 30 (e.r.sget 30) = none ∧ e.run.cont = none ∧ e.t.liveCount ≤ 16 ∧
      pinsKind (wbits (e.r.sget 30) 60 4) (e.s.task e.run.die e.run.idx) = false) := by
  refine ⟨⟨_, rfl, ?_⟩, ⟨_, rfl, ?_⟩, ⟨_, rfl, ?_⟩, ⟨_, rfl, ?_⟩, ⟨_, rfl, ?_⟩, ⟨_, rfl, ?_⟩, ⟨_, rfl, ?_⟩, ⟨_, rfl, ?_⟩, ⟨_, rfl, ?_⟩⟩ <;>
    decide +kernel

theorem witness_FrameAndPrefixRequests :
    let two (e : Env) : List Touch := [tS (dNum e.pl 1#4), tS (aNum e.pl 2#4)]
    Meets (aState .a pl1 id id) (fun e => e.runs true formD2.page1 true (.fd :: tS (dNum e.pl 1#4) :: e.pushTouch (aNum e.pl 2#4)) = true ∧
      e.runs true formD2.page1 true (.fd :: two e) = true ∧ e.runs true formD2.page1 true (two e) = true ∧ e.runs true formDa.page1 true [tS (aNum e.pl 2#4)] = true ∧
      e.runs true formDa.page1 true (tSs (aNum e.pl 2#4) (beamRegs (e.r.sget (aNum e.pl 2#4)))) = true ∧
      e.runs true formDa.page1 true (if e.r.sget (aNum e.pl 2#4) = e.topHandle then [.fd, tS (aNum e.pl 2#4)] else [tS (aNum e.pl 2#4)]) = true ∧
      aNum e.pl 2#4 + beamRegs (e.r.sget (aNum e.pl 2#4)) ≤ 32 ∧ e.runs true formDa.page1 true (tSs (aNum e.pl 2#4) 3) = true ∧
      e.runs true formD2.page1 true (tS (dNum e.pl 1#4) :: tSs (aNum e.pl 2#4) (if e.r.sget (aNum e.pl 2#4) = 0#64 then 1 else 3)) = true ∧
      e.runs true formD2.page1 false (two e) = true) ∧
    Meets (aState .a (pl1X 0x20) id id) (fun e => aNum e.pl 10#4 = 26 ∧ aNum e.pl 13#4 = 29) ∧
    Meets (aState .a (pl1X 0x18) id id) (fun e => (e.s.reserveCont (dieOf e.k)).isSome = true ∧ bNum e.pl = 24 ∧
      e.runs true { page := 1, xreg := .must, xzero := 0x60 } true [tP 7, tS 31, tS (bNum e.pl)] = true ∧
      e.runs true formD3.page1 true ([tS (dNum e.pl 1#4), tS (aNum e.pl 2#4), tS (bNum e.pl)] ++
        (if wbits (e.r.sget (bNum e.pl)) 0 4 = 8 then [.fd] else [])) = true ∧
      e.runs true formD3.page1 false (two e ++ tSs (bNum e.pl) 8) = true) ∧
    (∀ n ∈ [0xFFF0, 1, 2, 3], Meets (aState .a pl1 (regsBe .a (sBe 2 n)) id) (fun e =>
      wbits (e.r.sget (aNum e.pl 2#4)) 16 48 = 0 ∧ (wbits (e.r.sget 2) 0 4 = 0 ∨ wbits (e.r.sget 2) 4 12 = 0))) := by
  refine ⟨⟨_, rfl, ?_⟩, ⟨_, rfl, ?_⟩, ⟨_, rfl, ?_⟩, fun n hn => ?_⟩
  iterate 3 decide +kernel
  simp only [List.mem_cons, List.not_mem_nil, or_false] at hn
  rcases hn with rfl | rfl | rfl | rfl <;> exact ⟨_, rfl, by decide +kernel⟩

/-! ### What a tile's pipes do -/

/-- A trap of a word of strand σ. -/
def aTrap : TrapInfo :=
  { code := codePoison, sub := 0, pc := 0, addr := 0, kind := 0, resume := 0, sync := true, atRestart := false, debug := false }

/-- The state at a cycle, whatever is in focus. -/
def atCycle (c : Nat) (s : State) : State := { s with cycle := c }

theorem witness_VerdictsReturn :
    let waits (v : List Verdict) (h : Option Nat) : State :=
      atCycle 9 (aState .a 0 (fun t => { t with a := { t.a with verdicts := v, home := h } }) id)
    let x (s : State) : Strand := (s.tile 0).strand .a
    (let s := waits [⟨9, none, none⟩, ⟨10, some aTrap, none⟩] none
     (x s).home = none ∧ ∀ v ∈ (x s).verdicts, v.due ≤ s.cycle → v.fail = none) ∧
    (let s := waits [⟨8, none, none⟩, ⟨9, some aTrap, none⟩, ⟨10, none, none⟩] none
     (x s).home = none ∧ (x s).verdicts = [⟨8, none, none⟩] ++ ⟨9, some aTrap, none⟩ :: [⟨10, none, none⟩] ∧
     (∀ w ∈ [(⟨8, none, none⟩ : Verdict)], w.due ≤ s.cycle ∧ w.fail = none) ∧ (x s).undo = none) ∧
    (let u : Undo := { regs := Regs.reset.sset 3 9, walkers := [(7, some aWalker)], since := 3, mark := 1 }
     let s := atCycle 9 (aState .a 0 (fun t => { t with a := { t.a with verdicts := [⟨9, some aTrap, none⟩], undo := some u } }) id)
     (x s).home = none ∧ (x s).verdicts = [] ++ ⟨9, some aTrap, none⟩ :: [] ∧ (x s).undo = some u ∧ u.walkers = [(7, some aWalker)]) ∧
    (let holdsFor (t : Option Trip) : Bool :=
      let q := aRequest (.tarm 0) (some { trap := t, res := [], ends := false })
      let s := { waits [] (some 3) with homes := [(3, q)] }
      decide ((x s).verdicts = [] ∧ (x s).home = some 3 ∧ mget s.homes 3 = some q ∧ q.sentAt = some 0 ∧ 0 + q.cost ≤ s.cycle)
     holdsFor none = true ∧ holdsFor (some (trip codeStale)) = true) := by
  decide +kernel

theorem witness_ResultsAndFillsLand :
    let due (σ : Side) (vs : List ResVal) : State := atCycle 5 (aState .a 0 (regsBe σ fun r => vs.foldl (fun r v => r.post 5 v 0#5) r) id)
    let landing (σ : Side) (vs : List ResVal) : List Pending := sortDue ((((due σ vs).tile 0).regs σ).out.filter (·.isDue 5))
    let is (v : ResVal) : Pending := { due := some 5, cmd := 0, val := v, flags := 0 }
    let owed : Owed := { due := 5, cmd := 1, d := 27, data := 3, flags := 0 }
    landing .a [.s 31 7, .p 7 true] = [is (.s 31 7)] ++ is (.p 7 true) :: [] ∧
    landing .a [.s 31 7, .p 7 true] = [] ++ is (.s 31 7) :: [is (.p 7 true)] ∧
    landing .e [.v 27 1] = [] ++ is (.v 27 1) :: [] ∧
    (∀ σ ∈ [Side.a, .e], ∀ v ∈ [ResVal.s 31 7, .p 7 true, .v 27 1, .cb 3 5, .w 7 aWalker, .fd (Vector.replicate 4 6)],
      landing σ [v] = [] ++ is v :: []) ∧
    landing .e [.s 31 7, .s 31 8] = [is (.s 31 7)] ++ is (.s 31 8) :: [] ∧
    ((due .e [.v 27 1]).tile 0).mx.owed = [] ∧ ((due .e [.v 27 1]).tile 0).mx.flags = [] ∧
    (let t := (atCycle 5 (aState .a 0 (fun t => { t with mx := { t.mx with owed := [owed] } }) id)).tile 0
     t.mx.owed = [owed] ∧ owed.d < 28 ∧ owed.due ≤ 5 ∧ (t.regs .e).out = [] ∧ t.mx.flags = []) ∧
    (let t := (atCycle 5 (aState .a 0 (fun t => { t with mx := { t.mx with flags := [(5, 1#5)] } }) id)).tile 0
     t.mx.owed = [] ∧ t.mx.flags = [(5, 1#5)] ∧ (t.regs .e).out = []) := by decide +kernel

theorem witness_DrainsFeedsAndStops :
    let held (t : Tile) : Tile := { t with w := Vector.replicate 8 (some aWalker) }
    (let s := atCycle 9 (aState .a 0 (fun t => { t with sb := [anEntry 0 3 1 5 9] }) id)
     (s.tile 0).sb = anEntry 0 3 1 5 9 :: [] ∧ (anEntry 0 3 1 5 9).commit ≤ s.cycle ∧ (s.tile 0).bankOpen s.cycle 3 = true ∧ (s.tile 0).lost 3 = false) ∧
    (let f : Feed := { w := 0, left := 2, since := 0, last := 0, pc := 0 }
     let s := atCycle 10 (aState .a 0 (fun t => { held t with feedB := some f }) id)
     (s.tile 0).feed true = some f ∧ (s.tile 0).usedNow s.cycle = false ∧ (s.tile 0).jmptAt = none ∧
     (s.tile 0).feedReady true s.cycle = true ∧ (s.tile 0).field.worn = [] ∧ (s.tile 0).field.dead = []) ∧
    (let s := aState .a 0 (fun t => { t with poisonE := some (0, 0x40) }) id
     ((s.tile 0).strand .e).atBoundary = true ∧ ((s.tile 0).strand .e).takesPoison = true ∧ ((s.tile 0).pipeTrap .e).isSome = true) ∧
    (let s := aState .a 0 (fun t => { t with poisonA := some (0, 0x40), a := { t.a with phase := .ended false } }) id
     ((s.tile 0).strand .a).takesPoison = true ∧ ((s.tile 0).pipeTrap .a).isSome = true) := by decide +kernel

theorem witness_MatrixUnitRuns :
    let cmd (op : MxOp) : MxCmd := { id := 1, pc := 0, issue := 4, op := op }
    let going (op : MxOp) (done : Nat) (want : Option Nat) : MxRun :=
      { cmd := cmd op, start := 0, done := done, ea := [], eb := [], rows := [], want := want, half := none, stall := 0 }
    let with_ (m : Mx → Mx) : State := atCycle 5 (aState .a 0 (fun t => { t with mx := m t.mx }) id)
    let owed : Owed := { due := 5, cmd := 1, d := 28, data := 0, flags := 0 }
    (let t := (with_ fun m => { m with queue := [cmd (.mzero 3)] }).tile 0
     t.mx.run = none ∧ t.mx.queue = cmd (.mzero 3) :: [] ∧ (cmd (.mzero 3)).issue < 5 ∧ t.mxBarred 5 = false) ∧
    (∀ op ∈ [MxOp.mzero 3, .mma false 3 1 1 1 (Vector.replicate 4 0), .mdrain 3 false 28, .attn 3 0 (Vector.replicate 4 0) 0, .attnfin 3 28],
      let t := (with_ fun m => { m with run := some (going op 99999 none) }).tile 0
      t.mx.run = some (going op 99999 none) ∧ op.busy ≤ 99999) ∧
    (let t := (with_ fun m => { m with owed := [owed] }).tile 0
     t.mx.owed = owed :: [] ∧ owed.due ≤ 5 ∧ (t.sqget (owed.d - 28)).room 5 = true) ∧
    (let s := aState .a 0 (fun t => { t with mx := { t.mx with owed := [owed] }
                                             sq := Vector.replicate 2 ⟨List.replicate 8 ⟨0, 0, 0, true⟩, 0, 0⟩ }) id
     (s.tile 0).mx.owed = owed :: [] ∧ ((s.tile 0).sqget (owed.d - 28)).room 5 = false) ∧
    (let op := MxOp.attn 3 0 (Vector.replicate 4 0) 0
     let t := (with_ fun m => { m with run := some (going op 0 (some 63)) }).tile 0
     t.mx.run = some (going op 0 (some 63)) ∧ (going op 0 (some 63)).half = none ∧
     ((going op 0 (some 63)).rowsLeft 0 63).length ≤ t.rowSlots 5 ((attnAddrs 0 63).headD 0)) ∧
    (let op := MxOp.attn 3 0 (Vector.replicate 4 0) 0
     let t := (atCycle 5 (aState .a 0 (fun t => { t.usePort { cycle := 5, banks := BitVec.allOnes 32, write := false } with
       mx := { t.mx with run := some (going op 0 (some 31)) } }) id)).tile 0
     t.mx.run = some (going op 0 (some 31)) ∧ t.rowSlots 5 ((attnAddrs 0 31).headD 0) < ((going op 0 (some 31)).rowsLeft 0 31).length) ∧
    (let o : OldBytes := { cycle := 5, addr := 0x1FF0, bytes := 7, tags := (0, 0) }
     let t : Tile := { fieldBe 0x1FF0 [9, 1] (aTile 0) with before := some o }
     t.before = some o ∧ o.cycle = 5 ∧ 0x1F00 % 256 = 0 ∧ 0x1F00 ≤ o.addr ∧ o.addr + 16 ≤ 0x1F00 + 256 ∧ o.bytes < 2 ^ 128 ∧
     bits (t.rowSeen 5 0x1F00).toNat (8 * (o.addr - 0x1F00)) 128 = 7) := by decide +kernel

/-! ### Runs, traps, home units, the Almanac -/

/-- A task record in a state, of context and fibre 0, with a word set. -/
def aTask (state : Nat) (k : Nat) (w : Word) : TaskRec :=
  ({ TaskRec.reset with gen := 1 }.setState state).setWord k w

/-- Die d with a task record in slot i. -/
def withTask (d i : Nat) (x : TaskRec) (s : State) : State := s.setTask d i x

/-- The state of a run whose strands have ended. -/
def endedState (g : Run → Run) : State :=
  withTask 0 0 (aTask 5 2 0) (aState .a 0 (fun t => { t with a := { t.a with phase := .ended false }
                                                             e := { t.e with phase := .ended true } }) g)

def aBooking : Booking :=
  { die := 0, idx := 0, origin := 0, width := 1, height := 1, mask := 0xFFFF, start := 0, stop := 1, lead := 1, chan := none
    scratch := (0, 64), begun := true, started := true, gone := false }

/-- A restart point. -/
def aPoint : RestartPt :=
  { pcA := 0, pcE := 0, maskA := 0, maskE := 0, sA := Vector.replicate 32 0, sE := Vector.replicate 32 0, stA := 0, stE := 0
    c := Vector.replicate 8 0, pxctr := 0, opMark := 0 }

/-- In the last furrow of its booking, with a grace. -/
def lateState (grace : Nat) : State :=
  let t := aTask 5 2 0
  atCycle 192 (withTask 0 0 (t.setWord 0 (setBits (t.word 0) 19 4 grace)) { aState .a 0 id id with bookings := [aBooking] })

def cutState : State :=
  let t := aTask 5 2 0
  withTask 0 0 (t.setWord 0 (setBits (t.word 0) 18 1 1)) (aState .a 0 (fun t => { t with point := some aPoint }) id)

/-- Task slot 0 of die 0 and continuation slot 65535 of die 3 that resumes it. -/
def waitState : State :=
  (withTask 0 0 (aTask 1 2 0) State.reset).setCont 3 65535
    { ({ ContRec.reset with gen := 1, met := true }.setState 1).setWord 1 (mkHandle 1 1 0 0) with held := false }

theorem witness_RunsEnd :
    (let s := endedState id
     s.run 0 = some aRun ∧ aRun.die < 4 ∧ aRun.stop = none ∧ aRun.culprit = none ∧ aRun.chain = none ∧ aRun.retts = [] ∧ aRun.cont = none ∧
     s.allEnded aRun = true ∧
     (∀ k ∈ aRun.members, (s.tile k).drained s.cycle = true ∧ (s.tile k).poisonA = none ∧ (s.tile k).poisonE = none) ∧
     (s.task 0 0).word 6 = 0#64 ∧
     (∀ w ∈ [StopWhy.overrun, .preempt, .band, .teardown], ({ aRun with stop := some w } : Run).stop ≠ some .residue)) ∧
    (let s := endedState fun r => { r with stop := some .preempt, halting := true }
     s.allEnded { aRun with stop := some .preempt, halting := true } = true) ∧
    (let r : Run := { aRun with cont := some (3, 65535) }
     let s := endedState fun _ => r
     s.run 0 = some r ∧ s.allEnded r = true ∧ r.cont = some (3, 65535) ∧ ∀ k ∈ r.members, (s.tile k).drained s.cycle = true) ∧
    (let r : Run := { aRun with barrier := some 12 }
     let s := atCycle 12 (aState .a 0 id fun _ => r)
     s.run 0 = some r ∧ (s.die (dieOf r.origin)).treesGood = [0, 1] ∧
     ((s.treeFault 0 1 true).die (dieOf r.origin)).treesGood = [0] ∧ ((s.treeFault 0 1 true).die (dieOf r.origin)).treesIn = [0, 1] ∧
     (((s.treeFault 0 1 true).treeFault 0 0 true).die (dieOf r.origin)).treesGood = []) ∧
    (∀ g ∈ [0, 1], let s := lateState g
      s.run 0 = some aRun ∧ s.bookings = [aBooking] ∧ s.cycle % 256 = 192 ∧ s.furrow + 1 = aBooking.stop ∧
      (s.task 0 0).grace = g ∧ aBooking.started = true ∧ aBooking.gone = false) ∧
    (cutState.run 0 = some aRun ∧ cutState.canCut aRun = true ∧ aRun.stop = none) ∧
    (let r : Run := { aRun with stop := some .band }
     let s := cutState.modRun 0 fun _ => r
     s.run 0 = some r ∧ s.canCut r = true ∧ (∀ x ∈ r.strands, ((s.tile x.1).strand x.2).phase ≠ .stopped) ∧
     StopWhy.band.rank ≤ StopWhy.band.rank) ∧
    (let s := atCycle 40 (aState .a 0 (fun t => { t with residue := some 40 }) id)
     s.run 0 = some aRun ∧ (s.tile 0).run = some 0 ∧ (s.tile 0).residueDue s.cycle = true) ∧
    (let s := atCycle 40 (aState .a 0 (fun t => { t with checks := [40] }) id)
     (s.tile 0).residueDue s.cycle = true) ∧
    (waitState.contDue 3 65535 = true ∧ (waitState.cont 3 65535).trap = none ∧
     waitState.taskOk ((waitState.cont 3 65535).word 1) = true ∧ (waitState.taskAt ((waitState.cont 3 65535).word 1)).state = 1) := by
  decide +kernel

/-- A run whose A-strand has trapped and whose E-strand has stopped, the save area of its fibre leased. -/
def trappedState : State :=
  withTask 0 0 (aTask 5 2 0)
    ((aState .a 0 (fun t => { t with a := { t.a with phase := .trapped { aTrap with pc := 0x40 } }, e := { t.e with phase := .stopped }
                                     field := { t.field with lease := [(0, 0)] } })
      fun r => { r with halting := true, culprit := some (0, .a) }).modFibre 0 fun f => f.setWord 6 0x2000)

def tornState : State :=
  withTask 0 0 (aTask 5 2 0)
    (aState .a 0 (fun t => { t with a := { t.a with phase := .stopped }, e := { t.e with phase := .stopped } })
      fun r => { r with halting := true, stop := some .teardown })

/-- A handler that is owed, to no task or to task slot 0 of die 0. -/
def aHandler : Handler :=
  { fibre := 0, ctx := 0, ops := [], w8 := 8, w9 := 9, w10 := 10, w11 := 11, origin := 0, saveAt := 0, saved := [], self := 0
    debug := false, place := false }

/-- A CLAIMED task record of a good shape: a gang of 1 × 1 at tile 0 for one furrow, code of 4096 bytes from 0x10000. -/
def armable : TaskRec :=
  { TaskRec.reset with
    gen := 1
    w := #v[w64 (2 ^ 60 + 2 ^ 50 + 2 ^ 46 + 2 ^ 23), 0x1FFF, 0x10000, 0x10000, w64 (4096 * 2 ^ 16), 0, 0, 0, 0, 0, 0, 0, 0, 0, 0, 0] }

/-- The handler of fibre 0 is that record. -/
def handlerState : State :=
  { withTask 0 0 armable ((aState .a 0 id id).modFibre 0 fun f => f.setWord 4 (mkHandle 1 1 0 0)) with handlers := [(5, aHandler)] }

theorem witness_TrapIsDelivered :
    (let s := trappedState
     let r : Run := { aRun with halting := true, culprit := some (0, .a) }
     s.run 0 = some r ∧ s.allStopped r = true ∧ (∀ k ∈ r.members, (s.tile k).landed s.cycle = true) ∧ r.culprit.isSome = true ∧
     r.members = [0] ∧ (s.fibre r.fibre).saveAt % 8192 = 0 ∧ (s.tile 0).inLease r.fibre (s.fibre r.fibre).saveAt 8192 = true) ∧
    (let s := tornState
     let r : Run := { aRun with halting := true, stop := some .teardown }
     s.run 0 = some r ∧ s.allStopped r = true ∧ (∀ k ∈ r.members, (s.tile k).landed s.cycle = true) ∧ s.allEnded r = false) ∧
    (let s : State := { State.reset with handlers := [(5, aHandler)] }
     mget s.handlers 5 = some aHandler ∧ (∀ o ∈ aHandler.ops, mget s.ops o = none) ∧ (s.fibre aHandler.fibre).word 4 = 0#64) ∧
    (let s := handlerState
     let k := (s.fibre aHandler.fibre).word 4
     let armed (h : Handler) : TaskRec :=
       let x := ((((s.taskAt k).setWord 8 h.w8).setWord 9 h.w9).setWord 10 h.w10).setWord 11 h.w11
       if h.place then x.setWord 0 (setBits (setBits (x.word 0) 35 10 h.origin) 45 1 0) else x
     mget s.handlers 5 = some aHandler ∧ aHandler.debug = false ∧
     s.fibreSpoiled aHandler.fibre = false ∧ (s.modDie 0 fun y => { y with spoiled := [(6, 0)] }).fibreSpoiled aHandler.fibre = true ∧
     k ≠ 0#64 ∧ k ≠ aHandler.self ∧ s.taskTrip aHandler.ctx k = none ∧ (s.taskAt k).state = 1 ∧
     ∀ h ∈ [aHandler, { aHandler with place := true }], (s.putTaskAt k (armed h)).armTrip k = none) := by
  decide +kernel

/-- A state with a plain cell, a future and the request of operation `op` under way. -/
def granState (op : HomeOp) : State :=
  { (aState .a 0 id id).modDie 0 fun d => { d with
      cells := [(0, { Cell.reset with gen := 1, kind := .plain, w0 := 5, len := 1 }),
                (1, { Cell.reset with gen := 1, kind := .future, len := 1 }),
                (2, { Cell.reset with gen := 1, kind := .future, w1 := 1, len := 1 })] }
    with cycle := 9, homes := [(4, aRequest op none)] }

/-- A handle of a cell of die 0. -/
def cellHandle (i : Nat) : Word := mkHandle 3 1 0 i

theorem witness_HomeUnitsPerform :
    (let q := aRequest (.gatom 0 (cellHandle 0) 3 1) none
     let s := granState q.op
     mget s.homes 4 = some q ∧ q.sentAt = some 0 ∧ q.reply = none ∧ 0 + q.reach ≤ s.cycle ∧ q.bad = none ∧
     s.cellTrip (s.ctxOf q) (cellHandle 0) [.plain] = none) ∧
    (let q := { aRequest (.tarm 0) none with bad := some (trip codeBookShape) }
     q.bad = some (trip codeBookShape) ∧ q.op.slot = none) ∧
    (∀ i ∈ [1, 2], let q := aRequest (.futw (cellHandle i) 3) none
      let s := granState q.op
      s.cellTrip (s.ctxOf q) (cellHandle i) [.future] = none ∧ (s.cellAt (cellHandle i)).futureState = i - 1) ∧
    (let q := aRequest (.gpset 63 3) none
     let s := granState q.op
     s.ctxOf q < 16 ∧ 63 < 64 ∧ s.gpTrip (s.ctxOf q) 63 = none ∧
     (s.modDie 0 fun y => { y with spoiled := [(8, 64 * s.ctxOf q + 63)] }).gpTrip (s.ctxOf q) 63 = some (trip codePoison)) ∧
    (let w : WaitWalk := { head := mkHandle 2 1 3 65535, value := 7, poison := false }
     let s := { waitState.setCont 3 65535 ({ ContRec.reset with gen := 1 }.setState 1) with walks := [(2, w)] }
     mget s.walks 2 = some w ∧ s.futureList w.head (waitFuel s) = [w.head] ∧ s.contOk w.head = true ∧
     (s.cont (hDie w.head) (hIndex w.head)).state = 1 ∧ (s.cont (hDie w.head) (hIndex w.head)).met = false) := by decide +kernel

/-- Page 1 of context 0 translated by the drill of its colour to page 1 of a target. -/
def aTrans (target : Nat) : Trans :=
  { target := target, ppn := 1, module := 0, keyId := 0, w := true, rd := true, x := true, dirty := true, window := none }

def mapped (target : Nat) (s : State) : State :=
  (s.modCtx 0 fun c => { c with xlroot := 1 }).modCtrl 1 fun c => { c with
    tlb := [{ ctx := 0, page := 1, pages := 1, global := false, tr := aTrans target }]
    keys := Vector.replicate 16 { valid := true, ctx := 0, key := 1 } }

/-- A staging entry of the eight bytes at 0x10000. -/
def aStage (left : List Nat) : Stage := { ctx := 0, base := 0x10000, len := 8, mem := [], left := left, done := false }

def stageState : State := State.reset.modDie 3 fun d => { d with stages := [(63, aStage [1024])] }

theorem witness_AlmanacWorks :
    (State.reset.cycle % 256 = 0 ∧ State.reset.remoteHeld = []) ∧
    (let s : State := { State.reset with todo := [.plan (passPhase 3)] }
     dueInput s.time s.inputs = none ∧ s.todo = .plan (passPhase 3) :: []) ∧
    (let s := withTask 3 5 (aTask 3 2 0) State.reset
     (s.task 3 5).state = 3 ∧ (s.task 3 5).stage = none ∧ mget (s.die (s.gangDie 3 (s.task 3 5))).stages 0 = none) ∧
    (let x := (aStage [1024]).inLine 1024
     let y (s : State) := (s.vaReadMany (.die (dieOfCtrl (colour (1024 / 1024)))) (aStage [1024]).ctx x.1 2 .exec (x.2 / 2)).2
     mget (stageState.die 3).stages 63 = some (aStage [1024]) ∧ stageState.stageDue (aStage [1024]) = true ∧ (y stageState).isLeft = true ∧
     mget ((mapped 0 stageState).die 3).stages 63 = some (aStage [1024]) ∧ (mapped 0 stageState).stageDue (aStage [1024]) = true ∧
     (y (mapped 0 stageState)).isRight = true) := by decide +kernel

/-- Tile 3 of context 0, the booking of task 5 of die 0 on it that starts in this furrow, and its record. -/
def dueBooking : Booking :=
  { die := 0, idx := 5, origin := 3, width := 1, height := 1, mask := 0x1FFF, start := 0, stop := 1, lead := 1, chan := some 0
    scratch := (0, 0), begun := false, started := false, gone := false }

/-- The record armed and placed at tile 3, with its code staged. -/
def readyTask : TaskRec := { (armable.setState 3).setWord 0 (setBits (setBits (armable.word 0) 60 4 3) 35 10 3) with stage := some 0 }

def bookState : State :=
  (withTask 0 5 readyTask ((State.reset.modTile 3 fun t => { t with owner := some 0#4 }).modCtx 0 fun c => { c with live := true })).modDie 0
    fun d => { d with stages := [(0, { aStage [] with done := true })] }

theorem witness_TasksAreBooked :
    (({ bookState with mstate := .run } : State).bookable 0 readyTask = true ∧ (0, 5, readyTask) ∈ bookState.tasksOf 0 ∧
     (bookState.placeTask 0 5 readyTask).map (·.2) = some 3 ∧
     State.reset.placeTask 0 5 readyTask = none) ∧
    ([dueBooking, aBooking].map fun b => (b.die, b.idx)).Nodup ∧
    (let s : State := { bookState with bookings := [dueBooking] }
     (s.bookings.filter fun b => b.start == s.furrow && !b.started && !b.gone && dieOf b.origin == 0) = [dueBooking] ∧ dueBooking.die < 4 ∧
     (s.task 0 5).word 7 = 0#64) := by decide +kernel

/-! ### Copies, walks -/

/-- A part of 8 bytes at the head of page 1. -/
def aPart : Part := Part.new 0x10000 8 0 false

/-- A copy of tile 0 with one part. -/
def aCopy (kind : OpKind) (p : Part) : Op :=
  { plane := 0, kind := kind, tile := 0, side := .a, run := 0, ctx := 0, fibre := 0, creg := 7, desc := [], issue := 0, seq := 1, sbMark := 0
    length := 8, src := if kind = .cpyw then 0x100 else 0x10000, dst := if kind = .cpyw then 0x10000 else 0x100, rotDst := none
    counter := none, stream := 0, scope := 0, acquire := false, release := false, members := [0], frame := none, sendAt := 9
    value := 3, parts := [p], credits := [], landed := 0, cancel := false, spilled := false, walk := none }

/-- A state with operation 1, its part's page translated if need be. -/
def copyState (target : Nat) (o : Op) : State := { mapped target (atCycle 40 (aState .a 0 id id)) with ops := [(1, o)] }

def live (p : Part) : Part := { p with phase := .live }
def translated (target : Nat) (p : Part) : Part := { live p with trans := [(1, aTrans target)] }

theorem witness_CopiesMove :
    (let o := aCopy .cpy aPart
     let s := copyState 0 o
     mget s.ops 1 = some o ∧ o.parts.findIdx? (·.phase == .unsent) = some 0 ∧ o.parts[0]? = some aPart ∧ s.canSend 1 o = true) ∧
    (let o := aCopy .cpy (live aPart)
     let s := copyState 0 o
     let v : Invalidation := { core := none, ctx := 0, va := none, withG := false, arrived := [1], waits := [], refuse := [1] }
     s.livePart 1 0 = some (o, live aPart) ∧ o.untranslated (live aPart) = some 0x10000 ∧ s.refusesPage o.ctx (0x10000 / 65536) = false ∧
     (s.translate o.ctx 0x10000 o.access).2 = .inr (aTrans 0) ∧
     (s.translate o.ctx 0x10000 o.access).1.refusesTrans o.ctx (0x10000 / 65536) (aTrans 0) = false ∧
     ({ s with invals := [(3, v)] } : State).refusesPage o.ctx (0x10000 / 65536) = true ∧
     (let s : State := { copyState 1 o with invals := [(3, { v with refuse := [] })], hostPriv := [1] }
      s.refusesPage o.ctx (0x10000 / 65536) = false ∧ (s.translate o.ctx 0x10000 o.access).2 = .inr (aTrans 1) ∧
      (s.translate o.ctx 0x10000 o.access).1.refusesTrans o.ctx (0x10000 / 65536) (aTrans 1) = true) ∧
     ({ s with ctrls := State.reset.ctrls }.translate o.ctx 0x10000 o.access).2 = .inl 1) := by decide +kernel

theorem witness_CopiesMove_granules :
    (let o := aCopy .cpym (live aPart)
     (copyState 0 o).acceptReady 1 0 0 o (live aPart) = true ∧ (copyState 0 o).settledGranules o 0 = []) ∧
    (let p := translated 0 aPart
     let o := aCopy .cpy p
     let s := copyState 0 o
     s.livePart 1 0 = some (o, p) ∧ s.pieceReady o p 0 = true ∧ o.pieceVa p 0 = some 0x10000 ∧ (∀ e ∈ p.trans, e.2.target ≠ 2) ∧ o.writes = false ∧
     (s.pieceRead o p 0x10000 o.pieceBytes).2 = .inr 0) ∧
    (let p := { translated 0 aPart with read := [8] }
     let o := aCopy .cpyw p
     let s := copyState 0 o
     s.pieceReady o p 0 = true ∧ o.writes = true ∧
     (s.pieceWrite 1 o p 0x10000 (o.pieceData p 0).toNat o.pieceBytes).2 = none) ∧
    (let p := { translated 0 aPart with got := [(0, 5)] }
     let o := aCopy .cpy p
     let m := ((o.granuleBytes (o.liveSharers p 8) 8).filter (·.isSome)).length
     (copyState 0 o).livePart 1 0 = some (o, p) ∧ (copyState 0 o).landReady 1 0 o p 0 8 = true ∧
     (copyState 0 o).portBTrip o p 0 8 (m != 32) = none) ∧
    (let p := { translated 0 aPart with got := [(0, 5)] }
     let o := aCopy .cpy p
     let s := (copyState 0 o).modTile 0 fun t => { t with keyOk := false }
     s.landReady 1 0 o p 0 8 = true ∧ (s.tile 0).keyOk = false ∧ s.portBTrip o p 0 8 true = some 2 ∧ s.portBTrip o p 0 8 false = some 2) ∧
    (let p := translated 0 aPart
     let o := aCopy .cpyw p
     let s := copyState 0 o
     let lost : State := s.modTile 0 fun t => { t with field := { t.field with dead := [8, 131072 + stripeOf 8] } }
     s.livePart 1 0 = some (o, p) ∧ s.readReady 1 0 o p 0 8 = true ∧ s.portBTrip o p 0 8 true = none ∧
     lost.readReady 1 0 o p 0 8 = true ∧ (lost.tile 0).keyOk = true ∧ (lost.tile 0).lost 8 = true ∧ lost.portBTrip o p 0 8 true = some 3) := by
  decide +kernel

theorem witness_CopiesMove_credit :
    (let p := translated 1 aPart
     let s := { copyState 1 (aCopy .cpy p) with hostPriv := [1] }
     (p.trans.find? fun t => t.2.target == 1 && s.hostPriv.contains t.2.ppn && !p.bad.any (·.1 == t.1)) = some (1, aTrans 1)) ∧
    (let p : Part := { translated 2 aPart with port := some 3, nums := [(0, 0)], since := [(0, 0)] }
     let s : State := { copyState 2 (aCopy .cpy p) with time := linkTimeout }
     s.livePart 1 0 = some (aCopy .cpy p, p) ∧ s.latePage (aCopy .cpy p) p = some 1 ∧
     ({ s with time := 0 } : State).latePage (aCopy .cpy p) p = none) ∧
    (let counter (count : Nat) : Tile := fieldBe 0x40 [w64 (64 + count * 2 ^ 32), 3] (aTile 0)
     let v (count : Nat) : Nat := (counter count).fieldRead false 40 0x40 16
     mget (copyState 0 (aCopy .cpy aPart)).ops 1 = some (aCopy .cpy aPart) ∧ (aCopy .cpy aPart).spilled = false ∧
     lcOver (v 0) = false ∧ lcTarget (v 0) < lcCount (v 0) + 65 ∧ lcCount (v 32) + 32 = lcTarget (v 32) ∧ lcCount (v 0) + 32 < lcTarget (v 0) ∧
     lcOver ((fieldBe 0x40 [64, 0x10000] (aTile 0)).fieldRead false 40 0x40 16) = true) := by decide +kernel

/-- A performed write of operation 1. -/
def aWrite (level : Nat) : FarWrite :=
  { id := 9, op := 1, run := 0, side := .a, stream := 0, space := .tier, addr := 0x10000, bytes := [1#8], key := 1, tile := 0, level := level }

theorem witness_CopiesEnd :
    (let o := aCopy .cpy { aPart with phase := .failed 1 0x10000 }
     let s := copyState 0 o
     s.opOver 1 o = true ∧ o.frame = none ∧ (s.tile o.tile).run = some o.run ∧ o.creg < 8) ∧
    (let o := { aCopy .cpy { aPart with phase := .dropped } with cancel := true }
     (copyState 0 o).cancelDue 1 o = true ∧ (copyState 0 o).liveCredits o = [] ∧ o.walk = none) ∧
    (∀ l ∈ [0, 3, 4], let s := { State.reset with writes := [aWrite l] }
      s.writes = aWrite l :: [] ∧ (aWrite l).id = 9 ∧ (aWrite l).level = l) := by decide +kernel

/-- A walk of tile 0 that runs. -/
def goingWalk (busy : List Nat) : Walk :=
  { running := true, next := 0, permits := [slotKey 0 0], early := [], begun := [], busy := busy, left := 1, gens := if busy = [] then [] else [(0, 9)] }

/-- The same walk written back: w7 with the direction bit. -/
def backOp (w : Walk) : Op := { aWalkOp w with desc := [0x10000, 0x1000100010002, 0x1000100010002, 0, 0, 0x1000000000000, 0x1000000000000, 0x5000200] }

def walkState (o : Op) : State := { atCycle 40 (aState .a 0 id id) with ops := [(1, o)] }

theorem witness_WalksRun :
    (let o := aWalkOp freshWalk
     (walkState o).nextWalk 0 = some (1, o) ∧ o.walk = some freshWalk ∧ freshWalk.early = []) ∧
    (let o := aWalkOp (goingWalk [])
     let s := walkState o
     let f := o.walkDesc.slotAt 0
     let lost : State := s.modTile 0 fun t => { t with field := { t.field with dead := [f / 32, 131072 + stripeOf (f / 32)] } }
     ((s.walksOf 0).find? fun p => p.2.walk.any fun w => s.tileReady p.2 w) = some (1, o) ∧ o.walk = some (goingWalk []) ∧
     (s.tile 0).lost (f / 32) = false ∧ (lost.tile 0).lost (f / 32) = true ∧
     ((lost.walksOf 0).find? fun p => p.2.walk.any fun w => lost.tileReady p.2 w) = some (1, o) ∧
     (walkState (aWalkOp (goingWalk [0]))).slotWalk 0 f = some 1 ∧ fillToFull (2 ^ 81) = 2 ^ 82) ∧
    (let o := backOp (goingWalk [0])
     let s := walkState o
     let f := o.walkDesc.slotAt 0
     let lost : State := s.modTile 0 fun t => { t with field := { t.field with dead := [f / 32, 131072 + stripeOf (f / 32)] } }
     lost.slotOver 1 o 0 = true ∧ (lost.tile 0).lost (f / 32) = true ∧
     mget s.ops 1 = some o ∧ o.walk = some (goingWalk [0]) ∧ o.walkDesc.back = true ∧ (goingWalk [0]).busy.contains 0 = true ∧
     o.cancel = false ∧ o.spilled = false ∧ s.slotOver 1 o 0 = true) := by decide +kernel

/-! ### The Sheaf's moves, invalidations, messages -/

/-- Pages 1 and 2 of context 0 translated by their drills to pages 1 and 2 of the second tier. -/
def mapped2 (s : State) : State :=
  (mapped 0 s).modCtrl 2 fun c => { c with
    tlb := [{ ctx := 0, page := 2, pages := 1, global := false, tr := { aTrans 0 with ppn := 2 } }]
    keys := Vector.replicate 16 { valid := true, ctx := 0, key := 1 } }

/-- A frame of state n whose page list is at 0x10000 and whose log is at 0x1F000, with `rows` rows of its compaction list. -/
def aFrame (n rows : Nat) : Frame :=
  let w : Vector Word 8 := #v[w64 (n * 2 ^ 60), 0, w64 (5 * 2 ^ 24), w64 (rows * 2 ^ 30), 0, 0, 0x10000, 0x1F000]
  { Frame.reset with gen := 1, w := w }

/-- Frame 9 of die 0 set so, page-list entry 0 naming page 1. -/
def frameState (n rows : Nat) : State :=
  ((mapped2 (State.reset.setFrame 0 9 (aFrame n rows))).vaWrite 0 0x10000 8 0x10000).1

def aCompact (list : Option (List Nat)) (halted : Bool) (step : Nat) : CompactJob :=
  { die := 0, frame := 9, fibre := 0, cont := 0, list := list, halted := halted, step := step, conts := [] }

/-- The handle of that frame. -/
def frameH : Word := mkHandle 4 1 0 9

def aFret (m : List (Word × Word)) : FretJob := { ctx := 0, moves := m, from_ := frameH, into := frameH, seq := 1 }

/-- A part that has met an uncorrectable row page, a registered rebuild record, a page in the pool. -/
def rebuildState : State :=
  let o := aCopy .cpyf { aPart with phase := .rebuild frameH 0 }
  let s := ({ frameState 2 0 with ops := [(1, o)] }.setPool 0 0 (0x20000, 1)).modCtx 0 fun c => { c with kvrb := mkHandle 1 1 0 0 }
  (withTask 0 0 armable s).vaWrite 0 0x20000 8 0x20000 |>.1

theorem witness_SheafMoves :
    (let s (m : List (Word × Word)) : State := { State.reset with frets := [(3, aFret m)] }
     mget (s [(0x10000, 0x20000), (0x10100, 0x20100)]).frets 3 = some (aFret ((0x10000, 0x20000) :: (0x10100, 0x20100) :: [])) ∧
     (s [(0x10000, 0x20000), (0x10100, 0x20100)]).fretBlocked (aFret [(0x10000, 0x20000), (0x10100, 0x20100)]) = false ∧
     (s [(0x10000, 0x20000), (0x10100, 0x20100)]).fretDue (aFret [(0x10000, 0x20000), (0x10100, 0x20100)]) = true ∧
     restMoves 0x10000 0x20000 [(0x10100, 0x20100)] ≠ [] ∧
     mget (s [(0x100C0, 0x200C0)]).frets 3 = some (aFret ((0x100C0, 0x200C0) :: [])) ∧
     (s [(0x100C0, 0x200C0)]).fretDue (aFret [(0x100C0, 0x200C0)]) = true ∧ restMoves 0x100C0 0x200C0 [] = [] ∧
     ({ State.reset with frets := [(2, { aFret [] with seq := 0 }), (3, aFret [])] } : State).fretBlocked (aFret []) = true) ∧
    (let c := aCompact none false 0
     let s : State := { frameState 3 1 with compacts := [(3, c)] }
     let f := s.frame 0 9
     mget s.compacts 3 = some c ∧ s.compactDue c = true ∧ c.list = none ∧
     (let t := (s.vaWrite 0 0x18000 4 2).1
      (t.readList 0 f.ctx f (wbits (f.word 3) 30 15)).2 = .inr [2] ∧ listBad [2] (wbits (f.word 2) 39 15) f.tokens = false) ∧
     (let t := (s.vaWrite 0 0x18000 4 5).1
      (t.readList 0 f.ctx f (wbits (f.word 3) 30 15)).2 = .inr [5] ∧ listBad [5] (wbits (f.word 2) 39 15) f.tokens = true)) ∧
    (let s (n : Nat) : State := { frameState 3 1 with compacts := [(3, aCompact (some [2]) false n)] }
     let f := (s 0).frame 0 9
     let at_ := wbits (f.word 2) 39 15 + f.progress
     let line := (s 0).compactLine (aCompact (some [2]) false 0) 2 at_
     (s 0).compactDue (aCompact (some [2]) false 0) = true ∧ [2][f.progress]? = some 2 ∧ 0 < 4 * f.planes ∧
     line.2 = .inr (0x10200, 0x10000) ∧ (line.1.moveLine 0 f.ctx 0x10200 0x10000).2 = none ∧
     (s (4 * f.planes)).compactDue (aCompact (some [2]) false (4 * f.planes)) = true ∧
     ((s (4 * f.planes)).compactLog (aCompact (some [2]) false (4 * f.planes)) 2 at_).2 = none ∧ f.progress + 1 < 32768) ∧
    (let c := aCompact (some []) false 0
     let s : State := { frameState 3 0 with compacts := [(3, c)] }
     s.compactDue c = true ∧ c.list = some [] ∧ ([] : List Nat)[(s.frame 0 9).progress]? = none ∧
     wbits ((s.frame 0 9).word 2) 39 15 + wbits ((s.frame 0 9).word 3) 30 15 < 32768) ∧
    (let c : LookupJob := { ctx := 0, va := 0x10000, b := 1, fut := cellHandle 1, table := [] }
     let s : State := { granState (.futw 0 0) with lookups := [(3, c)] }
     let y := { s with lookups := mdel s.lookups 3 }.readPrompt c.ctx c.va (16 * c.b)
     mget s.lookups 3 = some c ∧ y.2 = none ∧ y.1.cellTrip c.ctx c.fut [.future] = none ∧ (y.1.cellAt c.fut).futureState = 0 ∧
     (y.1.cell (hDie c.fut) (y.1.cellAt c.fut).first).kind ≠ .draining) ∧
    (let s := rebuildState
     let o := aCopy .cpyf { aPart with phase := .rebuild frameH 0 }
     mget s.ops 1 = some o ∧ o.parts[0]? = some { aPart with phase := .rebuild frameH 0 } ∧
     s.rebuilding frameH 0 = false ∧ s.rebuildTask o.ctx = some (mkHandle 1 1 0 0) ∧
     (let u := s.vaRead (.die (hDie frameH)) o.ctx ((s.frameAt frameH).list + 8 * 0) 8 .read
      u.2 = .inr 0x10000 ∧ (u.1.takePage (hDie frameH) o.ctx).2 = some 0x20000) ∧
     (s.modCtx 0 fun c => { c with kvrb := 0 }).rebuildTask o.ctx = none) ∧
    (let x : RebuildJob := { ctx := 0, frame := frameH, entry := 0, page := 0x20000, fut := cellHandle 2 }
     let s : State := { granState (.futw 0 0) with rebuilds := [(3, x)] }
     mget s.rebuilds 3 = some x ∧ s.futureIsFull x.fut = true ∧ ∀ r ∈ s.rebuilds, r.2.fut = x.fut → r.1 = 3) := by decide +kernel

/-- An invalidation that has reached the first n drills. -/
def anInval (core : Option (Nat × Nat)) (n : Nat) : Invalidation :=
  { core := core, ctx := 0, va := some 0x10000, withG := false, arrived := List.range n, waits := [], refuse := [] }

def aMessage (x : Option Nat) : Message := { ctx := x, tile := 0, op := 1, part := 0 }

theorem witness_InvalidationsAndMessages :
    (let v := anInval (some (15, 7)) 23
     let s : State := { State.reset with invals := [(3, v)] }
     mget s.invals 3 = some v ∧ 23 < 24 ∧ v.arrived.contains 23 = false) ∧
    (∀ core ∈ [none, some (15, 7)], let v := anInval core 24
      let s : State := { State.reset with invals := [(3, v)] }
      mget s.invals 3 = some v ∧ s.invalDue 3 v = true ∧ v.core = core ∧
      (core = none → (match exec (.invalidationComplete 3) s with
        | .next t => decide (t.sent = [.invalidated 0 (some 0x10000)])
        | _ => false) = true)) ∧
    (let s (m : Message) : State := { copyState 0 (aCopy .cpym aPart) with messages := [(3, m)] }
     (mget (s (aMessage none)).messages 3 = some (aMessage none)) ∧
     (mget (s (aMessage (some 0))).messages 3 = some (aMessage (some 0)) ∧ (s (aMessage (some 0))).owns 0 0 = true) ∧
     (mget (s (aMessage (some 5))).messages 3 = some (aMessage (some 5)) ∧ (s (aMessage (some 5))).owns 5 0 = false ∧
      mget (s (aMessage (some 5))).ops 1 = some (aCopy .cpym aPart) ∧ (aCopy .cpym aPart).parts[0]? = some aPart)) := by decide +kernel

/-! ### Service cores, the reeve, the module -/

/-- A command with its words 1 to 3 for context x, in mailbox 7 of core 15. -/
def mailWords (code x : Nat) (w1 w2 w3 : Word) : Vector Word 8 := #v[w64 (code + x * 2 ^ 16), w1, w2, w3, 0xFF, 0, 0, 0]

/-- A state whose core 15 performs it. -/
def mailState (s : State) (stream : Option Nat) (w : Vector Word 8) : State :=
  s.modCore 15 fun c => { c with cur := some (7, stream), mail := c.mail.setIfInBounds 7 w }

/-- The command as the core sees it. -/
def aCmd (stream : Option Nat) (w : Vector Word 8) : Cmd := { core := 15, slot := 7, words := w, stream := stream }

/-- A tenant's command of context 0, and of context 15; a reeve's command. -/
def tenant (s : State) (code : Nat) (w1 w2 w3 : Word) : State := mailState s (some 0) (mailWords code 0 w1 w2 w3)
def ofReeve (s : State) (code x : Nat) (w1 w2 : Word) : State := mailState s none (mailWords code x w1 w2 0)

/-- Each of these is ready: the command of a code over the stream it asks for. -/
def isReady (s : State) (c : Cmd) (code : Nat) (t : Bool) : Prop := Sys2Proof.mailReady s 15 c code t

theorem mail_ready (s : State) (c : Cmd) (code : Nat) (t : Bool)
    (h : s.command 15 = some c ∧ c.code = code ∧ c.stream = (if t then some c.ctx else none) ∧ wbits (c.word 0) 24 39 = 0 ∧ c.ctx < 16) :
    isReady s c code t := h

theorem witness_TenantCommands :
    (∀ v ∈ [(0x01, 0xCFFF, w64 (2 ^ 60 + 2 ^ 52), 0), (0x02, 0, 0, 0), (0x03, 3, 0x20000, 4), (0x04, mkHandle 1 1 0 0, 15, 7),
            (0x05, 63, 1, 0), (0x06, 1, mkHandle 1 1 0 0, 0), (0x0C, frameH, 0, 0),
            (0x12, 3, cellHandle 0, w64 (1 + 2 ^ 8 + 2031 * 2 ^ 24))],
      isReady (tenant State.reset v.1 v.2.1 v.2.2.1 v.2.2.2) (aCmd (some 0) (mailWords v.1 0 v.2.1 v.2.2.1 v.2.2.2)) v.1 true) ∧
    (let c := aCmd (some 0) (mailWords 0x01 0 0xCFFF (w64 (2 ^ 60 + 2 ^ 52)) 0)
     let s := tenant State.reset 0x01 0xCFFF (w64 (2 ^ 60 + 2 ^ 52)) 0
     (s.fibre c.fibre).word 0 = 0 ∧ wbits (c.word 2) 56 4 = c.ctx ∧
     (let c := aCmd (some 0) #v[1, 0xCFFF, w64 (2 ^ 60 + 2 ^ 52), 0, 0, 0, 0, 0]; c.fibreBad = false)) ∧
    (let c := aCmd (some 0) (mailWords 0x02 0 0 0 0)
     let s := tenant (State.reset.modFibre 0 fun f => f.setWord 0 (w64 (2 ^ 60))) 0x02 0 0 0
     wbits (c.word 1) 12 2 = 0 ∧ wbits (c.word 1) 16 48 = 0 ∧ wbits ((s.fibre c.fibre).word 0) 60 4 = 1 ∧
     wbits ((s.fibre c.fibre).word 0) 56 4 = c.ctx ∧ s.fibreBusy c.fibre = false) ∧
    (let h := mkHandle 1 1 0 0
     let s := tenant (withTask 0 0 armable State.reset) 0x04 h 15 7
     s.taskOk h = true ∧ (s.taskAt h).ctx = 0 ∧ (s.taskAt h).state = 1 ∧
     s.recordBad 0 15 ((s.taskAt h).word 15) (((s.taskAt h).word 15 &&& ~~~0xFF#64) ||| (7#64 &&& 0xFF#64)) = false) ∧
    (let h := mkHandle 1 1 0 0
     (tenant (withTask 0 0 armable (aState .a 0 id id)) 0x06 1 h 0).goCheck 0 [] [h] = none ∧
     ((tenant State.reset 0x06 1 h 0).goCheck 0 [] [h]).isSome = true) ∧
    (let s : State := { frameState 3 0 with compacts := [(3, aCompact (some []) true 0)] }
     handleForm frameH 4 framePool = true ∧ (s.frameAt frameH).gen = hGen frameH ∧ (s.frameAt frameH).state ≠ 0 ∧
     (s.frameAt frameH).ctx = 0 ∧
     (s.compacts.any fun j => j.2.die == hDie frameH && j.2.frame == hIndex frameH && j.2.halted) = true) ∧
    (let v := w64 (1 + 2 ^ 8 + 2031 * 2 ^ 24)
     wbits v 35 28 = 0 ∧ wbits v 0 8 ≠ 0 ∧ wbits v 8 16 ≠ 0 ∧ wbits v 24 11 ≤ 2031 ∧
     (granState (.futw 0 0)).cellTrip 0 (cellHandle 0) [.plain] = none) := by
  refine ⟨?_, by decide +kernel, by decide +kernel, by decide +kernel, by decide +kernel, by decide +kernel, by decide +kernel⟩
  intro v hv
  simp only [List.mem_cons, List.not_mem_nil, or_false] at hv
  obtain rfl | rfl | rfl | rfl | rfl | rfl | rfl | rfl := hv <;> exact mail_ready _ _ _ true (by decide +kernel)

/-- A state of the module. -/
def inState (m : MState) : State := { State.reset with mstate := m }
/-- Context 0 assigned, with a pre-emption so far. -/
def inPre (p : PreState) : State := State.reset.modCtx 0 fun c => { c with live := true, pre := p }

theorem witness_ReeveCommands :
    (∀ v ∈ [0x07, 0x08, 0x09, 0x0A, 0x0B, 0x0D, 0x0E, 0x0F, 0x10, 0x11],
      isReady (ofReeve State.reset v 0 1 0) (aCmd none (mailWords v 0 1 0 0)) v false) ∧
    ((ofReeve (inPre .none) 0x09 0 0 0).ctx 0).pre = .none ∧ ((ofReeve (inPre .none) 0x0B 0 0 0).ctx 0).live = true ∧
    ((ofReeve (inPre .spilled) 0x0A 0 0 0).ctx 0).pre = .spilled ∧
    (let lost : SpillTile := { tile := 0, vtile := 0, place := 0, key := 0, lease := [], keys := [], dead := [] }
     ((ofReeve (inPre .spilled) 0x0A 0 0 0).resumeCtx 0).2 = true ∧
     ((ofReeve (((inPre .spilled).modCtx 0 fun c => { c with spill := [lost] }).modTile 0 fun t => { t with owner := some 0#4 }) 0x0A 0 0 0).resumeCtx
       0).2 = false) ∧
    (let s : State := { State.reset with poison := [32767] }
     32767 < tierPages ∧ s.poison.contains 32767 = true ∧ s.poison.contains 32766 = false) ∧
    (((inState .configOpen).cfg.put 5 500).isSome = true ∧ (inState .configOpen).mstate = .configOpen) ∧
    (∀ m ∈ [MState.configOpen, .configLocked, .run, .retreat, .park], (ofReeve (inState m) 0x11 0 0 0).mstate = m) ∧
    (∀ code ∈ [0, 0x13], let c := aCmd none (mailWords code 0 0 0 0)
      (ofReeve State.reset code 0 0 0).command 15 = some c ∧ (c.code = 0 ∨ 0x12 < c.code)) ∧
    (let c := aCmd (some 0) (mailWords 0x0F 0 0 0 0)
     (tenant State.reset 0x0F 0 0 0).command 15 = some c ∧ c.code = 0x0F ∧ c.stream.isSome = true) ∧
    (let c := aCmd none (mailWords 0x05 0 0 0 0)
     (ofReeve State.reset 0x05 0 0 0).command 15 = some c ∧ c.code = 0x05 ∧ c.stream ≠ some c.ctx) := by
  refine ⟨?_, by decide +kernel⟩
  intro v hv
  simp only [List.mem_cons, List.not_mem_nil, or_false] at hv
  obtain rfl | rfl | rfl | rfl | rfl | rfl | rfl | rfl | rfl | rfl := hv <;>
    exact mail_ready _ _ _ false (by decide +kernel)

/-- Every die COLD, die 0 with sensors at n/16 K. -/
def coldState (m : MState) (n : Nat) : State :=
  let s : State := { State.reset with mstate := m, dies := Vector.replicate 4 { Die.reset with band := .cold } }
  s.modDie 0 fun y => { y with sensors := [n] }

/-- Every die COLD with TEMPSENSE of such readings, die 0 about to be sampled. -/
def sampled (m : MState) (n : Nat) : State :=
  let s := coldState m n
  { s with dies := s.dies.map fun (y : Die) => { y with tempsense := tempWord [n] } }

theorem witness_ModuleStates :
    (let l (n : Nat) : List Nat := ((coldState .run n).die 0).sensors
     let word (s : State) (e : Nat) : Word := if e = 0 then tempWord (s.die 0).sensors else (s.die e).tempsense
     let all (s : State) (f : Nat → Nat → Nat → Bool) : Bool :=
       (List.range 4).all fun e => (word s e).getLsbD 63 && f (wbits (word s e) 0 16) (wbits (word s e) 16 16) (wbits (word s e) 32 16)
     l 0x05F0 ≠ [] ∧ (coldState .run 0x05F0).bandOf (readMax (l 0x05F0)) ≤ ((coldState .run 0x05F0).die 0).band.num ∧
     ((coldState .run 0x05F1).die 0).band.num < (coldState .run 0x05F1).bandOf (readMax (l 0x05F1)) ∧
     (coldState .run 0x05F1).bandOf (readMax (l 0x05F1)) < 3 ∧
     ((coldState .run 6400).die 0).band.num < (coldState .run 6400).bandOf (readMax (l 6400)) ∧
     (coldState .run 6400).bandOf (readMax (l 6400)) = 3 ∧ all (coldState .run 6400) (fun _ lo _ => decide (4480 ≤ lo)) = false ∧
     (sampled .chill 1600).bandOf (readMax (l 1600)) < 3 ∧ all (sampled .chill 1600) (fun hi _ _ => decide (hi ≤ 1600)) = true ∧
     all (sampled .soak 1440) (fun hi _ g => decide (hi ≤ 1440) && decide (g < 32)) = true ∧
     all (sampled .soak 1441) (fun hi _ g => decide (hi ≤ 1440) && decide (g < 32)) = false ∧
     all (sampled .warm 4480) (fun _ lo _ => decide (4480 ≤ lo)) = true) ∧
    ({ State.reset with time := second }.modDie 3 fun y => { y with coolSince := some 0 }).coolDue 3 = true ∧
    ((State.reset.modDie 3 fun y => { y with switchBy := some 0 }).die 3).switchBy.isSome = true ∧
    (let t : State := { State.reset with power := [State.reset.cfg.power + 1] }
     let u : State := { State.reset with power := [State.reset.cfg.power] }
     t.cfg.power * t.power.length < t.power.foldl (· + ·) 0 ∧ u.power.foldl (· + ·) 0 ≤ u.cfg.power * u.power.length) ∧
    { inState .run with flowLow := some 0, time := 100 * millisecond }.coolantDue = true ∧
    { inState .soak with since := some 0, time := 60 * second }.soakDue = true ∧
    (inState .train).mstate = .train ∧ (inState .train).reeve.q + 16 ≤ lmsKeys ∧
    (coldState .configLocked 0).lockDue = true ∧ (coldState .configLocked 0).everRun = false ∧
    (inState .drain).drainDue = true ∧
    { coldState .park 0 with since := some 0, time := second }.parkDue = true ∧
    (let img : Image := { signed := true, version := 0, hash := 0, whole := true }
     let s (r : Reeve) : State := { State.reset with flow := 700, reeve := r }
     (s Reeve.reset).mstate = .off ∧ 700 ≤ (s Reeve.reset).flow ∧
     (s { Reeve.reset with bootOk := true }).reeve.update = none ∧
     (s { Reeve.reset with update := some img }).reeve.boot.bootOk = true ∧
     (s { Reeve.reset with image := none }).reeve.boot.bootOk = false ∧ (s { Reeve.reset with image := none }).reeve.bootOk = false ∧
     (s { Reeve.reset with tried := true }).reeve.tried = true ∧ Reeve.reset.accepts img = true) := by decide +kernel

/-- A continuation of context 0 that has trapped, in slot 65535 of die 3. -/
def trappedCont : State :=
  (withTask 0 0 (aTask 1 2 0) State.reset).setCont 3 65535
    (({ ContRec.reset with gen := 1 }.setState 3).setWord 1 (mkHandle 1 1 0 0))

theorem witness_ReeveServices :
    (State.reset.reeve.q < lmsKeys ∧ lmsKeys ≤ { State.reset with reeve := { Reeve.reset with q := 32768 } }.reeve.q) ∧
    ((inPre .none).ctx 0).live = true ∧ (State.reset.ctx 0).session = false ∧
    (let s := State.reset.modCtx 0 fun c => { c with session := true }
     (s.ctx 0).session = true ∧ (s.debug 0 (.breakpoint 3 1)).isSome = true ∧ (s.debug 0 (.control 1)).isSome = true) ∧
    (let s := trappedCont.modCtx 0 fun c => { c with session := true }
     let h := mkHandle 2 1 3 65535
     (s.ctx 0).session = true ∧ s.contOf 0 h = true ∧ (s.cont (hDie h) (hIndex h)).state = 3 ∧ (s.cont (hDie h) (hIndex h)).word 1 ≠ 0#64) ∧
    (State.reset.mayAssign { ctx := 15, clusters := [(3, 15), (0, 0)], vtiles := [], keyIds := [], xlroot := 1, rotbase := 0, tbudget := 0, prectl := 0, tenantKey := none, windows := [] } = false) ∧
    (let a : Assignment := { ctx := 15, clusters := [(3, 15)], vtiles := (clusterTiles 3 15).map fun k => (k, BitVec.ofNat 10 k), keyIds := [(23, 15)]
                             xlroot := 1, rotbase := 0, tbudget := 0, prectl := 0, tenantKey := none, windows := [(63, 0, 0)] }
     State.reset.mayAssign a = true ∧ a.windows = [(63, 0, 0)]) ∧
    (inState .configOpen).mstate = .configOpen ∧ State.reset.mstate ≠ .configOpen ∧
    (State.reset.ctx 15).tdisp = .unlocked ∧ ((State.reset.modCtx 15 fun c => { c with tdisp := .locked }).ctx 15).tdisp = .locked ∧
    ((inPre .none).ctx 0).pre = .none := by decide +kernel

/-- A part that arrives from module 2, sent through window 63. -/
def aRemote (key : Word) : RemotePart :=
  { drill := 0, target := 0, source := 2, stream := 0, seq := 0, window := 63, key := key, write := false, pa := 0, bytes := 64
    data := [], hops := 1 }

/-- Window 63 of context 0: valid, one page, readable and writable, key 5. -/
def windowState : State :=
  { State.reset with wintab := State.reset.wintab.setIfInBounds 63 (w64 (2 ^ 63 + 2 ^ 61 + 2 ^ 60 + 2 ^ 32), 5) }

/-- Context 0 with a root table in page 1, whose leaf of 8,192 pages in page 2 maps page 0 under key id 0; the keys are given. -/
def ownerState : State :=
  let s := { windowState with clockOn := true }.modCtx 0 fun c => { c with xlroot := w64 (1 + 2 ^ 16), tbudget := BitVec.allOnes 64 }
  let tier := Memory.write (Memory.write [] 0x10000 8 (1 + 2 * 2 ^ 26)) 0x20000 8 3
  { s with tier := tier }.modCtrl (colour 0) fun c => { c with keys := Vector.replicate 16 { valid := true, ctx := 0, key := 1 } }

/-- A ring of context 15 on plain cell 0, whose tail is 5, with a threshold. -/
def ringState (n : Nat) (timer : Option Nat) : State :=
  { granState (.futw 0 0) with time := 9 }.modCtx 15 fun c => { c with
    tring := c.tring.setIfInBounds 3 { w0 := cellHandle 0, w1 := w64 (2 ^ 63 + n + 2 ^ 8), q := 0, timer := timer, seen := 0 } }

/-- The port 15 of a module of which `f` holds leads to module 9; it is up. -/
def linkState (f : LinkPort → LinkPort) : State :=
  { State.reset with cfg := { State.reset.cfg with lroute := [(9, 0xC000#16), (2, 0x8000#16)] }
                     links := (State.reset.links.set 15 (f { LinkPort.reset with up := true })).set 14 { LinkPort.reset with up := true } }

/-- A packet that stands in the replay buffer. -/
def aPacket (n : Nat) : Packet := { seq := n, key := 3, item := .forward (aRemote 0) }

theorem witness_RemoteParts :
    (let s := State.reset
     let r := aRemote 5
     r.target = s.cfg.moduleId.toNat ∧ s.remoteHeld = [] ∧ r.seq = s.expectedSeq r ∧ s.mstate ≠ .warm ∧ s.windowKind r = some 4 ∧
     s.expectedSeq r < ({ r with seq := 1 } : RemotePart).seq ∧ (inState .warm).mstate = .warm ∧
     (let u : State := { s with remoteSeq := [((2, 0), 1)] }; r.seq < u.expectedSeq r) ∧ (s.route r.source).all (fun q => (s.link q).fits) = true) ∧
    (let r := aRemote 5
     let x := wbits ((windowState.wintab[r.window]?).getD (0#64, 0#64)).1 56 4
     windowState.windowKind r = none ∧ remoteLines r = 0 :: [] ∧ windowState.windowKey (r.pa / 65536) x = .inl 1) ∧
    (let r := aRemote 5
     let x := wbits ((ownerState.wintab[r.window]?).getD (0#64, 0#64)).1 56 4
     let two : RemotePart := { r with bytes := 128 }
     let u (n : Word) := ownerState.modCtx 0 fun c => { c with tbudget := n }
     ownerState.windowKind r = none ∧ ownerState.windowKey (r.pa / 65536) x = .inr 1 ∧ ownerState.clockOn = true ∧
     ownerState.drillOpen (colour (r.pa / 65536)) x = true ∧ ownerState.linkBudget x r.source = true ∧ ownerState.poison = [] ∧
     ownerState.hard = [] ∧ r.write = false ∧ ownerState.windowKind { r with write := true, data := List.replicate 64 1#8 } = none ∧
     (u 0).windowKind r = none ∧ (u 0).windowKey (r.pa / 65536) x = .inr 1 ∧ (u 0).drillOpen (colour (r.pa / 65536)) x = false ∧
     (u 1).windowKind two = none ∧ remoteLines two = 0 :: [1] ∧ (u 1).drillOpen (colour (two.pa / 65536)) x = true ∧
     (let v := (u 1).spendDrill (colour (two.pa / 65536)) x 960
      v.drillOpen (colour (two.pa / 65536)) x = true ∧
      v.budget x 0 ≤ spentOf (v.ctrl (colour (two.pa / 65536))).spent x + (remoteLine two 0).2)) ∧
    (let r : RemotePart := { aRemote 0 with target := 9, hops := 7 }
     let s := linkState id
     r.target ≠ s.cfg.moduleId.toNat ∧ s.route r.target = some 14 ∧ (s.link 14).fits = true ∧ r.hops < 8 ∧ State.reset.route r.target = none ∧
     s.route r.source = some 15 ∧ ((linkState fun p => { p with queue := [.forward r] }).link 15).fits = false ∧
     8 ≤ ({ r with hops := 8 } : RemotePart).hops) := by decide +kernel

theorem witness_LinksMove :
    (let s := linkState fun p => { p with rx := { LinkDir.reset with seq := 4, rekey := some (5, 9) } }
     (State.reset.link 15).rx.rekey = none ∧ State.reset.rekeyDue 15 false = false ∧ (s.link 15).rx.rekey = some (5, 9) ∧
     5 ≤ (s.link 15).rx.seq + 1 ∧ ({ LinkDir.reset with seq := 3 } : LinkDir).seq + 1 < 5) ∧
    (let s := linkState fun p => { p with replay := [aPacket 2, aPacket 3] }
     (s.link 15).replay = aPacket 2 :: [aPacket 3] ∧ (s.link 15).queue = [] ∧ (State.reset.link 15).replay = []) ∧
    (let s := linkState fun p => { p with replay := List.replicate 64 (aPacket 2), queue := [.forward (aRemote 0)] }
     (s.link 15).replay = aPacket 2 :: List.replicate 63 (aPacket 2) ∧ (s.link 15).queue = .forward (aRemote 0) :: [] ∧
     (List.replicate 63 (aPacket 2)).length < 64 ∧ (s.link 15).tx.seq < linkLimit ∧ (s.link 15).tx.rekey = none ∧ s.rekeyDue 15 true = false) ∧
    (let pk : Packet := { seq := 0, key := 0, item := .forward { aRemote 0 with target := 9 } }
     let s : State := { linkState (fun p => { p with tx := { LinkDir.reset with since := some 0 }, replay := [pk] }) with time := 100 * microsecond }
     s.portDead 15 = true ∧ State.reset.portDead 15 = false ∧ (s.link 15).replay = [pk] ∧ (s.link 15).queue = [] ∧ (s.link 14).fits = true ∧
     (match exec (.linkPortDown 15) s with
      | .next t => t.route 9 == some 14
      | _ => false) = true) ∧
    (∀ out ∈ [true, false], ((State.reset.link 15).dir out).seq < 5) ∧ 5 < linkLimit ∧ State.reset.canSign = true ∧
    ({ State.reset with reeve := { State.reset.reeve with q := lmsKeys } }).canSign = false := by decide +kernel

/-- R264: a packet that fails is sent again, under its own nonce and key, and stays in the replay buffer. -/
theorem test_packet_again :
    (match exec (.linkFlitReceive ⟨15, true⟩ false) (linkState fun p => { p with replay := [aPacket 2] }) with
     | .next t => decide ((t.link 15).replay = [aPacket 2] ∧
         t.sent = [.remoteForward 15 (aRemote 0), .linkPacket 15 (linkNonce 0 15 2) 3 (.forward (aRemote 0))])
     | _ => false) = true := by decide +kernel

theorem witness_LinksAndHost :
    (let s : State := State.reset.modCore 15 fun c => { c with queue := [.read 64 64] }
     (s.core 15).queue = .read 64 64 :: [] ∧ s.inHdmRange 64 64 = false ∧
     { s with cfg := { s.cfg with hdm := (64, 64) } }.inHdmRange 64 64 = true) ∧
    (let s := ringState 5 none
     let r := (s.ctx 15).ring 3
     r.w1.getLsbD 63 = true ∧ s.cellOk r.w0 = true ∧ (s.cellAt r.w0).w0 ≠ r.seen ∧ wbits r.w1 0 8 ≤ ((s.cellAt r.w0).w0 - r.q).toNat) ∧
    (let s := ringState 6 none
     let r := (s.ctx 15).ring 3
     r.w1.getLsbD 63 = true ∧ ((s.cellAt r.w0).w0 - r.q).toNat < wbits r.w1 0 8) ∧
    (let s := ringState 6 (some 9)
     ((s.ctx 15).ring 3).expired s.time = true ∧ s.cellOk ((s.ctx 15).ring 3).w0 = true) ∧
    (∀ p ∈ [PreState.running none 0, .running (some 0) 0, .dying 5 0 [] []], (inPre p).spillDue 0 = true ∧ ((inPre p).ctx 0).pre = p) ∧
    (let s : State := { State.reset with hard := [(1024, 0)], soft := [(1025, 0)] }
     s.poison.contains (1024 / 1024) = false ∧ (mget s.hard 1024).isSome = true ∧ mget s.hard 1025 = none ∧
     (mget s.soft 1025).isSome = true) ∧
    (let s : State := State.reset.modDie 3 fun y => { y with odd := [(1, 0)] }
     (s.die 3).odd.any (·.1 == 1) = true ∧ (s.die 3).odd.any (·.1 == 0) = false ∧ (s.die 3).treesIn = [0, 1]) := by
  decide +kernel
/-! ### Encodings, steps, frames, invariants -/

theorem witness_DecodeEncode : encode (.vtopk true 15#4 15#4) ≠ [] ∧ encode (.add false 0#4 0#4) ≠ [] := by decide +kernel

/-- A word that decodes and one that does not, each about to be issued in the A-strand of tile 0; an event at its turn. -/
theorem witness_StepRunsDecoded :
    (∀ w ∈ [(0x1343 : Nat), 0x7F00], let s := State.reset.withFetchWord 16 w
      dueInput s.time s.inputs = none ∧ s.todo = .issue 0 .a :: [] ∧
      (let u : State := { s with todo := [] }
       let x := (s.tile 0).regs .a
       u.runOf 0 = some placeRun ∧ u.mayIssue 0 .a placeRun = true ∧ u.breakAt placeRun x = none ∧ placeRun.inCode x.pc.toNat 2 = true ∧
       BitVec.ofNat 16 (Memory.read (s.tile 0).store.mem (x.pc.toNat - (s.tile 0).store.base) 2) = BitVec.ofNat 16 w ∧
       plPage x.platch = 0)) ∧
    decode 0 0x1343#16 = .ok (.add false 4#4 3#4) ∧ decode 0 0x7F00#16 = .error .reservedOpcode ∧
    { State.reset with todo := [.ev .soakDone] }.todo = .ev .soakDone :: [] :=
  ⟨by decide +kernel, rfl, rfl, rfl⟩

/-- A step, or the execution of an instruction, that goes on. -/
def goes (r : Result) : Bool := match r with
  | .next _ => true
  | _ => false

theorem witness_RegisterWordsFrame :
    Meets (aState .a (plX 0x03) id id) (fun e => goes (exec (.add false 4#4 3#4) e.s) = true ∧
      scalarDest e.pl (.add false 4#4 3#4) = some 4 ∧ ∀ x ∈ e.r.loops, x.stop ≠ e.r.pc) ∧
    Meets (aState .e (plX 0x03) id id) (fun e => goes (exec (.cmpeq false 7#3 15#5) e.s) = true ∧
      predDest (.cmpeq false 7#3 15#5) = some 7) :=
  ⟨⟨_, rfl, by decide +kernel⟩, ⟨_, rfl, by decide +kernel⟩⟩

theorem witness_Stores :
    narrowStore false 1#4 2#4 8 (.std false 1#4 2#4) ∧
    Meets (at2 0x3FFFF8 id) (fun e => goes (exec (.std false 1#4 2#4) e.s) = true ∧ e.pipeTaken = false ∧
      e.runs false formD2.aOnly false [tS (dNum e.pl 1#4), tS (aNum e.pl 2#4)] = true ∧
      portACheck e.t e.run 0x3FFFF8 8 8 = none ∧ e.t.isDead 0x3FFFF8 8 = false ∧ e.t.sb.length < 16 ∧
      (e.r.sget (aNum e.pl 2#4)).toNat % 2 ^ 22 = 0x3FFFF8) :=
  ⟨.inr (.inr (.inr ⟨rfl, rfl⟩)), ⟨_, rfl, by decide +kernel⟩⟩

theorem witness_FarMemoriesStayCanonical : State.reset.farCanonical ∧ goes (step State.reset) = true :=
  ⟨by unfold State.farCanonical; decide, by decide +kernel⟩

theorem witness_LockedConfigurationStays : State.reset.mstate ≠ .configOpen ∧ goes (step State.reset) = true := by decide +kernel

end Sys2Proof.Tests
end

section
/-!
Far memory, part 1: the far memories of a state as one value, and for every function of the model that cannot write them that they are what they
were.  Each lemma is tagged for `simp`, so that a function's lemma is its own branches and the lemmas of what it calls.
-/
namespace Sys2Proof.Machine

/-- The far memories of a module: its second tier, the host's memory, and the second tiers of other modules (R3). -/
structure FarMem where
  tier : List Host.Cell
  host : List Host.Cell
  remotes : List (Nat × List Host.Cell)

/-- The far memories that a state holds. -/
def State.far (s : State) : FarMem := ⟨s.tier, s.host, s.remotes⟩

/-- The canonical form of far memories (log entry 1). -/
def FarMem.Canonical (m : FarMem) : Prop := Memory.wf m.tier ∧ Memory.wf m.host ∧ ∀ p ∈ m.remotes, Memory.wf p.2

theorem State.farCanonical_iff (s : State) : s.farCanonical ↔ s.far.Canonical := Iff.rfl

/-- What a state written out field by field holds. -/
@[simp] theorem State.far_mk
      cycle time clockOn everRun choice seq waiting who todo inputs sent tiles dies ctxs ctrls cores msix links runs bookings
      ops fences writes tier tierKeys host remotes refusing hostPriv poison soft hard homes walks handlers frets compacts
      lookups rebuilds invals messages wintab remoteSeq remoteHeld windowWrites linkSeq harrowSpent hostSpent mstate cause
      since flowLow drainCmd selfRefresh bandReg clockSlow errstat coolflow flow power powerNow holdBook cfg reeve freeCount :
    (State.mk
      cycle time clockOn everRun choice seq waiting who todo inputs sent tiles dies ctxs ctrls cores msix links runs bookings
      ops fences writes tier tierKeys host remotes refusing hostPriv poison soft hard homes walks handlers frets compacts
      lookups rebuilds invals messages wintab remoteSeq remoteHeld windowWrites linkSeq harrowSpent hostSpent mstate cause
      since flowLow drainCmd selfRefresh bandReg clockSlow errstat coolflow flow power powerNow holdBook cfg reeve freeCount).far =
      ⟨tier, host, remotes⟩ := (rfl)

@[simp] theorem State.far_eta (s : State) : FarMem.mk s.tier s.host s.remotes = s.far := (rfl)

@[simp] theorem State.far_ite (c : Prop) [Decidable c] (s t : State) :
    (if c then s else t).far = if c then s.far else t.far := by split <;> rfl

@[simp] theorem State.far_fst_ite {α : Type} (c : Prop) [Decidable c] (x y : State × α) :
    (if c then x else y).1.far = if c then x.1.far else y.1.far := by split <;> rfl

@[simp] theorem nextOr_ite (s : State) (c : Prop) [Decidable c] (x y : Result) :
    nextOr s (if c then x else y) = if c then nextOr s x else nextOr s y := by split <;> rfl

@[simp] theorem nextOr_next (s t : State) : nextOr s (.next t) = t := (rfl)
@[simp] theorem nextOr_fault (s : State) (x : Fault) : nextOr s (.fault x) = s := (rfl)
@[simp] theorem nextOr_refused (s : State) (x : Refusal) : nextOr s (.refused x) = s := (rfl)

/-- A fold of updates that leave the far memories alone leaves them alone. -/
@[simp] theorem foldl_far {α : Type} {f : State → α → State} (hf : ∀ s x, (f s x).far = s.far) (l : List α) (s : State) :
    (l.foldl f s).far = s.far := by
  induction l generalizing s with
  | nil => rfl
  | cons x l ih => exact (ih _).trans (hf _ _)

/-- The same for a fold that carries more than the state. -/
theorem foldl_fst_far {α β : Type} {f : State × β → α → State × β} (hf : ∀ a x, (f a x).1.far = a.1.far) (l : List α)
    (a : State × β) : (l.foldl f a).1.far = a.1.far := by
  induction l generalizing a with
  | nil => rfl
  | cons x l ih => exact (ih _).trans (hf _ _)

theorem far_of_fst {α : Type} {p : State × α} {s t : State} {y : α} (g : p = (t, y)) (h : p.1.far = s.far) : t.far = s.far := by
  rwa [g] at h

/-! ## What leaves the far memories alone -/

/-! ### The parts of the state (Sys2Proof/Machine/Base.lean) -/

@[simp] theorem State.setTile_far (s : State) (k : Nat) (t : Tile) : (s.setTile k t).far = s.far := by simp [State.setTile]

@[simp] theorem State.modTile_far (s : State) (k : Nat) (f : Tile → Tile) : (s.modTile k f).far = s.far := by simp [State.modTile]

@[simp] theorem State.modDie_far (s : State) (d : Nat) (f : Die → Die) : (s.modDie d f).far = s.far := by simp [State.modDie]

@[simp] theorem State.modCtx_far (s : State) (x : Nat) (f : Ctx → Ctx) : (s.modCtx x f).far = s.far := by simp [State.modCtx]

@[simp] theorem State.modCtrl_far (s : State) (c : Nat) (f : Ctrl → Ctrl) : (s.modCtrl c f).far = s.far := by simp [State.modCtrl]

@[simp] theorem State.modCore_far (s : State) (k : Nat) (f : Core → Core) : (s.modCore k f).far = s.far := by simp [State.modCore]

@[simp] theorem State.modLink_far (s : State) (p : Nat) (f : LinkPort → LinkPort) : (s.modLink p f).far = s.far := by simp [State.modLink]

@[simp] theorem State.modRun_far (s : State) (r : Nat) (f : Run → Run) : (s.modRun r f).far = s.far := by
  unfold State.modRun
  split <;> simp

@[simp] theorem State.send_far (s : State) (o : Output) : (s.send o).far = s.far := by simp [State.send]

@[simp] theorem State.setMsixFn_far (s : State) (p : Nat) (f : MsixFn) : (s.setMsixFn p f).far = s.far := by simp [State.setMsixFn]

@[simp] theorem State.sendMsix_far (s : State) (p v : Nat) : (s.sendMsix p v).far = s.far := by simp [State.sendMsix]

@[simp] theorem State.flushMsix_far (s : State) (p : Nat) : (s.flushMsix p).far = s.far := by simp [State.flushMsix]

@[simp] theorem State.count_far (s : State) (lo n : Nat) : (s.count lo n).far = s.far := by simp [State.count]

@[simp] theorem State.countSram_far (s : State) : s.countSram.far = s.far := by simp [State.countSram]

@[simp] theorem State.countTier_far (s : State) : s.countTier.far = s.far := by simp [State.countTier]

@[simp] theorem State.countLink_far (s : State) : s.countLink.far = s.far := by simp [State.countLink]

@[simp] theorem State.countRedo_far (s : State) : s.countRedo.far = s.far := by simp [State.countRedo]

@[simp] theorem State.countUncorrectable_far (s : State) : s.countUncorrectable.far = s.far := by simp [State.countUncorrectable]

/-! ### Shared operations: repairs, records and references (Sys2Proof/Machine/Ops.lean) -/

@[simp] theorem State.repair_far (s : State) (k f n : Nat) : (s.repair k f n).far = s.far := by simp [State.repair]

@[simp] theorem State.setTask_far (s : State) (d i : Nat) (x : TaskRec) : (s.setTask d i x).far = s.far := by simp [State.setTask]

@[simp] theorem State.modTask_far (s : State) (d i : Nat) (f : TaskRec → TaskRec) : (s.modTask d i f).far = s.far := by
  simp [State.modTask]

@[simp] theorem State.setCont_far (s : State) (d i : Nat) (x : ContRec) : (s.setCont d i x).far = s.far := by simp [State.setCont]

@[simp] theorem State.modCont_far (s : State) (d i : Nat) (f : ContRec → ContRec) : (s.modCont d i f).far = s.far := by
  simp [State.modCont]

@[simp] theorem State.setCell_far (s : State) (d i : Nat) (x : Cell) : (s.setCell d i x).far = s.far := by simp [State.setCell]

@[simp] theorem State.modCell_far (s : State) (d i : Nat) (f : Cell → Cell) : (s.modCell d i f).far = s.far := by simp [State.modCell]

@[simp] theorem State.setFrame_far (s : State) (d i : Nat) (x : Frame) : (s.setFrame d i x).far = s.far := by simp [State.setFrame]

@[simp] theorem State.modFrame_far (s : State) (d i : Nat) (f : Frame → Frame) : (s.modFrame d i f).far = s.far := by
  simp [State.modFrame]

@[simp] theorem State.setFibre_far (s : State) (f : BitVec 16) (x : Fibre) : (s.setFibre f x).far = s.far := by simp [State.setFibre]

@[simp] theorem State.modFibre_far (s : State) (f : BitVec 16) (g : Fibre → Fibre) : (s.modFibre f g).far = s.far := by
  simp [State.modFibre]

@[simp] theorem State.renew_far (s : State) (d cls i : Nat) : (s.renew d cls i).far = s.far := by simp [State.renew]

theorem State.reserveCont_far {s t : State} {d i : Nat} (h : s.reserveCont d = some (i, t)) : t.far = s.far := by
  unfold State.reserveCont at h
  split at h <;> cases h
  simp

@[simp] theorem State.unreserve_far (s : State) (d i : Nat) : (s.unreserve d i).far = s.far := by simp [State.unreserve]

@[simp] theorem State.claimSlot_far (s : State) (d i : Nat) : (s.claimSlot d i).far = s.far := by simp [State.claimSlot]

theorem State.claimCont_far {s t : State} {d i : Nat} (h : s.claimCont d = some (i, t)) : t.far = s.far := by
  unfold State.claimCont at h
  split at h <;> cases h
  rename_i g
  simp [State.reserveCont_far g]

@[simp] theorem State.freeCont_far (s : State) (d i : Nat) : (s.freeCont d i).far = s.far := by simp [State.freeCont]

@[simp] theorem State.addContRef_far (s : State) (h : Word) : (s.addContRef h).far = s.far := by simp [State.addContRef]

@[simp] theorem State.dropContRef_far (s : State) (h : Word) : (s.dropContRef h).far = s.far := by simp [State.dropContRef]

@[simp] theorem State.dropTaskRef_far (s : State) (h : Word) : (s.dropTaskRef h).far = s.far := by simp [State.dropTaskRef]

@[simp] theorem State.addTaskRef_far (s : State) (h : Word) : (s.addTaskRef h).far = s.far := by simp [State.addTaskRef]

@[simp] theorem State.freeTask_far (s : State) (d i : Nat) : (s.freeTask d i).far = s.far := by simp [State.freeTask]

/-! ### The issue of a word (Sys2Proof/Machine/Issue.lean) -/

@[simp] theorem Env.raise_far (e : Env) (i : TrapInfo) (due : Nat) : (e.raise i due).far = e.s.far := by simp [Env.raise]

@[simp] theorem State.retire_far (s : State) (k : Nat) (σ : Side) (jump : Option (Word × Bool)) (cost : Nat) (due : Option Nat) :
    (s.retire k σ jump cost due).far = s.far := by
  simp [State.retire]

@[simp] theorem Env.raiseLater_far (e : Env) (s : State) (i : TrapInfo) (due : Nat) (owner : Option Nat) :
    (e.raiseLater s i due owner).far = s.far := by simp [Env.raiseLater]

@[simp] theorem Env.trap_far (e : Env) (t : Trip) (due : Nat) : (e.trap t due).far = e.s.far := by simp [Env.trap]

@[simp] theorem Env.trapStay_far (e : Env) (s : State) (t : Trip) (due : Nat) : (e.trapStay s t due).far = s.far := by
  simp [Env.trapStay]

@[simp] theorem Env.apply_ite (e : Env) (c : Prop) [Decidable c] (x y : Effect) :
    e.apply (if c then x else y) = if c then e.apply x else e.apply y := by split <;> rfl

@[simp] theorem Env.trapForm_far (e : Env) (f : Form) (t : Trip) : (e.trapForm f t).far = e.s.far := by simp [Env.trapForm]

@[simp] theorem Env.issue_far (e : Env) (f : Form) (bad commit : Bool) (uses : List Touch) {body : Env → Effect}
    (h : (e.apply (body e)).far = e.s.far) : (e.issue f bad commit uses body).far = e.s.far := by
  unfold Env.issue
  (repeat' split) <;> simp [h]

theorem State.focus_far {s : State} {e : Env} (h : s.focus = some e) : e.s.far = s.far := by
  rw [(State.focus_some h).1]

/-- A word whose own effect leaves the far memories alone leaves them alone, however its issue ends (R278). -/
@[simp] theorem issueIf_far {bad : BitVec 128 → Bool} {m : Bool} {f : Form} {commit : Bool} {uses : Env → List Touch} {body : Env → Effect}
    (h : ∀ e : Env, (e.apply (body e)).far = e.s.far) (s : State) : (nextOr s (issueIf bad m f commit uses body s)).far = s.far := by
  unfold issueIf
  split
  · rfl
  · rename_i e he
    split
    · rfl
    · exact (e.issue_far _ _ _ _ (h e)).trans (State.focus_far he)

@[simp] theorem issue_far {m : Bool} {f : Form} {commit : Bool} {uses : Env → List Touch} {body : Env → Effect}
    (h : ∀ e : Env, (e.apply (body e)).far = e.s.far) (s : State) : (nextOr s (issue m f commit uses body s)).far = s.far :=
  issueIf_far h s

@[simp] theorem Env.holding_far {e : Env} (hold : Tile → Tile) {x : Effect} (h : (e.apply x).far = e.s.far) :
    (e.apply (e.holding hold x)).far = e.s.far := by
  cases x with
  | trap t due => simp [Env.holding]
  | _ => exact h

@[simp] theorem Env.regs_far (e : Env) (f : Regs → Regs) : (e.regs f).far = e.s.far := by simp [Env.regs]

@[simp] theorem Env.short_far (e : Env) (f : Regs → Regs) : (e.apply (Env.short e f)).far = e.s.far := by simp [Env.short]

@[simp] theorem Env.shortChecked_far (e : Env) (f : Regs → Regs) : (e.apply (Env.shortChecked e f)).far = e.s.far := by
  simp [Env.shortChecked]

@[simp] theorem Env.later_far (e : Env) (lat : Nat) (v : ResVal) (flags : BitVec 5) :
    (e.apply (Env.later e lat v flags)).far = e.s.far := by
  simp [Env.later]

@[simp] theorem Env.laterChecked_far (e : Env) (lat : Nat) (v : ResVal) (flags : BitVec 5) :
    (e.apply (Env.laterChecked e lat v flags)).far = e.s.far := by
  simp [Env.laterChecked]

@[simp] theorem issuePrefix_far (illegal : BitVec 128 → Bool) (add : BitVec 128 → BitVec 128) (s : State) :
    (nextOr s (issuePrefix illegal add s)).far = s.far := by
  unfold issuePrefix
  split
  · rfl
  · rename_i e he
    split <;> simp [State.focus_far he]

/-! ### Scalar words (Sys2Proof/Machine/Scalar.lean) -/

@[simp] theorem binShort_far (m : Bool) (f : Form) (d a : BitVec 4) (op : Word → Word → Word) (s : State) :
    (nextOr s (binShort m f d a op s)).far = s.far := by
  simp [binShort]

@[simp] theorem binLater_far (m : Bool) (f : Form) (lat : Nat) (d a : BitVec 4) (op : Word → Word → Word) (s : State) :
    (nextOr s (binLater m f lat d a op s)).far = s.far := by
  simp [binLater]

@[simp] theorem unaShort_far (m : Bool) (d a : BitVec 4) (op : Word → Word) (s : State) :
    (nextOr s (unaShort m d a op s)).far = s.far := by
  simp [unaShort]

@[simp] theorem immShort_far (m : Bool) (f : Form) (d : BitVec 4) (imm : BitVec 128 → Word) (op : Word → Word → Word) (s : State) :
    (nextOr s (immShort m f d imm op s)).far = s.far := by
  simp [immShort]

@[simp] theorem compare_far (m : Bool) (p : BitVec 3) (a : BitVec 5) (cond : Word → Word → Bool) (s : State) :
    (nextOr s (compare m p a cond s)).far = s.far := by
  simp [compare]

/-! ### Control words (Sys2Proof/Machine/Control.lean) -/

@[simp] theorem execReservedEncoding_far (w : BitVec 16) (s : State) : (nextOr s (execReservedEncoding w s)).far = s.far := by
  unfold execReservedEncoding
  split
  · rfl
  · rename_i e he
    split <;> simp [State.focus_far he]

@[simp] theorem Env.endStrand_far (e : Env) (byAwait : Bool) {s : State} (h : s.far = e.s.far) :
    (e.apply (e.endStrand byAwait s)).far = e.s.far := by simp [Env.endStrand, h]

@[simp] theorem Env.jump_far (e : Env) (target : Word) (cost : Nat) : (e.apply (Env.jump e target cost)).far = e.s.far := by
  simp [Env.jump]

@[simp] theorem Env.jumpTo_far (e : Env) (a : Word) : (e.apply (Env.jumpTo e a)).far = e.s.far := by simp [Env.jumpTo]

@[simp] theorem Env.jmptRead_far (e : Env) (f : Nat) : (e.jmptRead f).far = e.s.far := by simp [Env.jmptRead]

@[simp] theorem execJmpt_far (m : Bool) (d a : BitVec 4) (s : State) : (nextOr s (execJmpt m d a s)).far = s.far :=
  issue_far (fun e => by dsimp only; (repeat' split) <;> simp) s

@[simp] theorem execBrq_far (m : Bool) (n : Bool) (o : BitVec 7) (s : State) : (nextOr s (execBrq m n o s)).far = s.far :=
  issue_far (fun e => by dsimp only; split <;> simp) s

@[simp] theorem Env.trapBoth_far (e : Env) (t : Trip) : (e.trapBoth t).far = e.s.far := by simp [Env.trapBoth]

@[simp] theorem Env.restartBoth_far (e : Env) (i j : Nat) : (e.restartBoth i j).far = e.s.far := by simp [Env.restartBoth]

@[simp] theorem execRestartpt_far (m : Bool) (i : BitVec 8) (s : State) : (nextOr s (execRestartpt m i s)).far = s.far :=
  issue_far (fun e => by dsimp only; (repeat' split) <;> simp) s

@[simp] theorem execArrive_far (m : Bool) (s : State) : (nextOr s (execArrive m s)).far = s.far :=
  issue_far (fun e => by dsimp only; (repeat' split) <;> simp) s

/-! ### Vector words (Sys2Proof/Machine/Vector.lean) -/

@[simp] theorem vecIssue_far {m : Bool} {f : Form} {bad : BitVec 128 → Bool} {lat : Nat} {d : BitVec 128 → Nat} {srcs : BitVec 128 → List Nat}
    {old : Bool} {code : Env → Bool} {op : Env → List Vec → Vec × FFlags} {also : Env → List Touch} (s : State) :
    (nextOr s (vecIssue m f bad lat d srcs old code op s also)).far = s.far :=
  issueIf_far (fun e => by dsimp only; (repeat' split) <;> simp) s

@[simp] theorem vecArith_far (m : Bool) (d a : BitVec 4) (f : Nat → Bool → Nat → Nat → Nat × FFlags) (s : State) :
    (nextOr s (vecArith m d a f s)).far = s.far := by
  simp [vecArith]

@[simp] theorem vecToScalar_far {m : Bool} {f : Form} {bad : BitVec 128 → Bool} {lat : Nat} {d a : BitVec 4} {code : Env → Bool}
    {op : Env → Vec → Word × FFlags} (s : State) : (nextOr s (vecToScalar m f bad lat d a code op s)).far = s.far :=
  issueIf_far (fun e => by dsimp only; (repeat' split) <;> simp) s

@[simp] theorem vecUnary_far (m : Bool) (f : Form) (lat : Nat) (d a : BitVec 4) (op : Bool → Nat → Nat × FFlags) (s : State) :
    (nextOr s (vecUnary m f lat d a op s)).far = s.far := by
  simp [vecUnary]

/-! ### Floating-point words (Sys2Proof/Machine/Float.lean) -/

@[simp] theorem fpBin_far (m : Bool) (lat : Nat) (d a : BitVec 4) (op : Nat → Nat → Nat → Nat × FFlags) (s : State) :
    (nextOr s (fpBin m lat d a op s)).far = s.far := by
  simp [fpBin]

@[simp] theorem fpUna_far {m : Bool} {f : Form} {lat : Nat} {d a : BitVec 4} {code : Env → Bool} {op : Env → Word → Word × FFlags}
    {also : Env → List Touch} (s : State) : (nextOr s (fpUna m f lat d a code op s also)).far = s.far :=
  issue_far (fun e => by simp) s

@[simp] theorem fpCompare_far (m : Bool) (c : Nat) (p : BitVec 3) (a : BitVec 5) (s : State) :
    (nextOr s (fpCompare m c p a s)).far = s.far := by
  simp [fpCompare]

/-! ### Links (Sys2Proof/Machine/Links.lean) -/

@[simp] theorem State.exchange_far (s : State) (n : Nat) : (s.exchange n).far = s.far := by simp [State.exchange]

@[simp] theorem State.rekey_far (s : State) (port : Nat) (out : Bool) (seq : Nat) : (s.rekey port out seq).far = s.far := by
  simp [State.rekey]

@[simp] theorem State.rekeyFirst_far (s : State) (port : Nat) (out : Bool) : (s.rekeyFirst port out).far = s.far := by
  simp [State.rekeyFirst]

@[simp] theorem State.bringUp_far (s : State) (port : Nat) : (s.bringUp port).far = s.far := by simp [State.bringUp]

@[simp] theorem State.emit_far (s : State) (port : Nat) (p : Packet) : (s.emit port p).far = s.far := by
  unfold State.emit
  split <;> simp

@[simp] theorem State.sendPacket_far (s : State) (port : Nat) (item : LinkItem) : (s.sendPacket port item).far = s.far := by
  simp [State.sendPacket]

@[simp] theorem State.sendOn_far (s : State) (port : Nat) (item : LinkItem) : (s.sendOn port item).far = s.far := by simp [State.sendOn]

@[simp] theorem State.sendQueued_far (s : State) (port : Nat) : (s.sendQueued port).far = s.far := by
  unfold State.sendQueued
  split <;> simp

@[simp] theorem State.flitOut_far (s : State) (port : Nat) (good : Bool) : (s.flitOut port good).far = s.far := by
  unfold State.flitOut
  split <;> simp

@[simp] theorem State.flitIn_far (s : State) (port : Nat) (good : Bool) : (s.flitIn port good).far = s.far := by simp [State.flitIn]

@[simp] theorem State.answerPart_far (s : State) (source seq kind : Nat) (bytes : List Byte) :
    (s.answerPart source seq kind bytes).far = s.far := by
  unfold State.answerPart
  split <;> simp

@[simp] theorem State.passOn_far (s : State) (r : RemotePart) : (s.passOn r).far = s.far := by
  unfold State.passOn
  split <;> simp

@[simp] theorem State.reach_far (s : State) (t : Trans) (va : Nat) : (s.reach t va).far = s.far := by
  unfold State.reach
  (repeat' split) <;> simp

/-! ### Translations and reads of far memory (Sys2Proof/Machine/Far.lean) -/

@[simp] theorem State.tierTouch_far (s : State) (pa : Nat) : (s.tierTouch pa).1.far = s.far := by simp [State.tierTouch]

@[simp] theorem State.tierAccess_far (s : State) (write : Bool) (pa : Nat) : (s.tierAccess write pa).1.far = s.far := by
  simp [State.tierAccess]

@[simp] theorem State.touchLines_far (s : State) (write : Bool) (pa n : Nat) : (s.touchLines write pa n).1.far = s.far :=
  foldl_fst_far (fun a l => by simp) _ _

@[simp] theorem State.walkFrom_far (x d va : Nat) (k : Access) (fuel : Nat) (s : State) (table : Nat) :
    (s.walkFrom x d va k table fuel).1.far = s.far := by
  induction fuel generalizing s table with
  | zero => rfl
  | succ lvl ih =>
    unfold State.walkFrom
    dsimp only
    (repeat' split) <;> simp [ih]

@[simp] theorem State.place_far (s : State) (x : Nat) (t : Trans) (write : Bool) (off : Nat) :
    (s.place x t write off).1.far = s.far := by
  have h := s.tierAccess_far write (65536 * t.ppn + off)
  unfold State.place
  dsimp only
  split
  · split
    · rfl
    · split <;> exact far_of_fst ‹_› h
  · (repeat' split) <;> rfl

@[simp] theorem State.readBy_far (v : Viewer) (x va n : Nat) (y : State × (Nat ⊕ Trans)) : (State.readBy v x va n y).1.far = y.1.far := by
  obtain ⟨s, f | t⟩ := y
  · rfl
  · unfold State.readBy
    dsimp only
    split <;> exact far_of_fst ‹_› (s.place_far x t false (va % 65536))

/-! ### Field-store words (Sys2Proof/Machine/FieldMem.lean) -/

@[simp] theorem Env.portA_far {e : Env} (f n al : Nat) (read : Bool) (due : Nat) {k : Unit → Effect}
    (h : (e.apply (k ())).far = e.s.far) : (e.apply (e.portA f n al read due k)).far = e.s.far := by
  unfold Env.portA
  (repeat' split) <;> simp [h]

@[simp] theorem execLoad_far (n : Nat) (m : Bool) (d a : BitVec 4) (s : State) : (nextOr s (execLoad n m d a s)).far = s.far :=
  issue_far (fun e => Env.holding_far _ (Env.portA_far _ _ _ _ _ (by simp))) s

@[simp] theorem execStore_far (n : Nat) (m : Bool) (d a : BitVec 4) (s : State) : (nextOr s (execStore n m d a s)).far = s.far := by
  simp [execStore]

@[simp] theorem execLdv_far (m : Bool) (q : BitVec 2) (a : BitVec 4) (s : State) : (nextOr s (execLdv m q a s)).far = s.far :=
  issue_far (fun e => by
    dsimp only
    split
    · rfl
    · exact Env.holding_far _ (Env.portA_far _ _ _ _ _ (by simp))) s

@[simp] theorem Env.zeroRow_far (e : Env) (f stop : Nat) : (e.apply (Env.zeroRow e f stop)).far = e.s.far := by simp [Env.zeroRow]

@[simp] theorem execZerof_far (m : Bool) (d a : BitVec 4) (s : State) : (nextOr s (execZerof m d a s)).far = s.far := by
  unfold execZerof
  split
  · rfl
  · rename_i e he
    split
    · simp [State.focus_far he]
    · exact issue_far (fun e => by simp) s

@[simp] theorem execWset_far (m : Bool) (w : BitVec 3) (a : BitVec 4) (s : State) : (nextOr s (execWset m w a s)).far = s.far :=
  issue_far (fun e => Env.holding_far _ (by
    split
    · simp
    · exact Env.portA_far _ _ _ _ _ (by split <;> simp))) s

@[simp] theorem Env.walk_far {e : Env} (w n due : Nat) {k : Walker → Nat → Effect} (h : ∀ x a, (e.apply (k x a)).far = e.s.far) :
    (e.apply (e.walk w n due k)).far = e.s.far := by
  unfold Env.walk
  (repeat' split) <;> simp [h]

@[simp] theorem execWld_far (m : Bool) (q : BitVec 2) (w : BitVec 3) (k : BitVec 3) (s : State) : (nextOr s (execWld m q w k s)).far = s.far :=
  issueIf_far (fun e => by
    dsimp only
    split
    · rfl
    · exact Env.holding_far _ (Env.walk_far _ _ _ fun x f => by split <;> simp)) s

@[simp] theorem execWfeed_far (m : Bool) (w : BitVec 3) (port : Bool) (n : BitVec 4) (s : State) :
    (nextOr s (execWfeed m w port n s)).far = s.far :=
  issue_far (fun e => by dsimp only; (repeat' split) <;> simp) s

@[simp] theorem execLease_far (m : Bool) (d a : BitVec 4) (s : State) : (nextOr s (execLease m d a s)).far = s.far :=
  issue_far (fun e => by dsimp only; (repeat' split) <;> simp) s

/-! ### Copies, walks and far accesses (Sys2Proof/Machine/Copies.lean) -/

@[simp] theorem State.post_far (s : State) (i j x : Nat) (tiles : List Nat) : (s.post i j x tiles).far = s.far := by simp [State.post]

@[simp] theorem Env.failCopy_far (e : Env) (k : CopyKind) (x : CopyDesc) (y : Trip) : (e.apply (Env.failCopy e k x y)).far = e.s.far := by
  simp [Env.failCopy]

@[simp] theorem execCpyx_far (m : Bool) (c : BitVec 3) (s : State) : (nextOr s (execCpyx m c s)).far = s.far :=
  issue_far (fun e => by dsimp only; split <;> simp) s

@[simp] theorem execHwalk_far (m : Bool) (c : BitVec 3) (a : BitVec 4) (s : State) : (nextOr s (execHwalk m c a s)).far = s.far :=
  issue_far (fun e => by dsimp only; (repeat' split) <;> simp) s

@[simp] theorem State.failHeader_far (s : State) (i : Nat) : (s.failHeader i).far = s.far := by
  unfold State.failHeader
  split <;> simp

@[simp] theorem State.onHeader_far (s : State) (i k a : Nat) (f : Tile → Tile) : (s.onHeader i k a f).far = s.far := by
  simp [State.onHeader]

@[simp] theorem State.drainSlot_far (s : State) (i : Nat) (o : Op) (w : Walk) (k slot : Nat) :
    (s.drainSlot i o w k slot).far = s.far := by
  simp [State.drainSlot]

@[simp] theorem State.permit_far (s : State) (i k slot : Nat) : (s.permit i k slot).far = s.far := by
  unfold State.permit
  dsimp only
  (repeat' split) <;> simp

@[simp] theorem execHpermit_far (m : Bool) (d a : BitVec 4) (s : State) : (nextOr s (execHpermit m d a s)).far = s.far :=
  issue_far (fun e => by dsimp only; (repeat' split) <;> simp) s

@[simp] theorem execFld_far (m : Bool) (c : BitVec 3) (a : BitVec 5) (s : State) : (nextOr s (execFld m c a s)).far = s.far :=
  issueIf_far (fun e => by dsimp only; split <;> simp) s

/-! ### Matrix words (Sys2Proof/Machine/Matrix.lean) -/

@[simp] theorem Env.command_far (e : Env) (op : MxOp) (out : List ResVal) (t : Tile) :
    (e.apply (Env.command e op out t)).far = e.s.far := by
  simp [Env.command]

@[simp] theorem Env.needMx_far {e : Env} {k : Effect} (h : (e.apply k).far = e.s.far) : (e.apply (e.needMx k)).far = e.s.far := by
  simp [Env.needMx, h]

@[simp] theorem execMmaForm_far (scaled m : Bool) (n : BitVec 2) (k : BitVec 3) (s : State) :
    (nextOr s (execMmaForm scaled m n k s)).far = s.far := by
  simp [execMmaForm]

@[simp] theorem execCbload_far (m : Bool) (n : BitVec 2) (a : BitVec 5) (s : State) : (nextOr s (execCbload m n a s)).far = s.far :=
  issue_far (fun e => by dsimp only; split <;> simp) s

@[simp] theorem execAttn_far (m : Bool) (n : BitVec 2) (x : BitVec 5) (s : State) : (nextOr s (execAttn m n x s)).far = s.far :=
  issue_far (fun e => Env.needMx_far (by dsimp only; split <;> simp)) s

/-! ### Requests to the home units (Sys2Proof/Machine/Home.lean) -/

@[simp] theorem Env.send_far (e : Env) (s : State) (q : HomeReq) : (e.apply (e.send s q)).far = s.far := by simp [Env.send]

@[simp] theorem Env.ask_far (e : Env) (f : Figures) (d : Nat) (rel : Bool) (bad : Option Trip) (op : HomeOp) :
    (e.apply (Env.ask e f d rel bad op)).far = e.s.far := by
  simp [Env.ask]

@[simp] theorem Env.reserving_far {e : Env} {k : State → Option Nat → Effect}
    (h : ∀ s i, s.far = e.s.far → (e.apply (k s i)).far = e.s.far) : (e.apply (e.reserving k)).far = e.s.far := by
  unfold Env.reserving
  split
  · rename_i g
    exact h _ _ (State.reserveCont_far g)
  · exact h _ _ rfl

@[simp] theorem askTask_far (m : Bool) (f : Form) (a : BitVec 4) (op : Word → HomeOp) (s : State) :
    (nextOr s (askTask m f a op s)).far = s.far := by
  simp [askTask]

/-! ### Tasks, continuations and bookings (Sys2Proof/Machine/Pools.lean) -/

@[simp] theorem refuse_far (s : State) (t : Trip) : (refuse s t).1.far = s.far := by simp [refuse]

@[simp] theorem answer_far (s : State) (res : List ResVal) : (answer s res).1.far = s.far := by simp [answer]

@[simp] theorem answerEnd_far (s : State) (res : List ResVal) : (answerEnd s res).1.far = s.far := by simp [answerEnd]

@[simp] theorem State.putTaskAt_far (s : State) (h : Word) (x : TaskRec) : (s.putTaskAt h x).far = s.far := by simp [State.putTaskAt]

@[simp] theorem State.makeReady_far (s : State) (d i : Nat) (t : TaskRec) : (s.makeReady d i t).far = s.far := by simp [State.makeReady]

@[simp] theorem State.armWith_far (s : State) (d i : Nat) (n : ℤ) : (s.armWith d i n).far = s.far := by simp [State.armWith]

@[simp] theorem State.arm_far (s : State) (x : Nat) (h : Word) : (s.arm x h).1.far = s.far := by
  unfold State.arm
  split <;> simp

@[simp] theorem State.signal_far (s : State) (x : Nat) (h : Word) : (s.signal x h).1.far = s.far := by
  unfold State.signal
  split <;> simp

@[simp] theorem plainAnswer_far (x : State × Option Trip) : (plainAnswer x).1.far = x.1.far := by
  unfold plainAnswer
  split <;> simp

@[simp] theorem State.performTclaim_far (s : State) (q : HomeReq) (d pf : Nat) : (s.performTclaim q d pf).1.far = s.far := by
  unfold State.performTclaim
  dsimp only
  (repeat' split) <;> simp

@[simp] theorem State.performTpatch_far (s : State) (q : HomeReq) (h k v : Word) : (s.performTpatch q h k v).1.far = s.far := by
  unfold State.performTpatch
  dsimp only
  split <;> simp

@[simp] theorem State.performTfree_far (s : State) (q : HomeReq) (h : Word) : (s.performTfree q h).1.far = s.far := by
  unfold State.performTfree
  split <;> simp

@[simp] theorem State.dropChain_far (s : State) (r : Run) : (s.dropChain r).far = s.far := by
  unfold State.dropChain
  split <;> simp

@[simp] theorem State.performChain_far (s : State) (q : HomeReq) (h : Word) : (s.performChain q h).1.far = s.far := by
  unfold State.performChain
  dsimp only
  (repeat' split) <;> simp

@[simp] theorem State.performBook_far (s : State) (q : HomeReq) (h : Word) (d : Nat) : (s.performBook q h d).1.far = s.far := by
  unfold State.performBook
  split <;> simp

@[simp] theorem State.meet_far (s : State) (h : Word) (f : ContRec → ContRec) : (s.meet h f).far = s.far := by simp [State.meet]

@[simp] theorem State.meetTrap_far (s : State) (h : Word) (code sub : BitVec 8) : (s.meetTrap h code sub).far = s.far := by
  simp [State.meetTrap]

@[simp] theorem State.fillCont_far (s : State) (q : HomeReq) (d i kind cmask wait : Nat) (object : Word) :
    (s.fillCont q d i kind cmask wait object).far = s.far := by
  unfold State.fillCont
  split <;> simp

theorem State.claimEnding_far {s t : State} {q : HomeReq} {slot : Option Nat} {kind cmask wait : Nat} {object h : Word}
    (g : s.claimEnding q slot kind cmask wait object = some (h, t)) : t.far = s.far := by
  unfold State.claimEnding at g
  cases slot with
  | some i => cases g; simp
  | none =>
    dsimp only at g
    split at g <;> cases g
    rename_i gc
    simp [State.claimCont_far gc]

@[simp] theorem State.performAwaitTile_far (s : State) (q : HomeReq) (x0 : Word) (pf : Nat) :
    (s.performAwaitTile q x0 pf).1.far = s.far := by
  unfold State.performAwaitTile
  dsimp only
  split
  · rfl
  · split
    · simp
    · simp
    · rename_i g _
      have h := State.claimEnding_far g
      simp_all

@[simp] theorem State.performRett_far (s : State) (q : HomeReq) (save h : Word) (image : Option (List Byte)) (read : Option Trip) :
    (s.performRett q save h image read).1.far = s.far := by
  unfold State.performRett
  dsimp only
  split <;> simp

/-! ### The Granary (Sys2Proof/Machine/Granary.lean) -/

@[simp] theorem State.putCellAt_far (s : State) (h : Word) (c : Cell) : (s.putCellAt h c).far = s.far := by simp [State.putCellAt]

@[simp] theorem State.updateCell_far (s : State) (h : Word) (c : Cell) : (s.updateCell h c).far = s.far := by simp [State.updateCell]

@[simp] theorem State.walkWaiters_far (s : State) (w : WaitWalk) : (s.walkWaiters w).far = s.far := by simp [State.walkWaiters]

@[simp] theorem State.oweWalk_far (s : State) (w : WaitWalk) : (s.oweWalk w).far = s.far := by simp [State.oweWalk]

@[simp] theorem State.writeFuture_far (s : State) (h v : Word) : (s.writeFuture h v).far = s.far := by simp [State.writeFuture]

@[simp] theorem State.poisonFuture_far (s : State) (h : Word) : (s.poisonFuture h).far = s.far := by simp [State.poisonFuture]

@[simp] theorem State.moduleFutw_far (s : State) (x : Nat) (h v : Word) : (s.moduleFutw x h v).far = s.far := by simp [State.moduleFutw]

@[simp] theorem State.observeTails_far (s : State) : s.observeTails.far = s.far := by simp [State.observeTails]

@[simp] theorem State.performWord0_far (s : State) (q : HomeReq) (h : Word) (d : Nat) (f : Word → Word) :
    (s.performWord0 q h d f).1.far = s.far := by
  unfold State.performWord0
  split <;> simp

@[simp] theorem State.performGred_far (s : State) (q : HomeReq) (h v : Word) (d : Nat) : (s.performGred q h v d).1.far = s.far := by
  unfold State.performGred
  dsimp only
  split <;> simp

@[simp] theorem State.performFutw_far (s : State) (q : HomeReq) (h v : Word) : (s.performFutw q h v).1.far = s.far := by
  unfold State.performFutw
  split <;> simp

@[simp] theorem State.linkFuture_far (s : State) (h cont : Word) : (s.linkFuture h cont).far = s.far := by simp [State.linkFuture]

@[simp] theorem State.giveBack_far (s : State) (q : HomeReq) (slot : Option Nat) : (s.giveBack q slot).far = s.far := by
  unfold State.giveBack
  split <;> simp

@[simp] theorem refuseBack_far (s : State) (q : HomeReq) (slot : Option Nat) (t : Trip) : (refuseBack s q slot t).1.far = s.far := by
  simp [refuseBack]

@[simp] theorem State.performFutr_far (s : State) (q : HomeReq) (h : Word) (x pf : Nat) (slot : Option Nat) :
    (s.performFutr q h x pf slot).1.far = s.far := by
  unfold State.performFutr
  dsimp only
  split
  · simp
  · split
    · simp
    · cases slot with
      | none => simp
      | some i =>
        dsimp only
        split
        · simp
        · split
          · simp
          · simp [State.claimEnding_far ‹_›]

@[simp] theorem State.performAwaitCell_far (s : State) (q : HomeReq) (x0 h : Word) (x pf : Nat) (slot : Option Nat) :
    (s.performAwaitCell q x0 h x pf slot).1.far = s.far := by
  unfold State.performAwaitCell
  dsimp only
  split
  · simp
  · split
    · simp
    · rename_i g
      simp [State.claimEnding_far g]

@[simp] theorem State.performSalloc_far (s : State) (q : HomeReq) (r : Word) (d pf : Nat) : (s.performSalloc q r d pf).1.far = s.far := by
  unfold State.performSalloc
  dsimp only
  (repeat' split) <;> simp

@[simp] theorem State.addCellRef_far (s : State) (h : Word) : (s.addCellRef h).far = s.far := by simp [State.addCellRef]

@[simp] theorem State.dropCellRef_far (s : State) (h : Word) : (s.dropCellRef h).far = s.far := by simp [State.dropCellRef]

@[simp] theorem State.freeRunOf_far (s : State) (die first len : Nat) : (s.freeRunOf die first len).far = s.far := by
  simp [State.freeRunOf]

@[simp] theorem State.performSfree_far (s : State) (q : HomeReq) (h : Word) : (s.performSfree q h).1.far = s.far := by
  unfold State.performSfree
  dsimp only
  split <;> simp

@[simp] theorem State.setGp_far (s : State) (x n : Nat) (v : Word) : (s.setGp x n v).far = s.far := by simp [State.setGp]

@[simp] theorem State.performGparam_far (s : State) (q : HomeReq) (n d : Nat) : (s.performGparam q n d).1.far = s.far := by
  unfold State.performGparam
  split <;> simp

@[simp] theorem State.performGpset_far (s : State) (q : HomeReq) (n : Nat) (v : Word) : (s.performGpset q n v).1.far = s.far := by
  unfold State.performGpset
  split <;> simp

/-! ### The Sheaf (Sys2Proof/Machine/Sheaf.lean) -/

@[simp] theorem State.putFrameAt_far (s : State) (h : Word) (f : Frame) : (s.putFrameAt h f).far = s.far := by simp [State.putFrameAt]

@[simp] theorem State.setPool_far (s : State) (d x : Nat) (p : Word × Word) : (s.setPool d x p).far = s.far := by simp [State.setPool]

@[simp] theorem State.addDependant_far (s : State) (h : Word) : (s.addDependant h).far = s.far := by simp [State.addDependant]

@[simp] theorem State.stopCompaction_far (s : State) (h : Word) : (s.stopCompaction h).far = s.far := by simp [State.stopCompaction]

@[simp] theorem State.addFrameRef_far (s : State) (h : Word) : (s.addFrameRef h).far = s.far := by simp [State.addFrameRef]

@[simp] theorem State.performFcompact_far (s : State) (q : HomeReq) (h sel : Word) (pf : Nat) (slot : Option Nat) :
    (s.performFcompact q h sel pf slot).1.far = s.far := by
  unfold State.performFcompact
  dsimp only
  split
  · simp
  · cases slot with
    | none => simp
    | some i =>
      dsimp only
      split
      · simp
      · simp
      · simp [State.claimEnding_far ‹_›]

@[simp] theorem State.setPfx_far (s : State) (x i : Nat) (e : PrefixEnt) : (s.setPfx x i e).far = s.far := by simp [State.setPfx]

@[simp] theorem State.performPfxlook_far (s : State) (q : HomeReq) (va b fut : Word) : (s.performPfxlook q va b fut).1.far = s.far := by
  unfold State.performPfxlook
  dsimp only
  split <;> simp

/-! ### Runs (Sys2Proof/Machine/Runs.lean) -/

@[simp] theorem State.useCont_far (s : State) (h : Word) : (s.useCont h).far = s.far := by simp [State.useCont]

@[simp] theorem State.unlinkCont_far (s : State) (h : Word) : (s.unlinkCont h).far = s.far := by simp [State.unlinkCont]

@[simp] theorem State.dropClaim_far (s : State) (r : Run) : (s.dropClaim r).far = s.far := by
  unfold State.dropClaim
  split <;> simp

@[simp] theorem State.dropRecorded_far (s : State) (r : Run) : (s.dropRecorded r).far = s.far := by simp [State.dropRecorded]

@[simp] theorem State.carryOn_far (s : State) (old : Option Nat) (new : Nat) : (s.carryOn old new).far = s.far := by simp [State.carryOn]

@[simp] theorem State.startTask_far (s : State) (b : Booking) (code : Bank) : (s.startTask b code).far = s.far := by
  simp [State.startTask]

@[simp] theorem State.writeBack_far (s : State) (r : Run) : (s.writeBack r).far = s.far := by simp [State.writeBack]

@[simp] theorem State.closeRun_far (s : State) (id : Nat) (r : Run) : (s.closeRun id r).far = s.far := by simp [State.closeRun]

@[simp] theorem State.recordFailure_far (s : State) (r : Run) (code : BitVec 8) (h : Word) : (s.recordFailure r code h).far = s.far := by
  simp [State.recordFailure]

@[simp] theorem State.armChain_far (s : State) (r : Run) : (s.armChain r).far = s.far := by
  unfold State.armChain
  split
  · rfl
  · rename_i h _
    split <;> simp [far_of_fst ‹_› (State.arm_far _ r.ctx h)]

@[simp] theorem State.signalSuccessor_far (s : State) (r : Run) : (s.signalSuccessor r).far = s.far := by
  unfold State.signalSuccessor
  dsimp only
  split
  · rfl
  · split <;> simp [far_of_fst ‹_› (State.signal_far _ r.ctx _)]

@[simp] theorem State.resumeCont_far (s : State) (h : Word) : (s.resumeCont h).far = s.far := by simp [State.resumeCont]

@[simp] theorem State.performReturns_far (s : State) (r : Run) : (s.performReturns r).far = s.far :=
  foldl_far (fun s x => by dsimp only; (repeat' split) <;> simp) _ _

@[simp] theorem State.endByAwait_far (s : State) (r : Run) (d i : Nat) (held : Bool) : (s.endByAwait r d i held).far = s.far := by
  simp [State.endByAwait]

@[simp] theorem execTaskRetire_far (id : Nat) (s : State) : (nextOr s (execTaskRetire id s)).far = s.far := by
  unfold execTaskRetire
  dsimp only
  (repeat' split) <;> simp

/-! ### Traps and their delivery (Sys2Proof/Machine/Delivery.lean) -/

@[simp] theorem State.stopStrands_far (s : State) (r : Run) (keep : Nat → Side → Bool) : (s.stopStrands r keep).far = s.far := by
  simp [State.stopStrands]

@[simp] theorem State.settleStops_far (s : State) (id : Nat) : (s.settleStops id).far = s.far := by
  unfold State.settleStops
  split <;> simp

@[simp] theorem State.setStop_far (s : State) (id : Nat) (w : StopWhy) : (s.setStop id w).far = s.far := by simp [State.setStop]

@[simp] theorem State.armHandler_far (s : State) (h : Handler) : (s.armHandler h).far = s.far := by
  unfold State.armHandler
  dsimp only
  split
  · simp
  · split <;> simp [far_of_fst ‹_› (State.arm_far _ h.ctx _)]

@[simp] theorem State.oweHandler_far (s : State) (h : Handler) : (s.oweHandler h).far = s.far := by simp [State.oweHandler]

@[simp] theorem execHandlerArm_far (id : Nat) (s : State) : (nextOr s (execHandlerArm id s)).far = s.far := by
  unfold execHandlerArm
  split <;> simp

@[simp] theorem State.overflow_far (s : State) (fb : BitVec 16) (k a : Nat) : (s.overflow fb k a).far = s.far := by
  unfold State.overflow
  split
  · simp
  · simp [State.claimCont_far ‹_›]

@[simp] theorem State.raiseOverflow_far (s : State) (fb : BitVec 16) (k a : Nat) : (s.raiseOverflow fb k a).far = s.far := by
  simp [State.raiseOverflow]

@[simp] theorem State.finishRun_far (s : State) (o : Op) (v : Word) : (s.finishRun o v).far = s.far := by simp [State.finishRun]

@[simp] theorem State.finishSave_far (s : State) (h : Handler) (id : Nat) (o : Op) (v : Word) : (s.finishSave h id o v).far = s.far := by
  simp [State.finishSave]

@[simp] theorem State.finishOp_far (s : State) (id : Nat) (o : Op) (v : Word) : (s.finishOp id o v).far = s.far := by
  simp [State.finishOp]

@[simp] theorem State.discardOps_far (s : State) (ids : List Nat) : (s.discardOps ids).far = s.far := by simp [State.discardOps]

@[simp] theorem State.writeSaves_far (s : State) (r : Run) (i : TrapInfo) (cont : Word) (truncated : Bool) (point : Option RestartPt) :
    (s.writeSaves r i cont truncated point).1.far = s.far :=
  foldl_fst_far (fun a k => by dsimp only; split <;> simp) _ _

@[simp] theorem State.trapCont_far (s : State) (id : Nat) (r : Run) (i : TrapInfo) (point : Option RestartPt) :
    (s.trapCont id r i point).1.far = s.far := by
  unfold State.trapCont
  split
  · rfl
  · split
    · rfl
    · simp [State.claimCont_far ‹_›]

@[simp] theorem State.deliver_far (s : State) (id : Nat) (r : Run) : (s.deliver id r).far = s.far := by simp [State.deliver]

@[simp] theorem State.cutRun_far (s : State) (id : Nat) (r : Run) (redo : Bool) : (s.cutRun id r redo).far = s.far := by
  unfold State.cutRun
  dsimp only
  split
  · simp
  · split
    · simp
    · rename_i g
      simp [State.claimCont_far g]

@[simp] theorem State.stopRun_far (s : State) (id : Nat) (r : Run) : (s.stopRun id r).far = s.far := by simp [State.stopRun]

@[simp] theorem execTrapDelivery_far (id : Nat) (s : State) : (nextOr s (execTrapDelivery id s)).far = s.far := by
  unfold execTrapDelivery
  split
  · rfl
  · (repeat' split) <;> simp

@[simp] theorem execCut_far (id : Nat) (s : State) : (nextOr s (execCut id s)).far = s.far := by
  unfold execCut
  split <;> simp

@[simp] theorem execResidueCheck_far (k : Nat) (bad : Bool) (s : State) : (nextOr s (execResidueCheck k bad s)).far = s.far := by
  unfold execResidueCheck
  split <;> simp

@[simp] theorem State.trapWaiting_far (s : State) (d i : Nat) (code sub : BitVec 8) : (s.trapWaiting d i code sub).far = s.far := by
  simp [State.trapWaiting]

@[simp] theorem execContinuationReady_far (d i : Nat) (s : State) : (nextOr s (execContinuationReady d i s)).far = s.far := by
  unfold execContinuationReady
  (repeat' split) <;> simp

/-! ### The pipes of a tile (Sys2Proof/Machine/Pipes.lean) -/

@[simp] theorem State.homeVerdict_far (s : State) (k : Nat) (σ : Side) : (s.homeVerdict k σ).far = s.far := by
  unfold State.homeVerdict
  dsimp only
  (repeat' split) <;> simp

@[simp] theorem execVerdictReturn_far (k : Nat) (σ : Side) (s : State) : (nextOr s (execVerdictReturn k σ s)).far = s.far := by
  simp [execVerdictReturn]

@[simp] theorem execResultWrite_far (k : Nat) (σ : Side) (s : State) : (nextOr s (execResultWrite k σ s)).far = s.far := by
  simp [execResultWrite]

@[simp] theorem execLoadQueueFill_far (k q : Nat) (s : State) : (nextOr s (execLoadQueueFill k q s)).far = s.far := by
  simp [execLoadQueueFill]

@[simp] theorem execStoreDrain_far (k : Nat) (s : State) : (nextOr s (execStoreDrain k s)).far = s.far := by
  unfold execStoreDrain
  dsimp only
  split <;> simp

@[simp] theorem execFeedAccess_far (k : Nat) (port : Bool) (s : State) : (nextOr s (execFeedAccess k port s)).far = s.far := by
  unfold execFeedAccess
  dsimp only
  split <;> simp

@[simp] theorem execFeedEntryLand_far (k : Nat) (port : Bool) (s : State) : (nextOr s (execFeedEntryLand k port s)).far = s.far := by
  simp [execFeedEntryLand]

@[simp] theorem execFeedPoison_far (k : Nat) (σ : Side) (s : State) : (nextOr s (execFeedPoison k σ s)).far = s.far := by
  simp [execFeedPoison]

@[simp] theorem execMxCommandEnd_far (k : Nat) (s : State) : (nextOr s (execMxCommandEnd k s)).far = s.far := by
  unfold execMxCommandEnd
  dsimp only
  split <;> simp

@[simp] theorem execMxCommandStart_far (k : Nat) (s : State) : (nextOr s (execMxCommandStart k s)).far = s.far := by
  unfold execMxCommandStart
  dsimp only
  split <;> simp

@[simp] theorem State.mxAdvance_far (s : State) (k : Nat) : (s.mxAdvance k).far = s.far := by
  unfold State.mxAdvance
  dsimp only
  split <;> simp

@[simp] theorem execMxOwedPush_far (k : Nat) (s : State) : (nextOr s (execMxOwedPush k s)).far = s.far := by
  unfold execMxOwedPush
  dsimp only
  split <;> simp

@[simp] theorem execAttnRowRead_far (k : Nat) (s : State) : (nextOr s (execAttnRowRead k s)).far = s.far := by
  unfold execAttnRowRead
  dsimp only
  (repeat' split) <;> simp

@[simp] theorem State.noteTrees_far (s : State) (d : Nat) : (s.noteTrees d).far = s.far := by simp [State.noteTrees]

@[simp] theorem execBarrierComplete_far (id : Nat) (s : State) : (nextOr s (execBarrierComplete id s)).far = s.far := by
  unfold execBarrierComplete
  dsimp only
  (repeat' split) <;> simp

@[simp] theorem execDebugStop_far (k : Nat) (σ : Side) (sub : Nat) (s : State) : (nextOr s (execDebugStop k σ sub s)).far = s.far := by
  simp [execDebugStop]

/-! ### Home units (Sys2Proof/Machine/Perform.lean) -/

@[simp] theorem State.sendHome_far (s : State) (i : Nat) : (s.sendHome i).far = s.far := by
  unfold State.sendHome
  split <;> simp

@[simp] theorem execFutureWaiterWalk_far (i : Nat) (s : State) : (nextOr s (execFutureWaiterWalk i s)).far = s.far := by
  unfold execFutureWaiterWalk
  split <;> simp

/-! ### The engines of far operations (Sys2Proof/Machine/Engine.lean) -/

@[simp] theorem State.spendDrill_far (s : State) (c x n : Nat) : (s.spendDrill c x n).far = s.far := by simp [State.spendDrill]

@[simp] theorem State.spendLink_far (s : State) (x m n : Nat) : (s.spendLink x m n).far = s.far := by
  unfold State.spendLink
  split <;> simp

@[simp] theorem State.spendUnits_far (s : State) (x c : Nat) (t : Trans) (write : Bool) (n : Nat) :
    (s.spendUnits x c t write n).far = s.far := by
  simp [State.spendUnits]

@[simp] theorem State.charge_far (s : State) (o : Op) (t : Trans) (l n : Nat) : (s.charge o t l n).far = s.far := by simp [State.charge]

@[simp] theorem State.chargeLine_far (s : State) (o : Op) (p : Part) (l : Nat) : (s.chargeLine o p l).far = s.far := by
  unfold State.chargeLine
  split <;> simp

@[simp] theorem State.chargePiece_far (s : State) (o : Op) (p : Part) (i : Nat) : (s.chargePiece o p i).far = s.far := by
  simp [State.chargePiece]

@[simp] theorem State.modPart_far (s : State) (i j : Nat) (f : Part → Part) : (s.modPart i j f).far = s.far := by
  unfold State.modPart
  split <;> simp

@[simp] theorem State.failPart_far (s : State) (i j kind va : Nat) : (s.failPart i j kind va).far = s.far := by simp [State.failPart]

@[simp] theorem State.failPage_far (s : State) (i j : Nat) (o : Op) (kind va : Nat) : (s.failPage i j o kind va).far = s.far := by
  simp [State.failPage]

@[simp] theorem execCopyPartSend_far (i : Nat) (s : State) : (nextOr s (execCopyPartSend i s)).far = s.far := by
  unfold execCopyPartSend
  dsimp only
  (repeat' split) <;> simp

@[simp] theorem State.partPlace_far (s : State) (o : Op) (p : Part) (va : Nat) : (s.partPlace o p va).1.far = s.far := by
  unfold State.partPlace
  split
  · rfl
  · split <;> exact far_of_fst ‹_› (State.place_far ..)

@[simp] theorem State.failOrRebuild_far (s : State) (i j : Nat) (o : Op) (p : Part) (kind va : Nat) :
    (s.failOrRebuild i j o p kind va).far = s.far := by
  unfold State.failOrRebuild
  split <;> simp

@[simp] theorem State.pieceRead_far (s : State) (o : Op) (p : Part) (va n : Nat) : (s.pieceRead o p va n).1.far = s.far := by
  induction n with
  | zero => rfl
  | succ n ih =>
    unfold State.pieceRead
    split
    · exact far_of_fst ‹_› ih
    · rename_i g
      have hs := far_of_fst g ih
      split
      · exact hs
      · split <;> exact (far_of_fst ‹_› (State.partPlace_far ..)).trans hs

@[simp] theorem State.pushWrite_far (s : State) (o : Op) (i : Nat) (x : Place) (bs : List Byte) : (s.pushWrite o i x bs).far = s.far := by
  simp [State.pushWrite]

@[simp] theorem State.pieceWrite_far (s : State) (i : Nat) (o : Op) (p : Part) (va v n : Nat) :
    (s.pieceWrite i o p va v n).1.far = s.far := by
  induction n with
  | zero => rfl
  | succ n ih =>
    unfold State.pieceWrite
    split
    · exact ih
    · split
      · split <;> simp [far_of_fst ‹_› (State.partPlace_far ..)]
      · split
        · exact far_of_fst ‹_› ih
        · rename_i g
          split <;> simp [far_of_fst ‹_› (State.partPlace_far ..), far_of_fst g ih]

@[simp] theorem State.sendLink_far (s : State) (i j : Nat) (o : Op) (p : Part) (t : Trans) : (s.sendLink i j o p t).far = s.far := by
  simp [State.sendLink]

@[simp] theorem State.sendLines_far (s : State) (i j : Nat) (o : Op) (p : Part) (n : Nat) : (s.sendLines i j o p n).far = s.far :=
  foldl_far (fun s l => by split <;> simp) _ _

@[simp] theorem execChannelPerform_far (i j n : Nat) (s : State) : (nextOr s (execChannelPerform i j n s)).far = s.far := by
  unfold execChannelPerform
  split
  · rfl
  · rename_i o p _
    dsimp only
    split
    · rfl
    · split
      · simp
      · split
        · split <;> simp [far_of_fst ‹_› (State.pieceWrite_far ..)]
        · split <;> simp [far_of_fst ‹_› (State.pieceRead_far ..)]

@[simp] theorem State.disownSettled_far (s : State) (i : Nat) (o : Op) (k : Nat) : (s.disownSettled i o k).far = s.far := by
  unfold State.disownSettled
  split <;> simp

@[simp] theorem execMemberAccept_far (i j m : Nat) (s : State) : (nextOr s (execMemberAccept i j m s)).far = s.far := by
  unfold execMemberAccept
  split <;> simp

@[simp] theorem State.readyCounter_far (s : State) (k a gen : Nat) : (s.readyCounter k a gen).far = s.far := by simp [State.readyCounter]

@[simp] theorem State.leaveFilling_far (s : State) (i a : Nat) : (s.leaveFilling i a).far = s.far := by
  unfold State.leaveFilling
  dsimp only
  (repeat' split) <;> simp

@[simp] theorem State.credit_far (s : State) (i : Nat) (o : Op) (k a g n : Nat) : (s.credit i o k a g n).far = s.far := by
  unfold State.credit
  dsimp only
  (repeat' split) <;> simp

@[simp] theorem State.creditPart_far (s : State) (i : Nat) (o : Op) (p : Part) (k g n : Nat) :
    (s.creditPart i o p k g n).far = s.far := by
  unfold State.creditPart
  split <;> simp

@[simp] theorem State.repairB_far (s : State) (o : Op) (p : Part) (k g : Nat) (reads : Bool) : (s.repairB o p k g reads).far = s.far := by
  unfold State.repairB
  dsimp only
  split <;> simp

@[simp] theorem execGranuleLanding_far (i j n : Nat) (s : State) : (nextOr s (execGranuleLanding i j n s)).far = s.far := by
  unfold execGranuleLanding
  dsimp only
  (repeat' split) <;> simp

@[simp] theorem execPortBRead_far (i j n : Nat) (s : State) : (nextOr s (execPortBRead i j n s)).far = s.far := by
  unfold execPortBRead
  dsimp only
  (repeat' split) <;> simp

@[simp] theorem State.clearOp_far (s : State) (i : Nat) (o : Op) : (s.clearOp i o).far = s.far := by simp [State.clearOp]

@[simp] theorem State.writeHeaders_far (s : State) (i m : Nat) (x : WalkDesc) : (s.writeHeaders i m x).far = s.far := by
  simp [State.writeHeaders]

@[simp] theorem execHarrowWalkStart_far (k : Nat) (s : State) : (nextOr s (execHarrowWalkStart k s)).far = s.far := by
  unfold execHarrowWalkStart
  dsimp only
  (repeat' split) <;> simp

@[simp] theorem execHarrowTileStart_far (k : Nat) (s : State) : (nextOr s (execHarrowTileStart k s)).far = s.far := by
  unfold execHarrowTileStart
  dsimp only
  (repeat' split) <;> simp

@[simp] theorem execSlotDrained_far (i y : Nat) (s : State) : (nextOr s (execSlotDrained i y s)).far = s.far := by
  unfold execSlotDrained
  dsimp only
  (repeat' split) <;> simp

@[simp] theorem State.debit_far (s : State) (i : Nat) (o : Op) : (s.debit i o).far = s.far := by simp [State.debit]

@[simp] theorem State.emptySlots_far (s : State) (i : Nat) (o : Op) : (s.emptySlots i o).far = s.far := by
  unfold State.emptySlots
  split <;> simp

@[simp] theorem execDmaTimeoutAbort_far (i j : Nat) (s : State) : (nextOr s (execDmaTimeoutAbort i j s)).far = s.far := by
  unfold execDmaTimeoutAbort
  (repeat' split) <;> simp

@[simp] theorem execLinkPartTimeout_far (i j : Nat) (s : State) : (nextOr s (execLinkPartTimeout i j s)).far = s.far := by
  unfold execLinkPartTimeout
  (repeat' split) <;> simp

/-! ### Moves of the units (Sys2Proof/Machine/Moves.lean) -/

@[simp] theorem State.meetCompaction_far (s : State) (i : Nat) (j : CompactJob) (f : ContRec → ContRec) :
    (s.meetCompaction i j f).far = s.far := by
  simp [State.meetCompaction]

@[simp] theorem State.compactFault_far (s : State) (i : Nat) (j : CompactJob) (kind va : Nat) :
    (s.compactFault i j kind va).far = s.far := by
  simp [State.compactFault]

@[simp] theorem State.markRebuild_far (s : State) (h : Word) (e : Nat) : (s.markRebuild h e).far = s.far := by simp [State.markRebuild]

@[simp] theorem State.releaseRebuild_far (s : State) (fut : Word) : (s.releaseRebuild fut).far = s.far := by simp [State.releaseRebuild]

@[simp] theorem State.mailDone_far (s : State) (core slot status : Nat) : (s.mailDone core slot status).far = s.far := by
  simp [State.mailDone]

@[simp] theorem execInvalidationComplete_far (i : Nat) (s : State) : (nextOr s (execInvalidationComplete i s)).far = s.far := by
  unfold execInvalidationComplete
  dsimp only
  (repeat' split) <;> simp

@[simp] theorem execMessageDelivery_far (i : Nat) (s : State) : (nextOr s (execMessageDelivery i s)).far = s.far := by
  unfold execMessageDelivery
  dsimp only
  (repeat' split) <;> simp

@[simp] theorem State.settleWindows_far (s : State) : s.settleWindows.far = s.far := by simp [State.settleWindows]

@[simp] theorem State.endRemote_far (s : State) (r : RemotePart) (kind : Nat) (bytes : List Byte) :
    (s.endRemote r kind bytes).far = s.far := by
  simp [State.endRemote]

@[simp] theorem State.writeWindow_far (s : State) (n : Nat) (word0 word1 : Word) : (s.writeWindow n word0 word1).far = s.far := by
  simp [State.writeWindow]

@[simp] theorem execWintabWrite_far (n : Nat) (word0 word1 : Word) (s : State) :
    (nextOr s (execWintabWrite n word0 word1 s)).far = s.far := by
  simp [execWintabWrite]

@[simp] theorem execLinkFlitReceive_far (port : LinkEnd) (good : Bool) (s : State) :
    (nextOr s (execLinkFlitReceive port good s)).far = s.far := by
  simp [execLinkFlitReceive]

@[simp] theorem State.reroutePage_far (s : State) (i j : Nat) (o : Op) (p : Part) (t : Nat × Trans) :
    (s.reroutePage i j o p t).far = s.far := by
  unfold State.reroutePage
  split <;> simp

@[simp] theorem State.reroute_far (s : State) (port : Nat) : (s.reroute port).far = s.far :=
  foldl_far (fun s x => foldl_far (fun s y => by split <;> simp) _ _) _ _

@[simp] theorem State.resend_far (s : State) (x : LinkItem) : (s.resend x).far = s.far := by
  unfold State.resend
  (repeat' split) <;> simp

@[simp] theorem execLinkPortDown_far (port : Nat) (s : State) : (nextOr s (execLinkPortDown port s)).far = s.far := by
  simp [execLinkPortDown]

@[simp] theorem execLinkRekey_far (port : LinkEnd) (seq : Nat) (s : State) : (nextOr s (execLinkRekey port seq s)).far = s.far := by
  simp [execLinkRekey]

/-! ### The Almanac (Sys2Proof/Machine/Almanac.lean) -/

@[simp] theorem State.stageTask_far (s : State) (h i : Nat) : (s.stageTask h i).far = s.far := by
  unfold State.stageTask
  dsimp only
  (repeat' split) <;> simp

@[simp] theorem execCodeStaging_far (h i : Nat) (s : State) : (nextOr s (execCodeStaging h i s)).far = s.far := by simp [execCodeStaging]

@[simp] theorem State.stagingCont_far (s : State) (h i k : Nat) : (s.stagingCont h i k).1.far = s.far := by
  unfold State.stagingCont
  dsimp only
  split
  · simp
  · rename_i g
    simp [State.claimCont_far g]

@[simp] theorem State.failTask_far (s : State) (h i : Nat) (kind : BitVec 4) (va : Word) : (s.failTask h i kind va).far = s.far := by
  simp [State.failTask]

@[simp] theorem State.freeStages_far (s : State) (d : Nat) : (s.freeStages d).far = s.far := by simp [State.freeStages]

@[simp] theorem State.bookAt_far (s : State) (h i f o : Nat) : (s.bookAt h i f o).far = s.far := by simp [State.bookAt]

@[simp] theorem State.bookingPass_far (s : State) (d : Nat) : (s.bookingPass d).far = s.far :=
  foldl_fst_far (fun a t => by (repeat' split) <;> simp) _ _

@[simp] theorem State.compactionPass_far (s : State) (d : Nat) : (s.compactionPass d).far = s.far :=
  foldl_far (fun s b => by dsimp only; split <;> simp) _ _

@[simp] theorem State.unbook_far (s : State) (f : TaskRec → Bool) : (s.unbook f).far = s.far := by simp [State.unbook]

@[simp] theorem State.freeBookings_far (s : State) (d : Nat) : (s.freeBookings d).far = s.far := by simp [State.freeBookings]

@[simp] theorem State.freeRetired_far (s : State) (d : Nat) : (s.freeRetired d).far = s.far := by simp [State.freeRetired]

@[simp] theorem State.startTasks_far (s : State) (d : Nat) : (s.startTasks d).far = s.far := by simp [State.startTasks]

@[simp] theorem State.beginStandby_far (s : State) (d : Nat) : (s.beginStandby d).far = s.far := by simp [State.beginStandby]

@[simp] theorem State.retryStaging_far (s : State) (d : Nat) : (s.retryStaging d).far = s.far := by simp [State.retryStaging]

@[simp] theorem State.moduleBoundary_far (s : State) : s.moduleBoundary.far = s.far := by simp [State.moduleBoundary]

@[simp] theorem State.preemptBoundary_far (s : State) (x : Nat) : (s.preemptBoundary x).far = s.far := by
  unfold State.preemptBoundary
  split <;> simp

@[simp] theorem State.retryOverflows_far (s : State) (d : Nat) : (s.retryOverflows d).far = s.far :=
  foldl_far (fun s f => by split <;> simp) _ _

@[simp] theorem State.coldSet_far (s : State) (d : Nat) : (s.coldSet d).far = s.far := by simp [State.coldSet]

@[simp] theorem State.boundaryPasses_far (s : State) (d : Nat) : (s.boundaryPasses d).far = s.far := by simp [State.boundaryPasses]

@[simp] theorem execOverrunCheck_far (id : Nat) (s : State) : (nextOr s (execOverrunCheck id s)).far = s.far := by
  unfold execOverrunCheck
  dsimp only
  (repeat' split) <;> simp

/-! ### Bands, power and the module state (Sys2Proof/Machine/Module.lean) -/

@[simp] theorem State.moveTo_far (s : State) (m : MState) (cause : BitVec 8) : (s.moveTo m cause).far = s.far := by simp [State.moveTo]

@[simp] theorem State.enterDrain_far (s : State) (cause : BitVec 8) : (s.enterDrain cause).far = s.far := by simp [State.enterDrain]

@[simp] theorem State.drainOver_far (s : State) : s.drainOver.far = s.far := by simp [State.drainOver]

@[simp] theorem State.enterWarm_far (s : State) (cause : BitVec 8) : (s.enterWarm cause).far = s.far := by simp [State.enterWarm]

@[simp] theorem State.bandStops_far (s : State) (d : Nat) : (s.bandStops d).far = s.far := by simp [State.bandStops]

@[simp] theorem State.postBand_far (s : State) (prev : Nat) : (s.postBand prev).far = s.far := by simp [State.postBand]

@[simp] theorem execTimingSetSwitch_far (d : Nat) (s : State) : (nextOr s (execTimingSetSwitch d s)).far = s.far := by
  simp [execTimingSetSwitch]

@[simp] theorem execPatrolScrub_far (line : Nat) (s : State) : (nextOr s (execPatrolScrub line s)).far = s.far := by
  simp [execPatrolScrub]

@[simp] theorem execBarrierTreeDisagree_far (d tree : Nat) (s : State) : (nextOr s (execBarrierTreeDisagree d tree s)).far = s.far := by
  simp [execBarrierTreeDisagree]

@[simp] theorem execPowerSample_far (s : State) : (nextOr s (execPowerSample s)).far = s.far := by
  unfold execPowerSample
  dsimp only
  split <;> simp

@[simp] theorem execCoolantLow_far (s : State) : (nextOr s (execCoolantLow s)).far = s.far := by simp [execCoolantLow]

@[simp] theorem execSoakDone_far (s : State) : (nextOr s (execSoakDone s)).far = s.far := by simp [execSoakDone]

@[simp] theorem State.portsUp_far (s : State) : s.portsUp.far = s.far := by simp [State.portsUp]

@[simp] theorem execTrainingDone_far (ok : Bool) (s : State) : (nextOr s (execTrainingDone ok s)).far = s.far := by
  simp [execTrainingDone]

@[simp] theorem State.enterRun_far (s : State) (cause : BitVec 8) : (s.enterRun cause).far = s.far := by simp [State.enterRun]

@[simp] theorem execLockDistributed_far (s : State) : (nextOr s (execLockDistributed s)).far = s.far := by simp [execLockDistributed]

@[simp] theorem execDrainDone_far (s : State) : (nextOr s (execDrainDone s)).far = s.far := by simp [execDrainDone]

@[simp] theorem State.scrubAll_far (s : State) : s.scrubAll.far = s.far := by simp [State.scrubAll]

@[simp] theorem execParkExit_far (s : State) : (nextOr s (execParkExit s)).far = s.far := by simp [execParkExit]

/-! ### The service cores (Sys2Proof/Machine/Service.lean) -/

@[simp] theorem State.reply_far (s : State) (c : Cmd) (status : Nat) : (s.reply c status).far = s.far := by simp [State.reply]

@[simp] theorem State.defer_far (s : State) (c : Cmd) : (s.defer c).far = s.far := by simp [State.defer]

@[simp] theorem mailCommand_far {code : Nat} {tenant : Bool} {f : Cmd → State → State} {s : State} (h : ∀ c, (f c s).far = s.far) (k : Nat) :
    (nextOr s (mailCommand code tenant f k s)).far = s.far := by
  unfold mailCommand
  split
  · rfl
  · (repeat' split) <;> simp [h]

@[simp] theorem State.settle_far {s : State} (c : Cmd) (checks : List (Bool × Nat)) {effect : State → State}
    (h : (effect s).far = s.far) : (s.settle c checks effect).far = s.far := by
  unfold State.settle
  split <;> simp [h]

@[simp] theorem execFibreSetup_far (k : Nat) (s : State) : (nextOr s (execFibreSetup k s)).far = s.far := by simp [execFibreSetup]

@[simp] theorem execFibreTeardown_far (k : Nat) (s : State) : (nextOr s (execFibreTeardown k s)).far = s.far := by
  simp [execFibreTeardown]

@[simp] theorem execPagePool_far (k : Nat) (s : State) : (nextOr s (execPagePool k s)).far = s.far := by simp [execPagePool]

@[simp] theorem execRecordWrite_far (k : Nat) (s : State) : (nextOr s (execRecordWrite k s)).far = s.far := by simp [execRecordWrite]

@[simp] theorem execGpWrite_far (k : Nat) (s : State) : (nextOr s (execGpWrite k s)).far = s.far := by simp [execGpWrite]

@[simp] theorem execGo_far (k : Nat) (s : State) : (nextOr s (execGo k s)).far = s.far :=
  mailCommand_far (fun c => by dsimp only; (repeat' split) <;> simp) k

@[simp] theorem State.invalidate_far (s : State) (core : Option (Nat × Nat)) (x : Nat) (va : Option Word) (withG : Bool) :
    (s.invalidate core x va withG).far = s.far := by
  simp [State.invalidate]

@[simp] theorem execInvalidateByPage_far (k : Nat) (s : State) : (nextOr s (execInvalidateByPage k s)).far = s.far := by
  simp [execInvalidateByPage]

@[simp] theorem execInvalidateByTenant_far (k : Nat) (s : State) : (nextOr s (execInvalidateByTenant k s)).far = s.far := by
  simp [execInvalidateByTenant]

@[simp] theorem execPreEmpt_far (k : Nat) (s : State) : (nextOr s (execPreEmpt k s)).far = s.far :=
  mailCommand_far (fun c => by dsimp only; (repeat' split) <;> simp) k

@[simp] theorem State.askTeardown_far (s : State) (x : Nat) (by_ : Option (Nat × Nat)) : (s.askTeardown x by_).far = s.far := by
  unfold State.askTeardown
  split <;> simp

@[simp] theorem execTeardown_far (k : Nat) (s : State) : (nextOr s (execTeardown k s)).far = s.far := by simp [execTeardown]

@[simp] theorem State.preDone_far (s : State) (x status : Nat) : (s.preDone x status).far = s.far := by
  unfold State.preDone
  dsimp only
  split <;> simp

@[simp] theorem State.spillOp_far (s : State) (i : Nat) (o : Op) : (s.spillOp i o).far = s.far := by simp [State.spillOp]

@[simp] theorem State.getPage_far (s : State) (ppn key : Nat) : (s.getPage ppn key).1.far = s.far := by
  unfold State.getPage
  split <;> exact far_of_fst ‹_› (State.touchLines_far ..)

@[simp] theorem State.freeRecords_far (s : State) (x : Nat) : (s.freeRecords x).far = s.far := by simp [State.freeRecords]

@[simp] theorem State.refill_far (s : State) (i j : Nat) (o : Op) (p : Part) : (s.refill i j o p).far = s.far := by simp [State.refill]

@[simp] theorem State.redrain_far (s : State) (i : Nat) (o : Op) : (s.redrain i o).far = s.far := by
  unfold State.redrain
  split <;> simp

@[simp] theorem State.moveRecords_far (s : State) (x : Nat) (f : Nat → Option Nat) : (s.moveRecords x f).far = s.far := by
  simp [State.moveRecords]

@[simp] theorem execCompactionResume_far (k : Nat) (s : State) : (nextOr s (execCompactionResume k s)).far = s.far := by
  simp [execCompactionResume]

@[simp] theorem execConfigurationWrite_far (k : Nat) (s : State) : (nextOr s (execConfigurationWrite k s)).far = s.far :=
  mailCommand_far (fun c => by (repeat' split) <;> simp) k

@[simp] theorem execLock_far (k : Nat) (s : State) : (nextOr s (execLock k s)).far = s.far := by simp [execLock]

@[simp] theorem execDrain_far (k : Nat) (s : State) : (nextOr s (execDrain k s)).far = s.far :=
  mailCommand_far (fun c => by split <;> simp) k

@[simp] theorem execShutdown_far (k : Nat) (s : State) : (nextOr s (execShutdown k s)).far = s.far := by simp [execShutdown]

@[simp] theorem execRingSetup_far (k : Nat) (s : State) : (nextOr s (execRingSetup k s)).far = s.far := by simp [execRingSetup]

@[simp] theorem execUnknownCommand_far (k : Nat) (s : State) : (nextOr s (execUnknownCommand k s)).far = s.far := by
  unfold execUnknownCommand
  split <;> simp

@[simp] theorem State.modRing_far (s : State) (x n : Nat) (r : Tring) : (s.modRing x n r).far = s.far := by simp [State.modRing]

@[simp] theorem execTailUpdate_far (x n : Nat) (s : State) : (nextOr s (execTailUpdate x n s)).far = s.far := by simp [execTailUpdate]

@[simp] theorem execCoalescingTimer_far (x n : Nat) (s : State) : (nextOr s (execCoalescingTimer x n s)).far = s.far := by
  simp [execCoalescingTimer]

@[simp] theorem State.goWrite_far (s : State) (k slot : Nat) (words : Vector Word 8) (stream : Option Nat) :
    (s.goWrite k slot words stream).far = s.far := by
  simp [State.goWrite]

@[simp] theorem State.cxlRequest_far (s : State) (r : HostReq) (pa : Nat) : (s.cxlRequest r pa).far = s.far := by simp [State.cxlRequest]

@[simp] theorem State.undoDrain_far (s : State) (k slot : Nat) : (s.undoDrain k slot).far = s.far := by simp [State.undoDrain]

@[simp] theorem State.unhold_far (s : State) (x : Nat) : (s.unhold x).far = s.far := by simp [State.unhold]

@[simp] theorem State.undoDeath_far (s : State) (x inval key : Nat) (entries : List (Nat × Nat × KeyEntry)) (windows : List (Nat × Word × Word)) :
    (s.undoDeath x inval key entries windows).far = s.far := by
  simp [State.undoDeath]

@[simp] theorem State.rebook_far (s : State) (x : Nat) : (s.rebook x).far = s.far := by simp [State.rebook]

@[simp] theorem execCxlSnoop_far (port addr : Nat) (s : State) : (nextOr s (execCxlSnoop port addr s)).far = s.far := by
  simp [execCxlSnoop]

@[simp] theorem execErrstatRead_far (k : Nat) (s : State) : (nextOr s (execErrstatRead k s)).far = s.far := by simp [execErrstatRead]

@[simp] theorem State.leaveTiles_far (s : State) (a : Assignment) : (s.leaveTiles a).far = s.far := by simp [State.leaveTiles]

@[simp] theorem execContextAssign_far (a : Assignment) (s : State) : (nextOr s (execContextAssign a s)).far = s.far := by
  simp [execContextAssign]

@[simp] theorem State.putFsctx_far (s : State) (k : Nat) (v : Word) : (s.putFsctx k v).far = s.far := by simp [State.putFsctx]

@[simp] theorem execRegisterWrite_far (w : RegWrite) (s : State) : (nextOr s (execRegisterWrite w s)).far = s.far := by
  unfold execRegisterWrite
  dsimp only
  split <;> simp

/-! ### Debug and security (Sys2Proof/Machine/Security.lean) -/

@[simp] theorem execBootVerify_far (s : State) : (nextOr s (execBootVerify s)).far = s.far := by simp [execBootVerify]

@[simp] theorem execHostImageLoad_far (i : Image) (s : State) : (nextOr s (execHostImageLoad i s)).far = s.far := by
  simp [execHostImageLoad]

@[simp] theorem execFirmwareUpdate_far (i : Image) (s : State) : (nextOr s (execFirmwareUpdate i s)).far = s.far := by
  simp [execFirmwareUpdate]

@[simp] theorem execPowerOn_far (s : State) : (nextOr s (execPowerOn s)).far = s.far := by simp [execPowerOn]

@[simp] theorem execAttestationRequest_far (x : Nat) (nonce : BitVec 256) (s : State) :
    (nextOr s (execAttestationRequest x nonce s)).far = s.far := by
  simp [execAttestationRequest]

@[simp] theorem execSpdmSessionOpen_far (x : Nat) (s : State) : (nextOr s (execSpdmSessionOpen x s)).far = s.far := by
  simp [execSpdmSessionOpen]

@[simp] theorem State.clearIssued_far (s : State) (x : Nat) : (s.clearIssued x).far = s.far := by simp [State.clearIssued]

theorem State.debug_far {s t : State} {x : Nat} {c : DebugCmd} {v : Word} (h : s.debug x c = some (v, t)) : t.far = s.far := by
  cases c <;> simp only [State.debug, Option.ite_none_right_eq_some, Option.map_eq_some_iff, Option.some.injEq, Prod.mk.injEq] at h
  case readField | readTask | readCont | readFrame | readFibre | readCell =>
    obtain ⟨-, -, rfl⟩ := h
    rfl
  case patchField | breakpoint =>
    obtain ⟨-, -, rfl⟩ := h
    simp
  case control =>
    obtain ⟨-, rfl⟩ := h
    simp
  case patchTask | patchCont | patchFrame | patchFibre | patchCell =>
    obtain ⟨-, _, -, -, rfl⟩ := h
    simp

@[simp] theorem execDebugCommand_far (x : Nat) (c : DebugCmd) (s : State) : (nextOr s (execDebugCommand x c s)).far = s.far := by
  unfold execDebugCommand
  split
  · simp
  · split
    · simp
    · simp [State.debug_far ‹_›]

@[simp] theorem execDebugResume_far (x : Nat) (h save : Word) (s : State) : (nextOr s (execDebugResume x h save s)).far = s.far := by
  unfold execDebugResume
  dsimp only
  (repeat' split) <;> simp

@[simp] theorem execLockInterface_far (x : Nat) (s : State) : (nextOr s (execLockInterface x s)).far = s.far := by
  simp [execLockInterface]

@[simp] theorem execGetDeviceInterfaceReport_far (x : Nat) (s : State) : (nextOr s (execGetDeviceInterfaceReport x s)).far = s.far := by
  simp [execGetDeviceInterfaceReport]

@[simp] theorem execStartInterface_far (x : Nat) (s : State) : (nextOr s (execStartInterface x s)).far = s.far := by
  simp [execStartInterface]

@[simp] theorem execStopInterface_far (x : Nat) (s : State) : (nextOr s (execStopInterface x s)).far = s.far := by
  unfold execStopInterface
  dsimp only
  split <;> simp

/-! ### Selection words (Sys2Proof/Machine/Select.lean) -/

@[simp] theorem execVhist_far (m : Bool) (d a : BitVec 4) (s : State) : (nextOr s (execVhist m d a s)).far = s.far :=
  issueIf_far (fun e => by dsimp only; (repeat' split) <;> simp) s

@[simp] theorem execVtopk_far (m : Bool) (d a : BitVec 4) (s : State) : (nextOr s (execVtopk m d a s)).far = s.far :=
  issueIf_far (fun e => by dsimp only; split <;> simp) s

@[simp] theorem execVsamp_far (m : Bool) (d a : BitVec 4) (s : State) : (nextOr s (execVsamp m d a s)).far = s.far :=
  issue_far (fun e => by dsimp only; split <;> simp) s

/-! ### System registers (Sys2Proof/Machine/System.lean) -/

@[simp] theorem Env.sysWrite_far (e : Env) (n : Nat) (v : Word) : (e.sysWrite n v).far = e.s.far := by
  unfold Env.sysWrite
  split <;> simp

@[simp] theorem execSyswr_far (m : Bool) (d i : BitVec 4) (s : State) : (nextOr s (execSyswr m d i s)).far = s.far := by
  unfold execSyswr
  dsimp only
  split
  · split
    · rfl
    · rename_i e he
      split <;> simp [State.focus_far he]
  · exact issueIf_far (fun e => by simp) s

/-! ### The plan of a cycle (Sys2Proof/Machine/Plan.lean) -/

@[simp] theorem State.put_far (s : State) (l : List Turn) : (s.put l).far = s.far := by simp [State.put]

@[simp] theorem State.planBoundary_far (s : State) : s.planBoundary.far = s.far := by simp [State.planBoundary]

@[simp] theorem State.failResidue_far (s : State) : s.failResidue.far = s.far := by simp [State.failResidue]

@[simp] theorem State.takeJmpt_far (s : State) : s.takeJmpt.far = s.far :=
  foldl_far (fun s p => by (repeat' split) <;> simp) _ _

@[simp] theorem State.planPipes_far (s : State) : s.planPipes.far = s.far := by simp [State.planPipes]

@[simp] theorem State.stopNow_far (s : State) : s.stopNow.far = s.far := by simp [State.stopNow]

@[simp] theorem State.planIssues_far (s : State) : s.planIssues.far = s.far := by simp [State.planIssues]

@[simp] theorem State.planAccesses_far (s : State) : s.planAccesses.far = s.far := by simp [State.planAccesses]

@[simp] theorem State.planTasks_far (s : State) : s.planTasks.far = s.far := by simp [State.planTasks]

@[simp] theorem State.forceHome_far (s : State) (k : Nat) (σ : Side) : (s.forceHome k σ).far = s.far := by
  unfold State.forceHome
  dsimp only
  (repeat' split) <;> simp

@[simp] theorem State.forceRun_far (s : State) (id : Nat) (r : Run) : (s.forceRun id r).far = s.far := by simp [State.forceRun]

@[simp] theorem State.planStops_far (s : State) : s.planStops.far = s.far := by simp [State.planStops]

@[simp] theorem State.planPhase_far (s : State) (n : Nat) : (s.planPhase n).far = s.far := by
  unfold State.planPhase
  split <;> simp

@[simp] theorem State.cellError_far (s : State) (d i : Nat) : (s.cellError d i).far = s.far := by simp [State.cellError]

@[simp] theorem State.recordError_far (s : State) (d cls i : Nat) : (s.recordError d cls i).far = s.far := by simp [State.recordError]

@[simp] theorem State.treeFault_far (s : State) (d n : Nat) (bad : Bool) : (s.treeFault d n bad).far = s.far := by simp [State.treeFault]

@[simp] theorem State.lineError_far (s : State) (line n : Nat) : (s.lineError line n).far = s.far := by simp [State.lineError]

@[simp] theorem State.remoteWindow_far (s : State) (m n kind : Nat) : (s.remoteWindow m n kind).far = s.far := by
  simp [State.remoteWindow]

end Sys2Proof.Machine
end

section
/-!
Far memory, part 2: every function that can write far memory keeps its canonical form (R3, R142, log entries 1 and 7).
-/
namespace Sys2Proof.Machine

theorem canonical_of_fst {α : Type} {p : State × α} {t : State} {y : α} (g : p = (t, y)) (h : p.1.far.Canonical) : t.far.Canonical := by
  rwa [g] at h

theorem canonical_of_eq {s t : State} (e : t.far = s.far) (h : s.far.Canonical) : t.far.Canonical := by rwa [e]

/-- A fold of updates that keep the canonical form keeps it. -/
theorem foldl_canonical {α : Type} {f : State → α → State} (hf : ∀ s x, s.far.Canonical → (f s x).far.Canonical) (l : List α)
    {s : State} (h : s.far.Canonical) : (l.foldl f s).far.Canonical :=
  foldl_keeps (P := fun s : State => s.far.Canonical) hf l h

/-- The same for a fold that carries more than the state. -/
theorem foldl_fst_canonical {α β : Type} {f : State × β → α → State × β} (hf : ∀ a x, a.1.far.Canonical → (f a x).1.far.Canonical)
    (l : List α) {a : State × β} (h : a.1.far.Canonical) : (l.foldl f a).1.far.Canonical :=
  foldl_keeps (P := fun a : State × β => a.1.far.Canonical) hf l h

/-! ## Translations, reads and writes -/

@[simp] theorem State.settleWrites_canonical {s : State} (h : s.far.Canonical) (sp : Space) : (s.settleWrites sp).far.Canonical :=
  State.foldWrites_canonical _ h

@[simp] theorem State.setDirty_canonical {s : State} (h : s.far.Canonical) (at_ : Nat) (p : Word) : (s.setDirty at_ p).far.Canonical :=
  State.basePut_canonical h ..

@[simp] theorem State.walk_canonical {s : State} (h : s.far.Canonical) (x d va : Nat) (k : Access) : (s.walk x d va k).1.far.Canonical := by
  unfold State.walk
  dsimp only
  split
  · exact h
  · have hw := s.walkFrom_far x d va k 3
    split
    · simp [far_of_fst ‹_› (hw _), h]
    · rename_i g
      have h1 := canonical_of_eq (far_of_fst g (hw _)) h
      split
      · exact h1
      · split
        · simp [h1]
        · split
          · simp [far_of_fst ‹_› (State.walkFrom_far ..), h1]
          · rename_i g2
            dsimp only
            split <;> simp [far_of_fst g2 (State.walkFrom_far ..), h1]

@[simp] theorem State.translateLocal_canonical {s : State} (h : s.far.Canonical) (x va : Nat) (k : Access) :
    (s.translateLocal x va k).1.far.Canonical := by
  have hw := State.walk_canonical h x (dieOfCtrl (colour (va / 65536))) va k
  unfold State.translateLocal
  dsimp only
  split
  · exact h
  · split
    · split
      · exact h
      · split
        · split <;> simp [canonical_of_fst ‹_› hw]
        · exact h
    · split <;> simp [canonical_of_fst ‹_› hw]

@[simp] theorem State.remoteEntry_canonical {s : State} (h : s.far.Canonical) (x c m : Nat) : (s.remoteEntry x c m).1.far.Canonical := by
  unfold State.remoteEntry
  dsimp only
  split
  · exact canonical_of_fst ‹_› (by simp [h])
  · rename_i g
    have h1 := canonical_of_fst g (by simp [h])
    split <;> exact canonical_of_fst ‹_› (by simp [h1])

@[simp] theorem State.translate_canonical {s : State} (h : s.far.Canonical) (x va : Nat) (k : Access) : (s.translate x va k).1.far.Canonical := by
  unfold State.translate
  split
  · exact canonical_of_fst ‹_› (by simp [h])
  · rename_i g
    have h1 := canonical_of_fst g (by simp [h])
    split
    · dsimp only
      split
      · exact canonical_of_fst ‹_› (by simp [h1])
      · rename_i g2
        have h2 := canonical_of_fst g2 (by simp [h1])
        split <;> simp [h2]
    · exact h1

@[simp] theorem State.reachLine_canonical {s : State} (h : s.far.Canonical) (x va : Nat) (k : Access) : (s.reachLine x va k).far.Canonical := by
  unfold State.reachLine
  split
  · exact canonical_of_fst ‹_› (by simp [h])
  · rename_i g
    simp [canonical_of_fst g (by simp [h])]

@[simp] theorem State.vaGet_canonical {s : State} (h : s.far.Canonical) (v : Viewer) (x va n : Nat) (k : Access) :
    (s.vaGet v x va n k).1.far.Canonical := by simp [State.vaGet, h]

@[simp] theorem State.vaRead_canonical {s : State} (h : s.far.Canonical) (v : Viewer) (x va n : Nat) (k : Access) :
    (s.vaRead v x va n k).1.far.Canonical := by simp [State.vaRead, h]

@[simp] theorem State.vaPut_canonical {s : State} (h : s.far.Canonical) (x va n v : Nat) : (s.vaPut x va n v).1.far.Canonical := by
  unfold State.vaPut
  split
  · exact canonical_of_fst ‹_› (by simp [h])
  · rename_i g
    have h1 := canonical_of_fst g (by simp [h])
    split
    · exact canonical_of_fst ‹_› (by simp [h1])
    · rename_i g2
      exact State.sysPut_canonical (canonical_of_fst g2 (by simp [h1])) ..

@[simp] theorem State.vaWrite_canonical {s : State} (h : s.far.Canonical) (x va n v : Nat) : (s.vaWrite x va n v).1.far.Canonical := by
  simp [State.vaWrite, h]

@[simp] theorem State.vaReadFrom_canonical (v : Viewer) (x w : Nat) (k : Access) (n : Nat) {s : State} (h : s.far.Canonical) (va : Nat)
    (first : Bool) : (s.vaReadFrom v x va w k first n).1.far.Canonical := by
  induction n generalizing s va first with
  | zero => exact h
  | succ n ih =>
    have h1 : ((if first || va % 64 < w then s.reachLine x va k else s).vaGet v x va w k).1.far.Canonical := by
      split <;> simp [h]
    unfold State.vaReadFrom
    split
    · exact canonical_of_fst ‹_› h1
    · rename_i g
      have h2 := ih (canonical_of_fst g h1) (va + w) false
      split <;> exact canonical_of_fst ‹_› h2

@[simp] theorem State.vaReadMany_canonical {s : State} (h : s.far.Canonical) (v : Viewer) (x va w : Nat) (k : Access) (n : Nat) :
    (s.vaReadMany v x va w k n).1.far.Canonical := State.vaReadFrom_canonical v x w k n h va true

/-! ## Copies -/

@[simp] theorem State.rowParts_canonical {s : State} (h : s.far.Canonical) (d x : Nat) (hd list : Word) (q first n : Nat) :
    (s.rowParts d x hd list q first n).1.far.Canonical :=
  foldl_fst_canonical (fun a i ha => by dsimp only; split <;> exact canonical_of_fst ‹_› (by simp [ha])) _ h

theorem Env.copyParts_canonical {e : Env} (h : e.s.far.Canonical) (k : CopyKind) (x : CopyDesc) : (e.copyParts k x).1.far.Canonical := by
  cases k <;> simp [Env.copyParts, h]

theorem Env.startCopy_canonical {e : Env} (h : e.s.far.Canonical) (k : CopyKind) (c da : Nat) (x : CopyDesc) :
    (e.apply (e.startCopy k c da x)).far.Canonical := by
  unfold Env.startCopy
  split <;> simp [h, Env.copyParts_canonical h]

/-- A word whose own effect keeps the canonical form keeps it, however its issue ends (R278). -/
theorem issue_canonical {m : Bool} {f : Form} {commit : Bool} {uses : Env → List Touch} {body : Env → Effect} {s : State}
    (h : s.far.Canonical) (hb : ∀ e : Env, e.s.far.Canonical → (e.apply (body e)).far.Canonical) :
    (nextOr s (issue m f commit uses body s)).far.Canonical := by
  obtain ⟨t, ht⟩ | ⟨-, hf⟩ := issueIf_stops (s := s) (bad := fun _ => false) (m := m) (f := f) (commit := commit) (uses := uses)
    (body := body)
  · obtain ⟨e, he, h1⟩ := issueIf_cases ht
    have hs : e.s.far.Canonical := canonical_of_eq (State.focus_far he) h
    simp only [issue, ht, nextOr_next]
    obtain rfl | ⟨y, rfl⟩ | rfl | rfl := h1
    · exact h
    · simp [hs]
    · simp [h]
    · exact hb e hs
  · simp only [issue, hf, nextOr_fault, h]

@[simp] theorem execCopy_canonical {s : State} (h : s.far.Canonical) (k : CopyKind) (f : Form) (m : Bool) (c : BitVec 3) (a : BitVec 4) :
    (nextOr s (execCopy k f m c a s)).far.Canonical :=
  issue_canonical h fun e he => by
    dsimp only
    split
    · exact he
    · split
      · simp [he]
      · split
        · simp [he]
        · exact Env.startCopy_canonical he ..

/-! ## The Sheaf's pages, frames and logs -/

@[simp] theorem State.takePage_canonical {s : State} (h : s.far.Canonical) (d x : Nat) : (s.takePage d x).1.far.Canonical := by
  unfold State.takePage
  dsimp only
  split
  · exact h
  · split <;> simp [canonical_of_fst ‹_› (State.vaRead_canonical h ..)]

@[simp] theorem State.takePages_canonical (d x n : Nat) {s : State} (h : s.far.Canonical) : (s.takePages d x n).1.far.Canonical := by
  induction n generalizing s with
  | zero => exact h
  | succ n ih =>
    have h1 := State.takePage_canonical h d x
    unfold State.takePages
    split
    · exact canonical_of_fst ‹_› h1
    · rename_i g
      have h2 := ih (canonical_of_fst g h1)
      split <;> exact canonical_of_fst ‹_› h2

@[simp] theorem State.returnPage_canonical {s : State} (h : s.far.Canonical) (d x : Nat) (page : Word) : (s.returnPage d x page).far.Canonical := by
  unfold State.returnPage
  split <;> simp [h]

@[simp] theorem State.returnPages_canonical {s : State} (h : s.far.Canonical) (d i : Nat) : (s.returnPages d i).far.Canonical := by
  unfold State.returnPages
  dsimp only
  split
  · rw [State.modFrame_far]
    exact foldl_canonical (fun s p hs => by simp [hs]) _ h
  · exact h

@[simp] theorem State.dropFrameRef_canonical {s : State} (h : s.far.Canonical) (hd : Word) : (s.dropFrameRef hd).far.Canonical := by
  simp [State.dropFrameRef, h]

@[simp] theorem State.settleFrame_canonical (n : Nat) {s : State} (h : s.far.Canonical) (hd : Word) : (s.settleFrame hd n).far.Canonical := by
  induction n generalizing s hd with
  | zero => exact h
  | succ n ih =>
    unfold State.settleFrame
    dsimp only
    split
    · exact h
    · split
      · split <;> simp [h]
      · split
        · refine foldl_canonical (fun s x hs => ih (by simp [hs]) _) _ ?_
          split
          · simp [h]
          · exact ih (by simp [h]) _
        · split <;> simp [h]

@[simp] theorem State.addFrameCount_canonical {s : State} (h : s.far.Canonical) (hd : Word) (d : Int) :
    (s.addFrameCount hd d).far.Canonical := by simp [State.addFrameCount, h]

@[simp] theorem State.popTop_canonical {s : State} (h : s.far.Canonical) (fb : BitVec 16) : (s.popTop fb).far.Canonical := by
  simp [State.popTop, h]

@[simp] theorem State.performFshare_canonical {s : State} (h : s.far.Canonical) (q : HomeReq) (hd : Word) :
    (s.performFshare q hd).1.far.Canonical := by
  unfold State.performFshare
  split <;> simp [h]

@[simp] theorem State.performFdrop_canonical {s : State} (h : s.far.Canonical) (q : HomeReq) (hd : Word) :
    (s.performFdrop q hd).1.far.Canonical := by
  unfold State.performFdrop
  dsimp only
  (repeat' split) <;> simp [h]

@[simp] theorem State.performFpush_canonical {s : State} (h : s.far.Canonical) (q : HomeReq) (v : Vector Word 6) (d : Nat) :
    (s.performFpush q v d).1.far.Canonical := by
  unfold State.performFpush
  dsimp only
  split
  · simp [h]
  · split
    · rename_i g
      have h1 := canonical_of_fst g (State.takePages_canonical _ _ _ h)
      simp only [answer, State.setFibre_far]
      refine foldl_canonical (fun s y hs => by simp [hs]) _ ?_
      (repeat' split) <;> simp [h1]
    · simp [h]

@[simp] theorem State.pageOf_canonical {s : State} (h : s.far.Canonical) (d x : Nat) (f : Frame) (q t : Nat) :
    (s.pageOf d x f q t).1.far.Canonical := by simp [State.pageOf, h]

@[simp] theorem State.rowVa_canonical {s : State} (h : s.far.Canonical) (d x : Nat) (f : Frame) (q t : Nat) :
    (s.rowVa d x f q t).1.far.Canonical := by
  unfold State.rowVa
  split <;> exact canonical_of_fst ‹_› (State.pageOf_canonical h ..)

@[simp] theorem State.logRead_canonical {s : State} (h : s.far.Canonical) (d x : Nat) (f : Frame) (t : Nat) :
    (s.logRead d x f t).1.far.Canonical := by
  have h1 := State.vaRead_canonical h (.die d) x (f.log + 4 * t) 4 .read
  unfold State.logRead
  split
  · exact State.vaRead_canonical (canonical_of_fst ‹_› h1) ..
  · exact h1

@[simp] theorem State.logWrite_canonical {s : State} (h : s.far.Canonical) (x : Nat) (f : Frame) (t v : Nat) :
    (s.logWrite x f t v).1.far.Canonical := by simp [State.logWrite, h]

theorem State.takeRowPages_canonical {s t : State} (h : s.far.Canonical) {d x i c : Nat} (g : s.takeRowPages d x i c = some t) :
    t.far.Canonical := by
  unfold State.takeRowPages at g
  dsimp only at g
  split at g <;> cases g
  rename_i g1
  rw [State.modFrame_far]
  exact foldl_canonical (fun s p hs => by simp [hs]) _ (canonical_of_fst g1 (State.takePages_canonical _ _ _ h))

theorem State.takeRows_canonical (d x i n : Nat) {s t : State} (h : s.far.Canonical) {c : Nat} (g : s.takeRows d x i c n = some t) :
    t.far.Canonical := by
  induction n generalizing s c with
  | zero => cases g; exact h
  | succ n ih =>
    unfold State.takeRows at g
    split at g
    · cases g
    · rename_i g1
      refine ih ?_ g
      split at g1
      · exact State.takeRowPages_canonical h g1
      · cases g1; exact h

@[simp] theorem State.performFappend_canonical {s : State} (h : s.far.Canonical) (q : HomeReq) (tok : Word) (d : Nat) :
    (s.performFappend q tok d).1.far.Canonical := by
  unfold State.performFappend
  dsimp only
  split
  · simp [h]
  · split
    · simp [h]
    · rename_i g
      simp [State.takeRows_canonical _ _ _ _ h g]

@[simp] theorem State.rowMoves_canonical {s : State} (h : s.far.Canonical) (x : Nat) (src dst : Word) (k c n : Nat) :
    (s.rowMoves x src dst k c n).1.far.Canonical :=
  foldl_fst_canonical (fun a j ha => foldl_fst_canonical (fun a q ha => by
    split
    · exact canonical_of_fst ‹_› (State.rowVa_canonical ha ..)
    · rename_i g
      have h1 := canonical_of_fst g (State.rowVa_canonical ha ..)
      split <;> exact canonical_of_fst ‹_› (State.rowVa_canonical h1 ..)) _ ha) _ h

@[simp] theorem State.moveLogs_canonical {s : State} (h : s.far.Canonical) (x : Nat) (src dst : Word) (k c n : Nat) :
    (s.moveLogs x src dst k c n).far.Canonical :=
  foldl_canonical (fun s j hs => by split <;> simp [canonical_of_fst ‹_› (State.logRead_canonical hs ..)]) _ h

@[simp] theorem State.startFret_canonical {s : State} (h : s.far.Canonical) (x : Nat) (src dst : Word) (k c n : Nat) :
    (s.startFret x src dst k c n).far.Canonical := by
  unfold State.startFret
  dsimp only
  split <;> simp [h]

@[simp] theorem State.leaveCallee_canonical {s : State} (h : s.far.Canonical) (fb : BitVec 16) (hd : Word) (k n d : Nat) (res : Word) :
    (s.leaveCallee fb hd k n d res).1.far.Canonical := by simp [State.leaveCallee, h]

@[simp] theorem State.performFret_canonical {s : State} (h : s.far.Canonical) (q : HomeReq) (v : Word) (d : Nat) :
    (s.performFret q v d).1.far.Canonical := by
  unfold State.performFret
  extract_lets x fb die top f ph p k n merge c
  split
  · simp [h]
  · split
    · split
      · simp [h]
      · rename_i g
        simp [State.takeRows_canonical _ _ _ _ h g]
    · split
      · rename_i g
        have h1 := canonical_of_fst g (State.takePages_canonical _ _ _ h)
        dsimp only
        split
        · exact h
        · rename_i g2
          have h2 := State.takeRows_canonical _ _ _ _ (by simp [h1]) g2
          exact State.leaveCallee_canonical (State.startFret_canonical (State.addFrameCount_canonical (by simp [h2]) _ _) _ _ _ _ _ _) _ _ _ _ _ _
      · simp [h]

@[simp] theorem State.performFinfo_canonical {s : State} (h : s.far.Canonical) (q : HomeReq) (hd sel : Word) (d : Nat) :
    (s.performFinfo q hd sel d).1.far.Canonical := by
  unfold State.performFinfo
  dsimp only
  split
  · simp [h]
  · split
    · simp [h]
    · split <;> simp [canonical_of_fst ‹_› (State.pageOf_canonical h ..)]
    · simp [h]
    · simp [h]

@[simp] theorem State.performBeammap_canonical {s : State} (h : s.far.Canonical) (q : HomeReq) (v : List Word) :
    (s.performBeammap q v).1.far.Canonical := by
  unfold State.performBeammap
  dsimp only
  split
  · simp [h]
  · split
    · simp [h]
    · refine foldl_canonical (fun s y hs => by simp [hs]) _ (foldl_canonical (fun s y hs => by simp [hs]) _ (by simp [h]))

@[simp] theorem State.performPfxput_canonical {s : State} (h : s.far.Canonical) (q : HomeReq) (n frame hash depth : Word) :
    (s.performPfxput q n frame hash depth).1.far.Canonical := by
  unfold State.performPfxput
  extract_lets x named i e f k
  split
  · simp [h]
  · rename_i y page w3 e' s1 s2 _ _
    have hy : y.1.far.Canonical := by
      unfold y
      split <;> simp [h]
    have h2 : s2.far.Canonical := by
      unfold s2 s1
      split <;> simp [hy]
    simp only [answer]
    split <;> simp [h2]

@[simp] theorem State.performPfxpin_canonical {s : State} (h : s.far.Canonical) (q : HomeReq) (hd : Word) (d : Nat) :
    (s.performPfxpin q hd d).1.far.Canonical := by
  unfold State.performPfxpin
  dsimp only
  split <;> simp [h]

@[simp] theorem State.performPfxunpin_canonical {s : State} (h : s.far.Canonical) (q : HomeReq) (hd : Word) :
    (s.performPfxunpin q hd).1.far.Canonical := by
  unfold State.performPfxunpin
  dsimp only
  split <;> simp [h]

@[simp] theorem State.perform_canonical {s : State} (h : s.far.Canonical) (q : HomeReq) : (s.perform q).1.far.Canonical := by
  unfold State.perform
  split
  · simp [h]
  · (repeat' split) <;> simp [h]

/-! ## Events of the home units, the copies and the Sheaf -/

@[simp] theorem execHomeUnitPerform_canonical {s : State} (h : s.far.Canonical) (i : Nat) : (nextOr s (execHomeUnitPerform i s)).far.Canonical := by
  unfold execHomeUnitPerform
  dsimp only
  (repeat' split) <;> simp [h]

@[simp] theorem execPageWalk_canonical {s : State} (h : s.far.Canonical) (i j : Nat) : (nextOr s (execPageWalk i j s)).far.Canonical := by
  unfold execPageWalk
  split
  · exact h
  · split
    · exact h
    · split
      · simp [h]
      · split
        · simp [canonical_of_fst ‹_› (State.translate_canonical h ..)]
        · rename_i g
          have h1 := canonical_of_fst g (State.translate_canonical h ..)
          (repeat' split) <;> simp [h1]

@[simp] theorem execVisibilityWiden_canonical {s : State} (h : s.far.Canonical) (n : Nat) : (nextOr s (execVisibilityWiden n s)).far.Canonical := by
  unfold execVisibilityWiden
  split
  · exact h
  · split
    · exact State.widen_canonical h _
    · exact h

@[simp] theorem State.endOp_canonical {s : State} (h : s.far.Canonical) (i : Nat) (o : Op) : (s.endOp i o).far.Canonical := by
  unfold State.endOp
  dsimp only
  split <;> simp [h]

@[simp] theorem execCopyComplete_canonical {s : State} (h : s.far.Canonical) (i : Nat) : (nextOr s (execCopyComplete i s)).far.Canonical := by
  unfold execCopyComplete
  (repeat' split) <;> simp [h]

@[simp] theorem execCancellationDone_canonical {s : State} (h : s.far.Canonical) (i : Nat) :
    (nextOr s (execCancellationDone i s)).far.Canonical := by
  unfold execCancellationDone
  dsimp only
  (repeat' split) <;> simp [h]

@[simp] theorem State.moveRow_canonical {s : State} (h : s.far.Canonical) (d x src dst n : Nat) :
    (s.moveRow d x src dst n).1.far.Canonical := by
  induction n with
  | zero => exact h
  | succ n ih =>
    unfold State.moveRow
    split
    · exact canonical_of_fst ‹_› ih
    · rename_i g
      have h1 := canonical_of_fst g ih
      split
      · exact canonical_of_fst ‹_› (State.vaGet_canonical h1 ..)
      · rename_i g2
        have h2 := canonical_of_fst g2 (State.vaGet_canonical h1 ..)
        split <;> exact canonical_of_fst ‹_› (State.vaPut_canonical h2 ..)

@[simp] theorem State.spendLine_far (s : State) (x va n : Nat) (k : Access) : (s.spendLine x va n k).far = s.far := by
  unfold State.spendLine
  split <;> simp

@[simp] theorem State.moveLine_canonical {s : State} (h : s.far.Canonical) (d x a b : Nat) : (s.moveLine d x a b).1.far.Canonical := by
  have h1 := State.reachLine_canonical (State.moveRow_canonical h d x a b 8) x a .read
  unfold State.moveLine
  dsimp only
  split <;> simp [h1]

@[simp] theorem State.endFret_canonical {s : State} (h : s.far.Canonical) (i : Nat) (j : FretJob) : (s.endFret i j).far.Canonical := by
  simp [State.endFret, h]

@[simp] theorem execFretRowMove_canonical {s : State} (h : s.far.Canonical) (i : Nat) : (nextOr s (execFretRowMove i s)).far.Canonical := by
  unfold execFretRowMove
  dsimp only
  (repeat' split) <;> simp [h]

@[simp] theorem State.readList_canonical {s : State} (h : s.far.Canonical) (d x : Nat) (f : Frame) (n : Nat) :
    (s.readList d x f n).1.far.Canonical := by simp [State.readList, h]

@[simp] theorem State.compactLine_canonical {s : State} (h : s.far.Canonical) (j : CompactJob) (src dst : Nat) :
    (s.compactLine j src dst).1.far.Canonical := by
  unfold State.compactLine
  dsimp only
  split
  · exact canonical_of_fst ‹_› (State.rowVa_canonical h ..)
  · rename_i g
    have h1 := canonical_of_fst g (State.rowVa_canonical h ..)
    split <;> exact canonical_of_fst ‹_› (State.rowVa_canonical h1 ..)

@[simp] theorem State.compactLog_canonical {s : State} (h : s.far.Canonical) (j : CompactJob) (src dst : Nat) :
    (s.compactLog j src dst).1.far.Canonical := by
  unfold State.compactLog
  dsimp only
  split
  · exact canonical_of_fst ‹_› (State.logRead_canonical h ..)
  · rename_i g
    have h1 := canonical_of_fst g (State.logRead_canonical h ..)
    split <;> exact canonical_of_fst ‹_› (State.logWrite_canonical h1 ..)

@[simp] theorem State.endCompaction_canonical {s : State} (h : s.far.Canonical) (i : Nat) (j : CompactJob) (count : Nat) :
    (s.endCompaction i j count).far.Canonical := by
  unfold State.endCompaction
  simp only [State.meetCompaction_far, State.modFrame_far]
  refine foldl_canonical (fun s p hs => by simp [hs]) _ (foldl_fst_canonical (fun a e ha => ?_) _ h)
  split <;> simp [canonical_of_fst ‹_› (State.vaRead_canonical ha ..)]

@[simp] theorem State.compactStep_canonical {s : State} (h : s.far.Canonical) (i : Nat) (j : CompactJob) (src dst : Nat) :
    (s.compactStep i j src dst).far.Canonical := by
  unfold State.compactStep
  dsimp only
  split
  · split
    · simp [canonical_of_fst ‹_› (State.compactLine_canonical h ..)]
    · rename_i g
      have h1 := canonical_of_fst g (State.compactLine_canonical h ..)
      split <;> simp [canonical_of_fst ‹_› (State.moveLine_canonical h1 ..)]
  · split <;> simp [canonical_of_fst ‹_› (State.compactLog_canonical h ..)]

@[simp] theorem execCompactionRowMove_canonical {s : State} (h : s.far.Canonical) (i : Nat) :
    (nextOr s (execCompactionRowMove i s)).far.Canonical := by
  unfold execCompactionRowMove
  dsimp only
  split
  · exact h
  · split
    · exact h
    · split
      · split
        · simp [canonical_of_fst ‹_› (State.readList_canonical h ..)]
        · rename_i g
          split <;> simp [canonical_of_fst g (State.readList_canonical h ..)]
      · split <;> simp [h]

@[simp] theorem State.readPrompt_canonical {s : State} (h : s.far.Canonical) (x : Nat) (va : Word) (n : Nat) :
    (s.readPrompt x va n).1.far.Canonical := by
  unfold State.readPrompt
  split <;> exact canonical_of_fst ‹_› (State.vaReadMany_canonical h ..)

@[simp] theorem State.logMatches_canonical {s : State} (h : s.far.Canonical) (x : Nat) (hd : Word) (tokens : List Nat) :
    (s.logMatches x hd tokens).1.far.Canonical :=
  foldl_fst_canonical (fun a t ha => by
    split
    · split <;> exact canonical_of_fst ‹_› (State.logRead_canonical ha ..)
    · exact ha) _ h

@[simp] theorem State.findPrefix_canonical {s : State} (h : s.far.Canonical) (j : LookupJob) (tokens : List Nat) (hs : List Word) :
    (s.findPrefix j tokens hs).1.far.Canonical :=
  foldl_fst_canonical (fun a e ha => by
    split
    · exact ha
    · split <;> exact canonical_of_fst ‹_› (State.logMatches_canonical ha ..)) _ h

@[simp] theorem State.endLookup_canonical {s : State} (h : s.far.Canonical) (j : LookupJob) (v : Word) :
    (s.endLookup j v).far.Canonical := foldl_canonical (fun s hd hs => by simp [hs]) _ (by simp [h])

@[simp] theorem execPrefixLookup_canonical {s : State} (h : s.far.Canonical) (i : Nat) : (nextOr s (execPrefixLookup i s)).far.Canonical := by
  unfold execPrefixLookup
  split
  · exact h
  · rename_i j _
    have h1 := State.readPrompt_canonical (s := { s with lookups := mdel s.lookups i }) h j.ctx j.va (16 * j.b)
    dsimp only
    split <;> simp [canonical_of_fst ‹_› h1]

@[simp] theorem execKvRebuildStart_canonical {s : State} (h : s.far.Canonical) (i j : Nat) :
    (nextOr s (execKvRebuildStart i j s)).far.Canonical := by
  unfold execKvRebuildStart
  split
  · exact h
  · split
    · split
      · exact h
      · dsimp only
        split
        · rename_i g
          have h1 := canonical_of_fst g (State.vaRead_canonical h ..)
          split <;> simp [canonical_of_fst ‹_› (State.takePage_canonical h1 ..)]
        · rename_i g _
          simp [canonical_of_fst g (State.vaRead_canonical h ..)]
    · exact h

@[simp] theorem State.giveFresh_canonical {s : State} (h : s.far.Canonical) (j : RebuildJob) : (s.giveFresh j).far.Canonical := by
  simp [State.giveFresh, h]

@[simp] theorem execKvRebuildDone_canonical {s : State} (h : s.far.Canonical) (i : Nat) : (nextOr s (execKvRebuildDone i s)).far.Canonical := by
  unfold execKvRebuildDone
  dsimp only
  split
  · exact h
  · split
    · exact h
    · split
      · simp [h]
      · split
        · exact canonical_of_fst ‹_› (by simp [h])
        · rename_i g
          have h1 := canonical_of_fst g (by simp [h])
          split <;> simp [h1]

@[simp] theorem execInvalidationArrival_canonical {s : State} (h : s.far.Canonical) (i c : Nat) :
    (nextOr s (execInvalidationArrival i c s)).far.Canonical := by
  unfold execInvalidationArrival
  dsimp only
  (repeat' split) <;> simp [h]

@[simp] theorem execStagingComplete_canonical {s : State} (h : s.far.Canonical) (d n : Nat) :
    (nextOr s (execStagingComplete d n s)).far.Canonical := by
  unfold execStagingComplete
  dsimp only
  split
  · exact h
  · split
    · exact h
    · split
      · exact h
      · split <;> simp [canonical_of_fst ‹_› (State.vaReadMany_canonical h ..)]

/-! ## Parts of other modules (R236) -/

@[simp] theorem State.serveLine_canonical {s : State} (h : s.far.Canonical) (j : RemoteJob) (key l : Nat) :
    (s.serveLine j key l).far.Canonical := by
  unfold State.serveLine
  dsimp only
  split
  · simp [far_of_fst ‹_› (State.touchLines_far ..), h]
  · rename_i g
    have h1 := canonical_of_eq (far_of_fst g (State.touchLines_far ..)) h
    split
    · exact State.sysPut_canonical (canonical_of_eq (State.spendDrill_far ..) h1) ..
    · simp [h1]

@[simp] theorem State.stepRemote_canonical {s : State} (h : s.far.Canonical) (j : RemoteJob) : (s.stepRemote j).far.Canonical := by
  unfold State.stepRemote
  (repeat' split) <;> simp [h]

@[simp] theorem State.serveFor_canonical (n : Nat) {s : State} (h : s.far.Canonical) : (s.serveFor n).far.Canonical := by
  induction n generalizing s with
  | zero => exact h
  | succ n ih =>
    unfold State.serveFor
    split
    · exact h
    · exact ih (State.stepRemote_canonical h _)

@[simp] theorem State.serveHeld_canonical {s : State} (h : s.far.Canonical) : s.serveHeld.far.Canonical := by simp [State.serveHeld, h]

@[simp] theorem State.takeRemote_canonical {s : State} (h : s.far.Canonical) (r : RemotePart) : (s.takeRemote r).far.Canonical := by
  simp [State.takeRemote, h]

@[simp] theorem execRemotePartArrival_canonical {s : State} (h : s.far.Canonical) (r : RemotePart) :
    (nextOr s (execRemotePartArrival r s)).far.Canonical := by
  unfold execRemotePartArrival
  (repeat' split) <;> simp [h]

@[simp] theorem State.restartBudgets_canonical {s : State} (h : s.far.Canonical) (d : Nat) : (s.restartBudgets d).far.Canonical := by
  simp [State.restartBudgets, h]

@[simp] theorem execFurrowBoundary_canonical {s : State} (h : s.far.Canonical) (d : Nat) :
    (nextOr s (execFurrowBoundary d s)).far.Canonical := by
  unfold execFurrowBoundary
  split <;> simp [h]

/-! ## Power and bands (R244–R253) -/

@[simp] theorem State.losePower_canonical {s : State} (h : s.far.Canonical) : s.losePower.far.Canonical := by
  simp [State.losePower, h]

@[simp] theorem State.powerOff_canonical {s : State} (h : s.far.Canonical) : s.powerOff.far.Canonical := by
  simp [State.powerOff, h]

@[simp] theorem State.followBand_canonical {s : State} (h : s.far.Canonical) (d b : Nat) (warmer : Bool) :
    (s.followBand d b warmer).far.Canonical := by
  unfold State.followBand
  dsimp only
  (repeat' split) <;> simp [h]

@[simp] theorem State.changeBand_canonical {s : State} (h : s.far.Canonical) (d b : Nat) : (s.changeBand d b).far.Canonical := by
  simp [State.changeBand, h]

@[simp] theorem State.sampleMoves_canonical {s : State} (h : s.far.Canonical) : s.sampleMoves.far.Canonical := by
  unfold State.sampleMoves
  (repeat' split) <;> simp [h]

@[simp] theorem execSensorSample_canonical {s : State} (h : s.far.Canonical) (d : Nat) : (nextOr s (execSensorSample d s)).far.Canonical := by
  unfold execSensorSample
  extract_lets l
  split
  · exact h
  · rename_i s1 s2 cur b below s3 _
    have h2 : s2.far.Canonical := h
    refine State.sampleMoves_canonical ?_
    unfold s3
    split <;> simp [h2]

@[simp] theorem execBandCoolHold_canonical {s : State} (h : s.far.Canonical) (d : Nat) : (nextOr s (execBandCoolHold d s)).far.Canonical := by
  unfold execBandCoolHold
  split <;> simp [h]

/-! ## Spills, teardowns and resumptions (R220–R232) -/

@[simp] theorem State.spillPage_canonical {s : State} (h : s.far.Canonical) (x page : Nat) (write : Bool) :
    (s.spillPage x page write).1.far.Canonical := by
  unfold State.spillPage
  split
  · exact canonical_of_fst ‹_› (State.translateLocal_canonical h ..)
  · rename_i g
    have h1 := canonical_of_fst g (State.translateLocal_canonical h ..)
    split
    · exact h1
    · split <;> exact canonical_of_eq (far_of_fst ‹_› (State.place_far ..)) h1

@[simp] theorem State.spillArea_canonical {s : State} (h : s.far.Canonical) (x : Nat) : (s.spillArea x).1.far.Canonical :=
  foldl_fst_canonical (fun a p ha => by
    split
    · exact ha
    · split <;> exact canonical_of_fst ‹_› (State.spillPage_canonical ha ..)) _ h

/-- A page put back byte by byte over what the page held keeps the canonical form (R225). -/
@[simp] theorem State.putPage_canonical {s : State} (h : s.far.Canonical) (ppn key : Nat) (cells : List Host.Cell) :
    (s.putPage ppn key cells).far.Canonical :=
  ⟨foldl_keeps (fun _ _ hm => Memory.write_wf _ _ _ hm) _ (Memory.filter_wf _ h.1), h.2⟩

@[simp] theorem State.spillCtx_canonical {s : State} (h : s.far.Canonical) (x : Nat) : (s.spillCtx x).far.Canonical := by
  unfold State.spillCtx
  dsimp only
  split
  · simp [canonical_of_fst ‹_› (State.spillArea_canonical (by simp [h]) _)]
  · rename_i g
    have h1 := canonical_of_fst g (State.spillArea_canonical (by simp [h]) _)
    simp only [State.preDone_far, State.send_far, State.modCtx_far]
    rw [foldl_far (fun s k => by simp)]
    exact foldl_canonical (fun s p hs => by simp [hs]) _ (by simp [h1])

@[simp] theorem State.dropCtx_canonical {s : State} (h : s.far.Canonical) (x : Nat) : (s.dropCtx x).far.Canonical := by
  unfold State.dropCtx
  simp only [State.far_mk, State.far_eta]
  refine foldl_canonical (fun s j hs => foldl_canonical (fun s k hs => by simp [hs]) _ (by simp [hs])) _ ?_
  refine foldl_canonical (fun s j hs => by simp [hs]) _ ?_
  refine foldl_canonical (fun s j hs => by simp [hs]) _ ?_
  simp [h]

@[simp] theorem State.beginDeath_canonical {s : State} (h : s.far.Canonical) (x : Nat) : (s.beginDeath x).far.Canonical := by
  simp [State.beginDeath, h]

@[simp] theorem State.endDeath_canonical {s : State} (h : s.far.Canonical) (x : Nat) : (s.endDeath x).far.Canonical := by
  simp [State.endDeath, h]

@[simp] theorem execSpill_canonical {s : State} (h : s.far.Canonical) (x : Nat) : (nextOr s (execSpill x s)).far.Canonical := by
  unfold execSpill
  (repeat' split) <;> simp [h]

@[simp] theorem State.readSpill_canonical {s : State} (h : s.far.Canonical) (x page key : Nat) : (s.readSpill x page key).1.far.Canonical := by
  unfold State.readSpill
  split <;> simp [canonical_of_fst ‹_› (State.spillPage_canonical h ..)]

@[simp] theorem State.readTile_canonical {s : State} (h : s.far.Canonical) (x : Nat) (l : SpillTile) : (s.readTile x l).1.far.Canonical := by
  unfold State.readTile
  extract_lets base y
  have hy : y.1.far.Canonical := foldl_fst_canonical (fun a u ha => by
    split
    · exact ha
    · split <;> exact canonical_of_fst ‹_› (State.readSpill_canonical ha ..)) _ h
  clear_value y
  obtain ⟨s1, _ | us⟩ := y
  · exact hy
  · have h1 : s1.far.Canonical := hy
    dsimp only
    split
    · exact canonical_of_fst ‹_› (State.readSpill_canonical h1 ..)
    · rename_i g2
      have h2 := canonical_of_fst g2 (State.readSpill_canonical h1 ..)
      split <;> exact canonical_of_fst ‹_› (State.readSpill_canonical h2 ..)

@[simp] theorem State.restoreTiles_canonical {s : State} (h : s.far.Canonical) (x : Nat) (f : Nat → Option Nat) :
    (s.restoreTiles x f).1.far.Canonical :=
  foldl_fst_canonical (fun a l ha => by
    split
    · exact ha
    · split <;> simp [canonical_of_fst ‹_› (State.readTile_canonical ha ..)]) _ h

@[simp] theorem State.partsAgain_canonical {s : State} (h : s.far.Canonical) (o : Op) : (s.partsAgain o).1.far.Canonical := by
  unfold State.partsAgain
  dsimp only
  split <;> simp [h]

@[simp] theorem State.reissue_canonical {s : State} (h : s.far.Canonical) (i : Nat) (o : Op) (f : Nat → Nat) :
    (s.reissue i o f).far.Canonical := by
  unfold State.reissue
  dsimp only
  split <;> simp [h]

@[simp] theorem State.reissueAll_canonical {s : State} (h : s.far.Canonical) (x : Nat) (f : Nat → Nat) :
    (s.reissueAll x f).far.Canonical := foldl_canonical (fun s o hs => by simp [hs]) _ h

@[simp] theorem State.resumeCtx_canonical {s : State} (h : s.far.Canonical) (x : Nat) : (s.resumeCtx x).1.far.Canonical := by
  unfold State.resumeCtx
  dsimp only
  split
  · exact h
  · rename_i g
    simp [canonical_of_fst g (by simp [h])]

/-! ## Commands of the service cores (R258, R259) -/

theorem mailCommand_canonical {code : Nat} {tenant : Bool} {f : Cmd → State → State} {s : State} (h : s.far.Canonical)
    (hf : ∀ c, (f c s).far.Canonical) (k : Nat) : (nextOr s (mailCommand code tenant f k s)).far.Canonical := by
  unfold mailCommand
  split
  · exact h
  · (repeat' split) <;> simp [h, hf]

@[simp] theorem execResume_canonical {s : State} (h : s.far.Canonical) (k : Nat) : (nextOr s (execResume k s)).far.Canonical :=
  mailCommand_canonical h (fun c => by
    split
    · split <;> simp [canonical_of_fst ‹_› (State.resumeCtx_canonical h _)]
    · split <;> simp [h]
    · simp [h]) k

theorem State.settle_canonical {s : State} (h : s.far.Canonical) (c : Cmd) (checks : List (Bool × Nat)) {effect : State → State}
    (he : (effect s).far.Canonical) : (s.settle c checks effect).far.Canonical := by
  unfold State.settle
  split <;> simp [h, he]

@[simp] theorem execPoisonClear_canonical {s : State} (h : s.far.Canonical) (k : Nat) :
    (nextOr s (execPoisonClear k s)).far.Canonical :=
  mailCommand_canonical h (fun c => State.settle_canonical h c _ (by
    dsimp only
    split
    · exact h
    · obtain ⟨ht, hr⟩ := State.settleWrites_canonical h .tier
      exact ⟨Memory.filter_wf _ ht, hr⟩)) k

/-- A result whose next state is canonical leaves a canonical state, whatever state stands where there is none. -/
theorem nextOr_canonical {s t : State} {r : Result} (h : s.far.Canonical) (hr : (nextOr t r).far.Canonical) :
    (nextOr s r).far.Canonical := by
  cases r with
  | next u => exact hr
  | fault x => exact h
  | refused x => exact h

theorem State.performCommand_canonical {s : State} (h : s.far.Canonical) (k : Nat) : (nextOr s (s.performCommand k)).far.Canonical := by
  unfold State.performCommand
  split <;> simp [h]

@[simp] theorem execHostRequestPerform_canonical {s : State} (h : s.far.Canonical) (k : Nat) :
    (nextOr s (execHostRequestPerform k s)).far.Canonical := by
  unfold execHostRequestPerform
  split
  · exact h
  · dsimp only
    split
    · exact nextOr_canonical h (State.performCommand_canonical (by simp [h]) k)
    · split
      · simp [h]
      · split <;> simp [far_of_fst ‹_› (State.touchLines_far ..), h]
    · split
      · simp [h]
      · split
        · simp [far_of_fst ‹_› (State.touchLines_far ..), h]
        · rename_i g
          exact State.sysPut_canonical (canonical_of_eq (far_of_fst g (State.touchLines_far ..)) h) ..

@[simp] theorem State.giveUp_canonical {s : State} (h : s.far.Canonical) (k slot : Nat) : (s.giveUp k slot).far.Canonical := by
  unfold State.giveUp
  refine foldl_canonical (fun s x hs => ?_) _ (by split <;> simp [h])
  dsimp only
  (repeat' split) <;> simp [hs]

@[simp] theorem execServiceWatchdog_canonical {s : State} (h : s.far.Canonical) (k : Nat) :
    (nextOr s (execServiceWatchdog k s)).far.Canonical := by
  unfold execServiceWatchdog
  simp only [nextOr_next]
  rw [foldl_far (fun s k => by simp), foldl_far (fun s k => by simp), State.modCore_far]
  exact foldl_canonical (fun s k hs => by simp [hs]) _ h

/-! ## The rows of the opcode table -/

/-- Every row of the opcode table keeps the canonical form: the words whose meaning is one of the shared shapes unfold to it, and every
other word and event has its own lemma above. -/
theorem exec_canonical {s : State} (h : s.far.Canonical) (i : Instr) : (nextOr s (exec i s)).far.Canonical := by
  unfold exec
  split <;> simp [h,
    execXimm, execXreg, execPage, execMemq, execNfmt, execGuard, execNop, execEndStrand, execBr, execJmp, execCall, execRet, execJmpr,
    execLoop, execPusho, execAwait, execChain, execTrap, execFence, execMov, execMovi, execLdc, execAdd, execSub, execAddi, execMul,
    execMulh, execMadd, execDiv, execRem, execAnd, execOr, execXor, execAndi, execShl, execShr, execSra, execShli, execShri, execSrai,
    execRotl, execMin, execMax, execMinu, execMaxu, execClz, execPopc, execExt, execIns, execCmpeq, execCmpne, execCmplt, execCmple,
    execCmpltu, execCmpleu, execPlog, execPset, execPget, execPput, execLdb, execLdh, execLdw, execLdd, execStb, execSth, execStw,
    execStd, execStv, execWst, execWstat, execCpy, execCpyw, execCpym, execLndset, execFst, execCstat, execCmov, execVadd, execVsub,
    execVmul, execVfma, execVmax, execVmin, execVcmp, execVsel, execVlogic, execVshift, execVcvt, execVred, execVscan, execVperm,
    execVbcast, execVext, execViota, execVexp2, execVrcp, execVfkey, execMzero, execMma, execMmas, execMdrain, execAttnfin, execQrot,
    execFadd, execFsub, execFmul, execFma, execFdiv, execFsqrt, execFmin, execFmax, execFcmpeq, execFcmplt, execFcmple, execFcvt,
    execFclass, execDivu, execRemu, execVrsqrt, execQstat, execWaitb, execGatom, execGcas, execGred, execFutw, execFutr, execSalloc,
    execSfree, execSignal, execTclaim, execTpatch, execTarm, execBook, execCalq, execUnlease, execGparam, execGpset, execTfree,
    execFpush, execFret, execFshare, execFdrop, execFappend, execFcompact, execFinfo, execBeammap, execPfxlook, execPfxput, execPfxpin,
    execPfxunpin, execBhash, execCpyf, execSysrd, execRett, execXprobe]

end Sys2Proof.Machine
end

section
/-!
Far memory, part 3: a step of the module keeps the canonical form.
-/
namespace Sys2Proof.Machine

/-! ## One step -/

theorem andThen_canonical {s : State} {r : Result} {f : State → State} (hf : ∀ t, (f t).far = t.far) (h : (nextOr s r).far.Canonical) :
    (nextOr s (andThen r f)).far.Canonical := by
  cases r with
  | next t => exact canonical_of_eq (hf t) h
  | fault x => exact h
  | refused x => exact h

@[simp] theorem State.runWord_canonical {s : State} (h : s.far.Canonical) (k : Nat) (σ : Side) (r : Run) :
    (nextOr s (s.runWord k σ r)).far.Canonical := by
  unfold State.runWord
  dsimp only
  split
  · exact nextOr_canonical h (exec_canonical (s := { s with who := some (k, σ) }) h _)
  · split
    · rename_i e he
      simpa [State.focus_far he] using h
    · exact h

theorem State.issueTurn_canonical {s : State} (h : s.far.Canonical) (k : Nat) (σ : Side) :
    (nextOr s (s.issueTurn k σ)).far.Canonical := by
  unfold State.issueTurn
  split
  · exact h
  · split
    · exact h
    · dsimp only
      split
      · split <;> simp [h]
      · exact andThen_canonical (fun _ => rfl) (State.runWord_canonical h _ _ _)

theorem State.turn_canonical {s : State} (h : s.far.Canonical) (x : Turn) : (nextOr s (s.turn x)).far.Canonical := by
  cases x with
  | ev i => exact exec_canonical h i
  | issue k σ => exact State.issueTurn_canonical h k σ
  | mx k => simp [State.turn, h]
  | plan n => simp [State.turn, h]

@[simp] theorem State.sample_canonical {s : State} (h : s.far.Canonical) : s.sample.far.Canonical := by
  unfold State.sample
  dsimp only
  rw [execPowerSample_far]
  exact foldl_canonical (fun s d hs => by simp [hs]) _ h

@[simp] theorem State.tick_canonical {s : State} (h : s.far.Canonical) : s.tick.far.Canonical := by
  unfold State.tick
  dsimp only
  (repeat' split) <;> simp [h]

theorem State.takeMove_canonical {s : State} (h : s.far.Canonical) (m : Option Instr) (l : List (Option Instr × Nat)) :
    (nextOr s (s.takeMove m l)).far.Canonical := by
  unfold State.takeMove
  cases m with
  | some i => exact nextOr_canonical h (exec_canonical (by exact h) i)
  | none => exact State.tick_canonical (by exact h)

/-- What goes before every choice leaves the far memories alone. -/
theorem State.urgent_far {s : State} {r : Result} (hr : r ∈ s.urgent) : (nextOr s r).far = s.far := by
  simp only [State.urgent, List.mem_append, List.mem_map, List.mem_flatMap] at hr
  obtain ((((⟨d, -, rfl⟩ | ⟨p, -, rfl⟩) | hl) | ⟨t, -, rfl⟩) | ⟨out, -, p, -, rfl⟩) | ⟨o, -, ho⟩ := hr
  · simp
  · simp
  · split at hl <;> simp_all
  · simp
  · simp
  · split at ho
    · simp at ho
    · obtain ⟨p, -, rfl⟩ := List.mem_map.1 ho
      simp

theorem State.background_canonical {s : State} (h : s.far.Canonical) : (nextOr s s.background).far.Canonical := by
  unfold State.background
  split
  · rename_i r l hr
    exact canonical_of_eq (State.urgent_far (hr ▸ List.mem_cons_self)) h
  · dsimp only
    split
    · exact State.tick_canonical (by exact h)
    · exact State.takeMove_canonical h _ _

theorem State.applyInput_canonical {s : State} (h : s.far.Canonical) (x : Input) : (nextOr s (s.applyInput x)).far.Canonical := by
  cases x with
  | event i => exact exec_canonical h i
  | hostWrite pa bs => exact State.sysPut_canonical (s := s) h .host 0 pa bs
  | remoteWrite m pa bs => exact State.sysPut_canonical (s := s) h (.remote m) 0 pa bs
  | request core r => cases r <;> simp [State.applyInput, h]
  | _ => simp [State.applyInput, h]

theorem State.advance_canonical {s : State} (h : s.far.Canonical) : (nextOr s s.advance).far.Canonical := by
  unfold State.advance
  split
  · exact nextOr_canonical h (State.applyInput_canonical (by exact h) _)
  · split
    · exact nextOr_canonical h (State.turn_canonical (by exact h) _)
    · exact State.background_canonical h

end Sys2Proof.Machine
end

section
namespace Sys2Proof.Proofs
open Sys2Proof.Machine

/-- Settles O58: every function of the model that can write far memory keeps its canonical form, and all others leave it alone. -/
theorem farMemoriesStayCanonical : Obligations.FarMemoriesStayCanonical := by
  intro s t h hs
  have ht := State.advance_canonical h
  rwa [show s.advance = .next t from hs] at ht

/-- Settles O54: every memory is empty after reset. -/
theorem resetMemoriesCanonical : Obligations.ResetMemoriesCanonical :=
  ⟨⟨Memory.wf_nil, Memory.wf_nil, fun _ hp => absurd hp List.not_mem_nil⟩, fun _ hp => absurd hp List.not_mem_nil⟩
end Sys2Proof.Proofs
end

section
/-!
Step: a strand whose turn it is to issue runs the instruction that the word at its program counter decodes to.
-/
namespace Sys2Proof.Machine

theorem decodeWord_ok {page : Nat} {w : BitVec 16} {i : Instr} (h : decode page w = .ok i) : decodeWord page w = i := by
  simp [decodeWord, h]

theorem decodeWord_error {page : Nat} {w : BitVec 16} {y : Reject} (h : decode page w = .error y) :
    decodeWord page w = .reservedEncoding w := by
  simp [decodeWord, h]

/-- With no input due, the next turn of the cycle is taken. -/
theorem step_todo {s : State} {x : Turn} {rest : List Turn} (hin : dueInput s.time s.inputs = none) (hx : s.todo = x :: rest) :
    step s = { s with todo := rest }.turn x := by
  simp [step, State.advance, hin, hx]

/-- A strand that may issue, meets no breakpoint and stands in its code range executes its next instruction. -/
theorem State.issueTurn_runs {s : State} {k : Nat} {σ : Side} {r : Run} (hr : s.runOf k = some r) (hi : s.mayIssue k σ r = true)
    (hb : s.breakAt r ((s.tile k).regs σ) = none) (hc : r.inCode ((s.tile k).regs σ).pc.toNat 2 = true) :
    s.issueTurn k σ = andThen (exec ((s.tile k).nextInstr σ) { s with who := some (k, σ) }) fun t => { t with who := none } := by
  have hf : (s.tile k).fetches r σ = true := hc
  simp [State.issueTurn, State.runWord, hr, hi, hb, hf]

end Sys2Proof.Machine

namespace Sys2Proof.Proofs
open Sys2Proof.Machine

/-- Settles O52: the turn at the head of the cycle is taken, and the issue of a strand executes what its next word decodes to. -/
theorem stepRunsDecoded : Obligations.StepRunsDecoded := by
  intro s k σ rest r hin u x w
  refine ⟨fun htodo hr hi hb hc => ?_, fun i htodo => step_todo hin htodo⟩
  have hstep : step s = andThen (exec (decodeWord (plPage x.platch) w) { u with who := some (k, σ) }) fun t => { t with who := none } :=
    (step_todo hin htodo).trans (State.issueTurn_runs hr hi hb hc)
  exact ⟨fun i hd => by rw [hstep, decodeWord_ok hd], fun y hd => by rw [hstep, decodeWord_error hd]⟩
end Sys2Proof.Proofs
end

section
/-!
Frames: what a lookup finds after a table has changed, and which fields an operation of the far memories may change at all.
-/
namespace Sys2Proof.Machine

/-! ## Tables -/

@[simp] theorem mget_mdel_same {α : Type} (m : List (Nat × α)) (k : Nat) : mget (mdel m k) k = none := by
  induction m with
  | nil => rfl
  | cons p m ih =>
    obtain ⟨j, x⟩ := p
    by_cases h : j = k
    · simpa [mdel, h] using ih
    · simpa [mdel, mget, h] using ih

theorem mget_eq_none {α : Type} {m : List (Nat × α)} {k : Nat} (h : ∀ p ∈ m, p.1 ≠ k) : mget m k = none := by
  induction m with
  | nil => rfl
  | cons p m ih =>
    obtain ⟨hp, hm⟩ := List.forall_mem_cons.1 h
    simp [mget, hp, ih hm]

theorem mem_mput_same {α : Type} (m : List (Nat × α)) (k : Nat) (x : α) : (k, x) ∈ mput m k x := mem_of_mget (mget_mput_same m k x)

/-! ## Folds -/

/-- A relation that every step of a fold keeps holds between its start and its end. -/
theorem foldl_rel {α β : Type} {R : β → β → Prop} (refl : ∀ s, R s s) (trans : ∀ {s t u}, R s t → R t u → R s u) {f : β → α → β}
    (hf : ∀ s x, R s (f s x)) (l : List α) : ∀ s, R s (l.foldl f s) := by
  induction l with
  | nil => exact refl
  | cons x l ih => exact fun s => trans (hf s x) (ih _)

/-- What every step of a fold keeps, the fold keeps. -/
theorem foldl_proj {α β γ : Type} (g : β → γ) {f : β → α → β} (hf : ∀ s x, g (f s x) = g s) (l : List α) (s : β) :
    g (l.foldl f s) = g s := by
  induction l generalizing s with
  | nil => rfl
  | cons x l ih => exact (ih _).trans (hf s x)

/-! ## Controllers -/

@[simp] theorem State.ctrl_modCtrl {s : State} {c : Nat} (hc : c < 24) (f : Ctrl → Ctrl) : (s.modCtrl c f).ctrl c = f (s.ctrl c) := by
  simp [State.ctrl, State.modCtrl, hc]

theorem State.ctrl_modCtrl_ne (s : State) {c n : Nat} (h : n ≠ c) (f : Ctrl → Ctrl) : (s.modCtrl c f).ctrl n = s.ctrl n := by
  simp [State.ctrl, State.modCtrl, Vector.getElem?_setIfInBounds_ne (Ne.symm h)]

@[simp] theorem State.ctrl_modDie (s : State) (d n : Nat) (f : Die → Die) : (s.modDie d f).ctrl n = s.ctrl n := rfl

/-! ## Contents of the far memories (R142) -/

/-- `s` with the far memories of `t`: their contents, their errors that no read has met, and the writes that are under way. -/
def State.withContents (s t : State) : State :=
  { s with writes := t.writes, tier := t.tier, tierKeys := t.tierKeys, host := t.host, remotes := t.remotes, soft := t.soft, hard := t.hard }

/-- Nothing but the contents of the far memories differs. -/
def OnlyContents (s t : State) : Prop := t = s.withContents t

theorem OnlyContents.refl (s : State) : OnlyContents s s := rfl

theorem OnlyContents.trans {s t u : State} (h : OnlyContents s t) (g : OnlyContents t u) : OnlyContents s u :=
  Eq.trans g (congrArg (·.withContents u) h)

theorem OnlyContents.ctrls {s t : State} (h : OnlyContents s t) : t.ctrls = s.ctrls := (congrArg State.ctrls h).trans rfl

theorem OnlyContents.ctrl {s t : State} (h : OnlyContents s t) (c : Nat) : t.ctrl c = s.ctrl c := by
  rw [State.ctrl, h.ctrls, State.ctrl]

theorem State.linePut_only (s : State) (key a : Nat) (bs : List Byte) : OnlyContents s (s.linePut key a bs) := rfl

theorem State.basePut_only (s : State) (sp : Space) (key a : Nat) (bs : List Byte) : OnlyContents s (s.basePut sp key a bs) := by
  unfold State.basePut
  split
  · split
    · exact .refl s
    · exact foldl_rel .refl .trans (fun s _ => s.linePut_only key _ _) _ s
  · rfl
  · rfl

theorem State.foldWrite_only (s : State) (w : FarWrite) : OnlyContents s (s.foldWrite w) :=
  (s.basePut_only w.space w.key w.addr w.bytes).trans rfl

theorem State.settleWrites_only (s : State) (sp : Space) : OnlyContents s (s.settleWrites sp) :=
  foldl_rel .refl .trans (fun s w => s.foldWrite_only w) _ s

/-! ## Outputs -/

@[simp] theorem State.send_sent (s : State) (o : Output) : (s.send o).sent = o :: s.sent := rfl

theorem State.sent_sendMsix (s : State) (p v : Nat) : ∃ l, (s.sendMsix p v).sent = l ++ s.sent := by
  unfold State.sendMsix
  dsimp only
  split
  · exact ⟨[], rfl⟩
  · split
    · exact ⟨[.msix p v], rfl⟩
    · exact ⟨[], rfl⟩

theorem State.mailDone_mem_sent (s : State) (k slot n : Nat) : .mailDone k slot n ∈ (s.mailDone k slot n).sent := by
  unfold State.mailDone
  dsimp only
  obtain ⟨l, hl⟩ := State.sent_sendMsix _ _ _
  rw [hl]
  simp

/-! ## Parts of an operation -/

theorem Op.modPart_get (o : Op) (j : Nat) (f : Part → Part) : (o.modPart j f).parts[j]? = o.parts[j]?.map f := by
  simp [Op.modPart, Function.comp_def]

theorem State.modPart_ops {s : State} {i : Nat} {o : Op} (h : mget s.ops i = some o) (j : Nat) (f : Part → Part) :
    (s.modPart i j f).ops = mput s.ops i (o.modPart j f) := by
  simp [State.modPart, h]

/-- The part that an operation has changed stands as it was changed. -/
theorem State.modPart_partIs {s : State} {i j : Nat} {o : Op} {p : Part} (h : mget s.ops i = some o) (hp : o.parts[j]? = some p)
    (f : Part → Part) : partIs (s.modPart i j f) i j (f p) := by
  refine ⟨o.modPart j f, ?_, ?_⟩
  · rw [State.modPart_ops h, mget_mput_same]
  · rw [Op.modPart_get, hp]; rfl

theorem partIs_congr {s t : State} {i j : Nat} {p : Part} (h : t.ops = s.ops) (hp : partIs s i j p) : partIs t i j p := by
  simpa only [partIs, h] using hp

@[simp] theorem State.modPart_sent (s : State) (i j : Nat) (f : Part → Part) : (s.modPart i j f).sent = s.sent := by
  unfold State.modPart; split <;> rfl

@[simp] theorem State.modPart_messages (s : State) (i j : Nat) (f : Part → Part) : (s.modPart i j f).messages = s.messages := by
  unfold State.modPart; split <;> rfl

@[simp] theorem State.countUncorrectable_ops (s : State) : s.countUncorrectable.ops = s.ops := by
  simp [State.countUncorrectable, State.count]

theorem State.failPart_ops {s : State} {i : Nat} {o : Op} (h : mget s.ops i = some o) (j kind va : Nat) :
    (s.failPart i j kind va).ops = mput s.ops i (o.modPart j fun p => { p with phase := .failed kind (w64 va) }) := by
  unfold State.failPart
  split
  · rw [State.modPart_ops (by simpa using h), State.countUncorrectable_ops]
  · exact State.modPart_ops h j _

theorem State.failPart_partIs {s : State} {i j : Nat} {o : Op} {p : Part} (h : mget s.ops i = some o) (hp : o.parts[j]? = some p)
    (kind va : Nat) : partIs (s.failPart i j kind va) i j { p with phase := .failed kind (w64 va) } :=
  partIs_congr ((State.failPart_ops h j kind va).trans (State.modPart_ops h j _).symm) (State.modPart_partIs h hp _)

@[simp] theorem State.failPart_sent (s : State) (i j kind va : Nat) : (s.failPart i j kind va).sent = s.sent := by
  unfold State.failPart; split <;> simp [State.countUncorrectable, State.count]

@[simp] theorem State.failPart_messages (s : State) (i j kind va : Nat) : (s.failPart i j kind va).messages = s.messages := by
  unfold State.failPart; split <;> simp [State.countUncorrectable, State.count]

end Sys2Proof.Machine
end

section
/-!
Invalidations and messages: what each move of R33 and R228 leaves behind.
-/
namespace Sys2Proof.Machine

/-- The invalidation `v` after it has reached drill `c`. -/
def State.invalAt (s : State) (v : Invalidation) (c : Nat) : Invalidation :=
  let gone := (s.ctrl c).tlb.filter v.covers
  { v with arrived := ins v.arrived c, waits := v.waits ++ s.partsAt v c gone
           refuse := v.refuse ++ s.refusedPages v c gone (s.partsAt v c gone) }

theorem State.invalAt_congr {s t : State} (h : OnlyContents s t) (v : Invalidation) (c : Nat) : t.invalAt v c = s.invalAt v c := by
  rw [show t = s.withContents t from h]; rfl

theorem State.ctrl_invals (s : State) (c : Nat) (l : List (Nat × Invalidation)) : { s with invals := l }.ctrl c = s.ctrl c := (rfl)

/-- An invalidation that reaches drill `c` (R33): it is registered there, and the drill's TLB keeps what it does not cover. -/
theorem exec_invalidationArrival {s : State} {i c : Nat} {v : Invalidation} (hv : mget s.invals i = some v) (hc : c < 24)
    (hn : v.arrived.contains c = false) :
    ∃ t, exec (.invalidationArrival i c) s = .next t ∧ mget t.invals i = some (s.invalAt v c) ∧
      (t.ctrl c).tlb = (s.ctrl c).tlb.filter (fun e => !v.covers e) ∧ ∀ n, n ≠ c → t.ctrl n = s.ctrl n := by
  have hs := s.settleWrites_only .tier
  refine ⟨_, by simp only [exec, execInvalidationArrival, hv, hn, Nat.not_le.2 hc]; rfl, ?_, ?_, fun n h => ?_⟩
  · exact (mget_mput_same _ _ _).trans (congrArg some (State.invalAt_congr hs v c))
  · rw [State.ctrl_invals, State.ctrl_modDie, State.ctrl_modCtrl hc, hs.ctrl]
  · rw [State.ctrl_invals, State.ctrl_modDie, State.ctrl_modCtrl_ne _ h, hs.ctrl]

@[simp] theorem State.sendMsix_invals (s : State) (p v : Nat) : (s.sendMsix p v).invals = s.invals := by
  unfold State.sendMsix
  dsimp only
  (repeat' split) <;> rfl

/-- An invalidation that has ended everywhere answers the command, or the reeve, that asked for it (R33, R258). -/
theorem exec_invalidationComplete {s : State} {i : Nat} {v : Invalidation} (hv : mget s.invals i = some v) (hd : s.invalDue i v = true) :
    exec (.invalidationComplete i) s = .next
      (match v.core with
        | some (k, slot) => { s with invals := mdel s.invals i }.mailDone k slot 0
        | none => { s with invals := mdel s.invals i }.send (.invalidated v.ctx v.va)) := by
  simp only [exec, execInvalidationComplete, hv, hd]
  cases v.core <;> rfl

/-- A message that its router lets in leaves the mesh and nothing else changes (R228). -/
theorem exec_messageDelivery_letIn {s : State} {i : Nat} {m : Message} (hm : mget s.messages i = some m)
    (hx : ∀ x, m.ctx = some x → s.owns x m.tile = true) :
    exec (.messageDelivery i) s = .next { s with messages := mdel s.messages i } := by
  simp only [exec, execMessageDelivery, hm]
  cases hc : m.ctx with
  | none => rfl
  | some x => exact if_pos (hx x hc)

/-- A message for a tile that its context does not own is discarded, and its part fails with kind 2 (R228). -/
theorem exec_messageDelivery_discard {s : State} {i x : Nat} {m : Message} {o : Op} {p : Part} (hm : mget s.messages i = some m)
    (hx : m.ctx = some x) (hown : s.owns x m.tile = false) (ho : mget s.ops m.op = some o) (hp : o.parts[m.part]? = some p) :
    exec (.messageDelivery i) s = .next
      (({ s with messages := mdel s.messages i }.failPart m.op m.part 2 (o.lowestVa p)).send (.logDiscard m.tile)) := by
  have hown' : { s with messages := mdel s.messages i }.owns x m.tile = false := hown
  simp [exec, execMessageDelivery, hm, hx, hown', ho, hp]

end Sys2Proof.Machine

namespace Sys2Proof.Proofs
open Sys2Proof.Machine

/-- Settles O44: each drill takes an arriving invalidation as it stands, the last of its waits ends it, and a message is let in or
discarded by its router. -/
theorem invalidationsAndMessages : Obligations.InvalidationsAndMessages := by
  intro s i c
  refine ⟨fun v hv => ⟨fun hc hn => ?_, fun hd => ?_⟩, fun m hm => ⟨fun hx => ?_, fun x hx hown => ?_, fun x o p hx hown ho hp => ?_⟩⟩
  · obtain ⟨t, ht, hi, htlb, hctrl⟩ := exec_invalidationArrival hv hc hn
    exact ⟨t, _, ht, hi, rfl, htlb, ⟨rfl, rfl⟩, hctrl⟩
  · refine ⟨_, exec_invalidationComplete hv hd, ?_, fun k slot hk => ?_, fun hn => ?_⟩
    · cases v.core <;> simp [State.mailDone, State.sendMsix_invals]
    · simpa only [hk] using State.mailDone_mem_sent ..
    · simp [hn]
  · exact ⟨_, exec_messageDelivery_letIn hm fun y hy => by simp [hx] at hy, mget_mdel_same .., rfl, rfl⟩
  · refine ⟨_, exec_messageDelivery_letIn hm fun y hy => ?_, mget_mdel_same .., rfl, rfl⟩
    rwa [← Option.some.inj (hx.symm.trans hy)]
  · refine ⟨_, exec_messageDelivery_discard hm hx hown ho hp, ?_, ?_, ?_⟩
    · simp
    · exact partIs_congr (State.send_ops ..) (State.failPart_partIs (s := { s with messages := mdel s.messages i }) ho hp ..)
    · simp

end Sys2Proof.Proofs
end

section
/-!
Accesses of far memory: which fields of the state a translation, an access and a packet may change.
-/
namespace Sys2Proof.Machine

theorem rel_of_fst {α β : Type} {R : β → β → Prop} {s t : β} {p : β × α} {y : α} (g : p = (t, y)) (h : R s p.1) : R s t := by
  rw [g] at h
  exact h

/-! ## Translations (R25–R36) -/

/-- `s` with what translations and accesses of `t` may change: the far memories and their errors, the drills and the walkers. -/
def State.withFar (s t : State) : State :=
  { s.withContents t with poison := t.poison, errstat := t.errstat, dies := t.dies, ctrls := t.ctrls }

/-- Nothing but the far memories, their errors, the drills and the walkers differs. -/
def OnlyFar (s t : State) : Prop := t = s.withFar t

theorem OnlyFar.refl (s : State) : OnlyFar s s := rfl

theorem OnlyFar.trans {s t u : State} (h : OnlyFar s t) (g : OnlyFar t u) : OnlyFar s u := Eq.trans g (congrArg (·.withFar u) h)

theorem OnlyContents.far {s t : State} (h : OnlyContents s t) : OnlyFar s t := by
  rw [show t = s.withContents t from h]; rfl

theorem State.modCtrl_only (s : State) (c : Nat) (f : Ctrl → Ctrl) : OnlyFar s (s.modCtrl c f) := rfl

theorem State.modDie_only (s : State) (d : Nat) (f : Die → Die) : OnlyFar s (s.modDie d f) := rfl

theorem State.count_only (s : State) (lo n : Nat) : OnlyFar s (s.count lo n) := rfl

theorem State.errors_only (s : State) (p : List Nat) (l m : List (Nat × Nat)) :
    OnlyFar s { s with poison := p, soft := l, hard := m } := rfl

theorem State.tierTouch_only (s : State) (pa : Nat) : OnlyFar s (s.tierTouch pa).1 := by
  unfold State.tierTouch
  dsimp only
  split
  · exact .refl s
  · split
    · exact (s.count_only 56 8).trans (State.errors_only ..)
    · split
      · dsimp only
        exact .trans (.trans (s.count_only 16 16) (State.errors_only ..)) (State.modCtrl_only ..)
      · exact .refl s

theorem State.tierAccess_only (s : State) (write : Bool) (pa : Nat) : OnlyFar s (s.tierAccess write pa).1 := by
  unfold State.tierAccess
  split
  · rfl
  · exact s.tierTouch_only pa

theorem State.walkFrom_only (x d va : Nat) (k : Access) (fuel : Nat) (s : State) (table : Nat) :
    OnlyFar s (s.walkFrom x d va k table fuel).1 := by
  induction fuel generalizing s table with
  | zero => rfl
  | succ lvl ih =>
    have touched := s.tierTouch_only (65536 * table + 8 * vaIndex va lvl)
    unfold State.walkFrom
    dsimp only
    cases (s.die d).walkCache.find? fun c => c.1 == x && c.2.1 == lvl && c.2.2.1 == va / 2 ^ (16 + 13 * lvl) with
    | some c =>
      dsimp only [Option.isSome]
      split
      · rfl
      · split
        · rfl
        · split
          · exact ih ..
          · split
            · rfl
            · split <;> rfl
    | none =>
      dsimp only [Option.isSome]
      split
      · exact touched
      · split
        · exact touched
        · split
          · rw [if_neg Bool.false_ne_true]
            exact (touched.trans (State.modDie_only ..)).trans (ih ..)
          · split
            · exact touched
            · split <;> exact touched

theorem State.setDirty_only (s : State) (a : Nat) (p : Word) : OnlyFar s (s.setDirty a p) := (s.basePut_only ..).far

theorem State.walk_only (s : State) (x d va : Nat) (k : Access) : OnlyFar s (s.walk x d va k).1 := by
  unfold State.walk
  dsimp only
  split
  · rfl
  · split
    · exact rel_of_fst ‹_› (State.walkFrom_only ..)
    · rename_i s1 e a p g
      have h1 : OnlyFar s s1 := rel_of_fst g (State.walkFrom_only ..)
      have h2 := h1.trans (s1.settleWrites_only .tier).far
      split
      · exact h1
      · split
        · exact h2.trans (State.setDirty_only ..)
        · split
          · exact h2.trans (rel_of_fst ‹_› (State.walkFrom_only ..))
          · have h3 := h2.trans (rel_of_fst ‹_› (State.walkFrom_only ..))
            split
            · exact h3
            · exact h3.trans (State.setDirty_only ..)

theorem State.translateLocal_only (s : State) (x va : Nat) (k : Access) : OnlyFar s (s.translateLocal x va k).1 := by
  have walked := s.walk_only x (dieOfCtrl (colour (va / 65536))) va k
  unfold State.translateLocal
  dsimp only
  split
  · rfl
  · split
    · split
      · rfl
      · split
        · split
          · exact rel_of_fst ‹_› walked
          · dsimp only
            exact (rel_of_fst ‹_› walked).trans (State.modCtrl_only ..)
        · rfl
    · split
      · exact rel_of_fst ‹_› walked
      · dsimp only
        exact (rel_of_fst ‹_› walked).trans (State.modCtrl_only ..)

theorem State.place_only (s : State) (x : Nat) (t : Trans) (write : Bool) (off : Nat) : OnlyFar s (s.place x t write off).1 := by
  have touched := s.tierAccess_only write (65536 * t.ppn + off)
  unfold State.place
  dsimp only
  split
  · split
    · rfl
    · split <;> exact rel_of_fst ‹_› touched
  · split
    · split <;> rfl
    · split <;> rfl

theorem State.readBy_only {s : State} (v : Viewer) (x va n : Nat) {y : State × (Nat ⊕ Trans)} (h : OnlyFar s y.1) :
    OnlyFar s (State.readBy v x va n y).1 := by
  obtain ⟨t, f | tr⟩ := y
  · exact h
  · unfold State.readBy
    dsimp only
    split <;> exact OnlyFar.trans h (rel_of_fst ‹_› (State.place_only ..))

theorem State.remoteEntry_only (s : State) (x c m : Nat) : OnlyFar s (s.remoteEntry x c m).1 := by
  unfold State.remoteEntry
  dsimp only
  split
  · exact rel_of_fst ‹_› (State.readBy_only _ _ _ _ (State.translateLocal_only ..))
  · have first := rel_of_fst ‹_› (State.readBy_only (.die (dieOfCtrl c)) x _ 8 (s.translateLocal_only x _ .read))
    split <;> exact first.trans (rel_of_fst ‹_› (State.readBy_only _ _ _ _ (State.translateLocal_only ..)))

theorem State.translate_only (s : State) (x va : Nat) (k : Access) : OnlyFar s (s.translate x va k).1 := by
  unfold State.translate
  split
  · exact rel_of_fst ‹_› (State.translateLocal_only ..)
  · have local_ := rel_of_fst ‹_› (s.translateLocal_only x va k)
    dsimp only
    split
    · split
      · exact local_.trans (rel_of_fst ‹_› (State.remoteEntry_only ..))
      · have entry := local_.trans (rel_of_fst ‹_› (State.remoteEntry_only ..))
        split
        · exact entry
        · dsimp only
          exact entry.trans (State.modCtrl_only ..)
    · exact local_

/-! ## Packets (R264) and writes through a translation -/

/-- `s` with what accesses of `t` may change: what translations do, the links, and what is sent on them. -/
def State.withAccess (s t : State) : State := { s.withFar t with links := t.links, reeve := t.reeve, sent := t.sent }

/-- Nothing but the far memories, the drills, the walkers, the links and what is sent differs. -/
def OnlyAccess (s t : State) : Prop := t = s.withAccess t

theorem OnlyAccess.refl (s : State) : OnlyAccess s s := rfl

theorem OnlyAccess.trans {s t u : State} (h : OnlyAccess s t) (g : OnlyAccess t u) : OnlyAccess s u :=
  Eq.trans g (congrArg (·.withAccess u) h)

theorem OnlyFar.access {s t : State} (h : OnlyFar s t) : OnlyAccess s t := by
  rw [show t = s.withFar t from h]; rfl

theorem OnlyAccess.tiles {s t : State} (h : OnlyAccess s t) : t.tiles = s.tiles := (congrArg State.tiles h).trans rfl

theorem OnlyAccess.ops {s t : State} (h : OnlyAccess s t) : t.ops = s.ops := (congrArg State.ops h).trans rfl

theorem State.rekey_only (s : State) (port : Nat) (out : Bool) (seq : Nat) : OnlyAccess s (s.rekey port out seq) := by
  unfold State.rekey
  split <;> rfl

theorem State.rekeyFirst_only (s : State) (port : Nat) (out : Bool) : OnlyAccess s (s.rekeyFirst port out) := by
  unfold State.rekeyFirst
  split
  · exact s.rekey_only ..
  · rfl

theorem State.emit_only (s : State) (port : Nat) (p : Packet) : OnlyAccess s (s.emit port p) := by
  unfold State.emit
  cases p.item <;> rfl

theorem State.modLink_only (s : State) (port : Nat) (f : LinkPort → LinkPort) : OnlyAccess s (s.modLink port f) := rfl

theorem State.sendPacket_only (s : State) (port : Nat) (item : LinkItem) : OnlyAccess s (s.sendPacket port item) :=
  ((s.rekeyFirst_only port true).trans (State.modLink_only ..)).trans (State.emit_only ..)

theorem State.sendOn_only (s : State) (port : Nat) (item : LinkItem) : OnlyAccess s (s.sendOn port item) := by
  unfold State.sendOn
  split
  · exact s.sendPacket_only ..
  · rfl

theorem State.reach_only (s : State) (t : Trans) (va : Nat) : OnlyAccess s (s.reach t va) := by
  unfold State.reach
  split
  · split
    · exact s.sendOn_only ..
    · rfl
  · rfl

theorem State.reachLine_only (s : State) (x va : Nat) (k : Access) : OnlyAccess s (s.reachLine x va k) := by
  unfold State.reachLine
  split
  · exact (rel_of_fst ‹_› (s.translate_only x va k)).access
  · exact (rel_of_fst ‹_› (s.translate_only x va k)).access.trans (State.reach_only ..)

theorem State.sysPut_only (s : State) (sp : Space) (key a : Nat) (bs : List Byte) : OnlyContents s (s.sysPut sp key a bs) := by
  unfold State.sysPut
  split
  · exact (s.settleWrites_only sp).trans (State.basePut_only ..)
  · exact s.basePut_only ..

theorem State.vaPut_only (s : State) (x va n v : Nat) : OnlyFar s (s.vaPut x va n v).1 := by
  unfold State.vaPut
  split
  · exact rel_of_fst ‹_› (s.translate_only x va .write)
  · have translated := rel_of_fst ‹_› (s.translate_only x va .write)
    split
    · exact translated.trans (rel_of_fst ‹_› (State.place_only ..))
    · exact (translated.trans (rel_of_fst ‹_› (State.place_only ..))).trans (State.sysPut_only ..).far

theorem State.vaWrite_only (s : State) (x va n v : Nat) : OnlyAccess s (s.vaWrite x va n v).1 :=
  (s.reachLine_only x va .write).trans (State.vaPut_only ..).access

/-! ## Frames and their pages (R195) -/

theorem State.setPool_only (s : State) (d x : Nat) (p : Word × Word) : OnlyFar s (s.setPool d x p) := rfl

theorem State.returnPage_only (s : State) (d x : Nat) (page : Word) : OnlyAccess s (s.returnPage d x page) := by
  unfold State.returnPage
  split
  · rfl
  · exact (State.vaWrite_only ..).trans (State.setPool_only ..).access

theorem State.setFrame_only (s : State) (d i : Nat) (f : Frame) : OnlyFar s (s.setFrame d i f) := rfl

theorem State.returnPages_only (s : State) (d i : Nat) : OnlyAccess s (s.returnPages d i) := by
  unfold State.returnPages
  dsimp only
  split
  · exact (foldl_rel .refl .trans (fun s _ => State.returnPage_only s ..) _ _).trans (State.setFrame_only ..).access
  · rfl

theorem State.dropFrameRef_only (s : State) (h : Word) : OnlyAccess s (s.dropFrameRef h) :=
  (State.setFrame_only ..).access.trans (State.returnPages_only ..)

end Sys2Proof.Machine
end

section
/-!
Parts of a copy (R29, R43, R49, R143, R146, R238, R266): what each move leaves of the part that moves.
-/
namespace Sys2Proof.Machine

/-! ## Operations and parts -/

theorem State.livePart_some {s : State} {i j : Nat} {o : Op} {p : Part} (h : s.livePart i j = some (o, p)) :
    mget s.ops i = some o ∧ o.parts[j]? = some p ∧ p.phase = .live ∧ o.cancel = false ∧ o.spilled = false := by
  unfold State.livePart at h
  split at h
  · contradiction
  · split at h
    · split at h
      · obtain ⟨rfl, rfl⟩ := Prod.mk.inj (Option.some.inj h)
        simp_all
      · contradiction
    · contradiction

@[simp] theorem State.modPart_tiles (s : State) (i j : Nat) (f : Part → Part) : (s.modPart i j f).tiles = s.tiles := by
  unfold State.modPart; split <;> rfl

@[simp] theorem State.modPart_writes (s : State) (i j : Nat) (f : Part → Part) : (s.modPart i j f).writes = s.writes := by
  unfold State.modPart; split <;> rfl

@[simp] theorem State.modPart_tier (s : State) (i j : Nat) (f : Part → Part) : (s.modPart i j f).tier = s.tier := by
  unfold State.modPart; split <;> rfl

@[simp] theorem State.modPart_cycle (s : State) (i j : Nat) (f : Part → Part) : (s.modPart i j f).cycle = s.cycle := by
  unfold State.modPart; split <;> rfl

/-- A part that fails at a VA stands afterwards as `failsAt` says, whatever else has changed before (R34, R45). -/
theorem State.failPage_failsAt {s : State} {i j : Nat} {o : Op} {p : Part} (h : mget s.ops i = some o) (hp : o.parts[j]? = some p)
    (kind va : Nat) : failsAt (s.failPage i j o kind va) i j o p kind va := by
  unfold failsAt State.failPage
  by_cases hw : o.kind = .hwalk
  · simp only [hw, if_true]
    refine State.modPart_partIs ?_ hp fun p => { p with bad := (va / 65536, kind, va) :: p.bad }
    split
    · rwa [State.countUncorrectable_ops]
    · exact h
  · simp only [hw, if_false]
    exact State.failPart_partIs h hp ..

/-! ## Sending and translating -/

theorem State.post_eq (s : State) (i j x : Nat) (tiles : List Nat) :
    ∃ m n, s.post i j x tiles = { s with messages := m, seq := n } := by
  unfold State.post
  induction tiles generalizing s with
  | nil => exact ⟨_, _, rfl⟩
  | cons k tiles ih =>
    obtain ⟨m, n, h⟩ := ih { s with messages := mput s.messages s.seq { ctx := some x, tile := k, op := i, part := j }, seq := s.seq + 1 }
    exact ⟨m, n, h⟩

theorem exec_copyPartSend {s : State} {i j : Nat} {o : Op} {p : Part} (ho : mget s.ops i = some o)
    (hj : o.parts.findIdx? (·.phase == .unsent) = some j) (hp : o.parts[j]? = some p) (hs : s.canSend i o = true) :
    ∃ t, exec (.copyPartSend i) s = .next t ∧ partIs t i j { p with phase := .live, sent := s.cycle } ∧ t.tiles = s.tiles := by
  have posted := State.post_eq (s.modPart i j fun p => { p with phase := .live, sent := s.cycle }) i j o.ctx
  obtain ⟨m, n, h⟩ := posted (if o.writes then [] else if o.kind = .cpym then o.members else [o.tile])
  refine ⟨_, by simp only [exec, execCopyPartSend, ho, hj, hs]; rfl, ?_, ?_⟩
  · rw [h]
    exact State.modPart_partIs ho hp fun p => { p with phase := .live, sent := s.cycle }
  · rw [h]
    exact State.modPart_tiles ..

/-- A page that an invalidation refuses fails without a translation (R238). -/
theorem exec_pageWalk_refused {s : State} {i j va : Nat} {o : Op} {p : Part} (hl : s.livePart i j = some (o, p))
    (hva : o.untranslated p = some va) (hr : s.refusesPage o.ctx (va / 65536) = true) :
    exec (.pageWalk i j) s = .next (s.failPage i j o 1 va) := by
  simp [exec, execPageWalk, hl, hva, hr]

/-- A translation that fails ends the part or its page with the translation's kind (R34). -/
theorem exec_pageWalk_fails {s t : State} {i j va kind : Nat} {o : Op} {p : Part} (hl : s.livePart i j = some (o, p))
    (hva : o.untranslated p = some va) (hr : s.refusesPage o.ctx (va / 65536) = false)
    (ht : s.translate o.ctx va o.access = (t, .inl kind)) :
    exec (.pageWalk i j) s = .next (t.failPage i j o kind va) := by
  simp [exec, execPageWalk, hl, hva, hr, ht]

/-- A translation made while an invalidation that refuses it is under way fails (R238). -/
theorem exec_pageWalk_stale {s t : State} {i j va : Nat} {o : Op} {p : Part} {tr : Trans} (hl : s.livePart i j = some (o, p))
    (hva : o.untranslated p = some va) (hr : s.refusesPage o.ctx (va / 65536) = false)
    (ht : s.translate o.ctx va o.access = (t, .inr tr)) (hs : t.refusesTrans o.ctx (va / 65536) tr = true) :
    exec (.pageWalk i j) s = .next (t.failPage i j o 1 va) := by
  simp [exec, execPageWalk, hl, hva, hr, ht, hs]

/-- A translation that stands, to a page of this module or of the host, is the part's (R29). -/
theorem exec_pageWalk_done {s t : State} {i j va : Nat} {o : Op} {p : Part} {tr : Trans} (hl : s.livePart i j = some (o, p))
    (hva : o.untranslated p = some va) (hr : s.refusesPage o.ctx (va / 65536) = false)
    (ht : s.translate o.ctx va o.access = (t, .inr tr)) (hs : t.refusesTrans o.ctx (va / 65536) tr = false) (h2 : tr.target ≠ 2) :
    exec (.pageWalk i j) s = .next (t.modPart i j fun p => { p with trans := mput p.trans (va / 65536) tr }) := by
  simp [exec, execPageWalk, hl, hva, hr, ht, hs, h2]

/-! ## The members of a CPYM (R49) -/

theorem mem_ins_self (l : List Nat) (a : Nat) : a ∈ ins l a := by
  induction l with
  | nil => simp [ins]
  | cons b l ih => unfold ins; (repeat' split) <;> simp_all

theorem mget_append {α : Type} (l m : List (Nat × α)) (k : Nat) : mget (l ++ m) k = (mget l k).or (mget m k) := by
  induction l with
  | nil => simp [mget]
  | cons p l ih =>
    by_cases h : p.1 = k
    · simp [mget, h]
    · simp [mget, h, ih]

theorem mget_map_keys {α : Type} {l : List Nat} {k : Nat} (h : k ∈ l) (f : Nat → α) : mget (l.map fun g => (g, f g)) k = some (f k) := by
  induction l with
  | nil => simp at h
  | cons a l ih =>
    by_cases ha : a = k
    · simp [mget, ha]
    · simpa [mget, ha] using ih (by simpa [Ne.symm ha] using h)

/-- The granules that an operation marks name it (R48). -/
theorem mget_addOwner {l : List (Nat × List Nat)} {i a n g : Nat} (ha : a ≤ g) (hg : g < a + n) :
    ∃ ks, mget (addOwner l i a n) g = some ks ∧ i ∈ ks := by
  have before : mget (l.takeWhile fun g => decide (g.1 < a)) g = none :=
    mget_eq_none fun p hp => by have := List.mem_takeWhile_imp hp; simp at this; omega
  have here := mget_map_keys (List.mem_range'_1.2 ⟨ha, hg⟩)
    fun g => ins ((mget ((l.dropWhile fun g => decide (g.1 < a)).takeWhile fun g => decide (g.1 < a + n)) g).getD []) i
  simp only [addOwner, mget_append, before, here, Option.none_or, Option.some_or]
  exact ⟨_, rfl, mem_ins_self ..⟩

theorem Tile.setFlight_owns {t : Tile} {i f n g : Nat} (hg : g ∈ granules f n) :
    ∃ ks, mget (t.setFlight i f n).field.flight g = some ks ∧ i ∈ ks := by
  unfold granules at hg
  split at hg
  · simp at hg
  · obtain ⟨hlo, hhi⟩ := List.mem_range'_1.1 hg
    rw [Tile.setFlight, if_neg ‹_›]
    exact mget_addOwner hlo hhi

/-- An operation that gives up other granules keeps those it owns (R48). -/
theorem Tile.disownAt_owns {t : Tile} {i g : Nat} {gs ks : List Nat} (h : mget t.field.flight g = some ks) (hi : i ∈ ks) (hg : g ∉ gs) :
    mget (t.disownAt i gs).field.flight g = some ks := by
  show mget ((t.field.flight.map _).filter _) g = some ks
  revert h
  induction t.field.flight with
  | nil => simp [mget]
  | cons e l ih =>
    intro h
    by_cases he : e.1 = g
    · obtain rfl : e.2 = ks := by simpa [mget, he] using h
      have : e.2 ≠ [] := List.ne_nil_of_mem hi
      simp [he, hg, this, mget]
    · have := ih (by simpa [mget, he] using h)
      rw [List.map_cons, List.filter_cons]
      (repeat' split) <;> simpa [mget, he] using this

/-- Marking granules leaves the generations of the tile's counters. -/
theorem Tile.setFlight_counterGen (t : Tile) (i f n now a : Nat) : (t.setFlight i f n).counterGen now a = t.counterGen now a := by
  unfold Tile.setFlight
  split <;> rfl

theorem State.settledGranules_congr {s u : State} {o : Op} {k : Nat} (hc : u.cycle = s.cycle)
    (h : ∀ a, (u.tile k).counterGen s.cycle a = (s.tile k).counterGen s.cycle a) : u.settledGranules o k = s.settledGranules o k := by
  simp only [State.settledGranules, hc, h]

theorem State.disownSettled_eq (s : State) (i : Nat) (o : Op) (k : Nat) :
    s.disownSettled i o k = s ∨ s.disownSettled i o k = s.modTile k (·.disownAt i (s.settledGranules o k)) := by
  unfold State.disownSettled
  split
  · exact .inl rfl
  · exact .inr rfl

/-- A member that accepts a part marks the part's granules, but for those whose counters have advanced since a pre-emption (R48). -/
theorem exec_memberAccept {s : State} {i j m : Nat} {o : Op} {p : Part} (hl : s.livePart i j = some (o, p))
    (ha : s.acceptReady i j m o p = true) :
    ∃ t, exec (.memberAccept i j m) s = .next t ∧ partIs t i j { p with accepted := ins p.accepted m } ∧
      ∀ g ∈ granules (o.fieldAt p) p.bytes, g ∉ s.settledGranules o m → (mget (t.tile m).field.flight g).any (·.contains i) = true := by
  obtain ⟨ho, hp, -⟩ := State.livePart_some hl
  let u := (s.modPart i j fun p => { p with accepted := ins p.accepted m }).modTile m fun t => t.setFlight i (o.fieldAt p) p.bytes
  have hpart : partIs u i j { p with accepted := ins p.accepted m } :=
    partIs_congr (State.modTile_ops ..) (State.modPart_partIs ho hp fun p => { p with accepted := ins p.accepted m })
  have htile : u.tile m = (s.tile m).setFlight i (o.fieldAt p) p.bytes := by
    rw [State.tile_modTile, State.tile_congr (State.modPart_tiles ..)]
  have hgs : u.settledGranules o m = s.settledGranules o m :=
    State.settledGranules_congr (by simp [u]) fun a => by rw [htile, Tile.setFlight_counterGen]
  refine ⟨u.disownSettled i o m, by simp only [exec, execMemberAccept, hl, ha]; rfl, ?_, fun g hg hs => ?_⟩
  · obtain h | h := u.disownSettled_eq i o m
    · rwa [h]
    · rw [h]
      exact partIs_congr (State.modTile_ops ..) hpart
  · obtain ⟨ks, hks, hi⟩ := Tile.setFlight_owns (t := s.tile m) (i := i) hg
    rw [← htile] at hks
    obtain h | h := u.disownSettled_eq i o m
    · simp [h, hks, hi]
    · rw [h, State.tile_modTile, hgs, Tile.disownAt_owns hks hi hs]
      simpa using hi

/-! ## Pieces (R143, R146) -/

/-- `s` with what `t` has counted at the drills, the harrows and the ports. -/
def State.withSpent (s t : State) : State :=
  { s with ctrls := t.ctrls, links := t.links, hostSpent := t.hostSpent, harrowSpent := t.harrowSpent }

/-- Nothing but the drills, the ports and what the harrows and ports have counted differs. -/
def OnlySpent (s t : State) : Prop := t = s.withSpent t

theorem OnlySpent.refl (s : State) : OnlySpent s s := rfl

theorem OnlySpent.trans {s t u : State} (h : OnlySpent s t) (g : OnlySpent t u) : OnlySpent s u := Eq.trans g (congrArg (·.withSpent u) h)

theorem OnlySpent.ops {s t : State} (h : OnlySpent s t) : t.ops = s.ops := (congrArg State.ops h).trans rfl

theorem OnlySpent.writes {s t : State} (h : OnlySpent s t) : t.writes = s.writes := (congrArg State.writes h).trans rfl

theorem OnlySpent.tier {s t : State} (h : OnlySpent s t) : t.tier = s.tier := (congrArg State.tier h).trans rfl

theorem State.spendUnits_only (s : State) (x c : Nat) (t : Trans) (write : Bool) (n : Nat) : OnlySpent s (s.spendUnits x c t write n) := by
  unfold State.spendUnits State.spendLink
  dsimp only
  (repeat' split) <;> rfl

theorem State.charge_only (s : State) (o : Op) (t : Trans) (l n : Nat) : OnlySpent s (s.charge o t l n) := by
  have spent := s.spendUnits_only o.ctx (colour (l / 1024)) t o.writes n
  unfold State.charge
  dsimp only
  split
  · exact spent.trans rfl
  · exact spent

theorem State.chargePiece_only (s : State) (o : Op) (p : Part) (i : Nat) : OnlySpent s (s.chargePiece o p i) := by
  refine foldl_rel .refl .trans (fun s l => ?_) _ s
  unfold State.chargeLine
  split
  · split
    · rfl
    · exact s.charge_only ..
  · rfl

theorem State.partPlace_same (s : State) (o : Op) (p : Part) (va : Nat) : SameCore s (s.partPlace o p va).1 := by
  unfold State.partPlace
  split
  · exact .refl s
  · split <;> exact rel_of_fst ‹_› (s.place_same ..)

/-- Reading a piece changes neither memory nor operations (R146). -/
theorem State.pieceRead_same (s : State) (o : Op) (p : Part) (va n : Nat) : SameCore s (s.pieceRead o p va n).1 := by
  induction n with
  | zero => exact .refl s
  | succ n ih =>
    unfold State.pieceRead
    split
    · exact rel_of_fst ‹_› ih
    · have before := rel_of_fst ‹_› ih
      split
      · exact before
      · split <;> exact before.trans (rel_of_fst ‹_› (State.partPlace_same ..))

/-- Nothing of the operations and of the second tier's contents differs, and the writes under way have grown by some of operation `i`
that no other tile sees yet (R143). -/
def OnlyPushed (i : Nat) (s t : State) : Prop :=
  t.ops = s.ops ∧ t.tier = s.tier ∧ ∃ ws, t.writes = s.writes ++ ws ∧ ∀ w ∈ ws, w.op = i ∧ w.level = 0

theorem OnlyPushed.of_same {i : Nat} {s t : State} (h : SameCore s t) : OnlyPushed i s t := by
  obtain ⟨-, htier, -, hops, -, -, -, -, hw, -, -⟩ := h
  exact ⟨hops, htier, [], by simp [hw], by simp⟩

theorem OnlyPushed.trans {i : Nat} {s t u : State} (h : OnlyPushed i s t) (g : OnlyPushed i t u) : OnlyPushed i s u := by
  obtain ⟨ho, ht, ws, hw, hws⟩ := h
  obtain ⟨go, gt, vs, gv, gvs⟩ := g
  exact ⟨go.trans ho, gt.trans ht, ws ++ vs, by rw [gv, hw, List.append_assoc], List.forall_mem_append.2 ⟨hws, gvs⟩⟩

theorem State.pushWrite_pushed (s : State) (o : Op) (i : Nat) (x : Place) (bs : List Byte) : OnlyPushed i s (s.pushWrite o i x bs) :=
  ⟨rfl, rfl, [o.farWrite s.seq i x bs], rfl, by simp [Op.farWrite]⟩

theorem State.pieceWrite_pushed (s : State) (i : Nat) (o : Op) (p : Part) (va v n : Nat) :
    OnlyPushed i s (s.pieceWrite i o p va v n).1 := by
  induction n with
  | zero => exact .of_same (.refl s)
  | succ n ih =>
    unfold State.pieceWrite
    split
    · exact ih
    · split
      · have placed : OnlyPushed i s (s.partPlace o p va).1 := .of_same (s.partPlace_same ..)
        split
        · exact rel_of_fst ‹_› placed
        · exact (rel_of_fst ‹_› placed).trans (State.pushWrite_pushed ..)
      · split
        · exact rel_of_fst ‹_› ih
        · have before := rel_of_fst ‹_› ih
          split
          · exact before.trans (rel_of_fst ‹_› (.of_same (State.partPlace_same ..)))
          · exact (before.trans (rel_of_fst ‹_› (.of_same (State.partPlace_same ..)))).trans (State.pushWrite_pushed ..)

theorem Op.pieceTrans_mem {o : Op} {p : Part} {n : Nat} {t : Trans} (h : t ∈ o.pieceTrans p n) : ∃ e ∈ p.trans, e.2 = t := by
  obtain ⟨g, -, hg⟩ := List.mem_filterMap.1 h
  exact ⟨_, mem_of_mget hg, rfl⟩

theorem foldl_id {α β : Type} {f : β → α → β} {l : List α} {s : β} (h : ∀ x ∈ l, f s x = s) : l.foldl f s = s := by
  induction l with
  | nil => rfl
  | cons x l ih =>
    obtain ⟨hx, hl⟩ := List.forall_mem_cons.1 h
    rw [List.foldl_cons, hx, ih hl]

/-- A part with no translation to another module sends nothing on the links. -/
theorem State.sendLines_local {s : State} {o : Op} {p : Part} (h : ∀ e ∈ p.trans, e.2.target ≠ 2) (i j n : Nat) :
    s.sendLines i j o p n = s := by
  refine foldl_id fun l _ => ?_
  cases ht : mget p.trans (l / 1024) with
  | none => rfl
  | some t =>
    have := h _ (mem_of_mget ht)
    simp [this]

theorem State.sendLinks_local {s : State} {o : Op} {p : Part} (h : ∀ e ∈ p.trans, e.2.target ≠ 2) (i j n : Nat) :
    (o.pieceTrans p n).foldl (fun s t => s.sendLink i j o p t) s = s := by
  refine foldl_id fun t ht => ?_
  obtain ⟨e, he, rfl⟩ := Op.pieceTrans_mem ht
  exact if_pos (.inl (h e he))

theorem State.notStalled_local {s : State} {o : Op} {p : Part} (h : ∀ e ∈ p.trans, e.2.target ≠ 2) (n : Nat) :
    (o.pieceTrans p n).any s.linkStalled = false := by
  refine List.any_eq_false.2 fun t ht => ?_
  obtain ⟨e, he, rfl⟩ := Op.pieceTrans_mem ht
  simp [State.linkStalled, h e he]

/-- A piece of a part whose pages lie in this module and its host is read where it stands (R146). -/
theorem exec_channelPerform_read {s : State} {i j n va v : Nat} {o : Op} {p : Part} (hl : s.livePart i j = some (o, p))
    (hr : s.pieceReady o p n = true) (hva : o.pieceVa p n = some va) (ht : ∀ e ∈ p.trans, e.2.target ≠ 2) (hw : o.writes = false)
    (hv : (s.pieceRead o p va o.pieceBytes).2 = .inr v) :
    ∃ t, exec (.channelPerform i j n) s = .next t ∧ partIs t i j { p with got := mput p.got n (w64 v) } ∧ t.writes = s.writes ∧
      t.tier = s.tier := by
  obtain ⟨ho, hp, -⟩ := State.livePart_some hl
  obtain ⟨-, htier, -, hops, -, -, -, -, hwrites, -, -⟩ := s.pieceRead_same o p va o.pieceBytes
  generalize hu : s.pieceRead o p va o.pieceBytes = u at *
  obtain ⟨u, y⟩ := u
  obtain rfl : y = .inr v := hv
  have hspent := (u.modPart i j fun p => { p with got := mput p.got n (w64 v) }).chargePiece_only o p n
  refine ⟨_, by simp only [exec, execChannelPerform, hl, hr, hva, hw, State.sendLinks_local ht, State.notStalled_local ht,
    State.sendLines_local ht, Option.getD_some, hu]; rfl, ?_, ?_, ?_⟩
  · exact partIs_congr hspent.ops (State.modPart_partIs (hops ▸ ho) hp fun p => { p with got := mput p.got n (w64 v) })
  · simpa using hspent.writes.trans (by simpa using hwrites)
  · simpa using hspent.tier.trans (by simpa using htier)

/-- Such a piece is written at tile level (R142, R143). -/
theorem exec_channelPerform_write {s : State} {i j n va : Nat} {o : Op} {p : Part} (hl : s.livePart i j = some (o, p))
    (hr : s.pieceReady o p n = true) (hva : o.pieceVa p n = some va) (ht : ∀ e ∈ p.trans, e.2.target ≠ 2) (hw : o.writes = true)
    (hv : (s.pieceWrite i o p va (o.pieceData p n).toNat o.pieceBytes).2 = none) :
    ∃ t ws, exec (.channelPerform i j n) s = .next t ∧ partIs t i j { p with put := ins p.put n } ∧ t.tier = s.tier ∧
      t.writes = s.writes ++ ws ∧ ∀ w ∈ ws, w.op = i ∧ w.level = 0 := by
  obtain ⟨ho, hp, -⟩ := State.livePart_some hl
  obtain ⟨hops, htier, ws, hwrites, hws⟩ := s.pieceWrite_pushed i o p va (o.pieceData p n).toNat o.pieceBytes
  generalize hu : s.pieceWrite i o p va (o.pieceData p n).toNat o.pieceBytes = u at *
  obtain ⟨u, y⟩ := u
  obtain rfl : y = none := hv
  have hspent := (u.modPart i j fun p => { p with put := ins p.put n }).chargePiece_only o p n
  refine ⟨_, ws, by simp only [exec, execChannelPerform, hl, hr, hva, hw, State.sendLinks_local ht, State.notStalled_local ht,
    State.sendLines_local ht, Option.getD_some, hu]; rfl, ?_, ?_, ?_, hws⟩
  · exact partIs_congr hspent.ops (State.modPart_partIs (hops ▸ ho) hp fun p => { p with put := ins p.put n })
  · simpa using hspent.tier.trans (by simpa using htier)
  · simpa using hspent.writes.trans (by simpa using hwrites)

/-! ## Ends by time (R238, R266) -/

theorem exec_dmaTimeoutAbort {s : State} {i j : Nat} {o : Op} {p : Part} {e : Nat × Trans} (hl : s.livePart i j = some (o, p))
    (he : p.trans.find? (fun t => t.2.target == 1 && s.hostPriv.contains t.2.ppn && !p.bad.any (·.1 == t.1)) = some e) :
    exec (.dmaTimeoutAbort i j) s = .next (s.failPage i j o 5 (o.lowestIn p e.1)) := by
  simp only [exec, execDmaTimeoutAbort, hl, Part.badPage, he]

theorem exec_linkPartTimeout {s : State} {i j : Nat} {o : Op} {p : Part} (hl : s.livePart i j = some (o, p)) :
    exec (.linkPartTimeout i j) s = .next
      (match s.latePage o p with | some page => s.failPage i j o 5 (o.lowestIn p page) | none => s) := by
  simp only [exec, execLinkPartTimeout, hl]
  cases s.latePage o p <;> rfl

end Sys2Proof.Machine

namespace Sys2Proof.Proofs
open Sys2Proof.Machine

/-- The moves of a part (R29, R43, R49, R143, R146, R238, R266). -/
theorem partsMove_holds : Sys2Proof.partsMove := by
  intro s i j
  refine ⟨fun o p ho hj hp hs => exec_copyPartSend ho hj hp hs, fun o p hl => ?_⟩
  obtain ⟨ho, hp, -⟩ := State.livePart_some hl
  refine ⟨fun va hva => ?_, fun m ha => exec_memberAccept hl ha, fun n va hr hn ht => ?_, fun e he => ?_, fun page hpage => ?_, fun hn => ?_⟩
  · have ops := (s.translate_only o.ctx va o.access).access.ops
    refine ⟨fun hr => ⟨_, exec_pageWalk_refused hl hva hr, State.failPage_failsAt ho hp ..⟩, fun hr kind hy => ?_, fun hr tr hy hs => ?_,
      fun hr tr hy hs h2 => ?_⟩
    · exact ⟨_, exec_pageWalk_fails hl hva hr (Prod.ext rfl hy), State.failPage_failsAt (ops ▸ ho) hp ..⟩
    · exact ⟨_, exec_pageWalk_stale hl hva hr (Prod.ext rfl hy) hs, State.failPage_failsAt (ops ▸ ho) hp ..⟩
    · exact ⟨_, exec_pageWalk_done hl hva hr (Prod.ext rfl hy) hs h2,
        State.modPart_partIs (ops ▸ ho) hp fun p => { p with trans := mput p.trans (va / 65536) tr }⟩
  · exact ⟨fun hw v hv => exec_channelPerform_read hl hr hn ht hw hv, fun hw hv => exec_channelPerform_write hl hr hn ht hw hv⟩
  · exact ⟨_, exec_dmaTimeoutAbort hl he, State.failPage_failsAt ho hp ..⟩
  · exact ⟨_, (exec_linkPartTimeout hl).trans (by rw [hpage]), State.failPage_failsAt ho hp ..⟩
  · exact (exec_linkPartTimeout hl).trans (by rw [hn])

end Sys2Proof.Proofs
end

section
/-!
Landings and port-B reads (R63–R66, R139): a granule that the parts of a copy share is written, or read, in one move for all of them.
-/
namespace Sys2Proof.Machine

@[simp] theorem granuleTile_granuleKey {k g : Nat} (h : g < 131072) : granuleTile (granuleKey k g) = k := by
  unfold granuleTile granuleKey; omega

@[simp] theorem granuleOf_granuleKey {k g : Nat} (h : g < 131072) : granuleOf (granuleKey k g) = g := by
  unfold granuleOf granuleKey; omega

/-! ## Parts that share a granule -/

theorem Op.sharers_nodup (o : Op) (p : Part) (g : Nat) : ((o.sharers p g).map (·.1)).Nodup := by
  have : ∀ l : List (Part × Nat), (l.map fun q => (q.2, q.1)).map (·.1) = l.map (·.2) := fun l => by simp
  rw [Op.sharers, this]
  refine List.Nodup.sublist (List.filter_sublist.map _) ?_
  simp [List.nodup_range']

theorem Op.liveSharers_nodup (o : Op) (p : Part) (g : Nat) : ((o.liveSharers p g).map (·.1)).Nodup :=
  (o.sharers_nodup p g).sublist (List.filter_sublist.map _)

/-- A live part with bytes of a granule is one of the parts that share it. -/
theorem Op.mem_liveSharers {o : Op} {j g : Nat} {p : Part} (hp : o.parts[j]? = some p) (hlive : p.phase = .live)
    (hg : (o.granulesOf p).contains g = true) : (j, p) ∈ o.liveSharers p g := by
  refine List.mem_filter.2 ⟨List.mem_map.2 ⟨(p, j), List.mem_filter.2 ⟨?_, ?_⟩, rfl⟩, by simp [hlive]⟩
  · exact List.mem_zipIdx_iff_getElem?.2 (by simpa using hp)
  · split
    · simp
    · simpa using hg

/-! ## Several parts changed at once -/

theorem State.modPart_get (s : State) {i : Nat} {o : Op} (h : mget s.ops i = some o) (j : Nat) (f : Part → Part) :
    mget (s.modPart i j f).ops i = some (o.modPart j f) := by
  rw [State.modPart_ops h, mget_mput_same]

/-- Each of some parts of operation `i` changed. -/
def State.modParts (s : State) (i : Nat) (ps : List (Nat × Part)) (f : Part → Part) : State := ps.foldl (fun s q => s.modPart i q.1 f) s

theorem State.modParts_tiles (s : State) (i : Nat) (ps : List (Nat × Part)) (f : Part → Part) : (s.modParts i ps f).tiles = s.tiles :=
  foldl_proj State.tiles (fun s (q : Nat × Part) => s.modPart_tiles i q.1 f) ps s

theorem Op.modPart_get_ne (o : Op) {j n : Nat} (h : j ≠ n) (f : Part → Part) : (o.modPart n f).parts[j]? = o.parts[j]? := by
  simp [Op.modPart, h, Function.comp_def]

/-- Where no part stands twice in a list, each part of the list is changed once, and nothing else of the operation. -/
theorem State.modParts_get (i : Nat) (f : Part → Part) {ps : List (Nat × Part)} (hnd : (ps.map (·.1)).Nodup) {s : State} {o : Op}
    (h : mget s.ops i = some o) : ∃ q, mget (s.modParts i ps f).ops i = some q ∧ q = { o with parts := q.parts } ∧
      ∀ j, q.parts[j]? = if j ∈ ps.map (·.1) then o.parts[j]?.map f else o.parts[j]? := by
  induction ps generalizing s o with
  | nil => exact ⟨o, h, rfl, fun j => by simp⟩
  | cons n ps ih =>
    obtain ⟨hn, hps⟩ := List.nodup_cons.1 hnd
    obtain ⟨q, hq, hsame, hparts⟩ := ih hps (s.modPart_get h n.1 f)
    refine ⟨q, hq, hsame.trans rfl, fun j => ?_⟩
    by_cases hj : j = n.1
    · subst hj
      rw [hparts, if_neg hn, if_pos (by simp), Op.modPart_get]
    · simp only [hparts, o.modPart_get_ne hj, List.map_cons, List.mem_cons, hj, false_or]

/-! ## Repairs of port B (R65) -/

/-- Nothing differs but the error bits of tile `k`'s field store and the counts of errors. -/
def OnlyRepaired (k : Nat) (s t : State) : Prop :=
  SameElsewhere k s t ∧ ∃ w d, t.tile k = { s.tile k with field := { (s.tile k).field with worn := w, dead := d } }

theorem OnlyRepaired.refl (k : Nat) (s : State) : OnlyRepaired k s s := ⟨.refl k s, (s.tile k).field.worn, (s.tile k).field.dead, rfl⟩

theorem OnlyRepaired.trans {k : Nat} {s t u : State} (h : OnlyRepaired k s t) (g : OnlyRepaired k t u) : OnlyRepaired k s u := by
  obtain ⟨hs, _, _, ht⟩ := h
  obtain ⟨gs, w, d, gt⟩ := g
  exact ⟨hs.trans gs, w, d, by rw [gt, ht]⟩

theorem SameElsewhere.ops {k : Nat} {s t : State} (h : SameElsewhere k s t) : t.ops = s.ops := (congrArg State.ops h.2).trans rfl

theorem SameElsewhere.cycle {k : Nat} {s t : State} (h : SameElsewhere k s t) : t.cycle = s.cycle := (congrArg State.cycle h.2).trans rfl

theorem State.repairB_only (s : State) (o : Op) (p : Part) (k g : Nat) (reads : Bool) : OnlyRepaired k s (s.repairB o p k g reads) := by
  have repaired : ∀ (s : State) (f n : Nat), OnlyRepaired k s (s.repair k f n) := fun s f n => s.repair_cases k f n
  have source : OnlyRepaired k s (if reads then s.repair k (32 * g) 32 else s) := by
    split
    · exact repaired ..
    · exact .refl k s
  unfold State.repairB
  dsimp only
  split
  · exact source.trans (repaired ..)
  · exact source

/-! ## The two moves -/

theorem State.portBTrip_keyless {s : State} {k : Nat} (h : (s.tile k).keyOk = false) (o : Op) (p : Part) (g : Nat) (b : Bool) :
    s.portBTrip o p k g b = some 2 := by
  simp [State.portBTrip, h]

theorem State.portBTrip_lost {s : State} {k g : Nat} (h : (s.tile k).keyOk = true) (hl : (s.tile k).lost g = true) (o : Op) (p : Part) :
    s.portBTrip o p k g true = some 3 := by
  simp [State.portBTrip, h, hl]

/-- The state in which port B has written a granule, with a CPYF's row tags (R64, R50). -/
def State.stamped (s : State) (o : Op) (p : Part) (k g m : Nat) (bs : List (Option Byte)) : State :=
  (s.repairB o p k g (m != 32)).modTile k fun t =>
    match o.rowTags p g with
    | some (row, f, n) => (t.landBytes g bs).stampRow row f n
    | none => t.landBytes g bs

/-- The state in which a granule has landed for every part that shares it, and its `m` bytes have been counted, before the credit. -/
def State.landed (s : State) (i : Nat) (o : Op) (p : Part) (k g m : Nat) (bs : List (Option Byte)) : State :=
  let u := (s.stamped o p k g m bs).modParts i (o.liveSharers p g) fun p => { p with landed := (k, g) :: p.landed }
  { u with ops := mput u.ops i { (mget u.ops i).getD o with landed := ((mget u.ops i).getD o).landed + m } }

/-- The state in which a granule has been read for every part that shares it, before the credit. -/
def State.granuleRead (s : State) (i : Nat) (o : Op) (p : Part) (k g : Nat) : State :=
  (s.repairB o p k g true).modParts i (o.liveSharers p g) fun p => { p with read := ins p.read g }

theorem State.landReady_granule {s : State} {i j k g : Nat} {o : Op} {p : Part} (h : s.landReady i j o p k g = true) :
    (o.granulesOf p).contains g = true := by
  simp only [State.landReady, Bool.and_eq_true] at h
  tauto

theorem State.readReady_granule {s : State} {i j k g : Nat} {o : Op} {p : Part} (h : s.readReady i j o p k g = true) :
    (o.granulesOf p).contains g = true := by
  simp only [State.readReady, Bool.and_eq_true] at h
  tauto

theorem exec_granuleLanding {s : State} {i j k g m : Nat} {o : Op} {p : Part} {bs : List (Option Byte)} (hl : s.livePart i j = some (o, p))
    (hg : g < 131072) (hr : s.landReady i j o p k g = true) (hbs : bs = o.granuleBytes (o.liveSharers p g) g)
    (hm : m = (bs.filter (·.isSome)).length) :
    exec (.granuleLanding i j (granuleKey k g)) s = .next
      (match s.portBTrip o p k g (m != 32) with
        | some kind => s.failPart i j kind (o.vaIn p g)
        | none => (s.landed i o p k g m bs).creditPart i o p k g m) := by
  subst hm hbs
  simp only [exec, execGranuleLanding, hl, granuleTile_granuleKey hg, granuleOf_granuleKey hg, hr]
  cases s.portBTrip o p k g ((o.granuleBytes (o.liveSharers p g) g |>.filter (·.isSome)).length != 32) <;> rfl

theorem exec_portBRead {s : State} {i j k g : Nat} {o : Op} {p : Part} (hl : s.livePart i j = some (o, p))
    (hg : g < 131072) (hr : s.readReady i j o p k g = true) :
    exec (.portBRead i j (granuleKey k g)) s = .next
      (match s.portBTrip o p k g true with
        | some kind => s.failPart i j kind (o.vaIn p g)
        | none => (s.granuleRead i o p k g).creditPart i o p k g (o.granuleCount (o.liveSharers p g) g)) := by
  simp only [exec, execPortBRead, hl, granuleTile_granuleKey hg, granuleOf_granuleKey hg, hr]
  cases s.portBTrip o p k g true <;> rfl

/-- A part of the list of those that share a granule has been changed as all of them. -/
theorem State.modParts_sharers {s : State} {i j g : Nat} {o : Op} {p : Part} (ho : mget s.ops i = some o) (hp : o.parts[j]? = some p)
    (hlive : p.phase = .live) (hg : (o.granulesOf p).contains g = true) (f : Part → Part) :
    ∃ q, mget (s.modParts i (o.liveSharers p g) f).ops i = some q ∧ q = { o with parts := q.parts } ∧ q.parts[j]? = some (f p) := by
  obtain ⟨q, hq, hsame, hparts⟩ := State.modParts_get i f (o.liveSharers_nodup p g) ho
  have hmem : j ∈ (o.liveSharers p g).map (·.1) := List.mem_map_of_mem (Op.mem_liveSharers hp hlive hg)
  exact ⟨q, hq, hsame, by rw [hparts, if_pos hmem, hp]; rfl⟩

theorem State.stamped_ops (s : State) (o : Op) (p : Part) (k g m : Nat) (bs : List (Option Byte)) :
    (s.stamped o p k g m bs).ops = s.ops := by
  rw [State.stamped, State.modTile_ops, (s.repairB_only o p k g (m != 32)).1.ops]

theorem State.landed_op {s : State} {i j k g m : Nat} {o : Op} {p : Part} {bs : List (Option Byte)} (hl : s.livePart i j = some (o, p))
    (hg : (o.granulesOf p).contains g = true) : ∃ q x, mget (s.landed i o p k g m bs).ops i = some q ∧
      q.landed = o.landed + m ∧ q.parts[j]? = some x ∧ (k, g) ∈ x.landed := by
  obtain ⟨ho, hp, hlive, -⟩ := State.livePart_some hl
  obtain ⟨q, hq, hsame, hj⟩ := State.modParts_sharers ((s.stamped_ops o p k g m bs).symm ▸ ho) hp hlive hg
    fun p => { p with landed := (k, g) :: p.landed }
  have hcount : q.landed = o.landed := by rw [hsame]
  refine ⟨{ q with landed := q.landed + m }, _, ?_, ?_, hj, List.mem_cons_self⟩
  · simp only [State.landed, hq, Option.getD_some, mget_mput_same]
  · simp only [hcount]

theorem State.landed_field (s : State) (i : Nat) (o : Op) (p : Part) (k g m : Nat) (bs : List (Option Byte)) :
    ((s.landed i o p k g m bs).tile k).field =
      match o.rowTags p g with
      | some (row, f, n) => ((((s.repairB o p k g (m != 32)).tile k).landBytes g bs).stampRow row f n).field
      | none => (((s.repairB o p k g (m != 32)).tile k).landBytes g bs).field := by
  have htile : (s.landed i o p k g m bs).tile k = (s.stamped o p k g m bs).tile k := State.tile_congr (State.modParts_tiles ..) k
  rw [htile, State.stamped, State.tile_modTile]
  cases o.rowTags p g <;> rfl

theorem State.granuleRead_op {s : State} {i j k g : Nat} {o : Op} {p : Part} (hl : s.livePart i j = some (o, p))
    (hg : (o.granulesOf p).contains g = true) : ∃ q, mget (s.granuleRead i o p k g).ops i = some q ∧
      q.parts[j]? = some { p with read := ins p.read g } := by
  obtain ⟨ho, hp, hlive, -⟩ := State.livePart_some hl
  obtain ⟨q, hq, -, hj⟩ := State.modParts_sharers ((s.repairB_only o p k g true).1.ops.symm ▸ ho) hp hlive hg
    fun p => { p with read := ins p.read g }
  exact ⟨q, hq, hj⟩

theorem State.granuleRead_mem (s : State) (i : Nat) (o : Op) (p : Part) (k g : Nat) :
    ((s.granuleRead i o p k g).tile k).field.mem = (s.tile k).field.mem := by
  obtain ⟨-, w, d, h⟩ := s.repairB_only o p k g true
  rw [State.granuleRead, State.tile_congr (State.modParts_tiles ..), h]

end Sys2Proof.Machine

namespace Sys2Proof.Proofs
open Sys2Proof.Machine

/-- Landings and port-B reads (R63–R66, R139). -/
theorem granulesLand_holds : Sys2Proof.granulesLand := by
  intro s i j k g o p hl hg
  obtain ⟨ho, hp, -⟩ := State.livePart_some hl
  refine ⟨fun hr => ?_, fun hr => ?_, fun hk b => State.portBTrip_keyless hk .., fun hk hlost => State.portBTrip_lost hk hlost ..⟩
  · intro bs m
    have hx := exec_granuleLanding hl hg hr (rfl : bs = _) (rfl : m = _)
    have hgr := State.landReady_granule hr
    refine ⟨fun hn => ?_, fun kind hk => ?_⟩
    · obtain ⟨q, x, hq, hm, hj, hmem⟩ := State.landed_op (k := k) (m := m) (bs := bs) hl hgr
      exact ⟨_, q, x, hx.trans (by rw [hn]), hq, hm, hj, hmem, State.landed_field ..⟩
    · exact ⟨_, hx.trans (by rw [hk]), State.failPart_partIs ho hp ..⟩
  · have hx := exec_portBRead hl hg hr
    refine ⟨fun hn => ?_, fun kind hk => ?_⟩
    · obtain ⟨q, hq, hj⟩ := State.granuleRead_op (k := k) hl (State.readReady_granule hr)
      exact ⟨_, q, _, hx.trans (by rw [hn]), hq, hj, rfl, State.granuleRead_mem ..⟩
    · exact ⟨_, hx.trans (by rw [hk]), State.failPart_partIs ho hp ..⟩

end Sys2Proof.Proofs
end

section
/-!
Credits (R46, R47, R53): what one credit leaves of the counter, of the granules in flight and of the operation's own list.
-/
namespace Sys2Proof.Machine

/-! ## Records of the dies -/

/-- `s` with the records of the dies of `t`, what is still to do in its cycle, and what it has sent. -/
def State.withRecords (s t : State) : State := { s with dies := t.dies, todo := t.todo, sent := t.sent }

/-- Nothing but records of the dies, turns of the cycle and outputs differs. -/
def OnlyRecords (s t : State) : Prop := t = s.withRecords t

theorem OnlyRecords.refl (s : State) : OnlyRecords s s := rfl

theorem OnlyRecords.trans {s t u : State} (h : OnlyRecords s t) (g : OnlyRecords t u) : OnlyRecords s u :=
  Eq.trans g (congrArg (·.withRecords u) h)

theorem OnlyRecords.tiles {s t : State} (h : OnlyRecords s t) : t.tiles = s.tiles := (congrArg State.tiles h).trans rfl

theorem OnlyRecords.ops {s t : State} (h : OnlyRecords s t) : t.ops = s.ops := (congrArg State.ops h).trans rfl

theorem State.modDie_records (s : State) (d : Nat) (f : Die → Die) : OnlyRecords s (s.modDie d f) := rfl

theorem State.modCont_records (s : State) (d i : Nat) (f : ContRec → ContRec) : OnlyRecords s (s.modCont d i f) := rfl

theorem State.modFibre_records (s : State) (f : BitVec 16) (g : Fibre → Fibre) : OnlyRecords s (s.modFibre f g) := rfl

theorem State.send_records (s : State) (o : Output) : OnlyRecords s (s.send o) := rfl

theorem State.armWith_records (s : State) (d i : Nat) (n : Int) : OnlyRecords s (s.armWith d i n) := by
  unfold State.armWith
  dsimp only
  split <;> rfl

theorem State.arm_records (s : State) (x : Nat) (h : Word) : OnlyRecords s (s.arm x h).1 := by
  unfold State.arm
  split
  · rfl
  · exact s.armWith_records ..

theorem State.putTaskAt_records (s : State) (h : Word) (x : TaskRec) : OnlyRecords s (s.putTaskAt h x) := rfl

theorem State.armHandler_records (s : State) (h : Handler) : OnlyRecords s (s.armHandler h) := by
  unfold State.armHandler
  dsimp only
  split
  · exact s.send_records _
  · split
    · exact ((s.putTaskAt_records ..).trans (rel_of_fst ‹_› (State.arm_records ..))).trans (State.send_records ..)
    · exact (s.putTaskAt_records ..).trans (rel_of_fst ‹_› (State.arm_records ..))

theorem State.claimCont_records {s t : State} {d i : Nat} (h : s.claimCont d = some (i, t)) : OnlyRecords s t := by
  unfold State.claimCont State.reserveCont at h
  cases hf : lowestFree (s.die d).conts (fun c => c.state == 0 && !c.held) contPool with
  | none => simp [hf] at h
  | some n =>
    simp only [hf, Option.some.injEq, Prod.mk.injEq] at h
    obtain ⟨-, rfl⟩ := h
    rfl

theorem State.overflow_records (s : State) (fb : BitVec 16) (k a : Nat) : OnlyRecords s (s.overflow fb k a) := by
  unfold State.overflow
  split
  · exact s.modFibre_records ..
  · have claimed := State.claimCont_records ‹_›
    exact ((claimed.trans (State.modFibre_records ..)).trans (State.modCont_records ..)).trans (State.armHandler_records ..)

theorem State.raiseOverflow_records (s : State) (fb : BitVec 16) (k a : Nat) : OnlyRecords s (s.raiseOverflow fb k a) := by
  unfold State.raiseOverflow
  split
  · rfl
  · exact s.overflow_records ..

theorem State.meet_records (s : State) (h : Word) (f : ContRec → ContRec) : OnlyRecords s (s.meet h f) := by
  unfold State.meet
  split
  · exact s.modCont_records ..
  · rfl

theorem State.readyCounter_records (s : State) (k a gen : Nat) : OnlyRecords s (s.readyCounter k a gen) := by
  refine foldl_rel .refl .trans (fun s d => foldl_rel .refl .trans (fun s c => ?_) _ s) _ s
  split
  · exact s.meet_records ..
  · rfl

theorem State.leaveFilling_tiles (s : State) (i a : Nat) : (s.leaveFilling i a).tiles = s.tiles := by
  unfold State.leaveFilling
  split
  · rfl
  · dsimp only
    split
    · rfl
    · split <;> rfl

/-! ## Walks whose slot a counter is -/

/-- An entry of a table is still there after another key has been put, or it is the one that was put over. -/
theorem mem_mput_of_mem {α : Type} {m : List (Nat × α)} {k : Nat} {x : α} {p : Nat × α} (h : p ∈ m) :
    p ∈ mput m k x ∨ (p.1 = k ∧ mget m k = some p.2) := by
  induction m with
  | nil => simp at h
  | cons q m ih =>
    obtain ⟨j, y⟩ := q
    obtain hk | hk | hk := lt_trichotomy k j
    · exact .inl (by simp only [mput, hk, if_true]; exact List.mem_cons_of_mem _ h)
    · subst hk
      obtain rfl | hm := List.mem_cons.1 h
      · exact .inr ⟨rfl, by simp [mget]⟩
      · exact .inl (by simp only [mput, lt_irrefl, if_false, if_true]; exact List.mem_cons_of_mem _ hm)
    · simp only [mput, mget, hk.not_gt, hk.ne, hk.ne', if_false]
      obtain rfl | hm := List.mem_cons.1 h
      · exact .inl List.mem_cons_self
      · exact (ih hm).imp_left (List.mem_cons_of_mem _)

/-- A table with one entry put over another of the same standing has a member of a kind as before. -/
theorem any_mput_same {α : Type} {m : List (Nat × α)} {k : Nat} {x y : α} (hy : mget m k = some y) (P : Nat × α → Bool)
    (h : P (k, x) = P (k, y)) : (mput m k x).any P = m.any P := by
  rw [Bool.eq_iff_iff, List.any_eq_true, List.any_eq_true]
  constructor
  · rintro ⟨p, hp, hP⟩
    obtain rfl | hm := mem_mput hp
    · exact ⟨_, mem_of_mget hy, h ▸ hP⟩
    · exact ⟨p, hm, hP⟩
  · rintro ⟨p, hp, hP⟩
    obtain hm | ⟨hk, hg⟩ := mem_mput_of_mem (x := x) (k := k) hp
    · exact ⟨p, hm, hP⟩
    · obtain rfl : p = (k, y) := Prod.ext hk (Option.some.inj (hg.symm.trans hy))
      exact ⟨_, mem_mput_same .., h.trans hP⟩

/-- An operation's new credits do not change which counters are slot headers of running walks. -/
theorem State.slotWalk_credits {s : State} {i : Nat} {o : Op} (ho : mget s.ops i = some o) (l : List Credit) (k a : Nat) :
    ({ s with ops := mput s.ops i { o with credits := l } }.slotWalk k a).isSome = (s.slotWalk k a).isSome := by
  simp only [State.slotWalk, Option.isSome_map, List.isSome_find?]
  exact any_mput_same ho _ rfl

/-! ## One credit -/

/-- The entry that a credit of `n` bytes adds to its operation's list. -/
def State.creditOf (s : State) (k a g n : Nat) : Credit :=
  { tile := k, addr := a, gen := BitVec.ofNat 16 (lcGen ((s.tile k).fieldRead false s.cycle a 16)), reset := (s.tile k).resetsAt a
    bytes := n, granule := g }

/-- The state with a credit on its operation's list. -/
def State.listed (s : State) (i : Nat) (o : Op) (c : Credit) : State :=
  { s with ops := mput s.ops i { (mget s.ops i).getD o with credits := ((mget s.ops i).getD o).credits ++ [c] } }

section
variable {s : State} {i : Nat} {o : Op} {k a g n : Nat}

theorem State.credit_over (h : lcOver ((s.tile k).fieldRead false s.cycle a 16) = true) : s.credit i o k a g n = s := by
  simp [State.credit, h]

/-- A credit beyond the target only sets the counter's overflow (R47). -/
theorem State.credit_beyond {v : Nat} (hv : (s.tile k).fieldRead false s.cycle a 16 = v) (h : lcOver v = false)
    (hn : lcTarget v < lcCount v + n) :
    (s.credit i o k a g n).tile k = (s.tile k).atomicWrite s.cycle a 16 (lcPut v (lcCount v) (lcGen v) true) := by
  simp only [State.credit, hv, h, hn, if_true, Bool.false_eq_true, if_false]
  rw [State.tile_congr (State.raiseOverflow_records ..).tiles, State.tile_modTile]

/-- A credit below the target counts its bytes and stands on its operation's list (R47). -/
theorem State.credit_counts {v : Nat} (hv : (s.tile k).fieldRead false s.cycle a 16 = v) (h : lcOver v = false)
    (hn : lcCount v + n < lcTarget v) :
    s.credit i o k a g n = (s.listed i o (s.creditOf k a g n)).modTile k fun t =>
      t.atomicWrite s.cycle a 16 (lcPut v (lcCount v + n) (lcGen v) false) := by
  simp only [State.credit, State.listed, State.creditOf, hv, h, hn.not_gt, hn.ne, Bool.false_eq_true, if_false]

/-- A credit that meets the target starts the counter's next generation, fills the slot whose header it is, and clears the in-flight bits of
all that the old generation was credited for (R47, R48, R53). -/
theorem State.credit_meets {v : Nat} (hv : (s.tile k).fieldRead false s.cycle a 16 = v) (h : lcOver v = false)
    (hn : lcCount v + n = lcTarget v) :
    let u := s.listed i o (s.creditOf k a g n)
    let w := lcPut v 0 (lcGen v + 1) false
    (s.credit i o k a g n).tile k =
      ((s.tile k).atomicWrite s.cycle a 16 (if (u.slotWalk k a).isSome then fillToFull w else w)).clearFlight
        (u.creditedGranules k a (BitVec.ofNat 16 (lcGen v))) := by
  intro u w
  simp only [State.credit, hv, h, hn, lt_irrefl, Bool.false_eq_true, if_false, if_true]
  rw [State.tile_congr (State.readyCounter_records ..).tiles]
  split
  · rw [State.tile_congr (State.leaveFilling_tiles ..), State.tile_modTile]
    simp only [u, State.listed, State.creditOf, hv]
    rfl
  · rw [State.tile_modTile]
    simp only [u, State.listed, State.creditOf, hv]
    rfl
end

/-- The granules that an operation on the books has been credited for at a counter in a generation are among all that have been. -/
theorem State.mem_creditedGranules {s : State} {i k a : Nat} {gen : BitVec 16} {o : Op} {c : Credit} (ho : (i, o) ∈ s.ops)
    (hs : o.spilled = false) (hc : c ∈ o.credits) (hk : c.tile = k) (ha : c.addr = a) (hg : c.gen = gen) :
    c.granule ∈ s.creditedGranules k a gen := by
  refine List.mem_flatMap.2 ⟨_, ho, ?_⟩
  simp only [hs, Bool.false_eq_true, if_false]
  exact List.mem_map.2 ⟨c, List.mem_filter.2 ⟨hc, by simp [hk, ha, hg]⟩, rfl⟩

theorem Tile.clearFlight_none {t : Tile} {gs : List Nat} {g : Nat} (h : g ∈ gs) : mget (t.clearFlight gs).field.flight g = none := by
  refine mget_eq_none fun p hp => ?_
  rintro rfl
  have := (List.mem_filter.1 hp).2
  simp [h] at this

end Sys2Proof.Machine

namespace Sys2Proof.Proofs
open Sys2Proof.Machine

/-- Credits of landing counters (R46, R47, R53). -/
theorem creditsCount_holds : Sys2Proof.creditsCount := by
  intro s i o k a g n t v u wrote
  refine ⟨fun h => State.credit_over h, fun h hn => ?_, fun h hn ho hs => ?_, fun h hn => ?_⟩
  · have hu : u.tile k = wrote (lcCount v) (lcGen v) true := State.credit_beyond rfl h hn
    rw [hu]
    exact ⟨rfl, rfl⟩
  · intro w
    have hu := State.credit_meets (i := i) (o := o) (g := g) rfl h hn
    have hlisted : s.listed i o (s.creditOf k a g n) = { s with ops := mput s.ops i { o with credits := o.credits ++ [s.creditOf k a g n] } } := by
      simp [State.listed, ho]
    have hmem : (i, { o with credits := o.credits ++ [s.creditOf k a g n] }) ∈ (s.listed i o (s.creditOf k a g n)).ops := by
      rw [hlisted]
      exact mem_mput_same ..
    refine ⟨?_, fun c hc hk ha hg => ?_, ?_⟩
    · rw [hu, hlisted, State.slotWalk_credits ho]
      rfl
    · rw [hu]
      exact Tile.clearFlight_none (State.mem_creditedGranules hmem hs (List.mem_append_left _ hc) hk ha hg)
    · rw [hu]
      exact Tile.clearFlight_none (State.mem_creditedGranules (c := s.creditOf k a g n) hmem hs (by simp) rfl rfl rfl)
  · have hu : u = _ := State.credit_counts rfl h hn
    rw [hu]
    refine ⟨by rw [State.tile_modTile]; rfl, _, _, mget_mput_same .., rfl, rfl, rfl, rfl, rfl⟩

end Sys2Proof.Proofs
end

section
/-!
The end of an operation (R45, R56, R65, R142, R145): its completion register, and the writes that become visible.
-/
namespace Sys2Proof.Machine

/-- What a change of one tile keeps of it, it keeps of every tile. -/
theorem State.tile_modTile_keeps {α : Type} (g : Tile → α) {f : Tile → Tile} (hf : ∀ t, g (f t) = g t) (s : State) (k j : Nat) :
    g ((s.modTile k f).tile j) = g (s.tile j) := by
  by_cases h : j = k
  · rw [h, State.tile_modTile, hf]
  · rw [State.tile_modTile_ne _ _ h]

/-! ## The completion register -/

theorem Tile.cget_cset {t : Tile} {n : Nat} (h : n < 8) (v : Word) : (t.cset n v).cget n = v := by
  simp [Tile.cget, Tile.cset, h]

theorem State.clearOp_run (s : State) (i : Nat) (o : Op) (k : Nat) : ((s.clearOp i o).tile k).run = (s.tile k).run :=
  foldl_proj (fun s : State => (s.tile k).run)
    (fun s m => s.tile_modTile_keeps Tile.run (f := (·.clearOwned i)) (fun _ => rfl) m k) (o.tile :: o.members) s

theorem State.clearOp_ops (s : State) (i : Nat) (o : Op) : (s.clearOp i o).ops = s.ops :=
  foldl_proj State.ops (fun s m => s.modTile_ops m _) (o.tile :: o.members) s

theorem State.finishRun_cget {s : State} {o : Op} (hr : (s.tile o.tile).run = some o.run) (hc : o.creg < 8) (v : Word) :
    ((s.finishRun o v).tile o.tile).cget o.creg = v := by
  rw [State.finishRun, if_pos hr, State.tile_modTile]
  exact Tile.cget_cset hc v

theorem State.finishSave_c (s : State) (h : Handler) (id : Nat) (o : Op) (v : Word) (k : Nat) :
    ((s.finishSave h id o v).tile k).c = (s.tile k).c := by
  unfold State.finishSave
  split
  · exact s.tile_modTile_keeps Tile.c (f := fun t => t.bankWrite _ _ _) (fun _ => rfl) o.tile k
  · rfl

theorem State.modDies_ops (f : Die → Die) (l : List Nat) (s : State) : (l.foldl (fun s d => s.modDie d f) s).ops = s.ops :=
  foldl_proj State.ops (fun s d => s.modDie_ops d f) l s

theorem State.modDies_tiles (f : Die → Die) (l : List Nat) (s : State) : (l.foldl (fun s d => s.modDie d f) s).tiles = s.tiles :=
  foldl_proj State.tiles (fun s d => s.modDie_tiles d f) l s

/-- The register of an operation's strand that still runs holds the operation's final value (R45). -/
theorem State.finishOp_cget {s : State} {id : Nat} {o : Op} (hr : (s.tile o.tile).run = some o.run) (hc : o.creg < 8) (v : Word) :
    ((s.finishOp id o v).tile o.tile).cget o.creg = v := by
  unfold State.finishOp
  dsimp only
  rw [Tile.cget, foldl_proj (fun s : State => (s.tile o.tile).c) (fun s (h : Nat × Handler) => s.finishSave_c h.2 id o v o.tile),
    State.tile_congr (State.modDies_tiles ..)]
  exact State.finishRun_cget (s := { s with ops := mdel s.ops id }) hr hc v

theorem State.finishRun_ops (s : State) (o : Op) (v : Word) : (s.finishRun o v).ops = s.ops := by
  unfold State.finishRun; split <;> rfl

theorem State.finishSave_ops (s : State) (h : Handler) (id : Nat) (o : Op) (v : Word) : (s.finishSave h id o v).ops = s.ops := by
  unfold State.finishSave; split <;> rfl

theorem State.finishOp_ops (s : State) (id : Nat) (o : Op) (v : Word) : (s.finishOp id o v).ops = mdel s.ops id := by
  unfold State.finishOp
  dsimp only
  refine (foldl_proj State.ops (fun s (h : Nat × Handler) => s.finishSave_ops h.2 id o v) _ _).trans ?_
  refine (State.modDies_ops ..).trans ?_
  exact State.finishRun_ops _ o v

/-- The state in which an operation that ends has let go of its granules and messages. -/
def State.letGo (s : State) (i : Nat) (o : Op) : State :=
  { s.clearOp i o with messages := (s.clearOp i o).messages.filter fun m => m.2.op != i }

theorem State.endOp_eq (s : State) (i : Nat) (o : Op) : s.endOp i o =
    (match o.frame with
      | some (h, _, _) => ((s.letGo i o).finishOp i o o.finalValue).dropFrameRef h
      | none => (s.letGo i o).finishOp i o o.finalValue) := (rfl)

theorem State.letGo_run (s : State) (i : Nat) (o : Op) (k : Nat) : ((s.letGo i o).tile k).run = (s.tile k).run := by
  rw [State.tile_congr (show (s.letGo i o).tiles = (s.clearOp i o).tiles from rfl), s.clearOp_run]

/-- An operation that ends is gone, and its register holds its final value where its run still stands (R45). -/
theorem State.endOp_spec (s : State) (i : Nat) (o : Op) : mget (s.endOp i o).ops i = none ∧
    ((s.tile o.tile).run = some o.run → o.creg < 8 → ((s.endOp i o).tile o.tile).cget o.creg = o.finalValue) := by
  have hops : mget ((s.letGo i o).finishOp i o o.finalValue).ops i = none := by rw [State.finishOp_ops, mget_mdel_same]
  have hreg (hr : (s.tile o.tile).run = some o.run) (hc : o.creg < 8) :=
    State.finishOp_cget (id := i) ((s.letGo_run i o o.tile).trans hr) hc o.finalValue
  rw [State.endOp_eq]
  split
  · rename_i h _ _ _
    have dropped := State.dropFrameRef_only ((s.letGo i o).finishOp i o o.finalValue) h
    exact ⟨by rw [dropped.ops, hops], fun hr hc => by rw [State.tile_congr dropped.tiles, hreg hr hc]⟩
  · exact ⟨hops, hreg⟩

theorem exec_copyComplete {s : State} {i : Nat} {o : Op} (ho : mget s.ops i = some o) (h : s.opOver i o = true) :
    exec (.copyComplete i) s = .next (s.endOp i o) := by
  simp [exec, execCopyComplete, ho, h]

/-! ## Cancellation (R56) -/

/-- Operation `i` has the tile, the run and the register it had, and every tile its run. -/
def SameRuns (i : Nat) (s t : State) : Prop :=
  (∀ k, (t.tile k).run = (s.tile k).run) ∧
  ∀ o, mget s.ops i = some o → ∃ q, mget t.ops i = some q ∧ q.tile = o.tile ∧ q.run = o.run ∧ q.creg = o.creg

theorem SameRuns.refl (i : Nat) (s : State) : SameRuns i s s := ⟨fun _ => rfl, fun o ho => ⟨o, ho, rfl, rfl, rfl⟩⟩

theorem SameRuns.trans {i : Nat} {s t u : State} (h : SameRuns i s t) (g : SameRuns i t u) : SameRuns i s u := by
  refine ⟨fun k => (g.1 k).trans (h.1 k), fun o ho => ?_⟩
  obtain ⟨q, hq, h1, h2, h3⟩ := h.2 o ho
  obtain ⟨r, hr, g1, g2, g3⟩ := g.2 q hq
  exact ⟨r, hr, g1.trans h1, g2.trans h2, g3.trans h3⟩

theorem State.failHeader_runs (s : State) (i : Nat) : SameRuns i s (s.failHeader i) := by
  unfold State.failHeader
  split
  · exact .refl i s
  · rename_i o ho
    exact ⟨fun _ => rfl, fun o' ho' => ⟨_, mget_mput_same .., by simp_all⟩⟩

theorem State.repair_runs (s : State) (i k f n : Nat) : SameRuns i s (s.repair k f n) := by
  obtain ⟨⟨hne, heq⟩, w, d, hk⟩ := s.repair_cases k f n
  have hops : (s.repair k f n).ops = s.ops := (congrArg State.ops heq).trans rfl
  refine ⟨fun j => ?_, fun o ho => ⟨o, hops ▸ ho, rfl, rfl, rfl⟩⟩
  by_cases hj : j = k
  · rw [hj, hk]
  · rw [hne j hj]

theorem State.onHeader_runs (s : State) (i k a : Nat) {f : Tile → Tile} (hf : ∀ t, (f t).run = t.run) :
    SameRuns i s (s.onHeader i k a f) := by
  unfold State.onHeader
  split
  · exact s.failHeader_runs i
  · refine (s.repair_runs i k a 16).trans ⟨fun j => State.tile_modTile_keeps Tile.run hf _ k j, fun o ho => ⟨o, ?_, rfl, rfl, rfl⟩⟩
    rwa [State.modTile_ops]

theorem State.debit_runs (s : State) (i : Nat) (o : Op) : SameRuns i s (s.debit i o) :=
  foldl_rel (.refl i) .trans (fun s c => s.onHeader_runs i c.tile c.addr fun _ => rfl) _ s

theorem State.emptySlots_runs (s : State) (i : Nat) (o : Op) : SameRuns i s (s.emptySlots i o) := by
  unfold State.emptySlots
  split
  · exact .refl i s
  · refine foldl_rel (.refl i) .trans (fun s y => foldl_rel (.refl i) .trans (fun s m => s.onHeader_runs i m _ fun t => ?_) _ s) _ s
    dsimp only
    split <;> rfl

theorem exec_cancellationDone {s : State} {i : Nat} {o : Op} (ho : mget s.ops i = some o) (h : s.cancelDue i o = true) :
    exec (.cancellationDone i) s = .next (((s.debit i o).emptySlots i o).endOp i
      ((mget ((s.debit i o).emptySlots i o).ops i).getD o)) := by
  simp [exec, execCancellationDone, ho, h]

/-! ## Visibility (R142) -/

theorem exec_visibilityWiden {s : State} {i : Nat} {w : FarWrite} {rest : List FarWrite} (hw : s.writes = w :: rest) (hid : w.id = i) :
    exec (.visibilityWiden i) s = .next (s.widen w) := by
  simp [exec, execVisibilityWiden, hw, hid, State.mayWiden]

/-- The first write in coherence order widens by one level. -/
theorem State.widen_first {s : State} {w : FarWrite} {rest : List FarWrite} (hw : s.writes = w :: rest)
    (hrest : ∀ x ∈ rest, x.id ≠ w.id) (hl : w.level < 4) : s.widen w = { s with writes := { w with level := w.level + 1 } :: rest } := by
  have hmap : (rest.map fun x : FarWrite => if x.id = w.id then { x with level := x.level + 1 } else x) = rest :=
    (List.map_congr_left fun x hx => if_neg (hrest x hx)).trans (List.map_id rest)
  simp only [State.widen, hl.ne, if_false, hw, List.map_cons, if_true, hmap]

/-- At the last level it joins the contents. -/
theorem State.widen_last {s : State} {w : FarWrite} {rest : List FarWrite} (hw : s.writes = w :: rest)
    (hrest : ∀ x ∈ rest, x.id ≠ w.id) (hl : w.level = 4) :
    s.widen w = { (s.basePut w.space w.key w.addr w.bytes) with writes := rest } := by
  have hfilter : rest.filter (fun x => x.id != w.id) = rest := List.filter_eq_self.2 fun x hx => by simpa using hrest x hx
  simp [State.widen, hl, State.foldWrite, hw, hfilter]

end Sys2Proof.Machine

namespace Sys2Proof.Proofs
open Sys2Proof.Machine

/-- The ends of operations and of their writes (R45, R56, R65, R142, R145). -/
theorem copiesEnd_holds : Sys2Proof.copiesEnd := by
  intro s i
  refine ⟨fun o ho => ⟨fun h => ?_, fun h => ?_⟩, fun w rest hw hid hrest => ⟨fun hl => ?_, fun hl => ?_⟩⟩
  · obtain ⟨hnone, hreg⟩ := s.endOp_spec i o
    exact ⟨_, exec_copyComplete ho h, hnone, hreg⟩
  · intro q
    obtain ⟨hruns, hop⟩ := (s.debit_runs i o).trans (State.emptySlots_runs _ i o)
    obtain ⟨q', hq', htile, hrun, hcreg⟩ := hop o ho
    have hq : q = q' := by simp only [q, hq', Option.getD_some]
    obtain ⟨hnone, hreg⟩ := ((s.debit i o).emptySlots i o).endOp_spec i q
    refine ⟨_, exec_cancellationDone ho h, hnone, fun hr hc => ?_, fun hcr hwalk => ?_⟩
    · rw [← htile, ← hcreg, ← hq]
      exact hreg (by rw [hruns, hq, htile, hrun, hr]) (by rw [hq, hcreg]; exact hc)
    · simp only [q, State.debit, hcr, State.emptySlots, hwalk, List.foldl_nil, ho, Option.getD_some]
  · subst hid
    exact ⟨_, exec_visibilityWiden hw rfl, by rw [State.widen_first hw hrest hl], by rw [State.widen_first hw hrest hl]⟩
  · subst hid
    exact ⟨_, exec_visibilityWiden hw rfl, by rw [State.widen_last hw hrest hl], by rw [State.widen_last hw hrest hl]⟩

/-- Settles O41: the moves of parts, the landings, the credits and the ends of copies, each from what its move leaves of the state. -/
theorem copiesMove : Obligations.CopiesMove := ⟨partsMove_holds, granulesLand_holds, creditsCount_holds, copiesEnd_holds⟩

end Sys2Proof.Proofs
end

section
/-!
Links (R233, R264–R266): what a packet that is sent, taken or lost leaves of its port, and what leaves the module with it.
-/
namespace Sys2Proof.Machine

/-! ## Ports -/

@[simp] theorem State.link_modLink {s : State} {p : Nat} (hp : p < 16) (f : LinkPort → LinkPort) : (s.modLink p f).link p = f (s.link p) := by
  simp [State.link, State.modLink, hp]

theorem State.link_modLink_ne (s : State) {p n : Nat} (h : n ≠ p) (f : LinkPort → LinkPort) : (s.modLink p f).link n = s.link n := by
  simp [State.link, State.modLink, Vector.getElem?_setIfInBounds_ne (Ne.symm h)]

@[simp] theorem State.link_send (s : State) (o : Output) (p : Nat) : (s.send o).link p = s.link p := rfl

@[simp] theorem State.link_count (s : State) (lo n p : Nat) : (s.count lo n).link p = s.link p := rfl

@[simp] theorem State.link_countLink (s : State) (p : Nat) : s.countLink.link p = s.link p := s.link_count 32 16 p

@[simp] theorem State.link_emit (s : State) (port : Nat) (k : Packet) (p : Nat) : (s.emit port k).link p = s.link p := by
  unfold State.emit
  cases k.item <;> rfl

/-! ## Counts of errors (R269) -/

theorem wbits_setBits_32_16 (x : Word) {y : Nat} (hy : y < 2 ^ 16) : wbits (setBits x 32 16 y) 32 16 = y := by
  have hx := x.isLt
  simp only [wbits, setBits, bits, BitVec.toNat_ofNat, Nat.shiftRight_eq_div_pow, Nat.shiftLeft_eq]
  omega

/-- The count of link retries grows by one, up to what its field holds. -/
def LinkCounted (s t : State) : Prop := wbits t.errstat 32 16 = min (wbits s.errstat 32 16 + 1) 65535

theorem State.countLink_counted (s : State) : LinkCounted s s.countLink :=
  wbits_setBits_32_16 s.errstat (by omega)

theorem LinkCounted.congr {s t u : State} (h : LinkCounted s t) (he : u.errstat = t.errstat) : LinkCounted s u := by
  rw [LinkCounted, he]
  exact h

@[simp] theorem State.emit_errstat (s : State) (port : Nat) (k : Packet) : (s.emit port k).errstat = s.errstat := by
  unfold State.emit
  cases k.item <;> rfl

/-! ## What leaves with a packet -/

/-- What an item sent on a port tells the other side, beside its packet. -/
def LinkItem.outputs (port : Nat) : LinkItem → List Output
  | .line _ _ _ => []
  | .access _ _ => []
  | .forward r => [.remoteForward port r]
  | .answer source seq kind bytes => [.remoteReply source seq kind bytes]

theorem State.emit_sent (s : State) (port : Nat) (k : Packet) :
    (s.emit port k).sent = k.item.outputs port ++ .linkPacket port (linkNonce s.cfg.moduleId port k.seq) k.key k.item :: s.sent := by
  unfold State.emit LinkItem.outputs
  cases k.item <;> rfl

/-- `t` has sent what `s` had, and more, the outputs of a list among it. -/
def Sends (s t : State) (os : List Output) : Prop := ∃ l, t.sent = l ++ s.sent ∧ ∀ o ∈ os, o ∈ l

theorem Sends.trans {s t u : State} {os ps : List Output} (h : Sends s t os) (g : Sends t u ps) : Sends s u (os ++ ps) := by
  obtain ⟨l, hl, hos⟩ := h
  obtain ⟨m, hm, hps⟩ := g
  refine ⟨m ++ l, by rw [hm, hl, List.append_assoc], fun o ho => ?_⟩
  obtain ho | ho := List.mem_append.1 ho
  · exact List.mem_append_right _ (hos o ho)
  · exact List.mem_append_left _ (hps o ho)

theorem Sends.mono {s t : State} {os ps : List Output} (h : Sends s t os) (hp : ps ⊆ os) : Sends s t ps :=
  h.imp fun _ hl => ⟨hl.1, fun o ho => hl.2 o (hp ho)⟩

theorem Sends.of_eq {s t : State} (h : t.sent = s.sent) : Sends s t [] := ⟨[], h, by simp⟩

theorem State.emit_sends (s : State) (port : Nat) (k : Packet) :
    Sends s (s.emit port k) (k.item.outputs port ++ [.linkPacket port (linkNonce s.cfg.moduleId port k.seq) k.key k.item]) :=
  ⟨_, by rw [s.emit_sent, List.append_cons], fun _ ho => ho⟩

theorem State.modLink_emit_sends (s : State) (port : Nat) (f : LinkPort → LinkPort) (k : Packet) :
    Sends s ((s.modLink port f).emit port k)
      (k.item.outputs port ++ [.linkPacket port (linkNonce s.cfg.moduleId port k.seq) k.key k.item]) :=
  (s.modLink port f).emit_sends port k

theorem State.countLink_sends (s : State) : Sends s s.countLink [] := .of_eq (by simp [State.countLink, State.count])

@[simp] theorem State.countLink_cfg (s : State) : s.countLink.cfg = s.cfg := by simp [State.countLink, State.count]

theorem State.rekey_sends (s : State) (port : Nat) (out : Bool) (seq : Nat) : Sends s (s.rekey port out seq) [] := by
  unfold State.rekey
  split
  · exact ⟨[_], rfl, by simp⟩
  · exact .of_eq rfl

theorem State.rekeyFirst_sends (s : State) (port : Nat) (out : Bool) : Sends s (s.rekeyFirst port out) [] := by
  unfold State.rekeyFirst
  split
  · exact s.rekey_sends ..
  · exact .of_eq rfl

/-- Where no key is due a packet takes the next number of its direction, and stands in the replay buffer (R233, R264). -/
theorem State.sendPacket_eq {s : State} {port : Nat} (h : s.rekeyDue port true = false) (item : LinkItem) :
    s.sendPacket port item =
      (s.modLink port fun l => { l with tx := (s.link port).tx.advance
                                        replay := l.replay ++ [{ seq := (s.link port).tx.seq, key := (s.link port).tx.key, item := item }] }).emit
        port { seq := (s.link port).tx.seq, key := (s.link port).tx.key, item := item } := by
  simp [State.sendPacket, State.rekeyFirst, h]

theorem State.sendPacket_sends (s : State) (port : Nat) (item : LinkItem) : Sends s (s.sendPacket port item) (item.outputs port) := by
  have sent (k : Packet) (f : LinkPort → LinkPort) :=
    (s.rekeyFirst_sends port true).trans (State.modLink_emit_sends (s.rekeyFirst port true) port f k)
  exact (sent { seq := _, key := _, item := item } _).mono (by simp)

theorem State.sendOn_sends {s : State} {port : Nat} (h : (s.link port).fits = true) (item : LinkItem) :
    Sends s (s.sendOn port item) (item.outputs port) := by
  rw [State.sendOn, if_pos h]
  exact s.sendPacket_sends port item

/-- An item that does not fit waits behind the others. -/
theorem State.sendOn_waits {s : State} {port : Nat} (hp : port < 16) (h : (s.link port).fits = false) (item : LinkItem) :
    ((s.sendOn port item).link port).queue = (s.link port).queue ++ [item] := by
  simp [State.sendOn, h, hp]

theorem State.route_lt {s : State} {m q : Nat} (h : s.route m = some q) : q < 16 ∧ (s.link q).up = true := by
  have hmem := List.mem_of_find?_eq_some h
  have hup := List.find?_some h
  simp only [Bool.and_eq_true] at hup
  exact ⟨List.mem_range.1 hmem, hup.2⟩

/-! ## Flits (R264) -/

theorem LinkDir.advance_seq {d : LinkDir} (h : d.rekey = none) : d.advance = { d with seq := d.seq + 1 } := by
  simp [LinkDir.advance, h]

theorem State.rekeyFirst_of_agreed {s : State} {port : Nat} {out : Bool} {k : Nat × Nat} (h : ((s.link port).dir out).rekey = some k) :
    s.rekeyFirst port out = s := by
  simp [State.rekeyFirst, State.rekeyDue, h]

theorem State.rekeyFirst_of_not_due {s : State} {port : Nat} {out : Bool} (h : s.rekeyDue port out = false) :
    s.rekeyFirst port out = s := by
  simp [State.rekeyFirst, h]

/-- A flit that fails its check is discarded, and the next of its number is awaited (R264). -/
theorem State.flitIn_bad {s : State} {p : Nat} (hp : p < 16) :
    (s.flitIn p false).link p = { s.link p with rx := { (s.link p).rx with since := some ((s.link p).rx.since.getD s.time) } } ∧
      LinkCounted s (s.flitIn p false) := by
  exact ⟨by simp [State.flitIn, hp], s.countLink_counted.congr (by simp [State.flitIn])⟩

/-- A good flit uses up its number. -/
theorem State.flitIn_good {s : State} {p : Nat} (hp : p < 16) (h : s.rekeyFirst p false = s) :
    (s.flitIn p true).link p = { s.link p with rx := { (s.link p).rx.advance with since := none } } := by
  simp [State.flitIn, h, hp]

/-- A packet that fails at the other side is sent again under its own number and key (R264). -/
theorem State.flitOut_bad {s : State} {p : Nat} {pk : Packet} {rest : List Packet} (hp : p < 16) (h : (s.link p).replay = pk :: rest) :
    (s.flitOut p false).link p = { s.link p with tx := { (s.link p).tx with since := some ((s.link p).tx.since.getD s.time) } } ∧
      LinkCounted s (s.flitOut p false) ∧
      Sends s (s.flitOut p false) [.linkPacket p (linkNonce s.cfg.moduleId p pk.seq) pk.key pk.item] := by
  have hout : s.flitOut p false =
      (s.countLink.modLink p fun l => { l with tx := { l.tx with since := some (l.tx.since.getD s.time) } }).emit p pk := by
    simp [State.flitOut, h]
  rw [hout]
  refine ⟨by simp [hp], ?_, ?_⟩
  · exact s.countLink_counted.congr (by simp)
  · exact (s.countLink_sends.trans (State.modLink_emit_sends ..)).mono (by simp)

/-- A packet that the other side has taken leaves the replay buffer. -/
theorem State.flitOut_good {s : State} {p : Nat} {pk : Packet} {rest : List Packet} (h : (s.link p).replay = pk :: rest) :
    s.flitOut p true = (s.modLink p fun l => { l with replay := rest, tx := { l.tx with since := none } }).sendQueued p := by
  simp [State.flitOut, h]

/-- With nothing waiting, a packet that is taken makes room and sends nothing (R264). -/
theorem State.flitOut_good_idle {s : State} {p : Nat} {pk : Packet} {rest : List Packet} (hp : p < 16)
    (h : (s.link p).replay = pk :: rest) (hq : (s.link p).queue = []) :
    s.flitOut p true = s.modLink p fun l => { l with replay := rest, tx := { l.tx with since := none } } := by
  rw [State.flitOut_good h, State.sendQueued]
  simp only [State.link_modLink hp, hq]

/-- The state in which a packet that was taken has left room, and the first that waits is about to be sent. -/
def State.madeRoom (s : State) (p : Nat) (rest : List Packet) (more : List LinkItem) : State :=
  (s.modLink p fun l => { l with replay := rest, tx := { l.tx with since := none } }).modLink p fun l => { l with queue := more }

theorem State.madeRoom_link {s : State} {p : Nat} (hp : p < 16) (rest : List Packet) (more : List LinkItem) :
    (s.madeRoom p rest more).link p = { s.link p with queue := more, replay := rest, tx := { (s.link p).tx with since := none } } := by
  rw [State.madeRoom, State.link_modLink hp, State.link_modLink hp]

theorem State.madeRoom_rekeyDue {s : State} {p : Nat} (hp : p < 16) (rest : List Packet) (more : List LinkItem) :
    (s.madeRoom p rest more).rekeyDue p true = s.rekeyDue p true := by
  simp only [State.rekeyDue, State.madeRoom_link hp]
  rfl

/-- What waits first leaves as the next packet when a packet that is taken makes room for it (R264). -/
theorem State.flitOut_good_queued {s : State} {p : Nat} {pk : Packet} {rest : List Packet} {item : LinkItem} {more : List LinkItem}
    (hp : p < 16) (h : (s.link p).replay = pk :: rest) (hq : (s.link p).queue = item :: more) (hlen : rest.length < 64)
    (hseq : (s.link p).tx.seq < linkLimit) : s.flitOut p true = (s.madeRoom p rest more).sendPacket p item := by
  rw [State.flitOut_good h, State.sendQueued]
  simp [State.link_modLink hp, hq, LinkPort.room, replayFlits, hlen, hseq, State.madeRoom]

/-- The packet sent into the room made is the next of its direction. -/
theorem State.madeRoom_sendPacket {s : State} {p : Nat} (hp : p < 16) (rest : List Packet) (item : LinkItem) (more : List LinkItem)
    (hkey : (s.link p).tx.rekey = none) (hdue : s.rekeyDue p true = false) :
    let next : Packet := { seq := (s.link p).tx.seq, key := (s.link p).tx.key, item := item }
    let t := (s.madeRoom p rest more).sendPacket p item
    t.link p = { s.link p with
        queue := more, replay := rest ++ [next], tx := { (s.link p).tx with since := none, seq := (s.link p).tx.seq + 1 } } ∧
      Sends s t [.linkPacket p (linkNonce s.cfg.moduleId p next.seq) next.key item] := by
  intro next t
  have ht : t = _ := State.sendPacket_eq ((State.madeRoom_rekeyDue hp rest more).trans hdue) item
  rw [State.madeRoom_link hp] at ht
  constructor
  · rw [ht, State.link_emit, State.link_modLink hp, State.madeRoom_link hp]
    simp [LinkDir.advance, hkey, next]
  · rw [ht]
    exact (State.modLink_emit_sends (s.madeRoom p rest more) p _ next).mono (by simp [next, State.madeRoom])

/-! ## A port that goes down (R264–R266) -/

/-- The same ports are up, and the same routes lead to other modules. -/
def SamePorts (s t : State) : Prop := (∀ p, (t.link p).up = (s.link p).up) ∧ t.cfg = s.cfg

theorem SamePorts.refl (s : State) : SamePorts s s := ⟨fun _ => rfl, rfl⟩

theorem SamePorts.trans {s t u : State} (h : SamePorts s t) (g : SamePorts t u) : SamePorts s u :=
  ⟨fun p => (g.1 p).trans (h.1 p), g.2.trans h.2⟩

theorem SamePorts.of_eq {s t : State} (hl : t.links = s.links) (hc : t.cfg = s.cfg) : SamePorts s t :=
  ⟨fun p => by rw [State.link, State.link, hl], hc⟩

theorem SamePorts.route {s t : State} (h : SamePorts s t) (m : Nat) : t.route m = s.route m := by
  simp only [State.route, h.1, h.2]

theorem State.modLink_ports (s : State) (p : Nat) {f : LinkPort → LinkPort} (hf : ∀ l, (f l).up = l.up) : SamePorts s (s.modLink p f) := by
  refine ⟨fun n => ?_, rfl⟩
  by_cases hn : n = p
  · subst hn
    by_cases h16 : n < 16
    · rw [State.link_modLink h16, hf]
    · simp [State.link, State.modLink, h16]
  · rw [State.link_modLink_ne _ hn]

theorem State.emit_ports (s : State) (port : Nat) (k : Packet) : SamePorts s (s.emit port k) := by
  refine ⟨fun n => by rw [State.link_emit], ?_⟩
  unfold State.emit
  cases k.item <;> rfl

theorem LinkPort.setDir_up (x : LinkPort) (out : Bool) (d : LinkDir) : (x.setDir out d).up = x.up := by
  unfold LinkPort.setDir
  split <;> rfl

theorem State.send_ports (s : State) (o : Output) : SamePorts s (s.send o) := .of_eq rfl rfl

theorem State.exchange_ports (s : State) (n : Nat) : SamePorts s (s.exchange n) := .of_eq rfl rfl

theorem State.rekey_ports (s : State) (port : Nat) (out : Bool) (seq : Nat) : SamePorts s (s.rekey port out seq) := by
  unfold State.rekey
  split
  · exact ((s.exchange_ports 1).trans (State.modLink_ports _ port fun l => l.setDir_up ..)).trans (State.send_ports ..)
  · exact .refl s

theorem State.rekeyFirst_ports (s : State) (port : Nat) (out : Bool) : SamePorts s (s.rekeyFirst port out) := by
  unfold State.rekeyFirst
  split
  · exact s.rekey_ports ..
  · exact .refl s

theorem State.sendPacket_ports (s : State) (port : Nat) (item : LinkItem) : SamePorts s (s.sendPacket port item) := by
  unfold State.sendPacket
  refine ((s.rekeyFirst_ports port true).trans (State.modLink_ports _ port fun l => ?_)).trans (State.emit_ports ..)
  rfl

theorem State.sendOn_ports (s : State) (port : Nat) (item : LinkItem) : SamePorts s (s.sendOn port item) := by
  unfold State.sendOn
  split
  · exact s.sendPacket_ports ..
  · exact s.modLink_ports port fun _ => rfl

theorem State.answerPart_ports (s : State) (source seq kind : Nat) (bytes : List Byte) :
    SamePorts s (s.answerPart source seq kind bytes) := by
  unfold State.answerPart
  split
  · exact s.sendOn_ports ..
  · exact .of_eq rfl rfl

theorem State.count_ports (s : State) (lo n : Nat) : SamePorts s (s.count lo n) := .of_eq rfl rfl

theorem State.countUncorrectable_ports (s : State) : SamePorts s s.countUncorrectable := s.count_ports 56 8

theorem State.passOn_ports (s : State) (r : RemotePart) : SamePorts s (s.passOn r) := by
  unfold State.passOn
  split
  · exact s.sendOn_ports ..
  · exact s.countUncorrectable_ports.trans (State.answerPart_ports ..)

theorem State.resend_ports (s : State) (item : LinkItem) : SamePorts s (s.resend item) := by
  cases item with
  | access m pa =>
    simp only [State.resend]
    split
    · exact s.sendOn_ports ..
    · exact .refl s
  | line i j l =>
    simp only [State.resend]
    split
    · exact s.sendOn_ports ..
    · exact .refl s
  | forward r => exact s.passOn_ports r
  | answer source seq kind bytes => exact s.answerPart_ports ..

/-- Nothing but operations and counts of errors differs. -/
def OnlyOps (s t : State) : Prop := t = { s with ops := t.ops, errstat := t.errstat }

theorem OnlyOps.refl (s : State) : OnlyOps s s := rfl

theorem OnlyOps.trans {s t u : State} (h : OnlyOps s t) (g : OnlyOps t u) : OnlyOps s u :=
  Eq.trans g (congrArg (fun s : State => { s with ops := u.ops, errstat := u.errstat }) h)

theorem OnlyOps.links {s t : State} (h : OnlyOps s t) : t.links = s.links := (congrArg State.links h).trans rfl

theorem OnlyOps.sent {s t : State} (h : OnlyOps s t) : t.sent = s.sent := (congrArg State.sent h).trans rfl

theorem OnlyOps.cfg {s t : State} (h : OnlyOps s t) : t.cfg = s.cfg := (congrArg State.cfg h).trans rfl

theorem OnlyOps.link {s t : State} (h : OnlyOps s t) (p : Nat) : t.link p = s.link p := by rw [State.link, h.links, State.link]

theorem State.modPart_onlyOps (s : State) (i j : Nat) (f : Part → Part) : OnlyOps s (s.modPart i j f) := by
  unfold State.modPart; split <;> rfl

theorem State.count_onlyOps (s : State) (lo n : Nat) : OnlyOps s (s.count lo n) := rfl

theorem State.failPart_onlyOps (s : State) (i j kind va : Nat) : OnlyOps s (s.failPart i j kind va) := by
  unfold State.failPart
  split
  · exact (s.count_onlyOps 56 8).trans (State.modPart_onlyOps ..)
  · exact s.modPart_onlyOps ..

theorem State.failPage_onlyOps (s : State) (i j : Nat) (o : Op) (kind va : Nat) : OnlyOps s (s.failPage i j o kind va) := by
  unfold State.failPage
  split
  · split
    · exact (s.count_onlyOps 56 8).trans (State.modPart_onlyOps ..)
    · exact s.modPart_onlyOps ..
  · exact s.failPart_onlyOps ..

theorem State.reroutePage_onlyOps (s : State) (i j : Nat) (o : Op) (p : Part) (t : Nat × Trans) : OnlyOps s (s.reroutePage i j o p t) := by
  unfold State.reroutePage
  split
  · exact s.modPart_onlyOps ..
  · exact s.failPage_onlyOps ..

theorem State.reroute_onlyOps (s : State) (port : Nat) : OnlyOps s (s.reroute port) := by
  refine foldl_rel .refl .trans (fun s x => foldl_rel .refl .trans (fun s y => ?_) _ s) _ s
  split
  · exact foldl_rel .refl .trans (fun s t => s.reroutePage_onlyOps ..) _ s
  · rfl

/-- The state in which a port has gone down and its parts go elsewhere, before what it had sent goes out again. -/
def State.downed (s : State) (p : Nat) : State :=
  (s.modLink p fun _ => { LinkPort.reset with
    spent := (s.link p).spent, tx := { (s.link p).tx with since := none }, rx := { (s.link p).rx with since := none } }).reroute p

theorem exec_linkPortDown (s : State) (p : Nat) : exec (.linkPortDown p) s = .next
    (if s.portDead p then (((s.link p).replay.map (·.item)) ++ (s.link p).queue).foldl State.resend (s.downed p) else s) := by
  simp only [exec, execLinkPortDown]
  split <;> rfl

theorem State.downed_up {s : State} {p : Nat} (hp : p < 16) : ((s.downed p).link p).up = false := by
  rw [State.downed, (State.reroute_onlyOps _ p).link, State.link_modLink hp]
  rfl

theorem State.downed_link {s : State} {p q : Nat} (h : q ≠ p) : (s.downed p).link q = s.link q := by
  rw [State.downed, (State.reroute_onlyOps _ p).link, State.link_modLink_ne _ h]

theorem State.downed_sent (s : State) (p : Nat) : (s.downed p).sent = s.sent := (State.reroute_onlyOps _ p).sent

/-- A port that has gone down stays down while what it had sent goes out elsewhere. -/
theorem State.resend_down {s : State} {p : Nat} (hp : p < 16) (l : List LinkItem) : ((l.foldl State.resend (s.downed p)).link p).up = false := by
  rw [(foldl_rel .refl .trans State.resend_ports l (s.downed p)).1, State.downed_up hp]

/-- A part that a port had forwarded goes out on the next port towards its module (R266). -/
theorem State.passOn_after_down {s : State} {p q : Nat} {r : RemotePart} (hp : p < 16)
    (hr : ((s.downed p).passOn r).route r.target = some q) (hf : (s.link q).fits = true) :
    Sends s ((s.downed p).passOn r) [.remoteForward q r] := by
  rw [((s.downed p).passOn_ports r).route] at hr
  have hne : q ≠ p := by
    rintro rfl
    simpa [State.downed_up hp] using (State.route_lt hr).2
  have hfits : ((s.downed p).link q).fits = true := by rwa [State.downed_link hne]
  simp only [State.passOn, hr]
  exact (Sends.of_eq (s.downed_sent p)).trans (State.sendOn_sends hfits (.forward r))

/-! ## Keys (R233) -/

theorem LinkPort.dir_setDir (x : LinkPort) (out : Bool) (d : LinkDir) : (x.setDir out d).dir out = d := by
  cases out <;> rfl

theorem State.rekey_agrees {s : State} {p a : Nat} {out : Bool} (hp : p < 16) (hs : ((s.link p).dir out).seq < a) (ha : a < linkLimit)
    (hc : s.canSign = true) :
    (((s.rekey p out a).link p).dir out).rekey = some (a, s.reeve.nextKey) ∧ (s.rekey p out a).reeve.nextKey = s.reeve.nextKey + 1 ∧
      (s.rekey p out a).reeve.q = s.reeve.q + 1 ∧ (s.rekey p out a).sent = .kexLink p out a :: s.sent := by
  simp only [State.rekey, hs, ha, hc, and_self, if_true]
  exact ⟨by rw [State.link_send, State.link_modLink hp, LinkPort.dir_setDir], rfl, rfl, rfl⟩

theorem State.rekey_unsigned {s : State} (hc : s.canSign = false) (p a : Nat) (out : Bool) : s.rekey p out a = s := by
  simp [State.rekey, hc]

end Sys2Proof.Machine

namespace Sys2Proof.Proofs
open Sys2Proof.Machine

theorem exec_flitIn (s : State) (p : Nat) (good : Bool) : exec (.linkFlitReceive ⟨p, false⟩ good) s = .next (s.flitIn p good) := rfl

theorem exec_flitOut (s : State) (p : Nat) (good : Bool) : exec (.linkFlitReceive ⟨p, true⟩ good) s = .next (s.flitOut p good) := rfl

/-- Links: flits, the replay buffer, keys, and ports that go down (R233, R264, R266). -/
theorem linksMove_holds : Sys2Proof.linksMove := by
  intro s p a out hp x counted
  refine ⟨?_, fun hk hd => ?_, fun m key hk => ?_, fun pk rest hr => ⟨?_, fun hq => ?_, fun item more hq hlen hseq hk hd => ?_⟩,
    fun hr good => ?_, fun hd => ?_, fun hd => ?_, fun hs ha hc => ?_, fun hc => ?_⟩
  · obtain ⟨hl, hc⟩ := s.flitIn_bad hp
    exact ⟨_, exec_flitIn ..,  by rw [hl], by rw [hl], hc⟩
  · have hl := State.flitIn_good hp (State.rekeyFirst_of_not_due hd)
    rw [LinkDir.advance_seq hk] at hl
    exact ⟨_, exec_flitIn .., by rw [hl], by rw [hl], by rw [hl]⟩
  · have hl := State.flitIn_good hp (State.rekeyFirst_of_agreed (out := false) hk)
    refine ⟨_, exec_flitIn .., by rw [hl], fun hm => ?_, fun hm => ?_⟩
    · have hadv : x.rx.advance = { x.rx with key := key, rekey := none, seq := 0 } := by simp [LinkDir.advance, hk, hm]
      rw [hl, hadv]
      exact ⟨rfl, rfl, rfl⟩
    · have hadv : x.rx.advance = { x.rx with seq := x.rx.seq + 1 } := by simp [LinkDir.advance, hk, hm]
      rw [hl, hadv]
      exact ⟨rfl, rfl⟩
  · obtain ⟨hl, hc, l, hsent, hmem⟩ := State.flitOut_bad hp hr
    exact ⟨_, l, exec_flitOut .., by rw [hl], by rw [hl], by rw [hl], hc, hsent, hmem _ (by simp)⟩
  · have hl := State.flitOut_good_idle hp hr hq
    refine ⟨_, (exec_flitOut ..).trans (congrArg _ hl), ?_⟩
    rw [State.link_modLink hp]
    exact ⟨rfl, rfl, rfl, rfl⟩
  · obtain ⟨hl, l, hsent, hmem⟩ := State.madeRoom_sendPacket hp rest item more hk hd
    exact ⟨_, l, (exec_flitOut ..).trans (congrArg _ (State.flitOut_good_queued hp hr hq hlen hseq)), by rw [hl], by rw [hl], by rw [hl],
      hsent, hmem _ (List.mem_singleton.2 rfl)⟩
  · rw [exec_flitOut, State.flitOut, show (s.link p).replay = [] from hr]
  · refine ⟨_, (exec_linkPortDown s p).trans (by rw [if_pos hd]), State.resend_down hp _, fun pk r q hr hq hitem hroute hf => ?_⟩
    rw [show (s.link p).replay = [pk] from hr, show (s.link p).queue = [] from hq] at hroute ⊢
    simp only [List.map_cons, List.map_nil, List.append_nil, List.foldl_cons, List.foldl_nil, hitem, State.resend] at hroute ⊢
    obtain ⟨l, hsent, hmem⟩ := State.passOn_after_down hp hroute hf
    exact ⟨l, hsent, hmem _ (by simp)⟩
  · exact (exec_linkPortDown s p).trans (by rw [if_neg (by simp [hd])])
  · exact ⟨_, rfl, State.rekey_agrees hp hs ha hc⟩
  · exact congrArg _ (State.rekey_unsigned hc p a out)

end Sys2Proof.Proofs
end

section
/-!
Parts that arrive from other modules (R58, R231, R235, R236, R265, R266): what serving a line leaves unchanged, and how a part ends.
-/
namespace Sys2Proof.Machine

/-! ## The contents of tier memory -/

/-- The tier memory of two states reads alike, and is written alike. -/
structure SameTier (s t : State) : Prop where
  tier : t.tier = s.tier
  keys : t.tierKeys = s.tierKeys
  writes : t.writes = s.writes

theorem SameTier.baseByte {s t : State} (h : SameTier s t) (key : Option Nat) (a : Nat) :
    t.baseByte .tier key a = s.baseByte .tier key a := by
  simp only [State.baseByte, h.tier, h.keys]

theorem SameTier.farRead {s t : State} (h : SameTier s t) (v : Viewer) (key : Option Nat) (a n : Nat) :
    t.farRead v .tier key a n = s.farRead v .tier key a n := by
  simp only [State.farRead, State.farByte, h.baseByte, h.writes]

theorem SameTier.linePut {s t : State} (h : SameTier s t) (key a : Nat) (bs : List Byte) :
    SameTier (s.linePut key a bs) (t.linePut key a bs) := by
  constructor <;> simp only [State.linePut, State.baseByte, h.tier, h.keys, h.writes]

theorem SameTier.basePut {s t : State} (h : SameTier s t) (key a : Nat) (bs : List Byte) :
    SameTier (s.basePut .tier key a bs) (t.basePut .tier key a bs) := by
  simp only [State.basePut]
  split
  · exact h
  · exact List.foldl_rel h fun l _ s t h => h.linePut ..

theorem SameTier.foldWrite {s t : State} (h : SameTier s t) {w : FarWrite} (hw : w.space = .tier) :
    SameTier (s.foldWrite w) (t.foldWrite w) := by
  have hput := h.basePut w.key w.addr w.bytes
  rw [State.foldWrite, State.foldWrite, hw]
  exact ⟨hput.tier, hput.keys, congrArg (List.filter _) h.writes⟩

theorem SameTier.settleWrites {s t : State} (h : SameTier s t) : SameTier (s.settleWrites .tier) (t.settleWrites .tier) := by
  rw [State.settleWrites, State.settleWrites, h.writes]
  exact List.foldl_rel h fun w hw s t h => h.foldWrite (beq_iff_eq.1 (List.mem_filter.1 hw).2)

theorem SameTier.sysPut {s t : State} (h : SameTier s t) (key a : Nat) (bs : List Byte) :
    SameTier (s.sysPut .tier key a bs) (t.sysPut .tier key a bs) := by
  rw [State.sysPut, State.sysPut, h.writes]
  split
  · exact h.settleWrites.basePut ..
  · exact h.basePut ..

theorem SameTier.keyIdOf {s t : State} (h : SameTier s t) (ppn lvl table : Nat) : t.keyIdOf table ppn lvl = s.keyIdOf table ppn lvl := by
  induction lvl generalizing table with
  | zero => rfl
  | succ lvl ih => simp only [State.keyIdOf, h.farRead, ih]

/-! ## What serving leaves unchanged -/

/-- Nothing but what a part spends, soft errors and their counts, and the parts that are held differs. -/
structure Serving (s t : State) : Prop where
  eq : t = { s with ctrls := t.ctrls, links := t.links, soft := t.soft, errstat := t.errstat, remoteHeld := t.remoteHeld }
  keys (c : Nat) : (t.ctrl c).keys = (s.ctrl c).keys
  port (p : Nat) : t.link p = { s.link p with spent := (t.link p).spent }

namespace Serving

theorem refl (s : State) : Serving s s := ⟨rfl, fun _ => rfl, fun _ => rfl⟩

theorem trans {s t u : State} (h : Serving s t) (g : Serving t u) : Serving s u where
  eq := g.eq.trans (congrArg (fun t : State =>
    { t with ctrls := u.ctrls, links := u.links, soft := u.soft, errstat := u.errstat, remoteHeld := u.remoteHeld }) h.eq)
  keys c := (g.keys c).trans (h.keys c)
  port p := (g.port p).trans (congrArg (fun l : LinkPort => { l with spent := (u.link p).spent }) (h.port p))

variable {s t : State}

theorem tier (h : Serving s t) : t.tier = s.tier := (congrArg State.tier h.eq).trans rfl
theorem sent (h : Serving s t) : t.sent = s.sent := (congrArg State.sent h.eq).trans rfl
theorem cfg (h : Serving s t) : t.cfg = s.cfg := (congrArg State.cfg h.eq).trans rfl
theorem poison (h : Serving s t) : t.poison = s.poison := (congrArg State.poison h.eq).trans rfl
theorem hard (h : Serving s t) : t.hard = s.hard := (congrArg State.hard h.eq).trans rfl
theorem mstate (h : Serving s t) : t.mstate = s.mstate := (congrArg State.mstate h.eq).trans rfl
theorem cores (h : Serving s t) : t.cores = s.cores := (congrArg State.cores h.eq).trans rfl
theorem ctxs (h : Serving s t) : t.ctxs = s.ctxs := (congrArg State.ctxs h.eq).trans rfl
theorem remoteSeq (h : Serving s t) : t.remoteSeq = s.remoteSeq := (congrArg State.remoteSeq h.eq).trans rfl
theorem clockSlow (h : Serving s t) : t.clockSlow = s.clockSlow := (congrArg State.clockSlow h.eq).trans rfl
theorem holdBook (h : Serving s t) : t.holdBook = s.holdBook := (congrArg State.holdBook h.eq).trans rfl

theorem sameTier (h : Serving s t) : SameTier s t :=
  ⟨h.tier, (congrArg State.tierKeys h.eq).trans rfl, (congrArg State.writes h.eq).trans rfl⟩

theorem ctx (h : Serving s t) (x : Nat) : t.ctx x = s.ctx x := by rw [State.ctx, h.ctxs, State.ctx]

theorem budget (h : Serving s t) (x i : Nat) : t.budget x i = s.budget x i := by
  simp only [State.budget, h.ctx, h.clockSlow, h.holdBook]

theorem windowKey (h : Serving s t) (page x : Nat) : t.windowKey page x = s.windowKey page x := by
  simp only [State.windowKey, h.ctx, h.sameTier.keyIdOf, h.keys]

theorem expectedSeq (h : Serving s t) (r : RemotePart) : t.expectedSeq r = s.expectedSeq r := by
  rw [State.expectedSeq, h.remoteSeq, State.expectedSeq]

theorem hold (s : State) (l : List RemoteJob) : Serving s { s with remoteHeld := l } := ⟨rfl, fun _ => rfl, fun _ => rfl⟩

end Serving

theorem State.modCtrl_serving (s : State) (c : Nat) {f : Ctrl → Ctrl} (hf : ∀ y, (f y).keys = y.keys) : Serving s (s.modCtrl c f) := by
  refine ⟨rfl, fun n => ?_, fun _ => rfl⟩
  by_cases hn : n = c
  · subst hn
    by_cases h24 : n < 24
    · rw [State.ctrl_modCtrl h24, hf]
    · simp [State.ctrl, State.modCtrl, h24]
  · rw [State.ctrl_modCtrl_ne _ hn]

theorem State.spendDrill_serving (s : State) (c x n : Nat) : Serving s (s.spendDrill c x n) := s.modCtrl_serving c fun _ => rfl

theorem State.spendLink_serving (s : State) (x m n : Nat) : Serving s (s.spendLink x m n) := by
  unfold State.spendLink
  split
  next p hp =>
    refine ⟨rfl, fun _ => rfl, fun q => ?_⟩
    by_cases hq : q = p
    · subst hq
      rw [State.link_modLink (State.route_lt hp).1]
    · rw [State.link_modLink_ne _ hq]
  next => exact .refl s

theorem State.spendLink_ctrl (s : State) (x m n c : Nat) : (s.spendLink x m n).ctrl c = s.ctrl c := by
  unfold State.spendLink
  split <;> rfl

theorem State.spendLink_held (s : State) (x m n : Nat) : (s.spendLink x m n).remoteHeld = s.remoteHeld := by
  unfold State.spendLink
  split <;> rfl

theorem spentOf_spend (l : List (Nat × Nat)) (x n : Nat) : spentOf (spend l x n) x = spentOf l x + n := by
  simp [spentOf, spend, mget_mput_same]

theorem State.spendDrill_spent {s : State} {c : Nat} (hc : c < 24) (x n : Nat) :
    spentOf ((s.spendDrill c x n).ctrl c).spent x = spentOf (s.ctrl c).spent x + n := by
  rw [State.spendDrill, State.ctrl_modCtrl hc, spentOf_spend]

theorem colour_lt (page : Nat) : colour page < 24 := Nat.mod_lt _ (by decide)

/-! ## Lines without errors that reach a reader (R231) -/

/-- No granule is POISON, and no line has an error that a read would meet. -/
def State.Sound (s : State) : Prop := s.poison = [] ∧ ∀ l, mget s.hard l = none

/-- `t` is `s` after reads that met no error but soft ones. -/
structure ReadSoundly (s t : State) : Prop extends Serving s t where
  held : t.remoteHeld = s.remoteHeld
  spent (c : Nat) : (t.ctrl c).spent = (s.ctrl c).spent

theorem ReadSoundly.refl (s : State) : ReadSoundly s s := ⟨.refl s, rfl, fun _ => rfl⟩

theorem ReadSoundly.trans {s t u : State} (h : ReadSoundly s t) (g : ReadSoundly t u) : ReadSoundly s u :=
  ⟨h.toServing.trans g.toServing, g.held.trans h.held, fun c => (g.spent c).trans (h.spent c)⟩

theorem Serving.sound {s t : State} (h : Serving s t) (hs : s.Sound) : t.Sound := by
  obtain ⟨hp, hh⟩ := hs
  exact ⟨h.poison.trans hp, fun l => by rw [h.hard, hh]⟩

theorem State.count_sound (s : State) (lo n : Nat) (l : List (Nat × Nat)) : ReadSoundly s { s.count lo n with soft := l } :=
  ⟨⟨rfl, fun _ => rfl, fun _ => rfl⟩, rfl, fun _ => rfl⟩

theorem State.corrected_sound (s : State) {c : Nat} (hc : c < 24) :
    ReadSoundly s (s.modCtrl c fun y => { y with corrected := y.corrected + 1 }) := by
  refine ⟨s.modCtrl_serving c fun _ => rfl, rfl, fun n => ?_⟩
  by_cases hn : n = c
  · subst hn
    rw [State.ctrl_modCtrl hc]
  · rw [State.ctrl_modCtrl_ne _ hn]

theorem State.tierTouch_sound {s : State} (hs : s.Sound) (pa : Nat) :
    ReadSoundly s (s.tierTouch pa).1 ∧ (s.tierTouch pa).2 = true := by
  obtain ⟨hp, hh⟩ := hs
  simp only [State.tierTouch, hp, hh, List.contains_nil, Bool.false_eq_true, if_false, Option.isSome_none]
  split
  · exact ⟨(s.count_sound ..).trans (State.corrected_sound _ (colour_lt _)), rfl⟩
  · exact ⟨.refl s, rfl⟩

/-- Reads that go on well from a sound state where all before them went well. -/
def ReadOn (a b : State × Bool) : Prop := a.1.Sound → a.2 = true → ReadSoundly a.1 b.1 ∧ b.2 = true

theorem ReadOn.refl (a : State × Bool) : ReadOn a a := fun _ ha => ⟨.refl a.1, ha⟩

theorem ReadOn.trans {a b c : State × Bool} (h : ReadOn a b) (g : ReadOn b c) : ReadOn a c := by
  intro hs ha
  obtain ⟨hr, hb⟩ := h hs ha
  obtain ⟨gr, gb⟩ := g (hr.sound hs) hb
  exact ⟨hr.trans gr, gb⟩

theorem State.touchLines_sound {s : State} (hs : s.Sound) (pa n : Nat) :
    ReadSoundly s (s.touchLines false pa n).1 ∧ (s.touchLines false pa n).2 = true := by
  refine foldl_rel (R := ReadOn) .refl .trans (fun a l hs ha => ?_) (linesOf pa n) (s, true) hs rfl
  obtain ⟨hr, hok⟩ := State.tierTouch_sound hs (64 * l)
  simp only [State.tierAccess, Bool.false_eq_true, if_false, ha, hok, Bool.and_self]
  exact ⟨hr, trivial⟩

/-- Writes of lines that are not POISON change nothing before their bytes are there. -/
theorem State.touchLines_write {s : State} (hp : s.poison = []) (pa n : Nat) : s.touchLines true pa n = (s, true) :=
  List.foldl_fixed' (fun l => by simp [State.tierAccess, hp]) _

end Sys2Proof.Machine
end

section
/-!
Parts that arrive from other modules: the steps of a part that is served, and the ends of parts.
-/
namespace Sys2Proof.Machine

/-! ## Answers (R265, R266) -/

/-- What is sent, the ports and the routes are the same. -/
structure SameFront (s t : State) : Prop where
  sent : t.sent = s.sent
  cfg : t.cfg = s.cfg
  port (p : Nat) : t.link p = { s.link p with spent := (t.link p).spent }

theorem SameFront.trans {s t u : State} (h : SameFront s t) (g : SameFront t u) : SameFront s u :=
  ⟨g.sent.trans h.sent, g.cfg.trans h.cfg,
    fun p => (g.port p).trans (congrArg (fun l : LinkPort => { l with spent := (u.link p).spent }) (h.port p))⟩

theorem Serving.front {s t : State} (h : Serving s t) : SameFront s t := ⟨h.sent, h.cfg, h.port⟩

theorem SameFront.of_eq {s t : State} (hs : t.sent = s.sent) (hl : t.links = s.links) (hc : t.cfg = s.cfg) : SameFront s t :=
  ⟨hs, hc, fun p => by simp only [State.link, hl]⟩

theorem OnlyContents.front {s t : State} (h : OnlyContents s t) : SameFront s t :=
  .of_eq ((congrArg State.sent h).trans rfl) ((congrArg State.links h).trans rfl) ((congrArg State.cfg h).trans rfl)

theorem SameFront.fits {s t : State} (h : SameFront s t) (p : Nat) : (t.link p).fits = (s.link p).fits := by
  rw [h.port]
  rfl

theorem SameFront.queue {s t : State} (h : SameFront s t) (p : Nat) : (t.link p).queue = (s.link p).queue := by
  rw [h.port]

theorem SameFront.up {s t : State} (h : SameFront s t) (p : Nat) : (t.link p).up = (s.link p).up := by
  rw [h.port]

theorem SameFront.route {s t : State} (h : SameFront s t) (m : Nat) : t.route m = s.route m := by
  simp only [State.route, h.cfg, h.up]

theorem SameFront.answered {s t u : State} (h : SameFront s t) {r : RemotePart} {kind : Nat} {bs : List Byte}
    (ha : answered t u r kind bs) : answered s u r kind bs := by
  simpa only [Sys2Proof.answered, h.route, h.fits, h.queue, h.sent] using ha

theorem State.answerPart_answered (s : State) (r : RemotePart) (kind : Nat) (bs : List Byte) :
    answered s (s.answerPart r.source r.seq kind bs) r kind bs := by
  unfold State.answerPart Sys2Proof.answered
  split
  next q hq =>
    simp only [hq, Option.all_some]
    refine ⟨fun hf => ?_, fun q' hq' hf => ?_⟩
    · obtain ⟨l, hsent, hmem⟩ := State.sendOn_sends hf (.answer r.source r.seq kind bs)
      exact ⟨l, hsent, hmem _ (by simp [LinkItem.outputs])⟩
    · obtain rfl := Option.some.inj hq'
      exact State.sendOn_waits (State.route_lt hq).1 hf _
  next hq =>
    simp only [hq, Option.all_none]
    exact ⟨fun _ => ⟨[_], rfl, by simp⟩, by simp⟩

/-- Nothing but the links, their keys and what is sent differs. -/
def OnlyPackets (s t : State) : Prop := t = { s with links := t.links, reeve := t.reeve, sent := t.sent }

namespace OnlyPackets

theorem refl (s : State) : OnlyPackets s s := rfl

theorem trans {s t u : State} (h : OnlyPackets s t) (g : OnlyPackets t u) : OnlyPackets s u :=
  Eq.trans g (congrArg (fun t : State => { t with links := u.links, reeve := u.reeve, sent := u.sent }) h)

variable {s t : State}

theorem tier (h : OnlyPackets s t) : t.tier = s.tier := (congrArg State.tier h).trans rfl
theorem remoteHeld (h : OnlyPackets s t) : t.remoteHeld = s.remoteHeld := (congrArg State.remoteHeld h).trans rfl
theorem remoteSeq (h : OnlyPackets s t) : t.remoteSeq = s.remoteSeq := (congrArg State.remoteSeq h).trans rfl
theorem ctxs (h : OnlyPackets s t) : t.ctxs = s.ctxs := (congrArg State.ctxs h).trans rfl

end OnlyPackets

theorem State.rekey_packets (s : State) (port : Nat) (out : Bool) (seq : Nat) : OnlyPackets s (s.rekey port out seq) := by
  unfold State.rekey
  split <;> rfl

theorem State.rekeyFirst_packets (s : State) (port : Nat) (out : Bool) : OnlyPackets s (s.rekeyFirst port out) := by
  unfold State.rekeyFirst
  split
  · exact s.rekey_packets ..
  · rfl

theorem State.emit_packets (s : State) (port : Nat) (k : Packet) : OnlyPackets s (s.emit port k) := by
  unfold State.emit
  cases k.item <;> rfl

theorem State.modLink_packets (s : State) (port : Nat) (f : LinkPort → LinkPort) : OnlyPackets s (s.modLink port f) := rfl

theorem State.sendPacket_packets (s : State) (port : Nat) (item : LinkItem) : OnlyPackets s (s.sendPacket port item) :=
  ((s.rekeyFirst_packets port true).trans (State.modLink_packets ..)).trans (State.emit_packets ..)

theorem State.sendOn_packets (s : State) (port : Nat) (item : LinkItem) : OnlyPackets s (s.sendOn port item) := by
  unfold State.sendOn
  split
  · exact s.sendPacket_packets ..
  · exact s.modLink_packets ..

theorem State.answerPart_packets (s : State) (source seq kind : Nat) (bs : List Byte) :
    OnlyPackets s (s.answerPart source seq kind bs) := by
  unfold State.answerPart
  split
  · exact s.sendOn_packets ..
  · rfl

/-! ## Ends of parts (R266) -/

theorem foldl_send {α : Type} (f : α → Output) (l : List α) (s : State) :
    l.foldl (fun s x => s.send (f x)) s = { s with sent := (l.map f).reverse ++ s.sent } := by
  induction l generalizing s with
  | nil => rfl
  | cons x l ih =>
    rw [List.foldl_cons, ih]
    simp [State.send]

/-- Writes of window entries that are complete are told, and open no context's page any more. -/
theorem State.settleWindows_eq (s : State) : ∃ l w g, s.settleWindows =
    { s with sent := l ++ s.sent, windowWrites := w, ctxs := s.ctxs.map fun (c : Ctx) => { c with opening := c.opening.filter g } } := by
  unfold State.settleWindows
  dsimp only
  rw [foldl_send]
  exact ⟨_, _, _, rfl⟩

theorem answered_settleWindows {s t : State} {r : RemotePart} {kind : Nat} {bs : List Byte} (h : answered s t r kind bs) :
    answered s t.settleWindows r kind bs := by
  obtain ⟨l, w, g, ht⟩ := t.settleWindows_eq
  obtain ⟨hsent, hqueue⟩ := h
  rw [ht]
  refine ⟨fun hf => ?_, fun q hq hf => ?_⟩
  · obtain ⟨m, hm, hmem⟩ := hsent hf
    exact ⟨l ++ m, by simp [hm], List.mem_append_right _ hmem⟩
  · exact hqueue q hq hf

/-- A part that ends is answered, is held no more, and the next of its stream is due. -/
def PartEnded (s t : State) (r : RemotePart) (kind : Nat) (bs : List Byte) : Prop :=
  answered s t r kind bs ∧ t.remoteHeld = [] ∧ t.expectedSeq r = s.expectedSeq r + 1

theorem State.endRemote_ended {s : State} {j : RemoteJob} (hs : s.remoteHeld = [j]) (kind : Nat) (bs : List Byte) :
    PartEnded s (s.endRemote j.part kind bs) j.part kind bs ∧ (s.endRemote j.part kind bs).tier = s.tier := by
  let u : State := { s with
    remoteHeld := []
    remoteSeq := ((j.part.source, j.part.stream), s.expectedSeq j.part + 1) ::
      s.remoteSeq.filter fun p => p.1 != (j.part.source, j.part.stream) }
  have hend : s.endRemote j.part kind bs = (u.answerPart j.part.source j.part.seq kind bs).settleWindows := by
    simp [State.endRemote, hs, u]
  have hu := u.answerPart_packets j.part.source j.part.seq kind bs
  have ha : answered s (u.answerPart j.part.source j.part.seq kind bs) j.part kind bs :=
    SameFront.answered (.of_eq rfl rfl rfl) (u.answerPart_answered j.part kind bs)
  have hset := answered_settleWindows ha
  obtain ⟨l, w, g, ht⟩ := (u.answerPart j.part.source j.part.seq kind bs).settleWindows_eq
  rw [hend]
  refine ⟨⟨hset, ?_, ?_⟩, ?_⟩
  · rw [ht]
    exact hu.remoteHeld
  · rw [ht]
    show (((u.answerPart ..).remoteSeq.find? _).map _).getD 0 = _
    rw [hu.remoteSeq]
    simp [u]
  · rw [ht]
    exact hu.tier

theorem PartEnded.of_front {s t u : State} {r : RemotePart} {kind : Nat} {bs : List Byte} (h : SameFront s t)
    (hq : t.remoteSeq = s.remoteSeq) (he : PartEnded t u r kind bs) : PartEnded s u r kind bs := by
  obtain ⟨ha, hheld, hseq⟩ := he
  exact ⟨h.answered ha, hheld, by rw [hseq, State.expectedSeq, hq, State.expectedSeq]⟩

/-! ## Steps of the part that is held -/

theorem State.serveFor_one {s : State} {j : RemoteJob} (hs : s.remoteHeld = [j]) (hd : s.remoteDue j = true) (n : Nat) :
    s.serveFor (n + 1) = (s.stepRemote j).serveFor n := by
  simp [State.serveFor, hs, hd]

/-- A part that is not due is held. -/
theorem State.serveFor_idle {s : State} {j : RemoteJob} (hs : s.remoteHeld = [j]) (hd : s.remoteDue j = false) (n : Nat) :
    s.serveFor n = s := by
  cases n with
  | zero => rfl
  | succ n => simp [State.serveFor, hs, hd]

theorem State.serveFor_empty {s : State} (hs : s.remoteHeld = []) (n : Nat) : s.serveFor n = s := by
  cases n with
  | zero => rfl
  | succ n => simp [State.serveFor, hs]

/-- The next step of a part ends it. -/
theorem State.serveFor_end {s : State} {j : RemoteJob} {kind : Nat} {bs : List Byte} (hs : s.remoteHeld = [j])
    (hd : s.remoteDue j = true) (he : s.stepRemote j = s.endRemote j.part kind bs) (n : Nat) :
    PartEnded s (s.serveFor (n + 1)) j.part kind bs ∧ (s.serveFor (n + 1)).tier = s.tier := by
  obtain ⟨⟨ha, hheld, hnext⟩, htier⟩ := State.endRemote_ended hs kind bs
  rw [State.serveFor_one hs hd, he, State.serveFor_empty hheld]
  exact ⟨⟨ha, hheld, hnext⟩, htier⟩

/-- A part whose lines have been served is over. -/
theorem State.serveFor_over {s : State} {j : RemoteJob} (hs : s.remoteHeld = [j]) (hseq : j.part.seq = s.expectedSeq j.part)
    (hw : s.mstate ≠ .warm) (hk : j.kind = none) (hl : j.lines = (remoteLines j.part).length) (n : Nat) :
    PartEnded s (s.serveFor (n + 1)) j.part 0 j.got ∧ (s.serveFor (n + 1)).tier = s.tier :=
  State.serveFor_end hs (by simp [State.remoteDue, hseq, hw, hl]) (by simp [State.stepRemote, hk, hl]) n

/-- A part that is refused ends with its kind. -/
theorem State.serveFor_refused {s : State} {j : RemoteJob} {kind l : Nat} (hs : s.remoteHeld = [j])
    (hseq : j.part.seq = s.expectedSeq j.part) (hw : s.mstate ≠ .warm)
    (hk : j.kind = some kind ∨ (j.kind = none ∧ (remoteLines j.part)[j.lines]? = some l ∧
      s.windowKey (j.part.pa / 65536) j.ctx = .inl kind)) (n : Nat) :
    PartEnded s (s.serveFor (n + 1)) j.part kind [] ∧ (s.serveFor (n + 1)).tier = s.tier := by
  have hkey : s.remoteKey j = .inl kind := by
    obtain hk | ⟨hk, _, hkey⟩ := hk
    · simp [State.remoteKey, hk]
    · simp [State.remoteKey, hk, hkey]
  refine State.serveFor_end hs (by simp [State.remoteDue, hseq, hw, hkey]) ?_ n
  obtain hk | ⟨hk, hl, hkey⟩ := hk
  · simp [State.stepRemote, hk]
  · simp [State.stepRemote, hk, hl, hkey]

/-- The line of a part that is read: its bytes are got, and the budgets spend them. -/
theorem State.serveLine_read {s : State} {j : RemoteJob} (hs : s.remoteHeld = [j]) (hsound : s.Sound) (hr : j.part.write = false)
    (key l : Nat) :
    ∃ bs, Serving s (s.serveLine j key l) ∧ (s.serveLine j key l).remoteHeld = [{ j with lines := j.lines + 1, got := j.got ++ bs }] ∧
      bs.length = (remoteLine j.part l).2 ∧
      spentOf ((s.serveLine j key l).ctrl (colour (j.part.pa / 65536))).spent j.ctx =
        spentOf (s.ctrl (colour (j.part.pa / 65536))).spent j.ctx + (remoteLine j.part l).2 := by
  obtain ⟨hread, hok⟩ := State.touchLines_sound hsound (remoteLine j.part l).1 (remoteLine j.part l).2
  obtain ⟨u, hu⟩ : ∃ u, s.touchLines false (remoteLine j.part l).1 (remoteLine j.part l).2 = (u, true) := ⟨_, Prod.ext rfl hok⟩
  rw [hu] at hread
  have hc := colour_lt (j.part.pa / 65536)
  let w := u.spendDrill (colour (j.part.pa / 65536)) j.ctx (remoteLine j.part l).2
  let v := w.spendLink j.ctx j.part.source (remoteLine j.part l).2
  let bs := bytesOfNum (w.farRead .sys .tier (some key) (remoteLine j.part l).1 (remoteLine j.part l).2) (remoteLine j.part l).2
  have hv : v.remoteHeld = [j] := by
    simp only [v, State.spendLink_held]
    exact hread.held.trans hs
  have heq : s.serveLine j key l = { v with remoteHeld := [{ j with lines := j.lines + 1, got := j.got ++ bs }] } := by
    simp only [State.serveLine, hr, hu, Bool.false_eq_true, if_false]
    rw [show (State.spendLink _ _ _ _).remoteHeld = [j] from hv]
    simp only [List.map_cons, List.map_nil, if_true]
    rfl
  refine ⟨bs, ?_, by rw [heq], by simp [bs, bytesOfNum], ?_⟩
  · rw [heq]
    exact ((hread.toServing.trans (State.spendDrill_serving ..)).trans (State.spendLink_serving ..)).trans (Serving.hold v _)
  · rw [heq]
    show spentOf (v.ctrl _).spent _ = _
    rw [State.spendLink_ctrl, State.spendDrill_spent hc, hread.spent]

/-- The line of a part that is written. -/
theorem State.serveLine_write {s : State} {j : RemoteJob} (hs : s.remoteHeld = [j]) (hp : s.poison = []) (hw : j.part.write = true)
    (key l : Nat) :
    let x := remoteLine j.part l
    let t := s.serveLine j key l
    SameFront s t ∧ t.remoteHeld = [{ j with lines := j.lines + 1 }] ∧ t.remoteSeq = s.remoteSeq ∧ t.mstate = s.mstate ∧
      t.tier = (s.sysPut .tier key x.1 ((j.part.data.drop (x.1 - j.part.pa)).take x.2)).tier := by
  intro x t
  let u := s.spendDrill (colour (j.part.pa / 65536)) j.ctx x.2
  let v := u.sysPut .tier key x.1 ((j.part.data.drop (x.1 - j.part.pa)).take x.2)
  have hu : Serving s u := s.spendDrill_serving ..
  have hv : OnlyContents u v := u.sysPut_only ..
  have hheld : v.remoteHeld = [j] := ((congrArg State.remoteHeld hv).trans rfl).trans hs
  have ht : t = { v with remoteHeld := [{ j with lines := j.lines + 1 }] } := by
    simp only [t, State.serveLine, hw, State.touchLines_write hp, if_true]
    rw [show (State.sysPut _ _ _ _ _).remoteHeld = [j] from hheld]
    simp only [List.map_cons, List.map_nil, if_true]
    rfl
  rw [ht]
  refine ⟨(hu.front.trans hv.front).trans (.of_eq rfl rfl rfl), rfl, ?_, ?_, (hu.sameTier.sysPut ..).tier⟩
  · exact ((congrArg State.remoteSeq hv).trans rfl).trans hu.remoteSeq
  · exact ((congrArg State.mstate hv).trans rfl).trans hu.mstate

/-! ## Parts as they arrive -/

/-- A part as it is first held: checked against the entry of its window. -/
def State.newJob (s : State) (r : RemotePart) : RemoteJob :=
  { part := r, entry := (s.wintab[r.window]?).getD (0#64, 0#64), kind := s.windowKind r, old := false, lines := 0, got := [] }

/-- The state in which a part that has arrived is the only one held. -/
def State.holding (s : State) (r : RemotePart) : State := { s with remoteHeld := [s.newJob r] }

theorem State.holding_serving (s : State) (r : RemotePart) : Serving s (s.holding r) := Serving.hold s _

/-- A part for this module that has not arrived before is held and served as far as it may. -/
theorem exec_remotePartArrival {s : State} {r : RemotePart} (ht : r.target = s.cfg.moduleId.toNat) (hh : s.remoteHeld = [])
    (hseq : s.expectedSeq r ≤ r.seq) :
    exec (.remotePartArrival r) s = .next ((s.holding r).serveFor ((remoteLines r).length + 1)) := by
  have htwice : s.remoteTwice r = false := by simp [State.remoteTwice, hh, hseq]
  simp only [exec, execRemotePartArrival, ht, htwice, State.takeRemote, State.serveHeld, State.remoteSteps, hh]
  simp [State.holding, State.newJob]

section
variable {s : State} {r : RemotePart} (ht : r.target = s.cfg.moduleId.toNat) (hh : s.remoteHeld = [])
include ht hh

theorem arrival_refused {kind l : Nat} (hseq : r.seq = s.expectedSeq r) (hw : s.mstate ≠ .warm)
    (hk : s.windowKind r = some kind ∨
      (s.windowKind r = none ∧ (remoteLines r)[0]? = some l ∧ s.windowKey (r.pa / 65536) (s.newJob r).ctx = .inl kind)) :
    ∃ t, exec (.remotePartArrival r) s = .next t ∧ PartEnded s t r kind [] ∧ t.tier = s.tier := by
  have hold := s.holding_serving r
  obtain ⟨hend, htier⟩ := State.serveFor_refused (s := s.holding r) (j := s.newJob r) (kind := kind) (l := l) rfl
    (hseq.trans (hold.expectedSeq r).symm) hw (by rw [hold.windowKey]; exact hk) (remoteLines r).length
  exact ⟨_, exec_remotePartArrival ht hh hseq.ge, hend.of_front hold.front hold.remoteSeq, htier⟩

theorem arrival_waits (hseq : s.expectedSeq r ≤ r.seq) (hd : (s.holding r).remoteDue (s.newJob r) = false) :
    ∃ t, exec (.remotePartArrival r) s = .next t ∧ t.remoteHeld = [s.newJob r] ∧ t.sent = s.sent ∧ t.tier = s.tier := by
  refine ⟨_, exec_remotePartArrival ht hh hseq, ?_⟩
  rw [State.serveFor_idle rfl hd]
  exact ⟨rfl, rfl, rfl⟩

end

/-- A part whose next line has a key is due when that line may be served. -/
theorem State.remoteDue_line {s : State} {j : RemoteJob} {l key : Nat} (hseq : j.part.seq = s.expectedSeq j.part) (hw : s.mstate ≠ .warm)
    (hk : j.kind = none) (hl : (remoteLines j.part)[j.lines]? = some l) (hkey : s.windowKey (j.part.pa / 65536) j.ctx = .inr key) :
    s.remoteDue j = s.remoteOpen j := by
  obtain ⟨hlt, _⟩ := List.getElem?_eq_some_iff.1 hl
  have hwarm : (s.mstate != .warm) = true := bne_iff_ne.2 hw
  have hlines : (j.lines == (remoteLines j.part).length) = false := beq_false_of_ne hlt.ne
  simp [State.remoteDue, hseq, hwarm, State.remoteKey, hk, hkey, hlines]

section
variable {s : State} {r : RemotePart} {l key : Nat} {more : List Nat} (hseq : r.seq = s.expectedSeq r) (hw : s.mstate ≠ .warm)
  (hk : s.windowKind r = none) (hl : remoteLines r = l :: more) (hkey : s.windowKey (r.pa / 65536) (s.newJob r).ctx = .inr key)
include hseq hw hk hl hkey

theorem State.holding_due : (s.holding r).remoteDue (s.newJob r) = s.remoteOpen (s.newJob r) := by
  have hold := s.holding_serving r
  refine State.remoteDue_line (l := l) (hseq.trans (hold.expectedSeq r).symm) hw hk ?_ ((hold.windowKey ..).trans hkey)
  show (remoteLines r)[0]? = _
  rw [hl]
  rfl

/-- The first line of a part that goes on is served, and then what follows from it. -/
theorem exec_remotePartArrival_line (ht : r.target = s.cfg.moduleId.toNat) (hh : s.remoteHeld = [])
    (hopen : s.remoteOpen (s.newJob r) = true) :
    exec (.remotePartArrival r) s = .next (((s.holding r).serveLine (s.newJob r) key l).serveFor (more.length + 1)) := by
  have hdue := (State.holding_due hseq hw hk hl hkey).trans hopen
  have hl0 : (remoteLines (s.newJob r).part)[(s.newJob r).lines]? = some l := by
    show (remoteLines r)[0]? = _
    rw [hl]
    rfl
  have hkey' : (s.holding r).windowKey ((s.newJob r).part.pa / 65536) (s.newJob r).ctx = .inr key :=
    ((s.holding_serving r).windowKey ..).trans hkey
  have hkind : (s.newJob r).kind = none := hk
  have hstep : (s.holding r).stepRemote (s.newJob r) = (s.holding r).serveLine (s.newJob r) key l := by
    simp [State.stepRemote, hkind, hl0, hkey']
  rw [exec_remotePartArrival ht hh hseq.ge, State.serveFor_one rfl hdue, hstep, hl, List.length_cons]

end

/-- A part within a line is that line's part. -/
theorem remoteLine_of_single {r : RemotePart} {l : Nat} (hl : remoteLines r = [l]) : remoteLine r l = (r.pa, r.bytes) := by
  have hb : r.bytes ≠ 0 := fun h => by simp [remoteLines, h] at hl
  rw [remoteLines, if_neg hb, linesOf] at hl
  obtain ⟨hlen, rfl⟩ : (r.pa + r.bytes - 1) / 64 - r.pa / 64 = 0 ∧ r.pa / 64 = l := by
    have hlen := congrArg List.length hl
    have hhead := congrArg List.head? hl
    simp [List.head?_range'] at hlen hhead
    exact ⟨by omega, hhead⟩
  have hlo : max r.pa (64 * (r.pa / 64)) = r.pa := by omega
  have hhi : min (r.pa + r.bytes) (64 * (r.pa / 64) + 64) = r.pa + r.bytes := by omega
  rw [remoteLine, hlo, hhi, Nat.add_sub_cancel_left]

section
variable {s : State} {r : RemotePart} {l key : Nat} {more : List Nat} (ht : r.target = s.cfg.moduleId.toNat) (hh : s.remoteHeld = [])
  (hseq : r.seq = s.expectedSeq r) (hw : s.mstate ≠ .warm) (hk : s.windowKind r = none)
  (hkey : s.windowKey (r.pa / 65536) (s.newJob r).ctx = .inr key) (hopen : s.remoteOpen (s.newJob r) = true)
include ht hh hseq hw hk hkey hopen

theorem arrival_read (hl : remoteLines r = [l]) (hs : s.Sound) (hr : r.write = false) :
    ∃ t bs, exec (.remotePartArrival r) s = .next t ∧ PartEnded s t r 0 bs ∧ bs.length = r.bytes ∧ t.tier = s.tier := by
  have hold := s.holding_serving r
  obtain ⟨bs, hserv, hheld, hlen, _⟩ := State.serveLine_read (s := s.holding r) (j := s.newJob r) rfl (hold.sound hs) hr key l
  have hserv := hold.trans hserv
  obtain ⟨hend, htier⟩ := State.serveFor_over hheld (hseq.trans (hserv.expectedSeq r).symm) (by rwa [hserv.mstate]) hk
    (by show 0 + 1 = (remoteLines r).length; rw [hl]; rfl) 0
  exact ⟨_, bs, exec_remotePartArrival_line hseq hw hk hl hkey ht hh hopen, hend.of_front hserv.front hserv.remoteSeq,
    hlen.trans (congrArg Prod.snd (remoteLine_of_single hl)), htier.trans hserv.tier⟩

theorem arrival_written (hl : remoteLines r = [l]) (hp : s.poison = []) (hr : r.write = true) (hdata : r.data.length = r.bytes) :
    ∃ t, exec (.remotePartArrival r) s = .next t ∧ PartEnded s t r 0 [] ∧ t.tier = (s.sysPut .tier key r.pa r.data).tier := by
  have hold := s.holding_serving r
  obtain ⟨hfront, hheld, hq, hm, hput⟩ := State.serveLine_write (s := s.holding r) (j := s.newJob r) rfl hp hr key l
  have hfront := hold.front.trans hfront
  have hnext : (State.serveLine (s.holding r) (s.newJob r) key l).expectedSeq r = s.expectedSeq r := by
    rw [State.expectedSeq, hq, State.expectedSeq]
    rfl
  obtain ⟨hend, htier⟩ := State.serveFor_over hheld (hseq.trans hnext.symm) (by rwa [hm]) hk
    (by show 0 + 1 = (remoteLines r).length; rw [hl]; rfl) 0
  refine ⟨_, exec_remotePartArrival_line hseq hw hk hl hkey ht hh hopen, hend.of_front hfront hq, ?_⟩
  refine htier.trans ?_
  rw [hput, show remoteLine (s.newJob r).part l = _ from remoteLine_of_single hl]
  simp only [show (s.newJob r).part = r from rfl, Nat.sub_self, List.drop_zero, ← hdata, List.take_length]
  exact (hold.sameTier.sysPut ..).tier

/-- A part whose budget its first line spends is held there (R58). -/
theorem arrival_spends (hl : remoteLines r = l :: more) (hmore : more ≠ []) (hs : s.Sound) (hr : r.write = false)
    (hspent : s.budget (s.newJob r).ctx 0 ≤ spentOf (s.ctrl (colour (r.pa / 65536))).spent (s.newJob r).ctx + (remoteLine r l).2) :
    ∃ t bs, exec (.remotePartArrival r) s = .next t ∧ t.remoteHeld = [{ s.newJob r with lines := 1, got := bs }] ∧
      bs.length = (remoteLine r l).2 ∧ t.sent = s.sent ∧ t.tier = s.tier := by
  have hold := s.holding_serving r
  obtain ⟨bs, hserv, hheld, hlen, hspend⟩ := State.serveLine_read (s := s.holding r) (j := s.newJob r) rfl (hold.sound hs) hr key l
  have hserv := hold.trans hserv
  let u := (s.holding r).serveLine (s.newJob r) key l
  let j : RemoteJob := { s.newJob r with lines := 1, got := bs }
  have hheld : u.remoteHeld = [j] := hheld
  obtain ⟨l', hl'⟩ : ∃ l', (remoteLines j.part)[j.lines]? = some l' := by
    obtain ⟨l', _, rfl⟩ := List.exists_cons_of_ne_nil hmore
    exact ⟨l', by show (remoteLines r)[1]? = _; rw [hl]; rfl⟩
  have hshut : u.remoteOpen j = false := by
    have hdrill : u.drillOpen (colour (r.pa / 65536)) (s.newJob r).ctx = false := by
      rw [State.drillOpen, hserv.budget, decide_eq_false_iff_not, not_lt]
      exact hspent.trans hspend.ge
    simp only [State.remoteOpen, show u.drillOpen (colour (j.part.pa / 65536)) j.ctx = false from hdrill, Bool.and_false, Bool.false_and]
  have hdue : u.remoteDue j = false :=
    (State.remoteDue_line (hseq.trans (hserv.expectedSeq r).symm) (by rwa [hserv.mstate]) hk hl' ((hserv.windowKey ..).trans hkey)).trans hshut
  refine ⟨_, bs, exec_remotePartArrival_line hseq hw hk hl hkey ht hh hopen, ?_⟩
  rw [State.serveFor_idle hheld hdue]
  exact ⟨hheld, hlen, hserv.sent, hserv.tier⟩

end

/-! ## Parts for other modules -/

theorem exec_remotePartArrival_on {s : State} {r : RemotePart} (ht : r.target ≠ s.cfg.moduleId.toNat) (hh : r.hops < 8) :
    exec (.remotePartArrival r) s = .next (s.passOn { r with hops := r.hops + 1 }) := by
  simp [exec, execRemotePartArrival, ht, hh]

theorem State.count_front (s : State) (lo n : Nat) : SameFront s (s.count lo n) := .of_eq rfl rfl rfl

theorem State.countUncorrectable_front (s : State) : SameFront s s.countUncorrectable := s.count_front 56 8

theorem exec_remotePartArrival_refused {s : State} {r : RemotePart} (ht : r.target ≠ s.cfg.moduleId.toNat)
    (hh : (r.hops < 8 ∧ s.route r.target = none) ∨ 8 ≤ r.hops) :
    exec (.remotePartArrival r) s = .next (s.countUncorrectable.answerPart r.source r.seq 5 []) := by
  obtain ⟨hh, hn⟩ | hh := hh
  · rw [exec_remotePartArrival_on ht hh, State.passOn]
    simp only [hn]
  · simp [exec, execRemotePartArrival, ht, Nat.not_lt.2 hh]

end Sys2Proof.Machine

namespace Sys2Proof.Proofs
open Sys2Proof.Machine

/-- Parts that arrive from other modules (R58, R231, R235, R236, R252, R253, R265, R266). -/
theorem remotePartsArrive_holds : Sys2Proof.remotePartsArrive := by
  intro s r x j ended
  have opens : s.remoteOpen (s.newJob r) =
      (s.clockOn && s.drillOpen (colour (r.pa / 65536)) x && (r.write || s.linkBudget x r.source)) := rfl
  refine ⟨fun ht hh => ⟨fun hseq hw => ⟨fun kind hk => ?refused, fun l more hk hl => ⟨fun kind hkey => ?keyless, fun key hkey =>
      ⟨fun hshut => ?shut, fun hclock hdrill hp hhard =>
        ⟨fun hr hlink hmore => ?read, fun hr hdata hmore => ?written, fun hr hlink hmore hspent => ?spends⟩⟩⟩⟩, fun hnot => ?early⟩,
    fun ht hold => ?twice,
    fun ht => ⟨fun p hroute hhops => ⟨fun hf => ?goesOn, fun hf => ?queues⟩, fun hrefuse => ?noPort⟩⟩
  case refused => exact arrival_refused ht hh (l := 0) hseq hw (.inl hk)
  case keyless => exact arrival_refused ht hh hseq hw (.inr ⟨hk, by rw [hl]; rfl, hkey⟩)
  case shut =>
    refine arrival_waits ht hh hseq.ge ?_
    rw [State.holding_due hseq hw hk hl hkey, opens]
    obtain h | h | ⟨h, h'⟩ := hshut <;> simp [*]
  case read =>
    subst hmore
    exact arrival_read ht hh hseq hw hk hkey (by simp [*]) hl ⟨hp, hhard⟩ hr
  case written =>
    subst hmore
    exact arrival_written ht hh hseq hw hk hkey (by simp [*]) hl hp hr hdata
  case spends => exact arrival_spends ht hh hseq hw hk hkey (by simp [*]) hl hmore ⟨hp, hhard⟩ hr hspent
  case early =>
    refine arrival_waits ht hh (by omega) ?_
    have hnext : (s.holding r).expectedSeq r = s.expectedSeq r := (s.holding_serving r).expectedSeq r
    show (r.seq == (s.holding r).expectedSeq r && s.mstate != .warm && _) = false
    rw [hnext]
    obtain h | ⟨_, h⟩ := hnot
    · simp [h.ne']
    · simp [h]
  case twice =>
    have htwice : s.remoteTwice r = true := by simpa [State.remoteTwice, and_assoc] using hold
    simp [exec, execRemotePartArrival, ht, htwice]
  case goesOn =>
    obtain ⟨l, hsent, hmem⟩ := State.sendOn_sends hf (.forward { r with hops := r.hops + 1 })
    refine ⟨_, l, exec_remotePartArrival_on ht hhops, ?_, hmem _ (by simp [LinkItem.outputs])⟩
    simpa only [State.passOn, hroute] using hsent
  case queues =>
    refine ⟨_, exec_remotePartArrival_on ht hhops, ?_⟩
    simp only [State.passOn, hroute]
    exact State.sendOn_waits (State.route_lt hroute).1 hf _
  case noPort =>
    exact ⟨_, exec_remotePartArrival_refused ht hrefuse, s.countUncorrectable_front.answered (State.answerPart_answered ..)⟩

end Sys2Proof.Proofs
end

section
/-!
The requests of the host's cores, token rings, the watchdog, the spill, patrol scrub and barrier trees (R35, R58, R151, R224, R232, R247,
R257, R260, R267).
-/
namespace Sys2Proof.Machine

/-! ## Contexts, dies and cores -/

@[simp] theorem State.ctx_modCtx {s : State} {x : Nat} (hx : x < 16) (f : Ctx → Ctx) : (s.modCtx x f).ctx x = f (s.ctx x) := by
  simp [State.ctx, State.modCtx, hx]

@[simp] theorem State.die_modDie {s : State} {d : Nat} (hd : d < 4) (f : Die → Die) : (s.modDie d f).die d = f (s.die d) := by
  simp [State.die, State.modDie, hd]

@[simp] theorem State.core_modCore {s : State} {k : Nat} (hk : k < 16) (f : Core → Core) : (s.modCore k f).core k = f (s.core k) := by
  simp [State.core, State.modCore, hk]

theorem State.core_modCore_ne (s : State) {k n : Nat} (h : n ≠ k) (f : Core → Core) : (s.modCore k f).core n = s.core n := by
  simp [State.core, State.modCore, Vector.getElem?_setIfInBounds_ne (Ne.symm h)]

@[simp] theorem State.core_send (s : State) (o : Output) (k : Nat) : (s.send o).core k = s.core k := rfl

@[simp] theorem State.ctx_send (s : State) (o : Output) (x : Nat) : (s.send o).ctx x = s.ctx x := rfl

@[simp] theorem State.die_send (s : State) (o : Output) (d : Nat) : (s.send o).die d = s.die d := rfl

/-- An interrupt is sent, or stays pending. -/
theorem State.sendMsix_eq (s : State) (p v : Nat) : ∃ m l, s.sendMsix p v = { s with msix := m, sent := l ++ s.sent } := by
  unfold State.sendMsix
  dsimp only
  split
  · exact ⟨_, [], rfl⟩
  · split
    · exact ⟨s.msix, [_], rfl⟩
    · exact ⟨s.msix, [], rfl⟩

theorem State.sendMsix_ctx (s : State) (p v x : Nat) : (s.sendMsix p v).ctx x = s.ctx x := by
  obtain ⟨m, l, h⟩ := s.sendMsix_eq p v
  rw [h]
  rfl

theorem State.sendMsix_core (s : State) (p v k : Nat) : (s.sendMsix p v).core k = s.core k := by
  obtain ⟨m, l, h⟩ := s.sendMsix_eq p v
  rw [h]
  rfl

/-! ## The watchdog (R260) -/

/-- A core has nothing queued and nothing under way. -/
def State.coreIdle (s : State) (k : Nat) : Prop := (s.core k).queue = [] ∧ (s.core k).cur = none

theorem State.mailDone_ctx (s : State) (k slot n x : Nat) : (s.mailDone k slot n).ctx x = s.ctx x := by
  unfold State.mailDone
  exact State.sendMsix_ctx ..

theorem State.mailDone_idle {s : State} {k : Nat} (hk : k < 16) (slot n : Nat) (h : s.coreIdle k) : (s.mailDone k slot n).coreIdle k := by
  unfold State.mailDone State.coreIdle
  dsimp only
  rw [State.sendMsix_core, State.core_send, State.core_modCore hk]
  exact h

theorem State.mailDone_sends (s : State) (k slot n : Nat) : Sends s (s.mailDone k slot n) [.mailDone k slot n] := by
  unfold State.mailDone
  dsimp only
  generalize hu : (State.send _ _) = u
  have hsent : u.sent = .mailDone k slot n :: s.sent := by
    rw [← hu]
    rfl
  obtain ⟨l, hl⟩ := u.sent_sendMsix (k / 8) (2032 + k)
  exact ⟨l ++ [.mailDone k slot n], by rw [hl, hsent, List.append_assoc]; rfl, by simp⟩

/-- Every slot of a list is told that its command is over. -/
theorem mailsDone_sends (k n : Nat) (l : List Nat) (s : State) :
    Sends s (l.foldl (fun s slot => s.mailDone k slot n) s) (l.map fun slot => .mailDone k slot n) := by
  induction l generalizing s with
  | nil => exact .of_eq rfl
  | cons slot l ih => exact (s.mailDone_sends k slot n).trans (ih _)

theorem mailsDone_idle {k : Nat} (hk : k < 16) (n : Nat) (l : List Nat) {s : State} (h : s.coreIdle k) :
    (l.foldl (fun s slot => s.mailDone k slot n) s).coreIdle k :=
  foldl_rel (R := fun s t => s.coreIdle k → t.coreIdle k) (fun _ => id) (fun h g => g ∘ h)
    (fun _ slot => State.mailDone_idle hk slot n) l s h

/-- The mailbox of a queued command. -/
def HostReq.slot : HostReq → Option Nat
  | .mail slot _ => some slot
  | _ => none

/-- The mailboxes that wait for a core: those of the commands under way, and those of the queued ones. -/
def State.mailSlots (s : State) (k : Nat) : List Nat := (s.core k).open_ ++ (s.core k).queue.filterMap HostReq.slot

/-- The state in which a core has given up what it did, before anyone is told. -/
def State.coreCleared (s : State) (k : Nat) : State :=
  ((s.core k).open_.foldl (fun s slot => s.giveUp k slot) s).modCore k fun y => { y with queue := [], cur := none }

theorem State.coreCleared_idle {k : Nat} (hk : k < 16) (s : State) : (s.coreCleared k).coreIdle k := by
  simp only [State.coreIdle, State.coreCleared, State.core_modCore hk, and_self]

/-- The watchdog clears a core, tells every mailbox, and lets the reads and writes of the host fail (R260). -/
theorem exec_serviceWatchdog (s : State) (k : Nat) :
    ∃ l, exec (.serviceWatchdog k) s =
      let v := (s.mailSlots k).foldl (fun s slot => s.mailDone k slot statReset) (s.coreCleared k)
      .next { v with sent := l ++ v.sent } :=
  ⟨_, congrArg Host.Outcome.next (foldl_send (fun _ => Output.cxlFailed k) _ _)⟩

theorem serviceWatchdog_clears {k : Nat} (hk : k < 16) (s : State) :
    ∃ t, exec (.serviceWatchdog k) s = .next t ∧ (t.core k).queue = [] ∧ (t.core k).cur = none ∧
      (∀ i ∈ (s.core k).open_, .mailDone k i 7 ∈ t.sent) ∧ ∀ i ws, .mail i ws ∈ (s.core k).queue → .mailDone k i 7 ∈ t.sent := by
  obtain ⟨failed, hexec⟩ := exec_serviceWatchdog s k
  obtain ⟨hqueue, hcur⟩ := mailsDone_idle hk statReset (s.mailSlots k) (s.coreCleared_idle hk)
  obtain ⟨l, hsent, hmem⟩ := mailsDone_sends k statReset (s.mailSlots k) (s.coreCleared k)
  have told (i : Nat) (hi : i ∈ s.mailSlots k) : .mailDone k i 7 ∈ failed ++ (l ++ (s.coreCleared k).sent) :=
    List.mem_append_right _ (List.mem_append_left _ (hmem _ (List.mem_map_of_mem hi)))
  refine ⟨_, hexec, hqueue, hcur, ?_⟩
  rw [hsent]
  refine ⟨fun i hi => told i (List.mem_append_left _ hi), fun i ws hi => told i (List.mem_append_right _ ?_)⟩
  exact List.mem_filterMap.2 ⟨_, hi, rfl⟩

/-! ## Reads of the host (R35) -/

section
variable {s : State} {k pa m : Nat} {rest : List HostReq} (hk : k < 16) (hq : (s.core k).queue = .read pa m :: rest)
include hk hq

theorem hostRead_outside (hr : s.inHdmRange pa m = false) :
    ∃ t, exec (.hostRequestPerform k) s = .next t ∧ (t.core k).queue = rest ∧ t.sent = .cxlFailed k :: s.sent := by
  let u := s.modCore k fun c => { c with queue := rest }
  have hexec : exec (.hostRequestPerform k) s = .next (u.send (.cxlFailed k)) := by
    have hu : u.inHdmRange pa m = false := hr
    simp only [exec, execHostRequestPerform, hq, show (s.modCore k _).inHdmRange pa m = false from hu, Bool.not_false, if_true]
    rfl
  exact ⟨_, hexec, by simp only [State.core_send, u, State.core_modCore hk], rfl⟩

theorem hostRead_answers (hr : s.inHdmRange pa m = true) (hs : s.Sound) :
    ∃ t bs, exec (.hostRequestPerform k) s = .next t ∧ (t.core k).queue = rest ∧ t.sent = .cxlData k bs :: s.sent ∧ bs.length = m := by
  let u := s.modCore k fun c => { c with queue := rest }
  obtain ⟨hread, hok⟩ := State.touchLines_sound (s := u) hs pa m
  obtain ⟨v, hv⟩ : ∃ v, u.touchLines false pa m = (v, true) := ⟨_, Prod.ext rfl hok⟩
  rw [hv] at hread
  have hexec : exec (.hostRequestPerform k) s = .next (v.send (.cxlData k (bytesOfNum (v.farRead .sys .tier (some hdmKey) pa m) m))) := by
    have hu : u.inHdmRange pa m = true := hr
    simp only [exec, execHostRequestPerform, hq, show (s.modCore k _).inHdmRange pa m = true from hu, Bool.not_true, Bool.false_eq_true,
      if_false, show (s.modCore k _).touchLines false pa m = _ from hv]
  refine ⟨_, _, hexec, ?_, congrArg _ hread.sent, by simp [bytesOfNum]⟩
  rw [State.core_send, State.core, hread.cores]
  show (u.core k).queue = rest
  simp only [u, State.core_modCore hk]

end

/-! ## Token rings (R224) -/

theorem State.ring_modRing {s : State} {x n : Nat} (hx : x < 16) (hn : n < 4) (r : Tring) : ((s.modRing x n r).ctx x).ring n = r := by
  simp [State.modRing, hx, Ctx.ring, hn]

section
variable {s : State} {x n : Nat} (hx : x < 16) (hn : n < 4) (hok : s.cellOk ((s.ctx x).ring n).w0 = true)
include hx hn hok

theorem tailUpdate_tells (hon : ((s.ctx x).ring n).w1.getLsbD 63 = true)
    (hnew : (s.cellAt ((s.ctx x).ring n).w0).w0 ≠ ((s.ctx x).ring n).seen)
    (hq : wbits ((s.ctx x).ring n).w1 0 8 ≤ ((s.cellAt ((s.ctx x).ring n).w0).w0 - ((s.ctx x).ring n).q).toNat) :
    ∃ t, exec (.tailUpdate x n) s = .next t ∧ (t.ctx x).ring n =
      { (s.ctx x).ring n with
        seen := (s.cellAt ((s.ctx x).ring n).w0).w0, q := (s.cellAt ((s.ctx x).ring n).w0).w0, timer := none } := by
  refine ⟨_, by
    simp only [exec, execTailUpdate, hon, hok, beq_false_of_ne hnew, Bool.not_true, Bool.or_self, Bool.false_eq_true, if_false, if_pos hq]
    rfl, ?_⟩
  rw [State.sendMsix_ctx, State.ring_modRing hx hn]

theorem tailUpdate_waits (hon : ((s.ctx x).ring n).w1.getLsbD 63 = true)
    (hnew : (s.cellAt ((s.ctx x).ring n).w0).w0 ≠ ((s.ctx x).ring n).seen)
    (hq : ((s.cellAt ((s.ctx x).ring n).w0).w0 - ((s.ctx x).ring n).q).toNat < wbits ((s.ctx x).ring n).w1 0 8) :
    ∃ t, exec (.tailUpdate x n) s = .next t ∧ (t.ctx x).ring n =
      { (s.ctx x).ring n with
        seen := (s.cellAt ((s.ctx x).ring n).w0).w0
        timer := some (((s.ctx x).ring n).timer.getD (s.time + wbits ((s.ctx x).ring n).w1 8 16 * microsecond)) } ∧ t.sent = s.sent := by
  exact ⟨_, by
    simp only [exec, execTailUpdate, hon, hok, beq_false_of_ne hnew, Bool.not_true, Bool.or_self, Bool.false_eq_true, if_false,
      if_neg (Nat.not_le.2 hq)], State.ring_modRing hx hn _, rfl⟩

theorem coalescingTimer_tells (hexp : ((s.ctx x).ring n).expired s.time = true) :
    ∃ t, exec (.coalescingTimer x n) s = .next t ∧ ((t.ctx x).ring n).timer = none ∧
      (((s.ctx x).ring n).q.toNat < (s.cellAt ((s.ctx x).ring n).w0).w0.toNat →
        ((t.ctx x).ring n).q = (s.cellAt ((s.ctx x).ring n).w0).w0) := by
  by_cases hq : ((s.ctx x).ring n).q.toNat < (s.cellAt ((s.ctx x).ring n).w0).w0.toNat
  · refine ⟨_, by simp [exec, execCoalescingTimer, hexp, hok, hq]; rfl, ?_⟩
    rw [State.sendMsix_ctx, State.ring_modRing hx hn]
    exact ⟨rfl, fun _ => rfl⟩
  · refine ⟨_, by simp [exec, execCoalescingTimer, hexp, hok, hq]; rfl, ?_⟩
    rw [State.ring_modRing hx hn]
    exact ⟨rfl, fun h => absurd h hq⟩

end

/-! ## Spills (R58, R151, R232, R247) -/

/-- A context is as far spilled, and has the key, that it had. -/
def SamePre (x : Nat) (s t : State) : Prop := (t.ctx x).pre = (s.ctx x).pre ∧ (t.ctx x).key = (s.ctx x).key

theorem SamePre.refl (x : Nat) (s : State) : SamePre x s s := ⟨rfl, rfl⟩

theorem SamePre.trans {x : Nat} {s t u : State} (h : SamePre x s t) (g : SamePre x t u) : SamePre x s u :=
  ⟨g.1.trans h.1, g.2.trans h.2⟩

theorem SamePre.of_ctxs {x : Nat} {s t : State} (h : t.ctxs = s.ctxs) : SamePre x s t := by
  simp only [SamePre, State.ctx, h, and_self]

theorem State.settleWindows_samePre (s : State) (x : Nat) : SamePre x s s.settleWindows := by
  obtain ⟨l, w, g, h⟩ := s.settleWindows_eq
  rw [h]
  simp only [SamePre, State.ctx, Vector.getElem?_map]
  cases s.ctxs[x]? <;> exact ⟨rfl, rfl⟩

theorem State.endRemote_samePre (s : State) (r : RemotePart) (kind : Nat) (bs : List Byte) (x : Nat) :
    SamePre x s (s.endRemote r kind bs) := by
  unfold State.endRemote
  refine SamePre.trans ?_ (State.settleWindows_samePre ..)
  exact .of_ctxs ((State.answerPart_packets ..).ctxs.trans rfl)

theorem State.touchLines_ctxs (s : State) (write : Bool) (pa n : Nat) : (s.touchLines write pa n).1.ctxs = s.ctxs := by
  unfold State.touchLines
  refine foldl_proj (fun a : State × Bool => a.1.ctxs) (fun a l => ?_) _ (s, true)
  exact (congrArg State.ctxs (a.1.tierAccess_only write (64 * l))).trans rfl

theorem State.spendLink_ctxs (s : State) (x m n : Nat) : (s.spendLink x m n).ctxs = s.ctxs := (s.spendLink_serving x m n).ctxs

theorem State.serveLine_samePre (s : State) (j : RemoteJob) (key l x : Nat) : SamePre x s (s.serveLine j key l) := by
  have htouch := s.touchLines_ctxs j.part.write (remoteLine j.part l).1 (remoteLine j.part l).2
  unfold State.serveLine
  dsimp only
  split
  next u hu =>
    rw [hu] at htouch
    exact (SamePre.of_ctxs htouch).trans (u.endRemote_samePre ..)
  next u hu =>
    rw [hu] at htouch
    refine (SamePre.of_ctxs htouch).trans (.of_ctxs ?_)
    cases j.part.write
    · exact State.spendLink_ctxs ..
    · exact (congrArg State.ctxs (State.sysPut_only ..)).trans rfl

theorem State.stepRemote_samePre (s : State) (j : RemoteJob) (x : Nat) : SamePre x s (s.stepRemote j) := by
  unfold State.stepRemote
  split
  · exact s.endRemote_samePre ..
  · exact s.endRemote_samePre ..
  · split
    · exact s.endRemote_samePre ..
    · exact s.serveLine_samePre ..

theorem State.serveFor_samePre (x n : Nat) (s : State) : SamePre x s (s.serveFor n) := by
  induction n generalizing s with
  | zero => exact .refl x s
  | succ n ih =>
    unfold State.serveFor
    split
    · exact .refl x s
    · exact (s.stepRemote_samePre ..).trans (ih _)

theorem State.preDone_ctx {s : State} {x : Nat} (hx : x < 16) (status : Nat) :
    (s.preDone x status).ctx x = { s.ctx x with preCore := none, retry := false, unbooked := [] } := by
  unfold State.preDone
  dsimp only
  split
  · rw [State.mailDone_ctx, State.ctx_modCtx hx]
  · rw [State.ctx_modCtx hx]

theorem State.spillCtx_pre {s : State} {x : Nat} (hx : x < 16) :
    ((s.spillCtx x).ctx x).pre = .spilled ∨ ((s.spillCtx x).ctx x).pre = .spillFault := by
  unfold State.spillCtx
  dsimp only
  split
  · rw [State.preDone_ctx hx, State.ctx_send, State.ctx_modCtx hx]
    exact .inr rfl
  · rw [State.preDone_ctx hx, State.ctx_send, State.ctx_modCtx hx]
    exact .inl rfl

/-- The parts that go on when a context's windows are closed leave it as it is. -/
theorem State.serveHeld_modCtx {s : State} {x : Nat} (hx : x < 16) (f : Ctx → Ctx) :
    let t := ((s.modCtx x f).invalidate none x none true).serveHeld
    (t.ctx x).pre = (f (s.ctx x)).pre ∧ (t.ctx x).key = (f (s.ctx x)).key := by
  intro t
  have ht : SamePre x (s.modCtx x f) t := SamePre.trans (.of_ctxs rfl) (State.serveFor_samePre ..)
  rwa [SamePre, State.ctx_modCtx hx] at ht

theorem State.beginDeath_pre {s : State} {x : Nat} (hx : x < 16) :
    ∃ i key es ws, ((s.beginDeath x).ctx x).pre = .dying i key es ws ∧ ((s.beginDeath x).ctx x).key = 0 :=
  ⟨_, _, _, _, State.serveHeld_modCtx hx _⟩

theorem State.endDeath_pre {s : State} {x : Nat} (hx : x < 16) :
    ((s.endDeath x).ctx x).pre = .none ∧ ((s.endDeath x).ctx x).live = false := by
  unfold State.endDeath
  rw [State.preDone_ctx hx, State.ctx_send, State.ctx_modCtx hx]
  exact ⟨rfl, rfl⟩

/-! ## Patrol scrub (R257) and barrier trees (R267) -/

theorem line_page (a : Nat) : 64 * a / 64 = a ∧ 64 * a / 65536 = a / 1024 := by omega

theorem State.tierTouch_hard {s : State} {a : Nat} (hp : s.poison.contains (a / 1024) = false) (hh : (mget s.hard a).isSome = true) :
    a / 1024 ∈ (s.tierTouch (64 * a)).1.poison := by
  obtain ⟨hline, hpage⟩ := line_page a
  simp only [State.tierTouch, hline, hpage, hp, hh, Bool.false_eq_true, if_false, if_true]
  exact mem_ins_self ..

theorem State.countSoft_modCtrl (s : State) {c : Nat} (hc : c < 24) (lo n : Nat) (l : List (Nat × Nat)) (f : Ctrl → Ctrl) :
    let t := { s.count lo n with soft := l }.modCtrl c f
    t.soft = l ∧ t.tier = s.tier ∧ t.ctrl c = f (s.ctrl c) :=
  ⟨rfl, rfl, State.ctrl_modCtrl hc f⟩

theorem State.tierTouch_soft {s : State} {a : Nat} (hp : s.poison.contains (a / 1024) = false) (hh : mget s.hard a = none)
    (hs : (mget s.soft a).isSome = true) :
    let t := (s.tierTouch (64 * a)).1
    mget t.soft a = none ∧ t.tier = s.tier ∧
      (t.ctrl (colour (a / 1024))).corrected = (s.ctrl (colour (a / 1024))).corrected + 1 := by
  obtain ⟨hline, hpage⟩ := line_page a
  simp only [State.tierTouch, hline, hpage, hp, hh, hs, Bool.false_eq_true, if_false, if_true, Option.isSome_none]
  obtain ⟨hsoft, htier, hctrl⟩ :=
    s.countSoft_modCtrl (colour_lt (a / 1024)) 16 16 (mdel s.soft a) fun c => { c with corrected := c.corrected + 1 }
  exact ⟨(congrArg (mget · a) hsoft).trans (mget_mdel_same ..), htier, congrArg Ctrl.corrected hctrl⟩

theorem getLsbD_clear {n k : Nat} (hn : n < 2) (hk : k < 2) (x : BitVec 2) :
    (x &&& ~~~(1#2 <<< k)).getLsbD n = (x.getLsbD n && n != k) := by
  obtain rfl | rfl : n = 0 ∨ n = 1 := by omega
  all_goals obtain rfl | rfl : k = 0 ∨ k = 1 := by omega
  all_goals simp

/-- A tree that is no longer heard is left, and leaves the others (R267). -/
theorem Die.treesIn_clear {k : Nat} (hk : k < 2) (y : Die) (o : List (Nat × Nat)) :
    ({ y with trees := y.trees &&& ~~~(1#2 <<< k), odd := o } : Die).treesIn = y.treesIn.filter (· != k) := by
  simp only [Die.treesIn, List.filter_filter]
  refine List.filter_congr fun n hn => ?_
  rw [getLsbD_clear (by simp at hn; omega) hk, Bool.and_comm]

theorem exec_barrierTreeDisagree {s : State} {d tree : Nat} (hd : d < 4) (ho : (s.die d).odd.any (·.1 == tree) = true) :
    exec (.barrierTreeDisagree d tree) s = .next ((s.modDie d fun y =>
      { y with trees := y.trees &&& ~~~(1#2 <<< tree), odd := y.odd.filter (·.1 != tree) }).send (.logTree d tree)) := by
  simp only [exec, execBarrierTreeDisagree, ho, Nat.not_le.2 hd, Bool.not_true, Bool.false_eq_true, or_self, if_false]

theorem barrierTree_left {s : State} {d tree : Nat} (hd : d < 4) (ht : tree < 2) (ho : (s.die d).odd.any (·.1 == tree) = true) :
    ∃ t, exec (.barrierTreeDisagree d tree) s = .next t ∧ (t.die d).treesIn = (s.die d).treesIn.filter (· != tree) ∧
      (t.die d).odd.any (·.1 == tree) = false ∧ t.sent = .logTree d tree :: s.sent := by
  refine ⟨_, exec_barrierTreeDisagree hd ho, ?_⟩
  rw [State.die_send, State.die_modDie hd]
  exact ⟨Die.treesIn_clear ht _ _, by simp [List.any_filter], rfl⟩

end Sys2Proof.Machine

namespace Sys2Proof.Proofs
open Sys2Proof.Machine

/-- Settles O49: remote parts, links, host requests, rings, spills, scrub and barrier trees. -/
theorem linksAndHost : Obligations.LinksAndHost := by
  refine ⟨remotePartsArrive_holds, linksMove_holds, fun s p k a x n d hp hk hx hn hd =>
    ⟨⟨_, rfl, rfl⟩, serviceWatchdog_clears hk s,
      fun pa m rest hq => ⟨hostRead_outside hk hq, fun hr hs hh => hostRead_answers hk hq hr ⟨hs, hh⟩⟩,
      ⟨fun hon hok hnew => ⟨tailUpdate_tells hx hn hok hon hnew, tailUpdate_waits hx hn hok hon hnew⟩,
        fun hexp hok => coalescingTimer_tells hx hn hok hexp⟩,
      fun hdue => ⟨fun y hy => ?spills, fun q y hy => ?dies, fun y key es ws hy => ?dead⟩,
      fun hp hh => ⟨_, rfl, State.tierTouch_hard hp hh⟩, fun hp hh hs => ⟨_, rfl, State.tierTouch_soft hp hh hs⟩,
      fun tree ht => ⟨barrierTree_left hd ht, fun ho => ?heard⟩⟩⟩
  case spills => exact ⟨s.spillCtx x, by simp [exec, execSpill, hdue, hy], State.spillCtx_pre hx⟩
  case dies =>
    obtain ⟨i, key, es, ws, h⟩ := State.beginDeath_pre (s := s) hx
    exact ⟨s.beginDeath x, i, key, es, ws, by simp [exec, execSpill, hdue, hy], h⟩
  case dead => exact ⟨s.endDeath x, by simp [exec, execSpill, hdue, hy], State.endDeath_pre hx⟩
  case heard => simp [exec, execBarrierTreeDisagree, ho]

end Sys2Proof.Proofs
end

section
/-!
The issue of copies, walks and their permits (R42, R49, R51, R53, R56, R138, R301–R303, R306, R307): what the word that passes its checks
leaves of the state, and which trap a failing check raises.
-/
namespace Sys2Proof.Machine

theorem fieldAddr_eq (x : Word) : fieldAddr x = x.toNat % 2 ^ 22 := by simp [fieldAddr, wbits, bits]

/-- The verdict cycle of a form does not decide whether its word executes (R212). -/
theorem Env.runs_verdictAt (e : Env) (m : Bool) (f : Form) (n : Nat) (commit : Bool) (uses : List Touch) :
    e.runs m (f.verdictAt n) commit uses = e.runs m f commit uses := (rfl)

/-- The checks before a descriptor is read, with one that fails (R290). -/
theorem firstTrip_portA {t : Tile} {r : Run} {f n al : Nat} {y : Trip} (h : portACheck t r f n al = some y) :
    firstTrip [portACheck t r f n al, poisonCheck t f n] = some y := by rw [h, firstTrip]

/-- The same checks where all pass (R65, R290). -/
theorem firstTrip_readable {t : Tile} {r : Run} {f n al : Nat} (h : portACheck t r f n al = none) (hd : t.isDead f n = false) :
    firstTrip [portACheck t r f n al, poisonCheck t f n] = none := by simp [h, poisonCheck, hd, failIf, firstTrip]

/-! ## The tile of a word that reads a descriptor -/

/-- Setting in-flight bits changes nothing else of a tile (R48). -/
theorem Tile.setFlight_only (t : Tile) (i f n : Nat) : ∃ l, t.setFlight i f n = { t with field := { t.field with flight := l } } := by
  unfold Tile.setFlight
  split
  · exact ⟨t.field.flight, rfl⟩
  · exact ⟨_, rfl⟩

theorem Tile.setFlights_only (i n : Nat) (fs : List Nat) (t : Tile) :
    ∃ l, fs.foldl (fun t f => t.setFlight i f n) t = { t with field := { t.field with flight := l } } := by
  induction fs generalizing t with
  | nil => exact ⟨t.field.flight, rfl⟩
  | cons f fs ih =>
    obtain ⟨l, hl⟩ := t.setFlight_only i f n
    obtain ⟨l', hl'⟩ := ih (t.setFlight i f n)
    exact ⟨l', by rw [List.foldl_cons, hl', hl]⟩

theorem SameCore.tile {s t : State} (h : SameCore s t) (k : Nat) : t.tile k = s.tile k := State.tile_congr h.1 k

theorem SameTileMemory.cget {x y : Tile} (h : SameTileMemory x y) (n : Nat) : y.cget n = x.cget n :=
  (congrArg (Tile.cget · n) h).trans rfl

theorem SameTileMemory.field {x y : Tile} (h : SameTileMemory x y) : y.field = x.field := (congrArg Tile.field h).trans rfl

theorem SameTileMemory.sb {x y : Tile} (h : SameTileMemory x y) : y.sb = x.sb := (congrArg Tile.sb h).trans rfl

/-- Tile `y` is tile `x` with completion register c pending: its field store holds the bytes it held, its buffer the stores (R138). -/
def PendingTile (c : Nat) (x y : Tile) : Prop := y.cget c = cval 1 0 0 ∧ y.field.mem = x.field.mem ∧ y.sb = x.sb

/-- `s` with an operation that tile `k` has forked: it stands under the next number, its register is pending, and the memories are as they
were (R138). -/
structure Forked (k : Nat) (o : Op) (s t : State) : Prop where
  op : mget t.ops s.seq = some o
  tier : t.tier = s.tier
  host : t.host = s.host
  tile : PendingTile o.creg (s.tile k) (t.tile k)

/-- The word that forked an operation retires without more (R86). -/
theorem Forked.retire {k : Nat} {o : Op} {s t : State} (h : Forked k o s t) (σ : Side) (jump : Option (Word × Bool)) (cost : Nat)
    (due : Option Nat) : Forked k o s (t.retire k σ jump cost due) := by
  have same := t.retire_memory k σ jump cost due
  obtain ⟨hpend, hmem, hsb⟩ := h.tile
  refine ⟨?_, ?_, ?_, ?_, ?_, ?_⟩
  · rw [(t.retire_elsewhere k σ jump cost due).ops]; exact h.op
  · exact (congrArg FarMem.tier (t.retire_far k σ jump cost due)).trans h.tier
  · exact (congrArg FarMem.host (t.retire_far k σ jump cost due)).trans h.host
  · rw [same.cget, hpend]
  · rw [same.field, hmem]
  · rw [same.sb, hsb]

/-- The tile of an operation that is forked: the A-core has read its descriptor at `da`, its register is pending and the granules of its
field ranges are in flight (R138, R302). -/
def Tile.fork (t : Tile) (da bytes : Nat) (flight : List Nat) (o : Op) : Tile :=
  flight.foldl (fun t f => t.setFlight o.seq f o.length) ((t.useBanks o.issue (banksOf da bytes) false).cset o.creg (cval 1 0 0))

theorem Tile.fork_pending (t : Tile) (da bytes : Nat) (flight : List Nat) {o : Op} (hc : o.creg < 8) :
    PendingTile o.creg t (t.fork da bytes flight o) := by
  obtain ⟨l, hl⟩ := Tile.setFlights_only o.seq o.length flight
    ((t.useBanks o.issue (banksOf da bytes) false).cset o.creg (cval 1 0 0))
  rw [Tile.fork, hl]
  exact ⟨Tile.cget_cset hc _, rfl, rfl⟩

/-- An operation forked under its number after its descriptor has been read. -/
def State.fork (s : State) (k da bytes : Nat) (flight : List Nat) (o : Op) : State :=
  let s := (s.repair k da bytes).modTile k (·.fork da bytes flight o)
  { s with ops := mput s.ops o.seq o, seq := s.seq + 1 }

theorem State.fork_tile (s : State) (k da bytes : Nat) (flight : List Nat) (o : Op) :
    (s.fork k da bytes flight o).tile k = ((s.repair k da bytes).tile k).fork da bytes flight o :=
  (State.tile_congr rfl k).trans (State.tile_modTile (s.repair k da bytes) k (·.fork da bytes flight o))

/-- Forking changes nothing of its tile but the register, the in-flight bits, the marks of errors, and the banks' uses. -/
theorem State.fork_pending (s : State) (k da bytes : Nat) (flight : List Nat) {o : Op} (hc : o.creg < 8) :
    PendingTile o.creg (s.tile k) ((s.fork k da bytes flight o).tile k) := by
  obtain ⟨-, w, d, hrep⟩ := s.repair_cases k da bytes
  obtain ⟨hpend, hmem, hsb⟩ := ((s.repair k da bytes).tile k).fork_pending da bytes flight hc
  rw [State.fork_tile]
  exact ⟨hpend, by rw [hmem, hrep], by rw [hsb, hrep]⟩

theorem State.fork_forked {s u : State} (h : SameCore s u) {k : Nat} (da bytes : Nat) (flight : List Nat) {o : Op} (hc : o.creg < 8)
    (hs : o.seq = s.seq) : Forked k o s (u.fork k da bytes flight o) := by
  have hfar := u.repair_far k da bytes
  have hu := h.tile k
  obtain ⟨-, htier, hhost, -⟩ := h
  refine ⟨hs ▸ mget_mput_same .., ?_, ?_, ?_⟩
  · exact (congrArg FarMem.tier hfar).trans htier
  · exact (congrArg FarMem.host hfar).trans hhost
  · rw [← hu]; exact u.fork_pending k da bytes flight hc

/-! ## Copies (R42, R301, R302) -/

/-- The copy descriptor that the A-core reads at `da` (R41). -/
def Env.copyDesc (e : Env) (da : Nat) : CopyDesc :=
  let v := e.t.fieldRead true e.now da 32
  { w0 := wordAt v 0, w1 := wordAt v 1, w2 := wordAt v 2, w3 := wordAt v 3 }

section
variable {s : State} {e : Env} {m : Bool} {f : Form} {k : CopyKind} {c : BitVec 3} {a : BitVec 4} {da : Nat} {y : Trip}
  (hf : s.focus = some e) (hp : e.pipeTaken = false) (hr : e.runs m f true [tS a.toNat] = true)
  (hda : da = (e.r.sget a.toNat).toNat % 2 ^ 22)
include hf hp hr hda

/-- A descriptor that the A-core may not read traps (R301). -/
theorem execCopy_unreadable (h : portACheck e.t e.run da 32 32 = some y) : execCopy k f m c a s = .next (e.trap y (e.now + 14)) := by
  subst hda
  refine (issue_runs hf ((e.runs_verdictAt m f 14 true _).trans hr)).trans ?_
  simp only [hp, fieldAddr_eq, firstTrip_portA h, Bool.false_eq_true, if_false, Env.apply_trap]

/-- A copy whose descriptor can be read and whose checks pass starts (R42, R302). -/
theorem execCopy_starts (h : portACheck e.t e.run da 32 32 = none) (hd : e.t.isDead da 32 = false)
    (ht : e.copyTrip k c.toNat (e.copyDesc da) = none) :
    execCopy k f m c a s = .next (e.apply (e.startCopy k c.toNat da (e.copyDesc da))) := by
  subst hda
  rw [Env.copyDesc] at *
  refine (issue_runs hf ((e.runs_verdictAt m f 14 true _).trans hr)).trans ?_
  simp only [hp, fieldAddr_eq, firstTrip_readable h hd, ht, Bool.false_eq_true, if_false]

/-- A copy whose descriptor can be read and fails a check (R42, R301). -/
theorem execCopy_fails (h : portACheck e.t e.run da 32 32 = none) (hd : e.t.isDead da 32 = false)
    (ht : e.copyTrip k c.toNat (e.copyDesc da) = some y) : execCopy k f m c a s = .next (e.apply (e.failCopy k (e.copyDesc da) y)) := by
  subst hda
  rw [Env.copyDesc] at *
  refine (issue_runs hf ((e.runs_verdictAt m f 14 true _).trans hr)).trans ?_
  simp only [hp, fieldAddr_eq, firstTrip_readable h hd, ht, Bool.false_eq_true, if_false]

end

/-- Reading a frame's page list changes no tile, no operation and no memory (R50, R194). -/
theorem State.rowParts_same (s : State) (d x : Nat) (h list : Word) (q first n : Nat) : SameCore s (s.rowParts d x h list q first n).1 := by
  refine foldl_rel (R := fun a b : State × List Part => SameCore a.1 b.1) (fun a => .refl a.1) .trans (fun a i => ?_) _ (s, [])
  dsimp only
  split <;> exact rel_of_fst ‹_› (State.vaRead_same (by decide) ..)

theorem Env.copyParts_same (e : Env) (k : CopyKind) (x : CopyDesc) : SameCore e.s (e.copyParts k x).1 := by
  cases k with
  | cpyf => exact (State.rowParts_same ..).trans (.refl _)
  | cpy => exact .refl e.s
  | cpyw => exact .refl e.s
  | cpym => exact .refl e.s

/-- A copy's operation with its parts, which the frame of a CPYF gives (R43, R50). -/
def Env.copyWhole (e : Env) (k : CopyKind) (c : Nat) (x : CopyDesc) : Op :=
  let y := if x.length = 0 then (e.s, [], none) else e.copyParts k x
  { e.copyOp k c x with parts := y.2.1, frame := y.2.2 }

/-- A copy whose checks pass forks its operation and returns its verdict at issue + 14 (R138, R302). -/
theorem Env.startCopy_fork (e : Env) (k : CopyKind) (c da : Nat) (x : CopyDesc) : e.startCopy k c da x = .done
    ((if x.length = 0 then (e.s, [], none) else e.copyParts k x).1.fork e.k da 32 (x.flight k) (e.copyWhole k c x)) none 1
      (some (e.now + 14)) := (rfl)

theorem Env.startCopy_forked (e : Env) (k : CopyKind) {c : Nat} (hc : c < 8) (da : Nat) (x : CopyDesc) :
    Forked e.k (e.copyWhole k c x) e.s (e.apply (e.startCopy k c da x)) := by
  rw [Env.startCopy_fork, Env.apply_done]
  refine Forked.retire (State.fork_forked ?_ da 32 (x.flight k) hc rfl) ..
  split
  · exact .refl e.s
  · exact e.copyParts_same k x

end Sys2Proof.Machine

namespace Sys2Proof.Proofs
open Sys2Proof.Machine

/-- The four copies have one meaning, which their descriptor's kind tells apart. -/
theorem copies_holds {k : CopyKind} {f : Form} {i : Bool → BitVec 3 → BitVec 4 → Instr}
    (hexec : ∀ m c a s, exec (i m c a) s = execCopy k f m c a s) : Sys2Proof.copies k f i := by
  intro s e m c a hf hp hr da v x
  obtain ⟨rfl, -, ht, -, -, hnow, -⟩ := State.focus_some hf
  refine ⟨fun hport hdead htrip => ?_, fun y hport => ?_, fun y hport hdead htrip => ?_⟩
  · have forked := e.startCopy_forked k c.isLt da x
    obtain ⟨hpend, hmem, hsb⟩ := forked.tile
    have hrun := (hexec m c a e.s).trans (execCopy_starts (f := f) hf hp hr rfl hport hdead htrip)
    rw [← ht] at hmem hsb
    exact ⟨_, _, hrun, hpend, forked.op, rfl, rfl, rfl, rfl, rfl, rfl, hnow, forked.tier, forked.host, hmem, hsb⟩
  · rw [hexec, execCopy_unreadable hf hp hr rfl hport]
  · have hrun : exec (i m c a) e.s = .next (e.apply (e.failCopy k x y)) :=
      (hexec m c a e.s).trans (execCopy_fails hf hp hr rfl hport hdead htrip)
    exact ⟨fun hill => by rw [hrun, Env.failCopy, if_pos hill, Env.apply_trap], fun hill => by rw [hrun, Env.failCopy, hill]; rfl⟩

/-- Settles O22: each copy word is the one meaning of copies with its own kind. -/
theorem copiesFork : Obligations.CopiesFork :=
  ⟨copies_holds fun _ _ _ _ => rfl, copies_holds fun _ _ _ _ => rfl, copies_holds fun _ _ _ _ => rfl, copies_holds fun _ _ _ _ => rfl⟩

end Sys2Proof.Proofs
end

section
/-!
The issue of cancellations, walks and permits (R51, R53, R56, R303, R306, R307): a word for each case of its checks.
-/
namespace Sys2Proof.Machine

/-! ## Cancellations (R56, R303) -/

section
variable {e : Env} {m : Bool} {c : BitVec 3} (hf : e.s.focus = some e) (hr : e.runs m formZ.aOnly true [] = true)
include hf hr

/-- The operation that a register waits for is cancelled. -/
theorem exec_cpyx_pending {i : Nat} {o : Op} (h : e.s.pendingOp e.k c.toNat = some (i, o)) :
    exec (.cpyx m c) e.s = .next (e.retired { e.s with ops := mput e.s.ops i o.cancelled } none 1 none) := by
  refine (issue_runs hf hr).trans ?_
  simp only [h]
  rfl

/-- A cancellation without such an operation has no effect. -/
theorem exec_cpyx_idle (h : e.s.pendingOp e.k c.toNat = none) : exec (.cpyx m c) e.s = .next (e.retired e.s none 1 none) := by
  refine (issue_runs hf hr).trans ?_
  simp only [h]
  rfl

end

/-! ## Walks (R51, R306) -/

/-- The walk descriptor that the A-core reads at `da` (R51). -/
def Env.walkDesc (e : Env) (da : Nat) : WalkDesc := { w := Vector.ofFn fun i => wordAt (e.t.fieldRead true e.now da 64) i.val }

/-- A walk's operation as its HWALK forks it: queued, with no slot touched (R51, R306). -/
def Env.walkOp (e : Env) (c : Nat) (x : WalkDesc) : Op :=
  { e.newOp .hwalk c with
    desc := x.w.toList, length := x.tileBytes * x.tiles, src := x.base, dst := x.ring, members := e.walkMembers x
    walk := some { running := false, next := 0, permits := [], early := [], begun := [], busy := [], left := x.tiles, gens := [] } }

section
variable {e : Env} {m : Bool} {c : BitVec 3} {a : BitVec 4} (hf : e.s.focus = some e)
  (hr : e.runs m formZ.aOnly true [tS a.toNat] = true)
include hf hr

/-- A walk of a task that has not booked its harrow traps (R306). -/
theorem exec_hwalk_unbooked (h : e.run.mask.getLsbD 6 = false) :
    exec (.hwalk m c a) e.s = .next (e.trap (trip codeBookShape) (e.now + 14)) := by
  refine (issue_runs hf ((e.runs_verdictAt m formZ.aOnly 14 true _).trans hr)).trans ?_
  simp only [h, Bool.not_false, if_true, Env.apply_trap]

/-- A walk whose checks pass is forked, with no granule in flight until a tile starts (R306). -/
theorem exec_hwalk_starts (hp : e.pipeTaken = false) (h : e.run.mask.getLsbD 6 = true) (hroom : (e.s.walksOf e.k).length < 4) {da : Nat}
    (hda : da = (e.r.sget a.toNat).toNat % 2 ^ 22) (hport : portACheck e.t e.run da 64 64 = none) (hd : e.t.isDead da 64 = false)
    (ht : e.walkTrip c.toNat (e.walkDesc da) = none) :
    exec (.hwalk m c a) e.s = .next ((e.s.fork e.k da 64 [] (e.walkOp c.toNat (e.walkDesc da))).retire e.k e.σ none 1 (some (e.now + 14))) := by
  subst hda
  rw [Env.walkDesc] at *
  refine (issue_runs hf ((e.runs_verdictAt m formZ.aOnly 14 true _).trans hr)).trans ?_
  simp only [hp, h, hroom.not_ge, fieldAddr_eq, firstTrip_readable hport hd, ht, Bool.not_true, decide_false, Bool.or_self,
    Bool.false_eq_true, if_false]
  rfl

end

/-! ## Permits (R53, R307) -/

section
variable {e : Env} {m : Bool} {d a : BitVec 4} {ring slot : Nat} (hf : e.s.focus = some e)
  (hr : e.runs m formD2.aOnly true [tS (dNum e.pl d), tS (aNum e.pl a)] = true)
include hf hr

/-- A permit of a task that has not booked its harrow traps (R307). -/
theorem exec_hpermit_unbooked (h : e.run.mask.getLsbD 6 = false) : exec (.hpermit m d a) e.s = .next (e.trap (trip codeBookShape) e.now) := by
  refine (issue_runs hf hr).trans ?_
  simp only [h, Bool.not_false, if_true, Env.apply_trap]

variable (h : e.run.mask.getLsbD 6 = true) (hring : ring = (e.r.sget (dNum e.pl d)).toNat % 2 ^ 22)
include h hring

/-- A permit that names no walk has no effect (R307, log entry 20). -/
theorem exec_hpermit_idle (hw : e.s.walkAt e.k ring = none) : exec (.hpermit m d a) e.s = .next (e.retired e.s none 1 none) := by
  subst hring
  refine (issue_runs hf hr).trans ?_
  simp only [h, fieldAddr_eq, hw, Bool.not_true, Bool.false_eq_true, if_false, Env.apply_done, Env.retired_eq]

variable {i : Nat} {o : Op} (hw : e.s.walkAt e.k ring = some (i, o)) (hslot : slot = (e.r.sget (aNum e.pl a)).toNat)
  (hin : slot < o.walkDesc.slots)
include hw hslot hin

/-- A permit for a slot of a running walk is given at once (R53). -/
theorem exec_hpermit_running (hrun : o.walk.any (·.running) = true) :
    exec (.hpermit m d a) e.s = .next (e.retired (e.s.permit i e.k slot) none 1 none) := by
  subst hring hslot
  refine (issue_runs hf hr).trans ?_
  simp only [h, fieldAddr_eq, hw, hin.not_ge, hrun, Bool.not_true, Bool.false_eq_true, if_false, if_true, Env.apply_done, Env.retired_eq]

/-- A permit for a slot of a queued walk waits for the walk's start (R53). -/
theorem exec_hpermit_queued (hrun : o.walk.any (·.running) = false) :
    exec (.hpermit m d a) e.s = .next (e.retired
      { e.s with ops := mput e.s.ops i { o with walk := o.walk.map fun w => { w with early := w.early ++ [slotKey slot e.k] } } } none 1 none) := by
  subst hring hslot
  refine (issue_runs hf hr).trans ?_
  simp only [h, fieldAddr_eq, hw, hin.not_ge, hrun, Bool.not_true, Bool.false_eq_true, if_false, Env.apply_done, Env.retired_eq]

end

end Sys2Proof.Machine

namespace Sys2Proof.Proofs
open Sys2Proof.Machine

/-- Settles O23: a cancellation, a walk's issue and a permit, each from its case of the checks. -/
theorem walksAndCancels : Obligations.WalksAndCancels := by
  intro s e m c d a hf hp da v x
  obtain ⟨rfl, -⟩ := State.focus_some hf
  refine ⟨fun hr => ⟨fun i o h => exec_cpyx_pending hf hr h, fun h => exec_cpyx_idle hf hr h⟩,
    fun hr => ⟨fun h => exec_hwalk_unbooked hf hr h, fun h hroom hport hdead htrip => ?_⟩,
    fun hr => ⟨fun h => exec_hpermit_unbooked hf hr h, fun h hw => exec_hpermit_idle hf hr h rfl hw, fun i o h hw hin => ?_⟩⟩
  · have forked : Forked e.k (e.walkOp c.toNat x) e.s _ :=
      (State.fork_forked (.refl e.s) da 64 [] c.isLt rfl).retire e.σ none 1 (some (e.now + 14))
    exact ⟨_, _, exec_hwalk_starts hf hr hp h hroom rfl hport hdead htrip, forked.tile.1, forked.op, rfl, rfl, rfl, rfl, rfl, rfl⟩
  · cases hrun : o.walk.any (·.running) with
    | true => exact exec_hpermit_running hf hr h rfl hw rfl hin hrun
    | false => exact exec_hpermit_queued hf hr h rfl hw rfl hin hrun

end Sys2Proof.Proofs
end

section
/-!
The moves of Harrow walks (R53, R65, R307): what a walk's start, the start of a tile and the end of a drain leave of the walk and of its members'
slots.
-/
namespace Sys2Proof.Machine

/-! ## Moves of one tile -/

/-- A move changes tile `k` by `g`; the other tiles and the cycle stay as they were. -/
def TileMove (k : Nat) (g : Tile → Tile) (s t : State) : Prop :=
  t.tile k = g (s.tile k) ∧ (∀ j, j ≠ k → t.tile j = s.tile j) ∧ t.cycle = s.cycle

theorem TileMove.none {k : Nat} {s t : State} (h : t.tiles = s.tiles) (hc : t.cycle = s.cycle) : TileMove k id s t :=
  ⟨State.tile_congr h k, fun j _ => State.tile_congr h j, hc⟩

theorem TileMove.trans {k : Nat} {f g : Tile → Tile} {s t u : State} (h : TileMove k f s t) (i : TileMove k g t u) :
    TileMove k (g ∘ f) s u := by
  obtain ⟨ht, hne, hc⟩ := h
  obtain ⟨iu, ine, ic⟩ := i
  exact ⟨by rw [iu, ht, Function.comp_apply], fun j hj => (ine j hj).trans (hne j hj), ic.trans hc⟩

theorem State.modTile_move (s : State) (k : Nat) (f : Tile → Tile) : TileMove k f s (s.modTile k f) :=
  ⟨s.tile_modTile k f, fun _ hj => s.tile_modTile_ne f hj, rfl⟩

section
variable {F : State → Nat → State} {g : Nat → Tile → Tile} (hF : ∀ s k, TileMove k (g s.cycle) s (F s k))
include hF

/-- Moves of other tiles leave a tile as it is. -/
theorem foldl_tileMove_ne {k : Nat} {l : List Nat} (hk : k ∉ l) (s : State) : (l.foldl F s).tile k = s.tile k := by
  induction l generalizing s with
  | nil => rfl
  | cons a l ih =>
    obtain ⟨ha, hl⟩ := not_or.1 (mt List.mem_cons.2 hk)
    exact (ih hl _).trans ((hF s a).2.1 k ha)

/-- The same move of each tile of a list without repeats is to each tile what the move of that tile alone is. -/
theorem foldl_tileMove {k : Nat} {l : List Nat} (hl : l.Nodup) (hk : k ∈ l) (s : State) :
    (l.foldl F s).tile k = g s.cycle (s.tile k) := by
  induction l generalizing s with
  | nil => simp at hk
  | cons a l ih =>
    obtain ⟨ha, hl⟩ := List.nodup_cons.1 hl
    obtain ⟨htile, hne, hc⟩ := hF s a
    obtain rfl | hk := List.mem_cons.1 hk
    · exact (foldl_tileMove_ne hF ha _).trans htile
    · rw [List.foldl_cons, ih hl hk, hc, hne k fun h => ha (h ▸ hk)]

end

/-! ## Headers (R53, R65) -/

/-- A tile after a read of [f, f + n) has repaired what it can (R65). -/
def Tile.repaired (t : Tile) (f n : Nat) : Tile :=
  { t with field := { t.field with worn := t.field.worn.filter fun g => !(t.repairs f n).contains g
                                   dead := t.field.dead.filter fun g => !(t.repairs f n).contains g } }

theorem Tile.repaired_of_isEmpty {t : Tile} {f n : Nat} (h : (t.repairs f n).isEmpty = true) : t.repaired f n = t := by
  simp [Tile.repaired, List.isEmpty_iff.1 h]

theorem State.repair_move (s : State) (k f n : Nat) : TileMove k (·.repaired f n) s (s.repair k f n) := by
  obtain ⟨⟨hne, heq⟩, -⟩ := s.repair_cases k f n
  refine ⟨?_, hne, SameElsewhere.cycle ⟨hne, heq⟩⟩
  unfold State.repair
  dsimp only
  split
  · exact (Tile.repaired_of_isEmpty ‹_›).symm
  · exact State.tile_setTile ..

/-- A tile whose slot header at `a` has been changed by `f`, unless its granule cannot be rebuilt (R65). -/
def Tile.onHeader (t : Tile) (a : Nat) (f : Tile → Tile) : Tile := if t.lost (a / 32) then t else f (t.repaired a 16)

theorem State.failHeader_tiles (s : State) (i : Nat) : (s.failHeader i).tiles = s.tiles := by
  unfold State.failHeader; split <;> rfl

theorem State.failHeader_cycle (s : State) (i : Nat) : (s.failHeader i).cycle = s.cycle := by
  unfold State.failHeader; split <;> rfl

theorem State.onHeader_move (s : State) (i k a : Nat) (f : Tile → Tile) : TileMove k (·.onHeader a f) s (s.onHeader i k a f) := by
  unfold State.onHeader
  split
  next hlost =>
    obtain ⟨htile, hne, hc⟩ := TileMove.none (k := k) (s.failHeader_tiles i) (s.failHeader_cycle i)
    exact ⟨htile.trans (if_pos hlost).symm, hne, hc⟩
  next hlost =>
    obtain ⟨htile, hne, hc⟩ := (s.repair_move k a 16).trans (State.modTile_move _ k f)
    exact ⟨htile.trans (if_neg hlost).symm, hne, hc⟩

/-- A header whose granule cannot be rebuilt is not written: the operation fails (R65). -/
theorem State.onHeader_lost {s : State} {k a : Nat} (h : (s.tile k).lost (a / 32) = true) (i : Nat) (f : Tile → Tile) :
    s.onHeader i k a f = s.failHeader i := if_pos h

/-- A header that can be read is written, and no operation changes. -/
theorem State.onHeader_ops {s : State} {k a : Nat} (h : (s.tile k).lost (a / 32) = false) (i : Nat) (f : Tile → Tile) :
    (s.onHeader i k a f).ops = s.ops := by
  rw [State.onHeader, h, if_neg Bool.false_ne_true, State.modTile_ops, (s.repair_cases k a 16).1.ops]

/-- A tile with every slot header of a walk written (R53). -/
def Tile.writeHeaders (t : Tile) (x : WalkDesc) (now : Nat) : Tile :=
  (List.range x.slots).foldl (fun t q => t.onHeader (x.slotAt q) fun t => t.writeHeader x now (x.slotAt q)) t

theorem State.writeHeaders_move (s : State) (i m : Nat) (x : WalkDesc) : TileMove m (·.writeHeaders x s.cycle) s (s.writeHeaders i m x) := by
  unfold State.writeHeaders Tile.writeHeaders
  induction List.range x.slots generalizing s with
  | nil => exact .none rfl rfl
  | cons q l ih =>
    have first := s.onHeader_move i m (x.slotAt q) fun t => t.writeHeader x s.cycle (x.slotAt q)
    have rest := ih (s.onHeader i m (x.slotAt q) fun t => t.writeHeader x s.cycle (x.slotAt q))
    rw [first.2.2] at rest
    exact first.trans rest

/-- A header that cannot be rebuilt fails the operation with kind 3 in a part of its own, at the address of the first part (R65). -/
theorem State.failHeader_op {s : State} {i : Nat} {o : Op} (h : mget s.ops i = some o) :
    ∃ va, mget (s.failHeader i).ops i = some { o with
      parts := o.parts ++ [{ Part.new va 0 0 false with phase := .failed 3 (w64 va) }] } := by
  simp only [State.failHeader, h, mget_mput_same]
  exact ⟨_, rfl⟩

/-- An operation whose last part has failed has a lowest fault (R34, R45). -/
theorem Op.lowestFault_of_last {o : Op} {l : List Part} {p : Part} {f : Nat × Word} (hl : o.parts = l ++ [p]) (hf : p.faults = [f]) :
    o.lowestFault.isSome = true := by
  simp only [Op.lowestFault, hl, List.flatMap_append, List.flatMap_singleton, hf, List.foldl_append, List.foldl_cons, List.foldl_nil]
  split
  · rfl
  · split <;> rfl

/-! ## A walk starts (R53, R307) -/

/-- A walk that starts: a fetch walk holds a permit for every slot of every member. -/
def Op.startedWalk (o : Op) (w : Walk) : Walk :=
  { w with
    running := true, early := []
    permits := (if o.walkDesc.back then [] else
      o.members.flatMap fun m => (List.range o.walkDesc.slots).map fun q => slotKey q m).foldl ins []
    left := if o.walkDesc.back then o.walkDesc.tiles * o.members.length else o.walkDesc.tiles }

/-- The state in which walk i has started, with its headers written at every member. -/
def State.walkStarted (s : State) (i : Nat) (o : Op) (w : Walk) : State :=
  let u := o.members.foldl (fun s m => s.writeHeaders i m o.walkDesc) s
  { u with ops := mput u.ops i { (mget u.ops i).getD o with walk := some (o.startedWalk w) } }

theorem exec_harrowWalkStart {s : State} {k i : Nat} {o : Op} {w : Walk} (hn : s.nextWalk k = some (i, o)) (hw : o.walk = some w)
    (he : w.early = []) : exec (.harrowWalkStart k) s = .next (s.walkStarted i o w) := by
  simp only [exec, execHarrowWalkStart, hn, hw, Option.map_some, Option.getD_some, he, List.foldl_nil]
  rfl

theorem State.walkStarted_tile (s : State) (i : Nat) {o : Op} (w : Walk) (hnd : o.members.Nodup) {m : Nat} (hm : m ∈ o.members) :
    (s.walkStarted i o w).tile m = (s.writeHeaders i m o.walkDesc).tile m :=
  (foldl_tileMove (g := fun now t => t.writeHeaders o.walkDesc now) (fun s m => s.writeHeaders_move i m o.walkDesc) hnd hm s).trans
    (s.writeHeaders_move i m o.walkDesc).1.symm

/-! ## A tile starts (R53) -/

/-- A tile whose slot at `f` begins to fill for operation i: its header FILLING, its granules in flight (R53). -/
def Tile.fillSlot (t : Tile) (i : Nat) (x : WalkDesc) (f now : Nat) : Tile := (t.startSlot now f 1).setFlight i (f + 32) x.tileBytes

/-- The same at member m of a walk, after the repair of its header. -/
def State.fillSlot (s : State) (i : Nat) (x : WalkDesc) (f m : Nat) : State := (s.repair m f 16).modTile m (·.fillSlot i x f s.cycle)

theorem State.fillSlot_move (s : State) (i : Nat) (x : WalkDesc) (f m : Nat) :
    TileMove m (fun t => (t.repaired f 16).fillSlot i x f s.cycle) s (s.fillSlot i x f m) := by
  have moved := (s.repair_move m f 16).trans (State.modTile_move (s.repair m f 16) m (·.fillSlot i x f s.cycle))
  exact moved

/-- A walk whose next tile has started (R53). -/
def Op.tileWalk (o : Op) (w : Walk) : Walk :=
  { w with
    next := w.next + 1
    permits := w.permits.filter fun y => !((o.members.map (slotKey (w.next % o.walkDesc.slots) ·)).contains y)
    busy := ins w.busy (w.next % o.walkDesc.slots) }

/-- The operation of a walk whose next tile has started: the tile is a part of its own (R53, R307). -/
def Op.tileStarted (o : Op) (w : Walk) (now : Nat) : Op :=
  { o with
    parts := o.parts ++ [{ Part.new o.walkDesc.base o.walkDesc.tileBytes w.next false with
      phase := .live, accepted := o.members, sent := now }]
    walk := some (o.tileWalk w) }

/-- The slot that the next tile of a walk goes into. -/
def Op.nextSlot (o : Op) (w : Walk) : Nat := o.walkDesc.slotAt (w.next % o.walkDesc.slots)

/-- The state in which the next tile of walk i has started. -/
def State.tileStarted (s : State) (i : Nat) (o : Op) (w : Walk) : State :=
  let u := o.members.foldl (fun s m => s.fillSlot i o.walkDesc (o.nextSlot w) m) s
  { u with ops := mput u.ops i (o.tileStarted w u.cycle) }.post i o.parts.length o.ctx o.members

section
variable {s : State} {k i : Nat} {o : Op} {w : Walk}
  (hready : ((s.walksOf k).find? fun p => p.2.walk.any fun w => s.tileReady p.2 w) = some (i, o)) (hw : o.walk = some w)
include hready hw

theorem exec_harrowTileStart (h : ∀ m ∈ o.members, (s.tile m).lost (o.nextSlot w / 32) = false) :
    exec (.harrowTileStart k) s = .next (s.tileStarted i o w) := by
  have hany : (o.members.any fun m => (s.tile m).lost (o.walkDesc.slotAt (w.next % o.walkDesc.slots) / 32)) = false := by
    simpa [Op.nextSlot] using h
  simp only [exec, execHarrowTileStart, hready, hw, hany, Bool.false_eq_true, if_false]
  rfl

/-- A header that cannot be rebuilt at one member fails the walk (R65). -/
theorem exec_harrowTileStart_lost (h : ∃ m ∈ o.members, (s.tile m).lost (o.nextSlot w / 32) = true) :
    exec (.harrowTileStart k) s = .next (s.failHeader i) := by
  have hany : (o.members.any fun m => (s.tile m).lost (o.walkDesc.slotAt (w.next % o.walkDesc.slots) / 32)) = true := List.any_eq_true.2 h
  simp only [exec, execHarrowTileStart, hready, hw, hany, if_true]

end

theorem State.tileStarted_op (s : State) (i : Nat) (o : Op) (w : Walk) :
    ∃ now, mget (s.tileStarted i o w).ops i = some (o.tileStarted w now) := by
  obtain ⟨msgs, n, h⟩ := State.post_eq _ i o.parts.length o.ctx o.members
  exact ⟨_, by rw [State.tileStarted, h, mget_mput_same]⟩

theorem State.tileStarted_tile (s : State) (i : Nat) {o : Op} (w : Walk) (hnd : o.members.Nodup) {m : Nat} (hm : m ∈ o.members) :
    (s.tileStarted i o w).tile m = (s.fillSlot i o.walkDesc (o.nextSlot w) m).tile m := by
  obtain ⟨msgs, n, h⟩ := State.post_eq _ i o.parts.length o.ctx o.members
  have moved := foldl_tileMove (g := fun now t => (t.repaired (o.nextSlot w) 16).fillSlot i o.walkDesc (o.nextSlot w) now)
    (fun s m => s.fillSlot_move i o.walkDesc (o.nextSlot w) m) hnd hm s
  rw [State.tileStarted, h]
  exact moved.trans (s.fillSlot_move i o.walkDesc (o.nextSlot w) m).1.symm

/-! ## A slot has drained (R53) -/

/-- A walk one of whose slots has finished its tile. -/
def Walk.drained (w : Walk) (y : Nat) : Walk := { w with busy := w.busy.filter (· != y), left := w.left - 1 }

/-- The state in which slot y of walk i has drained, before its header is written. -/
def State.slotFreed (s : State) (i : Nat) (o : Op) (w : Walk) (y : Nat) : State :=
  { s with ops := mput s.ops i { o with walk := some (w.drained y) } }

theorem exec_slotDrained {s : State} {i y : Nat} {o : Op} {w : Walk} (ho : mget s.ops i = some o) (hw : o.walk = some w)
    (hback : o.walkDesc.back = true) (hbusy : w.busy.contains y = true) (hcancel : o.cancel = false) (hspill : o.spilled = false)
    (hover : s.slotOver i o y = true) :
    exec (.slotDrained i y) s = .next ((s.slotFreed i o w y).onHeader i (y / 65536) (o.walkDesc.slotAt (y % 65536))
      fun t => t.setSlot s.cycle (o.walkDesc.slotAt (y % 65536)) 0) := by
  have hdue : (!o.walkDesc.back || !(w.busy.contains y) || o.cancel || o.spilled || !s.slotOver i o y) = false := by
    simp only [hback, hbusy, hcancel, hspill, hover, Bool.not_true, Bool.or_self]
  simp only [exec, execSlotDrained, ho, hw, hdue, Bool.false_eq_true, if_false]
  rfl

theorem State.slotFreed_op (s : State) (i : Nat) (o : Op) (w : Walk) (y : Nat) :
    mget (s.slotFreed i o w y).ops i = some { o with walk := some (w.drained y) } := mget_mput_same ..

end Sys2Proof.Machine

namespace Sys2Proof.Proofs
open Sys2Proof.Machine

/-- Settles O42: a walk's start, a tile's start and a slot's end, each from what its move does to a member's tile. -/
theorem walksRun : Obligations.WalksRun := by
  refine fun s k => ⟨fun i o w hn hw he => ?starts, fun i o w hready hw => ⟨fun h => ?fills, fun ho h => ?fails⟩,
    fun i o w y ho hw hback hbusy hcancel hspill hover => ?drains⟩
  case starts =>
    exact ⟨_, _, exec_harrowWalkStart hn hw he, mget_mput_same .., rfl, fun hnd m hm => s.walkStarted_tile i w hnd hm⟩
  case fills =>
    obtain ⟨now, hq⟩ := s.tileStarted_op i o w
    exact ⟨_, _, _, exec_harrowTileStart hready hw h, hq, rfl, rfl, rfl, by simp [Op.tileStarted], fun hnd m hm =>
      (s.tileStarted_tile i w hnd hm).trans (State.tile_modTile ..)⟩
  case fails =>
    obtain ⟨va, hq⟩ := State.failHeader_op ho
    exact ⟨_, _, exec_harrowTileStart_lost hready hw h, hq, hw, s.failHeader_tiles i, va, rfl⟩
  case drains =>
    intro f m
    have hrun := exec_slotDrained ho hw hback hbusy hcancel hspill hover
    have hop := s.slotFreed_op i o w y
    have htile : ((s.slotFreed i o w y).onHeader i m f fun t => t.setSlot s.cycle f 0).tile m =
        (s.tile m).onHeader f fun t => t.setSlot s.cycle f 0 := ((s.slotFreed i o w y).onHeader_move i m f _).1
    cases hlost : (s.tile m).lost (f / 32) with
    | true =>
      obtain ⟨va, hq⟩ := State.failHeader_op hop
      rw [← State.onHeader_lost (s := s.slotFreed i o w y) hlost i fun t => t.setSlot s.cycle f 0] at hq
      exact ⟨_, _, hrun, hq, rfl, nofun, fun _ => ⟨htile.trans (if_pos hlost), Op.lowestFault_of_last rfl rfl⟩⟩
    | false =>
      have hq := State.onHeader_ops (s := s.slotFreed i o w y) hlost i fun t => t.setSlot s.cycle f 0
      refine ⟨_, _, hrun, hq ▸ hop, rfl, fun _ => ?_, nofun⟩
      rw [htile, Tile.onHeader, hlost, if_neg Bool.false_ne_true, (s.repair_move m f 16).1]

end Sys2Proof.Proofs
end

section
/-!
The store buffer, the walker feeds and the stops of strands (R62, R84, R212, R241): the tile that each of these moves leaves.
-/
namespace Sys2Proof.Machine

/-! ## Drains (R62) -/

/-- A granule's bytes are that granule alone (R59). -/
theorem granules_granule (g : Nat) : granules (32 * g) 32 = [g] := by
  have first : 32 * g / 32 = g := by omega
  have last : (32 * g + 32 - 1) / 32 = g := by omega
  rw [granules, if_neg (by decide), first, last, Nat.sub_self]
  rfl

/-- A granule that the banks are given has no error (R65). -/
theorem Tile.bankWrite_granule_alive (t : Tile) (g x : Nat) : g ∉ (t.bankWrite (32 * g) 32 x).field.dead := by
  intro h
  have outside := (List.mem_filter.1 h).2
  simp only [Bool.not_eq_true', Bool.and_eq_false_iff, decide_eq_false_iff_not] at outside
  omega

/-- It is the tile's own (R67). -/
theorem Tile.bankWrite_granule_key (t : Tile) (g x : Nat) :
    mget (t.bankWrite (32 * g) 32 x).field.keys g = some t.keyTag := by
  simp only [Tile.bankWrite, granules_granule, List.foldl_cons, List.foldl_nil, mget_mput_same]

/-- Its row is NOTAG (R69). -/
theorem Tile.bankWrite_granule_untagged (t : Tile) (g x : Nat) : mget (t.bankWrite (32 * g) 32 x).field.tags (g / 8) = none := by
  refine mget_eq_none fun r hr hrow => ?_
  have outside := (List.mem_filter.1 hr).2
  simp only [Bool.not_eq_true', Bool.and_eq_false_iff, decide_eq_false_iff_not] at outside
  omega

/-- A drained entry is a write of its granule, which stays lost only where it was lost and the entry does not cover it (R62, R65). -/
theorem Tile.sbWrite_cases (t : Tile) (e : SbEntry) :
    ∃ x d, t.sbWrite e = { t.bankWrite (32 * e.granule) 32 x with
        field := { (t.bankWrite (32 * e.granule) 32 x).field with dead := d } } ∧
      (e.mask = 0xFFFFFFFF#32 ∨ t.lost e.granule = false → e.granule ∉ d) := by
  unfold Tile.sbWrite
  dsimp only
  generalize e.over (32 * e.granule) 32 (t.bankRead (32 * e.granule) 32) = x
  refine ⟨x, ?_⟩
  split
  next partly =>
    obtain ⟨hmask, hlost⟩ := (Bool.and_eq_true ..).mp partly
    exact ⟨_, rfl, fun h => absurd h (not_or.2 ⟨bne_iff_ne.1 hmask, by simp [hlost]⟩)⟩
  next => exact ⟨_, rfl, fun _ => t.bankWrite_granule_alive e.granule x⟩

/-- The tile after the drain of its oldest entry `e`, with the entries `r` behind it (R62). -/
def Tile.storeDrained (t : Tile) (e : SbEntry) (r : List SbEntry) (now : Nat) : Tile :=
  ({ t.sbWrite e with sb := r } : Tile).usePort { cycle := now, banks := 1#32 <<< (e.granule % 32), write := true }

theorem exec_storeDrain {s : State} {k : Nat} {e : SbEntry} {r : List SbEntry} (hsb : (s.tile k).sb = e :: r)
    (hcommit : e.commit ≤ s.cycle) (hopen : (s.tile k).bankOpen s.cycle e.granule = true) :
    exec (.storeDrain k) s = .next (s.setTile k ((s.tile k).storeDrained e r s.cycle)) := by
  simp only [exec, execStoreDrain, hsb, hcommit, hopen, and_self, if_true]
  rfl

/-! ## Accesses of feeds (R84, R212) -/

/-- The reads of `n` bytes at each of the addresses `as` repair what they can (R65). -/
def State.repairs (s : State) (k n : Nat) (as : List Nat) : State := as.foldl (fun s a => s.repair k a n) s

theorem State.repairs_only (s : State) (k n : Nat) (as : List Nat) : OnlyRepaired k s (s.repairs k n as) :=
  foldl_rel (.refl k) .trans (fun s a => s.repair_cases k a n) as s

/-- Repairs change no byte that a reader sees (R65, R136). -/
theorem OnlyRepaired.fieldRead {k : Nat} {s t : State} (h : OnlyRepaired k s t) (own : Bool) (now f n : Nat) :
    (t.tile k).fieldRead own now f n = (s.tile k).fieldRead own now f n := by
  obtain ⟨-, w, d, ht⟩ := h
  rw [ht]
  rfl

theorem OnlyRepaired.port {k : Nat} {s t : State} (h : OnlyRepaired k s t) (port : Bool) : (t.tile k).port port = (s.tile k).port port := by
  obtain ⟨-, w, d, ht⟩ := h
  rw [ht]
  rfl

theorem OnlyRepaired.sb {k : Nat} {s t : State} (h : OnlyRepaired k s t) : (t.tile k).sb = (s.tile k).sb := by
  obtain ⟨-, w, d, ht⟩ := h
  rw [ht]

/-- The entries of a feed's access at the addresses `as`, due 14 cycles later, with the stores committed before the cycle in them
(R84, R136). -/
def Tile.feedEntries (t : Tile) (as : List Nat) (now : Nat) : List (Nat × BitVec 512) :=
  as.map fun a => (now + 14, BitVec.ofNat 512 (t.fieldRead false (now - 1) a 64))

theorem OnlyRepaired.feedEntries {k : Nat} {s t : State} (h : OnlyRepaired k s t) (as : List Nat) (now : Nat) :
    (t.tile k).feedEntries as now = (s.tile k).feedEntries as now := by
  simp only [Tile.feedEntries, h.fieldRead]

/-- A feed after an access of `n` entries, over where it has none left (R84). -/
def Feed.after (f : Feed) (n now : Nat) : Option Feed := if f.left - n = 0 then none else some { f with left := f.left - n, last := now }

/-- The tile after an access of feed `f` at the addresses `y.1`, which leaves its walker at `y.2` (R84). -/
def Tile.fed (t : Tile) (port : Bool) (f : Feed) (y : List Nat × Walker) (now : Nat) : Tile :=
  (((t.setPort port { t.port port with flight := (t.port port).flight ++ t.feedEntries y.1 now }).useBanks now
    (y.1.foldl (fun m a => m ||| banksOf a 64) 0#32) false).wset f.w y.2).setFeed port (f.after y.1.length now)

section
variable (t : Tile) (port : Bool) (f : Feed) (y : List Nat × Walker) (now : Nat)

theorem Tile.fed_flight : ((t.fed port f y now).port port).flight = (t.port port).flight ++ t.feedEntries y.1 now := by
  cases port <;> rfl

theorem Tile.fed_feed : (t.fed port f y now).feed port = f.after y.1.length now := by cases port <;> rfl

theorem Tile.fed_sb : (t.fed port f y now).sb = t.sb := by cases port <;> rfl

end

/-- The tile after a feed from `pc` has read the entries at `as`: the first that cannot be rebuilt leaves POISON for the A-strand, unless some
waits already (R212). -/
def Tile.metPoison (t : Tile) (pc : Word) (as : List Nat) : Tile :=
  match as.find? fun a => t.isDead a 64 with
  | some a => if t.poisonA.isSome then t else { t with poisonA := some (pc, w64 (t.deadAt a 64)) }
  | none => t

theorem Tile.metPoison_only (t : Tile) (pc : Word) (as : List Nat) : ∃ p, t.metPoison pc as = { t with poisonA := p } := by
  unfold Tile.metPoison
  split
  · split
    · exact ⟨t.poisonA, rfl⟩
    · exact ⟨_, rfl⟩
  · exact ⟨t.poisonA, rfl⟩

/-- The state after the next access of tile `k`'s feed `f` (R84, R212). -/
def State.feedAccessed (s : State) (k : Nat) (port : Bool) (f : Feed) : State :=
  let y := (s.tile k).feedNext f
  let u := s.repairs k 64 y.1
  u.setTile k (((u.tile k).fed port f y u.cycle).metPoison f.pc y.1)

theorem exec_feedAccess {s : State} {k : Nat} {port : Bool} {f : Feed} (hf : (s.tile k).feed port = some f)
    (hfree : (s.tile k).usedNow s.cycle = false) (hjmpt : (s.tile k).jmptAt = none) (hready : (s.tile k).feedReady port s.cycle = true) :
    exec (.feedAccess k port) s = .next (s.feedAccessed k port f) := by
  simp only [exec, execFeedAccess, hf, hfree, hjmpt, hready, Option.any_none, Bool.not_true, Bool.or_self, Bool.false_eq_true, if_false]
  rfl

/-! ## Stops (R212, R241) -/

/-- The tile whose strand has stopped where it is, with trap `i` (R212, R241). -/
def Tile.stopped (t : Tile) (σ : Side) (i : TrapInfo) : Tile :=
  t.setStrand σ { t.strand σ with phase := .trapped i, restart := none, zerof := none, waitb := false }

theorem Tile.stopped_memory (t : Tile) (σ : Side) (i : TrapInfo) : SameTileMemory t (t.stopped σ i) := .strand ..

theorem Tile.stopped_phase (t : Tile) (σ : Side) (i : TrapInfo) : ((t.stopped σ i).strand σ).phase = .trapped i := by
  rw [Tile.stopped, Tile.strand_setStrand]

theorem Tile.stopped_regs (t : Tile) (σ : Side) (i : TrapInfo) : (t.stopped σ i).regs σ = t.regs σ := by
  rw [Tile.stopped, Tile.regs, Tile.strand_setStrand, Tile.regs]

theorem Tile.stopAt_pipeTrap {t : Tile} {σ : Side} {i : TrapInfo} (h : t.pipeTrap σ = some i) : t.stopAt σ = t.stopped σ i := by
  simp only [Tile.stopAt, h, Tile.stopped]

theorem Tile.pipeTrap_code {t : Tile} {σ : Side} {i : TrapInfo} (h : t.pipeTrap σ = some i) : i.code = codePoison := by
  obtain ⟨x, -, rfl⟩ := Option.map_eq_some_iff.1 h
  rfl

theorem exec_feedPoison {s : State} {k : Nat} {σ : Side} {i : TrapInfo} (htakes : ((s.tile k).strand σ).takesPoison = true)
    (htrap : (s.tile k).pipeTrap σ = some i) : exec (.feedPoison k σ) s = .next (s.setTile k ((s.tile k).stopped σ i)) := by
  simp only [exec, execFeedPoison, htakes, htrap, Option.isSome_some, Bool.and_self, if_true, Tile.stopAt_pipeTrap htrap]

theorem exec_debugStop {s : State} {k : Nat} {σ : Side} (h : ((s.tile k).strand σ).atBoundary = true) (sub : Nat) :
    exec (.debugStop k σ sub) s = .next (s.setTile k ((s.tile k).stopped σ (((s.tile k).regs σ).debugInfo sub))) := by
  simp only [exec, execDebugStop, h, if_true]
  rfl

end Sys2Proof.Machine

namespace Sys2Proof.Proofs
open Sys2Proof.Machine

/-- Settles O35: a drain, a feed's access, and the two stops of a strand, each from the tile that its move leaves. -/
theorem drainsFeedsAndStops : Obligations.DrainsFeedsAndStops := by
  refine fun s k port σ sub => ⟨fun e r hsb hcommit hopen => ?drain, fun f hf hfree hjmpt hready => ?feed,
    fun i htakes htrap => ?poison, fun hbound => ?debug⟩
  case drain =>
    refine ⟨_, exec_storeDrain hsb hcommit hopen, .setTile .., ?_⟩
    obtain ⟨x, d, hwrite, halive⟩ := (s.tile k).sbWrite_cases e
    rw [State.tile_setTile, Tile.storeDrained, hwrite]
    exact ⟨rfl, rfl, rfl, halive, (s.tile k).bankWrite_granule_key e.granule x, (s.tile k).bankWrite_granule_untagged e.granule x⟩
  case feed =>
    have repaired := s.repairs_only k 64 ((s.tile k).feedNext f).1
    refine ⟨_, exec_feedAccess hf hfree hjmpt hready, repaired.1.trans (.setTile ..), ?_⟩
    obtain ⟨p, hpoison⟩ := Tile.metPoison_only _ f.pc ((s.tile k).feedNext f).1
    rw [State.feedAccessed, State.tile_setTile, hpoison, repaired.1.cycle]
    refine ⟨(Tile.fed_flight ..).trans ?_, Tile.fed_feed .., (Tile.fed_sb ..).trans repaired.sb⟩
    rw [repaired.port, repaired.feedEntries]
    rfl
  case poison =>
    refine ⟨_, exec_feedPoison htakes htrap, .setTile .., ?_⟩
    rw [State.tile_setTile]
    exact ⟨Tile.stopped_memory .., Tile.stopped_phase .., Tile.pipeTrap_code htrap, Tile.stopped_regs ..⟩
  case debug =>
    refine ⟨_, exec_debugStop hbound sub, .setTile .., ?_⟩
    rw [State.tile_setTile]
    exact ⟨Tile.stopped_memory .., Tile.stopped_phase .., Tile.stopped_regs ..⟩

end Sys2Proof.Proofs
end

section
/-!
The issue of words (R85, R86, R89, R90, R92, R278, R279, R323): words that do not run, words that trap before their own effect, and
where a strand goes on after a word.
-/
namespace Sys2Proof.Machine

/-! ## Words that do not have their own effect (R89, R90, R278) -/

/-- A word parks only by its marker and only behind outstanding results (R89). -/
theorem not_parked {m : Bool} {out : List Pending} (h : m = true → out = []) : (m && !out.isEmpty) = false := by
  cases m with
  | false => rfl
  | true => rw [h rfl]; rfl

section
variable {s : State} {e : Env} {m : Bool} {f : Form} {bad : BitVec 128 → Bool} {commit : Bool} {uses : Env → List Touch}
  {body : Env → Effect}

/-- A marked word parks while a result of its strand is outstanding (R89). -/
theorem issueIf_parks (h : s.focus = some e) (hout : e.r.out ≠ []) : issueIf bad true f commit uses body s = .next s := by
  simp [issueIf, h, hout]

/-- So does a marked vector word (R89). -/
theorem vecIssue_parks {lat : Nat} {d : BitVec 128 → Nat} {srcs : BitVec 128 → List Nat} {old : Bool} {code : Env → Bool}
    {op : Env → List Vec → Vec × FFlags} {also : Env → List Touch} (h : s.focus = some e) (hout : e.r.out ≠ []) :
    vecIssue true f bad lat d srcs old code op s also = .next s := issueIf_parks h hout

/-- A word that does not park is checked and executed (R89, R278). -/
theorem issueIf_checks (h : s.focus = some e) (hm : m = true → e.r.out = []) :
    issueIf bad m f commit uses body s = .next (e.issue f (bad e.pl) commit (uses e) body) := by
  simp only [issueIf, h, not_parked hm, Bool.false_eq_true, if_false]

/-- A word whose prefixes, page or strand its form does not allow raises ILLEGAL in its verdict cycle (R278). -/
theorem issue_illegal (h : s.focus = some e) (hm : m = true → e.r.out = []) (hstage : f.stage1 e.pl e.σ = false) :
    issue m f commit uses body s = .next (e.trapForm f (trip codeIllegal)) := by
  rw [issue, issueIf_checks h hm, Env.issue, hstage]
  rfl

/-- A word with a false guard retires without an effect (R278). -/
theorem issue_nullified (h : s.focus = some e) (hm : m = true → e.r.out = []) (hstage : f.stage1 e.pl e.σ = true)
    (hguard : e.hazard (guardTouch e.pl) = false) (hnull : e.nullified = true) :
    issue m f commit uses body s = .next (s.retire e.k e.σ none 1 none) := by
  simp [issue, issueIf_checks h hm, Env.issue, hstage, hguard, hnull, (State.focus_some h).1]

/-- A word that touches an outstanding register raises HAZARD in checked mode, where it does not wait (R90). -/
theorem issue_hazard (h : s.focus = some e) (hm : m = true → e.r.out = []) (hstage : f.stage1 e.pl e.σ = true)
    (hguard : e.hazard (guardTouch e.pl) = false) (hnull : e.nullified = false) (hhazard : e.hazard (uses e) = true)
    (hissues : (body e).waits = false) : issue m f false uses body s = .next (e.trapForm f (trip codeHazard)) := by
  simp [issue, issueIf_checks h hm, Env.issue, hstage, hguard, hnull, hhazard, hissues]

end

/-- An outstanding register among those a word touches is a hazard in checked mode (R90). -/
theorem Env.hazard_of_outstanding {e : Env} {x : Touch} {xs : List Touch} (hchecked : e.r.checked = true) (hout : e.r.outstanding x = true)
    (hx : x ∈ xs) : e.hazard xs = true := by
  have touched : xs.any e.outstanding = true := List.any_eq_true.2 ⟨x, hx, by rw [Env.outstanding, hout, Bool.true_or]⟩
  rw [Env.hazard, hchecked, touched, Bool.and_self]

/-- A reserved encoding that does not park raises ILLEGAL (R89, R279). -/
theorem exec_reservedEncoding {s : State} {e : Env} {w : BitVec 16} (h : s.focus = some e) (hm : w.getLsbD 15 = true → e.r.out = []) :
    exec (.reservedEncoding w) s = .next (e.trap (trip codeIllegal) e.now) := by
  simp only [exec, execReservedEncoding, h, not_parked hm, Bool.false_eq_true, if_false]

/-- A marked reserved encoding parks as any marked word does (R89). -/
theorem exec_reservedEncoding_parks {s : State} {e : Env} {w : BitVec 16} (h : s.focus = some e) (hout : e.r.out ≠ [])
    (hm : w.getLsbD 15 = true) : exec (.reservedEncoding w) s = .next s := by
  simp [exec, execReservedEncoding, h, hm, hout]

/-! ## Loop registers and the end of a body (R85, R323) -/

theorem Regs.lget_lset (r : Regs) {n : Nat} (v : Word) (h : n < 8) : (r.lset n v).lget n = v := by simp [Regs.lget, Regs.lset, h]

theorem Regs.lget_lset_ne (r : Regs) {m n : Nat} (v : Word) (h : n ≠ m) : (r.lset n v).lget m = r.lget m := by
  simp [Regs.lget, Regs.lset, h]

section
variable {pc : Word} {x : LoopEntry} {l rest : List LoopEntry}

/-- Where no innermost body ends with the word, the loops stand as they are (R85). -/
theorem loopCheck_elsewhere (r : Regs) (h : ∀ x ∈ l, x.stop ≠ pc) : loopCheck pc l r = (none, { r with loops := l }) := by
  cases l with
  | nil => rfl
  | cons x rest => rw [loopCheck, if_neg (h x List.mem_cons_self)]

/-- A body whose register is above 1 is gone through once more (R85). -/
theorem loopCheck_round (r : Regs) (h : x.stop = pc) (hn : 1 < (r.lget x.l).toNat) :
    loopCheck pc (x :: rest) r = (some x.start, { r.lset x.l (r.lget x.l - 1#64) with loops := x :: rest }) := by
  rw [loopCheck, if_pos h, if_pos hn]

/-- A body whose register is not is left, and the next body is looked at (R85, R323). -/
theorem loopCheck_left (r : Regs) (h : x.stop = pc) (hn : (r.lget x.l).toNat ≤ 1) :
    loopCheck pc (x :: rest) r = loopCheck pc rest (r.lset x.l 0#64) := by
  rw [loopCheck, if_pos h, if_neg (Nat.not_lt.2 hn)]

end

/-- A word that does not transfer goes on where the end of a body says, or at the next word (R85, R86, R92). -/
theorem Regs.retire_none {r g : Regs} {a : Option Word} (h : loopCheck r.pc r.loops r.clearLatch = (a, g)) :
    r.retire none = { g with pc := a.getD (r.pc + 2#64), runPc := a.getD (r.pc + 2#64) } := by
  simp only [Regs.retire, Regs.clearLatch_pc, Regs.clearLatch_loops, h]

end Sys2Proof.Machine

namespace Sys2Proof.Proofs
open Sys2Proof.Machine

/-- A word is parked by its marker, whatever it is. -/
theorem markedWordParks_holds : Sys2Proof.markedWordParks := by
  intro s e d a p a5 o h hout
  have parks : ∀ f commit uses body, issue true f commit uses body s = .next s := fun _ _ _ _ => issueIf_parks h hout
  refine ⟨fun _ _ _ _ _ => issueIf_parks h hout, fun w hw => exec_reservedEncoding_parks h hout hw, ?vadd, parks _ _ _ _, parks _ _ _ _,
    parks _ _ _ _, parks _ _ _ _, parks _ _ _ _, parks _ _ _ _, parks _ _ _ _, parks _ _ _ _, parks _ _ _ _⟩
  rw [exec, execVadd, vecArith, vecIssue_parks h hout]

/-- A word with a false guard is nullified, whatever it is. -/
theorem falseGuardNullifies_holds : Sys2Proof.falseGuardNullifies := by
  intro s e m d a o h hm hguard hnull
  have nullified : ∀ f commit uses body, f.stage1 e.pl e.σ = true → issue m f commit uses body s = .next (s.retire e.k e.σ none 1 none) :=
    fun f commit uses body hstage => issue_nullified h hm hstage hguard hnull
  exact ⟨nullified, nullified _ _ _ _, nullified _ _ _ _, fun hstage => ⟨nullified _ _ _ _ hstage, nullified _ _ _ _ hstage⟩,
    nullified _ _ _ _⟩

/-- Settles O1: parking and the guard come before a word's own effect. -/
theorem wordsThatDoNotRun : Obligations.WordsThatDoNotRun := ⟨markedWordParks_holds, falseGuardNullifies_holds⟩

/-- ADD and MUL do not wait, and so a hazard of theirs traps at once. -/
theorem checkedModeRaisesHazard_holds : Sys2Proof.checkedModeRaisesHazard := by
  intro s e m d a x h hm hstage hguard hnull hchecked hout hx
  have hazard := Env.hazard_of_outstanding hchecked hout hx
  exact ⟨issue_hazard h hm hstage hguard hnull hazard rfl, issue_hazard h hm hstage hguard hnull hazard rfl⟩

/-- A form's failing first stage traps in the form's verdict cycle, that of a reserved encoding at once. -/
theorem wrongFormRaisesIllegal_holds : Sys2Proof.wrongFormRaisesIllegal := by
  intro s e m d a w h hm
  exact ⟨fun hstage => issue_illegal h hm hstage, fun hstage => issue_illegal h hm hstage, fun hstage => issue_illegal h hm hstage,
    fun hw => exec_reservedEncoding h hw⟩

/-- Settles O2: the checks before a word's own effect. -/
theorem badWordsTrap : Obligations.BadWordsTrap := ⟨checkedModeRaisesHazard_holds, wrongFormRaisesIllegal_holds⟩

/-- Settles O3: the registers after a word, with no body that ends with it. -/
theorem retiredWordGoesOn : Obligations.RetiredWordGoesOn := by
  intro s t e cost due h hloops hcycle r x
  have hr : r = ((t.tile e.k).regs e.σ).retire none := t.retire_regs ..
  have goes := Regs.retire_none (loopCheck_elsewhere ((t.tile e.k).regs e.σ).clearLatch hloops)
  obtain ⟨hs, hp, -, -, hst, hlatch⟩ := ((t.tile e.k).regs e.σ).retire_keeps none
  have hready : x.readyAt = t.cycle + cost := by
    show (((t.retire e.k e.σ none cost due).tile e.k).strand e.σ).readyAt = _
    rw [State.retire, State.tile_modTile, Tile.strand_setStrand]
    rfl
  rw [← hr] at goes hs hp hst hlatch
  refine ⟨by rw [goes]; rfl, hlatch, ?_, hready.trans (by rw [hcycle]), hs, hp, by rw [goes]; rfl⟩
  rw [hst, BitVec.getLsbD_and]
  simp

/-- The four cases of LOOP (R323). -/
theorem loopEnters_holds : Sys2Proof.loopEnters := by
  intro s e m l o h hr stop bad
  obtain ⟨rfl, -⟩ := State.focus_some h
  have run : exec (.loop m l o) e.s = .next (e.apply _) := issue_runs h hr
  refine ⟨fun hb => ?_, fun hb hl => ?_, fun hb hl hn => ?_, fun hb hl hn => ?_⟩ <;> rw [run] <;>
    simp only [bad, stop, addrNext] at hb ⊢
  · simp only [hb, if_true, Env.apply_trap]
  · simp only [hb, hl, Bool.false_eq_true, if_false, if_true, Env.apply_done, Env.retired_eq]
  · simp only [hb, hl, hn.ne, Bool.false_eq_true, if_false, Env.apply_done, Env.retired_eq]
  · simp only [hb, hl, hn, Bool.false_eq_true, if_false, if_true, Env.apply_trap]

/-- One body after the other is checked, from the innermost (R85, R323). -/
theorem loopGoesRound_holds : Sys2Proof.loopGoesRound := by
  intro r x rest hloops hstop hx
  have retires {a : Option Word} {g : Regs} (h : loopCheck r.pc (x :: rest) r.clearLatch = (a, g)) := Regs.retire_none (hloops ▸ h)
  refine ⟨fun hn => ?_, fun hn hrest => ?_, fun y more hrest hy hyl hne hn => ⟨fun hm => ?_, fun hm hmore => ?_⟩⟩
  · rw [retires (loopCheck_round r.clearLatch hstop hn)]
    exact ⟨rfl, Regs.lget_lset _ _ hx, rfl⟩
  · rw [retires ((loopCheck_left r.clearLatch hstop hn).trans (loopCheck_elsewhere _ hrest))]
    exact ⟨rfl, Regs.lget_lset _ _ hx, rfl⟩
  all_goals
    subst hrest
    have hyget : (r.clearLatch.lset x.l 0#64).lget y.l = r.lget y.l := Regs.lget_lset_ne _ _ hne.symm
    have left := loopCheck_left (rest := y :: more) r.clearLatch hstop hn
    rw [← hyget] at hm
  · rw [retires (left.trans (loopCheck_round _ hy hm)), hyget]
    exact ⟨rfl, (Regs.lget_lset_ne _ _ hne).trans (Regs.lget_lset _ _ hx), Regs.lget_lset _ _ hyl, rfl⟩
  · rw [retires (left.trans ((loopCheck_left _ hy hm).trans (loopCheck_elsewhere _ hmore)))]
    exact ⟨rfl, (Regs.lget_lset_ne _ _ hne).trans (Regs.lget_lset _ _ hx), Regs.lget_lset _ _ hyl, rfl⟩

/-- Settles O10: LOOP's own effect, and the end of its body. -/
theorem loops : Obligations.Loops := ⟨loopEnters_holds, loopGoesRound_holds⟩

end Sys2Proof.Proofs
end

section
/-!
The words of a strand that meet its partner or its walkers (R75, R76, R78, R79, R82–R84, R289, R297–R300, R319, R324): outcome queues, the
end of a strand, walkers and feeds.
-/
namespace Sys2Proof.Machine

/-! ## Outcome queues (R78, R324) -/

section
variable {e : Env} {m : Bool} (h : e.s.focus = some e)
include h

/-- PUSHO waits while its queue is full. -/
theorem exec_pusho_full {p : BitVec 3} (hr : e.runs m formZ true [tP p.toNat] = true) (hfull : 16 ≤ (e.t.outQ e.σ).used e.now) :
    exec (.pusho m p) e.s = .next e.s := by
  refine (issue_runs h hr).trans ?_
  simp only [if_pos hfull, Env.apply_wait]

/-- PUSHO appends its predicate where there is room. -/
theorem exec_pusho_room {p : BitVec 3} (hr : e.runs m formZ true [tP p.toNat] = true) (hroom : (e.t.outQ e.σ).used e.now < 16) :
    exec (.pusho m p) e.s = .next (e.retired
      (e.s.setTile e.k (e.t.setOutQ e.σ ((e.t.outQ e.σ).push (e.r.pget p.toNat) e.now))) none 1 none) := by
  refine (issue_runs h hr).trans ?_
  simp only [if_neg hroom.not_ge, Env.apply_done, Env.retired_eq]

/-- BRQ waits for an outcome. -/
theorem exec_brq_empty {n : Bool} {o : BitVec 7} (hr : e.runs m formJ true [] = true) (hhead : (e.t.inQ e.σ).head e.now = none) :
    exec (.brq m n o) e.s = .next e.s := by
  refine (issue_runs h hr).trans ?_
  simp only [hhead, Env.apply_wait]

/-- BRQ pops the oldest outcome and branches where it is not `n`. -/
theorem exec_brq_head {n b : Bool} {o : BitVec 7} (hr : e.runs m formJ true [] = true) (hhead : (e.t.inQ e.σ).head e.now = some b) :
    exec (.brq m n o) e.s = .next (e.retired (e.s.setTile e.k (e.t.setInQ e.σ ((e.t.inQ e.σ).pop e.now)))
      (if b = n then none else some (e.r.pc + 2#64 + 2#64 * immS e.pl 7 o.toNat, true)) 1 none) := by
  refine (issue_runs h hr).trans ?_
  by_cases hb : b = n
  · simp only [hhead, hb, bne_self_eq_false, Bool.false_eq_true, if_false, if_true, Env.apply_done, Env.retired_eq]
  · simp only [hhead, bne_iff_ne.2 hb, hb, if_false, if_true, Env.apply_done, Env.retired_eq]
    rfl

end

/-! ## The end of a strand (R75, R76, R289) -/

/-- A strand ends where its partner still goes on or nothing is left in the tile. -/
theorem Env.endStrand_ends {e : Env} (h : e.s.sideEnded e.k (sideOther e.σ) = false ∨ e.t.hasResidue = false) (byAwait : Bool)
    (s : State) : e.endStrand byAwait s = .done (s.modTile e.k fun t => t.setStrand e.σ { t.strand e.σ with phase := .ended byAwait })
      (some (addrNext e.r, false)) 1 none := by
  rw [Env.endStrand, if_neg]
  rcases h with h | h <;> simp [h]

/-- The second strand to end raises QUEUE-RESIDUE where something is left. -/
theorem Env.endStrand_residue {e : Env} (hended : e.s.sideEnded e.k (sideOther e.σ) = true) (hres : e.t.hasResidue = true) (byAwait : Bool)
    (s : State) : e.endStrand byAwait s = .trap (trip codeResidue) e.now := by
  rw [Env.endStrand, if_pos (by rw [hended, hres]; rfl)]

/-! ## Accesses of the A-core (R290, R298) -/

section
variable {e : Env} (hpipe : e.pipeTaken = false)
include hpipe

/-- A read of port A whose checks pass is made at once. -/
theorem Env.portA_reads {f n al : Nat} (hport : portACheck e.t e.run f n al = none) (hdead : e.t.isDead f n = false) (due : Nat)
    (k : Unit → Effect) : e.portA f n al true due k = k () := by
  simp [Env.portA, hpipe, hport, poisonCheck, hdead, failIf]

/-- So is an access through a walker that is set and that no feed uses. -/
theorem Env.walk_accesses {w n : Nat} {x : Walker} (hw : e.t.wget w = some x) (hfeed : e.t.feedUses w = false)
    (hcheck : walkCheck e.t e.run x.addr n = none) (due : Nat) (k : Walker → Nat → Effect) : e.walk w n due k = k x x.addr.toNat := by
  simp [Env.walk, hw, hfeed, hpipe, hcheck]

end

/-! ## Walkers (R82–R84, R297–R300) -/

section
variable {e : Env} {m : Bool} {w : BitVec 3} (h : e.s.focus = some e)
include h

/-- WSET posts the walker that its descriptor makes (R82, R297). -/
theorem exec_wset {a : BitVec 4} {f : Nat} {x : Walker} (hr : e.runs m formZ.aOnly false [.w w.toNat, tS a.toNat] = true)
    (hpipe : e.pipeTaken = false) (hf : f = (e.r.sget a.toNat).toNat % 2 ^ 22) (hfeed : e.t.feedUses w.toNat = false)
    (hport : portACheck e.t e.run f 64 64 = none) (hdead : e.t.isDead f 64 = false)
    (hx : Walker.ofWords (wordAt (e.t.fieldRead true e.now f 64)) = some x) :
    exec (.wset m w a) e.s = .next (e.retired ((e.s.repair e.k f 64).modTile e.k fun t =>
      (t.useBanks e.now (banksOf f 64) false).modRegs e.σ (·.post (e.now + 14) (.w w.toNat x))) none 1 (some (e.now + 14))) := by
  subst hf
  refine (issue_runs h ((e.runs_verdictAt m formZ.aOnly 14 false _).trans hr)).trans ?_
  simp only [fieldAddr_eq, hfeed, Env.portA_reads hpipe hport hdead, hx, Bool.false_eq_true, if_false, Env.holding, Env.apply_done,
    Env.retired_eq]

section
variable {x : Walker} (hw : e.t.wget w.toNat = some x) (hfeed : e.t.feedUses w.toNat = false)
include hw hfeed

/-- WLD reads through its walker into an entry of its load queue, and the walker goes on (R83, R298). -/
theorem exec_wld {q : BitVec 2} {k : BitVec 3} {f n : Nat} (hr : e.runs m formZ.aOnly false (walkTouch e w.toNat) = true)
    (hpipe : e.pipeTaken = false) (hk : k.toNat < 4) (hroom : (e.t.lqget q.toNat).room e.now = true) (hf : f = x.addr.toNat)
    (hn : n = 32 <<< k.toNat) (hcheck : walkCheck e.t e.run x.addr n = none) (hdead : e.t.isDead f n = false) :
    exec (.wld m q w k) e.s = .next (e.retired ((e.s.repair e.k f n).modTile e.k fun t =>
      e.walkStep w.toNat x ((t.useBanks e.now (banksOf f n) false).lqPush q.toNat (e.now + 14) (e.t.fieldRead true e.now f n)))
      none 1 (some (e.now + 6))) := by
  subst hf hn
  have hbad : decide (4 ≤ k.toNat) = false := decide_eq_false hk.not_ge
  have hrunsAt := (e.runs_verdictAt m formZ.aOnly 6 false _).trans hr
  refine (issueIf_runs (bad := fun _ => decide (4 ≤ k.toNat)) (uses := (walkTouch · w.toNat)) h hbad hrunsAt).trans ?_
  simp only [hroom, Env.walk_accesses hpipe hw hfeed hcheck, poisonCheck, hdead, failIf, Bool.not_true, Bool.false_eq_true, if_false,
    Env.holding, Env.apply_done, Env.retired_eq]

/-- WST writes the oldest row of its store queue through its walker, which goes on (R83, R298). -/
theorem exec_wst {b : Bool} (hr : e.runs m formZ.aOnly true (walkTouch e w.toNat) = true) (hpipe : e.pipeTaken = false)
    (hready : (e.t.sqget (b2n b)).ready 1 = true) (hcheck : walkCheck e.t e.run x.addr 256 = none) (hroom : e.t.sb.length + 8 ≤ 16) :
    exec (.wst m b w) e.s = .next (e.retired
      (e.s.modTile e.k fun t => e.walkStep w.toNat x (e.storeRow (b2n b) x.addr.toNat t)) none 1 none) := by
  refine (issue_runs h hr).trans ?_
  simp only [hready, Env.walk_accesses hpipe hw hfeed hcheck, Tile.sbRoom, hroom, decide_true, Bool.not_true, Bool.false_eq_true, if_false,
    Env.apply_done, Env.retired_eq]

/-- WFEED starts a feed of a free port, once the walker's checks of all its accesses pass (R84, R299). -/
theorem exec_wfeed {b : Bool} {a : BitVec 4} {n : Nat} (hr : e.runs m formZ.aOnly true [.w w.toNat, tS a.toNat] = true)
    (hfree : (if b then e.t.feedB else e.t.feedA) = none) (hn : n = (e.r.sget a.toNat).toNat) (hpos : 0 < n) (hmax : n ≤ 65536)
    (hcheck : feedCheck e.t e.run x n = none) :
    exec (.wfeed m w b a) e.s = .next (e.retired (e.s.modTile e.k fun t =>
      let fd := some { w := w.toNat, left := n, since := e.now, last := 0, pc := e.r.runPc }
      if b then { t with feedB := fd } else { t with feedA := fd }) none 1 none) := by
  subst hn
  refine (issue_runs h hr).trans ?_
  simp only [hmax.not_gt, hfree, Option.isSome_none, hw, hfeed, hcheck, hpos.ne', Bool.false_eq_true, if_false, Env.apply_done,
    Env.retired_eq]

end

/-- WSTAT reads the indices of a walker that is set (R300). -/
theorem exec_wstat_set {x : Walker} {d : BitVec 4} (hw : e.t.wget w.toNat = some x)
    (hr : e.runs m formZ.aOnly false [tS d.toNat, .w w.toNat] = true) :
    exec (.wstat m d w) e.s = .next (e.sentLater 2 (.s d.toNat
      (((x.idx[0]?.getD 0#16).setWidth 64) ||| ((x.idx[1]?.getD 0#16).setWidth 64 <<< 16) |||
        ((x.idx[2]?.getD 0#16).setWidth 64 <<< 32) ||| ((x.idx[3]?.getD 0#16).setWidth 64 <<< 48)))) := by
  refine (issue_runs h hr).trans ?_
  simp only [hw, Env.sentLater, show List.range 4 = [0, 1, 2, 3] from rfl, List.foldl_cons, List.foldl_nil, BitVec.zero_or, Nat.mul_zero,
    BitVec.shiftLeft_zero]

/-- WSTAT of a walker that is not set reads all ones (R300). -/
theorem exec_wstat_unset {d : BitVec 4} (hw : e.t.wget w.toNat = none) (hr : e.runs m formZ.aOnly false [tS d.toNat, .w w.toNat] = true) :
    exec (.wstat m d w) e.s = .next (e.sentLater 2 (.s d.toNat (BitVec.allOnes 64))) := by
  refine (issue_runs h hr).trans ?_
  simp only [hw, Env.sentLater]

end

end Sys2Proof.Machine

namespace Sys2Proof.Proofs
open Sys2Proof.Machine

/-- Settles O11: each of the two words, with and without room or an outcome. -/
theorem outcomeQueues : Obligations.OutcomeQueues := by
  intro s e m n p o h
  obtain ⟨rfl, -⟩ := State.focus_some h
  exact ⟨fun hr => ⟨exec_pusho_room h hr, exec_pusho_full h hr⟩,
    fun hr => ⟨exec_brq_empty h hr, fun _ hhead => exec_brq_head h hr hhead⟩⟩

/-- Settles O13: END's own effect is the end of its strand. -/
theorem strandEnds : Obligations.StrandEnds := by
  intro s e m h hr
  obtain ⟨rfl, -⟩ := State.focus_some h
  have run : exec (.endStrand m) e.s = .next (e.apply (e.endStrand false e.s)) := issue_runs h hr
  refine ⟨fun hends => ?_, fun hended hres => ?_⟩
  · rw [run, Env.endStrand_ends hends]
    rfl
  · rw [run, Env.endStrand_residue hended hres, Env.apply_trap]

/-- Settles O20: each walker word where its checks pass. -/
theorem walkerWords : Obligations.WalkerWords := by
  intro s e m b w k q a h hpipe f
  obtain ⟨rfl, -⟩ := State.focus_some h
  refine ⟨fun x hr hfeed hport hdead hx => exec_wset h hr hpipe rfl hfeed hport hdead hx, fun x hw hfeed => ⟨?_, ?_, ?_, ?_⟩,
    exec_wstat_unset h⟩
  · exact fun hr hk hroom hcheck hdead => exec_wld h hw hfeed hr hpipe hk hroom rfl rfl hcheck hdead
  · exact fun hr hready hcheck hroom => exec_wst h hw hfeed hr hpipe hready hcheck hroom
  · exact fun hr hfree hpos hmax hcheck => exec_wfeed h hw hfeed hr hfree rfl hpos hmax hcheck
  · exact exec_wstat_set h hw

end Sys2Proof.Proofs
end

section
/-!
Results, queue entries and feed entries that land (R79, R84, R88, R90, R91): what the last of the landing results leaves of each register.
-/
namespace Sys2Proof.Machine

/-! ## Predicates, queues and ports after an update (R11, R79, R84) -/

theorem Regs.pget_pset (r : Regs) {n : Nat} (b : Bool) (hpos : 0 < n) (h : n < 8) : (r.pset n b).pget n = b := by
  cases b <;> simp [Regs.pget, Regs.pset, hpos.ne', h]

theorem Regs.pget_pset_ne (r : Regs) {m n : Nat} (b : Bool) (h : m ≠ n) : (r.pset n b).pget m = r.pget m := by
  have apart : (1#8 <<< n).getLsbD m = false := by
    rcases Nat.lt_or_gt_of_ne h with hlt | hgt
    · simp [BitVec.getLsbD_shiftLeft, hlt]
    · simp [BitVec.getLsbD_shiftLeft, Nat.sub_ne_zero_of_lt hgt]
  unfold Regs.pget Regs.pset
  split
  · rfl
  · by_cases hm : m < 8
    · cases b <;> simp only [BitVec.getLsbD_or, BitVec.getLsbD_and, BitVec.getLsbD_not, apart, hm, decide_true, Bool.not_false,
        Bool.and_true, Bool.or_false, if_true, if_false, Bool.false_eq_true, BitVec.getLsbD_zero]
    · simp only [BitVec.getLsbD_of_ge _ m (Nat.le_of_not_lt hm)]

theorem Tile.lqget_lqset (t : Tile) {n : Nat} (q : Queue) (h : n < 4) : (t.lqset n q).lqget n = q := by simp [Tile.lqget, Tile.lqset, h]

theorem Tile.lqget_lqset_ne (t : Tile) {m n : Nat} (q : Queue) (h : m ≠ n) : (t.lqset n q).lqget m = t.lqget m := by
  simp [Tile.lqget, Tile.lqset, h.symm]

theorem Tile.sqget_sqset (t : Tile) {n : Nat} (q : Queue) (h : n < 2) : (t.sqset n q).sqget n = q := by simp [Tile.sqget, Tile.sqset, h]

/-- The entries of a queue as those that are due are filled (R79). -/
theorem Queue.fill_ents (q : Queue) (now : Nat) :
    (q.fill now).ents = q.ents.map fun e => { e with filled := e.filled || decide (e.due ≤ now) } := by
  refine List.map_congr_left fun e _ => ?_
  by_cases h : e.due ≤ now <;> simp [h]

theorem Tile.port_setPort (t : Tile) (b : Bool) (p : Port) : (t.setPort b p).port b = p := by cases b <;> rfl

theorem Tile.port_setPort_not (t : Tile) (b : Bool) (p : Port) : (t.setPort b p).port (!b) = t.port (!b) := by cases b <;> rfl

section
variable (t : Tile) (σ : Side) (x : Strand) (n : Nat)

@[simp] theorem Tile.setStrand_vget : (t.setStrand σ x).vget n = t.vget n := by rw [Tile.vget, Tile.setStrand_v, Tile.vget]
@[simp] theorem Tile.setStrand_cbget : (t.setStrand σ x).cbget n = t.cbget n := by rw [Tile.cbget, Tile.setStrand_cb, Tile.cbget]
@[simp] theorem Tile.setStrand_wget : (t.setStrand σ x).wget n = t.wget n := by rw [Tile.wget, Tile.setStrand_w, Tile.wget]

end

/-! ## One result (R88, R91) -/

section
variable (t : Tile) (σ : Side) (p : Pending)

/-- A result writes no register of its strand but s and p, and its flags (R88). -/
theorem Tile.landOne_regs : (t.landOne σ p).regs σ = (t.regs σ).landOne p := by
  rw [Tile.landOne, Tile.regs_modRegs, Regs.landOne]
  cases p.val <;> cases σ <;> rfl

theorem Tile.landOne_other : (t.landOne σ p).strand (sideOther σ) = t.strand (sideOther σ) := by
  rw [Tile.landOne, Tile.strand_modRegs_other]
  cases p.val <;> cases σ <;> rfl

theorem Tile.landOne_mx : (t.landOne σ p).mx = t.mx := by
  rw [Tile.landOne, Tile.modRegs_mx]
  cases p.val <;> cases σ <;> rfl

end

theorem Regs.landOne_out (r : Regs) (p : Pending) : (r.landOne p).out = r.out := by
  rw [Regs.landOne, Regs.orFlags_out]
  cases p.val <;> simp

theorem Regs.landOne_st (r : Regs) (p : Pending) : (r.landOne p).st = r.st ||| (p.flags.setWidth 16 <<< 4) := by
  rw [Regs.landOne, Regs.orFlags]
  cases p.val <;> simp

/-! ## The last result on a register (R90, log entry 107) -/

/-- Results that land one after the other leave on a register what the last of them on it gives, where each that names the register sets it
and no other touches it. -/
theorem foldl_holdsLast {α β γ : Type} {land : γ → Pending → γ} {g : γ → β} {mk : α → ResVal} {f : α → β}
    (hset : ∀ t p v, p.val = mk v → g (land t p) = f v) (hkeep : ∀ t p, (∀ u, p.val ≠ mk u) → g (land t p) = g t)
    (l : List Pending) (t : γ) : Sys2Proof.holdsLast l mk f (g t) (g (l.foldl land t)) := by
  have keeps : ∀ (l : List Pending) (t : γ), (∀ q ∈ l, ∀ u, q.val ≠ mk u) → g (l.foldl land t) = g t := by
    intro l
    induction l with
    | nil => exact fun _ _ => rfl
    | cons p l ih =>
      intro t h
      rw [List.foldl_cons, ih _ fun q hq => h q (List.mem_cons_of_mem p hq), hkeep t p (h p List.mem_cons_self)]
  refine ⟨fun pre p post v hl hp hpost => ?_, keeps l t⟩
  rw [hl, List.foldl_append, List.foldl_cons, keeps post _ hpost, hset _ p v hp]

section
variable (l : List Pending) (σ : Side) {n : Nat}

/-- Results land one after the other, in the order of the list (R90). -/
def Tile.landAll (t : Tile) : Tile := l.foldl (fun t p => t.landOne σ p) t

theorem Tile.landAll_regs (t : Tile) : (t.landAll l σ).regs σ = l.foldl Regs.landOne (t.regs σ) := by
  induction l generalizing t with
  | nil => rfl
  | cons p l ih => exact (ih _).trans (by rw [Tile.landOne_regs, List.foldl_cons])

theorem Tile.landAll_other (t : Tile) : (t.landAll l σ).strand (sideOther σ) = t.strand (sideOther σ) :=
  foldl_proj (fun t : Tile => t.strand (sideOther σ)) (fun t p => t.landOne_other σ p) l t

theorem Tile.landAll_mx (t : Tile) : (t.landAll l σ).mx = t.mx := foldl_proj Tile.mx (fun t p => t.landOne_mx σ p) l t

theorem Regs.landAll_out (r : Regs) : (l.foldl Regs.landOne r).out = r.out := foldl_proj Regs.out Regs.landOne_out l r

theorem Regs.landAll_st (r : Regs) :
    (l.foldl Regs.landOne r).st = l.foldl (fun (y : BitVec 16) (p : Pending) => y ||| (p.flags.setWidth 16 <<< 4)) r.st := by
  induction l generalizing r with
  | nil => rfl
  | cons p l ih => rw [List.foldl_cons, List.foldl_cons, ih, Regs.landOne_st]

theorem Regs.landAll_sget (r : Regs) (h : n < 32) : Sys2Proof.holdsLast l (.s n) id (r.sget n) ((l.foldl Regs.landOne r).sget n) := by
  refine foldl_holdsLast (g := (Regs.sget · n)) (fun r p v hp => ?_) (fun r p hp => ?_) l r
  · rw [Regs.landOne, hp]
    exact r.sget_sset v h
  · rw [Regs.landOne]
    cases hv : p.val with
    | s i v => exact r.sget_sset_ne v fun hi => hp v (hi ▸ hv)
    | p i b => exact congrArg (fun s : Vector Word 32 => s[n]?.getD 0#64) (r.pset_s i b)
    | _ => rfl

theorem Regs.landAll_pget (r : Regs) (hpos : 0 < n) (h : n < 8) :
    Sys2Proof.holdsLast l (.p n) id (r.pget n) ((l.foldl Regs.landOne r).pget n) := by
  refine foldl_holdsLast (g := (Regs.pget · n)) (fun r p b hp => ?_) (fun r p hp => ?_) l r
  · rw [Regs.landOne, hp]
    exact r.pget_pset b hpos h
  · rw [Regs.landOne]
    cases hv : p.val with
    | p i b => exact r.pget_pset_ne b fun hi => hp b (hi ▸ hv)
    | _ => rfl

theorem Tile.landAll_vget (t : Tile) (h : n < 28) : Sys2Proof.holdsLast l (.v n) id (t.vget n) ((t.landAll l σ).vget n) := by
  refine foldl_holdsLast (g := (Tile.vget · n)) (fun t p x hp => ?_) (fun t p hp => ?_) l t
  · simp [Tile.landOne, hp, Tile.writeRes, Tile.vget, h]
  · cases hv : p.val with
    | v i x => simp [Tile.landOne, hv, Tile.writeRes, Tile.vget, show i ≠ n from fun hi => hp x (hi ▸ hv)]
    | _ => simp [Tile.landOne, hv, Tile.writeRes, Tile.wset, Tile.vget]

theorem Tile.landAll_cbget (t : Tile) (h : n < 4) : Sys2Proof.holdsLast l (.cb n) id (t.cbget n) ((t.landAll l σ).cbget n) := by
  refine foldl_holdsLast (g := (Tile.cbget · n)) (fun t p x hp => ?_) (fun t p hp => ?_) l t
  · simp [Tile.landOne, hp, Tile.writeRes, Tile.cbget, h]
  · cases hv : p.val with
    | cb i x => simp [Tile.landOne, hv, Tile.writeRes, Tile.cbget, show i ≠ n from fun hi => hp x (hi ▸ hv)]
    | _ => simp [Tile.landOne, hv, Tile.writeRes, Tile.wset, Tile.cbget]

theorem Tile.landAll_wget (t : Tile) (h : n < 8) : Sys2Proof.holdsLast l (.w n) some (t.wget n) ((t.landAll l σ).wget n) := by
  refine foldl_holdsLast (g := (Tile.wget · n)) (fun t p x hp => ?_) (fun t p hp => ?_) l t
  · simp [Tile.landOne, hp, Tile.writeRes, Tile.wset, Tile.wget, h]
  · cases hv : p.val with
    | w i x => simp [Tile.landOne, hv, Tile.writeRes, Tile.wset, Tile.wget, show i ≠ n from fun hi => hp x (hi ▸ hv)]
    | _ => simp [Tile.landOne, hv, Tile.writeRes, Tile.wget]

theorem Tile.landAll_fd (t : Tile) : Sys2Proof.holdsLast l .fd id t.fd (t.landAll l σ).fd := by
  refine foldl_holdsLast (g := Tile.fd) (fun t p x hp => ?_) (fun t p hp => ?_) l t
  · simp [Tile.landOne, hp, Tile.writeRes]
  · cases hv : p.val with
    | fd x => exact absurd hv (hp x)
    | _ => simp [Tile.landOne, hv, Tile.writeRes, Tile.wset]

end

/-- The results of a strand that are due at `now`, in the order they land in. -/
def Regs.landing (r : Regs) (now : Nat) : List Pending := sortDue (r.out.filter (·.isDue now))

/-- The due results land on the tile with its strand's others left outstanding (R88). -/
theorem Tile.landDue_landAll (t : Tile) (σ : Side) (now : Nat) :
    ∃ y, t.landDue σ now = (t.setStrand σ y).landAll ((t.regs σ).landing now) σ ∧
      y.regs = { t.regs σ with out := (t.regs σ).out.filter fun p => !p.isDue now } := by
  unfold Tile.landDue
  dsimp only
  split
  · refine ⟨{ t.strand σ with regs := _, undo := (t.strand σ).undo.map (·.land now) }, ?_, rfl⟩
    cases σ <;> rfl
  · exact ⟨{ t.strand σ with regs := _ }, rfl, rfl⟩

/-! ## What the MX owes (R91, R117, R131) -/

theorem Tile.landMx_idle {t : Tile} (h : t.mx.owed = []) (now : Nat) : t.landMx now = t := by
  have hmx : ({ t.mx with owed := [] } : Mx) = t.mx := by rw [← h]
  simp [Tile.landMx, h, hmx]

theorem Tile.landFlags_idle {t : Tile} (h : t.mx.flags = []) (now : Nat) : t.landFlags now = t := by
  have hmx : ({ t.mx with flags := [] } : Mx) = t.mx := by rw [← h]
  simp [Tile.landFlags, h, hmx]

/-- A vector that is due reaches its register, and is owed no longer. -/
theorem Tile.landMx_one {t : Tile} {o : Owed} {now : Nat} (h : t.mx.owed = [o]) (hd : o.d < 28) (hdue : o.due ≤ now) :
    (t.landMx now).vget o.d = o.data ∧ (t.landMx now).mx = { t.mx with owed := [] } := by
  have hwait : t.owedWaits now o = false := by simp [Tile.owedWaits, hd]
  have hland : t.landMx now = ({ t with mx := { t.mx with owed := [] } } : Tile).landOwed o := by
    simp [Tile.landMx, h, hwait, hd, hdue]
  rw [hland]
  refine ⟨?_, ?_⟩
  · simp [Tile.landOwed, Tile.checkResult, Tile.landOne, Tile.writeRes, Tile.vget, hd]
  · simp [Tile.landOwed, Tile.checkResult, Tile.landOne, Tile.writeRes]

/-- Flags that are due reach st, and are owed no longer. -/
theorem Tile.landFlags_one {t : Tile} {c now : Nat} {f : BitVec 5} (h : t.mx.flags = [(c, f)]) (hdue : c ≤ now) :
    (t.landFlags now).mx.flags = [] ∧ ((t.landFlags now).regs .e).st = (t.regs .e).st ||| (f.setWidth 16 <<< 4) := by
  have hland : t.landFlags now = ({ t with mx := { t.mx with flags := [] } } : Tile).modRegs .e (·.orFlags f) := by
    simp [Tile.landFlags, h, hdue]
  rw [hland]
  exact ⟨rfl, rfl⟩

/-! ## RESULT_WRITE (R88) -/

/-- A tile once the results of a strand that are due have landed, those of the MX after the E-strand's own (log entry 107). -/
def Tile.resultsLanded (t : Tile) (σ : Side) (now : Nat) : Tile :=
  if σ = .e then ((t.landDue σ now).landMx now).landFlags now else t.landDue σ now

theorem exec_resultWrite (s : State) (k : Nat) (σ : Side) :
    exec (.resultWrite k σ) s = .next (s.setTile k ((s.tile k).resultsLanded σ s.cycle)) := rfl

/-- Where the MX owes nothing, the results of the strand land alone. -/
theorem Tile.resultsLanded_own {t : Tile} {σ : Side} (h : σ = .e → t.mx.owed = [] ∧ t.mx.flags = []) (now : Nat) :
    ∃ y, t.resultsLanded σ now = (t.setStrand σ y).landAll ((t.regs σ).landing now) σ ∧
      y.regs = { t.regs σ with out := (t.regs σ).out.filter fun p => !p.isDue now } := by
  obtain ⟨y, hland, hy⟩ := t.landDue_landAll σ now
  refine ⟨y, ?_, hy⟩
  have hmx : (t.landDue σ now).mx = t.mx := by rw [hland, Tile.landAll_mx, Tile.setStrand_mx]
  rw [← hland, Tile.resultsLanded]
  split
  · next he =>
    obtain ⟨howed, hflags⟩ := h he
    rw [Tile.landMx_idle (hmx ▸ howed), Tile.landFlags_idle (hmx ▸ hflags)]
  · rfl

/-- Where the E-strand has no result outstanding, those of the MX land alone. -/
theorem Tile.resultsLanded_mx {t : Tile} (h : (t.regs .e).out = []) (now : Nat) :
    ∃ y, t.resultsLanded .e now = ((t.setStrand .e y).landMx now).landFlags now ∧ y.regs = t.regs .e := by
  obtain ⟨y, hland, hy⟩ := t.landDue_landAll .e now
  have hnone : (t.regs .e).landing now = [] := by rw [Regs.landing, h]; rfl
  rw [hnone] at hland
  refine ⟨y, by rw [Tile.resultsLanded, if_pos rfl, hland]; rfl, hy.trans ?_⟩
  rw [h, List.filter_nil, ← h]

end Sys2Proof.Machine

namespace Sys2Proof.Proofs
open Sys2Proof.Machine

/-- The results of a strand land one after the other, those of the MX after them. -/
theorem resultsLand_holds : Sys2Proof.resultsLand := by
  intro s k σ x l
  refine ⟨fun hmx => ⟨_, exec_resultWrite s k σ, .setTile .., ?own⟩,
    fun o howed hd hdue hout hflags => ⟨_, exec_resultWrite s k .e, ?vector⟩,
    fun c f howed hflags hc hout => ⟨_, exec_resultWrite s k .e, ?flags⟩⟩ <;> rw [State.tile_setTile]
  case own =>
    obtain ⟨y, hland, hy⟩ := Tile.resultsLanded_own hmx s.cycle
    have hstart : (x.setStrand σ y).regs σ = { x.regs σ with out := (x.regs σ).out.filter fun p => !p.isDue s.cycle } := by
      rw [Tile.regs, Tile.strand_setStrand, hy]
    rw [hland, Tile.landAll_regs, hstart]
    refine ⟨(Tile.landAll_other l σ _).trans (x.strand_setStrand_other σ y), Regs.landAll_out l _, fun n hn => Regs.landAll_sget l _ hn,
      fun n hpos hn => Regs.landAll_pget l _ hpos hn, fun n hn => ?_, fun n hn => ?_, fun n hn => ?_, ?_, Regs.landAll_st l _⟩
    · rw [← x.setStrand_vget σ y]
      exact Tile.landAll_vget l σ _ hn
    · rw [← x.setStrand_cbget σ y]
      exact Tile.landAll_cbget l σ _ hn
    · rw [← x.setStrand_wget σ y]
      exact Tile.landAll_wget l σ _ hn
    · rw [← x.setStrand_fd σ y]
      exact Tile.landAll_fd l σ _
  case vector =>
    obtain ⟨y, hland, -⟩ := Tile.resultsLanded_mx hout s.cycle
    obtain ⟨hv, hmx⟩ := Tile.landMx_one (t := (s.tile k).setStrand .e y) howed hd hdue
    rw [hland, Tile.landFlags_idle ((congrArg Mx.flags hmx).trans hflags)]
    exact ⟨hv, congrArg Mx.owed hmx⟩
  case flags =>
    obtain ⟨y, hland, hy⟩ := Tile.resultsLanded_mx hout s.cycle
    obtain ⟨hf, hst⟩ := Tile.landFlags_one (t := (s.tile k).setStrand .e y) hflags hc
    rw [hland, Tile.landMx_idle (t := (s.tile k).setStrand .e y) howed, ← hy]
    exact ⟨hf, hst⟩

/-- Settles O34: the results of each kind of register, and the entries of queues and feeds. -/
theorem resultsAndFillsLand : Obligations.ResultsAndFillsLand := by
  refine ⟨resultsLand_holds, fun s k port => ⟨fun q hq => ?_, fun q hq => ?_, ?_⟩⟩
  · refine ⟨s.modTile k fun t => t.lqset q ((t.lqget q).fill s.cycle), ?_, .modTile .., ?_⟩
    · simp only [exec, execLoadQueueFill, if_pos hq]
    rw [State.tile_modTile, Tile.lqget_lqset _ _ hq]
    exact ⟨Queue.fill_ents .., fun j hj => Tile.lqget_lqset_ne _ _ hj⟩
  · refine ⟨s.modTile k fun t => t.sqset q ((t.sqget q).fill s.cycle), ?_, .modTile .., ?_⟩
    · simp only [exec, execLoadQueueFill, if_neg (Nat.not_lt.2 (Nat.le_add_left 4 q)), Nat.add_sub_cancel]
    · rw [State.tile_modTile, Tile.sqget_sqset _ _ hq]
      exact Queue.fill_ents ..
  · refine ⟨s.modTile k fun t => t.setPort port ((t.port port).land s.cycle), rfl, .modTile .., ?_⟩
    rw [State.tile_modTile, Tile.port_setPort]
    exact ⟨rfl, rfl, Tile.port_setPort_not ..⟩

end Sys2Proof.Proofs
end

section
/-!
The placement of tasks (R156, R159, R161): a task that fits at some furrow fits at a candidate no later than that, so the earliest candidate and
the lowest origin with it are the task's place.
-/
namespace Sys2Proof.Machine

/-! ## Rising lists without repeats -/

theorem mem_ins {l : List Nat} {a b : Nat} : b ∈ ins l a ↔ b = a ∨ b ∈ l := by
  induction l with
  | nil => simp [ins]
  | cons c l ih =>
    unfold ins
    split
    · exact List.mem_cons
    · split
      · rename_i h
        rw [List.mem_cons, h]
        tauto
      · rw [List.mem_cons, List.mem_cons, ih]
        tauto

theorem ins_rising {l : List Nat} (h : l.Pairwise (· < ·)) (a : Nat) : (ins l a).Pairwise (· < ·) := by
  induction l with
  | nil => exact List.pairwise_singleton ..
  | cons c l ih =>
    obtain ⟨hc, hl⟩ := List.pairwise_cons.1 h
    unfold ins
    split
    · rename_i hac
      exact List.pairwise_cons.2 ⟨List.forall_mem_cons.2 ⟨hac, fun b hb => hac.trans (hc b hb)⟩, h⟩
    · split
      · exact h
      · refine List.pairwise_cons.2 ⟨fun b hb => ?_, ih hl⟩
        rcases mem_ins.1 hb with rfl | hb
        · omega
        · exact hc b hb

/-- What is found first in a rising list is the least that passes. -/
theorem find?_le {l : List Nat} (hl : l.Pairwise (· < ·)) {p : Nat → Bool} {f : Nat} (hf : l.find? p = some f) {c : Nat} (hc : c ∈ l)
    (hp : p c = true) : f ≤ c := by
  obtain ⟨-, as, bs, rfl, has⟩ := List.find?_eq_some_iff_append.1 hf
  rcases List.mem_append.1 hc with hc | hc
  · exact absurd hp (by simpa using has c hc)
  · rcases List.mem_cons.1 hc with rfl | hc
    · exact le_rfl
    · exact ((List.pairwise_cons.1 (List.pairwise_append.1 hl).2.1).1 c hc).le

/-! ## Candidates (R159) -/

/-- Furrows that are above the first allowed one are inserted into a rising list that holds it. -/
theorem mem_foldl_ins (lo : Nat) (fs l : List Nat) (f : Nat) :
    f ∈ fs.foldl (fun l f => if lo < f then ins l f else l) l ↔ f ∈ l ∨ (f ∈ fs ∧ lo < f) := by
  induction fs generalizing l with
  | nil => simp
  | cons g fs ih =>
    rw [List.foldl_cons, ih]
    split
    · rw [mem_ins, List.mem_cons]
      constructor
      · rintro ((rfl | h) | h) <;> tauto
      · rintro (h | ⟨rfl | h, hlo⟩) <;> tauto
    · rw [List.mem_cons]
      constructor
      · tauto
      · rintro (h | ⟨rfl | h, hlo⟩) <;> tauto

section
variable (s : State) (t : TaskRec)

/-- The first furrow at which a task may be booked (R158, R159). -/
def State.firstFurrow : Nat := s.furrow + 1 + t.lead

theorem State.mem_candidates {f : Nat} : f ∈ s.candidates t ↔
    f = s.firstFurrow t ∨ ((∃ b ∈ s.bookings, f = b.stop ∨ f = b.start + t.lead) ∧ s.firstFurrow t < f) := by
  rw [State.candidates, mem_foldl_ins, List.mem_singleton]
  simp only [List.mem_flatMap, List.mem_cons, List.not_mem_nil, or_false, State.firstFurrow]

theorem State.candidates_rising : (s.candidates t).Pairwise (· < ·) := by
  refine List.foldlRecOn (motive := fun l : List Nat => l.Pairwise (· < ·)) _ _ (List.pairwise_singleton ..) fun l hl f _ => ?_
  split
  · exact ins_rising hl f
  · exact hl

end

/-! ## A fit (R159) -/

section
variable {s : State} {h i : Nat} {t : TaskRec} {ms : List Nat}

/-- Does a task fit on members at a furrow, with a channel where it books one? -/
def State.placeable (s : State) (h i : Nat) (t : TaskRec) (ms : List Nat) (f : Nat) : Bool :=
  s.fits h i t ms f && (!t.mask.getLsbD 12 || (s.freeChannel h i ms f t.duration).isSome)

theorem State.placeable_iff {f : Nat} : s.placeable h i t ms f = true ↔
    s.fits h i t ms f = true ∧ (t.mask.getLsbD 12 = true → (s.freeChannel h i ms f t.duration).isSome = true) := by
  rw [State.placeable, Bool.and_eq_true, Bool.or_eq_true, Bool.not_eq_true']
  cases t.mask.getLsbD 12 <;> simp

theorem State.fits_bounds {f : Nat} (hf : s.fits h i t ms f = true) : s.firstFurrow t ≤ f ∧ f + t.duration ≤ s.furrow + 4096 := by
  simp only [State.fits, Bool.and_eq_true, decide_eq_true_eq] at hf
  exact hf.1

/-- A booking that blocks a furrow blocks the next one, unless it ends there. -/
theorem Booking.blocks_succ {b : Booking} {m f n : Nat} {mask : BitVec 16} (hb : b.blocks m f n mask = true) (hstop : f + 1 ≠ b.stop) :
    b.blocks m (f + 1) n mask = true := by
  simp only [Booking.blocks, Bool.and_eq_true, decide_eq_true_eq] at hb ⊢
  obtain ⟨⟨⟨hstart, hend⟩, hmask⟩, hm⟩ := hb
  exact ⟨⟨⟨by omega, by omega⟩, hmask⟩, hm⟩

/-- A booking that holds a member's standby bank before a furrow does so before the next one, unless its own start comes between. -/
theorem Booking.holdsStandby_succ {b : Booking} {m f lead : Nat} (hb : b.holdsStandby m f lead = true) (hlead : lead ≤ f)
    (hstart : f + 1 ≠ b.start + lead) : b.holdsStandby m (f + 1) lead = true := by
  simp only [Booking.holdsStandby, Bool.and_eq_true, decide_eq_true_eq] at hb ⊢
  obtain ⟨⟨⟨hnew, hown⟩, hfree⟩, hm⟩ := hb
  exact ⟨⟨⟨hnew, by omega⟩, by omega⟩, hm⟩

/-- A task that fits at a furrow that is no candidate fits one furrow earlier: no condition of R159 turns true between candidates. -/
theorem State.placeable_pred {f : Nat} (hf : s.placeable h i t ms (f + 1) = true) (hcand : f + 1 ∉ s.candidates t) :
    s.placeable h i t ms f = true := by
  rw [State.placeable_iff] at hf ⊢
  obtain ⟨hfit, hchan⟩ := hf
  obtain ⟨hlo, hhi⟩ := State.fits_bounds hfit
  have hfirst : s.firstFurrow t < f + 1 := lt_of_le_of_ne hlo fun he => hcand ((s.mem_candidates t).2 (.inl he.symm))
  have hstop : ∀ b ∈ s.others h i, f + 1 ≠ b.stop := fun b hb he =>
    hcand ((s.mem_candidates t).2 (.inr ⟨⟨b, List.mem_of_mem_filter hb, .inl he⟩, hfirst⟩))
  have hstart : ∀ b ∈ s.others h i, f + 1 ≠ b.start + t.lead := fun b hb he =>
    hcand ((s.mem_candidates t).2 (.inr ⟨⟨b, List.mem_of_mem_filter hb, .inr he⟩, hfirst⟩))
  have hlead : t.lead ≤ f := by rw [State.firstFurrow] at hfirst; omega
  refine ⟨?_, fun hbar => ?_⟩
  · simp only [State.fits, Bool.and_eq_true, decide_eq_true_eq, List.all_eq_true, Bool.not_eq_true', List.any_eq_false, Bool.or_eq_true,
      not_or] at hfit ⊢
    obtain ⟨-, hmembers⟩ := hfit
    refine ⟨⟨Nat.le_of_lt_succ hfirst, by omega⟩, fun m hm => ⟨fun b hb => ?_, (hmembers m hm).2⟩⟩
    obtain ⟨hblocks, hholds⟩ := (hmembers m hm).1 b hb
    exact ⟨fun hbl => hblocks (Booking.blocks_succ hbl (hstop b hb)), fun hh => hholds (Booking.holdsStandby_succ hh hlead (hstart b hb))⟩
  · obtain ⟨c, hc⟩ := Option.isSome_iff_exists.1 (hchan hbar)
    have hfree := List.find?_some hc
    refine List.find?_isSome.2 ⟨c, List.mem_of_find?_eq_some hc, ?_⟩
    simp only [Bool.not_eq_true', List.any_eq_false, Bool.and_eq_true, decide_eq_true_eq] at hfree ⊢
    intro b hb hblocked
    obtain ⟨⟨⟨hchan, hbegin⟩, hend⟩, hm⟩ := hblocked
    have := hstop b hb
    exact hfree b hb ⟨⟨⟨hchan, by omega⟩, by omega⟩, hm⟩

/-- A task that fits at some furrow fits at a candidate no later. -/
theorem State.placeable_candidate {g : Nat} (hg : s.placeable h i t ms g = true) :
    ∃ f ∈ s.candidates t, f ≤ g ∧ s.placeable h i t ms f = true := by
  induction g with
  | zero =>
    have := (State.fits_bounds (State.placeable_iff.1 hg).1).1
    rw [State.firstFurrow] at this
    omega
  | succ g ih =>
    by_cases hcand : g + 1 ∈ s.candidates t
    · exact ⟨g + 1, hcand, le_rfl, hg⟩
    · obtain ⟨f, hf, hle, hfit⟩ := ih (State.placeable_pred hg hcand)
      exact ⟨f, hf, hle.trans g.le_succ, hfit⟩

theorem State.earliest_eq (bound : Nat) :
    s.earliest h i t ms bound = (s.candidates t).find? fun f => decide (f < bound) && s.placeable h i t ms f := by
  simp only [State.earliest, State.placeable, Bool.and_assoc]

/-- The earliest furrow at which a task fits (R159). -/
theorem State.earliest_some {bound f : Nat} (hf : s.earliest h i t ms bound = some f) :
    f < bound ∧ s.placeable h i t ms f = true ∧ ∀ g, s.placeable h i t ms g = true → f ≤ g := by
  rw [State.earliest_eq] at hf
  have hp := List.find?_some hf
  simp only [Bool.and_eq_true, decide_eq_true_eq] at hp
  obtain ⟨hbound, hfit⟩ := hp
  refine ⟨hbound, hfit, fun g hg => ?_⟩
  obtain ⟨c, hc, hle, hcfit⟩ := State.placeable_candidate hg
  rcases Nat.lt_or_ge c bound with hcb | hcb
  · exact (find?_le (s.candidates_rising t) hf hc (by simp [hcb, hcfit])).trans hle
  · omega

/-- Where no furrow below the bound is found, the task fits at none. -/
theorem State.earliest_none {bound : Nat} (hn : s.earliest h i t ms bound = none) {g : Nat} (hg : s.placeable h i t ms g = true) :
    bound ≤ g := by
  obtain ⟨c, hc, hle, hcfit⟩ := State.placeable_candidate hg
  rw [State.earliest_eq] at hn
  have := List.find?_eq_none.1 hn c hc
  simp only [hcfit, Bool.and_true, decide_eq_true_eq, not_lt] at this
  exact this.trans hle

end

/-! ## A place (R156, R161) -/

section
variable {s : State} {h i : Nat} {t : TaskRec}

/-- Does a task fit at a furrow on the origin's rectangle? -/
def State.placeableAt (s : State) (h i : Nat) (t : TaskRec) (f o : Nat) : Prop := s.placeable h i t (rect o t.width t.height) f = true

/-- A place is the best among some origins: the earliest furrow, and the lowest of the origins that fit there; none where the task fits on no
origin. -/
def State.BestPlace (s : State) (h i : Nat) (t : TaskRec) (os : List Nat) : Option (Nat × Nat) → Prop
  | none => ∀ g, ∀ k ∈ os, ¬ s.placeableAt h i t g k
  | some (f, o) => o ∈ os ∧ s.placeableAt h i t f o ∧ ∀ g, ∀ k ∈ os, s.placeableAt h i t g k → f < g ∨ (f = g ∧ o ≤ k)

/-- The better of a place and the best one on a further origin. -/
def State.betterPlace (s : State) (h i : Nat) (t : TaskRec) (best : Option (Nat × Nat)) (o : Nat) : Option (Nat × Nat) :=
  match s.earliest h i t (rect o t.width t.height) (best.elim (s.furrow + 4097) (·.1)) with
  | some f => some (f, o)
  | none => best

theorem State.placeTask_eq : s.placeTask h i t = (s.origins h t).foldl (s.betterPlace h i t) none := rfl

theorem State.betterPlace_best {os : List Nat} {o : Nat} (hos : ∀ k ∈ os, k < o) {best : Option (Nat × Nat)}
    (hbest : s.BestPlace h i t os best) : s.BestPlace h i t (os ++ [o]) (s.betterPlace h i t best o) := by
  unfold State.betterPlace
  cases he : s.earliest h i t (rect o t.width t.height) (best.elim (s.furrow + 4097) (·.1)) with
  | some f =>
    obtain ⟨hlt, hfit, hfirst⟩ := State.earliest_some he
    refine ⟨by simp, hfit, fun g k hk hg => ?_⟩
    rcases List.mem_append.1 hk with hk | hk
    · cases best with
      | none => exact absurd hg (hbest g k hk)
      | some b =>
        have := hbest.2.2 g k hk hg
        rw [Option.elim_some] at hlt
        omega
    · obtain rfl := List.mem_singleton.1 hk
      have := hfirst g hg
      omega
  | none =>
    cases best with
    | none =>
      intro g k hk hg
      rcases List.mem_append.1 hk with hk | hk
      · exact hbest g k hk hg
      · obtain rfl := List.mem_singleton.1 hk
        have hge : s.furrow + 4097 ≤ g := State.earliest_none he hg
        have := (State.fits_bounds (State.placeable_iff.1 hg).1).2
        omega
    | some b =>
      obtain ⟨ho, hfit, hfirst⟩ := hbest
      refine ⟨List.mem_append_left _ ho, hfit, fun g k hk hg => ?_⟩
      rcases List.mem_append.1 hk with hk | hk
      · exact hfirst g k hk hg
      · obtain rfl := List.mem_singleton.1 hk
        have hge : b.1 ≤ g := State.earliest_none he hg
        have := hos b.2 ho
        omega

theorem State.betterPlace_foldl {os : List Nat} (hos : os.Pairwise (· < ·)) :
    s.BestPlace h i t os (os.foldl (s.betterPlace h i t) none) := by
  induction os using List.reverseRecOn with
  | nil => exact fun _ _ hk => absurd hk List.not_mem_nil
  | append_singleton os o ih =>
    obtain ⟨hl, -, hlt⟩ := List.pairwise_append.1 hos
    rw [List.foldl_append]
    exact State.betterPlace_best (fun k hk => hlt k hk o (List.mem_singleton_self o)) (ih hl)

theorem State.origins_rising : (s.origins h t).Pairwise (· < ·) := by
  refine List.Pairwise.filter _ ?_
  split
  · exact List.pairwise_singleton ..
  · exact List.Pairwise.map _ (fun a b hab => by omega) List.pairwise_lt_range

/-- A task's place is the best one on the origins that it may take (R156). -/
theorem State.placeTask_best : s.BestPlace h i t (s.origins h t) (s.placeTask h i t) := by
  rw [State.placeTask_eq]
  exact State.betterPlace_foldl State.origins_rising

end

end Sys2Proof.Machine

namespace Sys2Proof.Proofs
open Sys2Proof.Machine

/-- A task is placed at the best place, where there is one. -/
theorem taskPlaces_holds : Sys2Proof.taskPlaces := by
  intro s h i t ms ok
  have hok : ∀ g o, s.placeableAt h i t g o ↔ ok g o := fun g o => State.placeable_iff
  have best := s.placeTask_best (h := h) (i := i) (t := t)
  refine ⟨fun f o hplace => ?_, fun hnone g k hk hg => ?_⟩
  · rw [hplace] at best
    obtain ⟨ho, hfit, hfirst⟩ := best
    exact ⟨ho, (hok f o).1 hfit, fun g k hk hg => hfirst g k hk ((hok g k).2 hg)⟩
  · rw [hnone] at best
    exact best g k hk ((hok g k).2 hg)

end Sys2Proof.Proofs
end

section
/-!
Booking, compaction and start of tasks (R77, R159–R165, R173, R184).
-/
namespace Sys2Proof.Machine

/-! ## Task records (R174) -/

theorem TaskRec.word_setWord (x : TaskRec) {k : Nat} (v : Word) (h : k < 16) : (x.setWord k v).word k = v := by
  simp [TaskRec.word, TaskRec.setWord, h]

theorem TaskRec.word_setWord_ne (x : TaskRec) {j k : Nat} (v : Word) (h : k ≠ j) : (x.setWord k v).word j = x.word j := by
  simp [TaskRec.word, TaskRec.setWord, h]

theorem wbits_setBits_60_4 (x : Word) {y : Nat} (hy : y < 2 ^ 4) : wbits (setBits x 60 4 y) 60 4 = y := by
  have hx := x.isLt
  simp only [wbits, setBits, bits, BitVec.toNat_ofNat, Nat.shiftRight_eq_div_pow, Nat.shiftLeft_eq]
  omega

theorem TaskRec.state_setState (x : TaskRec) {n : Nat} (h : n < 16) : (x.setState n).state = n := by
  rw [TaskRec.state, TaskRec.setState, TaskRec.word_setWord _ _ (by decide), wbits_setBits_60_4 _ h]

theorem TaskRec.state_setWord (x : TaskRec) {k : Nat} (v : Word) (h : k ≠ 0) : (x.setWord k v).state = x.state := by
  rw [TaskRec.state, TaskRec.word_setWord_ne _ _ h, TaskRec.state]

theorem State.task_setTask (s : State) {d : Nat} (i : Nat) (x : TaskRec) (h : d < 4) : (s.setTask d i x).task d i = x := by
  rw [State.task, State.setTask, State.die_modDie h]
  exact congrArg (·.getD TaskRec.reset) (mget_mput_same ..)

theorem State.task_modTask (s : State) {d : Nat} (i : Nat) (f : TaskRec → TaskRec) (h : d < 4) :
    (s.modTask d i f).task d i = f (s.task d i) := s.task_setTask i _ h

/-- A move of a die that changes no task record keeps all of them. -/
theorem State.task_modDie (s : State) (d : Nat) {f : Die → Die} (hf : ∀ y, (f y).tasks = y.tasks) (e i : Nat) :
    (s.modDie d f).task e i = s.task e i := by
  by_cases h : e = d
  · subst h
    by_cases he : e < 4
    · rw [State.task, State.die_modDie he, hf, State.task]
    · simp [State.task, State.die, State.modDie, he]
  · simp [State.task, State.die, State.modDie, Ne.symm h]

theorem State.task_freeStages (s : State) (d e i : Nat) : (s.freeStages d).task e i = s.task e i := by
  rw [State.freeStages, State.task_modDie]
  exact fun _ => rfl

/-! ## Moves of records only -/

theorem OnlyRecords.bookings {s t : State} (h : OnlyRecords s t) : t.bookings = s.bookings := (congrArg State.bookings h).trans rfl

theorem OnlyRecords.runs {s t : State} (h : OnlyRecords s t) : t.runs = s.runs := (congrArg State.runs h).trans rfl

theorem State.setTask_records (s : State) (d i : Nat) (x : TaskRec) : OnlyRecords s (s.setTask d i x) := s.modDie_records d _

theorem State.modTask_records (s : State) (d i : Nat) (f : TaskRec → TaskRec) : OnlyRecords s (s.modTask d i f) := s.setTask_records d i _

theorem State.freeStages_records (s : State) (d : Nat) : OnlyRecords s (s.freeStages d) := rfl

theorem State.freeCont_records (s : State) (d i : Nat) : OnlyRecords s (s.freeCont d i) := by
  unfold State.freeCont
  dsimp only
  split <;> rfl

theorem State.dropTaskRef_records (s : State) (h : Word) : OnlyRecords s (s.dropTaskRef h) := by
  unfold State.dropTaskRef
  dsimp only
  (repeat' split) <;> rfl

theorem State.useCont_records (s : State) (h : Word) : OnlyRecords s (s.useCont h) := by
  unfold State.useCont
  dsimp only
  split
  · exact s.freeCont_records ..
  · exact (s.freeCont_records ..).trans (State.dropTaskRef_records ..)

/-! ## Booking (R159, R161) -/

/-- The booking of a task at a furrow and an origin (R159). -/
def State.bookingOf (s : State) (d i f o : Nat) : Booking :=
  let t := s.task d i
  { die := d, idx := i, origin := o, width := t.width, height := t.height, mask := t.mask, start := f, stop := f + t.duration, lead := t.lead
    chan := if t.mask.getLsbD 12 then s.freeChannel d i (rect o t.width t.height) f t.duration else none
    scratch := t.scratch, begun := false, started := false, gone := false }

theorem State.bookAt_bookings (s : State) (d i f o : Nat) : (s.bookAt d i f o).bookings = s.bookings ++ [s.bookingOf d i f o] := rfl

theorem State.bookAt_furrow (s : State) (d i f o : Nat) : (s.bookAt d i f o).furrow = s.furrow := rfl

theorem State.bookAt_task (s : State) {d : Nat} (i f o : Nat) (h : d < 4) :
    (s.bookAt d i f o).task d i = ((s.task d i).setState 4).setWord 5 (furrowWord f (f + (s.task d i).duration)) := s.task_setTask i _ h

theorem mem_insBy {α : Type} (key : α → Nat × Nat × Nat) (x : α) (l : List α) {y : α} (h : y ∈ insBy key x l) : y = x ∨ y ∈ l := by
  induction l with
  | nil => exact .inl (List.mem_singleton.1 h)
  | cons z l ih =>
    unfold insBy at h
    split at h
    · rcases List.mem_cons.1 h with rfl | h
      · exact .inr List.mem_cons_self
      · exact (ih h).imp_right (List.mem_cons_of_mem z)
    · exact List.mem_cons.1 h

/-- Sorting brings in no element. -/
theorem mem_of_mem_sortBy {α : Type} (key : α → Nat × Nat × Nat) {l : List α} {y : α} : y ∈ sortBy key l → y ∈ l := by
  refine List.foldlRecOn (motive := fun acc : List α => y ∈ acc → y ∈ l) l _ (fun h => absurd h List.not_mem_nil) fun acc ih x hx h => ?_
  rcases mem_insBy key x acc h with rfl | h
  · exact hx
  · exact ih h

/-- The next task of a booking pass is booked where there is a place for it and the pass has booked fewer than 64. -/
def bookNext (acc : State × Nat) (t : Nat × Nat × TaskRec) : State × Nat :=
  if acc.2 = 64 then acc
  else match acc.1.placeTask t.1 t.2.1 t.2.2 with
    | some (f, o) => (acc.1.bookAt t.1 t.2.1 f o, acc.2 + 1)
    | none => acc

/-- The tasks that a die's booking pass goes through, in its order. -/
def State.bookingOrder (s : State) (d : Nat) : List (Nat × Nat × TaskRec) :=
  sortBy (fun (t : Nat × Nat × TaskRec) => (s.effective t.2.2, t.2.2.ready, t.2.1)) ((s.tasksOf d).filter fun t => s.bookable d t.2.2)

theorem State.bookingPass_eq (s : State) (d : Nat) : s.bookingPass d = ((s.bookingOrder d).foldl bookNext (s, 0)).1 := rfl

/-- A booking of a pass: of a task that may be booked, within the calendar (R159, R161). -/
def State.BookedBy (s : State) (d : Nat) (b : Booking) : Prop :=
  ∃ t, (b.die, b.idx, t) ∈ s.tasksOf d ∧ s.bookable d t = true ∧ s.furrow + 1 + t.lead ≤ b.start ∧
    b.start + t.duration ≤ s.furrow + 4096

/-- What a booking pass has made of `s` when it has booked n tasks. -/
def State.PassFrom (s : State) (d : Nat) (acc : State × Nat) : Prop :=
  acc.1.furrow = s.furrow ∧ acc.2 ≤ 64 ∧ ∃ bs, acc.1.bookings = s.bookings ++ bs ∧ bs.length = acc.2 ∧ ∀ b ∈ bs, s.BookedBy d b

theorem State.bookNext_passFrom {s : State} {d : Nat} {acc : State × Nat} (h : s.PassFrom d acc) {t : Nat × Nat × TaskRec}
    (ht : t ∈ s.bookingOrder d) : s.PassFrom d (bookNext acc t) := by
  unfold bookNext
  split
  · exact h
  · rename_i hfull
    cases hp : acc.1.placeTask t.1 t.2.1 t.2.2 with
    | none => exact h
    | some p =>
      obtain ⟨f, o⟩ := p
      obtain ⟨hfurrow, hmax, bs, hbs, hlen, hbooked⟩ := h
      obtain ⟨hmem, hbookable⟩ := List.mem_filter.1 (mem_of_mem_sortBy _ ht)
      have best := acc.1.placeTask_best (h := t.1) (i := t.2.1) (t := t.2.2)
      rw [hp] at best
      have bounds := State.fits_bounds (State.placeable_iff.1 best.2.1).1
      rw [State.firstFurrow, hfurrow] at bounds
      refine ⟨hfurrow, by dsimp only; omega, bs ++ [acc.1.bookingOf t.1 t.2.1 f o], ?_, by rw [List.length_append, hlen]; rfl, fun b hb => ?_⟩
      · rw [State.bookAt_bookings, hbs, List.append_assoc]
      · rcases List.mem_append.1 hb with hb | hb
        · exact hbooked b hb
        · obtain rfl := List.mem_singleton.1 hb
          exact ⟨t.2.2, hmem, hbookable, bounds⟩

theorem State.bookingPass_from (s : State) (d : Nat) : s.PassFrom d ((s.bookingOrder d).foldl bookNext (s, 0)) :=
  List.foldlRecOn _ _ ⟨rfl, Nat.zero_le _, [], (List.append_nil _).symm, rfl, fun _ hb => absurd hb List.not_mem_nil⟩
    fun _ h _ ht => State.bookNext_passFrom h ht

/-! ## Compaction (R165) -/

/-- A booking moved to another furrow. -/
def State.movedBooking (s : State) (b : Booking) (f : Nat) : Booking :=
  let t := s.task b.die b.idx
  { b with start := f, stop := f + t.duration
           chan := if t.mask.getLsbD 12 then s.freeChannel b.die b.idx b.members f t.duration else none }

/-- A booking is moved to the earliest furrow before its own at which its task fits. -/
def State.compactOne (s : State) (b : Booking) : State :=
  let t := s.task b.die b.idx
  match s.earliest b.die b.idx t b.members b.start with
  | none => s
  | some f =>
    { s.setTask b.die b.idx (t.setWord 5 (furrowWord f (f + t.duration))) with
      bookings := s.bookings.map fun y => if y.die = b.die ∧ y.idx = b.idx ∧ !y.gone then s.movedBooking b f else y }

/-- The bookings that a die's compaction pass goes through, in its order. -/
def State.compactionOrder (s : State) (d : Nat) : List Booking :=
  sortBy (fun (b : Booking) => (b.start, b.idx, b.die)) (s.bookings.filter fun b => dieOf b.origin == d && !b.begun && !b.started)

theorem State.compactionPass_eq (s : State) (d : Nat) : s.compactionPass d = (s.compactionOrder d).foldl State.compactOne s := rfl

/-- A booking stands where another stood, or earlier. -/
def Booking.NoLater (c b : Booking) : Prop :=
  c.die = b.die ∧ c.idx = b.idx ∧ c.origin = b.origin ∧ c.mask = b.mask ∧ c.start ≤ b.start

/-- The bookings of `u` are those of `s`, some of them earlier, and those of `s` that are bound to their furrow stand. -/
def CompactedFrom (s u : State) : Prop :=
  (∀ c ∈ u.bookings, ∃ b ∈ s.bookings, c.NoLater b) ∧ ∀ b ∈ s.bookings, b.begun = true ∨ b.started = true → b ∈ u.bookings

theorem compactOne_from {s u : State} (huniq : (s.bookings.map fun b => (b.die, b.idx)).Nodup) (h : CompactedFrom s u) {b : Booking}
    (hb : b ∈ s.bookings) (hfree : b.begun = false ∧ b.started = false) : CompactedFrom s (u.compactOne b) := by
  unfold State.compactOne
  dsimp only
  cases he : u.earliest b.die b.idx (u.task b.die b.idx) b.members b.start with
  | none => exact h
  | some f =>
    obtain ⟨hfrom, hbound⟩ := h
    obtain ⟨hearlier, -⟩ := State.earliest_some he
    refine ⟨fun c hc => ?_, fun a ha hfixed => ?_⟩
    · obtain ⟨y, hy, rfl⟩ := List.mem_map.1 hc
      split
      · exact ⟨b, hb, rfl, rfl, rfl, rfl, hearlier.le⟩
      · exact hfrom y hy
    · refine List.mem_map.2 ⟨a, hbound a ha hfixed, if_neg ?_⟩
      rintro ⟨hdie, hidx, -⟩
      have same : a = b := List.inj_on_of_nodup_map huniq ha hb (by rw [hdie, hidx])
      rcases hfixed with hx | hx <;> simp [same, hfree] at hx

theorem State.compactionPass_from (s : State) (d : Nat) (huniq : (s.bookings.map fun b => (b.die, b.idx)).Nodup) :
    CompactedFrom s (s.compactionPass d) := by
  rw [State.compactionPass_eq]
  refine List.foldlRecOn _ _ ⟨fun c hc => ⟨c, hc, rfl, rfl, rfl, rfl, le_rfl⟩, fun b hb _ => hb⟩ fun u h b hb => ?_
  obtain ⟨hmem, hp⟩ := List.mem_filter.1 (mem_of_mem_sortBy _ hb)
  simp only [Bool.and_eq_true, Bool.not_eq_true'] at hp
  exact compactOne_from huniq h hmem ⟨hp.1.2, hp.2⟩

/-! ## The start of a task (R77, R163, R173, R184) -/

section
variable {α : Type} {key : α → Nat} {g : α → Tile → Tile} {P : Tile → Prop} {k : Nat}

/-- What every move of a tile keeps, the moves of some tiles keep. -/
theorem foldl_modTile_keeps (hkeep : ∀ x y, P y → P (g x y)) (l : List α) {s : State} (h : P (s.tile k)) :
    P ((l.foldl (fun s x => s.modTile (key x) (g x)) s).tile k) := by
  refine List.foldlRecOn (motive := fun s : State => P (s.tile k)) l _ h fun s hs x _ => ?_
  by_cases hx : k = key x
  · subst hx
    rw [State.tile_modTile]
    exact hkeep x _ hs
  · rwa [State.tile_modTile_ne s _ hx]

/-- What every move of a tile sets up is so of the tiles that are moved. -/
theorem foldl_modTile_sets (hset : ∀ x y, P (g x y)) {l : List α} (hk : k ∈ l.map key) (s : State) :
    P ((l.foldl (fun s x => s.modTile (key x) (g x)) s).tile k) := by
  induction l generalizing s with
  | nil => exact absurd hk List.not_mem_nil
  | cons x l ih =>
    rcases List.mem_cons.1 hk with rfl | hk
    · exact foldl_modTile_keeps (fun x y _ => hset x y) l (by rw [State.tile_modTile]; exact hset x _)
    · exact ih hk _

end

/-- Both strands of the members of a task that starts: at its entry PCs with its parameters, or as its continuation resumes them (R77, R184). -/
def State.startStrands (s : State) (t : TaskRec) : Strand × Strand :=
  if t.word 7 != 0#64 then (s.cont (hDie (t.word 7)) (hIndex (t.word 7))).strands
  else (Strand.fresh (t.word 2) fun i => t.word (8 + i), Strand.fresh (t.word 3) fun i => t.word (8 + i))

/-- The completion registers of the members (R77, R184). -/
def State.startCregs (s : State) (t : TaskRec) : Vector Word 8 :=
  if t.word 7 != 0#64 then (s.cont (hDie (t.word 7)) (hIndex (t.word 7))).cstart else Vector.replicate 8 0#64

/-- A member of a run at its start. -/
def Tile.StartsWith (y : Tile) (run : Nat) (ae : Strand × Strand) (cs : Vector Word 8) : Prop :=
  y.run = some run ∧ y.a = ae.1 ∧ y.e = ae.2 ∧ y.c = cs

/-- The state in which a booking's run stands and its members have started (R77, R163). -/
def State.membersStarted (s : State) (b : Booking) (code : Bank) : State :=
  let t := s.task b.die b.idx
  let px := if t.word 7 != 0#64 then (s.cont (hDie (t.word 7)) (hIndex (t.word 7))).pxctr else none
  b.members.zipIdx.foldl (fun u m => u.modTile m.1 fun y =>
      y.start s.seq m.2 (s.fibre t.fibre) (s.startStrands t).1 (s.startStrands t).2 (s.startCregs t) px code)
    { s with runs := mput s.runs s.seq (t.runOn (s.taskHandle b.die b.idx) b), seq := s.seq + 1 }

/-- A run goes on with the operations and the far channels of the continuation that it resumes, which is used up (R152, R184). -/
def State.resumeWith (s : State) (c : ContRec) (run : Nat) (h : Word) : State :=
  let ops := s.ops.map fun (p : Nat × Op) => if c.ops.any (·.1 == p.1) then (p.1, { p.2 with run := run }) else p
  ({ s with ops := ops }.carryOn c.from_ run).useCont h

theorem State.startTask_eq (s : State) (b : Booking) (code : Bank) :
    s.startTask b code =
      (if (s.task b.die b.idx).word 7 != 0#64 then
        (s.membersStarted b code).resumeWith (s.cont (hDie ((s.task b.die b.idx).word 7)) (hIndex ((s.task b.die b.idx).word 7))) s.seq
          ((s.task b.die b.idx).word 7)
      else s.membersStarted b code).modTask b.die b.idx (fun t => (t.setState 5).setWord 7 0#64) := rfl

/-- `v` has the bookings, the runs and the tiles of `u`. -/
def SameRunning (u v : State) : Prop := v.bookings = u.bookings ∧ v.runs = u.runs ∧ v.tiles = u.tiles

theorem OnlyRecords.running {u v : State} (h : OnlyRecords u v) : SameRunning u v := ⟨h.bookings, h.runs, h.tiles⟩

theorem SameRunning.trans {u v w : State} (h : SameRunning u v) (g : SameRunning v w) : SameRunning u w := by
  obtain ⟨hb, hr, ht⟩ := h
  obtain ⟨gb, gr, gt⟩ := g
  exact ⟨gb.trans hb, gr.trans hr, gt.trans ht⟩

theorem State.resumeWith_running (s : State) (c : ContRec) (run : Nat) (h : Word) : SameRunning s (s.resumeWith c run h) := by
  unfold State.resumeWith
  exact SameRunning.trans ⟨rfl, rfl, rfl⟩ (State.useCont_records _ h).running

theorem State.startTask_running (s : State) (b : Booking) (code : Bank) : SameRunning (s.membersStarted b code) (s.startTask b code) := by
  rw [State.startTask_eq]
  refine SameRunning.trans ?_ (State.modTask_records ..).running
  split
  · exact State.resumeWith_running ..
  · exact ⟨rfl, rfl, rfl⟩

theorem State.startTask_task (s : State) (b : Booking) (code : Bank) (h : b.die < 4) :
    ((s.startTask b code).task b.die b.idx).state = 5 ∧ ((s.startTask b code).task b.die b.idx).word 7 = 0#64 := by
  rw [State.startTask_eq, State.task_modTask _ _ _ h]
  exact ⟨(TaskRec.state_setWord _ _ (by decide)).trans (TaskRec.state_setState _ (by decide)), TaskRec.word_setWord _ _ (by decide)⟩

theorem State.membersStarted_bookings (s : State) (b : Booking) (code : Bank) : (s.membersStarted b code).bookings = s.bookings := by
  unfold State.membersStarted
  exact foldl_proj State.bookings (fun u _ => u.modTile_bookings _ _) _ _

theorem State.membersStarted_runs (s : State) (b : Booking) (code : Bank) : (s.membersStarted b code).runs =
    mput s.runs s.seq ((s.task b.die b.idx).runOn (s.taskHandle b.die b.idx) b) := by
  unfold State.membersStarted
  exact foldl_proj State.runs (fun u _ => u.modTile_runs _ _) _ _

theorem State.membersStarted_tile (s : State) (b : Booking) (code : Bank) {k : Nat} (hk : k ∈ b.members) :
    ((s.membersStarted b code).tile k).StartsWith s.seq (s.startStrands (s.task b.die b.idx)) (s.startCregs (s.task b.die b.idx)) := by
  have hmem : k ∈ b.members.zipIdx.map Prod.fst := by rwa [List.zipIdx_map_fst]
  unfold State.membersStarted
  refine foldl_modTile_sets (P := fun y => y.StartsWith s.seq _ _) (fun _ _ => ?_) hmem _
  exact ⟨rfl, rfl, rfl, rfl⟩

/-- The bookings with one of them started (R160). -/
def State.markStarted (s : State) (b : Booking) : State :=
  { s with bookings := s.bookings.map fun y => if y = b then { y with started := true } else y }

/-- The code that a booking's members run: of their standby bank, or else as it is staged (R158, R160). -/
def State.codeOf (s : State) (b : Booking) (d : Nat) : Bank :=
  (((s.tile b.origin).standby.map (·.2))).getD (s.bankOf d (s.task b.die b.idx))

/-- The members' standby banks are in use (R158). -/
def State.dropStandby (s : State) (ks : List Nat) : State := ks.foldl (fun s k => s.modTile k fun t => { t with standby := none }) s

/-- Step 2 of a boundary for one booking (R160). -/
def State.startBooking (s : State) (d : Nat) (b : Booking) : State :=
  (((((s.markStarted b).startTask b (s.codeOf b d)).dropStandby b.members).modTask b.die b.idx fun t => { t with stage := none })).freeStages d

theorem State.startTasks_eq (s : State) (d : Nat) : s.startTasks d =
    (s.bookings.filter fun b => b.start == s.furrow && !b.started && !b.gone && dieOf b.origin == d).foldl (·.startBooking d) s := rfl

theorem State.dropStandby_bookings (s : State) (ks : List Nat) : (s.dropStandby ks).bookings = s.bookings :=
  foldl_proj State.bookings (fun u k => u.modTile_bookings k _) ks s

theorem State.dropStandby_runs (s : State) (ks : List Nat) : (s.dropStandby ks).runs = s.runs :=
  foldl_proj State.runs (fun u k => u.modTile_runs k _) ks s

theorem State.dropStandby_task (s : State) (ks : List Nat) (d i : Nat) : (s.dropStandby ks).task d i = s.task d i := by
  unfold State.dropStandby
  exact foldl_proj (fun s : State => s.task d i) (fun u k => (rfl : (u.modTile k _).task d i = u.task d i)) ks s

theorem State.dropStandby_tile {s : State} {ks : List Nat} {k run : Nat} {ae : Strand × Strand} {cs : Vector Word 8} (hk : k ∈ ks)
    (h : (s.tile k).StartsWith run ae cs) : ((s.dropStandby ks).tile k).StartsWith run ae cs ∧ ((s.dropStandby ks).tile k).standby = none := by
  unfold State.dropStandby
  refine ⟨foldl_modTile_keeps (key := id) (P := fun y => y.StartsWith run ae cs) (fun _ _ h => ?_) ks h,
    foldl_modTile_sets (key := id) (P := fun y => y.standby = none) (fun _ _ => ?_) (by rwa [List.map_id]) s⟩
  · exact h
  · rfl

section
variable (s : State) (d : Nat) (b : Booking)

theorem State.startBooking_running : SameRunning (((s.markStarted b).startTask b (s.codeOf b d)).dropStandby b.members) (s.startBooking d b) :=
  (State.modTask_records ..).running.trans (State.freeStages_records ..).running

/-- The record of a task that starts is RUNNING and names no continuation (R160, R184). -/
theorem State.startBooking_task (h : b.die < 4) :
    ((s.startBooking d b).task b.die b.idx).state = 5 ∧ ((s.startBooking d b).task b.die b.idx).word 7 = 0#64 := by
  rw [State.startBooking, State.task_freeStages, State.task_modTask _ _ _ h, State.dropStandby_task]
  exact State.startTask_task _ _ _ h

theorem State.startBooking_bookings :
    (s.startBooking d b).bookings = s.bookings.map fun y => if y = b then { y with started := true } else y := by
  obtain ⟨hbook, -, -⟩ := s.startBooking_running d b
  obtain ⟨hstart, -, -⟩ := (s.markStarted b).startTask_running b (s.codeOf b d)
  rw [hbook, State.dropStandby_bookings, hstart, State.membersStarted_bookings]
  rfl

theorem State.startBooking_run :
    (s.startBooking d b).run s.seq = some ((s.task b.die b.idx).runOn (s.taskHandle b.die b.idx) b) := by
  obtain ⟨-, hruns, -⟩ := s.startBooking_running d b
  obtain ⟨-, hstart, -⟩ := (s.markStarted b).startTask_running b (s.codeOf b d)
  rw [State.run, hruns, State.dropStandby_runs, hstart, State.membersStarted_runs]
  exact mget_mput_same ..

theorem State.startBooking_tile {k : Nat} (hk : k ∈ b.members) :
    ((s.startBooking d b).tile k).StartsWith s.seq (s.startStrands (s.task b.die b.idx)) (s.startCregs (s.task b.die b.idx)) ∧
      ((s.startBooking d b).tile k).standby = none := by
  obtain ⟨-, -, htiles⟩ := s.startBooking_running d b
  obtain ⟨-, -, hstart⟩ := (s.markStarted b).startTask_running b (s.codeOf b d)
  rw [State.tile_congr htiles]
  refine State.dropStandby_tile hk ?_
  rw [State.tile_congr hstart]
  exact (s.markStarted b).membersStarted_tile b _ hk

end

/-! ### The strands of a task that starts (R77) -/

theorem ContRec.strands_run (c : ContRec) : c.strands.1.phase = .run ∧ c.strands.2.phase = .run := by
  unfold ContRec.strands
  dsimp only
  (repeat' split) <;> exact ⟨rfl, rfl⟩

theorem State.startStrands_run (s : State) (t : TaskRec) : (s.startStrands t).1.phase = .run ∧ (s.startStrands t).2.phase = .run := by
  unfold State.startStrands
  split
  · exact ContRec.strands_run _
  · exact ⟨rfl, rfl⟩

theorem State.startStrands_fresh (s : State) {t : TaskRec} (h : t.word 7 = 0#64) :
    s.startStrands t = (Strand.fresh (t.word 2) fun i => t.word (8 + i), Strand.fresh (t.word 3) fun i => t.word (8 + i)) := by
  rw [State.startStrands, h]
  rfl

theorem State.startCregs_fresh (s : State) {t : TaskRec} (h : t.word 7 = 0#64) : s.startCregs t = Vector.replicate 8 0#64 := by
  rw [State.startCregs, h]
  rfl

theorem Strand.fresh_sget (pc : Word) (params : Nat → Word) {n : Nat} (h : n < 8) : (Strand.fresh pc params).regs.sget n = params n := by
  simp [Strand.fresh, Regs.sget, h, show n < 32 by omega]

end Sys2Proof.Machine

namespace Sys2Proof.Proofs
open Sys2Proof.Machine

/-- A booking, a booking pass and a compaction pass. -/
theorem passesBook_holds : Sys2Proof.passesBook := by
  refine fun s d hd => ⟨fun i f o => ?_, ?_, fun huniq => ?_⟩
  · dsimp only
    rw [State.bookAt_task _ _ _ _ hd, TaskRec.state_setWord _ _ (by decide), TaskRec.state_setState _ (by decide)]
    exact ⟨rfl, TaskRec.word_setWord _ _ (by decide), s.bookingOf d i f o, rfl, rfl, rfl, rfl, rfl, rfl, rfl, rfl, rfl, rfl, rfl, rfl⟩
  · obtain ⟨-, hmax, bs, hbs, hlen, hbooked⟩ := s.bookingPass_from d
    exact ⟨bs, hbs, hlen ▸ hmax, hbooked⟩
  · exact s.compactionPass_from d huniq

/-- Settles O60: the best place, the passes over the calendar, and the start of the one booking that is due. -/
theorem tasksAreBooked : Obligations.TasksAreBooked := by
  refine ⟨taskPlaces_holds, passesBook_holds, fun s d b hdue hb => ?_⟩
  intro t u
  have hu : u = s.startBooking d b := by
    rw [show u = s.startTasks d from rfl, State.startTasks_eq, hdue]
    rfl
  rw [hu]
  obtain ⟨hstate, hword⟩ := s.startBooking_task d b hb
  refine ⟨hstate, hword, s.startBooking_bookings d b, ⟨_, s.startBooking_run d b, rfl, rfl, rfl, rfl, rfl⟩, fun k hk => ?_⟩
  obtain ⟨⟨hrun, ha, he, hc⟩, hstandby⟩ := s.startBooking_tile d b hk
  obtain ⟨hrunA, hrunE⟩ := s.startStrands_run t
  refine ⟨hrun, hstandby, by rw [ha, hrunA], by rw [he, hrunE], fun h7 => ?_⟩
  rw [s.startStrands_fresh h7] at ha he
  have hregsA : ((s.startBooking d b).tile k).regs .a = (Strand.fresh (t.word 2) fun i => t.word (8 + i)).regs := congrArg Strand.regs ha
  have hregsE : ((s.startBooking d b).tile k).regs .e = (Strand.fresh (t.word 3) fun i => t.word (8 + i)).regs := congrArg Strand.regs he
  rw [hregsA, hregsE, hc]
  exact ⟨rfl, rfl, s.startCregs_fresh h7, fun n hn => ⟨Strand.fresh_sget _ _ hn, Strand.fresh_sget _ _ hn⟩⟩

end Sys2Proof.Proofs
end

section
/-!
The MX (R60–R62, R114, R117, R121, R123–R125, R131, R136): the tile that the start and the end of a command leave, the pushes of the
vectors it owes, and the rows of an ATTN block.
-/
namespace Sys2Proof.Machine

/-! ## Accumulators (R11) -/

section
variable (x : Mx) {n : Nat} (a : Acc)

theorem Mx.accAt_setAcc (h : n < 4) : (x.setAcc n a).accAt n = a := by simp [Mx.accAt, Mx.setAcc, h]

theorem Mx.accAt_setAcc_ne {j : Nat} (h : j ≠ n) : (x.setAcc n a).accAt j = x.accAt j := by simp [Mx.accAt, Mx.setAcc, h.symm]

end

/-- The accumulators a(N + i), a(N + i + 1), … set to those of a list, the numbers modulo 4 (R123). -/
def Mx.setAccs (x : Mx) (n i : Nat) (as : List Acc) : Mx := (as.zipIdx i).foldl (fun x a => x.setAcc ((n + a.2) % 4) a.1) x

theorem Mx.setAccs_cons (x : Mx) (n i : Nat) (a : Acc) (as : List Acc) :
    x.setAccs n i (a :: as) = (x.setAcc ((n + i) % 4) a).setAccs n (i + 1) as := rfl

/-- Nothing else of the MX changes. -/
theorem Mx.setAccs_only (n : Nat) (as : List Acc) : ∀ (x : Mx) (i : Nat), x.setAccs n i as = { x with acc := (x.setAccs n i as).acc } := by
  induction as with
  | nil => exact fun _ _ => rfl
  | cons a as ih => exact fun x i => ih (x.setAcc ((n + i) % 4) a) (i + 1)

/-- An accumulator that no entry of the list is for stays. -/
theorem Mx.accAt_setAccs_ne (n : Nat) {j : Nat} (as : List Acc) :
    ∀ (x : Mx) (i : Nat), (∀ c < as.length, j ≠ (n + (i + c)) % 4) → (x.setAccs n i as).accAt j = x.accAt j := by
  induction as with
  | nil => exact fun _ _ _ => rfl
  | cons a as ih =>
    intro x i h
    have later : ∀ c < as.length, j ≠ (n + (i + 1 + c)) % 4 := fun c hc => by
      rw [Nat.add_assoc i, Nat.add_comm 1]
      exact h (c + 1) (Nat.succ_lt_succ hc)
    exact (ih _ _ later).trans (Mx.accAt_setAcc_ne _ _ (h 0 (Nat.succ_pos _)))

/-- At most four accumulators are different ones, and each is set to its entry. -/
theorem Mx.accAt_setAccs (n : Nat) (as : List Acc) : ∀ (x : Mx) (i : Nat) {c : Nat}, as.length ≤ 4 → c < as.length →
    (x.setAccs n i as).accAt ((n + (i + c)) % 4) = as.getD c 0#32768 := by
  induction as with
  | nil => exact fun _ _ _ _ hc => absurd hc (Nat.not_lt_zero _)
  | cons a as ih =>
    intro x i c hfour hc
    rw [List.length_cons] at hfour hc
    cases c with
    | zero =>
      have apart : ∀ c < as.length, (n + (i + 0)) % 4 ≠ (n + (i + 1 + c)) % 4 := fun c hc => by omega
      rw [Mx.setAccs_cons, Mx.accAt_setAccs_ne _ _ _ _ apart, Nat.add_zero, Mx.accAt_setAcc _ _ (Nat.mod_lt _ (by decide))]
      rfl
    | succ c =>
      have tail := ih (x.setAcc ((n + i) % 4) a) (i + 1) (Nat.le_of_succ_le hfour) (Nat.lt_of_succ_lt_succ hc)
      rw [Nat.add_right_comm i 1 c] at tail
      rw [Mx.setAccs_cons]
      exact tail

/-! ## The start of a command (R114) -/

/-- The tile once its MX has started command `c`, with the commands `q` behind it. -/
def Tile.commandStarted (t : Tile) (c : MxCmd) (q : List MxCmd) (now : Nat) : Tile :=
  { t with mx := { t.mx with
      queue := q, owed := t.mx.owed ++ t.mx.owes c now
      run := some { cmd := c, start := now, done := 0, ea := [], eb := [], rows := [], want := none, half := none, stall := 0 } } }

theorem exec_mxCommandStart {s : State} {k : Nat} {c : MxCmd} {q : List MxCmd} (hrun : (s.tile k).mx.run = none)
    (hqueue : (s.tile k).mx.queue = c :: q) (hissue : c.issue < s.cycle) (hbarred : (s.tile k).mxBarred s.cycle = false) :
    exec (.mxCommandStart k) s = .next (s.setTile k ((s.tile k).commandStarted c q s.cycle)) := by
  simp only [exec, execMxCommandStart, hrun, hqueue, hissue.not_ge, hbarred, decide_false, Bool.or_self, Bool.false_eq_true, if_false]
  rfl

/-! ## The end of a command (R117, R123–R125, R131) -/

/-- The tile whose MX runs no command. -/
def Tile.mxIdle (t : Tile) : Tile := { t with mx := { t.mx with run := none } }

theorem exec_mxCommandEnd {s : State} {k : Nat} {x : MxRun} (hrun : (s.tile k).mx.run = some x) (hdone : x.cmd.op.busy ≤ x.done) :
    exec (.mxCommandEnd k) s = .next (s.setTile k ((s.tile k).mxIdle.endCommand x s.cycle)) := by
  simp only [exec, execMxCommandEnd, hrun, hdone, if_true]
  rfl

/-- The flags of a command reach the E-strand's st (R91, R131). -/
theorem Tile.mxFlags_st (t : Tile) (f : FFlags) : ((t.mxFlags f).regs .e).st = (t.regs .e).st ||| (f.setWidth 16 <<< 4) := rfl

/-- Four accumulators come out of an ATTN block that four go into (R123). -/
theorem attnBlock_length (first : Bool) (base : Nat) (fd : Vector (BitVec 128) 4) (scale : Nat) (q : List Entry) (rows : List AttnRow)
    (acc : List Acc) (m l : BitVec 1024) : (attnBlock first base fd scale q rows acc m l).1.length = acc.length := by
  unfold attnBlock
  simp only [List.length_map, List.length_zipIdx]

/-- What the ATTN `x` of a(N) makes of the MX (R123, R124). -/
def Mx.attnResult (y : Mx) (x : MxRun) (n : Nat) (v : Word) (fd : Vector (BitVec 128) 4) (scale : Lane) :
    List Acc × BitVec 1024 × BitVec 1024 × FFlags :=
  attnBlock (v.getLsbD 23) (wbits v 24 24) fd scale.toNat x.ea x.rows ((List.range 4).map fun c => y.accAt ((n + c) % 4)) y.m y.l

section
variable (t : Tile) {x : MxRun} (now : Nat) {n : Nat}

theorem Tile.endCommand_mzero (h : x.cmd.op = .mzero n) : (t.endCommand x now).mx = t.mx.setAcc n 0#32768 := by
  rw [Tile.endCommand, h]
  rfl

theorem Tile.endCommand_mma {scaled : Bool} {k fa fb : Nat} {cb : Vector (BitVec 256) 4} (h : x.cmd.op = .mma scaled n k fa fb cb)
    (hk : 0 < k) : (t.endCommand x now).mx =
      { t.mx.setAcc n (mmaAcc scaled k fa fb cb x.ea x.eb (t.mx.accAt n)).1 with
        flags := t.mx.flags ++ [(now + 6, (mmaAcc scaled k fa fb cb x.ea x.eb (t.mx.accAt n)).2)] } := by
  simp only [Tile.endCommand, h, hk.ne', if_false, Tile.checkResult_mx]

theorem Tile.endCommand_mdrain {bf : Bool} {d : Nat} (h : x.cmd.op = .mdrain n bf d) : t.endCommand x now = t := by
  rw [Tile.endCommand, h]

theorem Tile.endCommand_attn {v : Word} {fd : Vector (BitVec 128) 4} {scale : Lane} (h : x.cmd.op = .attn n v fd scale) :
    t.endCommand x now = (({ t with
      mx := ({ t.mx with
        m := (t.mx.attnResult x n v fd scale).2.1
        l := (t.mx.attnResult x n v fd scale).2.2.1 } : Mx).setAccs n 0 (t.mx.attnResult x n v fd scale).1 } : Tile).mxFlags
      (t.mx.attnResult x n v fd scale).2.2.2).checkResult now := by
  rw [Tile.endCommand, h]
  rfl

theorem Tile.endCommand_attnfin {d : Nat} (h : x.cmd.op = .attnfin n d) :
    t.endCommand x now = (({ t with mx := t.mx.setAcc n (attnFinish (t.mx.accAt n) t.mx.m t.mx.l).1 } : Tile).mxFlags
      (attnFinish (t.mx.accAt n) t.mx.m t.mx.l).2.1).checkResult now := by
  rw [Tile.endCommand, h]

end

/-! ## Pushes (R114, R117) -/

/-- The tile once the first of its owed vectors is pushed, with those of `r` still owed. -/
def Tile.owedPushed (t : Tile) (o : Owed) (r : List Owed) (now : Nat) : Tile :=
  let q := o.d - 28
  let u : Tile := { t with mx := { t.mx with owed := r } }
  let u : Tile := { u.sqset q ((u.sqget q).push { id := u.nextId, due := now, data := o.data, filled := true }) with
    nextId := u.nextId + 1 }
  ((u.modRegs .e fun g => { g with out := dropOut o.cmd .none g.out }).mxFlags o.flags).checkResult now

/-- The tile whose first owed vector waits one cycle, and every later one with it. -/
def Tile.owedDelayed (t : Tile) (o : Owed) (r : List Owed) : Tile :=
  { t with mx := { t.mx with owed := o :: r.map fun (y : Owed) => { y with due := y.due + 1 } } }

section
variable {s : State} {k : Nat} {o : Owed} {r : List Owed} (howed : (s.tile k).mx.owed = o :: r) (hqueue : o.d = 28 ∨ o.d = 29)
  (hdue : o.due ≤ s.cycle)
include howed hqueue hdue

/-- The first owed vector is the one that is due, and is pushed where its queue has room. -/
theorem exec_mxOwedPush : exec (.mxOwedPush k) s = .next (s.setTile k
    (if ((s.tile k).sqget (o.d - 28)).room s.cycle then (s.tile k).owedPushed o r s.cycle else (s.tile k).owedDelayed o r)) := by
  have pushes : 28 ≤ o.d := by omega
  have first : ((o :: r).find? fun o => decide (28 ≤ o.d) && decide (o.due ≤ s.cycle)) = some o := by
    rw [List.find?_cons_of_pos (by rw [decide_eq_true pushes, decide_eq_true hdue, Bool.and_self])]
  have none_before : (o :: r).takeWhile (· != o) = [] := List.takeWhile_cons_of_neg (by simp)
  simp only [exec, execMxOwedPush, howed, first, none_before, List.length_nil, Nat.zero_add, List.drop_succ_cons, List.drop_zero,
    List.nil_append]
  split <;> rfl

end

theorem Tile.owedPushed_owed (t : Tile) (o : Owed) (r : List Owed) (now : Nat) : (t.owedPushed o r now).mx.owed = r := rfl

theorem Tile.owedPushed_sqget (t : Tile) {o : Owed} (r : List Owed) (now : Nat) (h : o.d - 28 < 2) :
    ((t.owedPushed o r now).sqget (o.d - 28)).ents =
      (t.sqget (o.d - 28)).ents ++ [{ id := t.nextId, due := now, data := o.data, filled := true }] :=
  (congrArg Queue.ents (Tile.sqget_sqset _ _ h)).trans rfl

/-! ## Rows of an ATTN block (R60–R62, R121, R136) -/

/-- A vector holds the bits of the number it is made of. -/
theorem bits_ofNat (x : Nat) {lo n w : Nat} (h : lo + n ≤ w) : bits (BitVec.ofNat w x).toNat lo n = bits x lo n := by
  obtain ⟨c, rfl⟩ := Nat.exists_eq_add_of_le (Nat.le_of_add_right_le h)
  have hn : n ≤ c := Nat.le_of_add_le_add_left h
  rw [BitVec.toNat_ofNat, bits, bits, Nat.shiftRight_eq_div_pow, Nat.shiftRight_eq_div_pow, Nat.pow_add, Nat.mod_mul_right_div_self,
    Nat.mod_mod_of_dvd _ (Nat.pow_dvd_pow 2 hn)]

/-- Bits that are replaced are the new ones. -/
theorem bits_replaced (x : Nat) {lo n y : Nat} (h : y < 2 ^ n) : bits (x - (bits x lo n <<< lo) + (y <<< lo)) lo n = y := by
  have split : x / 2 ^ lo - x / 2 ^ lo % 2 ^ n = 2 ^ n * (x / 2 ^ lo / 2 ^ n) := by
    rw [Nat.sub_eq_of_eq_add]
    exact (Nat.div_add_mod ..).symm
  simp only [bits, Nat.shiftRight_eq_div_pow, Nat.shiftLeft_eq]
  rw [Nat.add_mul_div_right _ _ (Nat.two_pow_pos lo), Nat.mul_comm _ (2 ^ lo), Nat.sub_mul_div, split, Nat.mul_add_mod, Nat.mod_eq_of_lt h]

section
variable {t : Tile} {now a : Nat} {o : OldBytes}

theorem Tile.rowSeen_no_write (h : t.before = none) (now a : Nat) :
    t.rowSeen now a = BitVec.ofNat 2048 (t.fieldRead false (now - 1) a 256) := by
  rw [Tile.rowSeen, Tile.justSet, h]
  rfl

/-- An LNDSET of the same cycle is not yet seen (R136). -/
theorem Tile.rowSeen_before_write (h : t.before = some o) (hcycle : o.cycle = now) (ha : a % 256 = 0) (hlo : a ≤ o.addr)
    (hhi : o.addr + 16 ≤ a + 256) (hbytes : o.bytes < 2 ^ 128) : bits (t.rowSeen now a).toNat (8 * (o.addr - a)) 128 = o.bytes := by
  have row : o.addr / 256 = a / 256 := by omega
  have just : t.justSet now a = some o := by simp [Tile.justSet, h, hcycle, row]
  rw [Tile.rowSeen, just, bits_ofNat _ (by omega)]
  exact bits_replaced _ hbytes

end

/-- A read of a row changes no row that a later read sees. -/
theorem Tile.readRow_rowSeen (t : Tile) (x : MxRun) (now a b : Nat) : (t.readRow x now a).rowSeen now b = t.rowSeen now b := by
  unfold Tile.readRow
  dsimp only
  split <;> rfl

/-- The tile after the reads of the rows at `as`. -/
def Tile.readRows (t : Tile) (x : MxRun) (now : Nat) (as : List Nat) : Tile := as.foldl (fun t a => t.readRow x now a) t

theorem Tile.readRows_rowSeen (t : Tile) (x : MxRun) (now b : Nat) (as : List Nat) :
    (t.readRows x now as).rowSeen now b = t.rowSeen now b :=
  foldl_proj (fun t : Tile => t.rowSeen now b) (fun t a => t.readRow_rowSeen x now a b) as t

/-- Row `n` of the ATTN block at `f` as it is read first: a key row that was read before, or the row itself (R121). -/
def Tile.rowRead (t : Tile) (x : MxRun) (f n now : Nat) : AttnRow :=
  let a := (attnAddrs f n).headD 0
  let tags := t.rowTagsBefore now (a / 256)
  x.half.getD { n := n, data := t.rowSeen now a, rot := t.rowSeen now a, ftag := tags.1, ptag := tags.2 }

section
variable (t : Tile) {x : MxRun} {f n now : Nat}

/-- Where every row that is needed has a slot, the block's row is complete with what was seen last as its rotation row (R121). -/
theorem Tile.attnRead_complete (h : (x.rowsLeft f n).length ≤ t.rowSlots now ((attnAddrs f n).headD 0)) :
    (t.attnRead x f n now).mx.run = some { x with
      want := none, half := none
      rows := x.rows ++ [{ t.rowRead x f n now with rot := t.rowSeen now ((attnAddrs f n).getLastD 0) }] } := by
  rw [← t.readRows_rowSeen x now _ ((x.rowsLeft f n).take (t.rowSlots now ((attnAddrs f n).headD 0)))]
  simp only [Tile.attnRead, if_pos h]
  rfl

/-- Else the read is delayed by one field cycle, two of the MX's (R61). -/
theorem Tile.attnRead_delayed (h : t.rowSlots now ((attnAddrs f n).headD 0) < (x.rowsLeft f n).length) :
    (t.attnRead x f n now).mx.run = some { x with
      half := if t.rowSlots now ((attnAddrs f n).headD 0) = 0 then x.half else some (t.rowRead x f n now), stall := 2 } := by
  simp only [Tile.attnRead, if_neg h.not_ge]
  rfl

theorem Tile.rowRead_first (h : x.half = none) : (t.rowRead x f n now).n = n ∧
    (t.rowRead x f n now).data = t.rowSeen now (if n < 32 then f + 256 * n else f + 8192 + 256 * (n - 32)) := by
  have head : (attnAddrs f n).headD 0 = if n < 32 then f + 256 * n else f + 8192 + 256 * (n - 32) := by
    unfold attnAddrs
    split <;> rfl
  rw [Tile.rowRead, h, Option.getD_none, head]
  exact ⟨rfl, rfl⟩

theorem Tile.rowRead_again {r : AttnRow} (h : x.half = some r) : t.rowRead x f n now = r := by
  rw [Tile.rowRead, h]
  rfl

end

/-- A key row's last read is of its rotation row (R121). -/
theorem attnAddrs_rotation {n : Nat} (h : n < 32) (f : Nat) : (attnAddrs f n).getLastD 0 = f + 16384 + 256 * n := by
  rw [attnAddrs, if_pos h]
  rfl

/-- The rows that a row of an ATTN block still needs and that have slots in this field cycle (R121). -/
def Tile.rowsOpen (t : Tile) (x : MxRun) (f n now : Nat) : List Nat :=
  (x.rowsLeft f n).take (t.rowSlots now ((attnAddrs f n).headD 0))

/-- The state once row `n` of the ATTN block at `f` has been read as far as it has slots: repairs first (R65). -/
def State.attnRowRead (s : State) (k : Nat) (x : MxRun) (f n : Nat) : State :=
  let u := s.repairs k 256 ((s.tile k).rowsOpen x f n s.cycle)
  u.setTile k ((u.tile k).attnRead x f n u.cycle)

theorem exec_attnRowRead {s : State} {k n m : Nat} {x : MxRun} {v : Word} {fd : Vector (BitVec 128) 4} {scale : Lane}
    (hrun : (s.tile k).mx.run = some x) (hwant : x.want = some n) (hop : x.cmd.op = .attn m v fd scale) :
    exec (.attnRowRead k) s = .next (s.attnRowRead k x (wbits v 0 22) n) := by
  simp only [exec, execAttnRowRead, hrun, hwant, hop]
  rfl

section
variable {k : Nat} {s u : State} (h : OnlyRepaired k s u)
include h

/-- Repairs change no row that is read. -/
theorem OnlyRepaired.rowSeen (now a : Nat) : (u.tile k).rowSeen now a = (s.tile k).rowSeen now a := by
  obtain ⟨-, w, d, ht⟩ := h
  rw [ht]
  rfl

/-- Repairs take no slot of port A. -/
theorem OnlyRepaired.rowSlots (now a : Nat) : (u.tile k).rowSlots now a = (s.tile k).rowSlots now a := by
  obtain ⟨-, w, d, ht⟩ := h
  rw [ht]
  rfl

theorem OnlyRepaired.rowTagsBefore (now row : Nat) : (u.tile k).rowTagsBefore now row = (s.tile k).rowTagsBefore now row := by
  obtain ⟨-, w, d, ht⟩ := h
  rw [ht]
  rfl

theorem OnlyRepaired.rowRead (x : MxRun) (f n now : Nat) : (u.tile k).rowRead x f n now = (s.tile k).rowRead x f n now := by
  simp only [Tile.rowRead, h.rowSeen, h.rowTagsBefore]

end

section
variable (s : State) (k : Nat) {x : MxRun} {f n : Nat}

theorem State.attnRowRead_elsewhere (x : MxRun) (f n : Nat) : SameElsewhere k s (s.attnRowRead k x f n) :=
  (s.repairs_only k 256 _).1.trans (.setTile ..)

theorem State.attnRowRead_complete (h : (x.rowsLeft f n).length ≤ (s.tile k).rowSlots s.cycle ((attnAddrs f n).headD 0)) :
    ((s.attnRowRead k x f n).tile k).mx.run = some { x with
      want := none, half := none
      rows := x.rows ++ [{ (s.tile k).rowRead x f n s.cycle with
        rot := (s.tile k).rowSeen s.cycle ((attnAddrs f n).getLastD 0) }] } := by
  have repaired := s.repairs_only k 256 ((s.tile k).rowsOpen x f n s.cycle)
  rw [State.attnRowRead, State.tile_setTile, repaired.1.cycle, Tile.attnRead_complete _ (by rwa [repaired.rowSlots]), repaired.rowRead,
    repaired.rowSeen]

theorem State.attnRowRead_delayed (h : (s.tile k).rowSlots s.cycle ((attnAddrs f n).headD 0) < (x.rowsLeft f n).length) :
    ∃ half, ((s.attnRowRead k x f n).tile k).mx.run = some { x with half := half, stall := 2 } := by
  have repaired := s.repairs_only k 256 ((s.tile k).rowsOpen x f n s.cycle)
  rw [State.attnRowRead, State.tile_setTile, repaired.1.cycle, Tile.attnRead_delayed _ (by rwa [repaired.rowSlots])]
  exact ⟨_, rfl⟩

end

end Sys2Proof.Machine

namespace Sys2Proof.Proofs
open Sys2Proof.Machine

/-- Settles O36: the tile that each move of the MX leaves. -/
theorem matrixUnitRuns : Obligations.MatrixUnitRuns := by
  intro s k t
  refine ⟨fun c q hrun hqueue hissue hbarred => ?start,
    fun x hrun hdone => ⟨fun n hop hn => ?mzero, fun sc n kk fa fb cb hop hkk hn => ?mma, fun n v fd sc hop => ?attn,
      fun n d hop hn => ?attnfin, fun n bf d hop => ?mdrain⟩,
    fun o r howed hqueue hdue hroom => ?push, fun o r howed hqueue hdue hroom => ?delay,
    fun x n m v fd sc hrun hwant hop _ => ⟨fun hslots => ?read, fun hslots => ?wait⟩,
    fun a => ⟨fun h => Tile.rowSeen_no_write h s.cycle a, fun o h hcycle ha hlo hhi => Tile.rowSeen_before_write h hcycle ha hlo hhi⟩⟩
  case start =>
    refine ⟨_, exec_mxCommandStart hrun hqueue hissue hbarred, .setTile .., ?_⟩
    rw [State.tile_setTile]
    exact ⟨rfl, ⟨_, rfl, rfl, rfl, rfl⟩, rfl, rfl⟩
  case mzero =>
    refine ⟨_, exec_mxCommandEnd hrun hdone, .setTile .., ?_⟩
    rw [State.tile_setTile, Tile.endCommand_mzero _ _ hop]
    exact ⟨rfl, Mx.accAt_setAcc _ _ hn, fun j hj => Mx.accAt_setAcc_ne _ _ hj⟩
  case mma =>
    refine ⟨_, exec_mxCommandEnd hrun hdone, .setTile .., ?_⟩
    rw [State.tile_setTile, Tile.endCommand_mma _ _ hop hkk]
    exact ⟨rfl, Mx.accAt_setAcc _ _ hn, fun j hj => Mx.accAt_setAcc_ne _ _ hj, rfl⟩
  case attn =>
    intro y
    have four : y.1.length = 4 := attnBlock_length ..
    refine ⟨_, exec_mxCommandEnd hrun hdone, .setTile .., ?_⟩
    rw [State.tile_setTile, Tile.endCommand_attn _ _ hop]
    have others := Mx.setAccs_only n y.1 { t.mx with run := none, m := y.2.1, l := y.2.2.1 } 0
    refine ⟨congrArg Mx.run others, congrArg Mx.m others, congrArg Mx.l others, fun c hc => ?_, rfl⟩
    have set := Mx.accAt_setAccs n y.1 { t.mx with run := none, m := y.2.1, l := y.2.2.1 } 0 four.le (hc.trans_eq four.symm)
    rwa [Nat.zero_add] at set
  case attnfin =>
    refine ⟨_, exec_mxCommandEnd hrun hdone, .setTile .., ?_⟩
    rw [State.tile_setTile, Tile.endCommand_attnfin _ _ hop]
    exact ⟨rfl, Mx.accAt_setAcc _ _ hn, fun j hj => Mx.accAt_setAcc_ne _ _ hj, rfl⟩
  case mdrain =>
    refine ⟨_, exec_mxCommandEnd hrun hdone, ?_⟩
    rw [State.tile_setTile, Tile.endCommand_mdrain _ _ hop]
    exact ⟨rfl, rfl⟩
  case push =>
    refine ⟨_, exec_mxOwedPush howed hqueue hdue, .setTile .., ?_⟩
    rw [State.tile_setTile, if_pos hroom]
    exact ⟨Tile.owedPushed_owed .., Tile.owedPushed_sqget _ _ _ (by omega)⟩
  case delay =>
    refine ⟨_, exec_mxOwedPush howed hqueue hdue, ?_⟩
    rw [State.tile_setTile, if_neg (Bool.eq_false_iff.1 hroom)]
    rfl
  case read =>
    refine ⟨_, exec_attnRowRead hrun hwant hop, s.attnRowRead_elsewhere k x _ n, _, _, s.attnRowRead_complete k hslots, rfl, rfl, rfl,
      fun hhalf => Tile.rowRead_first _ hhalf, fun r hhalf => ?_, fun hn => ?_⟩
    · rw [Tile.rowRead_again _ hhalf]
      exact ⟨rfl, rfl⟩
    · rw [attnAddrs_rotation hn]
  case wait =>
    obtain ⟨half, hread⟩ := s.attnRowRead_delayed k hslots
    exact ⟨_, exec_attnRowRead hrun hwant hop, s.attnRowRead_elsewhere k x _ n, _, hread, hwant, rfl, rfl, rfl⟩

end Sys2Proof.Proofs
end

section
/-!
The issue of MX commands (R114, R121, R122, R154, R359).
-/
namespace Sys2Proof.Machine

/-! ## The class MX (R154) -/

section
variable {e : Env} {bad : BitVec 128 → Bool} {m : Bool} {f : Form} {uses : Env → List Touch} {cmd : Env → Effect} (h : e.s.focus = some e)
include h

/-- In a task that books the MX, a word of class MX has its own effect. -/
theorem issueIf_booked (hbooked : e.run.mask.getLsbD 1 = true) (hbad : bad e.pl = false) (hr : e.runs m f false (uses e) = true) :
    issueIf bad m f false uses (fun e => e.needMx (cmd e)) e.s = .next (e.apply (cmd e)) := by
  rw [issueIf_runs h hbad hr, Env.needMx, if_pos hbooked]

/-- In a task that does not, it raises BOOK-SHAPE. -/
theorem issueIf_unbooked (hbooked : e.run.mask.getLsbD 1 = false) (hbad : bad e.pl = false) (hr : e.runs m f false (uses e) = true) :
    issueIf bad m f false uses (fun e => e.needMx (cmd e)) e.s = .next (e.trap (trip codeBookShape) e.now) := by
  rw [issueIf_runs h hbad hr, Env.needMx, hbooked]
  rfl

/-- The same for a word without a stage-1 check of its own. -/
theorem issue_booked (hbooked : e.run.mask.getLsbD 1 = true) (hr : e.runs m f false (uses e) = true) :
    issue m f false uses (fun e => e.needMx (cmd e)) e.s = .next (e.apply (cmd e)) := by
  rw [issue, issueIf_booked h hbooked rfl hr]

theorem issue_unbooked (hbooked : e.run.mask.getLsbD 1 = false) (hr : e.runs m f false (uses e) = true) :
    issue m f false uses (fun e => e.needMx (cmd e)) e.s = .next (e.trap (trip codeBookShape) e.now) := by
  rw [issue, issueIf_unbooked h hbooked rfl hr]

end

/-! ## The queue (R114, R359) -/

/-- The state after command `op` is put in the queue, with the results `out` outstanding, or waits (R114, R359). -/
def Env.commanded (e : Env) (op : MxOp) (out : List ResVal) : State := e.apply (e.command op out e.t)

/-! ## The commands -/

/-- MDRAIN names sixteen registers that there are, or a queue (R117). -/
theorem drain_target {d : Nat} (h : d ≤ 12 ∨ d = 28 ∨ d = 29) : (decide (13 ≤ d) && decide (d ≤ 27) || decide (30 ≤ d)) = false := by
  simp only [Bool.or_eq_false_iff, Bool.and_eq_false_iff, decide_eq_false_iff_not]
  omega

/-- A number below 2^48 has no high bits (R121). -/
theorem wbits_high {v : Word} (h : v.toNat / 2 ^ 48 = 0) : wbits v 48 16 = 0 := by
  rw [wbits, bits, Nat.shiftRight_eq_div_pow, h, Nat.zero_mod]

section
variable {e : Env} {m : Bool} {n : BitVec 2} (h : e.s.focus = some e) (hbooked : e.run.mask.getLsbD 1 = true)
include h hbooked

/-- MMA and MMAS with formats they accept, of at most 65536 steps (R105, R116). -/
theorem execMmaForm_commands {scaled : Bool} {k : BitVec 3}
    (hr : e.runs m { formZ.eOnly with nfmt := .yes } false (cbTouch (nfmtA e.pl 1) ++ cbTouch (nfmtB e.pl 1)) = true)
    (hk : (e.r.lget k.toNat).toNat ≤ 65536) (ha : mmaFormat scaled (nfmtA e.pl 1) = true) (hb : mmaFormat scaled (nfmtB e.pl 1) = true) :
    execMmaForm scaled m n k e.s =
      .next (e.commanded (.mma scaled n.toNat (e.r.lget k.toNat).toNat (nfmtA e.pl 1) (nfmtB e.pl 1) e.t.cb) []) := by
  rw [execMmaForm, issue_booked h hbooked hr]
  simp only [ha, hb, hk.not_gt, Bool.not_true, Bool.or_self, decide_false, Bool.false_eq_true, if_false, Env.commanded]

/-- MDRAIN of FP32 vectors (R117). -/
theorem exec_mdrain_commands {d : BitVec 5} (hr : e.runs m { formZ.eOnly with nfmt := .yes } false
      ((List.range 16).flatMap fun i => if d.toNat < 28 then tV (d.toNat + i) else []) = true)
    (hd : d.toNat ≤ 12 ∨ d.toNat = 28 ∨ d.toNat = 29) (hnfmt : plNfmt e.pl = false) :
    exec (.mdrain m n d) e.s = .next (e.commanded (.mdrain n.toNat false d.toNat) (drainOut d.toNat)) := by
  rw [exec, execMdrain, issueIf_booked h hbooked (drain_target hd) hr]
  simp only [hnfmt, Bool.false_and, Bool.false_eq_true, if_false, Env.commanded]

/-- ATTN of a block that passes its checks (R121, R122). -/
theorem exec_attn_commands {x : BitVec 5} {f : Nat} (hr : e.runs m formZ.eOnly false [tS x.toNat, .fd] = true)
    (hhigh : (e.r.sget x.toNat).toNat / 2 ^ 48 = 0) (hzero : (e.r.sget x.toNat).getLsbD 22 = false)
    (hf : wbits (e.r.sget x.toNat) 0 22 = f) (halign : f % 256 = 0) (hkey : e.t.keyOk = true) (hrange : e.t.inRange e.run f 24576 = true)
    (hgroups : e.run.groupsBooked f 24576 = true) (hflight : e.t.inFlightBut (e.s.copiesNow e.k) f 24576 = false) :
    exec (.attn m n x) e.s =
      .next (e.commanded (.attn n.toNat (e.r.sget x.toNat) e.t.fd (e.t.ascale.setWidth 32)) []) := by
  rw [exec, execAttn, issue_booked h hbooked hr]
  simp only [hf, wbits_high hhigh, hzero, halign, hkey, hrange, hgroups, hflight, failIf, firstTrip, bne_self_eq_false, Bool.not_true,
    Bool.or_self, Bool.false_eq_true, if_false, Env.commanded]

end

end Sys2Proof.Machine

namespace Sys2Proof.Proofs
open Sys2Proof.Machine

/-- Settles O29: the check of the class MX, then each command's own checks and the queue. -/
theorem matrixCommands : Obligations.MatrixCommands := by
  intro s e m n k d x h put fa fb kk v f
  obtain ⟨rfl, -⟩ := State.focus_some h
  have queued : ∀ op out, put op out = e.commanded op out := fun op out => by
    rw [Env.commanded, Env.command, Env.apply_ite]
    rfl
  simp only [queued]
  have target {d : Nat} (hd : d < 30) : decide (30 ≤ d) = false := decide_eq_false hd.not_ge
  refine ⟨fun hbooked => ⟨fun hr => ?mzero, fun hr hk => ⟨execMmaForm_commands h hbooked hr hk, execMmaForm_commands h hbooked hr hk⟩,
      exec_mdrain_commands h hbooked, fun hr hhigh hzero => exec_attn_commands h hbooked hr hhigh hzero rfl, fun hr hd => ?attnfin⟩,
    fun hbooked => ⟨fun hr => ?mzero', fun hr => ⟨?mma', ?mmas'⟩, fun hr hd => ?mdrain', fun hr => ?attn', fun hr hd => ?attnfin'⟩⟩ <;>
    rw [exec]
  case mzero => exact issue_booked h hbooked hr
  case attnfin => exact issueIf_booked h hbooked (target hd) hr
  case mdrain' => exact issueIf_unbooked h hbooked (drain_target hd) hr
  case attnfin' => exact issueIf_unbooked h hbooked (target hd) hr
  all_goals exact issue_unbooked h hbooked hr

end Sys2Proof.Proofs
end

section
/-!
Words that take a scalar, a codebook, a histogram, a list or a sample from vectors (R118, R127–R130, R346, R349, R352, R353).
-/
namespace Sys2Proof.Machine

/-- A destination that is named is below the bound of its check. -/
theorem dNum_checked {p : BitVec 128} {d : BitVec 4} {n : Nat} (h : dNum p d < n) : (fun p => decide (n ≤ dNum p d)) p = false :=
  decide_eq_false h.not_ge

/-- The state after a word that leaves `t` of the tile and one checked result of latency `lat` outstanding (R88, R391). -/
def Env.postedOn (e : Env) (t : Tile) (lat : Nat) (v : ResVal) (f : BitVec 5) : State :=
  e.retired (e.s.setTile e.k ((t.modRegs e.σ (·.post (e.now + lat) v f)).checkResult (e.now + lat))) none 1 none

section
variable {e : Env} {m : Bool} {d a : BitVec 4} (h : e.s.focus = some e)
include h

/-! ## From a vector to a scalar (R346, R349) -/

section
variable {f : Form} {bad : BitVec 128 → Bool} {lat : Nat} {code : Env → Bool} {op : Env → Vec → Word × FFlags}
  (hr : e.runs m f.eOnly false (tS (dNum e.pl d) :: tV (aNum e.pl a)) = true) (hbad : bad e.pl = false) (hcode : code e = false)
include hr hbad hcode

theorem vecToScalar_waits (hread : e.t.vread e.now [aNum e.pl a] = none) : vecToScalar m f bad lat d a code op e.s = .next e.s := by
  refine (issueIf_runs h (by exact hbad) (by exact hr)).trans ?_
  simp only [hcode, hread, Bool.false_eq_true, if_false, Env.apply_wait]

theorem vecToScalar_posts {vs : List Vec} {t : Tile} (hread : e.t.vread e.now [aNum e.pl a] = some (vs, t)) :
    vecToScalar m f bad lat d a code op e.s =
      .next (e.postedOn t lat (.s (dNum e.pl d) (op e (vecArg vs 0)).1) (op e (vecArg vs 0)).2) := by
  refine (issueIf_runs h (by exact hbad) (by exact hr)).trans ?_
  simp only [hcode, hread, Bool.false_eq_true, if_false, Env.apply_done, Env.postedOn, Env.retired_eq]

end

/-- VRED waits for its source. -/
theorem exec_vred_waits (hr : e.runs m { formD2.eOnly with ximm := 1, xneed := 1, izero := 0xF0, nfmt := .yes } false
      (tS (dNum e.pl d) :: tV (aNum e.pl a)) = true) (hop : plXbits e.pl % 16 < 11) (hnfmt : badRed e.pl = false)
    (hread : e.t.vread e.now [aNum e.pl a] = none) : exec (.vred m d a) e.s = .next e.s := by
  have known : decide (11 ≤ plXbits e.pl % 16) = false := decide_eq_false hop.not_ge
  rw [exec, execVred]
  exact vecToScalar_waits h (by exact hr) known hnfmt hread

/-- VRED reduces the lanes by a tree of six levels. -/
theorem exec_vred_posts (hr : e.runs m { formD2.eOnly with ximm := 1, xneed := 1, izero := 0xF0, nfmt := .yes } false
      (tS (dNum e.pl d) :: tV (aNum e.pl a)) = true) (hop : plXbits e.pl % 16 < 11) (hnfmt : badRed e.pl = false)
    {vs : List Vec} {t : Tile} (hread : e.t.vread e.now [aNum e.pl a] = some (vs, t)) :
    let ls := vredLanes e.r.ftz (if plXbits e.pl < 3 then nfmtA e.pl 0 else 0) (vecArg vs 0)
    let y := treeReduce (vredOp e.r.rounding e.r.ftz (plXbits e.pl)) 6 (ls.map (·.1))
    exec (.vred m d a) e.s = .next (e.postedOn t 8 (.s (dNum e.pl d) (w64 y.1)) (ls.foldl (fun f l => f ||| l.2) y.2)) := by
  have known : decide (11 ≤ plXbits e.pl % 16) = false := decide_eq_false hop.not_ge
  intro ls y
  rw [exec, execVred]
  refine (vecToScalar_posts h (by exact hr) known hnfmt hread).trans ?_
  dsimp only

section
variable (hr : e.runs m { formD2.eOnly with ximm := 1, xneed := 1, izero := 0xC0 } false (tS (dNum e.pl d) :: tV (aNum e.pl a)) = true)
include hr

theorem exec_vext_waits (hread : e.t.vread e.now [aNum e.pl a] = none) : exec (.vext m d a) e.s = .next e.s := by
  rw [exec, execVext]
  exact vecToScalar_waits h (by exact hr) rfl rfl hread

/-- VEXT takes the lane that its XIMM bits name. -/
theorem exec_vext_posts {vs : List Vec} {t : Tile} (hread : e.t.vread e.now [aNum e.pl a] = some (vs, t)) :
    exec (.vext m d a) e.s = .next (e.postedOn t 2 (.s (dNum e.pl d) (w64 (laneN (vecArg vs 0) (plXbits e.pl)))) 0#5) := by
  rw [exec, execVext]
  exact vecToScalar_posts h (by exact hr) rfl rfl hread

end

/-! ## Samples (R129, R130, R353) -/

section
variable (hr : e.runs m formD3.page1.eOnly false (tS (dNum e.pl d) :: tS (bNum e.pl) :: tV (aNum e.pl a)) = true)
include hr

theorem exec_vsamp_waits (hread : e.t.vread e.now [aNum e.pl a] = none) : exec (.vsamp m d a) e.s = .next e.s := by
  rw [exec, execVsamp]
  refine (issue_runs h (by exact hr)).trans ?_
  simp only [hread, Env.apply_wait]

theorem exec_vsamp_posts {vs : List Vec} {t : Tile} (hread : e.t.vread e.now [aNum e.pl a] = some (vs, t)) :
    let y := sample (vecArg vs 0) (fpOf (e.r.sget (bNum e.pl))) (philox e.t.pxseed e.t.pxctr)
    exec (.vsamp m d a) e.s = .next (e.postedOn { t with pxctr := t.pxctr + 1#128 } 40 (.s (dNum e.pl d) (w64 y.1)) y.2) := by
  rw [exec, execVsamp]
  refine (issue_runs h (by exact hr)).trans ?_
  simp only [hread, Env.apply_done, Env.postedOn, Env.retired_eq]

end

/-! ## Histograms (R127) -/

section
variable (hr : e.runs m formD3.page1.eOnly false (tV (dNum e.pl d) ++ tV (aNum e.pl a) ++ [tS (bNum e.pl)]) = true)
  (hd : dNum e.pl d < 28) (hmid : wbits (e.r.sget (bNum e.pl)) 2 14 = 0) (htop : wbits (e.r.sget (bNum e.pl)) 32 32 = 0)
include hr hd hmid htop

theorem exec_vhist_waits (hread : e.t.vread e.now [aNum e.pl a] = none) : exec (.vhist m d a) e.s = .next e.s := by
  rw [exec, execVhist]
  refine (issueIf_runs h (dNum_checked hd) (by exact hr)).trans ?_
  simp only [hmid, htop, hread, bne_self_eq_false, Bool.or_self, Bool.false_eq_true, if_false, Env.apply_wait]

theorem exec_vhist_counts {vs : List Vec} {t : Tile} (hread : e.t.vread e.now [aNum e.pl a] = some (vs, t)) :
    let b := e.r.sget (bNum e.pl)
    exec (.vhist m d a) e.s = .next (e.retired (e.s.setTile e.k (e.vresult t (dNum e.pl d) 4
      (ofLanes fun i => if i < 16 then lane (e.t.vget (dNum e.pl d)) i +
          BitVec.ofNat 32 (histCount (vecArg vs 0) (wbits b 0 2) (wbits b 16 16) i)
        else lane (e.t.vget (dNum e.pl d)) i) 0#5)) none 1 none) := by
  rw [exec, execVhist]
  refine (issueIf_runs h (dNum_checked hd) (by exact hr)).trans ?_
  simp only [hmid, htop, hread, bne_self_eq_false, Bool.or_self, Bool.false_eq_true, if_false, Env.apply_done, Env.retired_eq]

end

/-! ## Top lists (R128) -/

section
variable (hr : e.runs m formD3.page1.eOnly false
    (tV (dNum e.pl d) ++ tV (dNum e.pl d + 1) ++ tV (aNum e.pl a) ++ tV (bNum e.pl)) = true) (hd : dNum e.pl d < 27)
include hr hd

theorem exec_vtopk_waits (hread : e.t.vread e.now [aNum e.pl a, bNum e.pl] = none) : exec (.vtopk m d a) e.s = .next e.s := by
  rw [exec, execVtopk]
  refine (issueIf_runs h (dNum_checked hd) (by exact hr)).trans ?_
  simp only [hread, Env.apply_wait]

theorem exec_vtopk_merges {vs : List Vec} {t : Tile} (hread : e.t.vread e.now [aNum e.pl a, bNum e.pl] = some (vs, t)) :
    let top := (topEntries (e.t.vget (dNum e.pl d)) (e.t.vget (dNum e.pl d + 1)) ++
      topEntries (vecArg vs 0) (vecArg vs 1)).foldl (fun l x => topInsert x l) []
    exec (.vtopk m d a) e.s = .next (e.retired (e.s.setTile e.k
      (e.vresult (e.vresult t (dNum e.pl d) 8 (ofLanes fun i => BitVec.ofNat 32 (top[i]?.getD (0, 0)).1) 0#5) (dNum e.pl d + 1) 8
        (ofLanes fun i => BitVec.ofNat 32 (top[i]?.getD (0, 0)).2) 0#5)) none 1 none) := by
  rw [exec, execVtopk]
  refine (issueIf_runs h (dNum_checked hd) (by exact hr)).trans ?_
  simp only [hread, Env.apply_done, Env.retired_eq]

end

/-! ## Codebooks (R118) -/

section
variable {n : BitVec 2} {a : BitVec 5} (hr : e.runs m formZ.eOnly false (.cb n.toNat :: tV a.toNat) = true)
include hr

theorem exec_cbload_waits (hread : e.t.vread e.now [a.toNat] = none) : exec (.cbload m n a) e.s = .next e.s := by
  rw [exec, execCbload]
  refine (issue_runs h (by exact hr)).trans ?_
  simp only [hread, Env.apply_wait]

theorem exec_cbload_posts {vs : List Vec} {t : Tile} (hread : e.t.vread e.now [a.toNat] = some (vs, t)) :
    exec (.cbload m n a) e.s = .next (e.postedOn t 2 (.cb n.toNat (BitVec.ofNat 256
      ((List.range 16).foldr (fun c acc => (laneN (vecArg vs 0) c % 65536) <<< (16 * c) ||| acc) 0))) 0#5) := by
  rw [exec, execCbload]
  refine (issue_runs h (by exact hr)).trans ?_
  simp only [hread, Env.apply_done, Env.postedOn, Env.retired_eq]

end

end

end Sys2Proof.Machine

namespace Sys2Proof.Proofs
open Sys2Proof.Machine

/-- Settles O27: each word with its sources there, and without one of them. -/
theorem vectorSelections : Obligations.VectorSelections := by
  intro s e m d a n a5 vs t h posted
  obtain ⟨rfl, -⟩ := State.focus_some h
  refine ⟨fun hread => ⟨fun hr hop hred => exec_vred_waits h hr hop hred hread, fun hr => exec_vext_waits h hr hread,
      fun hr => exec_vsamp_waits h hr hread, fun hr hd hmid htop => exec_vhist_waits h hr hd hmid htop hread⟩,
    fun hread hd hr => exec_vtopk_waits h hr hd hread, fun hread hr => exec_cbload_waits h hr hread,
    fun hread => ⟨fun hr hop hred => exec_vred_posts h hr hop hred hread, fun hr => exec_vext_posts h hr hread,
      fun hr => exec_vsamp_posts h hr hread, fun hr hd hmid htop => exec_vhist_counts h hr hd hmid htop hread⟩,
    fun hread hd hr => exec_vtopk_merges h hr hd hread, fun hread hr => exec_cbload_posts h hr hread⟩

end Sys2Proof.Proofs
end

section
/-!
Runs and continuations by themselves: retirement, barriers, overruns, cuts, failed residue checks, continuations that become READY (R163, R166,
R176, R180, R183, R184, R213, R222, R268, R369).
-/
namespace Sys2Proof.Machine

/-! ## Fields of words and handles (R21) -/

/-- A field that has been written reads back. -/
theorem wbits_setBits (x : Word) {lo n y : Nat} (h : lo + n ≤ 64) (hy : y < 2 ^ n) : wbits (setBits x lo n y) lo n = y := by
  rw [wbits, setBits, Nat.mod_eq_of_lt hy, bits_ofNat _ h, bits_replaced _ hy]

theorem bits_or (x y lo n : Nat) : bits (x ||| y) lo n = bits x lo n ||| bits y lo n := by
  rw [bits, Nat.shiftRight_or_distrib, Nat.or_mod_two_pow, bits, bits]

theorem bits_shiftLeft_above (x : Nat) {k lo n : Nat} (h : lo + n ≤ k) : bits (x <<< k) lo n = 0 := by
  refine Nat.eq_of_testBit_eq fun i => ?_
  simp only [bits, Nat.testBit_mod_two_pow, Nat.testBit_shiftRight, Nat.testBit_shiftLeft, Nat.zero_testBit, Bool.and_eq_false_iff,
    decide_eq_false_iff_not]
  omega

theorem bits_below {x lo : Nat} (n : Nat) (h : x < 2 ^ lo) : bits x lo n = 0 := by
  rw [bits, Nat.shiftRight_eq_div_pow, Nat.div_eq_of_lt h, Nat.zero_mod]

section
variable (cls : Nat) (gen : BitVec 16) {d i : Nat}

theorem hDie_mkHandle (hd : d < 4) (hi : i < 2 ^ 32) : hDie (mkHandle cls gen d i) = d := by
  have hdie : bits (d <<< 42) 42 2 = d := by rw [bits, Nat.shiftLeft_shiftRight]; exact Nat.mod_eq_of_lt hd
  rw [hDie, wbits, mkHandle, w64, bits_ofNat _ (by decide), bits_or, bits_or, bits_or, bits_shiftLeft_above _ (by decide),
    bits_shiftLeft_above _ (by decide), hdie, bits_below 2 (hi.trans (by decide)), Nat.or_zero, Nat.zero_or, Nat.zero_or]

theorem hIndex_mkHandle (hi : i < 2 ^ 32) : hIndex (mkHandle cls gen d i) = i := by
  have hindex : bits i 0 32 = i := by rw [bits, Nat.shiftRight_zero, Nat.mod_eq_of_lt hi]
  rw [hIndex, wbits, mkHandle, w64, bits_ofNat _ (by decide), bits_or, bits_or, bits_or, bits_shiftLeft_above _ (by decide),
    bits_shiftLeft_above _ (by decide), bits_shiftLeft_above _ (by decide), hindex, Nat.zero_or, Nat.zero_or, Nat.zero_or]

end

theorem hDie_lt (h : Word) : hDie h < 4 := Nat.mod_lt _ (by decide)

/-- A word that is a handle of a task is not 0. -/
theorem State.taskOk_ne_zero {s : State} {h : Word} (hok : s.taskOk h = true) : h ≠ 0#64 := by
  rintro rfl
  simp [State.taskOk, handleForm, hClass, wbits, bits] at hok

/-! ## Dies -/

/-- What a change of one die keeps of it, it keeps of every die. -/
theorem State.die_modDie_keeps {α : Type} (g : Die → α) {f : Die → Die} (hf : ∀ y, g (f y) = g y) (s : State) (d e : Nat) :
    g ((s.modDie d f).die e) = g (s.die e) := by
  by_cases h : e = d
  · subst h
    by_cases he : e < 4
    · rw [State.die_modDie he, hf]
    · simp [State.die, State.modDie, he]
  · simp [State.die, State.modDie, Ne.symm h]

/-! ## Runs -/

section
variable {s : State} {id : Nat} {r : Run} (hrun : s.run id = some r)
include hrun

theorem State.modRun_eq (f : Run → Run) : s.modRun id f = { s with runs := mput s.runs id (f r) } := by
  rw [State.modRun, hrun]

theorem State.run_modRun (f : Run → Run) : (s.modRun id f).run id = some (f r) := by
  rw [State.modRun_eq hrun]
  exact mget_mput_same ..

/-- A stop that no other outranks, and that no strand has acted on the one it replaces, is the run's (R213). -/
theorem State.run_setStop {w : StopWhy}
    (hfree : ∀ x, r.stop = some x → w.rank < x.rank ∧ ∀ y ∈ r.strands, ((s.tile y.1).strand y.2).phase ≠ .stopped) :
    (s.setStop id w).run id = some { r with stop := some w } := by
  rw [State.setStop, State.run_modRun hrun, if_pos]
  simpa [Option.all_eq_true] using hfree

/-- A stop of a later rank does not replace one that stands (R213). -/
theorem State.run_setStop_later {w x : StopWhy} (hstop : r.stop = some x) (hrank : x.rank ≤ w.rank) : (s.setStop id w).run id = some r := by
  rw [State.setStop, State.run_modRun hrun, if_neg]
  simp [hstop, hrank.not_gt]

end

theorem State.task_congr {s t : State} (h : t.dies = s.dies) (d i : Nat) : t.task d i = s.task d i := by
  rw [State.task, State.die, h, State.task, State.die]

/-! ## The end of a run (R163, R176, R180, R183) -/

theorem State.closeRun_run (s : State) (id : Nat) (r : Run) : (s.closeRun id r).run id = none := mget_mdel_same _ id

theorem State.closeRun_task (s : State) (id : Nat) (r : Run) (d i : Nat) : (s.closeRun id r).task d i = s.task d i := by
  have left := foldl_proj State.dies (fun s k => s.modTile_dies k (·.leave r)) r.members (s.writeBack r)
  have written : (s.writeBack r).task d i = s.task d i := by
    rw [State.writeBack, State.modFibre, State.setFibre, State.task_modDie]
    exact fun _ => rfl
  exact (State.task_congr (t := s.closeRun id r) left d i).trans written

/-- The members of a run that is over run nothing. -/
theorem State.closeRun_tile (s : State) (id : Nat) (r : Run) {k : Nat} (hk : k ∈ r.members) :
    ((s.closeRun id r).tile k).run = none ∧ ((s.closeRun id r).tile k).a.phase = .off ∧ ((s.closeRun id r).tile k).e.phase = .off :=
  foldl_modTile_sets (key := fun j => j) (g := fun _ t => t.leave r) (P := fun y => y.run = none ∧ y.a.phase = .off ∧ y.e.phase = .off)
    (fun _ _ => ⟨rfl, rfl, rfl⟩) (by rwa [List.map_id']) (s.writeBack r)

section
variable {s : State} {id : Nat} {r : Run} (hrun : s.run id = some r) (hended : s.allEnded r = true) (hstop : r.stop ≠ some .residue)
  (hculprit : r.culprit = none)
  (hdrained : ∀ k ∈ r.members, (s.tile k).drained s.cycle = true ∧ (s.tile k).poisonA = none ∧ (s.tile k).poisonE = none)
  (hchain : r.chain = none) (hretts : r.retts = [])
include hrun hended hstop hculprit hdrained hchain hretts

/-- A run that has ended and drained, with nothing recorded, is closed: with its continuation, or DONE and its successor signalled. -/
theorem exec_taskRetire : exec (.taskRetire id) s = .next (match r.cont with
    | some (d, i) => (s.endByAwait r d i (r.stop == some StopWhy.preempt || r.stop == some StopWhy.band)).closeRun id r
    | none => ((s.modTask r.die r.idx (·.setState 6)).closeRun id r).signalSuccessor r) := by
  have hpoison : (r.members.any fun k => (s.tile k).poisonA.isSome || (s.tile k).poisonE.isSome) = false :=
    List.any_eq_false.2 fun k hk => by simp [hdrained k hk]
  have hall : (r.members.all fun k => (s.tile k).drained s.cycle) = true := List.all_eq_true.2 fun k hk => (hdrained k hk).1
  have hholds : r.stopHolds = false := by simpa [Run.stopHolds] using hstop
  rw [exec, execTaskRetire, hrun]
  simp only [hended, hholds, hpoison, hculprit, hall, State.armChain, hchain, State.performReturns, hretts, Bool.not_true, Bool.or_false,
    Option.isSome_none, Bool.false_eq_true, if_false, List.foldl_nil]
  cases r.cont <;> rfl

/-- A task that ends by END without a successor is DONE. -/
theorem taskRetire_done (hdie : r.die < 4) (hcont : r.cont = none) (hnext : (s.task r.die r.idx).word 6 = 0#64) :
    exec (.taskRetire id) s = .next ((s.modTask r.die r.idx (·.setState 6)).closeRun id r) := by
  have hword : (((s.modTask r.die r.idx (·.setState 6)).closeRun id r).task r.die r.idx).word 6 = 0#64 := by
    rw [State.closeRun_task, State.task_modTask _ _ _ hdie, TaskRec.setState, TaskRec.word_setWord_ne _ _ (by decide), hnext]
  rw [exec_taskRetire hrun hended hstop hculprit hdrained hchain hretts, hcont]
  simp only [State.signalSuccessor, hword, if_true]

end

theorem ContRec.setWord_gen (c : ContRec) (k : Nat) (v : Word) : (c.setWord k v).gen = c.gen := by rw [ContRec.setWord]

theorem ContRec.setValues_gen (c : ContRec) (l : List Word) : (c.setValues l).gen = c.gen := by rw [ContRec.setValues]

theorem ContRec.capture_gen (c : ContRec) (t : Tile) (more : List Word) : (c.capture t more).gen = c.gen := by
  simp only [ContRec.capture, ContRec.setValues_gen, ContRec.setWord_gen]

/-- The continuation of a run that ends by AWAIT, with what it holds and what it waits for (R176, R183, R209). -/
def State.awaited (s : State) (r : Run) (d i : Nat) (held : Bool) : ContRec :=
  let c := s.cont d i
  let ops := s.pendingOps r.origin c.cmask
  let ms := onesOf c.cmask 8
  { c.capture (s.tile r.origin) (ms.map fun n => (s.tile r.origin).cget n) with
    ops := ops, held := held, met := if c.kind = 1 then ops.isEmpty else c.met
    rebuild := if ms.any fun n => (s.tile r.origin).cstate n == 5 then s.rebuildFutures r.ctx else [] }

theorem State.awaited_gen (s : State) (r : Run) (d i : Nat) (held : Bool) : (s.awaited r d i held).gen = (s.cont d i).gen := by
  unfold State.awaited
  dsimp only
  rw [ContRec.capture_gen]

theorem State.endByAwait_eq (s : State) (r : Run) (d i : Nat) (held : Bool) :
    s.endByAwait r d i held = (s.setCont d i (s.awaited r d i held)).modTask r.die r.idx fun t =>
      (t.setState 1).setWord 7 (mkHandle 2 (s.awaited r d i held).gen d i) := rfl

/-- A task that ends by AWAIT is CLAIMED, and its w7 names its continuation (R176, R183). -/
theorem State.endByAwait_task (s : State) (r : Run) (d i : Nat) (held : Bool) (hdie : r.die < 4) :
    ((s.endByAwait r d i held).task r.die r.idx).state = 1 ∧ ((s.endByAwait r d i held).task r.die r.idx).word 7 = s.contHandle d i := by
  rw [State.endByAwait_eq, State.task_modTask _ _ _ hdie, State.awaited_gen, ← State.contHandle]
  exact ⟨(TaskRec.state_setWord _ _ (by decide)).trans (TaskRec.state_setState _ (by decide)), TaskRec.word_setWord _ _ (by decide)⟩

/-! ## Barriers (R267, R369) -/

/-- The member's arrival is over: its strands go on. -/
def Tile.goesOn (t : Tile) : Tile :=
  { t with arrived := false, a := { t.a with waitb := false }, e := { t.e with waitb := false } }

/-- The state in which a run's barrier is over (R267, R369). -/
def State.barrierOver (s : State) (id : Nat) (r : Run) : State :=
  r.members.foldl (fun s k => s.modTile k Tile.goesOn) ((s.noteTrees (dieOf r.origin)).modRun id fun r => { r with barrier := none })

theorem exec_barrierComplete {s : State} {id c : Nat} {r : Run} (hrun : s.run id = some r) (hbarrier : r.barrier = some c) (hdue : c ≤ s.cycle) :
    exec (.barrierComplete id) s = .next (if (s.die (dieOf r.origin)).treesGood ≠ [] then s.barrierOver id r else s) := by
  rw [exec, execBarrierComplete, hrun]
  simp only [hbarrier, hdue, true_and]
  split <;> rfl

/-- A tree in service that has not delivered with good parity has disagreed with the other (R267). -/
theorem State.noteTrees_odd (s : State) {d n : Nat} (hd : d < 4) (hin : n ∈ (s.die d).treesIn) (hbad : (s.die d).treeBad.getLsbD n = true) :
    ((s.noteTrees d).die d).odd.any (·.1 == n) = true := by
  rw [State.noteTrees, State.die_modDie hd, List.any_append, Bool.or_eq_true]
  by_cases hodd : (s.die d).odd.any (·.1 == n) = true
  · exact .inl hodd
  · refine .inr (List.any_eq_true.2 ⟨(n, s.time), List.mem_map_of_mem (List.mem_filter.2 ⟨hin, ?_⟩), beq_self_eq_true n⟩)
    rw [hbad, eq_false_of_ne_true hodd]
    rfl

theorem State.barrierOver_run {s : State} {id : Nat} {r : Run} (hrun : s.run id = some r) :
    (s.barrierOver id r).run id = some { r with barrier := none } := by
  have hnoted : (s.noteTrees (dieOf r.origin)).run id = some r := hrun
  rw [State.run, State.barrierOver, foldl_proj State.runs (fun s k => s.modTile_runs k Tile.goesOn), ← State.run, State.run_modRun hnoted]

theorem State.barrierOver_die (s : State) (id : Nat) (r : Run) :
    (s.barrierOver id r).die (dieOf r.origin) = (s.noteTrees (dieOf r.origin)).die (dieOf r.origin) := by
  rw [State.die, State.barrierOver, foldl_proj State.dies (fun s k => s.modTile_dies k Tile.goesOn), State.modRun_dies, ← State.die]

theorem State.barrierOver_tile (s : State) (id : Nat) (r : Run) {k : Nat} (hk : k ∈ r.members) : ((s.barrierOver id r).tile k).arrived = false ∧
    ((s.barrierOver id r).tile k).a.waitb = false ∧ ((s.barrierOver id r).tile k).e.waitb = false :=
  foldl_modTile_sets (key := fun j => j) (g := fun _ => Tile.goesOn) (P := fun y => y.arrived = false ∧ y.a.waitb = false ∧ y.e.waitb = false)
    (fun _ _ => ⟨rfl, rfl, rfl⟩) (by rwa [List.map_id']) _

/-! ## Overruns (R166) -/

/-- The one booking of a calendar has its end furrow free. -/
theorem State.graceFree_only {s : State} {b : Booking} (h : s.bookings = [b]) : s.graceFree b = true := by
  simp [State.graceFree, State.others, h]

/-- A record whose booking is granted another furrow (R166). -/
def TaskRec.granted (t : TaskRec) (b : Booking) : TaskRec :=
  (t.setWord 0 (setBits (t.word 0) 19 4 (t.grace - 1))).setWord 5 (furrowWord b.start (b.stop + 1))

theorem TaskRec.granted_grace (t : TaskRec) (b : Booking) : (t.granted b).grace = t.grace - 1 := by
  have hgrace : t.grace < 2 ^ 4 := Nat.mod_lt _ (by decide)
  rw [TaskRec.grace, TaskRec.granted, TaskRec.word_setWord_ne _ _ (by decide), TaskRec.word_setWord _ _ (by decide),
    wbits_setBits _ (by decide) (by omega)]

section
variable {s : State} {id : Nat} {r : Run} {b : Booking} (hrun : s.run id = some r) (hbook : s.bookings = [b]) (hdie : b.die = r.die)
  (hidx : b.idx = r.idx) (hstarted : b.started = true) (hgone : b.gone = false) (hcycle : s.cycle % 256 = 192)
  (hlast : s.furrow + 1 = b.stop)
include hrun hbook hdie hidx hstarted hgone hcycle hlast

/-- In the last furrow of the only booking, a grace that is left grants another furrow. -/
theorem exec_overrunCheck_grants (hgrace : 0 < (s.task r.die r.idx).grace) : exec (.overrunCheck id) s =
    .next { s.setTask r.die r.idx ((s.task r.die r.idx).granted b) with bookings := [{ b with stop := b.stop + 1 }] } := by
  have hfree := State.graceFree_only hbook
  simp [exec, execOverrunCheck, TaskRec.granted, hrun, hbook, hdie, hidx, hstarted, hgone, hcycle, hlast, hfree, hgrace]

/-- Without a grace the run is to stop. -/
theorem exec_overrunCheck_stops (hgrace : (s.task r.die r.idx).grace = 0) (hculprit : r.culprit = none) :
    exec (.overrunCheck id) s = .next (s.setStop id .overrun) := by
  simp [exec, execOverrunCheck, hrun, hbook, hdie, hidx, hstarted, hgone, hcycle, hlast, hgrace, hculprit]

end

/-! ## Cuts and failed residue checks (R222, R268) -/

theorem exec_cut {s : State} {id : Nat} {r : Run} (hrun : s.run id = some r) (hcut : s.canCut r = true) :
    exec (.cut id) s = .next (s.setStop id .preempt) := by
  rw [exec, execCut, hrun]
  exact if_pos hcut

/-- A tile whose failed residue check is taken. -/
def Tile.residueTaken (t : Tile) : Tile := { t with residue := none }

theorem exec_residueCheck {s : State} {k id : Nat} (hrun : (s.tile k).run = some id) (hdue : (s.tile k).residueDue s.cycle = true) :
    exec (.residueCheck k true) s =
      .next ((s.modTile k Tile.residueTaken).countRedo.modRun id fun r => { r with stop := some .residue }) := by
  rw [exec, execResidueCheck, hrun]
  exact if_pos (by rw [Bool.true_and, hdue])

/-! ## Continuations that become READY (R184) -/

theorem ContRec.state_setState (x : ContRec) {n : Nat} (h : n < 16) : (x.setState n).state = n := by
  have hword : (x.setState n).word 0 = setBits (x.word 0) 60 4 n := by simp [ContRec.setState, ContRec.word, ContRec.setWord]
  rw [ContRec.state, hword, wbits_setBits _ (by decide) h]

/-- A move of a die that changes no continuation keeps all of them. -/
theorem State.cont_modDie (s : State) (d : Nat) {f : Die → Die} (hf : ∀ y, (f y).conts = y.conts) (e i : Nat) :
    (s.modDie d f).cont e i = s.cont e i := by
  rw [State.cont, State.die_modDie_keeps Die.conts hf, State.cont]

theorem State.cont_setTask (s : State) (d i : Nat) (x : TaskRec) (e j : Nat) : (s.setTask d i x).cont e j = s.cont e j := by
  rw [State.setTask, State.cont_modDie]
  exact fun _ => rfl

theorem State.cont_setCont (s : State) {d : Nat} (i : Nat) (x : ContRec) (h : d < 4) : (s.setCont d i x).cont d i = x := by
  rw [State.cont, State.setCont, State.die_modDie h]
  exact congrArg (·.getD ContRec.reset) (mget_mput_same ..)

theorem State.task_setCont (s : State) (d i : Nat) (x : ContRec) (e j : Nat) : (s.setCont d i x).task e j = s.task e j := by
  rw [State.setCont, State.task_modDie]
  exact fun _ => rfl

/-- Arming sets a counter, by which the record is READY or ARMED (R177). -/
theorem State.armWith_eq (s : State) (d i : Nat) (n : Int) : ∃ c : Int, s.armWith d i n =
    if c ≤ 0 then s.makeReady d i ((s.task d i).setCounter c) else s.setTask d i (((s.task d i).setCounter c).setState 2) :=
  ⟨_, rfl⟩

theorem State.armWith_cont (s : State) (d i : Nat) (n : Int) (e j : Nat) : (s.armWith d i n).cont e j = s.cont e j := by
  obtain ⟨c, harm⟩ := s.armWith_eq d i n
  rw [harm]
  split <;> exact s.cont_setTask d i _ e j

theorem State.makeReady_task (s : State) {d : Nat} (i : Nat) (x : TaskRec) (h : d < 4) :
    (s.makeReady d i x).task d i = { x.setState 3 with ready := s.furrow } :=
  (State.task_congr (t := s.makeReady d i x) rfl d i).trans (s.task_setTask i _ h)

theorem TaskRec.word_ready (x : TaskRec) (n k : Nat) : ({ x with ready := n } : TaskRec).word k = x.word k := rfl

theorem State.makeReady_word (s : State) {d : Nat} (i : Nat) (x : TaskRec) (h : d < 4) (k : Nat) :
    ((s.makeReady d i x).task d i).word k = (x.setState 3).word k := by
  rw [State.makeReady_task _ _ _ h, TaskRec.word_ready]

theorem State.makeReady_state (s : State) {d : Nat} (i : Nat) (x : TaskRec) (h : d < 4) : ((s.makeReady d i x).task d i).state = 3 := by
  rw [TaskRec.state, State.makeReady_word _ _ _ h, ← TaskRec.state, TaskRec.state_setState _ (by decide)]

theorem TaskRec.word_setState_setCounter (x : TaskRec) (c : Int) (m : Nat) : ((x.setCounter c).setState m).word 7 = x.word 7 := by
  rw [TaskRec.setState, TaskRec.word_setWord_ne _ _ (by decide), TaskRec.setCounter, TaskRec.word_setWord_ne _ _ (by decide)]

/-- A record that is armed names the continuation that it named. -/
theorem State.armWith_word (s : State) {d : Nat} (i : Nat) (n : Int) (h : d < 4) :
    ((s.armWith d i n).task d i).word 7 = (s.task d i).word 7 := by
  obtain ⟨c, harm⟩ := s.armWith_eq d i n
  rw [harm]
  split
  · rw [State.makeReady_word _ _ _ h, TaskRec.word_setState_setCounter]
  · rw [State.task_setTask _ _ _ h, TaskRec.word_setState_setCounter]

theorem State.armWith_state (s : State) {d : Nat} (i : Nat) (n : Int) (h : d < 4) :
    ((s.armWith d i n).task d i).state = 2 ∨ ((s.armWith d i n).task d i).state = 3 := by
  obtain ⟨c, harm⟩ := s.armWith_eq d i n
  rw [harm]
  split
  · exact .inr (s.makeReady_state i _ h)
  · rw [State.task_setTask _ _ _ h]
    exact .inl (TaskRec.state_setState _ (by decide))

/-- The state in which a continuation is READY. -/
def State.contReady (s : State) (h : Word) : State := s.setCont (hDie h) (hIndex h) ((s.cont (hDie h) (hIndex h)).setState 2)

/-- The state in which a task's record names a continuation. -/
def State.naming (s : State) (k h : Word) : State := s.putTaskAt k ((s.taskAt k).setWord 7 h)

section
variable {s : State} {h k : Word}

theorem State.contReady_taskAt : (s.contReady h).taskAt k = s.taskAt k := s.task_setCont ..

theorem State.contReady_taskOk : (s.contReady h).taskOk k = s.taskOk k := by
  simp only [State.taskOk, State.contReady, State.task_setCont]

theorem State.naming_taskAt : (s.naming k h).taskAt k = (s.taskAt k).setWord 7 h := s.task_setTask _ _ (hDie_lt k)

variable (hk : (s.cont (hDie h) (hIndex h)).word 1 = k) (hok : s.taskOk k = true) (hclaimed : (s.taskAt k).state = 1)
include hk hok hclaimed

/-- A continuation whose task is CLAIMED becomes READY, and the task names it and is armed. -/
theorem State.resumeCont_eq : s.resumeCont h = ((s.contReady h).naming k h).armWith (hDie k) (hIndex k) 0 := by
  unfold State.resumeCont
  dsimp only
  rw [hk, if_neg (State.taskOk_ne_zero hok), if_pos]
  · rfl
  · exact ⟨(congrArg TaskRec.state State.contReady_taskAt).trans hclaimed, State.contReady_taskOk.trans hok⟩

theorem State.resumeCont_cont : ((s.resumeCont h).cont (hDie h) (hIndex h)).state = 2 := by
  rw [State.resumeCont_eq hk hok hclaimed, State.armWith_cont, State.naming, State.putTaskAt, State.cont_setTask, State.contReady,
    State.cont_setCont _ _ _ (hDie_lt h), ContRec.state_setState _ (by decide)]

theorem State.resumeCont_word : ((s.resumeCont h).taskAt k).word 7 = h := by
  rw [State.resumeCont_eq hk hok hclaimed, State.taskAt, State.armWith_word _ _ _ (hDie_lt k), ← State.taskAt, State.naming_taskAt,
    TaskRec.word_setWord _ _ (by decide)]

theorem State.resumeCont_state : ((s.resumeCont h).taskAt k).state = 2 ∨ ((s.resumeCont h).taskAt k).state = 3 := by
  rw [State.resumeCont_eq hk hok hclaimed]
  exact State.armWith_state _ _ 0 (hDie_lt k)

end

theorem exec_continuationReady {s : State} {d i : Nat} (hdue : s.contDue d i = true) (htrap : (s.cont d i).trap = none) :
    exec (.continuationReady d i) s = .next (s.resumeCont (s.contHandle d i)) := by
  rw [exec, execContinuationReady, if_pos hdue, htrap]

end Sys2Proof.Machine

namespace Sys2Proof.Proofs
open Sys2Proof.Machine

/-- Settles O37: the end of a run by END or by AWAIT, its barrier, its overrun, its stops, and the continuation that becomes READY. -/
theorem runsEnd : Obligations.RunsEnd := by
  intro s id r hrun hdie
  refine ⟨fun hended hstop hculprit hdrained hchain hretts => ⟨fun hcont hnext => ?_, fun d i hcont => ?_⟩,
    fun c hbarrier hdue => ⟨fun hgood => ?_, fun hnone => ?_⟩,
    fun b hbook hbdie hbidx hstarted hgone hcycle hlast => ⟨fun hgrace => ?_, fun hgrace hstop hculprit => ?_⟩,
    fun hcut hstop => ?_, fun k hk hdue => ?_, fun w x hstop hrank => State.run_setStop_later hrun hstop hrank,
    fun d i hd hi hdue htrap hok hclaimed => ?_⟩
  · refine ⟨_, taskRetire_done hrun hended hstop hculprit hdrained hchain hretts hdie hcont hnext, State.closeRun_run .., ?_,
      fun k hk => State.closeRun_tile _ _ _ hk⟩
    rw [State.closeRun_task, State.task_modTask _ _ _ hdie, TaskRec.state_setState _ (by decide)]
  · have hexec := exec_taskRetire hrun hended hstop hculprit hdrained hchain hretts
    rw [hcont] at hexec
    refine ⟨_, hexec, State.closeRun_run .., ?_⟩
    rw [State.closeRun_task]
    exact s.endByAwait_task r d i _ hdie
  · refine ⟨_, (exec_barrierComplete hrun hbarrier hdue).trans (congrArg _ (if_pos hgood)), ?_, fun n hin hbad => ?_,
      fun k hk => s.barrierOver_tile id r hk⟩
    · rw [State.barrierOver_run hrun]
      rfl
    · rw [State.barrierOver_die]
      exact s.noteTrees_odd (Nat.mod_lt _ (by decide)) hin hbad
  · rw [exec_barrierComplete hrun hbarrier hdue, if_neg (not_not.2 hnone)]
  · refine ⟨_, exec_overrunCheck_grants hrun hbook hbdie hbidx hstarted hgone hcycle hlast hgrace, rfl, ?_⟩
    exact (congrArg TaskRec.grace (s.task_setTask _ _ hdie)).trans (TaskRec.granted_grace _ b)
  · refine ⟨_, exec_overrunCheck_stops hrun hbook hbdie hbidx hstarted hgone hcycle hlast hgrace hculprit, ?_,
      (s.modRun_bookings ..).trans hbook⟩
    rw [State.run_setStop hrun fun x hx => absurd (hstop.symm.trans hx) nofun]
    rfl
  · refine ⟨_, exec_cut hrun hcut, ?_, s.modRun_tiles ..⟩
    rw [State.run_setStop hrun fun x hx => ?_]
    · rfl
    · rcases hstop with hnone | ⟨hband, hacted⟩
      · exact absurd (hnone.symm.trans hx) nofun
      · obtain rfl := Option.some.inj (hband.symm.trans hx)
        exact ⟨by decide, hacted⟩
  · have hrest : (s.modTile k Tile.residueTaken).countRedo.run id = some r := hrun
    refine ⟨_, exec_residueCheck hk hdue, ?_, ?_⟩
    · rw [State.run_modRun hrest]
      rfl
    · rw [State.tile_congr (State.modRun_tiles ..), State.countRedo, (State.count_same _ 48 8).tile, State.tile_modTile, Tile.residueTaken]
  · have hdh : hDie (s.contHandle d i) = d := hDie_mkHandle _ _ hd (by omega)
    have hih : hIndex (s.contHandle d i) = i := hIndex_mkHandle _ _ (by omega)
    have hword : (s.cont (hDie (s.contHandle d i)) (hIndex (s.contHandle d i))).word 1 = (s.cont d i).word 1 := by rw [hdh, hih]
    have hcont := State.resumeCont_cont hword hok hclaimed
    rw [hdh, hih] at hcont
    exact ⟨_, exec_continuationReady hdue htrap, hcont, State.resumeCont_word hword hok hclaimed, State.resumeCont_state hword hok hclaimed⟩

end Sys2Proof.Proofs
end

section
/-!
The boundary of a furrow, its passes and the staging of code (R37, R58, R157, R160, R170, R364).
-/
namespace Sys2Proof.Machine

/-! ## Folds -/

/-- What every step of a fold keeps and the step of one element sets up, the fold sets up. -/
theorem foldl_sets {α β : Type} {P : β → Prop} {f : β → α → β} (hkeep : ∀ s x, P s → P (f s x)) {x : α}
    (hset : ∀ s, P (f s x)) {l : List α} (hx : x ∈ l) (s : β) : P (l.foldl f s) := by
  induction l generalizing s with
  | nil => exact absurd hx List.not_mem_nil
  | cons y l ih =>
    rcases List.mem_cons.1 hx with rfl | hx
    · exact foldl_keeps hkeep l (hset s)
    · exact ih hx _

/-! ## What a boundary leaves alone (R160) -/

/-- `t` has the budgets of `s`, the parts of other modules that wait for one, and what is left to do in the cycle. -/
def SameBudgets (s t : State) : Prop :=
  t.ctrls = s.ctrls ∧ t.harrowSpent = s.harrowSpent ∧ t.remoteHeld = s.remoteHeld ∧ t.todo = s.todo

theorem SameBudgets.refl (s : State) : SameBudgets s s := ⟨rfl, rfl, rfl, rfl⟩

theorem SameBudgets.trans {s t u : State} (h : SameBudgets s t) (g : SameBudgets t u) : SameBudgets s u := by
  obtain ⟨hc, hh, hr, ht⟩ := h
  obtain ⟨gc, gh, gr, gt⟩ := g
  exact ⟨gc.trans hc, gh.trans hh, gr.trans hr, gt.trans ht⟩

theorem foldl_budgets {α : Type} {f : State → α → State} (hf : ∀ s x, SameBudgets s (f s x)) (l : List α) (s : State) :
    SameBudgets s (l.foldl f s) := foldl_rel .refl .trans hf l s

theorem State.modDie_budgets (s : State) (d : Nat) (f : Die → Die) : SameBudgets s (s.modDie d f) := .refl s

theorem State.modTask_budgets (s : State) (d i : Nat) (f : TaskRec → TaskRec) : SameBudgets s (s.modTask d i f) := .refl s

theorem State.modTile_budgets (s : State) (k : Nat) (f : Tile → Tile) : SameBudgets s (s.modTile k f) := .refl s

theorem State.setStop_budgets (s : State) (id : Nat) (w : StopWhy) : SameBudgets s (s.setStop id w) :=
  ⟨s.modRun_ctrls .., s.modRun_harrowSpent .., s.modRun_remoteHeld .., s.modRun_todo ..⟩

/-! ### Events of the module (R171, R224, R249, R255) -/

theorem State.unbook_budgets (s : State) (f : TaskRec → Bool) : SameBudgets s (s.unbook f) := by
  unfold State.unbook
  exact foldl_budgets (fun s b => s.modTask_budgets b.die b.idx _) (s.unstarted f) s

theorem State.preemptBoundary_budgets (s : State) (x : Nat) : SameBudgets s (s.preemptBoundary x) := by
  unfold State.preemptBoundary
  split
  · exact s.unbook_budgets _
  · dsimp only
    split
    · refine foldl_budgets (fun s r => ?_) _ s
      split
      · exact s.setStop_budgets ..
      · split
        · exact s.setStop_budgets ..
        · exact .refl s
    · exact .refl s
  · exact .refl s

theorem State.moduleBoundary_budgets (s : State) : SameBudgets s s.moduleBoundary := by
  unfold State.moduleBoundary
  dsimp only
  (repeat' split) <;> exact ⟨rfl, rfl, rfl, rfl⟩

/-- The state in which the events of the module as a whole at a boundary have happened, with die 0's (R171, R249). -/
def State.moduleEvents (s : State) (d : Nat) : State :=
  if d = 0 then (List.range 16).foldl (fun s x => s.preemptBoundary x) s.moduleBoundary else s

theorem State.moduleEvents_budgets (s : State) (d : Nat) : SameBudgets s (s.moduleEvents d) := by
  unfold State.moduleEvents
  split
  · exact s.moduleBoundary_budgets.trans (foldl_budgets State.preemptBoundary_budgets _ _)
  · exact .refl s

/-! ### Starts and transfers (R158, R160) -/

theorem State.freeCont_budgets (s : State) (d i : Nat) : SameBudgets s (s.freeCont d i) := by
  unfold State.freeCont
  dsimp only
  split <;> exact s.modDie_budgets ..

theorem State.dropTaskRef_budgets (s : State) (h : Word) : SameBudgets s (s.dropTaskRef h) := by
  unfold State.dropTaskRef
  dsimp only
  split
  · split
    · split <;> exact s.modDie_budgets ..
    · exact .refl s
  · exact .refl s

theorem State.useCont_budgets (s : State) (h : Word) : SameBudgets s (s.useCont h) := by
  unfold State.useCont
  dsimp only
  split
  · exact s.freeCont_budgets ..
  · exact (s.freeCont_budgets ..).trans (State.dropTaskRef_budgets ..)

theorem State.membersStarted_budgets (s : State) (b : Booking) (code : Bank) : SameBudgets s (s.membersStarted b code) := by
  unfold State.membersStarted
  exact SameBudgets.trans ⟨rfl, rfl, rfl, rfl⟩ (foldl_budgets (fun s m => s.modTile_budgets ..) b.members.zipIdx _)

theorem State.resumeWith_budgets (s : State) (c : ContRec) (run : Nat) (h : Word) : SameBudgets s (s.resumeWith c run h) := by
  unfold State.resumeWith
  exact SameBudgets.trans ⟨rfl, rfl, rfl, rfl⟩ (State.useCont_budgets _ h)

theorem State.startTask_budgets (s : State) (b : Booking) (code : Bank) : SameBudgets s (s.startTask b code) := by
  rw [State.startTask_eq]
  refine (s.membersStarted_budgets b code).trans (SameBudgets.trans ?_ (State.modTask_budgets ..))
  split
  · exact State.resumeWith_budgets ..
  · exact .refl _

theorem State.markStarted_budgets (s : State) (b : Booking) : SameBudgets s (s.markStarted b) := ⟨rfl, rfl, rfl, rfl⟩

theorem State.dropStandby_budgets (s : State) (ks : List Nat) : SameBudgets s (s.dropStandby ks) := by
  unfold State.dropStandby
  exact foldl_budgets (fun s k => s.modTile_budgets ..) ks s

theorem State.freeStages_budgets (s : State) (d : Nat) : SameBudgets s (s.freeStages d) := s.modDie_budgets ..

theorem State.startBooking_budgets (s : State) (d : Nat) (b : Booking) : SameBudgets s (s.startBooking d b) := by
  unfold State.startBooking
  have started := (s.markStarted_budgets b).trans ((s.markStarted b).startTask_budgets b (s.codeOf b d))
  exact ((started.trans (State.dropStandby_budgets ..)).trans (State.modTask_budgets ..)).trans (State.freeStages_budgets ..)

theorem State.startTasks_budgets (s : State) (d : Nat) : SameBudgets s (s.startTasks d) := by
  rw [State.startTasks_eq]
  exact foldl_budgets (fun s b => s.startBooking_budgets d b) _ s

theorem State.beginStandby_budgets (s : State) (d : Nat) : SameBudgets s (s.beginStandby d) := by
  refine foldl_budgets (fun s b => ?_) _ s
  exact SameBudgets.trans ⟨rfl, rfl, rfl, rfl⟩ (foldl_budgets (fun s k => s.modTile_budgets ..) b.members _)

theorem State.coldSet_budgets (s : State) (d : Nat) : SameBudgets s (s.coldSet d) := by
  unfold State.coldSet
  split
  · exact s.modDie_budgets ..
  · exact .refl s

theorem State.freeBookings_budgets (s : State) (d : Nat) : SameBudgets s (s.freeBookings d) := ⟨rfl, rfl, rfl, rfl⟩

/-! ## The budgets (R58) -/

/-- The budgets of a die's controllers restart. -/
def State.drillsRestarted (s : State) (d : Nat) : State :=
  (List.range 6).foldl (fun s i => s.modCtrl (6 * d + i) fun y => { y with spent := [] }) s

theorem State.drillsRestarted_ctrl (s : State) {d i : Nat} (hd : d < 4) (hi : i < 6) : ((s.drillsRestarted d).ctrl (6 * d + i)).spent = [] := by
  refine foldl_sets (P := fun s : State => (s.ctrl (6 * d + i)).spent = []) (fun s j h => ?_) (x := i) (fun s => ?_) (List.mem_range.2 hi) s
  · by_cases hj : 6 * d + i = 6 * d + j
    · rw [← hj, State.ctrl_modCtrl (by omega)]
    · rwa [State.ctrl_modCtrl_ne _ hj]
  · rw [State.ctrl_modCtrl (by omega)]

theorem State.drillsRestarted_remoteHeld (s : State) (d : Nat) : (s.drillsRestarted d).remoteHeld = s.remoteHeld :=
  foldl_proj State.remoteHeld (fun s i => s.modCtrl_remoteHeld (6 * d + i) _) (List.range 6) s

theorem State.drillsRestarted_todo (s : State) (d : Nat) : (s.drillsRestarted d).todo = s.todo :=
  foldl_proj State.todo (fun s i => s.modCtrl_todo (6 * d + i) _) (List.range 6) s

/-- The state in which the budgets of a die's units have restarted, with those of the ports for die 0 (R58, R160). -/
def State.budgetsFree (s : State) (d : Nat) : State :=
  let s := { s.drillsRestarted d with harrowSpent := s.harrowSpent.filter fun p => dieOf p.1.1 != d }
  if d = 0 then { s with hostSpent := [], links := s.links.map fun (p : LinkPort) => { p with spent := [] } } else s

theorem State.drillsRestarted_harrowSpent (s : State) (d : Nat) : (s.drillsRestarted d).harrowSpent = s.harrowSpent :=
  foldl_proj State.harrowSpent (fun s i => s.modCtrl_harrowSpent (6 * d + i) _) (List.range 6) s

theorem State.budgetsFree_eq (s : State) (d : Nat) : (s.budgetsFree d).ctrls = (s.drillsRestarted d).ctrls ∧
    (s.budgetsFree d).harrowSpent = s.harrowSpent.filter (fun p => dieOf p.1.1 != d) ∧
    (s.budgetsFree d).remoteHeld = s.remoteHeld ∧ (s.budgetsFree d).todo = s.todo := by
  have hheld := s.drillsRestarted_remoteHeld d
  have htodo := s.drillsRestarted_todo d
  unfold State.budgetsFree
  dsimp only
  split <;> simp only [hheld, htodo, and_self]

/-- Where no part of another module waits for a budget, nothing more comes of it that the budgets restart. -/
theorem State.restartBudgets_idle {s : State} (hidle : s.remoteHeld = []) (d : Nat) : s.restartBudgets d = s.budgetsFree d := by
  obtain ⟨-, -, hheld, -⟩ := s.budgetsFree_eq d
  have hserve : s.restartBudgets d = (s.budgetsFree d).serveHeld := by
    rw [State.budgetsFree, ← s.drillsRestarted_harrowSpent d]
    rfl
  rw [hserve, State.serveHeld, State.serveFor_empty (hheld.trans hidle)]

/-! ## The boundary (R160, R364) -/

/-- A die's boundary up to its passes. -/
def State.boundarySteps (s : State) (d : Nat) : State :=
  (((((s.moduleEvents d).restartBudgets d).coldSet d).freeBookings d).startTasks d).beginStandby d

theorem exec_furrowBoundary {s : State} {d : Nat} (hd : d < 4) (hcycle : s.cycle % 256 = 0) :
    exec (.furrowBoundary d) s = .next { s.boundarySteps d with todo := (s.boundarySteps d).todo ++ [.plan (passPhase d)] } := by
  rw [exec, execFurrowBoundary, if_neg (by omega)]
  rfl

/-- The steps before the passes leave the restarted budgets as they are. -/
theorem State.boundarySteps_budgets {s : State} (hidle : s.remoteHeld = []) (d : Nat) :
    SameBudgets ((s.moduleEvents d).budgetsFree d) (s.boundarySteps d) := by
  obtain ⟨-, -, hheld, -⟩ := s.moduleEvents_budgets d
  have hfree := State.restartBudgets_idle (hheld.trans hidle) d
  have steps : SameBudgets ((s.moduleEvents d).restartBudgets d) (s.boundarySteps d) :=
    (((State.coldSet_budgets ..).trans (State.freeBookings_budgets ..)).trans (State.startTasks_budgets ..)).trans
      (State.beginStandby_budgets ..)
  rwa [hfree] at steps

/-- At a boundary the budgets of the die's controllers and harrows are free again, and nothing is added to the cycle (R58, R160). -/
theorem State.boundarySteps_spent {s : State} {d : Nat} (hd : d < 4) (hidle : s.remoteHeld = []) :
    (∀ i, i < 6 → ((s.boundarySteps d).ctrl (6 * d + i)).spent = []) ∧ (∀ p ∈ (s.boundarySteps d).harrowSpent, dieOf p.1.1 ≠ d) ∧
      (s.boundarySteps d).todo = s.todo := by
  obtain ⟨-, -, -, hevents⟩ := s.moduleEvents_budgets d
  obtain ⟨hctrls, hharrow, -, htodo⟩ := State.boundarySteps_budgets hidle d
  obtain ⟨fctrls, fharrow, -, ftodo⟩ := (s.moduleEvents d).budgetsFree_eq d
  refine ⟨fun i hi => ?_, fun p hp => ?_, htodo.trans (ftodo.trans hevents)⟩
  · rw [State.ctrl, hctrls, fctrls, ← State.ctrl]
    exact (s.moduleEvents d).drillsRestarted_ctrl hd hi
  · rw [hharrow, fharrow] at hp
    exact bne_iff_ne.1 (List.mem_filter.1 hp).2

/-! ## The passes (R160, R170, R364) -/

theorem State.planPhase_pass (s : State) (d : Nat) : s.planPhase (passPhase d) = s.boundaryPasses d := by
  rw [passPhase, Nat.add_comm]
  exact congrArg s.boundaryPasses (Nat.add_sub_cancel d 6)

/-- A die whose ALMSTAT has been written. -/
def Die.showing (y : Die) (v : Word) : Die := { y with almstat := v }

/-- The register of a die's Almanac does not count itself. -/
theorem State.almstat_showing (s : State) (d : Nat) (v : Word) : (s.modDie d (·.showing v)).almstat d = s.almstat d := by
  have hcont (e i : Nat) : (s.modDie d (·.showing v)).cont e i = s.cont e i := s.cont_modDie d (f := (·.showing v)) (fun _ => rfl) e i
  have htasks (e : Nat) : ((s.modDie d (·.showing v)).die e).tasks = (s.die e).tasks :=
    State.die_modDie_keeps Die.tasks (f := (·.showing v)) (fun _ => rfl) s d e
  have hstages : ((s.modDie d (·.showing v)).die d).stages = (s.die d).stages :=
    State.die_modDie_keeps Die.stages (f := (·.showing v)) (fun _ => rfl) s d d
  simp only [State.almstat, State.tasksOf, State.gangDie, State.fixedAt, hcont, htasks, hstages, State.modDie_runs, State.modDie_bookings]

/-- The state in which a die's passes are over, but for its ALMSTAT. -/
def State.passed (s : State) (d : Nat) : State := ((((s.freeRetired d).compactionPass d).retryStaging d).bookingPass d).retryOverflows d

theorem State.boundaryPasses_eq (s : State) (d : Nat) :
    s.boundaryPasses d = (s.passed d).modDie d (·.showing ((s.passed d).almstat d)) := rfl

/-- After the passes ALMSTAT shows what they leave (R170). -/
theorem State.boundaryPasses_almstat (s : State) {d : Nat} (hd : d < 4) :
    ((s.boundaryPasses d).die d).almstat = (s.boundaryPasses d).almstat d := by
  rw [State.boundaryPasses_eq, State.die_modDie hd, State.almstat_showing, Die.showing]

/-! ## Staging (R37, R157) -/

section
variable {s : State} {d i : Nat}

/-- While a staging entry is free a task takes or shares one. -/
theorem State.stageTask_takes (hfree : ∃ e, e < 64 ∧ mget (s.die (s.gangDie d (s.task d i))).stages e = none) :
    ∃ (u : State) (e : Nat), s.stageTask d i = u.setTask d i { s.task d i with stage := some e } := by
  unfold State.stageTask
  dsimp only
  split
  · exact ⟨s, _, rfl⟩
  · split
    · obtain ⟨e, he, hnone⟩ := hfree
      have := List.find?_eq_none.1 ‹_› e (List.mem_range.2 he)
      simp [hnone] at this
    · exact ⟨_, _, rfl⟩

theorem exec_codeStaging (hready : (s.task d i).state = 3) (hstage : (s.task d i).stage = none) :
    exec (.codeStaging d i) s = .next (s.stageTask d i) := by
  rw [exec, execCodeStaging]
  exact if_pos ⟨hready, hstage⟩

end

theorem TaskRec.state_stage (x : TaskRec) (e : Option Nat) : ({ x with stage := e } : TaskRec).state = x.state := rfl

/-- The read of a line of a staging entry by the line's drill (R37). -/
def State.fetchLine (s : State) (e : Stage) (line : Nat) : State × ((Nat × Nat) ⊕ List Nat) :=
  s.vaReadMany (.die (dieOfCtrl (colour (line / 1024)))) e.ctx (e.inLine line).1 2 .exec ((e.inLine line).2 / 2)

/-- A staging entry whose next line has been fetched (R37). -/
def Stage.fetched (e : Stage) (line : Nat) (rest : List Nat) (l : List Nat) : Stage :=
  { e with mem := Memory.write e.mem ((e.inLine line).1 - e.base) (e.inLine line).2 (l.foldr (fun w acc => w + 65536 * acc) 0)
           left := rest, done := rest.isEmpty }

section
variable {s : State} {d n line : Nat} {e : Stage} {rest : List Nat} (hentry : mget (s.die d).stages n = some e) (hleft : e.left = line :: rest)
  (hdue : s.stageDue e = true)
include hentry hleft hdue

/-- A line that the drills read goes into its entry. -/
theorem exec_stagingComplete_line {l : List Nat} (hread : (s.fetchLine e line).2 = .inr l) :
    ∃ u : State, exec (.stagingComplete d n) s = .next (u.modDie d fun y => { y with stages := mput y.stages n (e.fetched line rest l) }) := by
  rw [exec, execStagingComplete, hentry]
  dsimp only
  rw [hleft]
  simp only [hdue, Bool.not_true, Bool.false_eq_true, if_false]
  split
  · rename_i h
    rw [State.fetchLine, h] at hread
    exact absurd hread nofun
  · rename_i h
    rw [State.fetchLine, h] at hread
    obtain rfl := Sum.inr.inj hread
    exact ⟨_, rfl⟩

/-- A fault of the read ends the entry. -/
theorem exec_stagingComplete_fault {f : Nat × Nat} (hread : (s.fetchLine e line).2 = .inl f) :
    ∃ u : State, exec (.stagingComplete d n) s = .next (u.modDie d fun y => { y with stages := mdel y.stages n }) := by
  rw [exec, execStagingComplete, hentry]
  dsimp only
  rw [hleft]
  simp only [hdue, Bool.not_true, Bool.false_eq_true, if_false]
  split
  · exact ⟨_, rfl⟩
  · rename_i h
    rw [State.fetchLine, h] at hread
    exact absurd hread nofun

end

end Sys2Proof.Machine

namespace Sys2Proof.Proofs
open Sys2Proof.Machine

/-- Settles O40: the boundary's steps, its passes, the staging of a task and the fetch of a line. -/
theorem almanacWorks : Obligations.AlmanacWorks := by
  intro s d hd
  refine ⟨fun hcycle hidle => ?_, fun rest hin htodo => ?_, fun i hready hstage hfree => ?_, fun n e line rest hentry hleft hdue => ?_⟩
  · obtain ⟨hspent, hharrow, htodo⟩ := State.boundarySteps_spent hd hidle
    exact ⟨_, exec_furrowBoundary hd hcycle, hspent, hharrow, congrArg (· ++ _) htodo⟩
  · refine ⟨_, (step_todo hin htodo).trans (congrArg Host.Outcome.next (State.planPhase_pass ..)), rfl, State.boundaryPasses_almstat _ hd⟩
  · obtain ⟨u, e, htake⟩ := State.stageTask_takes hfree
    refine ⟨_, exec_codeStaging hready hstage, ?_, ?_⟩
    · rw [htake, State.task_setTask _ _ _ hd]
      rfl
    · rw [htake, State.task_setTask _ _ _ hd, TaskRec.state_stage, hready]
  · refine ⟨fun l hread => ?_, fun f hread => ?_⟩
    · obtain ⟨u, hexec⟩ := exec_stagingComplete_line hentry hleft hdue hread
      refine ⟨_, e.fetched line rest l, hexec, ?_, rfl, rfl, rfl⟩
      rw [State.die_modDie hd]
      exact mget_mput_same ..
    · obtain ⟨u, hexec⟩ := exec_stagingComplete_fault hentry hleft hdue hread
      refine ⟨_, hexec, ?_⟩
      rw [State.die_modDie hd]
      exact mget_mdel_same ..

end Sys2Proof.Proofs
end

section
/-!
Accesses of far memory and the records of the dies: no access changes a record (R29, R194, R195).
-/
namespace Sys2Proof.Machine

/-! ## Records of the dies -/

/-- A die's records: what it holds besides its walkers' cache (R29) and its page pools (R195). -/
def Die.records (y : Die) : Die := { y with walkCache := [], pools := [] }

/-- Every die of `t` has in `g` what it has of `s`. -/
structure SameOfDies {α : Type} (g : Die → α) (s t : State) : Prop where
  die (d : Nat) : g (t.die d) = g (s.die d)

theorem SameOfDies.refl {α : Type} {g : Die → α} (s : State) : SameOfDies g s s := ⟨fun _ => rfl⟩

theorem SameOfDies.trans {α : Type} {g : Die → α} {s t u : State} (h : SameOfDies g s t) (k : SameOfDies g t u) : SameOfDies g s u :=
  ⟨fun d => (k.die d).trans (h.die d)⟩

theorem SameOfDies.of_dies {α : Type} {g : Die → α} {s t : State} (h : t.dies = s.dies) : SameOfDies g s t :=
  ⟨fun d => by rw [State.die, h, State.die]⟩

theorem State.modDie_sameOfDies {α : Type} {g : Die → α} (s : State) (d : Nat) {f : Die → Die} (hf : ∀ y, g (f y) = g y) :
    SameOfDies g s (s.modDie d f) := ⟨State.die_modDie_keeps g hf s d⟩

/-- What belongs to the records stays as they stay. -/
theorem SameOfDies.of_records {α : Type} {g : Die → α} (hg : ∀ y : Die, g y.records = g y) {s t : State}
    (h : SameOfDies Die.records s t) : SameOfDies g s t := ⟨fun d => by rw [← hg, h.die, hg]⟩

theorem SameOfDies.frame {s t : State} (h : SameOfDies Die.frames s t) (d i : Nat) : t.frame d i = s.frame d i := by
  rw [State.frame, h.die, State.frame]

theorem SameOfDies.task {s t : State} (h : SameOfDies Die.tasks s t) (d i : Nat) : t.task d i = s.task d i := by
  rw [State.task, h.die, State.task]

theorem SameOfDies.cell {s t : State} (h : SameOfDies Die.cells s t) (d i : Nat) : t.cell d i = s.cell d i := by
  rw [State.cell, h.die, State.cell]

theorem OnlyContents.sameOfDies {α : Type} {g : Die → α} {s t : State} (h : OnlyContents s t) : SameOfDies g s t :=
  .of_dies ((congrArg State.dies h).trans rfl)

theorem OnlyPackets.sameOfDies {α : Type} {g : Die → α} {s t : State} (h : OnlyPackets s t) : SameOfDies g s t :=
  .of_dies ((congrArg State.dies h).trans rfl)

/-! ## Translations (R25–R36) -/

theorem State.modCtrl_sameOfDies {α : Type} {g : Die → α} (s : State) (c : Nat) (f : Ctrl → Ctrl) : SameOfDies g s (s.modCtrl c f) :=
  .of_dies rfl

theorem State.setDirty_sameOfDies {α : Type} {g : Die → α} (s : State) (a : Nat) (p : Word) : SameOfDies g s (s.setDirty a p) :=
  (State.basePut_only ..).sameOfDies

theorem State.tierTouch_records (s : State) (pa : Nat) : SameOfDies Die.records s (s.tierTouch pa).1 := by
  refine .of_dies ?_
  unfold State.tierTouch
  dsimp only
  (repeat' split) <;> simp [State.countUncorrectable, State.countTier, State.count]

theorem State.tierAccess_records (s : State) (write : Bool) (pa : Nat) : SameOfDies Die.records s (s.tierAccess write pa).1 := by
  unfold State.tierAccess
  split
  · exact .refl s
  · exact s.tierTouch_records pa

theorem State.cacheWalk_records (s : State) (d : Nat) (c : Nat × Nat × Nat × Word) :
    SameOfDies Die.records s (s.modDie d fun y => { y with walkCache := y.walkCache ++ [c] }) := s.modDie_sameOfDies d fun _ => rfl

/-- A walk adds to the walkers' cache only. -/
theorem State.walkFrom_records (x d va : Nat) (k : Access) (fuel : Nat) (s : State) (table : Nat) :
    SameOfDies Die.records s (s.walkFrom x d va k table fuel).1 := by
  induction fuel generalizing s table with
  | zero => exact .refl s
  | succ lvl ih =>
    have touched := s.tierTouch_records (65536 * table + 8 * vaIndex va lvl)
    unfold State.walkFrom
    dsimp only
    generalize hhit : (s.die d).walkCache.find? _ = hit
    cases hit with
    | some c =>
      simp only [Option.isSome_some, if_true, Bool.not_true, Bool.false_eq_true, if_false]
      split
      · exact .refl s
      · split
        · exact ih ..
        · (repeat' split) <;> exact .refl s
    | none =>
      simp only [Option.isSome_none, Bool.false_eq_true, if_false]
      split
      · exact touched
      · split
        · exact touched
        · split
          · exact (touched.trans (State.cacheWalk_records ..)).trans (ih ..)
          · (repeat' split) <;> exact touched

theorem State.walk_records (s : State) (x d va : Nat) (k : Access) : SameOfDies Die.records s (s.walk x d va k).1 := by
  unfold State.walk
  dsimp only
  split
  · exact .refl s
  · split
    · exact rel_of_fst ‹_› (State.walkFrom_records ..)
    · have first := rel_of_fst ‹_› (s.walkFrom_records x d va k 3 _)
      split
      · exact first
      · have settled := first.trans (State.settleWrites_only _ .tier).sameOfDies
        split
        · exact settled.trans (State.setDirty_sameOfDies ..)
        · split
          · exact settled.trans (rel_of_fst ‹_› (State.walkFrom_records ..))
          · have again := settled.trans (rel_of_fst ‹_› (State.walkFrom_records ..))
            split
            · exact again
            · exact again.trans (State.setDirty_sameOfDies ..)

theorem State.translateLocal_records (s : State) (x va : Nat) (k : Access) : SameOfDies Die.records s (s.translateLocal x va k).1 := by
  have walked := s.walk_records x (dieOfCtrl (colour (va / 65536))) va k
  unfold State.translateLocal
  dsimp only
  split
  · exact .refl s
  · split
    · split
      · exact .refl s
      · split
        · split
          · exact rel_of_fst ‹_› walked
          · dsimp only
            exact (rel_of_fst ‹_› walked).trans (State.modCtrl_sameOfDies ..)
        · exact .refl s
    · split
      · exact rel_of_fst ‹_› walked
      · dsimp only
        exact (rel_of_fst ‹_› walked).trans (State.modCtrl_sameOfDies ..)

theorem State.place_records (s : State) (x : Nat) (t : Trans) (write : Bool) (off : Nat) :
    SameOfDies Die.records s (s.place x t write off).1 := by
  have touched := s.tierAccess_records write (65536 * t.ppn + off)
  unfold State.place
  dsimp only
  split
  · split
    · exact .refl s
    · split <;> exact rel_of_fst ‹_› touched
  · (repeat' split) <;> exact .refl s

theorem State.readBy_records {s : State} (v : Viewer) (x va n : Nat) {y : State × (Nat ⊕ Trans)} (h : SameOfDies Die.records s y.1) :
    SameOfDies Die.records s (State.readBy v x va n y).1 := by
  obtain ⟨t, f | tr⟩ := y
  · exact h
  · unfold State.readBy
    dsimp only
    split <;> exact SameOfDies.trans h (rel_of_fst ‹_› (State.place_records ..))

theorem State.remoteEntry_records (s : State) (x c m : Nat) : SameOfDies Die.records s (s.remoteEntry x c m).1 := by
  unfold State.remoteEntry
  dsimp only
  split
  · exact rel_of_fst ‹_› (State.readBy_records _ _ _ _ (State.translateLocal_records ..))
  · have first := rel_of_fst ‹_› (State.readBy_records (.die (dieOfCtrl c)) x _ 8 (s.translateLocal_records x _ .read))
    split <;> exact first.trans (rel_of_fst ‹_› (State.readBy_records _ _ _ _ (State.translateLocal_records ..)))

theorem State.translate_records (s : State) (x va : Nat) (k : Access) : SameOfDies Die.records s (s.translate x va k).1 := by
  unfold State.translate
  split
  · exact rel_of_fst ‹_› (State.translateLocal_records ..)
  · have local_ := rel_of_fst ‹_› (s.translateLocal_records x va k)
    dsimp only
    split
    · split
      · exact local_.trans (rel_of_fst ‹_› (State.remoteEntry_records ..))
      · have entry := local_.trans (rel_of_fst ‹_› (State.remoteEntry_records ..))
        split
        · exact entry
        · dsimp only
          exact entry.trans (State.modCtrl_sameOfDies ..)
    · exact local_

/-! ## One access (R264) -/

/-- `t` is `s` after accesses of far memory: nothing but the far memories, the drills, the walkers, the page pools, the links and what is sent
differs. -/
structure Accessed (s t : State) : Prop where
  only : OnlyAccess s t
  records : SameOfDies Die.records s t

namespace Accessed

theorem refl (s : State) : Accessed s s := ⟨.refl s, .refl s⟩

theorem trans {s t u : State} (h : Accessed s t) (g : Accessed t u) : Accessed s u :=
  ⟨h.only.trans g.only, h.records.trans g.records⟩

variable {s t : State} (h : Accessed s t)
include h

theorem ops : t.ops = s.ops := h.only.ops
theorem lookups : t.lookups = s.lookups := (congrArg State.lookups h.only).trans rfl
theorem frame (d i : Nat) : t.frame d i = s.frame d i := SameOfDies.frame (.of_records (fun _ => rfl) h.records) d i
theorem task (d i : Nat) : t.task d i = s.task d i := SameOfDies.task (.of_records (fun _ => rfl) h.records) d i
theorem cells : SameOfDies Die.cells s t := .of_records (fun _ => rfl) h.records
theorem conts : SameOfDies Die.conts s t := .of_records (fun _ => rfl) h.records

end Accessed

/-- Folds that carry more than the state. -/
theorem foldl_fst_accessed {α β : Type} {f : State × β → α → State × β} (hf : ∀ a x, Accessed a.1 (f a x).1) (l : List α)
    (a : State × β) : Accessed a.1 (l.foldl f a).1 :=
  foldl_rel (R := fun a b : State × β => Accessed a.1 b.1) (fun a => .refl a.1) .trans hf l a

theorem State.reach_packets (s : State) (t : Trans) (va : Nat) : OnlyPackets s (s.reach t va) := by
  unfold State.reach
  split
  · split
    · exact s.sendOn_packets ..
    · exact .refl s
  · exact .refl s

theorem State.reachLine_accessed (s : State) (x va : Nat) (k : Access) : Accessed s (s.reachLine x va k) := by
  refine ⟨s.reachLine_only x va k, ?_⟩
  unfold State.reachLine
  split
  · exact rel_of_fst ‹_› (State.translate_records ..)
  · exact (rel_of_fst ‹_› (s.translate_records x va k)).trans (State.reach_packets ..).sameOfDies

theorem State.vaGet_accessed (s : State) (v : Viewer) (x va n : Nat) (k : Access) : Accessed s (s.vaGet v x va n k).1 :=
  ⟨(State.readBy_only _ _ _ _ (State.translate_only ..)).access, State.readBy_records _ _ _ _ (State.translate_records ..)⟩

theorem State.vaRead_accessed (s : State) (v : Viewer) (x va n : Nat) (k : Access) : Accessed s (s.vaRead v x va n k).1 :=
  (s.reachLine_accessed x va k).trans (State.vaGet_accessed ..)

theorem State.vaPut_accessed (s : State) (x va n v : Nat) : Accessed s (s.vaPut x va n v).1 := by
  refine ⟨(s.vaPut_only x va n v).access, ?_⟩
  unfold State.vaPut
  split
  · exact rel_of_fst ‹_› (State.translate_records ..)
  · have translated := rel_of_fst ‹_› (s.translate_records x va .write)
    split
    · exact translated.trans (rel_of_fst ‹_› (State.place_records ..))
    · exact (translated.trans (rel_of_fst ‹_› (State.place_records ..))).trans (State.sysPut_only ..).sameOfDies

theorem State.vaWrite_accessed (s : State) (x va n v : Nat) : Accessed s (s.vaWrite x va n v).1 :=
  (s.reachLine_accessed x va .write).trans (State.vaPut_accessed ..)

theorem State.vaReadFrom_accessed (v : Viewer) (x w : Nat) (k : Access) (n : Nat) (s : State) (va : Nat) (first : Bool) :
    Accessed s (s.vaReadFrom v x va w k first n).1 := by
  induction n generalizing s va first with
  | zero => exact .refl s
  | succ n ih =>
    have piece : Accessed s ((if first || va % 64 < w then s.reachLine x va k else s).vaGet v x va w k).1 := by
      split
      · exact (s.reachLine_accessed x va k).trans (State.vaGet_accessed ..)
      · exact s.vaGet_accessed ..
    unfold State.vaReadFrom
    split
    · exact rel_of_fst ‹_› piece
    · have rest := (rel_of_fst ‹_› piece).trans (ih _ (va + w) false)
      split <;> exact rel_of_fst ‹_› rest

theorem State.vaReadMany_accessed (s : State) (v : Viewer) (x va w : Nat) (k : Access) (n : Nat) :
    Accessed s (s.vaReadMany v x va w k n).1 := State.vaReadFrom_accessed v x w k n s va true

/-! ## Pages and logs of a frame (R194, R195) -/

theorem State.setPool_accessed (s : State) (d x : Nat) (p : Word × Word) : Accessed s (s.setPool d x p) :=
  ⟨(s.setPool_only d x p).access, s.modDie_sameOfDies d (f := fun y => { y with pools := _ }) fun _ => rfl⟩

theorem State.takePage_accessed (s : State) (d x : Nat) : Accessed s (s.takePage d x).1 := by
  unfold State.takePage
  dsimp only
  split
  · exact .refl s
  · split
    · exact rel_of_fst ‹_› (State.vaRead_accessed ..)
    · exact (rel_of_fst ‹_› (State.vaRead_accessed ..)).trans (State.setPool_accessed ..)

theorem State.returnPage_accessed (s : State) (d x : Nat) (page : Word) : Accessed s (s.returnPage d x page) := by
  unfold State.returnPage
  split
  · exact .refl s
  · exact (State.vaWrite_accessed ..).trans (State.setPool_accessed ..)

theorem State.logRead_accessed (s : State) (d x : Nat) (f : Frame) (t : Nat) : Accessed s (s.logRead d x f t).1 := by
  have read := s.vaRead_accessed (.die d) x (f.log + 4 * t) 4 .read
  unfold State.logRead
  split
  · exact (rel_of_fst ‹_› read).trans (State.vaRead_accessed ..)
  · exact read

theorem State.logWrite_accessed (s : State) (x : Nat) (f : Frame) (t v : Nat) : Accessed s (s.logWrite x f t v).1 :=
  (s.vaWrite_accessed x _ 4 v).trans (State.vaWrite_accessed ..)

end Sys2Proof.Machine
end

section
/-!
The Sheaf's moves outside any task (R201, R202): returned rows and compactions.
-/
namespace Sys2Proof.Machine

/-! ## Frames (R193) -/

theorem Frame.word_setWord (f : Frame) {k : Nat} (v : Word) (h : k < 8) : (f.setWord k v).word k = v := by
  simp [Frame.word, Frame.setWord, h]

theorem Frame.word_setWord_ne (f : Frame) {j k : Nat} (v : Word) (h : k ≠ j) : (f.setWord k v).word j = f.word j := by
  simp [Frame.word, Frame.setWord, h]

/-- A field of a frame that has been written reads back. -/
theorem Frame.wbits_setField (f : Frame) {k lo n v : Nat} (hk : k < 8) (hlo : lo + n ≤ 64) (hv : v < 2 ^ n) :
    wbits ((f.setField k lo n v).word k) lo n = v := by
  rw [Frame.setField, Frame.word_setWord _ _ hk, wbits_setBits _ hlo hv]

theorem Frame.progress_setProgress (f : Frame) {n : Nat} (h : n < 32768) : (f.setProgress n).progress = n :=
  f.wbits_setField (by decide) (by decide) h

theorem State.frame_modFrame (s : State) {d : Nat} (i : Nat) (f : Frame → Frame) (h : d < 4) : (s.modFrame d i f).frame d i = f (s.frame d i) := by
  rw [State.frame, State.modFrame, State.setFrame, State.die_modDie h]
  exact congrArg (·.getD Frame.reset) (mget_mput_same ..)

/-! ## Returned rows (R201) -/

theorem State.endFret_frets (s : State) (i : Nat) (j : FretJob) : (s.endFret i j).frets = mdel s.frets i :=
  (congrArg State.frets ((State.dropFrameRef_only _ j.from_).trans (State.dropFrameRef_only _ j.into))).trans rfl

/-- A FRET that an earlier one holds back moves nothing. -/
theorem exec_fretRowMove_blocked {s : State} {i : Nat} {f : FretJob} (hf : mget s.frets i = some f) (hblocked : s.fretBlocked f = true) :
    exec (.fretRowMove i) s = .next s := by
  rw [exec, execFretRowMove, hf]
  exact if_pos (by rw [State.fretDue, hblocked]; rfl)

section
variable {s : State} {i : Nat} {f : FretJob} {a b : Word} {r : List (Word × Word)} (hf : mget s.frets i = some f)
  (hdue : s.fretDue f = true) (hmoves : f.moves = (a, b) :: r)
include hf hdue hmoves

/-- A line moves, and the FRET ends where no row is left. -/
theorem exec_fretRowMove_line : exec (.fretRowMove i) s =
    let u := (s.moveLine (hDie f.from_) f.ctx a.toNat b.toNat).1
    .next (if restMoves a b r = [] then u.endFret i f else { u with frets := mput u.frets i { f with moves := restMoves a b r } }) := by
  rw [exec, execFretRowMove, hf]
  simp only [hdue, hmoves, Bool.not_true, Bool.false_eq_true, if_false, List.isEmpty_iff]
  split <;> rfl

theorem fretRowMove_next (hrest : restMoves a b r ≠ []) :
    ∃ t, exec (.fretRowMove i) s = .next t ∧ mget t.frets i = some { f with moves := restMoves a b r } := by
  refine ⟨_, (exec_fretRowMove_line hf hdue hmoves).trans (congrArg Host.Outcome.next (if_neg hrest)), ?_⟩
  exact mget_mput_same ..

theorem fretRowMove_last (hrest : restMoves a b r = []) : ∃ t, exec (.fretRowMove i) s = .next t ∧ mget t.frets i = none := by
  refine ⟨_, (exec_fretRowMove_line hf hdue hmoves).trans (congrArg Host.Outcome.next (if_pos hrest)), ?_⟩
  rw [State.endFret_frets, mget_mdel_same]

end

/-! ## The end of a compaction (R183, R202) -/

theorem State.setCont_frames (s : State) (d i : Nat) (c : ContRec) : SameOfDies Die.frames s (s.setCont d i c) :=
  s.modDie_sameOfDies d (f := fun y => { y with conts := mput y.conts i c }) fun _ => rfl

theorem State.meet_frames (s : State) (h : Word) (f : ContRec → ContRec) : SameOfDies Die.frames s (s.meet h f) := by
  unfold State.meet
  split
  · exact s.setCont_frames ..
  · exact .refl s

/-- A compaction that ends is no longer under way. -/
theorem State.meetCompaction_ended (s : State) (i : Nat) (j : CompactJob) (f : ContRec → ContRec) :
    mget (s.meetCompaction i j f).compacts i = none := by
  have met : OnlyRecords { s with compacts := mdel s.compacts i } (s.meetCompaction i j f) :=
    foldl_rel .refl .trans (fun s h => s.meet_records h f) _ _
  rw [(congrArg State.compacts met).trans rfl]
  exact mget_mdel_same ..

/-- The waits that a compaction meets change no frame. -/
theorem State.meetCompaction_frame (s : State) (i : Nat) (j : CompactJob) (f : ContRec → ContRec) (d n : Nat) :
    (s.meetCompaction i j f).frame d n = s.frame d n := by
  have met : SameOfDies Die.frames { s with compacts := mdel s.compacts i } (s.meetCompaction i j f) :=
    foldl_rel .refl .trans (fun s h => s.meet_frames h f) _ _
  exact met.frame d n

/-- A frame whose compaction is finished: OPEN with its new token count, some of its pages returned (R202). -/
def Frame.compacted (f : Frame) (count : Nat) (pages : List Word) : Frame :=
  { (f.setState frameOpen).setTokens count with pages := pages, was := none }

theorem Frame.word_pages (f : Frame) (pages : List Word) (was : Option (Word × Word)) (k : Nat) :
    ({ f with pages := pages, was := was } : Frame).word k = f.word k := rfl

theorem Frame.word_compacted (f : Frame) (count : Nat) (pages : List Word) (k : Nat) :
    (f.compacted count pages).word k = ((f.setState frameOpen).setTokens count).word k :=
  Frame.word_pages ..

theorem Frame.state_compacted (f : Frame) (count : Nat) (pages : List Word) : (f.compacted count pages).state = frameOpen := by
  rw [Frame.state, Frame.word_compacted, Frame.setTokens, Frame.setField, Frame.word_setWord_ne _ _ (by decide), Frame.setState,
    Frame.wbits_setField _ (by decide) (by decide) (by decide)]

theorem Frame.tokens_compacted (f : Frame) {count : Nat} (pages : List Word) (h : count < 32768) :
    (f.compacted count pages).tokens = count := by
  rw [Frame.tokens, Frame.word_compacted, Frame.setTokens, Frame.wbits_setField _ (by decide) (by decide) h]

/-- A compaction that is finished returns pages, opens its frame and meets its waits. -/
theorem State.endCompaction_eq (s : State) (i : Nat) (j : CompactJob) (count : Nat) :
    ∃ (u : State) (keep : Word → Bool), Accessed s u ∧ s.endCompaction i j count =
      (u.modFrame j.die j.frame fun f => f.compacted count (f.pages.filter keep)).meetCompaction i j id := by
  refine ⟨_, _, ?_, rfl⟩
  refine Accessed.trans (foldl_fst_accessed (fun a e => ?_) _ (s, [])) (foldl_rel .refl .trans (fun s p => s.returnPage_accessed ..) _ _)
  split
  · exact rel_of_fst ‹_› (State.vaRead_accessed ..)
  · exact (rel_of_fst ‹_› (State.vaRead_accessed ..)).trans (State.vaWrite_accessed ..)

/-! ## The steps of a compaction (R202) -/

theorem State.readList_accessed (s : State) (d x : Nat) (f : Frame) (n : Nat) : Accessed s (s.readList d x f n).1 := s.vaReadMany_accessed ..

theorem State.compactLog_accessed (s : State) (j : CompactJob) (src dst : Nat) : Accessed s (s.compactLog j src dst).1 := by
  have read := s.logRead_accessed j.die (s.frame j.die j.frame).ctx (s.frame j.die j.frame) src
  unfold State.compactLog
  dsimp only
  split
  · exact rel_of_fst ‹_› read
  · split <;> exact (rel_of_fst ‹_› read).trans (rel_of_fst ‹_› (State.logWrite_accessed ..))

section
variable {s : State} {i : Nat} {c : CompactJob} (hc : mget s.compacts i = some c) (hdue : s.compactDue c = true)
include hc hdue

/-- The list of a compaction is read: a bad one ends it, with its frame as it was when it was last OPEN. -/
theorem exec_compactionRowMove_list (hlist : c.list = none) {u : State} {l : List Nat}
    (hread : s.readList c.die (s.frame c.die c.frame).ctx (s.frame c.die c.frame) (wbits ((s.frame c.die c.frame).word 3) 30 15) = (u, .inr l)) :
    ∃ trapped, exec (.compactionRowMove i) s =
      .next (if listBad l (wbits ((s.frame c.die c.frame).word 2) 39 15) (s.frame c.die c.frame).tokens = true then
        (u.modFrame c.die c.frame (·.uncompacted)).meetCompaction i c trapped
      else { u with compacts := mput u.compacts i { c with list := some l } }) := by
  refine ⟨fun c => { c with trap := some (codeStack, subBadSpan) }, ?_⟩
  rw [exec, execCompactionRowMove, hc]
  simp only [hdue, hlist, hread, Bool.not_true, Bool.false_eq_true, if_false]
  split <;> rfl

variable {l : List Nat} (hlist : c.list = some l)
include hlist

/-- The next row of the list takes its next step. -/
theorem exec_compactionRowMove_row {a : Nat} (ha : l[(s.frame c.die c.frame).progress]? = some a) : exec (.compactionRowMove i) s =
    .next (s.compactStep i c a (wbits ((s.frame c.die c.frame).word 2) 39 15 + (s.frame c.die c.frame).progress)) := by
  have hmove : s.compactMove c = some (a, wbits ((s.frame c.die c.frame).word 2) 39 15 + (s.frame c.die c.frame).progress) := by
    rw [State.compactMove, hlist, Option.bind_some, ha, Option.map_some]
  rw [exec, execCompactionRowMove, hc]
  simp only [hdue, hlist, hmove, Bool.not_true, Bool.false_eq_true, if_false]

/-- After the last row of the list the compaction ends. -/
theorem exec_compactionRowMove_end (ha : l[(s.frame c.die c.frame).progress]? = none) : exec (.compactionRowMove i) s =
    .next (s.endCompaction i c (wbits ((s.frame c.die c.frame).word 2) 39 15 + wbits ((s.frame c.die c.frame).word 3) 30 15)) := by
  have hmove : s.compactMove c = none := by rw [State.compactMove, hlist, Option.bind_some, ha, Option.map_none]
  rw [exec, execCompactionRowMove, hc]
  simp only [hdue, hlist, hmove, Bool.not_true, Bool.false_eq_true, if_false]

end

/-- A line of a row that meets no fault. -/
theorem State.compactStep_line {s u : State} {i : Nat} {c : CompactJob} {src dst x y : Nat}
    (hstep : c.step < 4 * (s.frame c.die c.frame).planes) (hline : (s.compactLine c src dst).2 = .inr (x, y))
    (hmove : (s.compactLine c src dst).1.moveLine c.die (s.frame c.die c.frame).ctx x y = (u, none)) :
    s.compactStep i c src dst = { u with compacts := mput u.compacts i { c with step := c.step + 1 } } := by
  have hpair : s.compactLine c src dst = ((s.compactLine c src dst).1, .inr (x, y)) := Prod.ext rfl hline
  rw [State.compactStep]
  dsimp only
  rw [if_pos hstep, hpair]
  dsimp only
  rw [hmove]

/-- The log entry of a row that meets no fault: the frame's progress counts the row. -/
theorem State.compactStep_log {s u : State} {i : Nat} {c : CompactJob} {src dst : Nat}
    (hstep : 4 * (s.frame c.die c.frame).planes ≤ c.step) (hlog : s.compactLog c src dst = (u, none)) :
    s.compactStep i c src dst =
      { (u.modFrame c.die c.frame fun f => f.setProgress (f.progress + 1)) with compacts := mput u.compacts i { c with step := 0 } } := by
  rw [State.compactStep]
  dsimp only
  rw [if_neg hstep.not_gt, hlog]

end Sys2Proof.Machine

namespace Sys2Proof.Proofs
open Sys2Proof.Machine

/-- R202, the first part of O43: the list, the lines and log entry of a row, and the end. -/
theorem compactionsMove_holds : compactionsMove := by
  intro s i c hc hdue hdie f kept n
  refine ⟨fun hlist l hread => ?_, fun l a hlist ha => ⟨fun x y u hstep hline hmove => ?_, fun u hstep hlog hprogress => ?_⟩,
    fun l hlist ha hcount => ?_⟩
  · obtain ⟨trapped, hexec⟩ := exec_compactionRowMove_list hc hdue hlist (Prod.ext rfl hread)
    refine ⟨fun hgood => ⟨_, hexec.trans (congrArg _ (if_neg (ne_true_of_eq_false hgood))), mget_mput_same ..⟩, fun hbad => ?_⟩
    refine ⟨_, hexec.trans (congrArg _ (if_pos hbad)), State.meetCompaction_ended .., ?_⟩
    rw [State.meetCompaction_frame, State.frame_modFrame _ _ _ hdie, (s.readList_accessed ..).frame]
  · refine ⟨_, exec_compactionRowMove_row hc hdue hlist ha, ?_⟩
    rw [State.compactStep_line hstep hline hmove]
    exact mget_mput_same ..
  · have logged : Accessed s u := rel_of_fst hlog (s.compactLog_accessed ..)
    refine ⟨_, (exec_compactionRowMove_row hc hdue hlist ha).trans (congrArg _ (State.compactStep_log hstep hlog)), mget_mput_same .., ?_⟩
    have hframe := u.frame_modFrame c.frame (fun f => f.setProgress (f.progress + 1)) hdie
    rw [logged.frame] at hframe
    exact (congrArg Frame.progress hframe).trans (Frame.progress_setProgress _ hprogress)
  · obtain ⟨u, keep, accessed, hend⟩ := s.endCompaction_eq i c (kept + n)
    refine ⟨_, (exec_compactionRowMove_end hc hdue hlist ha).trans (congrArg _ hend), State.meetCompaction_ended .., ?_⟩
    rw [State.meetCompaction_frame, State.frame_modFrame _ _ _ hdie]
    exact ⟨Frame.state_compacted .., Frame.tokens_compacted _ _ hcount⟩

end Sys2Proof.Proofs
end

section
/-!
Lookups of prefixes (R207, R388) and KV rebuilds (R209): a future that a lookup writes, and what a rebuild starts and ends.
-/
namespace Sys2Proof.Machine

/-! ## Cells -/

/-- What a change of one cell keeps of it, it keeps of every cell. -/
theorem State.cell_modCell_keeps {α : Type} (g : Cell → α) {f : Cell → Cell} (hf : ∀ c, g (f c) = g c) (s : State) (d i e j : Nat) :
    g ((s.modCell d i f).cell e j) = g (s.cell e j) := by
  by_cases h : e = d
  · subst h
    by_cases he : e < 4
    · rw [State.cell, State.modCell, State.setCell, State.die_modDie he]
      dsimp only
      by_cases hj : j = i
      · rw [hj, mget_mput_same]
        exact hf _
      · rw [mget_mput_ne _ _ hj, State.cell]
    · simp [State.cell, State.die, State.modCell, State.setCell, State.modDie, he]
  · simp [State.cell, State.die, State.modCell, State.setCell, State.modDie, Ne.symm h]

theorem State.cellAt_modCell (s : State) (h : Word) (f : Cell → Cell) : (s.modCell (hDie h) (hIndex h) f).cellAt h = f (s.cellAt h) := by
  rw [State.cellAt, State.cell, State.modCell, State.setCell, State.die_modDie (hDie_lt h)]
  exact congrArg (·.getD Cell.reset) (mget_mput_same ..)

/-- A future with its value, FULL (R185). -/
def Cell.full (c : Cell) (v : Word) : Cell := { c with w0 := v, w1 := 1#64 }

theorem Cell.futureState_full (c : Cell) (v : Word) : (c.full v).futureState = 1 := by
  rw [Cell.futureState, show (c.full v).w1 = 1#64 from rfl]
  decide

theorem State.writeFuture_cells (s : State) (h v : Word) :
    SameOfDies Die.cells (s.modCell (hDie h) (hIndex h) (·.full v)) (s.writeFuture h v) := .of_dies rfl

/-- A write by the module that a FUTW could make writes the future. -/
theorem State.moduleFutw_eq {s : State} {x : Nat} {h : Word} (v : Word) (hok : s.cellTrip x h [.future] = none)
    (hempty : (s.cellAt h).futureState = 0) : s.moduleFutw x h v = s.writeFuture h v := if_pos ⟨hok, hempty⟩

theorem State.moduleFutw_lookups (s : State) (x : Nat) (h v : Word) : (s.moduleFutw x h v).lookups = s.lookups := by
  unfold State.moduleFutw
  split <;> rfl

/-- A cell with a reference less on its run (R22). -/
def Cell.released (c : Cell) : Cell := { c with refs := c.refs - 1 }

/-- A reference on a run that is not DRAINING goes, and nothing more comes of it (R22). -/
theorem State.dropCellRef_eq {s : State} {h : Word} (hkind : (s.cell (hDie h) (s.cellAt h).first).kind ≠ .draining) :
    s.dropCellRef h = s ∨ s.dropCellRef h = s.modCell (hDie h) (s.cellAt h).first Cell.released := by
  have hkept : ((s.modCell (hDie h) (s.cellAt h).first Cell.released).cell (hDie h) (s.cellAt h).first).kind ≠ .draining := by
    rwa [State.cell_modCell_keeps Cell.kind (f := Cell.released) (fun _ => rfl)]
  unfold State.dropCellRef
  dsimp only
  split
  · exact .inl rfl
  · exact .inr (if_neg fun ⟨hdrain, _⟩ => hkept hdrain)

theorem State.setCell_lookups (s : State) (d i : Nat) (c : Cell) : (s.setCell d i c).lookups = s.lookups := rfl

theorem State.dropCellRef_lookups (s : State) (h : Word) : (s.dropCellRef h).lookups = s.lookups := by
  unfold State.dropCellRef
  dsimp only
  split
  · rfl
  · split
    · exact (foldl_proj State.lookups (fun s j => State.setCell_lookups s ..) _ _).trans rfl
    · rfl

/-! ## Frames that an operation holds -/

/-- `t` is `s` after accesses of far memory and changes of frames: no cell and no continuation differs. -/
structure FramesOnly (s t : State) : Prop where
  only : OnlyAccess s t
  cells : SameOfDies Die.cells s t
  conts : SameOfDies Die.conts s t

theorem FramesOnly.refl (s : State) : FramesOnly s s := ⟨.refl s, .refl s, .refl s⟩

theorem FramesOnly.trans {s t u : State} (h : FramesOnly s t) (g : FramesOnly t u) : FramesOnly s u :=
  ⟨h.only.trans g.only, h.cells.trans g.cells, h.conts.trans g.conts⟩

theorem FramesOnly.lookups {s t : State} (h : FramesOnly s t) : t.lookups = s.lookups := (congrArg State.lookups h.only).trans rfl

theorem FramesOnly.rebuilds {s t : State} (h : FramesOnly s t) : t.rebuilds = s.rebuilds := (congrArg State.rebuilds h.only).trans rfl

theorem Accessed.framesOnly {s t : State} (h : Accessed s t) : FramesOnly s t := ⟨h.only, h.cells, h.conts⟩

theorem State.setFrame_sameOfDies {α : Type} {g : Die → α} (hg : ∀ (y : Die) l, g { y with frames := l } = g y) (s : State) (d i : Nat)
    (f : Frame) : SameOfDies g s (s.setFrame d i f) := s.modDie_sameOfDies d fun y => hg y _

theorem State.setFrame_framesOnly (s : State) (d i : Nat) (f : Frame) : FramesOnly s (s.setFrame d i f) :=
  ⟨(s.setFrame_only d i f).access, s.setFrame_sameOfDies (fun _ _ => rfl) .., s.setFrame_sameOfDies (fun _ _ => rfl) ..⟩

theorem State.returnPages_framesOnly (s : State) (d i : Nat) : FramesOnly s (s.returnPages d i) := by
  unfold State.returnPages
  dsimp only
  split
  · exact (foldl_rel Accessed.refl .trans (fun s p => s.returnPage_accessed d _ p) _ s).framesOnly.trans (State.setFrame_framesOnly ..)
  · exact .refl s

theorem State.dropFrameRef_framesOnly (s : State) (h : Word) : FramesOnly s (s.dropFrameRef h) :=
  (s.setFrame_framesOnly ..).trans (State.returnPages_framesOnly ..)

/-! ## Lookups of prefixes (R207) -/

theorem State.endLookup_lookups (s : State) (j : LookupJob) (v : Word) : (s.endLookup j v).lookups = s.lookups :=
  (foldl_proj State.lookups (fun s h => (s.dropFrameRef_framesOnly h).lookups) j.frames _).trans
    ((State.dropCellRef_lookups ..).trans (State.moduleFutw_lookups ..))

/-- A lookup that ends on an EMPTY future leaves it FULL with the lookup's value: nothing more changes of it than the references on its run. -/
theorem State.endLookup_future {α : Type} (g : Cell → α) (hg : ∀ c : Cell, g c.released = g c) {s : State} {j : LookupJob} (v : Word)
    (hok : s.cellTrip j.ctx j.fut [.future] = none) (hempty : (s.cellAt j.fut).futureState = 0)
    (hkind : (s.cell (hDie j.fut) (s.cellAt j.fut).first).kind ≠ .draining) :
    g ((s.endLookup j v).cellAt j.fut) = g ((s.cellAt j.fut).full v) := by
  have written (d i : Nat) : (s.writeFuture j.fut v).cell d i = (s.modCell (hDie j.fut) (hIndex j.fut) (·.full v)).cell d i :=
    (s.writeFuture_cells j.fut v).cell d i
  have hfull : (s.writeFuture j.fut v).cellAt j.fut = (s.cellAt j.fut).full v := (written ..).trans (s.cellAt_modCell j.fut _)
  have hstill : ((s.writeFuture j.fut v).cell (hDie j.fut) ((s.writeFuture j.fut v).cellAt j.fut).first).kind ≠ .draining := by
    rw [hfull, written, State.cell_modCell_keeps Cell.kind (f := (·.full v)) (fun _ => rfl)]
    exact hkind
  have kept : SameOfDies Die.cells ((s.writeFuture j.fut v).dropCellRef j.fut) (s.endLookup j v) := by
    rw [State.endLookup, State.moduleFutw_eq v hok hempty]
    exact foldl_rel .refl .trans (fun s h => (s.dropFrameRef_framesOnly h).cells) j.frames _
  rw [State.cellAt, kept.cell, ← hfull]
  rcases State.dropCellRef_eq hstill with hdrop | hdrop
  · rw [hdrop, State.cellAt]
  · rw [hdrop, State.cell_modCell_keeps g hg, State.cellAt]

theorem State.logMatches_accessed (s : State) (x : Nat) (h : Word) (tokens : List Nat) : Accessed s (s.logMatches x h tokens).1 := by
  refine foldl_fst_accessed (fun a t => ?_) _ (s, true)
  split
  · split <;> exact rel_of_fst ‹_› (State.logRead_accessed ..)
  · exact .refl a.1

theorem State.findPrefix_accessed (s : State) (j : LookupJob) (tokens : List Nat) (hs : List Word) :
    Accessed s (s.findPrefix j tokens hs).1 := by
  refine foldl_fst_accessed (fun a e => ?_) _ (s, none)
  split
  · exact .refl a.1
  · split <;> exact rel_of_fst ‹_› (State.logMatches_accessed ..)

theorem State.readPrompt_accessed (s : State) (x : Nat) (va : Word) (n : Nat) : Accessed s (s.readPrompt x va n).1 := by
  unfold State.readPrompt
  split <;> exact rel_of_fst ‹_› (State.vaReadMany_accessed ..)

section
variable {s : State} {i : Nat} {c : LookupJob} (hc : mget s.lookups i = some c) {u : State}
include hc

theorem exec_prefixLookup_unread (hread : { s with lookups := mdel s.lookups i }.readPrompt c.ctx c.va (16 * c.b) = (u, none)) :
    exec (.prefixLookup i) s = .next (u.endLookup c 0x8000000000000000#64) := by
  rw [exec, execPrefixLookup, hc]
  dsimp only
  rw [hread]

theorem exec_prefixLookup_read {tokens : List Nat}
    (hread : { s with lookups := mdel s.lookups i }.readPrompt c.ctx c.va (16 * c.b) = (u, some tokens)) :
    exec (.prefixLookup i) s =
      .next ((u.findPrefix c tokens (chainHashes tokens c.b chainStart)).1.endLookup c
        (lookupValue (u.findPrefix c tokens (chainHashes tokens c.b chainStart)).2)) := by
  rw [exec, execPrefixLookup, hc]
  dsimp only
  rw [hread]

end

/-- A lookup that ends is no longer under way. -/
theorem State.endLookup_ended {s u : State} {i : Nat} (h : Accessed { s with lookups := mdel s.lookups i } u) (j : LookupJob) (v : Word) :
    mget (u.endLookup j v).lookups i = none := by
  rw [State.endLookup_lookups, h.lookups]
  exact mget_mdel_same ..

/-! ## KV rebuilds that start (R209) -/

/-- A registered record patched with the frame, the rows and the fresh page of a rebuild. -/
def TaskRec.rebuilds (t : TaskRec) (h rows page : Word) : TaskRec := ((t.setWord 8 h).setWord 9 rows).setWord 10 page

/-- The rows of a page-list entry of a frame, as a rebuild is given them. -/
def Frame.rebuildRows (f : Frame) (e : Nat) : Word :=
  w64 (e % 64 * 256 + min 256 (f.tokens - e % 64 * 256) * 2 ^ 16 + e / 64 * 2 ^ 32)

theorem TaskRec.word_rebuilds (t : TaskRec) (h rows page : Word) : (t.rebuilds h rows page).word 11 = t.word 11 := by
  rw [TaskRec.rebuilds, TaskRec.word_setWord_ne _ _ (by decide), TaskRec.word_setWord_ne _ _ (by decide),
    TaskRec.word_setWord_ne _ _ (by decide)]

theorem State.mget_ops_bind_part {s : State} {i j : Nat} {o : Op} {p : Part} (ho : mget s.ops i = some o) (hp : o.parts[j]? = some p) :
    ((mget s.ops i).bind fun o => o.parts[j]?.map fun p => (o, p)) = some (o, p) := by
  rw [ho, Option.bind_some, hp, Option.map_some]

section
variable {s : State} {i j : Nat} {o : Op} {p : Part} {h : Word} {e : Nat} (ho : mget s.ops i = some o) (hp : o.parts[j]? = some p)
  (hphase : p.phase = .rebuild h e) (hfree : s.rebuilding h e = false)
include ho hp hphase hfree

/-- With a page in the pool the registered record is patched and armed, and the rebuild waits for the record's future. -/
theorem exec_kvRebuildStart_starts {k page : Word} {v : Nat} {u w : State} (hk : s.rebuildTask o.ctx = some k)
    (hread : s.vaRead (.die (hDie h)) o.ctx ((s.frameAt h).list + 8 * e) 8 .read = (u, .inr v))
    (htake : u.takePage (hDie h) o.ctx = (w, some page)) :
    ∃ y : State, y.taskAt k = s.taskAt k ∧ exec (.kvRebuildStart i j) s =
      .next (({ y.putTaskAt k ((y.taskAt k).rebuilds h ((s.frameAt h).rebuildRows e) page) with
          rebuilds := mput y.rebuilds y.seq
            { ctx := o.ctx, frame := h, entry := e, page := page, fut := ((y.taskAt k).rebuilds h ((s.frameAt h).rebuildRows e) page).word 11 }
          seq := y.seq + 1 }.arm o.ctx k).1.markRebuild h e) := by
  have accessed := (rel_of_fst hread (State.vaRead_accessed ..)).trans (rel_of_fst htake (State.takePage_accessed ..))
  have written := accessed.trans (w.vaWrite_accessed o.ctx ((s.frameAt h).list + 8 * e) 8 (v / 2 * 2 + 1))
  refine ⟨(w.vaWrite o.ctx ((s.frameAt h).list + 8 * e) 8 (v / 2 * 2 + 1)).1.modFrame (hDie h) (hIndex h)
    fun f => { f with pages := f.pages ++ [page] }, ?_, ?_⟩
  · exact (SameOfDies.task (State.setFrame_sameOfDies (fun _ _ => rfl) ..) _ _).trans (written.task ..)
  · rw [exec, execKvRebuildStart, State.mget_ops_bind_part ho hp]
    simp only [hphase, hfree, hk, hread, htake, Bool.false_eq_true, if_false]
    rfl

/-- With no record registered the part fails. -/
theorem exec_kvRebuildStart_fails (hk : s.rebuildTask o.ctx = none) :
    ∃ u : State, Accessed s u ∧ exec (.kvRebuildStart i j) s = .next (u.failPart i j 3 (o.lowestOpen p)) := by
  refine ⟨_, s.vaRead_accessed (.die (hDie h)) o.ctx ((s.frameAt h).list + 8 * e) 8 .read, ?_⟩
  rw [exec, execKvRebuildStart, State.mget_ops_bind_part ho hp]
  simp only [hphase, hfree, hk, Bool.false_eq_true, if_false]

end

theorem State.armed_rebuilds (s : State) (x : Nat) (k h : Word) (e : Nat) : ((s.arm x k).1.markRebuild h e).rebuilds = s.rebuilds :=
  (congrArg State.rebuilds (s.arm_records x k)).trans rfl

/-! ## KV rebuilds that end (R209) -/

theorem State.releaseRebuild_rebuilds (s : State) (fut : Word) : (s.releaseRebuild fut).rebuilds = s.rebuilds := by
  unfold State.releaseRebuild
  split <;> rfl

/-- After the last rebuild of a future no continuation waits for it. -/
theorem State.releaseRebuild_conts {s : State} {fut : Word} (hlast : ∀ r ∈ s.rebuilds, r.2.fut ≠ fut) {d n : Nat} {c : ContRec} (hd : d < 4)
    (hmem : (n, c) ∈ ((s.releaseRebuild fut).die d).conts) : fut ∉ c.rebuild := by
  have hnone : (s.rebuilds.any fun q => q.2.fut == fut) = false := by simpa using fun a b hm => hlast (a, b) hm
  rw [State.releaseRebuild, hnone] at hmem
  simp only [State.die, hd, Vector.getElem?_eq_getElem, Vector.getElem_map, Option.getD_some, Bool.false_eq_true, if_false,
    List.mem_map] at hmem
  obtain ⟨q, -, hq⟩ := hmem
  obtain ⟨-, rfl⟩ := Prod.mk.inj hq
  simp

/-- A rebuild that ends is gone, and its continuations are released; the rest of its end changes no continuation. -/
theorem exec_kvRebuildDone {s : State} {i : Nat} {x : RebuildJob} (hx : mget s.rebuilds i = some x) (hfull : s.futureIsFull x.fut = true) :
    ∃ t, exec (.kvRebuildDone i) s = .next t ∧ FramesOnly ({ s with rebuilds := mdel s.rebuilds i }.releaseRebuild x.fut) t := by
  rw [exec, execKvRebuildDone, hx]
  simp only [hfull, Bool.not_true, Bool.false_eq_true, if_false]
  generalize { s with rebuilds := mdel s.rebuilds i }.releaseRebuild x.fut = u
  have read := u.vaRead_accessed (.die (hDie x.frame)) x.ctx ((s.frameAt x.frame).list + 8 * x.entry) 8 .read
  split
  · exact ⟨u, rfl, .refl u⟩
  · split
    · exact ⟨_, rfl, (rel_of_fst ‹_› read).framesOnly⟩
    · split
      · exact ⟨_, rfl, ((rel_of_fst ‹_› read).framesOnly.trans (State.setFrame_framesOnly ..)).trans
          (State.returnPage_accessed ..).framesOnly⟩
      · exact ⟨_, rfl, ((rel_of_fst ‹_› read).framesOnly.trans (State.vaWrite_accessed ..).framesOnly).trans
          (State.setFrame_framesOnly ..)⟩

end Sys2Proof.Machine

namespace Sys2Proof.Proofs
open Sys2Proof.Machine

/-- Settles O43: returned rows, compactions, lookups of prefixes and rebuilds. -/
theorem sheafMoves : Obligations.SheafMoves := by
  refine ⟨compactionsMove_holds, fun s i j => ⟨fun f hf => ⟨exec_fretRowMove_blocked hf, fun a b r hdue hmoves =>
    ⟨fretRowMove_next hf hdue hmoves, fretRowMove_last hf hdue hmoves⟩⟩, fun c hc => ?_,
    fun o p h e ho hp hphase hfree => ⟨fun k v page hk hread htake => ?_, fun hk => ?_⟩, fun x hx hfull => ?_⟩⟩
  · have prompt := { s with lookups := mdel s.lookups i }.readPrompt_accessed c.ctx c.va (16 * c.b)
    rcases hread : { s with lookups := mdel s.lookups i }.readPrompt c.ctx c.va (16 * c.b) with ⟨u, _ | tokens⟩
    · refine ⟨_, exec_prefixLookup_unread hc hread, State.endLookup_ended (rel_of_fst hread prompt) .., fun u' hu hok hempty hkind => ?_⟩
      obtain ⟨rfl, -⟩ := Prod.mk.inj (hread.symm.trans hu)
      refine ⟨State.endLookup_future Cell.w0 (fun _ => rfl) _ hok hempty hkind, ?_⟩
      exact (State.endLookup_future Cell.futureState (fun _ => rfl) _ hok hempty hkind).trans (Cell.futureState_full ..)
    · refine ⟨_, exec_prefixLookup_read hc hread, State.endLookup_ended ((rel_of_fst hread prompt).trans (State.findPrefix_accessed ..)) ..,
        fun u' hu => nomatch hread.symm.trans hu⟩
  · obtain ⟨y, htask, hexec⟩ := exec_kvRebuildStart_starts ho hp hphase hfree hk (Prod.ext rfl hread) (Prod.ext rfl htake)
    refine ⟨_, _, y.seq, hexec, (congrArg (mget · y.seq) (State.armed_rebuilds ..)).trans (mget_mput_same ..), rfl, rfl, rfl, ?_⟩
    rw [TaskRec.word_rebuilds, htask]
  · obtain ⟨u, accessed, hexec⟩ := exec_kvRebuildStart_fails ho hp hphase hfree hk
    exact ⟨_, hexec, State.failPart_partIs (accessed.ops ▸ ho) hp ..⟩
  · obtain ⟨t, hexec, rest⟩ := exec_kvRebuildDone hx hfull
    refine ⟨t, hexec, ?_, fun hlast d n c hd hmem => ?_⟩
    · rw [rest.rebuilds, State.releaseRebuild_rebuilds]
      exact mget_mdel_same ..
    · rw [rest.conts.die] at hmem
      refine State.releaseRebuild_conts (fun r hr hfut => ?_) hd hmem
      obtain ⟨hin, hne⟩ := List.mem_filter.1 hr
      exact bne_iff_ne.1 hne (hlast r hin hfut)

end Sys2Proof.Proofs
end

section
/-!
The table transfer of JMPT (R226).
-/
namespace Sys2Proof.Machine

/-- The last entry of a table stands for every index past it (R226). -/
theorem tableIndex_eq_min (i n : Nat) : (if i < n then i else n) = min i n := by
  rw [Nat.min_comm, Nat.min_def]
  split <;> split <;> omega

/-- What JMPT does once its operands are good, with its table entry at `f` (R226). -/
def Env.jmptFrom (e : Env) (f : Nat) : Effect :=
  match portACheck e.t e.run f 2 2, e.jmptEntry f with
  | some x, _ => .trapStay e.s x (e.now + 6)
  | none, .inl x => .trapStay (e.jmptRead f) x (e.now + 6)
  | none, .inr v =>
    if v % 2 = 1 then .trapStay (e.jmptRead f) (trip codeIllegal) (e.now + 6)
    else .done (e.jmptRead f) (some (w64 (e.run.codeBase + v), true)) 6 (some (e.now + 6))

section
variable {e : Env} {f : Nat}

theorem Env.jmptFrom_refused {x : Trip} (h : portACheck e.t e.run f 2 2 = some x) : e.jmptFrom f = .trapStay e.s x (e.now + 6) := by
  rw [Env.jmptFrom, h]

variable (hcheck : portACheck e.t e.run f 2 2 = none)
include hcheck

theorem Env.jmptFrom_lost (hlost : e.t.isDead f 2 = true) :
    e.jmptFrom f = .trapStay (e.jmptRead f) (tripAt codePoison (e.t.deadAt f 2)) (e.now + 6) := by
  have hentry : e.jmptEntry f = .inl (tripAt codePoison (e.t.deadAt f 2)) := by simp [Env.jmptEntry, poisonCheck, failIf, hlost]
  rw [Env.jmptFrom, hcheck, hentry]

theorem Env.jmptFrom_read (hlost : e.t.isDead f 2 = false) :
    e.jmptFrom f = if e.t.fieldRead (e.σ == .a) (e.now + 1) f 2 % 2 = 1 then .trapStay (e.jmptRead f) (trip codeIllegal) (e.now + 6)
      else .done (e.jmptRead f) (some (w64 (e.run.codeBase + e.t.fieldRead (e.σ == .a) (e.now + 1) f 2), true)) 6 (some (e.now + 6)) := by
  have hentry : e.jmptEntry f = .inr (e.t.fieldRead (e.σ == .a) (e.now + 1) f 2) := by simp [Env.jmptEntry, poisonCheck, failIf, hlost]
  rw [Env.jmptFrom, hcheck, hentry]

end

section
variable {e : Env} {m : Bool} {d a : BitVec 4} (h : e.s.focus = some e)
  (hr : e.runs m formD3 false [tS (dNum e.pl d), tS (aNum e.pl a), tS (bNum e.pl)] = true)
include h hr

/-- JMPT's own effect: an odd table address or a last index beyond 32,767 traps, else the entry that the index selects is read. -/
theorem exec_jmpt : exec (.jmpt m d a) e.s = .next (e.apply
    (if (e.r.sget (aNum e.pl a)).getLsbD 0 || decide (32767 < (e.r.sget (bNum e.pl)).toNat) then .trapStay e.s (trip codeIllegal) (e.now + 6)
    else e.jmptFrom (wbits (e.r.sget (aNum e.pl a)) 0 22 + 2 * min (e.r.sget (dNum e.pl d)).toNat (e.r.sget (bNum e.pl)).toNat))) := by
  rw [← tableIndex_eq_min]
  exact issue_runs h hr

theorem exec_jmpt_illegal (hbad : (e.r.sget (aNum e.pl a)).getLsbD 0 = true ∨ 32767 < (e.r.sget (bNum e.pl)).toNat) :
    exec (.jmpt m d a) e.s = .next (e.trapStay e.s (trip codeIllegal) (e.now + 6)) := by
  rw [exec_jmpt h hr, if_pos (by simpa only [Bool.or_eq_true, decide_eq_true_eq] using hbad), Env.apply_trapStay]

theorem exec_jmpt_reads (heven : (e.r.sget (aNum e.pl a)).getLsbD 0 = false) (hn : (e.r.sget (bNum e.pl)).toNat ≤ 32767) :
    exec (.jmpt m d a) e.s = .next (e.apply (e.jmptFrom
      (wbits (e.r.sget (aNum e.pl a)) 0 22 + 2 * min (e.r.sget (dNum e.pl d)).toNat (e.r.sget (bNum e.pl)).toNat))) := by
  rw [exec_jmpt h hr, if_neg]
  simpa only [Bool.or_eq_true, decide_eq_true_eq, not_or, Bool.not_eq_true, not_lt] using ⟨heven, hn⟩

end

end Sys2Proof.Machine

namespace Sys2Proof.Proofs
open Sys2Proof.Machine

/-- Settles O9: the checks of JMPT in their order, and where it goes when they pass. -/
theorem tableTransfer : Obligations.TableTransfer := by
  intro s e m d a h hr i t n f v read
  obtain ⟨rfl, -⟩ := State.focus_some h
  refine ⟨fun heven hn hcheck hlost hv => ?_, fun x heven hn hcheck => ?_, fun heven hn hcheck hlost => ?_,
    fun heven hn hcheck hlost hv => ?_, exec_jmpt_illegal h hr⟩ <;> rw [exec_jmpt_reads h hr heven hn]
  · rw [Env.jmptFrom_read hcheck hlost, if_neg (by omega)]
    rfl
  · rw [Env.jmptFrom_refused hcheck, Env.apply_trapStay]
  · rw [Env.jmptFrom_lost hcheck hlost]
    rfl
  · rw [Env.jmptFrom_read hcheck hlost, if_pos hv]
    rfl

end Sys2Proof.Proofs
end

section
/-!
Verdicts that return (R88, R212, R363, R289): those of a strand's own words, and that of its home-unit request.
-/
namespace Sys2Proof.Machine

/-! ## What a trap leaves of a tile (R211, R212) -/

/-- Bits in flight are the field store's alone. -/
theorem Tile.disown_all (l : List Nat) (t : Tile) : ∃ y, l.foldl Tile.disown t = { t with field := y } := by
  induction l generalizing t with
  | nil => exact ⟨t.field, rfl⟩
  | cons i l ih => exact ih (t.disown i)

/-- The strand that has taken a trap (R211, R212). -/
def Strand.trappedBy (x : Strand) (i : TrapInfo) : Strand :=
  { x with phase := .trapped i, verdicts := [], undo := none, home := none, restart := none, zerof := none, waitb := false
           regs := { x.regs.clearLatch with pc := i.resume, runPc := i.resume } }

/-- A strand that takes a trap changes nothing of its tile but itself and the bits in flight of its copies (R301). -/
theorem Tile.takeTrap_eq (t : Tile) (σ : Side) (i : TrapInfo) :
    ∃ y, t.takeTrap σ i = ({ t with field := y } : Tile).setStrand σ ((t.strand σ).trappedBy i) := by
  obtain ⟨y, h⟩ := Tile.disown_all ((t.strand σ).verdicts.filterMap (·.owner)) t
  exact ⟨y, by rw [Tile.takeTrap, h]; rfl⟩

section
variable (t : Tile) (σ : Side) (i : TrapInfo)

@[simp] theorem Tile.takeTrap_strand : (t.takeTrap σ i).strand σ = (t.strand σ).trappedBy i := by
  obtain ⟨y, h⟩ := t.takeTrap_eq σ i
  rw [h, Tile.strand_setStrand]

/-- Walkers, load queues and store buffer stay. -/
theorem Tile.takeTrap_shared : (t.takeTrap σ i).w = t.w ∧ (t.takeTrap σ i).lq = t.lq ∧ (t.takeTrap σ i).sb = t.sb := by
  obtain ⟨y, h⟩ := t.takeTrap_eq σ i
  rw [h]
  exact ⟨Tile.setStrand_w .., Tile.setStrand_lq .., Tile.setStrand_sb ..⟩

end

/-! ## Verdicts of a strand's own words (R212) -/

theorem Tile.setStrand_strand (t : Tile) (σ : Side) : t.setStrand σ (t.strand σ) = t := by cases σ <;> rfl

section
variable {t : Tile} {σ : Side} {now : Nat}

/-- Verdicts none of which fails only leave the list. -/
theorem Tile.returnVerdicts_passes (h : ∀ v ∈ (t.strand σ).verdicts, v.due ≤ now → v.fail = none) :
    t.returnVerdicts σ now =
      t.setStrand σ { t.strand σ with verdicts := (t.strand σ).verdicts.dropWhile fun v => decide (v.due ≤ now) } := by
  have hpass : ((t.strand σ).verdicts.takeWhile fun v => decide (v.due ≤ now)).findSome? (·.fail) = none :=
    List.findSome?_eq_none_iff.2 fun v hv => h v ((List.takeWhile_sublist _).subset hv) (by simpa using List.mem_takeWhile_imp hv)
  have hdrop := List.drop_left (l₁ := (t.strand σ).verdicts.takeWhile fun v => decide (v.due ≤ now))
    (l₂ := (t.strand σ).verdicts.dropWhile fun v => decide (v.due ≤ now))
  rw [List.takeWhile_append_dropWhile] at hdrop
  rw [Tile.returnVerdicts, hpass]
  simp only [hdrop]

/-- The first verdict that fails takes its trap, and what came after it is discarded. -/
theorem Tile.returnVerdicts_fails {pre post : List Verdict} {v : Verdict} {i : TrapInfo} (hl : (t.strand σ).verdicts = pre ++ v :: post)
    (hpre : ∀ w ∈ pre, w.due ≤ now ∧ w.fail = none) (hdue : v.due ≤ now) (hfail : v.fail = some i) :
    t.returnVerdicts σ now = (t.discard σ).takeTrap σ i := by
  have hfirst : ((t.strand σ).verdicts.takeWhile fun v => decide (v.due ≤ now)).findSome? (·.fail) = some i := by
    rw [hl, List.takeWhile_append_of_pos fun w hw => decide_eq_true (hpre w hw).1, List.findSome?_append,
      List.findSome?_eq_none_iff.2 fun w hw => (hpre w hw).2, Option.none_or, List.takeWhile_cons, if_pos (decide_eq_true hdue),
      List.findSome?_cons, hfail]
  rw [Tile.returnVerdicts, hfirst]

end

/-! ## What a trap undoes (R212) -/

section
variable {t : Tile} {σ : Side}

theorem Tile.discard_nothing (h : (t.strand σ).undo = none) : t.discard σ = t := by rw [Tile.discard, h]

variable {u : Undo} (h : (t.strand σ).undo = some u)
include h

theorem Tile.discard_strand : (t.discard σ).strand σ = { t.strand σ with regs := u.regs, undo := none } := by
  rw [Tile.discard, h]
  cases σ <;> rfl

/-- A walker that later instructions have changed is as it was. -/
theorem Tile.discard_walker {n : Nat} {w : Option Walker} (hw : u.walkers = [(n, w)]) (hn : n < 8) : (t.discard σ).wget n = w := by
  rw [Tile.discard, h]
  cases σ <;> simp [Tile.wget, hw, hn]

end

/-- An A-strand's entries of the load queues and of the store buffer since the trapping instruction's issue are gone. -/
theorem Tile.discard_queues {t : Tile} {u : Undo} (h : (t.strand .a).undo = some u) :
    (∀ q, q < 4 → ((t.discard .a).lqget q).ents = (t.lqget q).ents.filter fun e => decide (e.id < u.mark)) ∧
      (t.discard .a).sb = t.sb.filterMap (·.upTo u.since) := by
  rw [Tile.discard, h]
  refine ⟨fun q hq => ?_, rfl⟩
  simp [Tile.lqget, hq, Queue.before]

/-! ## The verdict of a home-unit request (R363) -/

theorem State.homeVerdict_none {s : State} {k : Nat} {σ : Side} (h : ((s.tile k).strand σ).home = none) : s.homeVerdict k σ = s := by
  rw [State.homeVerdict, h]

/-! ## VERDICT_RETURN -/

section
variable {s : State} {k : Nat} {σ : Side}

/-- A strand that waits for no home unit after its verdicts have returned. -/
theorem exec_verdictReturn {t : Tile} (hret : (s.tile k).returnVerdicts σ s.cycle = t) (hhome : (t.strand σ).home = none) :
    exec (.verdictReturn k σ) s = .next (s.setTile k t) := by
  have hmod : s.modTile k (·.returnVerdicts σ s.cycle) = s.setTile k t := by rw [State.modTile, hret]
  rw [exec, execVerdictReturn, hmod, State.homeVerdict_none (by rw [State.tile_setTile, hhome])]

/-- A strand without verdicts of its own words. -/
theorem exec_verdictReturn_home (h : ((s.tile k).strand σ).verdicts = []) :
    exec (.verdictReturn k σ) s = .next ((s.setTile k (s.tile k)).homeVerdict k σ) := by
  have hnone : ∀ v ∈ ((s.tile k).strand σ).verdicts, v.due ≤ s.cycle → v.fail = none := by rw [h]; exact fun v hv => nomatch hv
  have hmod : s.modTile k (·.returnVerdicts σ s.cycle) = s.setTile k (s.tile k) := by
    rw [State.modTile, Tile.returnVerdicts_passes hnone, h, List.dropWhile_nil, ← h, Tile.setStrand_strand]
  rw [exec, execVerdictReturn, hmod]

variable {i : Nat} {q : HomeReq} {c : Nat} {r : HomeReply} (hnone : ((s.tile k).strand σ).verdicts = [])
  (hhome : ((s.tile k).strand σ).home = some i) (hq : mget s.homes i = some q) (hsent : q.sentAt = some c) (hreply : q.reply = some r)
  (hdue : c + q.cost ≤ s.cycle)
include hnone hhome hq hsent hreply hdue

/-- A request that succeeds retires its word. -/
theorem exec_verdictReturn_retires (htrap : r.trap = none) :
    ∃ t, exec (.verdictReturn k σ) s = .next t ∧ t.homes = mdel s.homes i ∧
      (t.tile k).strand σ = ((s.tile k).strand σ).answered s.cycle (c + q.lat) (!q.op.isRett) r := by
  refine ⟨_, exec_verdictReturn_home hnone, ?_⟩
  rw [State.homeVerdict, State.tile_setTile, hhome]
  simp only [State.setTile_homes, State.setTile_cycle, hq, hsent, hreply, hdue, htrap, if_true, State.modTile_homes, State.tile_modTile,
    Tile.strand_setStrand, true_and]
  exact congrArg (fun y : Tile => (y.strand σ).answered s.cycle (c + q.lat) (!q.op.isRett) r) (s.tile_setTile k _)

/-- A request that fails takes its trap. -/
theorem exec_verdictReturn_traps {y : Trip} (htrap : r.trap = some y) :
    ∃ t, exec (.verdictReturn k σ) s = .next t ∧ t.homes = mdel s.homes i ∧
      (t.tile k).strand σ = ((s.tile k).strand σ).trappedBy (TrapInfo.ofTrip ((s.tile k).strand σ).regs y) := by
  refine ⟨_, exec_verdictReturn_home hnone, ?_⟩
  rw [State.homeVerdict, State.tile_setTile, hhome]
  simp only [State.setTile_homes, State.setTile_cycle, hq, hsent, hreply, hdue, htrap, if_true, State.modTile_homes, State.tile_modTile,
    Tile.takeTrap_strand, true_and]
  exact congrArg (fun x : Tile => (x.strand σ).trappedBy (TrapInfo.ofTrip (x.regs σ) y)) (s.tile_setTile k _)

end

end Sys2Proof.Machine

namespace Sys2Proof.Proofs
open Sys2Proof.Machine

/-- Settles O33: verdicts that pass, the first that fails, and the answer of a home unit. -/
theorem verdictsReturn : Obligations.VerdictsReturn := by
  intro s k σ x
  refine ⟨fun hhome hpass => ?_, fun pre v post i hhome hl hpre hdue hfail => ?_, fun i q c r hl hhome hq hsent hreply hdue => ?_⟩
  · refine ⟨_, exec_verdictReturn (Tile.returnVerdicts_passes hpass) (by rw [Tile.strand_setStrand]; exact hhome), .setTile .., ?_, ?_⟩
    · rw [State.tile_setTile]
      exact .strand ..
    · rw [State.tile_setTile, Tile.strand_setStrand]
  · have hret := Tile.returnVerdicts_fails hl hpre hdue hfail
    obtain ⟨hw, hlq, hsb⟩ := ((s.tile k).discard σ).takeTrap_shared σ i
    have hstrand := ((s.tile k).discard σ).takeTrap_strand σ i
    refine ⟨_, exec_verdictReturn hret (by rw [hstrand]; rfl), .setTile .., ?_⟩
    rw [State.tile_setTile, Tile.regs, hstrand]
    refine ⟨rfl, rfl, rfl, rfl, fun hundo => ?_, fun u hundo => ?_⟩
    · rw [Tile.discard_nothing hundo] at hw hlq hsb ⊢
      exact ⟨rfl, hw, hlq, hsb⟩
    · rw [Tile.discard_strand hundo]
      refine ⟨rfl, rfl, rfl, rfl, rfl, rfl, fun n w hwalk hn => ?_, fun hσ => ?_⟩
      · rw [Tile.wget, hw]
        exact Tile.discard_walker hundo hwalk hn
      · subst hσ
        obtain ⟨hents, hbuf⟩ := Tile.discard_queues hundo
        refine ⟨fun n hn => ?_, hsb.trans hbuf⟩
        rw [Tile.lqget, hlq]
        exact hents n hn
  · rcases htrap : r.trap with _ | y
    · obtain ⟨t, hexec, hhomes, hstrand⟩ := exec_verdictReturn_retires hl hhome hq hsent hreply hdue htrap
      refine ⟨t, hexec, hhomes, ?_, fun _ => ?_, fun y hy => nomatch hy⟩ <;> rw [hstrand]
      · rfl
      · rw [Tile.regs, hstrand]
        exact ⟨rfl, rfl, rfl⟩
    · obtain ⟨t, hexec, hhomes, hstrand⟩ := exec_verdictReturn_traps hl hhome hq hsent hreply hdue htrap
      refine ⟨t, hexec, hhomes, ?_, nofun, fun z hz => ?_⟩ <;> rw [hstrand]
      · rfl
      · obtain rfl := Option.some.inj hz
        rw [Tile.regs, hstrand]
        exact ⟨rfl, rfl⟩

end Sys2Proof.Proofs
end

section
/-!
The delivery of a trap (R214, R215): how its save comes into the field store, and a field store that then reads otherwise.
-/
namespace Sys2Proof.Machine

/-! ## Memories (log entry 1) -/

/-- A write before a memory's first cell puts its bytes in front, and keeps every cell, in order or not. -/
theorem Memory.write_before {c : Host.Cell} {a n : Nat} (h : a + n ≤ c.1) (m : List Host.Cell) (x : Nat) :
    Memory.write (c :: m) a n x = Memory.cells a x 0 n ++ c :: m := by
  have hstart : ¬ c.1 < a := by omega
  have hstop : ¬ c.1 < a + n := by omega
  rw [Memory.write, List.takeWhile_cons_of_neg (by simpa using hstart), List.dropWhile_cons_of_neg (by simpa using hstop), List.nil_append]

/-- A bit that is set in any of the cells that list a byte reads as set. -/
theorem Memory.read_testBit {m : List Host.Cell} {c : Host.Cell} (hc : c ∈ m) {i : Nat} (hi : c.2.toNat.testBit i = true) :
    (Memory.read m c.1 1).testBit i = true := by
  have keeps (l : List Host.Cell) (acc : Nat) (h : acc.testBit i = true) : (l.foldl (fun acc y =>
      if c.1 ≤ y.1 ∧ y.1 < c.1 + 1 then acc ||| (y.2.toNat <<< (8 * (y.1 - c.1))) else acc) acc).testBit i = true := by
    refine List.foldlRecOn (motive := fun acc : Nat => acc.testBit i = true) l _ h fun acc h y _ => ?_
    split
    · rw [Nat.testBit_or, h, Bool.true_or]
    · exact h
  obtain ⟨pre, post, rfl⟩ := List.append_of_mem hc
  rw [Memory.read, List.foldl_append, List.foldl_cons]
  refine keeps post _ ?_
  rw [if_pos ⟨le_rfl, Nat.lt_succ_self _⟩, Nat.testBit_or, Nat.sub_self, Nat.mul_zero, Nat.shiftLeft_zero, hi, Bool.or_true]

/-! ## Writes under one key (R67) -/

/-- A tile that holds data under its own key alone. -/
def Tile.OneKey (t : Tile) : Prop := ∀ p ∈ t.field.keys, p.2 = t.keyTag

theorem Tile.OneKey.ownKey {t : Tile} (h : t.OneKey) (f n : Nat) : t.ownKey f n = true :=
  List.all_eq_true.2 fun p hp => beq_iff_eq.2 (h p (List.mem_of_mem_filter hp))

theorem Tile.OneKey.bankWrite {t : Tile} (h : t.OneKey) (f n x : Nat) : (t.bankWrite f n x).OneKey :=
  List.foldlRecOn (motive := fun l : List (Nat × Nat) => ∀ p ∈ l, p.2 = t.keyTag) (granules f n) _ h fun l hl g _ p hp => by
    rcases mem_mput hp with rfl | hp
    · rfl
    · exact hl p hp

theorem Tile.OneKey.bankRead {t : Tile} (h : t.OneKey) (f n : Nat) : t.bankRead f n = Memory.read t.field.mem f n :=
  if_pos (h.ownKey f n)

theorem Tile.OneKey.bankWrite_mem {t : Tile} (h : t.OneKey) (f n x : Nat) :
    (t.bankWrite f n x).field.mem = Memory.write t.field.mem f n x := if_pos (h.ownKey f n)

/-! ## The save of a run with one member (R214, R215) -/

section
variable (s : State) (id : Nat) (r : Run) (i : TrapInfo) (point : Option RestartPt)

theorem State.addTaskRef_records (h : Word) : OnlyRecords s (s.addTaskRef h) := rfl

theorem State.trapCont_records : OnlyRecords s (s.trapCont id r i point).1 := by
  unfold State.trapCont
  split
  · rfl
  · split
    · rfl
    · exact (State.claimCont_records ‹_›).trans ((State.modCont_records ..).trans (State.addTaskRef_records ..))

theorem State.fibre_modDie (d : Nat) {f : Die → Die} (hf : ∀ y, (f y).fibres = y.fibres) (fb : BitVec 16) :
    (s.modDie d f).fibre fb = s.fibre fb := by
  rw [State.fibre, State.die_modDie_keeps Die.fibres hf, State.fibre]

theorem State.claimCont_fibre {s t : State} {d j : Nat} (h : s.claimCont d = some (j, t)) (fb : BitVec 16) : t.fibre fb = s.fibre fb := by
  unfold State.claimCont State.reserveCont at h
  cases hf : lowestFree (s.die d).conts (fun c => c.state == 0 && !c.held) contPool with
  | none => simp [hf] at h
  | some n =>
    simp only [hf, Option.some.injEq, Prod.mk.injEq] at h
    obtain ⟨-, rfl⟩ := h
    refine (State.fibre_modDie _ d ?_ fb).trans ((State.fibre_modDie _ d ?_ fb).trans (State.fibre_modDie _ d ?_ fb)) <;> exact fun _ => rfl

theorem State.trapCont_fibre (fb : BitVec 16) : (s.trapCont id r i point).1.fibre fb = s.fibre fb := by
  unfold State.trapCont
  split
  · rfl
  · split
    · rfl
    · refine (State.fibre_modDie _ _ ?_ fb).trans ((State.fibre_modDie _ _ ?_ fb).trans (State.claimCont_fibre ‹_› fb)) <;>
        exact fun _ => rfl

theorem State.dropContRef_records (h : Word) : OnlyRecords s (s.dropContRef h) := by
  unfold State.dropContRef
  dsimp only
  (repeat' split) <;> rfl

theorem State.dropChain_records : OnlyRecords s (s.dropChain r) := by
  unfold State.dropChain
  split
  · exact s.dropTaskRef_records _
  · rfl

theorem State.unlinkCont_records (h : Word) : OnlyRecords s (s.unlinkCont h) := rfl

theorem State.dropClaim_records : OnlyRecords s (s.dropClaim r) := by
  unfold State.dropClaim
  split
  · rfl
  · dsimp only
    split
    · exact (s.unlinkCont_records _).trans (State.useCont_records ..)
    · exact s.useCont_records _

/-- What a run has recorded is of the records of the dies. -/
theorem State.dropRecorded_records : OnlyRecords s (s.dropRecorded r) :=
  ((s.dropChain_records r).trans (State.dropClaim_records ..)).trans
    (foldl_rel .refl .trans (fun s x => s.dropContRef_records x.1) r.retts _)

theorem State.writeBack_records : OnlyRecords s (s.writeBack r) := rfl

theorem State.oweHandler_tiles (h : Handler) : (s.oweHandler h).tiles = s.tiles := rfl

variable {s r} {k : Nat} (hmembers : r.members = [k])
include hmembers

/-- A run's one member is left as a run leaves it. -/
theorem State.closeRun_single : (s.closeRun id r).tile k = (s.tile k).leave r := by
  have left : (s.closeRun id r).tile k = ((s.writeBack r).modTile k (·.leave r)).tile k := by rw [State.closeRun, hmembers]; rfl
  rw [left, State.tile_modTile, State.tile_congr (s.writeBack_records r).tiles]

variable (haligned : (s.fibre r.fibre).saveAt % 8192 = 0) (hlease : (s.tile k).inLease r.fibre (s.fibre r.fibre).saveAt 8192 = true)
include haligned hlease

theorem State.writeSaves_single (cont : Word) (cut : Bool) : ∃ x, (s.writeSaves r i cont cut point).1 =
    s.setTile k (((s.tile k).sbFlush s.cycle).bankWrite (s.fibre r.fibre).saveAt 8192 x) := by
  simp only [State.writeSaves, hmembers, List.foldl_cons, List.foldl_nil, hlease, haligned, beq_self_eq_true, Bool.and_self, if_true]
  exact ⟨_, rfl⟩

/-- What a delivery does to a run's one member whose fibre's lease covers the save. -/
theorem State.deliver_single : ∃ x, (s.deliver id r).tile k =
    (((s.tile k).sbFlush s.cycle).bankWrite (s.fibre r.fibre).saveAt 8192 x).leave r := by
  let i := s.delivered r
  let point := if i.atRestart ∧ !r.gang then (s.tile r.origin).point else none
  have claimed := s.trapCont_records id r i point
  have hfibre := s.trapCont_fibre id r i point r.fibre
  have htile : (s.trapCont id r i point).1.tile k = s.tile k := State.tile_congr claimed.tiles k
  have hcycle : (s.trapCont id r i point).1.cycle = s.cycle := (congrArg State.cycle claimed).trans rfl
  obtain ⟨x, hsave⟩ := State.writeSaves_single i point hmembers (by rw [hfibre, haligned]) (by rw [htile, hfibre, hlease])
    (s.trapCont id r i point).2.1 (s.trapCont id r i point).2.2
  refine ⟨x, ?_⟩
  unfold State.deliver
  dsimp only
  rw [State.tile_congr (State.oweHandler_tiles ..), State.closeRun_single _ hmembers,
    State.tile_congr ((State.modTask_records ..).trans (State.dropRecorded_records ..)).tiles, hsave, State.tile_setTile, htile, hcycle,
    hfibre]

end

/-- The end of a run writes nothing to its members' field stores. -/
theorem Tile.bankRead_leave (t : Tile) (r : Run) (f n : Nat) : (t.leave r).bankRead f n = t.bankRead f n := rfl

/-- A run that has noted a trap delivers it once its strands have stopped and what lands has landed. -/
theorem exec_trapDelivery {s : State} {id : Nat} {r : Run} (hrun : s.run id = some r) (hhalting : r.halting = true)
    (hstopped : s.allStopped r = true) (hlanded : ∀ k ∈ r.members, (s.tile k).landed s.cycle = true)
    (hculprit : r.culprit.isSome = true) :
    exec (.trapDelivery id) s = .next (s.deliver id r) := by
  have hall : (r.members.all fun k => (s.tile k).landed s.cycle) = true := List.all_eq_true.2 hlanded
  rw [exec, execTrapDelivery, hrun]
  simp only [hhalting, hstopped, hall, hculprit, Bool.not_true, Bool.or_self, Bool.false_eq_true, if_false, if_true]

/-! ## A field store whose cells are not in rising order -/

/-- A trap that TRAP has raised. -/
def raisedTrap : TrapInfo :=
  { code := codeTrap, sub := 0#8, pc := 0#64, addr := 0#64, kind := 0#4, resume := 0#64, sync := true, atRestart := false, debug := false }

/-- A cell beyond the save stands before one of the save's first byte. -/
def fallingCells : List Host.Cell := [(8192, 1#8), (0, 0xFF#8)]

/-- The tile whose A-strand has trapped, with its fibre's save leased. -/
def fallingTile : Tile :=
  { Tile.reset with
    run := some 0, a := { Strand.reset with phase := .trapped raisedTrap }
    field := { Field.reset with mem := fallingCells, lease := [(0, 0#16)] } }

/-- Its run, of one tile. -/
def trappedRun : Run :=
  { die := 0, idx := 0, handle := 0#64, ctx := 0, fibre := 0#16, mask := 0#16, origin := 0, width := 1, height := 1, codeBase := 0
    codeLen := 0, scratch := (0, 0), chan := none, chain := none, cont := none, awaitSide := none, retts := [], barrier := none, stop := none
    culprit := some (0, .a), halting := true, haltAt := 0 }

/-- The machine after reset but for that tile and that run. -/
def fallingState : State := { State.reset with tiles := [(0, fallingTile)], runs := [(0, trappedRun)] }

/-- The write of the save leaves the cell that it should have replaced. -/
theorem fallingTile_saved (x : Nat) (now : Nat) :
    ((((fallingTile.sbFlush now).bankWrite 0 8192 x).leave trappedRun).bankRead 0 1).testBit 0 = true := by
  have own : (fallingTile.sbFlush now).OneKey := fun p hp => nomatch hp
  have hmem : (fallingTile.sbFlush now).field.mem = (8192, 1#8) :: [(0, 0xFF#8)] := rfl
  rw [Tile.bankRead_leave, (own.bankWrite 0 8192 x).bankRead, own.bankWrite_mem, hmem, Memory.write_before (by norm_num)]
  exact Memory.read_testBit (c := (0, 0xFF#8)) (List.mem_append_right _ (List.mem_cons_of_mem _ List.mem_cons_self)) rfl

end Sys2Proof.Machine

namespace Sys2Proof.Proofs
open Sys2Proof.Machine

/-- Refutes O38: its clause on the save speaks of every state, without the premise that the member's memory is in canonical form (log entry
1).  In `fallingState` the memory lists a cell of the save's first byte behind one that lies beyond the save; the write of the save leaves
it, and the byte does not read as the code, 0x30: its lowest bit is set. -/
theorem not_trapIsDelivered : ¬ Obligations.TrapIsDelivered := by
  intro h
  have hsave : (fallingState.fibre trappedRun.fibre).saveAt = 0 := by decide
  have hmembers : trappedRun.members = [0] := by decide
  have hlease : (fallingState.tile 0).inLease trappedRun.fibre (fallingState.fibre trappedRun.fibre).saveAt 8192 = true := by decide
  have haligned : (fallingState.fibre trappedRun.fibre).saveAt % 8192 = 0 := by rw [hsave]
  have hlanded : ∀ k ∈ trappedRun.members, (fallingState.tile k).landed fallingState.cycle = true := by decide
  have hstopped : fallingState.allStopped trappedRun = true := by decide
  obtain ⟨t, hexec, -, -, -, hread⟩ := ((h fallingState 0).1 trappedRun rfl (by decide) rfl hstopped hlanded).1 rfl
  obtain ⟨hcode, -⟩ := hread 0 hmembers haligned hlease
  obtain rfl := Host.Outcome.next.inj ((exec_trapDelivery rfl rfl hstopped hlanded rfl).symm.trans hexec)
  obtain ⟨x, htile⟩ := State.deliver_single (id := 0) hmembers haligned hlease
  rw [htile, hsave] at hcode
  have hbit := fallingTile_saved x fallingState.cycle
  have hclear : (fallingState.delivered trappedRun).code.toNat.testBit 0 = false := by decide
  rw [← hcode] at hclear
  exact Bool.false_ne_true (hclear.symm.trans hbit)

end Sys2Proof.Proofs
end

section
/-!
What the reeve does beside the state machine: assignments, register writes, attestation, debug sessions and TDISP requests (R218, R229, R235,
R237, R239–R241, R243, R254, R269).
-/
namespace Sys2Proof.Machine

/-! ## Writes of window entries (R235, R236) -/

/-- A write of a window entry changes its entry; of the contexts it changes only which writes they wait for. -/
theorem State.writeWindow_eq (s : State) (n : Nat) (w0 w1 : Word) : ∃ j l w g, s.writeWindow n w0 w1 =
    { s with
      wintab := s.wintab.setIfInBounds n (setBits w0 62 1 0, w1), remoteHeld := j, sent := l ++ s.sent, windowWrites := w
      ctxs := s.ctxs.map fun (c : Ctx) => { c with opening := c.opening.filter g } } := by
  unfold State.writeWindow
  dsimp only
  obtain ⟨l, w, g, h⟩ := State.settleWindows_eq _
  exact ⟨_, l, w, g, h⟩

theorem State.writeWindow_entry (s : State) {n : Nat} (w0 w1 : Word) (hn : n < 64) :
    (s.writeWindow n w0 w1).wintab[n]? = some (setBits w0 62 1 0, w1) := by
  obtain ⟨j, l, w, g, h⟩ := s.writeWindow_eq n w0 w1
  rw [h]
  exact Vector.getElem?_setIfInBounds_self_of_lt hn

/-- `t` is `s` but for window entries: no tile and no controller differs, and of a context only the writes that it waits for. -/
structure OnlyWindows (s t : State) : Prop where
  tiles : t.tiles = s.tiles
  ctrls : t.ctrls = s.ctrls
  ctx (x : Nat) : ∃ l, t.ctx x = { s.ctx x with opening := l }

theorem OnlyWindows.refl (s : State) : OnlyWindows s s := ⟨rfl, rfl, fun x => ⟨(s.ctx x).opening, rfl⟩⟩

theorem OnlyWindows.trans {s t u : State} (h : OnlyWindows s t) (g : OnlyWindows t u) : OnlyWindows s u := by
  refine ⟨g.tiles.trans h.tiles, g.ctrls.trans h.ctrls, fun x => ?_⟩
  obtain ⟨_, hx⟩ := h.ctx x
  obtain ⟨l, gx⟩ := g.ctx x
  exact ⟨l, by rw [gx, hx]⟩

theorem State.writeWindow_only (s : State) (n : Nat) (w0 w1 : Word) : OnlyWindows s (s.writeWindow n w0 w1) := by
  obtain ⟨j, l, w, g, h⟩ := s.writeWindow_eq n w0 w1
  rw [h]
  refine ⟨rfl, rfl, fun x => ⟨(s.ctx x).opening.filter g, ?_⟩⟩
  simp only [State.ctx, Vector.getElem?_map]
  cases s.ctxs[x]? <;> rfl

/-! ## Assignment (R66, R229) -/

/-- What the moves of a tile set up, it has after the moves of many tiles, if it is among them. -/
theorem foldl_modTile_sets_at {α : Type} {key : α → Nat} {g : α → Tile → Tile} {P : Tile → Prop} {k : Nat} {l : List α}
    (hset : ∀ x ∈ l, key x = k → ∀ y, P (g x y)) (hk : k ∈ l.map key) (s : State) :
    P ((l.foldl (fun s x => s.modTile (key x) (g x)) s).tile k) := by
  induction l generalizing s with
  | nil => exact absurd hk List.not_mem_nil
  | cons x l ih =>
    rcases List.mem_cons.1 hk with rfl | hk
    · refine List.foldlRecOn (motive := fun s : State => P (s.tile (key x))) l _ ?_ fun s hs y hy => ?_
      · rw [State.tile_modTile]
        exact hset x List.mem_cons_self rfl _
      · by_cases hkey : key y = key x
        · rw [hkey, State.tile_modTile]
          exact hset y (List.mem_cons_of_mem _ hy) hkey _
        · rwa [State.tile_modTile_ne _ _ (Ne.symm hkey)]
    · exact ih (fun y hy => hset y (List.mem_cons_of_mem _ hy)) hk _

/-- The key that an assigned context works under (R230). -/
def State.assignKey (s : State) (a : Assignment) : Nat :=
  if !(s.ctx a.ctx).live then keyNumber a.tenantKey s.reeve.nextKey else (s.ctx a.ctx).key

/-- OWNER, key slots and FSCTX of the tiles of an assignment (R229). -/
def State.tilesHanded (s : State) (a : Assignment) : State :=
  ((assignTiles a).map fun k => (k, (s.vtileOf a k).getD 0#10)).foldl
    (fun u k => u.modTile k.1 fun t => t.assign a.ctx (s.assignKey a) k.2 ((s.ctx a.ctx).pre == PreState.spilled))
    { s.leaveTiles a with reeve := { s.reeve with nextKey := s.reeve.nextKey + 1 } }

/-- The registers of an assigned context (R229). -/
def State.registersWritten (s : State) (a : Assignment) (key : Nat) : State :=
  s.modCtx a.ctx fun c =>
    { c with key := key, xlroot := maskXlroot a.xlroot, rotbase := maskRotbase a.rotbase, tbudget := a.tbudget
             prectl := maskPrectl a.prectl }

/-- The key-table entries of an assigned context (R229, R230). -/
def State.keysEntered (s : State) (a : Assignment) (key : Nat) : State :=
  a.keyIds.foldl (fun s e => s.modCtrl e.1 fun y =>
    { y with keys := y.keys.setIfInBounds e.2 { valid := true, ctx := BitVec.ofNat 4 a.ctx, key := tierKeyOf key e.2 } }) s

/-- The window entries of an assigned context (R229, R235). -/
def State.windowsWritten (s : State) (a : Assignment) : State := a.windows.foldl (fun s w => s.writeWindow w.1 w.2.1 w.2.2) s

/-- An assigned context is open for booking, once its window writes are complete (R236). -/
def State.opened (s : State) (a : Assignment) : State :=
  s.modCtx a.ctx fun c => { c with live := true, opening := (a.windows.map (·.1)).filter s.windowWrites.contains }

/-- The state after an assignment (R229). -/
def State.assigned (s : State) (a : Assignment) : State :=
  ((((s.tilesHanded a).registersWritten a (s.assignKey a)).keysEntered a (s.assignKey a)).windowsWritten a).opened a

theorem exec_contextAssign {s : State} {a : Assignment} (h : s.mayAssign a = true) : exec (.contextAssign a) s = .next (s.assigned a) := by
  rw [exec, execContextAssign, h]
  rfl

/-- An assignment gives every tile a virtual number (R66). -/
theorem State.vtileOf_isSome {s : State} {a : Assignment} (h : s.mayAssign a = true) {k : Nat} (hk : k ∈ assignTiles a) :
    s.vtileOf a k = some ((s.vtileOf a k).getD 0#10) := by
  have hlen : ((assignTiles a).filterMap (s.vtileOf a)).length = (assignTiles a).length := by
    simp only [State.mayAssign, State.vtilesOk, Bool.and_eq_true, beq_iff_eq] at h
    exact h.2.1.1
  obtain ⟨v, hv⟩ := Option.isSome_iff_exists.1 (List.filterMap_length_eq_length.1 hlen k hk)
  rw [hv, Option.getD_some]

section
variable (s : State) (a : Assignment)

theorem State.windowsWritten_only : OnlyWindows s (s.windowsWritten a) :=
  foldl_rel .refl .trans (fun s w => s.writeWindow_only w.1 w.2.1 w.2.2) _ s

theorem State.keysEntered_tiles (key : Nat) : (s.keysEntered a key).tiles = s.tiles := by
  unfold State.keysEntered
  exact foldl_proj State.tiles (fun u _ => u.modCtrl_tiles _ _) _ s

theorem State.keysEntered_ctx (key x : Nat) : (s.keysEntered a key).ctx x = s.ctx x := by
  have hctxs : (s.keysEntered a key).ctxs = s.ctxs := by
    unfold State.keysEntered
    exact foldl_proj State.ctxs (fun u _ => u.modCtrl_ctxs _ _) _ s
  rw [State.ctx, hctxs, ← State.ctx]

/-- A tile that has been handed to a context with a virtual number (R66, R229). -/
def Tile.HandedTo (t : Tile) (x : Nat) (v : BitVec 10) : Prop :=
  t.owner = some (BitVec.ofNat 4 x) ∧ t.keyOk = true ∧ t.fsctx = BitVec.ofNat 4 x ∧ t.vtile = v

theorem State.tilesHanded_tile {k : Nat} (hk : k ∈ assignTiles a) :
    ((s.tilesHanded a).tile k).HandedTo a.ctx ((s.vtileOf a k).getD 0#10) := by
  refine foldl_modTile_sets_at (P := fun t => t.HandedTo a.ctx ((s.vtileOf a k).getD 0#10)) (fun x hx hkey y => ?_) ?_ _
  · obtain ⟨j, -, rfl⟩ := List.mem_map.1 hx
    obtain rfl : j = k := hkey
    exact ⟨rfl, rfl, rfl, rfl⟩
  · rw [List.map_map]
    exact List.mem_map.2 ⟨k, hk, rfl⟩

theorem State.assigned_tile {k : Nat} (hk : k ∈ assignTiles a) :
    ((s.assigned a).tile k).HandedTo a.ctx ((s.vtileOf a k).getD 0#10) := by
  have htiles : (s.assigned a).tiles = (s.tilesHanded a).tiles :=
    (State.windowsWritten_only ..).tiles.trans (State.keysEntered_tiles ..)
  rw [State.tile_congr htiles]
  exact s.tilesHanded_tile a hk

/-- The registers of an assigned context. -/
theorem State.assigned_ctx (hctx : a.ctx < 16) :
    ((s.assigned a).ctx a.ctx).live = true ∧ ((s.assigned a).ctx a.ctx).xlroot = maskXlroot a.xlroot ∧
      ((s.assigned a).ctx a.ctx).rotbase = maskRotbase a.rotbase ∧ ((s.assigned a).ctx a.ctx).tbudget = a.tbudget ∧
      ((s.assigned a).ctx a.ctx).prectl = maskPrectl a.prectl := by
  obtain ⟨l, h⟩ := (((s.tilesHanded a).registersWritten a (s.assignKey a)).keysEntered a (s.assignKey a)).windowsWritten_only a |>.ctx a.ctx
  rw [State.assigned, State.opened, State.ctx_modCtx hctx, h, State.keysEntered_ctx, State.registersWritten, State.ctx_modCtx hctx]
  exact ⟨rfl, rfl, rfl, rfl, rfl⟩

/-- A controller's key table holds a valid entry of a context at a key id (R230). -/
def Ctrl.Grants (y : Ctrl) (id x : Nat) : Prop := (y.keys[id]?).map (fun e => (e.valid, e.ctx)) = some (true, BitVec.ofNat 4 x)

theorem Ctrl.grants_entered (y : Ctrl) {id j : Nat} (x key : Nat) (hid : id < 16) (h : j = id ∨ y.Grants id x) :
    ({ y with keys := y.keys.setIfInBounds j { valid := true, ctx := BitVec.ofNat 4 x, key := key } } : Ctrl).Grants id x := by
  unfold Ctrl.Grants at h ⊢
  rw [Vector.getElem?_setIfInBounds]
  by_cases hj : j = id
  · simp [hj, hid]
  · rw [if_neg hj]
    exact h.resolve_left hj

/-- Every key id of an assignment gets its entry. -/
theorem State.keysEntered_grants (key : Nat) {e : Nat × Nat} (he : e ∈ a.keyIds) (hc : e.1 < 24) (hid : e.2 < 16) :
    ((s.keysEntered a key).ctrl e.1).Grants e.2 a.ctx := by
  have enters (s : State) (j : Nat × Nat) (h : j = e ∨ (s.ctrl e.1).Grants e.2 a.ctx) : ((s.modCtrl j.1 fun y =>
      { y with keys := y.keys.setIfInBounds j.2 { valid := true, ctx := BitVec.ofNat 4 a.ctx, key := tierKeyOf key j.2 } }).ctrl e.1).Grants
        e.2 a.ctx := by
    by_cases hj : e.1 = j.1
    · rw [hj, State.ctrl_modCtrl (hj ▸ hc), ← hj]
      exact Ctrl.grants_entered _ _ _ hid (h.imp_left (congrArg Prod.snd))
    · rw [State.ctrl_modCtrl_ne s hj]
      exact h.resolve_left fun heq => hj (by rw [heq])
  obtain ⟨pre, post, hl⟩ := List.append_of_mem he
  rw [State.keysEntered, hl, List.foldl_append, List.foldl_cons]
  exact List.foldlRecOn (motive := fun u : State => (u.ctrl e.1).Grants e.2 a.ctx) post _ (enters _ e (.inl rfl))
    fun u hu j _ => enters u j (.inr hu)

theorem State.assigned_grants {e : Nat × Nat} (he : e ∈ a.keyIds) (hc : e.1 < 24) (hid : e.2 < 16) :
    ((s.assigned a).ctrl e.1).Grants e.2 a.ctx := by
  have hctrls : (s.assigned a).ctrls = (((s.tilesHanded a).registersWritten a (s.assignKey a)).keysEntered a (s.assignKey a)).ctrls :=
    (State.windowsWritten_only ..).ctrls
  rw [State.ctrl, hctrls, ← State.ctrl]
  exact State.keysEntered_grants _ a _ he hc hid

theorem State.assigned_window {w : Nat × Word × Word} (hw : a.windows = [w]) (hn : w.1 < 64) :
    (s.assigned a).wintab[w.1]? = some (setBits w.2.1 62 1 0, w.2.2) := by
  rw [State.assigned, State.opened, State.modCtx_wintab, State.windowsWritten, hw]
  exact State.writeWindow_entry _ _ _ hn

end

/-! ## Debug sessions (R218, R239–R241) -/

/-- A continuation that names a task is READY when it is resumed, whatever becomes of the task. -/
theorem State.resumeCont_ready {s : State} {h : Word} (hname : (s.cont (hDie h) (hIndex h)).word 1 ≠ 0#64) :
    ((s.resumeCont h).cont (hDie h) (hIndex h)).state = 2 := by
  have hready : ((s.contReady h).cont (hDie h) (hIndex h)).state = 2 := by
    rw [State.contReady, State.cont_setCont _ _ _ (hDie_lt h), ContRec.state_setState _ (by decide)]
  unfold State.resumeCont
  dsimp only
  rw [if_neg hname]
  split
  · rw [State.armWith_cont, State.putTaskAt, State.cont_setTask]
    exact hready
  · exact hready

theorem exec_debugCommand_closed {s : State} {x : Nat} (c : DebugCmd) (h : (s.ctx x).session = false) :
    exec (.debugCommand x c) s = .next (s.send (.noSession x)) := by
  rw [exec, execDebugCommand, h]
  rfl

theorem exec_debugCommand_open {s u : State} {x : Nat} {c : DebugCmd} {v : Word} (h : (s.ctx x).session = true)
    (hc : s.debug x c = some (v, u)) : exec (.debugCommand x c) s = .next (u.send (.debugData x v)) := by
  rw [exec, execDebugCommand, h, hc]
  rfl

/-- A trapped continuation of the session's context is resumed as it stands where no save is given. -/
theorem exec_debugResume {s : State} {x : Nat} {h : Word} (hsession : (s.ctx x).session = true) (hcont : s.contOf x h = true)
    (hstate : (s.cont (hDie h) (hIndex h)).state = 3) : exec (.debugResume x h 0#64) s = .next (s.resumeCont h) := by
  simp [exec, execDebugResume, hsession, hcont, hstate]

/-! ## Attestation (R243) -/

theorem exec_attestationRequest {s : State} (x : Nat) (nonce : BitVec 256) (h : s.reeve.q < lmsKeys) :
    exec (.attestationRequest x nonce) s = .next ({ s with reeve := { s.reeve with q := s.reeve.q + 1 } }.send
      (.report (s.reportHead x nonce ++ Config.lmsSignature s.reeve.q (numOfBytes (s.reportHead x nonce))))) := by
  rw [exec, execAttestationRequest, if_neg h.not_ge]

theorem exec_attestationRequest_spent {s : State} (x : Nat) (nonce : BitVec 256) (h : lmsKeys ≤ s.reeve.q) :
    exec (.attestationRequest x nonce) s = .next (s.send (.keysSpent x)) := by
  rw [exec, execAttestationRequest, if_pos h]

/-! ## Register writes (R229, R254) -/

/-- A beam set that is assigned anew. -/
theorem exec_beamSet {s : State} {d : Nat} (n : Nat) (x : BitVec 4) (hd : d < 4) : ∃ t, exec (.registerWrite (.beamSet d n x)) s = .next t ∧
    mget (t.die d).beams n = some { ctx := x.toNat, slots := Vector.replicate 64 0#64 } := by
  refine ⟨_, rfl, ?_⟩
  rw [State.die_modDie hd]
  exact mget_mput_same ..

theorem exec_hdm_open {s : State} (n d : Nat) (h : s.mstate = .configOpen) :
    exec (.registerWrite (.hdm n d)) s = .next { s with cfg := { s.cfg with hdm := (n, min d (64 * 2 ^ 30)) } } := if_pos h

theorem exec_hdm_locked {s : State} (n d : Nat) (h : s.mstate ≠ .configOpen) :
    exec (.registerWrite (.hdm n d)) s = .next (s.send (.logCfg 7#64)) := if_neg h

/-! ## TDISP (R237) -/

/-- A context of which nothing is under way is to be torn down when its interface is stopped. -/
theorem exec_stopInterface {s : State} {x : Nat} (hx : x < 16) (hlive : (s.ctx x).live = true) (hpre : (s.ctx x).pre = .none) :
    ∃ t, exec (.stopInterface x) s = .next t ∧ (t.ctx x).tdisp = .unlocked ∧ (t.ctx x).pre = .asked true := by
  simp [exec, execStopInterface, State.askTeardown, hx, hlive, hpre]

end Sys2Proof.Machine

namespace Sys2Proof.Proofs
open Sys2Proof.Machine

/-- Settles O48: attestation, debug sessions, assignments, register writes and TDISP requests, one by one. -/
theorem reeveServices : Obligations.ReeveServices := by
  intro s x nonce v w0 w1 n d hx hd
  have written (f : Ctx → Ctx) : (s.modCtx x f).ctx x = f (s.ctx x) := State.ctx_modCtx hx f
  refine ⟨fun hq => ⟨_, exec_attestationRequest x nonce hq, rfl, _, rfl⟩, fun hq => ⟨_, exec_attestationRequest_spent x nonce hq, rfl, rfl⟩,
    fun hlive => ⟨_, if_pos hlive, by rw [written]⟩,
    fun c => ⟨fun hs => ⟨_, exec_debugCommand_closed c hs, rfl⟩, fun hs a u ha => ⟨_, exec_debugCommand_open hs ha, rfl⟩⟩,
    fun h hs hcont hstate hname => ⟨_, exec_debugResume hs hcont hstate, State.resumeCont_ready hname⟩, fun a ha => ?_,
    fun hn => ⟨_, rfl, s.writeWindow_entry w0 w1 hn⟩, ⟨_, rfl, by rw [written]⟩, ⟨_, rfl, by rw [written]⟩, ?_,
    fun hopen => ⟨_, exec_hdm_open n d hopen, ?_⟩, fun hlocked => ⟨_, exec_hdm_locked n d hlocked, rfl, rfl⟩, ⟨_, rfl, rfl, rfl⟩,
    fun hfree => ⟨_, if_pos hfree, by rw [written]⟩, ⟨_, rfl, rfl⟩, fun hlock => ⟨_, if_pos hlock, by rw [written]⟩,
    exec_stopInterface hx⟩
  · have hctx : a.ctx < 16 := by
      simp only [State.mayAssign, Bool.and_eq_true, decide_eq_true_eq] at ha
      exact ha.1.1.1
    obtain ⟨hlive, hxlroot, hrotbase, hbudget, hprectl⟩ := s.assigned_ctx a hctx
    refine ⟨_, exec_contextAssign ha, hlive, hxlroot, hrotbase, hbudget, hprectl, fun e he hc hid => s.assigned_grants a he hc hid,
      fun w hw hn => s.assigned_window a hw hn, fun k hk => ?_⟩
    obtain ⟨howner, hkey, hfsctx, hvtile⟩ := s.assigned_tile a hk
    exact ⟨howner, hkey, hfsctx, by rw [hvtile, ← State.vtileOf_isSome ha hk]⟩
  · obtain ⟨t, hexec, hbeams⟩ := exec_beamSet (s := s) n (BitVec.ofNat 4 x) hd
    rw [BitVec.toNat_ofNat, Nat.mod_eq_of_lt hx] at hbeams
    exact ⟨t, hexec, hbeams⟩
  · rw [Nat.min_eq_left (by omega)]

end Sys2Proof.Proofs
end

section
/-!
Samples, bands and the state machine of the module: what each event that no command makes does to the module state (R242, R244–R248, R252,
R253, R255).
-/
namespace Sys2Proof.Machine

/-! ## Dies, one by one -/

/-- What every die has in common with the other state's, the dies have as a whole. -/
theorem SameOfDies.map {α : Type} {g : Die → α} {s t : State} (h : SameOfDies g s t) : t.dies.map g = s.dies.map g := by
  apply Vector.ext
  intro i hi
  simpa [State.die, hi] using h.die i

/-- Dies that are all changed in the same way. -/
theorem die_of_map {s t : State} {f : Die → Die} (h : t.dies = s.dies.map f) {d : Nat} (hd : d < 4) : t.die d = f (s.die d) := by
  simp [State.die, h, hd]

/-- What a change leaves of each die stays the same when all are changed. -/
theorem SameOfDies.of_map {α : Type} {g : Die → α} {s t : State} {f : Die → Die} (h : t.dies = s.dies.map f)
    (hf : ∀ y, g (f y) = g y) : SameOfDies g s t := by
  refine ⟨fun d => ?_⟩
  by_cases hd : d < 4
  · rw [die_of_map h hd, hf]
  · simp [State.die, hd]

theorem State.dies_all_iff (s : State) (p : Die → Bool) : s.dies.toList.all p = true ↔ ∀ e, e < 4 → p (s.die e) = true := by
  rw [Vector.all_toList, Vector.all_eq_true]
  refine forall_congr' fun e => forall_congr' fun he => ?_
  simp [State.die, he]

theorem State.allDies_iff (s : State) (f : Nat → Nat → Nat → Bool) : s.allDies f = true ↔ ∀ e, e < 4 →
    let w := (s.die e).tempsense
    w.getLsbD 63 = true ∧ f (wbits w 0 16) (wbits w 16 16) (wbits w 32 16) = true := by
  simp only [State.allDies, State.dies_all_iff, Bool.and_eq_true]

theorem moduleBand_congr {s t : State} (h : SameOfDies Die.band s t) : t.moduleBand = s.moduleBand := by
  have hmap : t.dies.toList.map (·.band.num) = s.dies.toList.map (·.band.num) := by
    simpa [Vector.toList_map, Function.comp_def] using congrArg (fun v : Vector Band 4 => v.toList.map Band.num) h.map
  rw [State.moduleBand, hmap, State.moduleBand]

/-! ## What bookings, stops and futures leave alone -/

/-- A die without its tasks and cells: its readings, its band and its timing set among the rest. -/
def Die.climate (y : Die) : Die := { y with tasks := [], cells := [] }

theorem SameOfDies.of_climate {α : Type} {g : Die → α} (hg : ∀ y : Die, g y.climate = g y) {s t : State}
    (h : SameOfDies Die.climate s t) : SameOfDies g s t := ⟨fun d => by rw [← hg, h.die, hg]⟩

theorem SameOfDies.band {s t : State} (h : SameOfDies Die.climate s t) : SameOfDies Die.band s t := h.of_climate fun _ => rfl

theorem SameOfDies.tempsense {s t : State} (h : SameOfDies Die.climate s t) : SameOfDies Die.tempsense s t := h.of_climate fun _ => rfl

/-- `s` with the work of `t`: its tiles, runs, bookings, waiter walks, turns and dies, and BAND. -/
def State.withWork (s t : State) : State :=
  { s with seq := t.seq, todo := t.todo, tiles := t.tiles, dies := t.dies, runs := t.runs, bookings := t.bookings, walks := t.walks
           bandReg := t.bandReg }

/-- Nothing but work in progress and BAND differs, and every die has in `g` what it had. -/
structure Worked {α : Type} (g : Die → α) (s t : State) : Prop where
  only : t = s.withWork t
  dies : SameOfDies g s t

namespace Worked
variable {α : Type} {g : Die → α} {s t u : State}

theorem refl (s : State) : Worked g s s := ⟨rfl, .refl s⟩

theorem trans (h : Worked g s t) (k : Worked g t u) : Worked g s u :=
  ⟨Eq.trans k.only (congrArg (·.withWork u) h.only), h.dies.trans k.dies⟩

theorem tempsense (h : Worked Die.climate s t) : Worked Die.tempsense s t := ⟨h.only, h.dies.tempsense⟩

theorem mstate (h : Worked g s t) : t.mstate = s.mstate := (congrArg State.mstate h.only).trans rfl
theorem since (h : Worked g s t) : t.since = s.since := (congrArg State.since h.only).trans rfl
theorem time (h : Worked g s t) : t.time = s.time := (congrArg State.time h.only).trans rfl
theorem cause (h : Worked g s t) : t.cause = s.cause := (congrArg State.cause h.only).trans rfl

theorem moduleBand (h : Worked Die.climate s t) : t.moduleBand = s.moduleBand := moduleBand_congr h.dies.band

end Worked

theorem State.modDie_worked {α : Type} {g : Die → α} (s : State) (d : Nat) {f : Die → Die} (hf : ∀ y, g (f y) = g y) :
    Worked g s (s.modDie d f) := ⟨rfl, s.modDie_sameOfDies d hf⟩

theorem State.setStop_worked (s : State) (id : Nat) (w : StopWhy) : Worked Die.climate s (s.setStop id w) := by
  refine ⟨?_, .of_dies (s.modRun_dies ..)⟩
  unfold State.setStop State.modRun
  split <;> rfl

theorem State.bandStops_worked (s : State) (d : Nat) : Worked Die.climate s (s.bandStops d) :=
  foldl_rel .refl .trans (fun s p => s.setStop_worked p.1 .band) _ s

theorem State.modTask_worked (s : State) (d i : Nat) (f : TaskRec → TaskRec) : Worked Die.climate s (s.modTask d i f) := by
  unfold State.modTask State.setTask
  exact s.modDie_worked d fun _ => rfl

theorem State.unbook_worked (s : State) (f : TaskRec → Bool) : Worked Die.climate s (s.unbook f) :=
  (foldl_rel (R := Worked Die.climate) .refl .trans (fun s b => s.modTask_worked b.die b.idx (·.setState 3)) (s.unstarted f) s).trans
    ⟨rfl, .of_dies rfl⟩

theorem State.putCellAt_worked (s : State) (h : Word) (c : Cell) : Worked Die.climate s (s.putCellAt h c) := by
  unfold State.putCellAt State.setCell
  exact s.modDie_worked (hDie h) fun _ => rfl

theorem State.writeFuture_worked (s : State) (h v : Word) : Worked Die.climate s (s.writeFuture h v) :=
  (s.putCellAt_worked h ((s.cellAt h).full v)).trans ⟨rfl, .of_dies rfl⟩

theorem State.moduleFutw_worked (s : State) (x : Nat) (h v : Word) : Worked Die.climate s (s.moduleFutw x h v) := by
  unfold State.moduleFutw
  split
  · exact s.writeFuture_worked h v
  · exact .refl s

/-- The futures of all contexts told of a change of the band (R250). -/
def State.bandfuts (s : State) (prev : Nat) : State :=
  (List.range 16).foldl (fun s x => if (s.ctx x).bandfut = 0#64 then s else s.moduleFutw x (s.ctx x).bandfut (s.bandWord prev)) s

theorem State.bandfuts_worked (s : State) (prev : Nat) : Worked Die.climate s (s.bandfuts prev) := by
  refine foldl_rel (R := Worked Die.climate) .refl .trans (fun s x => ?_) (List.range 16) s
  split
  · exact .refl s
  · exact s.moduleFutw_worked ..

theorem State.postBand_worked (s : State) (prev : Nat) : Worked Die.climate s (s.postBand prev) := by
  refine Worked.trans ?_ (State.bandfuts_worked _ prev)
  exact ⟨rfl, .of_dies rfl⟩

theorem State.enterDrain_worked (s : State) (cause : BitVec 8) : Worked Die.climate (s.moveTo .drain cause) (s.enterDrain cause) :=
  State.unbook_worked ..

/-! ## The module state and the bands (R246, R252) -/

/-- The state that a module band goes with in operation (R252). -/
def bandState (m : Nat) : MState := if m = 0 then .run else if m = 1 then .retreat else .drain

/-- The module state is the one that goes with the module band. -/
def State.followsBand (s : State) : Prop := s.mstate = bandState s.moduleBand

theorem State.followsBand.states {s : State} (h : s.followsBand) :
    (s.moduleBand = 0 → s.mstate = .run) ∧ (s.moduleBand = 1 → s.mstate = .retreat) ∧ (2 ≤ s.moduleBand → s.mstate = .drain) := by
  rw [State.followsBand] at h
  refine ⟨fun hb => by rw [h, hb]; rfl, fun hb => by rw [h, hb]; rfl, fun hb => ?_⟩
  rw [h, bandState, if_neg (by omega), if_neg (by omega)]

theorem State.followsBand.operating {s : State} (h : s.followsBand) : s.mstate = .run ∨ s.mstate = .retreat ∨ s.mstate = .drain := by
  rw [State.followsBand, bandState] at h
  split at h
  · exact .inl h
  · split at h
    · exact .inr (.inl h)
    · exact .inr (.inr h)

/-- A state reached by work and a transition to the state of the band. -/
theorem Worked.followsBand {s t : State} {m : MState} {cause : BitVec 8} (h : Worked Die.climate (s.moveTo m cause) t)
    (hm : m = bandState s.moduleBand) : t.followsBand := by
  have hband : t.moduleBand = s.moduleBand := h.moduleBand
  rw [State.followsBand, h.mstate, hband]
  exact hm

/-- The stops of a die that becomes WARM (R220). -/
theorem State.warmStops_worked (s : State) (d b : Nat) (warmer : Bool) :
    Worked Die.climate s (if warmer = true ∧ b = 2 then s.bandStops d else s) := by
  split
  · exact s.bandStops_worked d
  · exact .refl s

section
variable {s : State} {d b : Nat} {warmer : Bool}

/-- Unless a die becomes HOT, the dies are as they were but for their tasks. -/
theorem State.followBand_dies (hb : ¬ (warmer = true ∧ b = 3)) : SameOfDies Die.climate s (s.followBand d b warmer) := by
  have hv := s.warmStops_worked d b warmer
  rw [State.followBand, if_neg hb]
  generalize (if warmer = true ∧ b = 2 then s.bandStops d else s) = v at hv ⊢
  have moved {m : MState} : SameOfDies Die.climate s (v.moveTo m 2#8) := ⟨hv.dies.die⟩
  have drained : SameOfDies Die.climate s (v.enterDrain 2#8) := hv.dies.trans ⟨(v.enterDrain_worked 2#8).dies.die⟩
  dsimp only
  split
  · split
    · exact hv.dies
    · split
      · exact moved
      · exact drained
  · split
    · exact moved
    · split
      · exact hv.dies
      · exact drained
  · exact ⟨hv.dies.die⟩
  · exact hv.dies

/-- In operation the module state then follows the bands. -/
theorem State.followBand_follows (hm : s.mstate = .run ∨ s.mstate = .retreat) (hb : ¬ (warmer = true ∧ b = 3)) :
    (s.followBand d b warmer).followsBand := by
  have hv := s.warmStops_worked d b warmer
  rw [State.followBand, if_neg hb]
  generalize (if warmer = true ∧ b = 2 then s.bandStops d else s) = v at hv ⊢
  have stays (h : s.mstate = bandState s.moduleBand) : v.followsBand := by
    rw [State.followsBand, hv.mstate, hv.moduleBand, h]
  have moves {m : MState} (h : m = bandState s.moduleBand) : (v.moveTo m 2#8).followsBand :=
    Worked.followsBand (.refl _) (by rw [hv.moduleBand, h])
  have drains (h0 : s.moduleBand ≠ 0) (h1 : s.moduleBand ≠ 1) : (v.enterDrain 2#8).followsBand :=
    (v.enterDrain_worked 2#8).followsBand (by rw [hv.moduleBand, bandState, if_neg h0, if_neg h1])
  obtain hs | hs := hm
  · simp only [hv.mstate, hs]
    split
    next h0 => exact stays (by rw [hs, h0]; rfl)
    next h0 =>
      split
      next h1 => exact moves (by rw [h1]; rfl)
      next h1 => exact drains h0 h1
  · simp only [hv.mstate, hs]
    split
    next h0 => exact moves (by rw [h0]; rfl)
    next h0 =>
      split
      next h1 => exact stays (by rw [hs, h1]; rfl)
      next h1 => exact drains h0 h1
end

/-- The states in which the readings decide, and no band does (R252). -/
def MState.byReadings (m : MState) : Prop := m = .chill ∨ m = .soak ∨ m = .warm

/-- There a change of band moves nothing, unless a die becomes HOT before WARM. -/
theorem State.followBand_worked {s : State} (hm : s.mstate.byReadings) {b : Nat} (hb : b < 3 ∨ s.mstate = .warm) (d : Nat) (warmer : Bool) :
    Worked Die.climate s (s.followBand d b warmer) := by
  unfold State.followBand
  dsimp only
  split
  next hhot =>
    rw [if_pos (.inr (hb.resolve_left (by omega)))]
    exact .refl s
  next =>
    have hv := s.warmStops_worked d b warmer
    generalize (if warmer = true ∧ b = 2 then s.bandStops d else s) = v at hv ⊢
    rw [hv.mstate]
    obtain h | h | h := hm <;> simpa only [h] using hv

/-! ## A change of a die's band -/

/-- The state in which a die has its new band, and its switch of timing sets is due or called off (R245, R248). -/
def State.banded (s : State) (d b : Nat) : State :=
  s.modDie d fun y =>
    { y with band := Band.ofNum b, coolSince := none
             switchBy := if b = 0 then none else if y.warmSet then none else some (y.switchBy.getD (s.time + 2 * millisecond)) }

/-- The state in which BAND and the futures tell of it as well. -/
def State.bandTold (s : State) (d b : Nat) : State := (s.banded d b).postBand s.moduleBand

theorem State.changeBand_eq (s : State) (d b : Nat) :
    s.changeBand d b = (s.bandTold d b).followBand d b (decide ((s.die d).band.num < b)) := rfl

theorem State.banded_worked (s : State) (d b : Nat) : Worked Die.tempsense s (s.banded d b) := s.modDie_worked d fun _ => rfl

theorem State.bandTold_worked (s : State) (d b : Nat) : Worked Die.tempsense s (s.bandTold d b) :=
  (s.banded_worked d b).trans ((s.banded d b).postBand_worked s.moduleBand).tempsense

theorem State.bandTold_band (s : State) {d : Nat} (hd : d < 4) (b : Nat) : ((s.bandTold d b).die d).band = Band.ofNum b := by
  have hpost : SameOfDies Die.band (s.banded d b) (s.bandTold d b) := ((s.banded d b).postBand_worked s.moduleBand).dies.band
  rw [hpost.die, State.banded, State.die_modDie hd]

section
variable {s : State} {d b : Nat} (hb : ¬ ((s.die d).band.num < b ∧ b = 3))
include hb

/-- Unless it becomes HOT, the die has its new band, and no die's reading is another. -/
theorem State.changeBand_dies (hd : d < 4) :
    ((s.changeBand d b).die d).band = Band.ofNum b ∧ SameOfDies Die.tempsense s (s.changeBand d b) := by
  have hdies : SameOfDies Die.climate (s.bandTold d b) (s.changeBand d b) := State.followBand_dies (by simpa using hb)
  exact ⟨(hdies.band.die d).trans (s.bandTold_band hd b), (s.bandTold_worked d b).dies.trans hdies.tempsense⟩

theorem State.changeBand_follows (hm : s.mstate = .run ∨ s.mstate = .retreat) : (s.changeBand d b).followsBand := by
  rw [← (s.bandTold_worked d b).mstate] at hm
  exact State.followBand_follows hm (by simpa using hb)
end

theorem State.changeBand_worked {s : State} (hm : s.mstate.byReadings) {b : Nat} (hb : b < 3 ∨ s.mstate = .warm) (d : Nat) :
    Worked Die.tempsense s (s.changeBand d b) := by
  have htold := s.bandTold_worked d b
  refine htold.trans (State.followBand_worked ?_ ?_ d _).tempsense
  · rwa [htold.mstate]
  · rwa [htold.mstate]

/-! ## WARM and OFF (R252, R253) -/

/-- Nothing but mailboxes, interrupts and outputs differs. -/
def OnlyMail (s t : State) : Prop := t = { s with cores := t.cores, msix := t.msix, sent := t.sent }

namespace OnlyMail
variable {s t u : State}

theorem refl (s : State) : OnlyMail s s := rfl

theorem trans (h : OnlyMail s t) (k : OnlyMail t u) : OnlyMail s u :=
  Eq.trans k (congrArg (fun t : State => { t with cores := u.cores, msix := u.msix, sent := u.sent }) h)

theorem dies (h : OnlyMail s t) : t.dies = s.dies := (congrArg State.dies h).trans rfl
theorem runs (h : OnlyMail s t) : t.runs = s.runs := (congrArg State.runs h).trans rfl
theorem mstate (h : OnlyMail s t) : t.mstate = s.mstate := (congrArg State.mstate h).trans rfl
theorem cause (h : OnlyMail s t) : t.cause = s.cause := (congrArg State.cause h).trans rfl
theorem clockOn (h : OnlyMail s t) : t.clockOn = s.clockOn := (congrArg State.clockOn h).trans rfl
theorem drainCmd (h : OnlyMail s t) : t.drainCmd = s.drainCmd := (congrArg State.drainCmd h).trans rfl

end OnlyMail

theorem State.mailDone_mail (s : State) (k slot n : Nat) : OnlyMail s (s.mailDone k slot n) := by
  unfold State.mailDone
  dsimp only
  generalize hu : (State.send _ _) = u
  obtain ⟨m, l, h⟩ := u.sendMsix_eq (k / 8) (2032 + k)
  rw [h, ← hu]
  rfl

/-- The drain commands that wait complete, and none holds the module any more. -/
theorem State.drainOver_mail (s : State) : OnlyMail { s with drainCmd := false } s.drainOver :=
  foldl_rel .refl .trans (fun s k => foldl_rel .refl .trans (fun s i => s.mailDone_mail k i 0) _ s) _ _

theorem State.losePower_dies (s : State) : SameOfDies Die.tempsense s s.losePower := by
  have hsettled : SameOfDies Die.tempsense s ((s.settleWrites .tier).settleWrites .host) :=
    (s.settleWrites_only .tier).sameOfDies.trans ((s.settleWrites .tier).settleWrites_only .host).sameOfDies
  exact hsettled.trans (.of_map rfl fun _ => rfl)

theorem State.enterWarm_dies (s : State) (cause : BitVec 8) : (s.enterWarm cause).dies = s.dies := by
  unfold State.enterWarm State.moveTo
  dsimp only
  exact s.drainOver_mail.dies

theorem State.enterWarm_runs (s : State) (cause : BitVec 8) : (s.enterWarm cause).runs = s.runs := by
  unfold State.enterWarm State.moveTo
  dsimp only
  exact s.drainOver_mail.runs

/-- A module that was not in WARM yet loses its power and goes there when a die becomes HOT (R252, R253). -/
theorem State.changeBand_hot {s : State} (hoff : s.mstate ≠ .off) (hwarm : s.mstate ≠ .warm) {d : Nat} (hb : (s.die d).band.num < 3) :
    s.changeBand d 3 = (s.bandTold d 3).losePower.enterWarm 4#8 := by
  have htold := s.bandTold_worked d 3
  rw [State.changeBand_eq, State.followBand, if_pos ⟨decide_eq_true hb, rfl⟩, if_neg]
  rw [htold.mstate]
  exact not_or.2 ⟨hoff, hwarm⟩

theorem State.changeBand_hot_spec {s : State} (hoff : s.mstate ≠ .off) (hwarm : s.mstate ≠ .warm) {d : Nat} (hb : (s.die d).band.num < 3) :
    let t := s.changeBand d 3
    t.mstate = .warm ∧ t.cause = 4#8 ∧ t.clockOn = false ∧ t.runs = [] ∧ SameOfDies Die.tempsense s t := by
  dsimp only
  rw [State.changeBand_hot hoff hwarm hb]
  exact ⟨rfl, rfl, rfl, State.enterWarm_runs (s.bandTold d 3).losePower 4#8,
    ((s.bandTold_worked d 3).dies.trans (s.bandTold d 3).losePower_dies).trans (.of_dies (State.enterWarm_dies _ 4#8))⟩

/-! ## A sample (R244, R245) -/

/-- The state in which a sample's readings of a die and of the flow stand in their registers. -/
def State.sampleTaken (s : State) (d : Nat) : State :=
  { s.modDie d fun y => { y with tempsense := tempWord (s.die d).sensors } with
    coolflow := w64 (min s.flow 65535), flowLow := if s.flow < 700 then some (s.flowLow.getD s.time) else none }

/-- The band that a die's readings are in. -/
def State.bandRead (s : State) (d : Nat) : Nat := s.bandOf (readMax (s.die d).sensors)

/-- The state in which a die's readings of a maximum have begun or ended its hold below the limit. -/
def State.bandHeld (s : State) (d k16 : Nat) : State :=
  let cur := (s.die d).band.num
  let below := decide (0 < cur) && decide (k16 + s.hysteresis < s.bandLimit (cur - 1))
  s.modDie d fun y => { y with coolSince := if below then some (y.coolSince.getD s.time) else none }

/-- The state in which the die has moved to a warmer band by its sample, or begun or ended its hold. -/
def State.sampleBand (s : State) (d : Nat) : State :=
  let u := s.sampleTaken d
  if (u.die d).band.num < s.bandRead d then u.changeBand d (s.bandRead d) else u.bandHeld d (readMax (s.die d).sensors)

theorem exec_sensorSample {s : State} {d : Nat} (hd : d < 4) (hl : (s.die d).sensors ≠ []) :
    exec (.sensorSample d) s = .next (s.sampleBand d).sampleMoves := by
  rw [exec, execSensorSample, if_neg (not_or.2 ⟨not_le.2 hd, hl⟩)]
  rfl

section
variable {s : State} {d : Nat} (hd : d < 4)
include hd

theorem State.sampleTaken_die : (s.sampleTaken d).die d = { s.die d with tempsense := tempWord (s.die d).sensors } :=
  State.die_modDie (s := s) hd fun y => { y with tempsense := tempWord (s.die d).sensors }

theorem State.sampleTaken_tempsense (e : Nat) :
    ((s.sampleTaken d).die e).tempsense = if e = d then tempWord (s.die d).sensors else (s.die e).tempsense := by
  split
  next he => rw [he, State.sampleTaken_die hd]
  next he => simp [State.sampleTaken, State.die, State.modDie, Vector.getElem?_setIfInBounds_ne (Ne.symm he)]

theorem State.sampleBand_warmer (hb : (s.die d).band.num < s.bandRead d) :
    s.sampleBand d = (s.sampleTaken d).changeBand d (s.bandRead d) :=
  if_pos (by rwa [State.sampleTaken_die hd])

/-- Without a warmer band the sample only begins or ends the hold. -/
theorem State.sampleBand_hold (hb : s.bandRead d ≤ (s.die d).band.num) :
    s.sampleBand d = (s.sampleTaken d).bandHeld d (readMax (s.die d).sensors) :=
  if_neg (by rw [State.sampleTaken_die hd]; exact not_lt.2 hb)

/-- While the readings decide, a sample's bands move nothing, unless a die becomes HOT before WARM. -/
theorem State.sampleBand_worked (hm : s.mstate.byReadings) (hb : s.bandRead d < 3 ∨ s.mstate = .warm) :
    Worked Die.tempsense (s.sampleTaken d) (s.sampleBand d) := by
  by_cases hwarmer : (s.die d).band.num < s.bandRead d
  · rw [State.sampleBand_warmer hd hwarmer]
    exact State.changeBand_worked (s := s.sampleTaken d) hm hb d
  · rw [State.sampleBand_hold hd (not_lt.1 hwarmer)]
    unfold State.bandHeld
    exact (s.sampleTaken d).modDie_worked d fun _ => rfl

/-- The condition of R252 on the samples of all dies, with die `d`'s new one among them. -/
theorem State.allDies_sampled {t : State} (h : SameOfDies Die.tempsense (s.sampleTaken d) t) (f : Nat → Nat → Nat → Bool) :
    t.allDies f = true ↔ ∀ e, e < 4 →
      let w := if e = d then tempWord (s.die d).sensors else (s.die e).tempsense
      w.getLsbD 63 = true ∧ f (wbits w 0 16) (wbits w 16 16) (wbits w 32 16) = true := by
  simp only [State.allDies_iff, h.die, State.sampleTaken_tempsense hd]

end

/-! ### The transitions that readings make -/

theorem State.sampleMoves_operating {s : State} (h : s.mstate = .run ∨ s.mstate = .retreat ∨ s.mstate = .drain) : s.sampleMoves = s := by
  obtain h | h | h := h <;> simp only [State.sampleMoves, h]

theorem State.sampleMoves_chill {s : State} (h : s.mstate = .chill) (hcold : (s.allDies fun hi _ _ => decide (hi ≤ 1600)) = true) :
    s.sampleMoves = s.moveTo .soak 1#8 := by
  simp only [State.sampleMoves, h, hcold, if_true]

theorem State.sampleMoves_soak {s : State} (h : s.mstate = .soak) : s.sampleMoves =
    { s with since := if s.allDies fun hi _ g => decide (hi ≤ 1440) && decide (g < 32) then some (s.since.getD s.time) else none } := by
  simp only [State.sampleMoves, h]

theorem State.sampleMoves_warm {s : State} (h : s.mstate = .warm) :
    s.sampleMoves = if s.allDies fun _ lo _ => decide (4480 ≤ lo) then s.powerOff else s := by
  simp only [State.sampleMoves, h]

/-! ## The hold below a limit (R245) -/

theorem Band.num_lt (b : Band) : b.num < 4 := by
  cases b <;> decide

theorem Band.num_ofNum {n : Nat} (h : n < 4) : (Band.ofNum n).num = n := by
  match n, h with
  | 0, _ | 1, _ | 2, _ | 3, _ => rfl

/-! ## Ports that come up (R233, R252) -/

/-- One port as the end of training or of the lock leaves it. -/
def State.portSet (s : State) (i : Nat) : State :=
  if !s.cfg.ports.getLsbD i then s.modLink i fun p => { p with up := false }
  else if (s.link i).up then s else s.bringUp i

/-- The first `n` ports. -/
def State.portsTo (s : State) (n : Nat) : State := (List.range n).foldl State.portSet s

theorem State.portsUp_eq (s : State) : s.portsUp = s.portsTo 16 := rfl

theorem State.portsTo_succ (s : State) (n : Nat) : s.portsTo (n + 1) = (s.portsTo n).portSet n := by
  simp [State.portsTo, List.range_succ]

theorem State.bringUp_packets (s : State) (i : Nat) : OnlyPackets s (s.bringUp i) := by
  unfold State.bringUp
  dsimp only
  split <;> rfl

theorem State.portSet_packets (s : State) (i : Nat) : OnlyPackets s (s.portSet i) := by
  unfold State.portSet
  split
  · exact s.modLink_packets ..
  · split
    · exact .refl s
    · exact s.bringUp_packets i

theorem State.portsTo_packets (s : State) (n : Nat) : OnlyPackets s (s.portsTo n) := foldl_rel .refl .trans State.portSet_packets _ s

theorem State.portsTo_cfg (s : State) (n : Nat) : (s.portsTo n).cfg = s.cfg := (congrArg State.cfg (s.portsTo_packets n)).trans rfl

theorem State.portsUp_moduleBand (s : State) : s.portsUp.moduleBand = s.moduleBand :=
  moduleBand_congr (s.portsTo_packets 16).sameOfDies

theorem State.portsUp_everRun (s : State) : s.portsUp.everRun = s.everRun := (congrArg State.everRun (s.portsTo_packets 16)).trans rfl

/-- A port that comes up uses one key of the reeve's attestation key, and only where one is left. -/
theorem State.bringUp_link {s : State} {i : Nat} (hi : i < 16) (hdown : (s.link i).up = false) : ((s.bringUp i).link i).up = s.canSign := by
  unfold State.bringUp
  dsimp only
  split
  next hsign => rw [hsign, State.link_send, State.link_send, State.link_modLink hi]
  next hsign => rw [hdown, Bool.eq_false_iff.2 hsign]

theorem State.bringUp_link_ne (s : State) {i p : Nat} (h : p ≠ i) : (s.bringUp i).link p = s.link p := by
  unfold State.bringUp
  dsimp only
  split
  · rw [State.link_send, State.link_send, State.link_modLink_ne _ h]
    rfl
  · rfl

theorem State.bringUp_q (s : State) (i : Nat) : s.reeve.q ≤ (s.bringUp i).reeve.q ∧ (s.bringUp i).reeve.q ≤ s.reeve.q + 1 := by
  unfold State.bringUp
  dsimp only
  split
  · exact ⟨Nat.le_succ _, le_rfl⟩
  · exact ⟨le_rfl, Nat.le_succ _⟩

theorem State.portSet_link (s : State) {i : Nat} (hi : i < 16) :
    ((s.portSet i).link i).up = (s.cfg.ports.getLsbD i && ((s.link i).up || s.canSign)) := by
  unfold State.portSet
  cases hport : s.cfg.ports.getLsbD i with
  | false => simp [State.link_modLink hi]
  | true =>
    cases hup : (s.link i).up with
    | true => simp [hup]
    | false => simp [State.bringUp_link hi hup]

theorem State.portSet_link_ne (s : State) {i p : Nat} (h : p ≠ i) : (s.portSet i).link p = s.link p := by
  unfold State.portSet
  split
  · exact s.link_modLink_ne h _
  · split
    · rfl
    · exact s.bringUp_link_ne h

theorem State.portSet_q (s : State) (i : Nat) : s.reeve.q ≤ (s.portSet i).reeve.q ∧ (s.portSet i).reeve.q ≤ s.reeve.q + 1 := by
  unfold State.portSet
  split
  · exact ⟨le_rfl, Nat.le_succ _⟩
  · split
    · exact ⟨le_rfl, Nat.le_succ _⟩
    · exact s.bringUp_q i

theorem State.portsTo_q (s : State) (n : Nat) : s.reeve.q ≤ (s.portsTo n).reeve.q ∧ (s.portsTo n).reeve.q ≤ s.reeve.q + n := by
  induction n with
  | zero => exact ⟨le_rfl, le_rfl⟩
  | succ n ih =>
    have hstep := (s.portsTo n).portSet_q n
    rw [State.portsTo_succ]
    omega

theorem State.portsTo_link_above (s : State) {n p : Nat} (h : n ≤ p) : (s.portsTo n).link p = s.link p := by
  induction n with
  | zero => rfl
  | succ n ih => rw [State.portsTo_succ, State.portSet_link_ne _ (by omega), ih (by omega)]

/-- An enabled port is up that was up before, or for which a key was left when its turn came; no other port is. -/
theorem State.portsTo_link (s : State) {n p : Nat} (hp : p < n) (hn : n ≤ 16) :
    ((s.portsTo n).link p).up = (s.cfg.ports.getLsbD p && ((s.link p).up || (s.portsTo p).canSign)) := by
  induction n with
  | zero => omega
  | succ n ih =>
    rw [State.portsTo_succ]
    obtain rfl | hlt := Nat.eq_or_lt_of_le (Nat.le_of_lt_succ hp)
    · rw [State.portSet_link _ (by omega), s.portsTo_cfg, s.portsTo_link_above le_rfl]
    · rw [State.portSet_link_ne _ hlt.ne, ih hlt (by omega)]

/-- With a key for every port, all enabled ports come up. -/
theorem State.portsUp_all {s : State} (hq : s.reeve.q + 16 ≤ lmsKeys) {p : Nat} (hp : p < 16) :
    (s.portsUp.link p).up = s.cfg.ports.getLsbD p := by
  have hsign : (s.portsTo p).canSign = true := decide_eq_true (by have := (s.portsTo_q p).2; omega)
  rw [State.portsUp_eq, s.portsTo_link hp le_rfl, hsign, Bool.or_true, Bool.and_true]

/-- With no key left, only the enabled ports that were up are. -/
theorem State.portsUp_spent {s : State} (hq : lmsKeys ≤ s.reeve.q) {p : Nat} (hp : p < 16) :
    (s.portsUp.link p).up = (s.cfg.ports.getLsbD p && (s.link p).up) := by
  have hsign : (s.portsTo p).canSign = false := decide_eq_false (by have := (s.portsTo_q p).1; omega)
  rw [State.portsUp_eq, s.portsTo_link hp le_rfl, hsign, Bool.or_false]

/-! ## The transitions that time and the reeve make (R242, R252) -/

/-- Above the limit the holds apply, and no sample lifts them (R255). -/
theorem exec_powerSample (s : State) :
    let u := { s with power := (s.powerNow :: s.power).take 100 }
    exec .powerSample s = .next (if u.powerOver then { u with holdBook := true } else u) := rfl

theorem exec_coolantLow {s : State} (h : s.coolantDue = true) : exec .coolantLow s = .next (s.enterDrain 5#8) := if_pos h

theorem exec_soakDone {s : State} (h : s.soakDue = true) : exec .soakDone s = .next (s.moveTo .train 1#8) := if_pos h

theorem exec_trainingDone {s : State} (h : s.mstate = .train) (ok : Bool) :
    exec (.trainingDone ok) s = .next (if ok then s.portsUp.moveTo .configOpen 1#8 else s.enterWarm 3#8) := by
  rw [exec, execTrainingDone, if_neg (not_not.2 h)]
  cases ok <;> rfl

/-- The lock's end sets the ports and begins operation; the first one begins the count of cycles (R153, log entry 109). -/
theorem exec_lockDistributed {s : State} (h : s.lockDue = true) :
    let u := s.portsUp.enterRun 0#8
    exec .lockDistributed s = .next (if s.everRun then u else { u with everRun := true, cycle := 0, todo := u.todo ++ [.plan 0] }) := by
  have hever : (s.portsUp.enterRun 0#8).everRun = s.everRun := s.portsUp_everRun
  dsimp only
  rw [exec, execLockDistributed, h, Bool.not_true, if_neg Bool.false_ne_true]
  dsimp only
  rw [hever]
  split <;> rfl

/-- The module as it parks, before the drain commands complete. -/
def State.parked (s : State) : State :=
  { s.moveTo .park s.cause with
    clockOn := false, dies := s.dies.map fun (y : Die) => { y with refresh := true }
    since := if { s with dies := s.dies.map fun (y : Die) => { y with refresh := true } }.diesCool then some s.time else none }

theorem exec_drainDone {s : State} (h : s.drainDue = true) : exec .drainDone s = .next s.parked.drainOver := by
  rw [exec, execDrainDone, h, Bool.not_true, if_neg Bool.false_ne_true]
  rfl

theorem exec_parkExit {s : State} (h : s.parkDue = true) : exec .parkExit s = .next (s.enterRun 1#8) := if_pos h

/-- Firmware that has verified, with no update waiting, is not verified again. -/
theorem exec_powerOn_verified {s : State} (hoff : s.mstate = .off) (hflow : 700 ≤ s.flow) (hok : s.reeve.bootOk = true)
    (hupdate : s.reeve.update = none) : exec .powerOn s = .next (s.moveTo .chill 0#8) := by
  have hskip : (s.reeve.bootOk && s.reeve.update.isNone) = true := by simp [hok, hupdate]
  rw [exec, execPowerOn, if_neg (not_or.2 ⟨not_not.2 hoff, not_lt.2 hflow⟩)]
  dsimp only
  rw [if_pos hskip, if_pos hok]

/-- Otherwise the boot ROM decides. -/
theorem exec_powerOn_boot {s : State} (hoff : s.mstate = .off) (hflow : 700 ≤ s.flow) (h : s.reeve.bootOk = false ∨ s.reeve.update ≠ none) :
    exec .powerOn s =
      .next (if s.reeve.boot.bootOk then { s with reeve := s.reeve.boot }.moveTo .chill 0#8 else { s with reeve := s.reeve.boot }) := by
  have hverify : (s.reeve.bootOk && s.reeve.update.isNone) = false := by
    obtain h | h := h
    · rw [h, Bool.false_and]
    · rw [Option.isNone_eq_false_iff.2 (Option.isSome_iff_ne_none.2 h), Bool.and_false]
  rw [exec, execPowerOn, if_neg (not_or.2 ⟨not_not.2 hoff, not_lt.2 hflow⟩), hverify]
  dsimp only
  rw [if_neg Bool.false_ne_true]
  split <;> rfl

end Sys2Proof.Machine

namespace Sys2Proof.Proofs
open Sys2Proof.Machine

/-- A sample, the hold of a cooler band and the switch of timing sets (R244–R246, R248, R252). -/
theorem samplesMove_holds : samplesMove := by
  intro s d hd l b word all follows
  refine ⟨fun hl => ?_, fun hcool => ?_, fun hswitch => ?_⟩
  · have hexec := exec_sensorSample hd hl
    have hall {t : State} (h : SameOfDies Die.tempsense (s.sampleTaken d) t) (f : Nat → Nat → Nat → Bool) :
        t.allDies f = true ↔ all f := State.allDies_sampled hd h f
    have htemp {t : State} (h : SameOfDies Die.tempsense (s.sampleTaken d) t) : (t.die d).tempsense = tempWord l := by
      rw [h.die, State.sampleTaken_tempsense hd, if_pos rfl]
    rw [hexec]
    refine ⟨fun hm hb => ⟨_, rfl, ?_⟩, fun hm hb h3 => ⟨_, rfl, ?_⟩, fun hb h3 hoff hcold => ⟨_, rfl, ?_⟩, fun hm h3 hcold => ⟨_, rfl, ?_⟩,
      fun hm h3 => ⟨_, rfl, ?_⟩, fun hm hwarm => ⟨_, rfl, ?_⟩⟩
    · have hstays : ((s.sampleTaken d).bandHeld d (readMax l)).sampleMoves = (s.sampleTaken d).bandHeld d (readMax l) :=
        State.sampleMoves_operating (hm.imp_right .inl)
      rw [State.sampleBand_hold hd hb, hstays, State.bandHeld, State.die_modDie hd, State.sampleTaken_die hd]
      exact ⟨rfl, rfl, rfl, rfl⟩
    · have hwarmer : ¬ (((s.sampleTaken d).die d).band.num < b ∧ b = 3) := by omega
      obtain ⟨hband, hdies⟩ := State.changeBand_dies hwarmer hd
      have hfollows := State.changeBand_follows hwarmer hm
      have hsample : s.sampleBand d = (s.sampleTaken d).changeBand d b := State.sampleBand_warmer hd hb
      rw [hsample, State.sampleMoves_operating hfollows.operating]
      exact ⟨htemp hdies, hband, hfollows.states⟩
    · have stays {t : State} (hwarm : t.mstate = .warm) (h : SameOfDies Die.tempsense (s.sampleTaken d) t) : t.sampleMoves = t := by
        rw [State.sampleMoves_warm hwarm, if_neg (mt (hall h _).1 hcold)]
      by_cases hm : s.mstate = .warm
      · have hworked := State.sampleBand_worked hd (.inr (.inr hm)) (.inr hm)
        have hwarm : (s.sampleBand d).mstate = .warm := hworked.mstate.trans hm
        rw [stays hwarm hworked.dies]
        exact ⟨hwarm, absurd hm⟩
      · have hcur : ((s.sampleTaken d).die d).band.num < 3 := by
          rw [State.sampleTaken_die hd]
          exact h3 ▸ hb
        obtain ⟨hwarm, hcause, hclock, hruns, hdies⟩ := State.changeBand_hot_spec (s := s.sampleTaken d) hoff hm hcur
        rw [State.sampleBand_warmer hd hb, show s.bandRead d = 3 from h3, stays hwarm hdies]
        exact ⟨hwarm, fun _ => ⟨hcause, hclock, hruns⟩⟩
    · have hworked := State.sampleBand_worked hd (.inl hm) (.inl h3)
      rw [State.sampleMoves_chill (hworked.mstate.trans hm) ((hall hworked.dies _).2 hcold)]
      exact ⟨rfl, rfl⟩
    · have hworked := State.sampleBand_worked hd (.inr (.inl hm)) (.inl h3)
      have hsoak : (s.sampleBand d).mstate = .soak := hworked.mstate.trans hm
      rw [State.sampleMoves_soak hsoak, hworked.since, hworked.time]
      exact ⟨hsoak, fun h => if_pos ((hall hworked.dies _).2 h), fun h => if_neg (mt (hall hworked.dies _).1 h)⟩
    · have hworked := State.sampleBand_worked hd (.inr (.inr hm)) (.inr hm)
      rw [State.sampleMoves_warm (hworked.mstate.trans hm), if_pos ((hall hworked.dies _).2 hwarm)]
      exact ⟨rfl, rfl⟩
  · have hnum := (s.die d).band.num_lt
    have hcooler : ¬ ((s.die d).band.num < (s.die d).band.num - 1 ∧ (s.die d).band.num - 1 = 3) := by omega
    refine ⟨_, if_pos hcool, ?_, fun hm => (State.changeBand_follows hcooler hm).states⟩
    rw [(State.changeBand_dies hcooler hd).1, Band.num_ofNum (by omega)]
  · refine ⟨_, if_neg (by rw [Option.isNone_iff_eq_none]; exact Option.isSome_iff_ne_none.1 hswitch), ?_⟩
    rw [State.die_modDie hd]
    exact ⟨rfl, rfl, rfl⟩

/-- Settles O47: the samples as above, and each transition of the state machine by the state it leads to. -/
theorem moduleStates : Obligations.ModuleStates := by
  refine ⟨samplesMove_holds, fun s img => ⟨⟨_, exec_powerSample s, ?_⟩, fun h => ⟨_, exec_coolantLow h, ?_⟩,
    fun h => ⟨_, exec_soakDone h, rfl, rfl⟩,
    fun h => ⟨⟨_, exec_trainingDone h true, rfl, rfl, fun hq _ hp => State.portsUp_all hq hp, fun hq _ hp => State.portsUp_spent hq hp⟩,
      ⟨_, exec_trainingDone h false, rfl, rfl, rfl⟩⟩,
    fun h => ⟨_, exec_lockDistributed h, ?_⟩, fun h => ⟨_, exec_drainDone h, ?_⟩, fun h => ⟨_, exec_parkExit h, rfl, rfl, rfl⟩,
    fun hoff hflow => ⟨fun hok => ?_, fun hbad hverify => ?_⟩, fun hoff => ⟨_, if_pos hoff, rfl⟩,
    fun hoff htried hbad hok => ⟨_, if_pos ⟨hoff, htried, by rw [hbad]; rfl, hok⟩, rfl, rfl⟩, ⟨_, rfl, rfl, rfl⟩⟩⟩
  · split
    next hover => exact ⟨rfl, fun _ => rfl, fun hle => absurd (of_decide_eq_true hover) (not_lt.2 hle)⟩
    next hover => exact ⟨rfl, fun hlt => absurd (decide_eq_true hlt) hover, fun _ => rfl⟩
  · exact ⟨(s.enterDrain_worked 5#8).mstate, (s.enterDrain_worked 5#8).cause⟩
  · have hstate : (s.portsUp.enterRun 0#8).mstate = if s.moduleBand = 0 then .run else .retreat := by
      rw [← s.portsUp_moduleBand]
      rfl
    split
    next hever => exact ⟨hstate, rfl, s.portsUp_everRun.trans hever, fun h => absurd hever (by simp [h])⟩
    next => exact ⟨hstate, rfl, rfl, fun _ => rfl⟩
  · have hmail := s.parked.drainOver_mail
    refine ⟨hmail.mstate, hmail.cause, hmail.clockOn, hmail.drainCmd, fun d hd => ?_⟩
    rw [die_of_map (s := s) hmail.dies hd]
  · by_cases hverified : s.reeve.bootOk = true ∧ s.reeve.update = none
    · exact ⟨_, exec_powerOn_verified hoff hflow hverified.1 hverified.2, rfl, rfl, hverified.2⟩
    · refine ⟨_, exec_powerOn_boot hoff hflow ?_, ?_⟩
      · rwa [not_and_or, Bool.not_eq_true] at hverified
      · rw [if_pos (hok.resolve_left hverified)]
        exact ⟨rfl, rfl, rfl⟩
  · exact ⟨_, exec_powerOn_boot hoff hflow hverify, by rw [hbad, if_neg Bool.false_ne_true]; exact hoff⟩

end Sys2Proof.Proofs
end

section
/-!
Locked configuration, part 1: what it takes to show that a function leaves the locked configuration alone, and for every function of the
model but the few of part 2 that it does (R254).  Each lemma is tagged for `simp`, so that a function's lemma is its own branches and the
lemmas of what it calls.  Where a proof is `(rfl)`, the brackets keep the lemma a rewrite rule with a proof of its own: of such a rule
`simp` makes the side condition of `foldl_cfg`.
-/
namespace Sys2Proof.Machine
variable {s : State} {e : Env}

/-! ## From what an operation may change at all -/

theorem OnlyContents.cfg {s t : State} (h : OnlyContents s t) : t.cfg = s.cfg := (congrArg State.cfg h).trans rfl

theorem OnlyFar.cfg {s t : State} (h : OnlyFar s t) : t.cfg = s.cfg := (congrArg State.cfg h).trans rfl

theorem OnlyAccess.cfg {s t : State} (h : OnlyAccess s t) : t.cfg = s.cfg := (congrArg State.cfg h).trans rfl

theorem OnlySpent.cfg {s t : State} (h : OnlySpent s t) : t.cfg = s.cfg := (congrArg State.cfg h).trans rfl

theorem OnlyRecords.cfg {s t : State} (h : OnlyRecords s t) : t.cfg = s.cfg := (congrArg State.cfg h).trans rfl

theorem OnlyPackets.cfg {s t : State} (h : OnlyPackets s t) : t.cfg = s.cfg := (congrArg State.cfg h).trans rfl

theorem OnlyMail.cfg {s t : State} (h : OnlyMail s t) : t.cfg = s.cfg := (congrArg State.cfg h).trans rfl

theorem Worked.cfg {α : Type} {g : Die → α} {s t : State} (h : Worked g s t) : t.cfg = s.cfg := (congrArg State.cfg h.only).trans rfl

theorem SameElsewhere.cfg {k : Nat} {s t : State} (h : SameElsewhere k s t) : t.cfg = s.cfg := (congrArg State.cfg h.2).trans rfl

/-! ## Branches, folds and pairs -/

@[simp] theorem State.cfg_ite (c : Prop) [Decidable c] (s t : State) : (if c then s else t).cfg = if c then s.cfg else t.cfg :=
  apply_ite State.cfg c s t

@[simp] theorem State.cfg_fst_ite {α : Type} (c : Prop) [Decidable c] (x y : State × α) :
    (if c then x else y).1.cfg = if c then x.1.cfg else y.1.cfg := apply_ite (fun x : State × α => x.1.cfg) c x y

/-- A fold of updates that leave the locked configuration alone leaves it alone. -/
@[simp] theorem foldl_cfg {α : Type} {f : State → α → State} (hf : ∀ s x, (f s x).cfg = s.cfg) (l : List α) (s : State) :
    (l.foldl f s).cfg = s.cfg := by
  induction l generalizing s with
  | nil => rfl
  | cons x l ih => exact (ih _).trans (hf _ _)

/-- The same for a fold that carries more than the state. -/
theorem foldl_fst_cfg {α β : Type} {f : State × β → α → State × β} (hf : ∀ a x, (f a x).1.cfg = a.1.cfg) (l : List α)
    (a : State × β) : (l.foldl f a).1.cfg = a.1.cfg := by
  induction l generalizing a with
  | nil => rfl
  | cons x l ih => exact (ih _).trans (hf _ _)

theorem cfg_of_fst {α : Type} {c : LockedCfg} {p : State × α} {t : State} {y : α} (g : p = (t, y)) (h : p.1.cfg = c) : t.cfg = c := by
  rwa [g] at h

/-- Folds that update one part of the state after another. -/
@[simp] theorem foldl_parts_cfg {α : Type} (l : List α) (s : State) :
    (∀ (k : State → α → Nat) (f : State → α → Tile → Tile), (l.foldl (fun s x => s.modTile (k s x) (f s x)) s).cfg = s.cfg) ∧
    (∀ (d : State → α → Nat) (f : State → α → Die → Die), (l.foldl (fun s x => s.modDie (d s x) (f s x)) s).cfg = s.cfg) ∧
    (∀ (c : State → α → Nat) (f : State → α → Ctrl → Ctrl), (l.foldl (fun s x => s.modCtrl (c s x) (f s x)) s).cfg = s.cfg) ∧
    (∀ o : State → α → Output, (l.foldl (fun s x => s.send (o s x)) s).cfg = s.cfg) :=
  ⟨fun _ _ => foldl_cfg (fun _ _ => by simp) .., fun _ _ => foldl_cfg (fun _ _ => by simp) .., fun _ _ => foldl_cfg (fun _ _ => by simp) ..,
    fun _ => foldl_cfg (fun _ _ => by simp) ..⟩

/-! ## What leaves the locked configuration alone -/

/-! ### The parts of the state (Sys2Proof/Machine/Base.lean) -/

@[simp] theorem State.setMsixFn_cfg : (s.setMsixFn p f).cfg = s.cfg := (rfl)
@[simp] theorem State.sendMsix_cfg : (s.sendMsix p v).cfg = s.cfg := by simp [State.sendMsix]
@[simp] theorem State.flushMsix_cfg : (s.flushMsix p).cfg = s.cfg := by simp [State.flushMsix]
@[simp] theorem State.count_cfg : (s.count l n).cfg = s.cfg := (rfl)
@[simp] theorem State.countSram_cfg : s.countSram.cfg = s.cfg := (rfl)
@[simp] theorem State.countRedo_cfg : s.countRedo.cfg = s.cfg := by simp [State.countRedo]
@[simp] theorem State.countUncorrectable_cfg : s.countUncorrectable.cfg = s.cfg := by simp [State.countUncorrectable]

/-! ### Shared operations: repairs, records and references (Sys2Proof/Machine/Ops.lean) -/

@[simp] theorem State.repair_cfg : (s.repair k f n).cfg = s.cfg := by simp [State.repair]
@[simp] theorem State.setTask_cfg : (s.setTask d i x).cfg = s.cfg := (rfl)
@[simp] theorem State.modTask_cfg : (s.modTask d i f).cfg = s.cfg := (rfl)
@[simp] theorem State.setCont_cfg : (s.setCont d i x).cfg = s.cfg := (rfl)
@[simp] theorem State.modCont_cfg : (s.modCont d i f).cfg = s.cfg := (rfl)
@[simp] theorem State.setCell_cfg : (s.setCell d i x).cfg = s.cfg := (rfl)
@[simp] theorem State.modCell_cfg : (s.modCell d i f).cfg = s.cfg := (rfl)
@[simp] theorem State.setFrame_cfg : (s.setFrame d i x).cfg = s.cfg := (rfl)
@[simp] theorem State.modFrame_cfg : (s.modFrame d i f).cfg = s.cfg := (rfl)
@[simp] theorem State.setFibre_cfg : (s.setFibre f x).cfg = s.cfg := (rfl)
@[simp] theorem State.renew_cfg : (s.renew d c i).cfg = s.cfg := (rfl)

theorem State.reserveCont_cfg (h : s.reserveCont d = some (i, t)) : t.cfg = s.cfg := by
  unfold State.reserveCont at h
  split at h <;> cases h
  simp

@[simp] theorem State.unreserve_cfg : (s.unreserve d i).cfg = s.cfg := (rfl)
@[simp] theorem State.claimSlot_cfg : (s.claimSlot d i).cfg = s.cfg := (rfl)

theorem State.claimCont_cfg (h : s.claimCont d = some (i, t)) : t.cfg = s.cfg := by
  unfold State.claimCont at h
  split at h <;> cases h
  rename_i g
  simp [State.reserveCont_cfg g]

@[simp] theorem State.freeCont_cfg : (s.freeCont d i).cfg = s.cfg := (State.freeCont_records ..).cfg
@[simp] theorem State.addContRef_cfg : (s.addContRef h).cfg = s.cfg := (rfl)
@[simp] theorem State.dropContRef_cfg : (s.dropContRef h).cfg = s.cfg := (State.dropContRef_records ..).cfg
@[simp] theorem State.dropTaskRef_cfg : (s.dropTaskRef h).cfg = s.cfg := (State.dropTaskRef_records ..).cfg
@[simp] theorem State.addTaskRef_cfg : (s.addTaskRef h).cfg = s.cfg := (rfl)
@[simp] theorem State.freeTask_cfg : (s.freeTask d i).cfg = s.cfg := by simp [State.freeTask]

/-! ### The issue of a word (Sys2Proof/Machine/Issue.lean) -/

@[simp] theorem Env.raise_cfg : (e.raise i d).cfg = e.s.cfg := by simp [Env.raise]
@[simp] theorem Env.raiseLater_cfg : (e.raiseLater s i d o).cfg = s.cfg := (rfl)
@[simp] theorem Env.trap_cfg : (e.trap y d).cfg = e.s.cfg := by simp [Env.trap]
@[simp] theorem Env.trapStay_cfg : (e.trapStay s y d).cfg = s.cfg := by simp [Env.trapStay]
@[simp] theorem Env.trapForm_cfg : (e.trapForm f y).cfg = e.s.cfg := by simp [Env.trapForm]

@[simp] theorem Env.issue_cfg (h : (e.apply (a e)).cfg = e.s.cfg) : (e.issue f b c u a).cfg = e.s.cfg := by
  unfold Env.issue
  (repeat' split) <;> simp [h]

theorem State.focus_cfg (h : s.focus = some e) : e.s.cfg = s.cfg := by
  rw [(State.focus_some h).1]

/-- A word whose own effect leaves the locked configuration alone leaves it alone, however its issue ends (R278). -/
@[simp] theorem issueIf_cfg (h : ∀ e : Env, (e.apply (a e)).cfg = e.s.cfg) : (nextOr s (issueIf b m f c u a s)).cfg = s.cfg := by
  unfold issueIf
  split
  · rfl
  · rename_i e he
    split
    · rfl
    · exact (Env.issue_cfg (h e)).trans (State.focus_cfg he)

@[simp] theorem issue_cfg (h : ∀ e : Env, (e.apply (b e)).cfg = e.s.cfg) : (nextOr s (issue m f c u b s)).cfg = s.cfg := issueIf_cfg h

@[simp] theorem Env.holding_cfg (h : (e.apply x).cfg = e.s.cfg) : (e.apply (e.holding a x)).cfg = e.s.cfg := by
  cases x with
  | trap t due => simp [Env.holding]
  | _ => exact h

@[simp] theorem Env.regs_cfg : (e.regs f).cfg = e.s.cfg := (rfl)
@[simp] theorem Env.short_cfg : (e.apply (Env.short e f)).cfg = e.s.cfg := (rfl)
@[simp] theorem Env.shortChecked_cfg : (e.apply (Env.shortChecked e f)).cfg = e.s.cfg := (rfl)
@[simp] theorem Env.later_cfg : (e.apply (Env.later e l v f)).cfg = e.s.cfg := (rfl)
@[simp] theorem Env.laterChecked_cfg : (e.apply (Env.laterChecked e l v f)).cfg = e.s.cfg := (rfl)

@[simp] theorem issuePrefix_cfg : (nextOr s (issuePrefix i a s)).cfg = s.cfg := by
  unfold issuePrefix
  split
  · rfl
  · rename_i e he
    split <;> simp [State.focus_cfg he]

/-! ### Scalar words (Sys2Proof/Machine/Scalar.lean) -/

@[simp] theorem binShort_cfg : (nextOr s (binShort m f d a o s)).cfg = s.cfg := by simp [binShort]
@[simp] theorem binLater_cfg : (nextOr s (binLater m f l d a o s)).cfg = s.cfg := by simp [binLater]
@[simp] theorem unaShort_cfg : (nextOr s (unaShort m d a o s)).cfg = s.cfg := by simp [unaShort]
@[simp] theorem immShort_cfg : (nextOr s (immShort m f d i o s)).cfg = s.cfg := by simp [immShort]
@[simp] theorem compare_cfg : (nextOr s (compare m p a c s)).cfg = s.cfg := by simp [compare]

/-! ### Control words (Sys2Proof/Machine/Control.lean) -/

@[simp] theorem execNop_cfg : (nextOr s (execNop m s)).cfg = s.cfg := issue_cfg fun _ => rfl

@[simp] theorem execReservedEncoding_cfg : (nextOr s (execReservedEncoding w s)).cfg = s.cfg := by
  unfold execReservedEncoding
  split
  · rfl
  · rename_i e he
    split <;> simp [State.focus_cfg he]

@[simp] theorem Env.endStrand_cfg (h : s.cfg = e.s.cfg) : (e.apply (e.endStrand b s)).cfg = e.s.cfg := by simp [Env.endStrand, h]
@[simp] theorem Env.jump_cfg : (e.apply (Env.jump e a c)).cfg = e.s.cfg := (rfl)
@[simp] theorem Env.jumpTo_cfg : (e.apply (Env.jumpTo e a)).cfg = e.s.cfg := by simp [Env.jumpTo]
@[simp] theorem Env.jmptRead_cfg : (e.jmptRead f).cfg = e.s.cfg := by simp [Env.jmptRead]
@[simp] theorem execJmpt_cfg : (nextOr s (execJmpt m d a s)).cfg = s.cfg := issue_cfg fun e => by dsimp only; (repeat' split) <;> simp
@[simp] theorem execBrq_cfg : (nextOr s (execBrq m n o s)).cfg = s.cfg := issue_cfg fun e => by dsimp only; split <;> simp
@[simp] theorem Env.trapBoth_cfg : (e.trapBoth y).cfg = e.s.cfg := by simp [Env.trapBoth]
@[simp] theorem Env.restartBoth_cfg : (e.restartBoth i j).cfg = e.s.cfg := by simp [Env.restartBoth]
@[simp] theorem execRestartpt_cfg : (nextOr s (execRestartpt m i s)).cfg = s.cfg := issue_cfg fun e => by dsimp only; (repeat' split) <;> simp
@[simp] theorem execArrive_cfg : (nextOr s (execArrive m s)).cfg = s.cfg := issue_cfg fun e => by dsimp only; (repeat' split) <;> simp

/-! ### Vector words (Sys2Proof/Machine/Vector.lean) -/

@[simp] theorem vecIssue_cfg : (nextOr s (vecIssue m f b l d a o c g s i)).cfg = s.cfg :=
  issueIf_cfg fun e => by dsimp only; (repeat' split) <;> simp
@[simp] theorem vecArith_cfg : (nextOr s (vecArith m d a f s)).cfg = s.cfg := by simp [vecArith]

@[simp] theorem vecToScalar_cfg : (nextOr s (vecToScalar m f b l d a c o s)).cfg = s.cfg :=
  issueIf_cfg fun e => by dsimp only; (repeat' split) <;> simp

@[simp] theorem vecUnary_cfg : (nextOr s (vecUnary m f l d a o s)).cfg = s.cfg := by simp [vecUnary]

/-! ### Floating-point words (Sys2Proof/Machine/Float.lean) -/

@[simp] theorem fpBin_cfg : (nextOr s (fpBin m l d a o s)).cfg = s.cfg := by simp [fpBin]
@[simp] theorem fpUna_cfg : (nextOr s (fpUna m f l d a c o s b)).cfg = s.cfg := issue_cfg fun e => by simp
@[simp] theorem fpCompare_cfg : (nextOr s (fpCompare m c p a s)).cfg = s.cfg := by simp [fpCompare]

/-! ### Links (Sys2Proof/Machine/Links.lean) -/

@[simp] theorem State.rekey_cfg : (s.rekey p o a).cfg = s.cfg := (State.rekey_packets ..).cfg
@[simp] theorem State.rekeyFirst_cfg : (s.rekeyFirst p o).cfg = s.cfg := (State.rekeyFirst_packets ..).cfg
@[simp] theorem State.bringUp_cfg : (s.bringUp p).cfg = s.cfg := (State.bringUp_packets ..).cfg
@[simp] theorem State.emit_cfg : (s.emit a p).cfg = s.cfg := (State.emit_packets ..).cfg
@[simp] theorem State.sendPacket_cfg : (s.sendPacket p i).cfg = s.cfg := (State.sendPacket_packets ..).cfg
@[simp] theorem State.sendOn_cfg : (s.sendOn p i).cfg = s.cfg := (State.sendOn_packets ..).cfg
@[simp] theorem State.sendQueued_cfg : (s.sendQueued p).cfg = s.cfg := by unfold State.sendQueued; split <;> simp
@[simp] theorem State.flitOut_cfg : (s.flitOut p g).cfg = s.cfg := by unfold State.flitOut; split <;> simp
@[simp] theorem State.flitIn_cfg : (s.flitIn p g).cfg = s.cfg := by simp [State.flitIn]
@[simp] theorem State.answerPart_cfg : (s.answerPart a b k c).cfg = s.cfg := by unfold State.answerPart; split <;> simp
@[simp] theorem State.passOn_cfg : (s.passOn r).cfg = s.cfg := by unfold State.passOn; split <;> simp

/-! ### Translations and reads of far memory (Sys2Proof/Machine/Far.lean) -/

@[simp] theorem State.tierTouch_cfg : (s.tierTouch p).1.cfg = s.cfg := (State.tierTouch_only ..).cfg
@[simp] theorem State.tierAccess_cfg : (s.tierAccess w p).1.cfg = s.cfg := (State.tierAccess_only ..).cfg
@[simp] theorem State.touchLines_cfg : (s.touchLines w p n).1.cfg = s.cfg := foldl_fst_cfg (fun a l => by simp) ..
@[simp] theorem State.place_cfg : (s.place x t w o).1.cfg = s.cfg := (State.place_only ..).cfg

/-! ### Field-store words (Sys2Proof/Machine/FieldMem.lean) -/

@[simp] theorem Env.portA_cfg (h : (e.apply (c ())).cfg = e.s.cfg) : (e.apply (e.portA f n a j d c)).cfg = e.s.cfg := by
  unfold Env.portA
  (repeat' split) <;> simp [h]

@[simp] theorem execLoad_cfg : (nextOr s (execLoad n m d a s)).cfg = s.cfg := issue_cfg fun e => Env.holding_cfg (Env.portA_cfg (by simp))
@[simp] theorem execStore_cfg : (nextOr s (execStore n m d a s)).cfg = s.cfg := by simp [execStore]

@[simp] theorem execLdv_cfg : (nextOr s (execLdv m q a s)).cfg = s.cfg :=
  issue_cfg fun e => by
    dsimp only
    split
    · rfl
    · exact Env.holding_cfg (Env.portA_cfg (by simp))

@[simp] theorem Env.zeroRow_cfg : (e.apply (Env.zeroRow e f a)).cfg = e.s.cfg := by simp [Env.zeroRow]

@[simp] theorem execZerof_cfg : (nextOr s (execZerof m d a s)).cfg = s.cfg := by
  unfold execZerof
  split
  · rfl
  · rename_i e he
    split
    · simp [State.focus_cfg he]
    · exact issue_cfg fun e => by simp

@[simp] theorem execWset_cfg : (nextOr s (execWset m w a s)).cfg = s.cfg :=
  issue_cfg fun e => Env.holding_cfg (by
    split
    · simp
    · exact Env.portA_cfg (by split <;> simp))

@[simp] theorem Env.walk_cfg (h : ∀ x a, (e.apply (c x a)).cfg = e.s.cfg) : (e.apply (e.walk w n d c)).cfg = e.s.cfg := by
  unfold Env.walk
  (repeat' split) <;> simp [h]

@[simp] theorem execWld_cfg : (nextOr s (execWld m q w k s)).cfg = s.cfg :=
  issueIf_cfg fun e => by
    dsimp only
    split
    · rfl
    · exact Env.holding_cfg (Env.walk_cfg fun x f => by split <;> simp)

@[simp] theorem execWfeed_cfg : (nextOr s (execWfeed m w p n s)).cfg = s.cfg := issue_cfg fun e => by dsimp only; (repeat' split) <;> simp
@[simp] theorem execLease_cfg : (nextOr s (execLease m d a s)).cfg = s.cfg := issue_cfg fun e => by dsimp only; (repeat' split) <;> simp

/-! ### Copies, walks and far accesses (Sys2Proof/Machine/Copies.lean) -/

@[simp] theorem State.post_cfg : (s.post i j x a).cfg = s.cfg := by simp [State.post]
@[simp] theorem Env.failCopy_cfg : (e.apply (Env.failCopy e c x y)).cfg = e.s.cfg := by simp [Env.failCopy]
@[simp] theorem execCpyx_cfg : (nextOr s (execCpyx m c s)).cfg = s.cfg := issue_cfg fun e => by dsimp only; split <;> simp
@[simp] theorem execHwalk_cfg : (nextOr s (execHwalk m c a s)).cfg = s.cfg := issue_cfg fun e => by dsimp only; (repeat' split) <;> simp
@[simp] theorem State.failHeader_cfg : (s.failHeader i).cfg = s.cfg := by unfold State.failHeader; split <;> simp
@[simp] theorem State.onHeader_cfg : (s.onHeader i k a f).cfg = s.cfg := by simp [State.onHeader]
@[simp] theorem State.drainSlot_cfg : (s.drainSlot i o w k a).cfg = s.cfg := by simp [State.drainSlot]
@[simp] theorem State.permit_cfg : (s.permit i k a).cfg = s.cfg := by unfold State.permit; dsimp only; (repeat' split) <;> simp
@[simp] theorem execHpermit_cfg : (nextOr s (execHpermit m d a s)).cfg = s.cfg := issue_cfg fun e => by dsimp only; (repeat' split) <;> simp
@[simp] theorem execFld_cfg : (nextOr s (execFld m c a s)).cfg = s.cfg := issueIf_cfg fun e => by dsimp only; split <;> simp

/-! ### Matrix words (Sys2Proof/Machine/Matrix.lean) -/

@[simp] theorem Env.command_cfg : (e.apply (Env.command e o a y)).cfg = e.s.cfg := by simp [Env.command]
@[simp] theorem Env.needMx_cfg (h : (e.apply c).cfg = e.s.cfg) : (e.apply (e.needMx c)).cfg = e.s.cfg := by simp [Env.needMx, h]
@[simp] theorem execMmaForm_cfg : (nextOr s (execMmaForm a m n k s)).cfg = s.cfg := by simp [execMmaForm]
@[simp] theorem execCbload_cfg : (nextOr s (execCbload m n a s)).cfg = s.cfg := issue_cfg fun e => by dsimp only; split <;> simp
@[simp] theorem execAttn_cfg : (nextOr s (execAttn m n x s)).cfg = s.cfg := issue_cfg fun e => Env.needMx_cfg (by dsimp only; split <;> simp)

/-! ### Requests to the home units (Sys2Proof/Machine/Home.lean) -/

@[simp] theorem Env.send_cfg : (e.apply (e.send s q)).cfg = s.cfg := (rfl)
@[simp] theorem Env.ask_cfg : (e.apply (Env.ask e f d j b o)).cfg = e.s.cfg := (rfl)

@[simp] theorem Env.reserving_cfg (h : ∀ s i, s.cfg = e.s.cfg → (e.apply (c s i)).cfg = e.s.cfg) :
    (e.apply (e.reserving c)).cfg = e.s.cfg := by
  unfold Env.reserving
  split
  · rename_i g
    exact h _ _ (State.reserveCont_cfg g)
  · exact h _ _ rfl

@[simp] theorem askTask_cfg : (nextOr s (askTask m f a o s)).cfg = s.cfg := by simp [askTask]

/-! ### Tasks, continuations and bookings (Sys2Proof/Machine/Pools.lean) -/

@[simp] theorem refuse_cfg : (refuse s t).1.cfg = s.cfg := by simp [refuse]
@[simp] theorem answer_cfg : (answer s r).1.cfg = s.cfg := (rfl)
@[simp] theorem answerEnd_cfg : (answerEnd s r).1.cfg = s.cfg := (rfl)
@[simp] theorem State.putTaskAt_cfg : (s.putTaskAt h x).cfg = s.cfg := (rfl)
@[simp] theorem State.makeReady_cfg : (s.makeReady d i t).cfg = s.cfg := by simp [State.makeReady]
@[simp] theorem State.armWith_cfg : (s.armWith d i n).cfg = s.cfg := (State.armWith_records ..).cfg
@[simp] theorem State.arm_cfg : (s.arm x h).1.cfg = s.cfg := (State.arm_records ..).cfg
@[simp] theorem State.signal_cfg : (s.signal x h).1.cfg = s.cfg := by unfold State.signal; split <;> simp
@[simp] theorem plainAnswer_cfg : (plainAnswer x).1.cfg = x.1.cfg := by unfold plainAnswer; split <;> simp

@[simp] theorem State.performTclaim_cfg : (s.performTclaim q d p).1.cfg = s.cfg := by
  unfold State.performTclaim
  dsimp only
  (repeat' split) <;> simp

@[simp] theorem State.performTpatch_cfg : (s.performTpatch q h k v).1.cfg = s.cfg := by unfold State.performTpatch; dsimp only; split <;> simp
@[simp] theorem State.performTfree_cfg : (s.performTfree q h).1.cfg = s.cfg := by unfold State.performTfree; split <;> simp
@[simp] theorem State.dropChain_cfg : (s.dropChain r).cfg = s.cfg := (State.dropChain_records ..).cfg

@[simp] theorem State.performChain_cfg : (s.performChain q h).1.cfg = s.cfg := by
  unfold State.performChain
  dsimp only
  (repeat' split) <;> simp

@[simp] theorem State.performBook_cfg : (s.performBook q h d).1.cfg = s.cfg := by unfold State.performBook; split <;> simp
@[simp] theorem State.meet_cfg : (s.meet h f).cfg = s.cfg := (State.meet_records ..).cfg
@[simp] theorem State.meetTrap_cfg : (s.meetTrap h c a).cfg = s.cfg := by simp [State.meetTrap]
@[simp] theorem State.fillCont_cfg : (s.fillCont q d i k c w o).cfg = s.cfg := by unfold State.fillCont; split <;> simp

theorem State.claimEnding_cfg (g : s.claimEnding q a k c w o = some (h, t)) : t.cfg = s.cfg := by
  unfold State.claimEnding at g
  cases a with
  | some i => cases g; simp
  | none =>
    dsimp only at g
    split at g <;> cases g
    rename_i gc
    simp [State.claimCont_cfg gc]

@[simp] theorem State.performAwaitTile_cfg : (s.performAwaitTile q x0 p).1.cfg = s.cfg := by
  unfold State.performAwaitTile
  dsimp only
  split
  · rfl
  · split
    · simp
    · simp
    · rename_i g _
      have h := State.claimEnding_cfg g
      simp_all

@[simp] theorem State.performRett_cfg : (s.performRett q a h i r).1.cfg = s.cfg := by unfold State.performRett; dsimp only; split <;> simp

/-! ### The Granary (Sys2Proof/Machine/Granary.lean) -/

@[simp] theorem State.putCellAt_cfg : (s.putCellAt h c).cfg = s.cfg := (rfl)
@[simp] theorem State.updateCell_cfg : (s.updateCell h c).cfg = s.cfg := by simp [State.updateCell]
@[simp] theorem State.walkWaiters_cfg : (s.walkWaiters w).cfg = s.cfg := by simp [State.walkWaiters]
@[simp] theorem State.writeFuture_cfg : (s.writeFuture h v).cfg = s.cfg := (rfl)
@[simp] theorem State.poisonFuture_cfg : (s.poisonFuture h).cfg = s.cfg := by simp [State.poisonFuture]
@[simp] theorem State.moduleFutw_cfg : (s.moduleFutw x h v).cfg = s.cfg := (State.moduleFutw_worked ..).cfg
@[simp] theorem State.observeTails_cfg : s.observeTails.cfg = s.cfg := (rfl)
@[simp] theorem State.performWord0_cfg : (s.performWord0 q h d f).1.cfg = s.cfg := by unfold State.performWord0; split <;> simp
@[simp] theorem State.performGred_cfg : (s.performGred q h v d).1.cfg = s.cfg := by unfold State.performGred; dsimp only; split <;> simp
@[simp] theorem State.performFutw_cfg : (s.performFutw q h v).1.cfg = s.cfg := by unfold State.performFutw; split <;> simp
@[simp] theorem State.linkFuture_cfg : (s.linkFuture h c).cfg = s.cfg := (rfl)
@[simp] theorem State.giveBack_cfg : (s.giveBack q a).cfg = s.cfg := by unfold State.giveBack; split <;> simp
@[simp] theorem refuseBack_cfg : (refuseBack s q a t).1.cfg = s.cfg := by simp [refuseBack]

@[simp] theorem State.performFutr_cfg : (s.performFutr q h x p a).1.cfg = s.cfg := by
  unfold State.performFutr
  dsimp only
  split
  · simp
  · split
    · simp
    · cases a with
      | none => simp
      | some i =>
        dsimp only
        split
        · simp
        · split
          · simp
          · simp [State.claimEnding_cfg ‹_›]

@[simp] theorem State.performAwaitCell_cfg : (s.performAwaitCell q x0 h x p a).1.cfg = s.cfg := by
  unfold State.performAwaitCell
  dsimp only
  split
  · simp
  · split
    · simp
    · rename_i g
      simp [State.claimEnding_cfg g]

@[simp] theorem State.performSalloc_cfg : (s.performSalloc q r d p).1.cfg = s.cfg := by
  unfold State.performSalloc
  dsimp only
  (repeat' split) <;> simp

@[simp] theorem State.addCellRef_cfg : (s.addCellRef h).cfg = s.cfg := (rfl)
@[simp] theorem State.dropCellRef_cfg : (s.dropCellRef h).cfg = s.cfg := by simp [State.dropCellRef]
@[simp] theorem State.freeRunOf_cfg : (s.freeRunOf d f l).cfg = s.cfg := by simp [State.freeRunOf]
@[simp] theorem State.performSfree_cfg : (s.performSfree q h).1.cfg = s.cfg := by unfold State.performSfree; dsimp only; split <;> simp
@[simp] theorem State.setGp_cfg : (s.setGp x n v).cfg = s.cfg := (rfl)
@[simp] theorem State.performGparam_cfg : (s.performGparam q n d).1.cfg = s.cfg := by unfold State.performGparam; split <;> simp
@[simp] theorem State.performGpset_cfg : (s.performGpset q n v).1.cfg = s.cfg := by unfold State.performGpset; split <;> simp

/-! ### The Sheaf (Sys2Proof/Machine/Sheaf.lean) -/

@[simp] theorem State.putFrameAt_cfg : (s.putFrameAt h f).cfg = s.cfg := (rfl)
@[simp] theorem State.setPool_cfg : (s.setPool d x p).cfg = s.cfg := (rfl)
@[simp] theorem State.addDependant_cfg : (s.addDependant h).cfg = s.cfg := (rfl)
@[simp] theorem State.stopCompaction_cfg : (s.stopCompaction h).cfg = s.cfg := (rfl)
@[simp] theorem State.addFrameRef_cfg : (s.addFrameRef h).cfg = s.cfg := (rfl)

@[simp] theorem State.performFcompact_cfg : (s.performFcompact q h a p b).1.cfg = s.cfg := by
  unfold State.performFcompact
  dsimp only
  split
  · simp
  · cases b with
    | none => simp
    | some i =>
      dsimp only
      split
      · simp
      · simp
      · simp [State.claimEnding_cfg ‹_›]

@[simp] theorem State.setPfx_cfg : (s.setPfx x i f).cfg = s.cfg := by simp [State.setPfx]

@[simp] theorem State.performPfxlook_cfg : (s.performPfxlook q v b f).1.cfg = s.cfg := by
  unfold State.performPfxlook
  dsimp only
  split <;> simp

/-! ### Runs (Sys2Proof/Machine/Runs.lean) -/

@[simp] theorem State.useCont_cfg : (s.useCont h).cfg = s.cfg := (State.useCont_records ..).cfg
@[simp] theorem State.dropRecorded_cfg : (s.dropRecorded r).cfg = s.cfg := (State.dropRecorded_records ..).cfg
@[simp] theorem State.carryOn_cfg : (s.carryOn o n).cfg = s.cfg := (rfl)
@[simp] theorem State.startTask_cfg : (s.startTask b c).cfg = s.cfg := by simp [State.startTask]
@[simp] theorem State.writeBack_cfg : (s.writeBack r).cfg = s.cfg := (rfl)
@[simp] theorem State.closeRun_cfg : (s.closeRun i r).cfg = s.cfg := by simp [State.closeRun]
@[simp] theorem State.recordFailure_cfg : (s.recordFailure r c h).cfg = s.cfg := by simp [State.recordFailure]

@[simp] theorem State.armChain_cfg : (s.armChain r).cfg = s.cfg := by
  unfold State.armChain
  split
  · rfl
  · rename_i h _
    split <;> simp [cfg_of_fst ‹_› State.arm_cfg]

@[simp] theorem State.signalSuccessor_cfg : (s.signalSuccessor r).cfg = s.cfg := by
  unfold State.signalSuccessor
  dsimp only
  split
  · rfl
  · split <;> simp [cfg_of_fst ‹_› State.signal_cfg]

@[simp] theorem State.resumeCont_cfg : (s.resumeCont h).cfg = s.cfg := by simp [State.resumeCont]
@[simp] theorem State.performReturns_cfg : (s.performReturns r).cfg = s.cfg :=
  foldl_cfg (fun s x => by dsimp only; (repeat' split) <;> simp) _ _
@[simp] theorem State.endByAwait_cfg : (s.endByAwait r d i a).cfg = s.cfg := (rfl)

@[simp] theorem execTaskRetire_cfg : (nextOr s (execTaskRetire i s)).cfg = s.cfg := by
  unfold execTaskRetire
  dsimp only
  (repeat' split) <;> simp

/-! ### Traps and their delivery (Sys2Proof/Machine/Delivery.lean) -/

@[simp] theorem State.stopStrands_cfg : (s.stopStrands r k).cfg = s.cfg := by simp [State.stopStrands]
@[simp] theorem State.settleStops_cfg : (s.settleStops i).cfg = s.cfg := by unfold State.settleStops; split <;> simp
@[simp] theorem State.setStop_cfg : (s.setStop i w).cfg = s.cfg := (State.setStop_worked ..).cfg
@[simp] theorem State.armHandler_cfg : (s.armHandler h).cfg = s.cfg := (State.armHandler_records ..).cfg
@[simp] theorem State.oweHandler_cfg : (s.oweHandler h).cfg = s.cfg := (rfl)
@[simp] theorem execHandlerArm_cfg : (nextOr s (execHandlerArm i s)).cfg = s.cfg := by unfold execHandlerArm; split <;> simp
@[simp] theorem State.overflow_cfg : (s.overflow f k a).cfg = s.cfg := (State.overflow_records ..).cfg
@[simp] theorem State.raiseOverflow_cfg : (s.raiseOverflow f k a).cfg = s.cfg := (State.raiseOverflow_records ..).cfg
@[simp] theorem State.finishRun_cfg : (s.finishRun o v).cfg = s.cfg := by simp [State.finishRun]
@[simp] theorem State.finishSave_cfg : (s.finishSave h i o v).cfg = s.cfg := by simp [State.finishSave]
@[simp] theorem State.finishOp_cfg : (s.finishOp i o v).cfg = s.cfg := by simp [State.finishOp]
@[simp] theorem State.discardOps_cfg : (s.discardOps i).cfg = s.cfg := (rfl)
@[simp] theorem State.writeSaves_cfg : (s.writeSaves r i c b p).1.cfg = s.cfg := foldl_fst_cfg (fun a k => by dsimp only; split <;> simp) _ _
@[simp] theorem State.trapCont_cfg : (s.trapCont a r i p).1.cfg = s.cfg := (State.trapCont_records ..).cfg
@[simp] theorem State.deliver_cfg : (s.deliver i r).cfg = s.cfg := by simp [State.deliver]

@[simp] theorem State.cutRun_cfg : (s.cutRun i r a).cfg = s.cfg := by
  unfold State.cutRun
  dsimp only
  split
  · simp
  · split
    · simp
    · rename_i g
      simp [State.claimCont_cfg g]

@[simp] theorem State.stopRun_cfg : (s.stopRun i r).cfg = s.cfg := by simp [State.stopRun]

@[simp] theorem execTrapDelivery_cfg : (nextOr s (execTrapDelivery i s)).cfg = s.cfg := by
  unfold execTrapDelivery
  split
  · rfl
  · (repeat' split) <;> simp

@[simp] theorem execCut_cfg : (nextOr s (execCut i s)).cfg = s.cfg := by unfold execCut; split <;> simp
@[simp] theorem execResidueCheck_cfg : (nextOr s (execResidueCheck k b s)).cfg = s.cfg := by unfold execResidueCheck; split <;> simp
@[simp] theorem State.trapWaiting_cfg : (s.trapWaiting d i c a).cfg = s.cfg := (rfl)

@[simp] theorem execContinuationReady_cfg : (nextOr s (execContinuationReady d i s)).cfg = s.cfg := by
  unfold execContinuationReady
  (repeat' split) <;> simp

/-! ### The pipes of a tile (Sys2Proof/Machine/Pipes.lean) -/

@[simp] theorem State.homeVerdict_cfg : (s.homeVerdict k σ).cfg = s.cfg := by unfold State.homeVerdict; dsimp only; (repeat' split) <;> simp
@[simp] theorem execVerdictReturn_cfg : (nextOr s (execVerdictReturn k σ s)).cfg = s.cfg := by simp [execVerdictReturn]
@[simp] theorem execResultWrite_cfg : (nextOr s (execResultWrite k σ s)).cfg = s.cfg := (rfl)
@[simp] theorem execLoadQueueFill_cfg : (nextOr s (execLoadQueueFill k q s)).cfg = s.cfg := (rfl)
@[simp] theorem execStoreDrain_cfg : (nextOr s (execStoreDrain k s)).cfg = s.cfg := by unfold execStoreDrain; dsimp only; split <;> simp
@[simp] theorem execFeedAccess_cfg : (nextOr s (execFeedAccess k p s)).cfg = s.cfg := by unfold execFeedAccess; dsimp only; split <;> simp
@[simp] theorem execFeedEntryLand_cfg : (nextOr s (execFeedEntryLand k p s)).cfg = s.cfg := (rfl)
@[simp] theorem execFeedPoison_cfg : (nextOr s (execFeedPoison k σ s)).cfg = s.cfg := by simp [execFeedPoison]
@[simp] theorem execMxCommandEnd_cfg : (nextOr s (execMxCommandEnd k s)).cfg = s.cfg := by unfold execMxCommandEnd; dsimp only; split <;> simp

@[simp] theorem execMxCommandStart_cfg : (nextOr s (execMxCommandStart k s)).cfg = s.cfg := by
  unfold execMxCommandStart
  dsimp only
  split <;> simp

@[simp] theorem State.mxAdvance_cfg : (s.mxAdvance k).cfg = s.cfg := by unfold State.mxAdvance; dsimp only; split <;> simp
@[simp] theorem execMxOwedPush_cfg : (nextOr s (execMxOwedPush k s)).cfg = s.cfg := by unfold execMxOwedPush; dsimp only; split <;> simp

@[simp] theorem execAttnRowRead_cfg : (nextOr s (execAttnRowRead k s)).cfg = s.cfg := by
  unfold execAttnRowRead
  dsimp only
  (repeat' split) <;> simp

@[simp] theorem State.noteTrees_cfg : (s.noteTrees d).cfg = s.cfg := (rfl)

@[simp] theorem execBarrierComplete_cfg : (nextOr s (execBarrierComplete i s)).cfg = s.cfg := by
  unfold execBarrierComplete
  dsimp only
  (repeat' split) <;> simp

@[simp] theorem execDebugStop_cfg : (nextOr s (execDebugStop k σ a s)).cfg = s.cfg := by simp [execDebugStop]

/-! ### Home units (Sys2Proof/Machine/Perform.lean) -/

@[simp] theorem State.sendHome_cfg : (s.sendHome i).cfg = s.cfg := by unfold State.sendHome; split <;> simp
@[simp] theorem execFutureWaiterWalk_cfg : (nextOr s (execFutureWaiterWalk i s)).cfg = s.cfg := by unfold execFutureWaiterWalk; split <;> simp

/-! ### The engines of far operations (Sys2Proof/Machine/Engine.lean) -/

@[simp] theorem State.spendDrill_cfg : (s.spendDrill c x n).cfg = s.cfg := (rfl)
@[simp] theorem State.spendLink_cfg : (s.spendLink x m n).cfg = s.cfg := by unfold State.spendLink; split <;> simp
@[simp] theorem State.spendUnits_cfg : (s.spendUnits x c t w n).cfg = s.cfg := (State.spendUnits_only ..).cfg
@[simp] theorem State.charge_cfg : (s.charge o t l n).cfg = s.cfg := (State.charge_only ..).cfg
@[simp] theorem State.chargePiece_cfg : (s.chargePiece o p i).cfg = s.cfg := (State.chargePiece_only ..).cfg
@[simp] theorem State.modPart_cfg : (s.modPart i j f).cfg = s.cfg := (State.modPart_onlyOps ..).cfg
@[simp] theorem State.failPart_cfg : (s.failPart i j k v).cfg = s.cfg := (State.failPart_onlyOps ..).cfg
@[simp] theorem State.failPage_cfg : (s.failPage i j o k v).cfg = s.cfg := (State.failPage_onlyOps ..).cfg

@[simp] theorem execCopyPartSend_cfg : (nextOr s (execCopyPartSend i s)).cfg = s.cfg := by
  unfold execCopyPartSend
  dsimp only
  (repeat' split) <;> simp

@[simp] theorem State.partPlace_cfg : (s.partPlace o p v).1.cfg = s.cfg := by
  unfold State.partPlace
  split
  · rfl
  · split <;> exact cfg_of_fst ‹_› (State.place_cfg ..)

@[simp] theorem State.failOrRebuild_cfg : (s.failOrRebuild i j o p k v).cfg = s.cfg := by unfold State.failOrRebuild; split <;> simp

@[simp] theorem State.pieceRead_cfg : (s.pieceRead o p v n).1.cfg = s.cfg := by
  induction n with
  | zero => rfl
  | succ n ih =>
    unfold State.pieceRead
    split
    · exact cfg_of_fst ‹_› ih
    · rename_i g
      have hs := cfg_of_fst g ih
      split
      · exact hs
      · split <;> exact (cfg_of_fst ‹_› (State.partPlace_cfg ..)).trans hs

@[simp] theorem State.pushWrite_cfg : (s.pushWrite o i x b).cfg = s.cfg := (rfl)

@[simp] theorem State.pieceWrite_cfg : (s.pieceWrite i o p a v n).1.cfg = s.cfg := by
  induction n with
  | zero => rfl
  | succ n ih =>
    unfold State.pieceWrite
    split
    · exact ih
    · split
      · split <;> simp [cfg_of_fst ‹_› (State.partPlace_cfg ..)]
      · split
        · exact cfg_of_fst ‹_› ih
        · rename_i g
          split <;> simp [cfg_of_fst ‹_› (State.partPlace_cfg ..), cfg_of_fst g ih]

@[simp] theorem State.sendLink_cfg : (s.sendLink i j o p t).cfg = s.cfg := by simp [State.sendLink]
@[simp] theorem State.sendLines_cfg : (s.sendLines i j o p n).cfg = s.cfg := foldl_cfg (fun s l => by split <;> simp) _ _

@[simp] theorem execChannelPerform_cfg : (nextOr s (execChannelPerform i j n s)).cfg = s.cfg := by
  unfold execChannelPerform
  split
  · rfl
  · rename_i o p _
    dsimp only
    split
    · rfl
    · split
      · simp
      · split
        · split <;> simp [cfg_of_fst ‹_› (State.pieceWrite_cfg ..)]
        · split <;> simp [cfg_of_fst ‹_› (State.pieceRead_cfg ..)]

@[simp] theorem State.disownSettled_cfg : (s.disownSettled i o k).cfg = s.cfg := by unfold State.disownSettled; split <;> simp
@[simp] theorem execMemberAccept_cfg : (nextOr s (execMemberAccept i j m s)).cfg = s.cfg := by unfold execMemberAccept; split <;> simp
@[simp] theorem State.readyCounter_cfg : (s.readyCounter k a g).cfg = s.cfg := (State.readyCounter_records ..).cfg

@[simp] theorem State.leaveFilling_cfg : (s.leaveFilling i a).cfg = s.cfg := by
  unfold State.leaveFilling
  dsimp only
  (repeat' split) <;> simp

@[simp] theorem State.credit_cfg : (s.credit i o k a g n).cfg = s.cfg := by unfold State.credit; dsimp only; (repeat' split) <;> simp
@[simp] theorem State.creditPart_cfg : (s.creditPart i o p k g n).cfg = s.cfg := by unfold State.creditPart; split <;> simp
@[simp] theorem State.repairB_cfg : (s.repairB o p k g r).cfg = s.cfg := (State.repairB_only ..).1.cfg

@[simp] theorem execGranuleLanding_cfg : (nextOr s (execGranuleLanding i j n s)).cfg = s.cfg := by
  unfold execGranuleLanding
  dsimp only
  (repeat' split) <;> simp

@[simp] theorem execPortBRead_cfg : (nextOr s (execPortBRead i j n s)).cfg = s.cfg := by
  unfold execPortBRead
  dsimp only
  (repeat' split) <;> simp

@[simp] theorem State.clearOp_cfg : (s.clearOp i o).cfg = s.cfg := by simp [State.clearOp]
@[simp] theorem State.writeHeaders_cfg : (s.writeHeaders i m x).cfg = s.cfg := by simp [State.writeHeaders]

@[simp] theorem execHarrowWalkStart_cfg : (nextOr s (execHarrowWalkStart k s)).cfg = s.cfg := by
  unfold execHarrowWalkStart
  dsimp only
  (repeat' split) <;> simp

@[simp] theorem execHarrowTileStart_cfg : (nextOr s (execHarrowTileStart k s)).cfg = s.cfg := by
  unfold execHarrowTileStart
  dsimp only
  (repeat' split) <;> simp

@[simp] theorem execSlotDrained_cfg : (nextOr s (execSlotDrained i y s)).cfg = s.cfg := by
  unfold execSlotDrained
  dsimp only
  (repeat' split) <;> simp

@[simp] theorem State.debit_cfg : (s.debit i o).cfg = s.cfg := by simp [State.debit]
@[simp] theorem State.emptySlots_cfg : (s.emptySlots i o).cfg = s.cfg := by unfold State.emptySlots; split <;> simp

@[simp] theorem execDmaTimeoutAbort_cfg : (nextOr s (execDmaTimeoutAbort i j s)).cfg = s.cfg := by
  unfold execDmaTimeoutAbort
  (repeat' split) <;> simp

@[simp] theorem execLinkPartTimeout_cfg : (nextOr s (execLinkPartTimeout i j s)).cfg = s.cfg := by
  unfold execLinkPartTimeout
  (repeat' split) <;> simp

/-! ### Moves of the units (Sys2Proof/Machine/Moves.lean) -/

@[simp] theorem State.meetCompaction_cfg : (s.meetCompaction i j f).cfg = s.cfg := by simp [State.meetCompaction]
@[simp] theorem State.compactFault_cfg : (s.compactFault i j k v).cfg = s.cfg := by simp [State.compactFault]
@[simp] theorem State.markRebuild_cfg : (s.markRebuild h n).cfg = s.cfg := by simp [State.markRebuild]
@[simp] theorem State.releaseRebuild_cfg : (s.releaseRebuild f).cfg = s.cfg := by simp [State.releaseRebuild]
@[simp] theorem State.mailDone_cfg : (s.mailDone c a b).cfg = s.cfg := (State.mailDone_mail ..).cfg

@[simp] theorem execInvalidationComplete_cfg : (nextOr s (execInvalidationComplete i s)).cfg = s.cfg := by
  unfold execInvalidationComplete
  dsimp only
  (repeat' split) <;> simp

@[simp] theorem execMessageDelivery_cfg : (nextOr s (execMessageDelivery i s)).cfg = s.cfg := by
  unfold execMessageDelivery
  dsimp only
  (repeat' split) <;> simp

@[simp] theorem State.settleWindows_cfg : s.settleWindows.cfg = s.cfg := by simp [State.settleWindows]
@[simp] theorem State.endRemote_cfg : (s.endRemote r k b).cfg = s.cfg := by simp [State.endRemote]
@[simp] theorem State.writeWindow_cfg : (s.writeWindow n w a).cfg = s.cfg := by simp [State.writeWindow]
@[simp] theorem execWintabWrite_cfg : (nextOr s (execWintabWrite n w a s)).cfg = s.cfg := by simp [execWintabWrite]
@[simp] theorem execLinkFlitReceive_cfg : (nextOr s (execLinkFlitReceive p g s)).cfg = s.cfg := by simp [execLinkFlitReceive]
@[simp] theorem State.reroute_cfg : (s.reroute p).cfg = s.cfg := (State.reroute_onlyOps ..).cfg
@[simp] theorem State.resend_cfg : (s.resend x).cfg = s.cfg := by unfold State.resend; (repeat' split) <;> simp
@[simp] theorem execLinkPortDown_cfg : (nextOr s (execLinkPortDown p s)).cfg = s.cfg := by simp [execLinkPortDown]
@[simp] theorem execLinkRekey_cfg : (nextOr s (execLinkRekey p a s)).cfg = s.cfg := by simp [execLinkRekey]

/-! ### The Almanac (Sys2Proof/Machine/Almanac.lean) -/

@[simp] theorem State.stageTask_cfg : (s.stageTask h i).cfg = s.cfg := by unfold State.stageTask; dsimp only; (repeat' split) <;> simp
@[simp] theorem execCodeStaging_cfg : (nextOr s (execCodeStaging h i s)).cfg = s.cfg := by simp [execCodeStaging]

@[simp] theorem State.stagingCont_cfg : (s.stagingCont h i k).1.cfg = s.cfg := by
  unfold State.stagingCont
  dsimp only
  split
  · simp
  · rename_i g
    simp [State.claimCont_cfg g]

@[simp] theorem State.failTask_cfg : (s.failTask h i k v).cfg = s.cfg := by simp [State.failTask]
@[simp] theorem State.freeStages_cfg : (s.freeStages d).cfg = s.cfg := (rfl)
@[simp] theorem State.bookAt_cfg : (s.bookAt h i f o).cfg = s.cfg := (rfl)
@[simp] theorem State.bookingPass_cfg : (s.bookingPass d).cfg = s.cfg := foldl_fst_cfg (fun a t => by (repeat' split) <;> simp) _ _
@[simp] theorem State.compactionPass_cfg : (s.compactionPass d).cfg = s.cfg := foldl_cfg (fun s b => by dsimp only; split <;> simp) _ _
@[simp] theorem State.unbook_cfg : (s.unbook f).cfg = s.cfg := (State.unbook_worked ..).cfg
@[simp] theorem State.freeBookings_cfg : (s.freeBookings d).cfg = s.cfg := (rfl)
@[simp] theorem State.freeRetired_cfg : (s.freeRetired d).cfg = s.cfg := by simp [State.freeRetired]
@[simp] theorem State.startTasks_cfg : (s.startTasks d).cfg = s.cfg := by simp [State.startTasks]
@[simp] theorem State.beginStandby_cfg : (s.beginStandby d).cfg = s.cfg := by simp [State.beginStandby]
@[simp] theorem State.retryStaging_cfg : (s.retryStaging d).cfg = s.cfg := by simp [State.retryStaging]
@[simp] theorem State.moduleBoundary_cfg : s.moduleBoundary.cfg = s.cfg := by simp [State.moduleBoundary]
@[simp] theorem State.preemptBoundary_cfg : (s.preemptBoundary x).cfg = s.cfg := by unfold State.preemptBoundary; split <;> simp
@[simp] theorem State.retryOverflows_cfg : (s.retryOverflows d).cfg = s.cfg := foldl_cfg (fun s f => by split <;> simp) _ _
@[simp] theorem State.coldSet_cfg : (s.coldSet d).cfg = s.cfg := by simp [State.coldSet]
@[simp] theorem State.boundaryPasses_cfg : (s.boundaryPasses d).cfg = s.cfg := by simp [State.boundaryPasses]

@[simp] theorem execOverrunCheck_cfg : (nextOr s (execOverrunCheck i s)).cfg = s.cfg := by
  unfold execOverrunCheck
  dsimp only
  (repeat' split) <;> simp

/-! ### Bands, power and the module state (Sys2Proof/Machine/Module.lean) -/

@[simp] theorem State.moveTo_cfg : (s.moveTo m c).cfg = s.cfg := (rfl)
@[simp] theorem State.enterDrain_cfg : (s.enterDrain c).cfg = s.cfg := by simp [State.enterDrain]
@[simp] theorem State.drainOver_cfg : s.drainOver.cfg = s.cfg := by simp [State.drainOver]
@[simp] theorem State.enterWarm_cfg : (s.enterWarm c).cfg = s.cfg := by simp [State.enterWarm]
@[simp] theorem State.bandStops_cfg : (s.bandStops d).cfg = s.cfg := (State.bandStops_worked ..).cfg
@[simp] theorem State.postBand_cfg : (s.postBand p).cfg = s.cfg := (State.postBand_worked ..).cfg
@[simp] theorem execTimingSetSwitch_cfg : (nextOr s (execTimingSetSwitch d s)).cfg = s.cfg := by simp [execTimingSetSwitch]
@[simp] theorem execPatrolScrub_cfg : (nextOr s (execPatrolScrub l s)).cfg = s.cfg := by simp [execPatrolScrub]
@[simp] theorem execBarrierTreeDisagree_cfg : (nextOr s (execBarrierTreeDisagree d a s)).cfg = s.cfg := by simp [execBarrierTreeDisagree]
@[simp] theorem execPowerSample_cfg : (nextOr s (execPowerSample s)).cfg = s.cfg := by unfold execPowerSample; dsimp only; split <;> simp
@[simp] theorem execCoolantLow_cfg : (nextOr s (execCoolantLow s)).cfg = s.cfg := by simp [execCoolantLow]
@[simp] theorem execSoakDone_cfg : (nextOr s (execSoakDone s)).cfg = s.cfg := by simp [execSoakDone]
@[simp] theorem State.portsUp_cfg : s.portsUp.cfg = s.cfg := by simp [State.portsUp]
@[simp] theorem execTrainingDone_cfg : (nextOr s (execTrainingDone o s)).cfg = s.cfg := by simp [execTrainingDone]
@[simp] theorem State.enterRun_cfg : (s.enterRun c).cfg = s.cfg := (rfl)
@[simp] theorem execLockDistributed_cfg : (nextOr s (execLockDistributed s)).cfg = s.cfg := by simp [execLockDistributed]
@[simp] theorem execDrainDone_cfg : (nextOr s (execDrainDone s)).cfg = s.cfg := by simp [execDrainDone]
@[simp] theorem State.scrubAll_cfg : s.scrubAll.cfg = s.cfg := by simp [State.scrubAll]
@[simp] theorem execParkExit_cfg : (nextOr s (execParkExit s)).cfg = s.cfg := by simp [execParkExit]

/-! ### The service cores (Sys2Proof/Machine/Service.lean) -/

@[simp] theorem State.reply_cfg : (s.reply c a).cfg = s.cfg := by simp [State.reply]
@[simp] theorem State.defer_cfg : (s.defer c).cfg = s.cfg := (rfl)

@[simp] theorem mailCommand_cfg (h : ∀ c, (f c s).cfg = s.cfg) : (nextOr s (mailCommand n b f k s)).cfg = s.cfg := by
  unfold mailCommand
  split
  · rfl
  · (repeat' split) <;> simp [h]

@[simp] theorem State.settle_cfg (h : (f s).cfg = s.cfg) : (s.settle c l f).cfg = s.cfg := by unfold State.settle; split <;> simp [h]
@[simp] theorem execFibreSetup_cfg : (nextOr s (execFibreSetup k s)).cfg = s.cfg := by simp [execFibreSetup]
@[simp] theorem execFibreTeardown_cfg : (nextOr s (execFibreTeardown k s)).cfg = s.cfg := by simp [execFibreTeardown]
@[simp] theorem execPagePool_cfg : (nextOr s (execPagePool k s)).cfg = s.cfg := by simp [execPagePool]
@[simp] theorem execRecordWrite_cfg : (nextOr s (execRecordWrite k s)).cfg = s.cfg := by simp [execRecordWrite]
@[simp] theorem execGpWrite_cfg : (nextOr s (execGpWrite k s)).cfg = s.cfg := by simp [execGpWrite]
@[simp] theorem execGo_cfg : (nextOr s (execGo k s)).cfg = s.cfg := mailCommand_cfg fun c => by dsimp only; (repeat' split) <;> simp
@[simp] theorem State.invalidate_cfg : (s.invalidate c x v w).cfg = s.cfg := (rfl)
@[simp] theorem execInvalidateByPage_cfg : (nextOr s (execInvalidateByPage k s)).cfg = s.cfg := by simp [execInvalidateByPage]
@[simp] theorem execInvalidateByTenant_cfg : (nextOr s (execInvalidateByTenant k s)).cfg = s.cfg := by simp [execInvalidateByTenant]
@[simp] theorem execPreEmpt_cfg : (nextOr s (execPreEmpt k s)).cfg = s.cfg := mailCommand_cfg fun c => by dsimp only; (repeat' split) <;> simp
@[simp] theorem State.askTeardown_cfg : (s.askTeardown x b).cfg = s.cfg := by unfold State.askTeardown; split <;> simp
@[simp] theorem execTeardown_cfg : (nextOr s (execTeardown k s)).cfg = s.cfg := by simp [execTeardown]
@[simp] theorem State.preDone_cfg : (s.preDone x a).cfg = s.cfg := by unfold State.preDone; dsimp only; split <;> simp
@[simp] theorem State.spillOp_cfg : (s.spillOp i o).cfg = s.cfg := by simp [State.spillOp]

@[simp] theorem State.getPage_cfg : (s.getPage p k).1.cfg = s.cfg := by
  unfold State.getPage
  split <;> simp [cfg_of_fst ‹_› State.touchLines_cfg]

@[simp] theorem State.freeRecords_cfg : (s.freeRecords x).cfg = s.cfg := by
  unfold State.freeRecords
  dsimp only
  rw [State.modCtx_cfg, foldl_cfg fun _ _ => State.freeStages_cfg, foldl_cfg fun _ _ => State.modDie_cfg ..,
    foldl_cfg fun _ _ => State.freeCont_cfg]

@[simp] theorem State.refill_cfg : (s.refill i j o p).cfg = s.cfg := by simp [State.refill]
@[simp] theorem State.redrain_cfg : (s.redrain i o).cfg = s.cfg := by unfold State.redrain; split <;> simp
@[simp] theorem State.moveRecords_cfg : (s.moveRecords x f).cfg = s.cfg := by simp [State.moveRecords]
@[simp] theorem execCompactionResume_cfg : (nextOr s (execCompactionResume k s)).cfg = s.cfg := by simp [execCompactionResume]
@[simp] theorem execLock_cfg : (nextOr s (execLock k s)).cfg = s.cfg := by simp [execLock]
@[simp] theorem execDrain_cfg : (nextOr s (execDrain k s)).cfg = s.cfg := mailCommand_cfg fun c => by split <;> simp
@[simp] theorem execShutdown_cfg : (nextOr s (execShutdown k s)).cfg = s.cfg := by simp [execShutdown]
@[simp] theorem execRingSetup_cfg : (nextOr s (execRingSetup k s)).cfg = s.cfg := mailCommand_cfg fun _ => State.settle_cfg rfl
@[simp] theorem execUnknownCommand_cfg : (nextOr s (execUnknownCommand k s)).cfg = s.cfg := by unfold execUnknownCommand; split <;> simp
@[simp] theorem State.modRing_cfg : (s.modRing x n r).cfg = s.cfg := (rfl)
@[simp] theorem execTailUpdate_cfg : (nextOr s (execTailUpdate x n s)).cfg = s.cfg := by simp [execTailUpdate]
@[simp] theorem execCoalescingTimer_cfg : (nextOr s (execCoalescingTimer x n s)).cfg = s.cfg := by simp [execCoalescingTimer]
@[simp] theorem State.goWrite_cfg : (s.goWrite k a w b).cfg = s.cfg := by simp [State.goWrite]
@[simp] theorem State.cxlRequest_cfg : (s.cxlRequest r p).cfg = s.cfg := (rfl)
@[simp] theorem State.undoDrain_cfg : (s.undoDrain k a).cfg = s.cfg := by simp [State.undoDrain]
@[simp] theorem State.unhold_cfg : (s.unhold x).cfg = s.cfg := (rfl)
@[simp] theorem State.undoDeath_cfg : (s.undoDeath x i k a w).cfg = s.cfg := by simp [State.undoDeath]
@[simp] theorem State.rebook_cfg : (s.rebook x).cfg = s.cfg := by simp [State.rebook]
@[simp] theorem execCxlSnoop_cfg : (nextOr s (execCxlSnoop p a s)).cfg = s.cfg := (rfl)
@[simp] theorem execErrstatRead_cfg : (nextOr s (execErrstatRead k s)).cfg = s.cfg := (rfl)
@[simp] theorem State.leaveTiles_cfg : (s.leaveTiles a).cfg = s.cfg := by simp [State.leaveTiles]
@[simp] theorem execContextAssign_cfg : (nextOr s (execContextAssign a s)).cfg = s.cfg := by simp [execContextAssign]
@[simp] theorem State.putFsctx_cfg : (s.putFsctx k v).cfg = s.cfg := (rfl)

/-! ### Debug and security (Sys2Proof/Machine/Security.lean) -/

@[simp] theorem execBootVerify_cfg : (nextOr s (execBootVerify s)).cfg = s.cfg := by simp [execBootVerify]
@[simp] theorem execHostImageLoad_cfg : (nextOr s (execHostImageLoad i s)).cfg = s.cfg := by simp [execHostImageLoad]
@[simp] theorem execFirmwareUpdate_cfg : (nextOr s (execFirmwareUpdate i s)).cfg = s.cfg := (rfl)
@[simp] theorem execPowerOn_cfg : (nextOr s (execPowerOn s)).cfg = s.cfg := by simp [execPowerOn]
@[simp] theorem execAttestationRequest_cfg : (nextOr s (execAttestationRequest x n s)).cfg = s.cfg := by simp [execAttestationRequest]
@[simp] theorem execSpdmSessionOpen_cfg : (nextOr s (execSpdmSessionOpen x s)).cfg = s.cfg := by simp [execSpdmSessionOpen]
@[simp] theorem State.clearIssued_cfg : (s.clearIssued x).cfg = s.cfg := by simp [State.clearIssued]

theorem State.debug_cfg (h : s.debug x c = some (v, t)) : t.cfg = s.cfg := by
  cases c <;> simp only [State.debug, Option.ite_none_right_eq_some, Option.map_eq_some_iff, Option.some.injEq, Prod.mk.injEq] at h
  case readField | readTask | readCont | readFrame | readFibre | readCell =>
    obtain ⟨-, -, rfl⟩ := h
    rfl
  case patchField | breakpoint =>
    obtain ⟨-, -, rfl⟩ := h
    simp
  case control =>
    obtain ⟨-, rfl⟩ := h
    simp
  case patchTask | patchCont | patchFrame | patchFibre | patchCell =>
    obtain ⟨-, _, -, -, rfl⟩ := h
    simp

@[simp] theorem execDebugCommand_cfg : (nextOr s (execDebugCommand x c s)).cfg = s.cfg := by
  unfold execDebugCommand
  split
  · simp
  · split
    · simp
    · simp [State.debug_cfg ‹_›]

@[simp] theorem execDebugResume_cfg : (nextOr s (execDebugResume x h a s)).cfg = s.cfg := by
  unfold execDebugResume
  dsimp only
  (repeat' split) <;> simp

@[simp] theorem execLockInterface_cfg : (nextOr s (execLockInterface x s)).cfg = s.cfg := by simp [execLockInterface]
@[simp] theorem execGetDeviceInterfaceReport_cfg : (nextOr s (execGetDeviceInterfaceReport x s)).cfg = s.cfg := (rfl)
@[simp] theorem execStartInterface_cfg : (nextOr s (execStartInterface x s)).cfg = s.cfg := by simp [execStartInterface]

@[simp] theorem execStopInterface_cfg : (nextOr s (execStopInterface x s)).cfg = s.cfg := by
  unfold execStopInterface
  dsimp only
  split <;> simp

/-! ### Selection words (Sys2Proof/Machine/Select.lean) -/

@[simp] theorem execVhist_cfg : (nextOr s (execVhist m d a s)).cfg = s.cfg := issueIf_cfg fun e => by dsimp only; (repeat' split) <;> simp
@[simp] theorem execVtopk_cfg : (nextOr s (execVtopk m d a s)).cfg = s.cfg := issueIf_cfg fun e => by dsimp only; split <;> simp
@[simp] theorem execVsamp_cfg : (nextOr s (execVsamp m d a s)).cfg = s.cfg := issue_cfg fun e => by dsimp only; split <;> simp

/-! ### System registers (Sys2Proof/Machine/System.lean) -/

@[simp] theorem Env.sysWrite_cfg : (e.sysWrite n v).cfg = e.s.cfg := by unfold Env.sysWrite; split <;> simp

@[simp] theorem execSyswr_cfg : (nextOr s (execSyswr m d i s)).cfg = s.cfg := by
  unfold execSyswr
  dsimp only
  split
  · split
    · rfl
    · rename_i e he
      split <;> simp [State.focus_cfg he]
  · exact issueIf_cfg fun e => by simp

/-! ### The plan of a cycle (Sys2Proof/Machine/Plan.lean) -/

@[simp] theorem State.put_cfg : (s.put l).cfg = s.cfg := (rfl)
@[simp] theorem State.planBoundary_cfg : s.planBoundary.cfg = s.cfg := (rfl)
@[simp] theorem State.failResidue_cfg : s.failResidue.cfg = s.cfg := by simp [State.failResidue]
@[simp] theorem State.takeJmpt_cfg : s.takeJmpt.cfg = s.cfg := foldl_cfg (fun s p => by (repeat' split) <;> simp) _ _
@[simp] theorem State.planPipes_cfg : s.planPipes.cfg = s.cfg := by simp [State.planPipes]
@[simp] theorem State.stopNow_cfg : s.stopNow.cfg = s.cfg := by simp [State.stopNow]
@[simp] theorem State.planIssues_cfg : s.planIssues.cfg = s.cfg := by simp [State.planIssues]
@[simp] theorem State.planAccesses_cfg : s.planAccesses.cfg = s.cfg := by simp [State.planAccesses]
@[simp] theorem State.planTasks_cfg : s.planTasks.cfg = s.cfg := by simp [State.planTasks]
@[simp] theorem State.forceHome_cfg : (s.forceHome k σ).cfg = s.cfg := by unfold State.forceHome; dsimp only; (repeat' split) <;> simp
@[simp] theorem State.forceRun_cfg : (s.forceRun i r).cfg = s.cfg := by simp [State.forceRun]
@[simp] theorem State.planStops_cfg : s.planStops.cfg = s.cfg := by simp [State.planStops]
@[simp] theorem State.planPhase_cfg : (s.planPhase n).cfg = s.cfg := by unfold State.planPhase; split <;> simp
@[simp] theorem State.cellError_cfg : (s.cellError d i).cfg = s.cfg := by simp [State.cellError]
@[simp] theorem State.recordError_cfg : (s.recordError d c i).cfg = s.cfg := (rfl)
@[simp] theorem State.treeFault_cfg : (s.treeFault d n b).cfg = s.cfg := (rfl)
@[simp] theorem State.lineError_cfg : (s.lineError l n).cfg = s.cfg := by simp [State.lineError]
@[simp] theorem State.remoteWindow_cfg : (s.remoteWindow m n k).cfg = s.cfg := (rfl)

/-! ### Translations, reads and writes -/

@[simp] theorem State.settleWrites_cfg : (s.settleWrites a).cfg = s.cfg := (State.settleWrites_only ..).cfg
@[simp] theorem State.sysPut_cfg : (s.sysPut p k a b).cfg = s.cfg := (State.sysPut_only ..).cfg

@[simp] theorem State.widen_cfg : (s.widen w).cfg = s.cfg := by
  unfold State.widen
  split
  · exact (State.foldWrite_only ..).cfg
  · rfl

@[simp] theorem State.translateLocal_cfg : (s.translateLocal x v k).1.cfg = s.cfg := (State.translateLocal_only ..).cfg
@[simp] theorem State.translate_cfg : (s.translate x v k).1.cfg = s.cfg := (State.translate_only ..).cfg
@[simp] theorem State.reachLine_cfg : (s.reachLine x v k).cfg = s.cfg := (State.reachLine_accessed ..).only.cfg
@[simp] theorem State.vaGet_cfg : (s.vaGet v x a n k).1.cfg = s.cfg := (State.vaGet_accessed ..).only.cfg
@[simp] theorem State.vaRead_cfg : (s.vaRead v x a n k).1.cfg = s.cfg := (State.vaRead_accessed ..).only.cfg
@[simp] theorem State.vaPut_cfg : (s.vaPut x a n v).1.cfg = s.cfg := (State.vaPut_accessed ..).only.cfg
@[simp] theorem State.vaWrite_cfg : (s.vaWrite x a n v).1.cfg = s.cfg := (State.vaWrite_accessed ..).only.cfg
@[simp] theorem State.vaReadMany_cfg : (s.vaReadMany v x a w k n).1.cfg = s.cfg := (State.vaReadMany_accessed ..).only.cfg

/-! ### Copies -/

@[simp] theorem State.rowParts_cfg : (s.rowParts d x b l q f n).1.cfg = s.cfg :=
  foldl_fst_cfg (fun a i => by dsimp only; split <;> exact cfg_of_fst ‹_› State.vaRead_cfg) ..

@[simp] theorem Env.copyParts_cfg : (e.copyParts c x).1.cfg = e.s.cfg := by
  cases c <;> simp [Env.copyParts]

@[simp] theorem Env.startCopy_cfg : (e.apply (e.startCopy c i d x)).cfg = e.s.cfg := by unfold Env.startCopy; split <;> simp
@[simp] theorem execCopy_cfg : (nextOr s (execCopy k f m c a s)).cfg = s.cfg := issue_cfg fun e => by dsimp only; (repeat' split) <;> simp

/-! ### The Sheaf's pages, frames and logs -/

@[simp] theorem State.takePage_cfg : (s.takePage d x).1.cfg = s.cfg := (State.takePage_accessed ..).only.cfg

@[simp] theorem State.takePages_cfg : (s.takePages d x n).1.cfg = s.cfg := by
  induction n generalizing s with
  | zero => rfl
  | succ n ih =>
    unfold State.takePages
    split
    · exact cfg_of_fst ‹_› State.takePage_cfg
    · rename_i g
      have h1 := cfg_of_fst g State.takePage_cfg
      split <;> exact (cfg_of_fst ‹_› ih).trans h1

@[simp] theorem State.returnPage_cfg : (s.returnPage d x p).cfg = s.cfg := (State.returnPage_accessed ..).only.cfg
@[simp] theorem State.returnPages_cfg : (s.returnPages d i).cfg = s.cfg := (State.returnPages_only ..).cfg
@[simp] theorem State.dropFrameRef_cfg : (s.dropFrameRef a).cfg = s.cfg := (State.dropFrameRef_only ..).cfg

@[simp] theorem State.settleFrame_cfg : (s.settleFrame a n).cfg = s.cfg := by
  induction n generalizing s a with
  | zero => rfl
  | succ n ih =>
    unfold State.settleFrame
    dsimp only
    split
    · rfl
    · (repeat' split) <;> simp [ih]

@[simp] theorem State.addFrameCount_cfg : (s.addFrameCount a d).cfg = s.cfg := by simp [State.addFrameCount]
@[simp] theorem State.popTop_cfg : (s.popTop f).cfg = s.cfg := by simp [State.popTop]
@[simp] theorem State.performFshare_cfg : (s.performFshare q a).1.cfg = s.cfg := by unfold State.performFshare; split <;> simp

@[simp] theorem State.performFdrop_cfg : (s.performFdrop q a).1.cfg = s.cfg := by
  unfold State.performFdrop
  dsimp only
  (repeat' split) <;> simp

@[simp] theorem State.performFpush_cfg : (s.performFpush q v d).1.cfg = s.cfg := by
  unfold State.performFpush
  dsimp only
  split
  · simp
  · split
    · rename_i g
      have h1 := cfg_of_fst g State.takePages_cfg
      simp only [answer, State.setFibre_cfg]
      rw [foldl_cfg fun s y => by simp]
      (repeat' split) <;> simp [h1]
    · simp

@[simp] theorem State.pageOf_cfg : (s.pageOf d x f q t).1.cfg = s.cfg := by simp [State.pageOf]
@[simp] theorem State.rowVa_cfg : (s.rowVa d x f q t).1.cfg = s.cfg := by unfold State.rowVa; split <;> exact cfg_of_fst ‹_› State.pageOf_cfg
@[simp] theorem State.logRead_cfg : (s.logRead d x f t).1.cfg = s.cfg := (State.logRead_accessed ..).only.cfg
@[simp] theorem State.logWrite_cfg : (s.logWrite x f t v).1.cfg = s.cfg := (State.logWrite_accessed ..).only.cfg

theorem State.takeRowPages_cfg (g : s.takeRowPages d x i c = some t) : t.cfg = s.cfg := by
  unfold State.takeRowPages at g
  dsimp only at g
  split at g <;> cases g
  rename_i g1
  simp [cfg_of_fst g1 State.takePages_cfg]

theorem State.takeRows_cfg (g : s.takeRows d x i c n = some t) : t.cfg = s.cfg := by
  induction n generalizing s c with
  | zero => cases g; rfl
  | succ n ih =>
    unfold State.takeRows at g
    split at g
    · cases g
    · rename_i g1
      refine (ih g).trans ?_
      split at g1
      · exact State.takeRowPages_cfg g1
      · cases g1; rfl

@[simp] theorem State.performFappend_cfg : (s.performFappend q a d).1.cfg = s.cfg := by
  unfold State.performFappend
  dsimp only
  split
  · simp
  · split
    · simp
    · rename_i g
      simp [State.takeRows_cfg g]

@[simp] theorem State.rowMoves_cfg : (s.rowMoves x b d k c n).1.cfg = s.cfg :=
  foldl_fst_cfg (fun a j => foldl_fst_cfg (fun a q => by
    split
    · exact cfg_of_fst ‹_› State.rowVa_cfg
    · rename_i g
      have h1 := cfg_of_fst g State.rowVa_cfg
      split <;> exact (cfg_of_fst ‹_› State.rowVa_cfg).trans h1) ..) ..

@[simp] theorem State.moveLogs_cfg : (s.moveLogs x a d k c n).cfg = s.cfg :=
  foldl_cfg (fun s j => by split <;> simp [cfg_of_fst ‹_› State.logRead_cfg]) ..

@[simp] theorem State.startFret_cfg : (s.startFret x a d k c n).cfg = s.cfg := by unfold State.startFret; dsimp only; split <;> simp
@[simp] theorem State.leaveCallee_cfg : (s.leaveCallee f a k n d r).1.cfg = s.cfg := by simp [State.leaveCallee]

@[simp] theorem State.performFret_cfg : (s.performFret q v d).1.cfg = s.cfg := by
  unfold State.performFret
  extract_lets x fb die top f ph p k n merge c
  split
  · simp
  · split
    · split
      · simp
      · rename_i g
        simp [State.takeRows_cfg g]
    · split
      · rename_i g
        have h1 := cfg_of_fst g State.takePages_cfg
        dsimp only
        split
        · rfl
        · simp [State.takeRows_cfg ‹_›, h1]
      · simp

@[simp] theorem State.performFinfo_cfg : (s.performFinfo q a b d).1.cfg = s.cfg := by
  unfold State.performFinfo
  dsimp only
  split
  · simp
  · split
    · simp
    · split <;> simp [cfg_of_fst ‹_› State.pageOf_cfg]
    · simp
    · simp

@[simp] theorem State.performBeammap_cfg : (s.performBeammap q v).1.cfg = s.cfg := by
  unfold State.performBeammap
  dsimp only
  (repeat' split) <;> simp

@[simp] theorem State.performPfxput_cfg : (s.performPfxput q n a b d).1.cfg = s.cfg := by
  unfold State.performPfxput
  extract_lets x named i e f k
  split
  · simp
  · rename_i y page w3 e' s1 s2 _ _
    have hy : y.1.cfg = s.cfg := by
      unfold y
      split <;> simp
    have h2 : s2.cfg = s.cfg := by
      unfold s2 s1
      split <;> simp [hy]
    simp only [answer]
    split <;> simp [h2]

@[simp] theorem State.performPfxpin_cfg : (s.performPfxpin q a d).1.cfg = s.cfg := by unfold State.performPfxpin; dsimp only; split <;> simp

@[simp] theorem State.performPfxunpin_cfg : (s.performPfxunpin q a).1.cfg = s.cfg := by
  unfold State.performPfxunpin
  dsimp only
  split <;> simp

@[simp] theorem State.perform_cfg : (s.perform q).1.cfg = s.cfg := by
  unfold State.perform
  split
  · simp
  · (repeat' split) <;> simp

/-! ### Events of the home units, the copies and the Sheaf -/

@[simp] theorem execHomeUnitPerform_cfg : (nextOr s (execHomeUnitPerform i s)).cfg = s.cfg := by
  unfold execHomeUnitPerform
  dsimp only
  (repeat' split) <;> simp

@[simp] theorem execPageWalk_cfg : (nextOr s (execPageWalk i j s)).cfg = s.cfg := by
  unfold execPageWalk
  split
  · rfl
  · split
    · rfl
    · split
      · simp
      · split
        · simp [cfg_of_fst ‹_› State.translate_cfg]
        · rename_i g
          have h1 := cfg_of_fst g State.translate_cfg
          (repeat' split) <;> simp [h1]

@[simp] theorem execVisibilityWiden_cfg : (nextOr s (execVisibilityWiden n s)).cfg = s.cfg := by
  unfold execVisibilityWiden
  split
  · rfl
  · split
    · exact State.widen_cfg
    · rfl

@[simp] theorem State.endOp_cfg : (s.endOp i o).cfg = s.cfg := by unfold State.endOp; dsimp only; split <;> simp
@[simp] theorem execCopyComplete_cfg : (nextOr s (execCopyComplete i s)).cfg = s.cfg := by unfold execCopyComplete; (repeat' split) <;> simp

@[simp] theorem execCancellationDone_cfg : (nextOr s (execCancellationDone i s)).cfg = s.cfg := by
  unfold execCancellationDone
  dsimp only
  (repeat' split) <;> simp

@[simp] theorem State.moveRow_cfg : (s.moveRow d x a b n).1.cfg = s.cfg := by
  induction n with
  | zero => rfl
  | succ n ih =>
    unfold State.moveRow
    split
    · exact cfg_of_fst ‹_› ih
    · rename_i g
      have h1 := cfg_of_fst g ih
      split
      · exact (cfg_of_fst ‹_› State.vaGet_cfg).trans h1
      · rename_i g2
        have h2 := (cfg_of_fst g2 State.vaGet_cfg).trans h1
        split <;> exact (cfg_of_fst ‹_› State.vaPut_cfg).trans h2

@[simp] theorem State.spendLine_cfg : (s.spendLine x v n k).cfg = s.cfg := by unfold State.spendLine; split <;> simp
@[simp] theorem State.moveLine_cfg : (s.moveLine d x a b).1.cfg = s.cfg := by unfold State.moveLine; dsimp only; split <;> simp
@[simp] theorem State.endFret_cfg : (s.endFret i j).cfg = s.cfg := by simp [State.endFret]

@[simp] theorem execFretRowMove_cfg : (nextOr s (execFretRowMove i s)).cfg = s.cfg := by
  unfold execFretRowMove
  dsimp only
  (repeat' split) <;> simp

@[simp] theorem State.readList_cfg : (s.readList d x f n).1.cfg = s.cfg := (State.readList_accessed ..).only.cfg

@[simp] theorem State.compactLine_cfg : (s.compactLine j a d).1.cfg = s.cfg := by
  unfold State.compactLine
  dsimp only
  split
  · exact cfg_of_fst ‹_› State.rowVa_cfg
  · rename_i g
    have h1 := cfg_of_fst g State.rowVa_cfg
    split <;> exact (cfg_of_fst ‹_› State.rowVa_cfg).trans h1

@[simp] theorem State.compactLog_cfg : (s.compactLog j a d).1.cfg = s.cfg := (State.compactLog_accessed ..).only.cfg

@[simp] theorem State.endCompaction_cfg : (s.endCompaction i j c).cfg = s.cfg := by
  unfold State.endCompaction
  simp only [State.meetCompaction_cfg, State.modFrame_cfg]
  rw [foldl_cfg fun s p => by simp]
  exact foldl_fst_cfg (fun a e => by split <;> simp [cfg_of_fst ‹_› State.vaRead_cfg]) ..

@[simp] theorem State.compactStep_cfg : (s.compactStep i j a d).cfg = s.cfg := by
  unfold State.compactStep
  dsimp only
  split
  · split
    · simp [cfg_of_fst ‹_› State.compactLine_cfg]
    · rename_i g
      have h1 := cfg_of_fst g State.compactLine_cfg
      split <;> simp [cfg_of_fst ‹_› State.moveLine_cfg, h1]
  · split <;> simp [cfg_of_fst ‹_› State.compactLog_cfg]

@[simp] theorem execCompactionRowMove_cfg : (nextOr s (execCompactionRowMove i s)).cfg = s.cfg := by
  unfold execCompactionRowMove
  dsimp only
  split
  · rfl
  · split
    · rfl
    · split
      · split
        · simp [cfg_of_fst ‹_› State.readList_cfg]
        · rename_i g
          split <;> simp [cfg_of_fst g State.readList_cfg]
      · split <;> simp

@[simp] theorem State.readPrompt_cfg : (s.readPrompt x v n).1.cfg = s.cfg := (State.readPrompt_accessed ..).only.cfg
@[simp] theorem State.logMatches_cfg : (s.logMatches x b c).1.cfg = s.cfg := (State.logMatches_accessed ..).only.cfg

@[simp] theorem State.findPrefix_cfg : (s.findPrefix j b c).1.cfg = s.cfg := by
  unfold State.findPrefix
  extract_lets es sorted
  clear_value sorted
  exact foldl_fst_cfg (fun a e => by
    split
    · rfl
    · split <;> exact cfg_of_fst ‹_› State.logMatches_cfg) ..

@[simp] theorem State.endLookup_cfg : (s.endLookup j v).cfg = s.cfg := by simp [State.endLookup]

@[simp] theorem execPrefixLookup_cfg : (nextOr s (execPrefixLookup i s)).cfg = s.cfg := by
  unfold execPrefixLookup
  split
  · rfl
  · dsimp only
    split <;> simp [cfg_of_fst ‹_› State.readPrompt_cfg]

@[simp] theorem execKvRebuildStart_cfg : (nextOr s (execKvRebuildStart i j s)).cfg = s.cfg := by
  unfold execKvRebuildStart
  split
  · rfl
  · split
    · split
      · rfl
      · dsimp only
        split
        · rename_i g
          have h1 := cfg_of_fst g State.vaRead_cfg
          split <;> simp [cfg_of_fst ‹_› State.takePage_cfg, h1]
        · rename_i g _
          simp [cfg_of_fst g State.vaRead_cfg]
    · rfl

@[simp] theorem State.giveFresh_cfg : (s.giveFresh j).cfg = s.cfg := by simp [State.giveFresh]

@[simp] theorem execKvRebuildDone_cfg : (nextOr s (execKvRebuildDone i s)).cfg = s.cfg := by
  unfold execKvRebuildDone
  dsimp only
  split
  · rfl
  · split
    · rfl
    · split
      · simp
      · split
        · simp [cfg_of_fst ‹_› State.vaRead_cfg]
        · rename_i g
          split <;> simp [cfg_of_fst g State.vaRead_cfg]

@[simp] theorem execInvalidationArrival_cfg : (nextOr s (execInvalidationArrival i c s)).cfg = s.cfg := by
  unfold execInvalidationArrival
  dsimp only
  (repeat' split) <;> simp

@[simp] theorem execStagingComplete_cfg : (nextOr s (execStagingComplete d n s)).cfg = s.cfg := by
  unfold execStagingComplete
  dsimp only
  split
  · rfl
  · split
    · rfl
    · split
      · rfl
      · split <;> simp [cfg_of_fst ‹_› State.vaReadMany_cfg]

/-! ### Parts of other modules (R236) -/

@[simp] theorem State.serveLine_cfg : (s.serveLine j k l).cfg = s.cfg := by
  unfold State.serveLine
  dsimp only
  split
  · simp [cfg_of_fst ‹_› State.touchLines_cfg]
  · split <;> simp [cfg_of_fst ‹_› State.touchLines_cfg]

@[simp] theorem State.stepRemote_cfg : (s.stepRemote j).cfg = s.cfg := by unfold State.stepRemote; (repeat' split) <;> simp

@[simp] theorem State.serveFor_cfg : (s.serveFor n).cfg = s.cfg := by
  induction n generalizing s with
  | zero => rfl
  | succ n ih =>
    unfold State.serveFor
    split
    · rfl
    · exact ih.trans State.stepRemote_cfg

@[simp] theorem State.serveHeld_cfg : s.serveHeld.cfg = s.cfg := by simp [State.serveHeld]
@[simp] theorem State.takeRemote_cfg : (s.takeRemote r).cfg = s.cfg := by simp [State.takeRemote]

@[simp] theorem execRemotePartArrival_cfg : (nextOr s (execRemotePartArrival r s)).cfg = s.cfg := by
  unfold execRemotePartArrival
  (repeat' split) <;> simp

@[simp] theorem State.restartBudgets_cfg : (s.restartBudgets d).cfg = s.cfg := by simp [State.restartBudgets]
@[simp] theorem execFurrowBoundary_cfg : (nextOr s (execFurrowBoundary d s)).cfg = s.cfg := by unfold execFurrowBoundary; split <;> simp

/-! ### Power and bands (R244–R253) -/

@[simp] theorem State.losePower_cfg : s.losePower.cfg = s.cfg := by simp [State.losePower]
@[simp] theorem State.followBand_cfg : (s.followBand d b w).cfg = s.cfg := by unfold State.followBand; dsimp only; (repeat' split) <;> simp
@[simp] theorem State.changeBand_cfg : (s.changeBand d b).cfg = s.cfg := by simp [State.changeBand]
@[simp] theorem execBandCoolHold_cfg : (nextOr s (execBandCoolHold d s)).cfg = s.cfg := by unfold execBandCoolHold; split <;> simp

/-! ### Spills, teardowns and resumptions (R220–R232) -/

@[simp] theorem State.spillPage_cfg : (s.spillPage x p w).1.cfg = s.cfg := by
  unfold State.spillPage
  split
  · exact cfg_of_fst ‹_› State.translateLocal_cfg
  · rename_i g
    have h1 := cfg_of_fst g State.translateLocal_cfg
    split
    · exact h1
    · split <;> exact (cfg_of_fst ‹_› State.place_cfg).trans h1

@[simp] theorem State.spillArea_cfg : (s.spillArea x).1.cfg = s.cfg :=
  foldl_fst_cfg (fun a p => by
    split
    · rfl
    · split <;> exact cfg_of_fst ‹_› State.spillPage_cfg) ..

@[simp] theorem State.putPage_cfg : (s.putPage p k c).cfg = s.cfg := (rfl)

@[simp] theorem State.spillCtx_cfg : (s.spillCtx x).cfg = s.cfg := by
  unfold State.spillCtx
  dsimp only
  split <;> simp [cfg_of_fst ‹_› State.spillArea_cfg]

@[simp] theorem State.dropCtx_cfg : (s.dropCtx x).cfg = s.cfg := by simp [State.dropCtx]
@[simp] theorem State.beginDeath_cfg : (s.beginDeath x).cfg = s.cfg := by simp [State.beginDeath]
@[simp] theorem State.endDeath_cfg : (s.endDeath x).cfg = s.cfg := by simp [State.endDeath]
@[simp] theorem execSpill_cfg : (nextOr s (execSpill x s)).cfg = s.cfg := by unfold execSpill; (repeat' split) <;> simp

@[simp] theorem State.readSpill_cfg : (s.readSpill x p k).1.cfg = s.cfg := by
  unfold State.readSpill
  split <;> simp [cfg_of_fst ‹_› State.spillPage_cfg]

@[simp] theorem State.readTile_cfg : (s.readTile x l).1.cfg = s.cfg := by
  unfold State.readTile
  extract_lets base y
  have hy : y.1.cfg = s.cfg := foldl_fst_cfg (fun a u => by
    split
    · rfl
    · split <;> exact cfg_of_fst ‹_› State.readSpill_cfg) ..
  clear_value y
  obtain ⟨s1, _ | us⟩ := y
  · exact hy
  · have h1 : s1.cfg = s.cfg := hy
    dsimp only
    split
    · exact (cfg_of_fst ‹_› State.readSpill_cfg).trans h1
    · rename_i g2
      have h2 := (cfg_of_fst g2 State.readSpill_cfg).trans h1
      split <;> exact (cfg_of_fst ‹_› State.readSpill_cfg).trans h2

@[simp] theorem State.restoreTiles_cfg : (s.restoreTiles x f).1.cfg = s.cfg :=
  foldl_fst_cfg (fun a l => by
    split
    · rfl
    · split <;> simp [cfg_of_fst ‹_› State.readTile_cfg]) ..

@[simp] theorem State.partsAgain_cfg : (s.partsAgain o).1.cfg = s.cfg := by unfold State.partsAgain; dsimp only; split <;> simp
@[simp] theorem State.reissue_cfg : (s.reissue i o f).cfg = s.cfg := by unfold State.reissue; dsimp only; split <;> simp
@[simp] theorem State.reissueAll_cfg : (s.reissueAll x f).cfg = s.cfg := by simp [State.reissueAll]

@[simp] theorem State.resumeCtx_cfg : (s.resumeCtx x).1.cfg = s.cfg := by
  unfold State.resumeCtx
  dsimp only
  split
  · rfl
  · simp [cfg_of_fst ‹_› State.restoreTiles_cfg]

/-! ### Commands of the service cores (R258, R259) -/

@[simp] theorem execResume_cfg : (nextOr s (execResume k s)).cfg = s.cfg :=
  mailCommand_cfg fun c => by
    split
    · split <;> simp [cfg_of_fst ‹_› State.resumeCtx_cfg]
    · split <;> simp
    · simp

@[simp] theorem execPoisonClear_cfg : (nextOr s (execPoisonClear k s)).cfg = s.cfg :=
  mailCommand_cfg fun c => State.settle_cfg (by dsimp only; split <;> simp)

@[simp] theorem State.giveUp_cfg : (s.giveUp k a).cfg = s.cfg := by
  unfold State.giveUp
  dsimp only
  rw [foldl_cfg fun s x => by (repeat' split) <;> simp]
  split <;> simp

@[simp] theorem execServiceWatchdog_cfg : (nextOr s (execServiceWatchdog k s)).cfg = s.cfg := by simp [execServiceWatchdog]

end Sys2Proof.Machine
end

section
/-!
Locked configuration, part 2: what a step may make of the locked configuration.  Three words can write it: CONFIGURATION_WRITE and
REGISTER_WRITE, which do so in CONFIG_OPEN only (R254), and SENSOR_SAMPLE, which may take the module to OFF (R252, log entry 42).
-/
namespace Sys2Proof.Machine
variable {s : State}

/-- The locked configuration stands, or a powered module has gone to OFF (R254). -/
def State.CfgKept (s t : State) : Prop := t.cfg = s.cfg ∨ (s.mstate ≠ .off ∧ t.mstate = .off)

/-- The same of samples, of which a tick may take several: besides, a module that is OFF stays so. -/
structure State.Sampled (s t : State) : Prop where
  kept : s.CfgKept t
  off : s.mstate = .off → t.mstate = .off

namespace State.Sampled

theorem of_eq {s t : State} (hc : t.cfg = s.cfg) (hm : t.mstate = s.mstate) : s.Sampled t := ⟨.inl hc, fun h => hm.trans h⟩

theorem refl (s : State) : s.Sampled s := of_eq rfl rfl

theorem trans {s t u : State} (h : s.Sampled t) (k : t.Sampled u) : s.Sampled u := by
  refine ⟨?_, fun hs => k.off (h.off hs)⟩
  obtain hc | ⟨hs, ht⟩ := h.kept
  · obtain kc | ⟨ht, hu⟩ := k.kept
    · exact .inl (kc.trans hc)
    · exact .inr ⟨fun hs => ht (h.off hs), hu⟩
  · exact .inr ⟨hs, k.off ht⟩

end State.Sampled

/-! ## Samples (R244, R245, R252) -/

theorem OnlyFar.mstate {s t : State} (h : OnlyFar s t) : t.mstate = s.mstate := (congrArg State.mstate h).trans rfl

/-- No change of a die's band takes the module out of OFF. -/
theorem State.followBand_off (h : s.mstate = .off) (d b : Nat) (warmer : Bool) : (s.followBand d b warmer).mstate = .off := by
  unfold State.followBand
  dsimp only
  split
  · rw [if_pos (.inl h), h]
  · have hv : (if warmer = true ∧ b = 2 then s.bandStops d else s).mstate = .off := (s.warmStops_worked d b warmer).mstate.trans h
    split <;> simp_all

theorem State.changeBand_sampled (s : State) (d b : Nat) : s.Sampled (s.changeBand d b) :=
  ⟨.inl (State.changeBand_cfg), fun h => by
    rw [State.changeBand_eq]
    exact State.followBand_off ((s.bandTold_worked d b).mstate.trans h) ..⟩

theorem State.sampleBand_sampled (s : State) (d : Nat) : s.Sampled (s.sampleBand d) := by
  have htaken : s.Sampled (s.sampleTaken d) := .of_eq rfl rfl
  unfold State.sampleBand
  dsimp only
  split
  · exact htaken.trans (State.changeBand_sampled ..)
  · exact htaken.trans (.of_eq rfl rfl)

/-- A transition that a sample brings about: only that of WARM to OFF touches the locked configuration. -/
theorem State.sampleMoves_sampled (s : State) : s.Sampled s.sampleMoves := by
  unfold State.sampleMoves
  split
  case h_1 h =>
    split
    · exact ⟨.inl rfl, by simp [h]⟩
    · exact .refl s
  case h_2 => exact .of_eq rfl rfl
  case h_3 h =>
    split
    · exact ⟨.inr ⟨by simp [h], rfl⟩, fun _ => rfl⟩
    · exact .refl s
  case h_4 => exact .refl s

theorem execSensorSample_sampled (d : Nat) (s : State) : s.Sampled (nextOr s (execSensorSample d s)) := by
  by_cases hd : 4 ≤ d ∨ (s.die d).sensors = []
  · rw [execSensorSample, if_pos hd]
    exact .refl s
  · obtain ⟨hd, hl⟩ := not_or.1 hd
    rw [show execSensorSample d s = .next (s.sampleBand d).sampleMoves from exec_sensorSample (not_le.1 hd) hl]
    exact (s.sampleBand_sampled d).trans (State.sampleMoves_sampled _)

theorem execPowerSample_mstate (s : State) : (nextOr s (execPowerSample s)).mstate = s.mstate := by
  unfold execPowerSample
  dsimp only
  split <;> rfl

theorem State.sample_sampled (s : State) : s.Sampled s.sample :=
  (foldl_rel .refl .trans (fun s d => execSensorSample_sampled d s) (List.range 4) s).trans
    (.of_eq execPowerSample_cfg (execPowerSample_mstate _))

theorem State.scrubAll_mstate (s : State) : s.scrubAll.mstate = s.mstate :=
  (foldl_rel (R := OnlyFar) .refl .trans (fun s l => s.tierTouch_only (64 * l)) s.scrubLines s).mstate

theorem State.tick_sampled (s : State) : s.Sampled s.tick := by
  unfold State.tick
  extract_lets time sampled scrubbed u v w
  have hv : s.Sampled v := by
    have hu : s.Sampled u := .of_eq rfl rfl
    unfold v
    split
    · exact hu.trans u.sample_sampled
    · exact hu
  have hw : s.Sampled w := by
    unfold w
    split
    · exact hv.trans (.of_eq State.scrubAll_cfg v.scrubAll_mstate)
    · exact hv
  split
  · exact hw.trans (.of_eq rfl rfl)
  · exact hw

/-! ## Writes of the locked configuration (R254) -/

/-- Where there is no next state, any state may stand for it. -/
theorem nextOr_cfg {u : State} {r : Result} (h : (nextOr u r).cfg = s.cfg) : (nextOr s r).cfg = s.cfg := by
  cases r with
  | next t => exact h
  | fault x => rfl
  | refused x => rfl

section
variable (h : s.mstate ≠ .configOpen)
include h

theorem execConfigurationWrite_cfg (k : Nat) : (nextOr s (execConfigurationWrite k s)).cfg = s.cfg :=
  mailCommand_cfg fun c => by rw [if_pos h]; simp

theorem State.performCommand_cfg (k : Nat) : (nextOr s (s.performCommand k)).cfg = s.cfg := by
  unfold State.performCommand
  split <;> simp [execConfigurationWrite_cfg h]

theorem execRegisterWrite_cfg (w : RegWrite) : (nextOr s (execRegisterWrite w s)).cfg = s.cfg := by
  cases w <;> simp [execRegisterWrite, h]

theorem execHostRequestPerform_cfg (k : Nat) : (nextOr s (execHostRequestPerform k s)).cfg = s.cfg := by
  unfold execHostRequestPerform
  split
  · rfl
  · dsimp only
    split
    · exact nextOr_cfg (State.performCommand_cfg (by exact h) k)
    · split
      · simp
      · split <;> simp [cfg_of_fst ‹_› State.touchLines_cfg]
    · split
      · simp
      · split <;> simp [cfg_of_fst ‹_› State.touchLines_cfg]

/-! ## The rows of the opcode table -/

/-- No row but SENSOR_SAMPLE changes the locked configuration: the words whose meaning is one of the shared shapes unfold to it, and every
other word and event has its own lemma above. -/
theorem exec_cfg (i : Instr) : (nextOr s (exec i s)).cfg = s.cfg ∨ ∃ d, i = .sensorSample d := by
  unfold exec
  split <;> simp [execConfigurationWrite_cfg h, execRegisterWrite_cfg h, execHostRequestPerform_cfg h,
    execXimm, execXreg, execPage, execMemq, execNfmt, execGuard, execEndStrand, execBr, execJmp, execCall, execRet, execJmpr,
    execLoop, execPusho, execAwait, execChain, execTrap, execFence, execMov, execMovi, execLdc, execAdd, execSub, execAddi, execMul,
    execMulh, execMadd, execDiv, execRem, execAnd, execOr, execXor, execAndi, execShl, execShr, execSra, execShli, execShri, execSrai,
    execRotl, execMin, execMax, execMinu, execMaxu, execClz, execPopc, execExt, execIns, execCmpeq, execCmpne, execCmplt, execCmple,
    execCmpltu, execCmpleu, execPlog, execPset, execPget, execPput, execLdb, execLdh, execLdw, execLdd, execStb, execSth, execStw,
    execStd, execStv, execWst, execWstat, execCpy, execCpyw, execCpym, execLndset, execFst, execCstat, execCmov, execVadd, execVsub,
    execVmul, execVfma, execVmax, execVmin, execVcmp, execVsel, execVlogic, execVshift, execVcvt, execVred, execVscan, execVperm,
    execVbcast, execVext, execViota, execVexp2, execVrcp, execVfkey, execMzero, execMma, execMmas, execMdrain, execAttnfin, execQrot,
    execFadd, execFsub, execFmul, execFma, execFdiv, execFsqrt, execFmin, execFmax, execFcmpeq, execFcmplt, execFcmple, execFcvt,
    execFclass, execDivu, execRemu, execVrsqrt, execQstat, execWaitb, execGatom, execGcas, execGred, execFutw, execFutr, execSalloc,
    execSfree, execSignal, execTclaim, execTpatch, execTarm, execBook, execCalq, execUnlease, execGparam, execGpset, execTfree,
    execFpush, execFret, execFshare, execFdrop, execFappend, execFcompact, execFinfo, execBeammap, execPfxlook, execPfxput, execPfxpin,
    execPfxunpin, execBhash, execCpyf, execSysrd, execRett, execXprobe]

theorem exec_kept (i : Instr) : s.CfgKept (nextOr s (exec i s)) := by
  obtain hc | ⟨d, rfl⟩ := exec_cfg h i
  · exact .inl hc
  · exact (execSensorSample_sampled d s).kept
end

/-! ## One step -/

theorem State.CfgKept.refl (s : State) : s.CfgKept s := .inl rfl

/-- What a result keeps of a state with the same configuration and module state. -/
theorem State.CfgKept.nextOr {u : State} {r : Result} (h : u.CfgKept (nextOr u r)) (hc : u.cfg = s.cfg := by rfl)
    (hm : u.mstate = s.mstate := by rfl) : s.CfgKept (nextOr s r) := by
  cases r with
  | next t => exact h.imp (·.trans hc) (And.imp_left (hm ▸ ·))
  | fault x => exact .refl s
  | refused x => exact .refl s

/-- The focus that a word leaves touches neither the configuration nor the module state. -/
theorem andThen_kept {r : Result} {f : State → State} (hc : ∀ t, (f t).cfg = t.cfg) (hm : ∀ t, (f t).mstate = t.mstate)
    (h : s.CfgKept (nextOr s r)) : s.CfgKept (nextOr s (andThen r f)) := by
  cases r with
  | next t => exact h.imp (hc t).trans fun ⟨hs, ht⟩ => ⟨hs, (hm t).trans ht⟩
  | fault x => exact .refl s
  | refused x => exact .refl s

/-- What goes before every choice leaves the locked configuration alone. -/
theorem State.urgent_cfg {r : Result} (hr : r ∈ s.urgent) : (nextOr s r).cfg = s.cfg := by
  simp only [State.urgent, List.mem_append, List.mem_map, List.mem_flatMap] at hr
  obtain ((((⟨d, -, rfl⟩ | ⟨p, -, rfl⟩) | hl) | ⟨t, -, rfl⟩) | ⟨out, -, p, -, rfl⟩) | ⟨o, -, ho⟩ := hr
  · simp
  · simp
  · split at hl <;> simp_all
  · simp
  · simp
  · split at ho
    · simp at ho
    · obtain ⟨p, -, rfl⟩ := List.mem_map.1 ho
      simp

section
variable (h : s.mstate ≠ .configOpen)
include h

theorem State.runWord_kept (k : Nat) (σ : Side) (r : Run) : s.CfgKept (nextOr s (s.runWord k σ r)) := by
  unfold State.runWord
  dsimp only
  split
  · exact .nextOr (exec_kept (s := { s with who := some (k, σ) }) h _)
  · split
    · exact .inl (by simp [State.focus_cfg ‹_›])
    · exact .refl s

theorem State.issueTurn_kept (k : Nat) (σ : Side) : s.CfgKept (nextOr s (s.issueTurn k σ)) := by
  unfold State.issueTurn
  split
  · exact .refl s
  · split
    · exact .refl s
    · dsimp only
      split
      · exact .inl (by split <;> simp)
      · exact andThen_kept (fun _ => rfl) (fun _ => rfl) (State.runWord_kept h ..)

theorem State.turn_kept (x : Turn) : s.CfgKept (nextOr s (s.turn x)) := by
  cases x with
  | ev i => exact exec_kept h i
  | issue k σ => exact State.issueTurn_kept h k σ
  | mx k => exact .inl (by simp [State.turn])
  | plan n => exact .inl (by simp [State.turn])

theorem State.takeMove_kept (m : Option Instr) (l : List (Option Instr × Nat)) : s.CfgKept (nextOr s (s.takeMove m l)) := by
  unfold State.takeMove
  cases m with
  | some i => exact .nextOr (exec_kept (by exact h) i)
  | none => exact .nextOr (r := .next _) (State.tick_sampled _).kept

theorem State.background_kept : s.CfgKept (nextOr s s.background) := by
  unfold State.background
  split
  next hr => exact .inl (State.urgent_cfg (hr ▸ List.mem_cons_self))
  · dsimp only
    split
    · exact .nextOr (r := .next _) (State.tick_sampled _).kept
    · exact State.takeMove_kept h ..

theorem State.applyInput_kept (x : Input) : s.CfgKept (nextOr s (s.applyInput x)) := by
  cases x with
  | event i => exact exec_kept h i
  | request core r => cases r <;> exact .inl (by simp [State.applyInput])
  | _ => exact .inl (by simp [State.applyInput, State.remoteWrite])

theorem State.advance_kept : s.CfgKept (nextOr s s.advance) := by
  unfold State.advance
  split
  · exact .nextOr (State.applyInput_kept (by exact h) _)
  · split
    · exact .nextOr (State.turn_kept (by exact h) _)
    · exact State.background_kept h
end

end Sys2Proof.Machine

namespace Sys2Proof.Proofs
open Sys2Proof.Machine

/-- Settles O59: every row of the opcode table but three leaves the locked configuration alone; of those, two write it in CONFIG_OPEN only,
and a sample changes it only where it powers the module off. -/
theorem lockedConfigurationStays : Obligations.LockedConfigurationStays := by
  intro s t h hs
  have ht := State.advance_kept h
  rwa [show s.advance = .next t from hs] at ht

end Sys2Proof.Proofs
end

section
/-!
Reset: every context and every tile of the module as reset leaves it.
-/
namespace Sys2Proof.Machine

/-- A register file that holds its default value everywhere reads as that value at every number, those beyond its end too. -/
theorem getD_replicate {α : Type} (n i : Nat) (x : α) : (Vector.replicate n x)[i]?.getD x = x := by
  rw [Vector.getElem?_replicate]
  split <;> rfl

theorem State.reset_ctx (x : Nat) : State.reset.ctx x = Ctx.reset := getD_replicate 16 x Ctx.reset

theorem State.reset_tile (k : Nat) : State.reset.tile k = Tile.reset := rfl

theorem Tile.reset_cget (c : Nat) : Tile.reset.cget c = 0#64 := getD_replicate 8 c 0#64

end Sys2Proof.Machine

namespace Sys2Proof.Proofs
open Sys2Proof.Machine

/-- Settles O53: the module's own registers as they stand, those of a context and of a tile by what reset makes of every one of them. -/
theorem resetValues : Obligations.ResetValues := by
  refine ⟨rfl, rfl, rfl, rfl, rfl, rfl, fun x => ?_, fun k c => ?_⟩
  · rw [State.reset_ctx]
    exact ⟨rfl, rfl, rfl, rfl, rfl⟩
  · rw [State.reset_tile]
    exact ⟨rfl, Tile.reset_cget c, rfl⟩

end Sys2Proof.Proofs
end

section
/-!
Encodings (R271, R273–R281, R310): decoding gives back what was encoded, and the words that the spec writes out.
-/
namespace Sys2Proof.Proofs
open Sys2Proof.Laws

/-- Settles O50: each instruction word by its own law of encoding; for an event no word is written. -/
theorem decodeEncode : Obligations.DecodeEncode := by
  intro i
  change Encoding.Statement i
  cases i with
  | ximm => exact Encoding.ximm _ | xreg => exact Encoding.xreg _ _ _ | page => exact Encoding.page _ | memq => exact Encoding.memq _ _ _
  | nfmt => exact Encoding.nfmt _ _ | guard => exact Encoding.guard _ _ | nop => exact Encoding.nop _
  | endStrand => exact Encoding.endStrand _ | br => exact Encoding.br _ _ _ _ | jmp => exact Encoding.jmp _ _
  | call => exact Encoding.call _ _ | ret => exact Encoding.ret _ | jmpr => exact Encoding.jmpr _ _ | jmpt => exact Encoding.jmpt _ _ _
  | loop => exact Encoding.loop _ _ _ | brq => exact Encoding.brq _ _ _ | pusho => exact Encoding.pusho _ _
  | await => exact Encoding.await _ _ _ | chain => exact Encoding.chain _ _ | trap => exact Encoding.trap _ _
  | restartpt => exact Encoding.restartpt _ _ | fence => exact Encoding.fence _ _ | mov => exact Encoding.mov _ _ _
  | movi => exact Encoding.movi _ _ _ | ldc => exact Encoding.ldc _ _ _ | add => exact Encoding.add _ _ _ | sub => exact Encoding.sub _ _ _
  | addi => exact Encoding.addi _ _ _ | mul => exact Encoding.mul _ _ _ | mulh => exact Encoding.mulh _ _ _
  | madd => exact Encoding.madd _ _ _ | div => exact Encoding.div _ _ _ | rem => exact Encoding.rem _ _ _ | and => exact Encoding.and _ _ _
  | or => exact Encoding.or _ _ _ | xor => exact Encoding.xor _ _ _ | andi => exact Encoding.andi _ _ _ | shl => exact Encoding.shl _ _ _
  | shr => exact Encoding.shr _ _ _ | sra => exact Encoding.sra _ _ _ | shli => exact Encoding.shli _ _ _
  | shri => exact Encoding.shri _ _ _ | srai => exact Encoding.srai _ _ _ | rotl => exact Encoding.rotl _ _ _
  | min => exact Encoding.min _ _ _ | max => exact Encoding.max _ _ _ | minu => exact Encoding.minu _ _ _
  | maxu => exact Encoding.maxu _ _ _ | clz => exact Encoding.clz _ _ _ | popc => exact Encoding.popc _ _ _
  | ext => exact Encoding.ext _ _ _ | ins => exact Encoding.ins _ _ _ | cmpeq => exact Encoding.cmpeq _ _ _
  | cmpne => exact Encoding.cmpne _ _ _ | cmplt => exact Encoding.cmplt _ _ _ | cmple => exact Encoding.cmple _ _ _
  | cmpltu => exact Encoding.cmpltu _ _ _ | cmpleu => exact Encoding.cmpleu _ _ _ | plog => exact Encoding.plog _ _ _ _
  | pset => exact Encoding.pset _ _ _ | pget => exact Encoding.pget _ _ | pput => exact Encoding.pput _ _ | ldb => exact Encoding.ldb _ _ _
  | ldh => exact Encoding.ldh _ _ _ | ldw => exact Encoding.ldw _ _ _ | ldd => exact Encoding.ldd _ _ _ | ldv => exact Encoding.ldv _ _ _
  | stb => exact Encoding.stb _ _ _ | sth => exact Encoding.sth _ _ _ | stw => exact Encoding.stw _ _ _ | std => exact Encoding.std _ _ _
  | stv => exact Encoding.stv _ _ _ | wld => exact Encoding.wld _ _ _ _ | wst => exact Encoding.wst _ _ _
  | wset => exact Encoding.wset _ _ _ | wfeed => exact Encoding.wfeed _ _ _ _ | zerof => exact Encoding.zerof _ _ _
  | wstat => exact Encoding.wstat _ _ _ | cpy => exact Encoding.cpy _ _ _ | cpyw => exact Encoding.cpyw _ _ _
  | cpym => exact Encoding.cpym _ _ _ | cpyx => exact Encoding.cpyx _ _ | hwalk => exact Encoding.hwalk _ _ _
  | hpermit => exact Encoding.hpermit _ _ _ | lndset => exact Encoding.lndset _ _ _ | fld => exact Encoding.fld _ _ _
  | fst => exact Encoding.fst _ _ _ | cstat => exact Encoding.cstat _ _ | cmov => exact Encoding.cmov _ _ _
  | lease => exact Encoding.lease _ _ _ | vadd => exact Encoding.vadd _ _ _ | vsub => exact Encoding.vsub _ _ _
  | vmul => exact Encoding.vmul _ _ _ | vfma => exact Encoding.vfma _ _ _ | vmax => exact Encoding.vmax _ _ _
  | vmin => exact Encoding.vmin _ _ _ | vcmp => exact Encoding.vcmp _ _ _ | vsel => exact Encoding.vsel _ _ _
  | vlogic => exact Encoding.vlogic _ _ _ | vshift => exact Encoding.vshift _ _ _ | vcvt => exact Encoding.vcvt _ _ _
  | vred => exact Encoding.vred _ _ _ | vscan => exact Encoding.vscan _ _ _ | vperm => exact Encoding.vperm _ _ _
  | vbcast => exact Encoding.vbcast _ _ _ | vext => exact Encoding.vext _ _ _ | viota => exact Encoding.viota _ _
  | vexp2 => exact Encoding.vexp2 _ _ _ | vrcp => exact Encoding.vrcp _ _ _ | vfkey => exact Encoding.vfkey _ _ _
  | mzero => exact Encoding.mzero _ _ | mma => exact Encoding.mma _ _ _ | mmas => exact Encoding.mmas _ _ _
  | mdrain => exact Encoding.mdrain _ _ _ | cbload => exact Encoding.cbload _ _ _ | attn => exact Encoding.attn _ _ _
  | attnfin => exact Encoding.attnfin _ _ _ | qrot => exact Encoding.qrot _ _ _ | fadd => exact Encoding.fadd _ _ _
  | fsub => exact Encoding.fsub _ _ _ | fmul => exact Encoding.fmul _ _ _ | fma => exact Encoding.fma _ _ _
  | fdiv => exact Encoding.fdiv _ _ _ | fsqrt => exact Encoding.fsqrt _ _ _ | fmin => exact Encoding.fmin _ _ _
  | fmax => exact Encoding.fmax _ _ _ | fcmpeq => exact Encoding.fcmpeq _ _ _ | fcmplt => exact Encoding.fcmplt _ _ _
  | fcmple => exact Encoding.fcmple _ _ _ | fcvt => exact Encoding.fcvt _ _ _ | fclass => exact Encoding.fclass _ _ _
  | divu => exact Encoding.divu _ _ _ | remu => exact Encoding.remu _ _ _ | vrsqrt => exact Encoding.vrsqrt _ _ _
  | vhist => exact Encoding.vhist _ _ _ | vtopk => exact Encoding.vtopk _ _ _ | vsamp => exact Encoding.vsamp _ _ _
  | qstat => exact Encoding.qstat _ _ | arrive => exact Encoding.arrive _ | waitb => exact Encoding.waitb _
  | gatom => exact Encoding.gatom _ _ _ | gcas => exact Encoding.gcas _ _ _ | gred => exact Encoding.gred _ _ _
  | futw => exact Encoding.futw _ _ _ | futr => exact Encoding.futr _ _ _ | salloc => exact Encoding.salloc _ _ _
  | sfree => exact Encoding.sfree _ _ | signal => exact Encoding.signal _ _ | tclaim => exact Encoding.tclaim _ _ _
  | tpatch => exact Encoding.tpatch _ _ _ | tarm => exact Encoding.tarm _ _ | book => exact Encoding.book _ _ _
  | calq => exact Encoding.calq _ _ _ | unlease => exact Encoding.unlease _ _ _ | gparam => exact Encoding.gparam _ _ _
  | gpset => exact Encoding.gpset _ _ _ | tfree => exact Encoding.tfree _ _ | fpush => exact Encoding.fpush _ _ _
  | fret => exact Encoding.fret _ _ _ | fshare => exact Encoding.fshare _ _ | fdrop => exact Encoding.fdrop _ _
  | fappend => exact Encoding.fappend _ _ _ | fcompact => exact Encoding.fcompact _ _ _ | finfo => exact Encoding.finfo _ _ _
  | beammap => exact Encoding.beammap _ _ | pfxlook => exact Encoding.pfxlook _ _ | pfxput => exact Encoding.pfxput _ _ _
  | pfxpin => exact Encoding.pfxpin _ _ _ | pfxunpin => exact Encoding.pfxunpin _ _ | bhash => exact Encoding.bhash _ _ _
  | cpyf => exact Encoding.cpyf _ _ _ | sysrd => exact Encoding.sysrd _ _ _ | syswr => exact Encoding.syswr _ _ _
  | rett => exact Encoding.rett _ _ _ | xprobe => exact Encoding.xprobe _ _ _
  | _ => exact Encoding.of_words_nil _ rfl

/-- Settles O51: the decoder evaluates each of the words. -/
theorem decodeWords : Obligations.DecodeWords :=
  ⟨rfl, rfl, rfl, rfl, rfl, rfl, rfl, rfl, rfl, rfl, rfl, rfl, rfl, rfl, rfl, rfl, rfl, rfl⟩

end Sys2Proof.Proofs
end

section
/-!
Integer words (R326–R333): arithmetic, moves, immediates, literals and bit fields.
-/
namespace Sys2Proof.Machine

/-! ## Arithmetic on words (R328, R331) -/

/-- A product modulo 2^64 is that of the signed numbers. -/
theorem mul_eq_ofInt (x y : Word) : x * y = BitVec.ofInt 64 (x.toInt * y.toInt) := by
  rw [BitVec.ofInt_mul, BitVec.ofInt_toInt, BitVec.ofInt_toInt]

/-- The upper half of a product of 128 bits is its quotient by 2^64. -/
theorem mulHigh_eq_ofInt (x y : Word) : mulHigh x y = BitVec.ofInt 64 (x.toInt * y.toInt / 2 ^ 64) := by
  apply BitVec.eq_of_toNat_eq
  rw [mulHigh, BitVec.extractLsb'_toNat, BitVec.toNat_ofInt, BitVec.toNat_ofInt, Nat.shiftRight_eq_div_pow]
  generalize x.toInt * y.toInt = p
  omega

theorem divUnsigned_eq_ofNat (x y : Word) :
    divUnsigned x y = if y = 0#64 then BitVec.allOnes 64 else BitVec.ofNat 64 (x.toNat / y.toNat) := by
  rw [divUnsigned, ← BitVec.toNat_udiv, BitVec.ofNat_toNat, BitVec.setWidth_eq]

theorem remUnsigned_eq_ofNat (x y : Word) : remUnsigned x y = if y = 0#64 then x else BitVec.ofNat 64 (x.toNat % y.toNat) := by
  rw [remUnsigned, ← BitVec.toNat_umod, BitVec.ofNat_toNat, BitVec.setWidth_eq]

/-! ## Words of one shape -/

section
variable {e : Env} {m : Bool} {f : Form} {d a : BitVec 4} (h : e.s.focus = some e)
include h

section
variable (hr : e.runs m f false [tS (dNum e.pl d), tS (dSources e.pl d a).1, tS (dSources e.pl d a).2] = true)
include hr

theorem binShort_writes (op : Word → Word → Word) : binShort m f d a op e.s =
    .next (e.wrote (·.sset (dNum e.pl d) (op (e.r.sget (dSources e.pl d a).1) (e.r.sget (dSources e.pl d a).2)))) :=
  issue_runs h hr

theorem binLater_posts (lat : Nat) (op : Word → Word → Word) : binLater m f lat d a op e.s =
    .next (e.posted lat (.s (dNum e.pl d) (op (e.r.sget (dSources e.pl d a).1) (e.r.sget (dSources e.pl d a).2))) 0#5) :=
  issue_runs h hr

end

theorem unaShort_writes (hr : e.runs m formD2 false [tS (dNum e.pl d), tS (aNum e.pl a)] = true) (op : Word → Word) :
    unaShort m d a op e.s = .next (e.wrote (·.sset (dNum e.pl d) (op (e.r.sget (aNum e.pl a))))) :=
  issue_runs h hr

theorem immShort_writes (hr : e.runs m f false [tS (dNum e.pl d)] = true) (imm : BitVec 128 → Word) (op : Word → Word → Word) :
    immShort m f d imm op e.s = .next (e.wrote (·.sset (dNum e.pl d) (op (e.r.sget (dNum e.pl d)) (imm e.pl)))) :=
  issue_runs h hr

end

/-- A shift by an immediate takes bits [5:0] of it (R328, R329). -/
theorem amount_w64 (n : Nat) : amount (w64 n) = n % 2 ^ 64 % 64 := by rw [amount, w64, BitVec.toNat_ofNat]

end Sys2Proof.Machine

namespace Sys2Proof.Proofs
open Sys2Proof.Machine

theorem shortIntegers_holds : Sys2Proof.shortIntegers := by
  intro s e m d a h hr x y k to_
  obtain ⟨rfl, -⟩ := State.focus_some h
  simp only [exec, execAdd, execSub, execAnd, execOr, execXor, execShl, execShr, execSra, execRotl, execMin, execMax, execMinu, execMaxu,
    binShort_writes h hr, amount, BitVec.slt_eq_decide, BitVec.ult_eq_decide, decide_eq_true_eq]
  exact ⟨rfl, rfl, rfl, rfl, rfl, rfl, rfl, rfl, rfl, rfl, rfl, rfl, rfl⟩

theorem productsAndQuotients_holds : Sys2Proof.productsAndQuotients := by
  intro s e m d a h u x y at_
  obtain ⟨rfl, -⟩ := State.focus_some h
  refine ⟨fun hr => ?_, fun hr => ?_⟩
  · simp only [exec, execMul, execMulh, execDiv, execRem, binLater_posts h hr, mul_eq_ofInt, mulHigh_eq_ofInt, divSigned, remSigned]
    exact ⟨rfl, rfl, rfl, rfl⟩
  · simp only [exec, execDivu, execRemu, binLater_posts h hr, divUnsigned_eq_ofNat, remUnsigned_eq_ofNat]
    exact ⟨rfl, rfl⟩

/-- Settles O5: each instruction is its operation on the words, as a short or a later result. -/
theorem integerResults : Obligations.IntegerResults := ⟨shortIntegers_holds, productsAndQuotients_holds⟩

theorem registerMoves_holds : Sys2Proof.registerMoves := by
  intro s e m d a imm h i k z x y to_
  obtain ⟨rfl, -⟩ := State.focus_some h
  refine ⟨fun hr => ?_, fun hr => ?_, fun hr => ?_, fun hr => ⟨issue_runs h hr, fun hfits => ?_, fun hlong => ?_⟩⟩
  · simp only [exec, execClz, execPopc, unaShort_writes h hr]
    exact ⟨issue_runs h hr, rfl, rfl⟩
  · simp only [exec, execAddi, execAndi, immShort_writes h hr]
    exact ⟨issue_runs h hr, rfl, rfl⟩
  · simp only [exec, execShli, execShri, execSrai, immShort_writes h hr, amount_w64]
    exact ⟨rfl, rfl, rfl⟩
  · have fits := hfits.not_gt
    exact ⟨(issue_runs h hr).trans (by rw [if_neg fits]; rfl), (issue_runs h hr).trans (by rw [if_neg fits]; rfl)⟩
  · exact ⟨(issue_runs h hr).trans (by rw [if_pos hlong, Env.apply_trap]), (issue_runs h hr).trans (by rw [if_pos hlong, Env.apply_trap])⟩

theorem literalLoads_holds : Sys2Proof.literalLoads := by
  intro s e m d imm h hr la
  obtain ⟨rfl, -⟩ := State.focus_some h
  have run : exec (.ldc m d imm) e.s = .next (e.apply
      (if la % 8 != 0 then .trap (trip codeIllegal) e.now
      else if !e.run.inCode la 8 then .trap (tripAt codeCodeRange la) e.now
      else e.later 3 (.s (dNum e.pl d) (e.t.code64 la)))) := issue_runs h hr
  refine ⟨fun halign hlo hhi => ?_, fun halign => ?_, fun halign hout => ?_⟩ <;> rw [run]
  · simp only [halign, Run.inCode, hlo, hhi, bne_self_eq_false, decide_true, Bool.and_self, Bool.not_true, Bool.false_eq_true, if_false,
      Env.sentLater]
  · simp only [bne_iff_ne.2 halign, if_true, Env.apply_trap]
  · have outside : e.run.inCode la 8 = false := by
      simp only [Run.inCode, Bool.and_eq_false_iff, decide_eq_false_iff_not]
      omega
    simp only [halign, outside, bne_self_eq_false, Bool.false_eq_true, Bool.not_false, if_false, if_true, Env.apply_trap]

/-- Settles O6: moves and immediates by their shapes, MADD, EXT, INS and LDC each by its own effect. -/
theorem movesAndImmediates : Obligations.MovesAndImmediates := ⟨registerMoves_holds, literalLoads_holds⟩

end Sys2Proof.Proofs
end

section
/-!
Prefix words, transfers, TRAP, barriers and restart points (R85, R150, R210, R211, R221, R275, R276, R317–R322, R325, R361, R362, R369).
-/
namespace Sys2Proof.Machine

/-! ## Prefix words (R275, R276, R317) -/

section
variable {e : Env} {illegal : BitVec 128 → Bool} {add : BitVec 128 → BitVec 128} (h : e.s.focus = some e)
include h

/-- The state after a prefix word that makes the latch `p`. -/
def Env.latched (e : Env) (p : BitVec 128) : State :=
  e.s.setTile e.k (e.t.setStrand e.σ { e.t.strand e.σ with regs := (e.t.strand e.σ).regs.latch p, readyAt := e.now + 1 })

theorem issuePrefix_latches (hwords : plWords e.pl ≠ 4) (hlegal : illegal e.pl = false) :
    issuePrefix illegal add e.s = .next (e.latched (add e.pl)) := by
  simp only [issuePrefix, h, hlegal, beq_false_of_ne hwords, Bool.or_self, Bool.false_eq_true, if_false, Env.latched]

theorem issuePrefix_illegal (hbad : plWords e.pl = 4 ∨ illegal e.pl = true) :
    issuePrefix illegal add e.s = .next (e.trap (trip codeIllegal) e.now) := by
  have hbad : (illegal e.pl || plWords e.pl == 4) = true := by simpa only [Bool.or_eq_true, beq_iff_eq, or_comm] using hbad
  simp only [issuePrefix, h, hbad, if_true]

end

/-! ## TRAP (R210, R211, R325) -/

/-- A word that may not be provisional runs with no verdict before it (R212). -/
theorem Env.runs_commit {e : Env} {m : Bool} {f : Form} {uses : List Touch} (hr : e.runs m f true uses = true) :
    (e.t.strand e.σ).verdicts = [] := by
  simp only [Env.runs, Bool.and_eq_true, Bool.not_true, Bool.false_or, List.isEmpty_iff] at hr
  exact hr.1.2

/-- A trap that no verdict stands before is taken at once (R211). -/
theorem Env.raise_now {e : Env} {i : TrapInfo} (hv : (e.t.strand e.σ).verdicts = []) :
    e.raise i e.now = e.s.setTile e.k (e.t.takeTrap e.σ i) := by
  rw [Env.raise, if_pos ⟨Nat.le_refl _, hv⟩]

/-- Where no verdict is due, a trap stops the strand and does nothing else to the tile (R211). -/
theorem Tile.takeTrap_unowed {t : Tile} {σ : Side} (hv : (t.strand σ).verdicts = []) (i : TrapInfo) :
    t.takeTrap σ i = t.setStrand σ { t.strand σ with
      phase := .trapped i, verdicts := [], undo := none, home := none, restart := none, zerof := none, waitb := false
      regs := { (t.strand σ).regs.clearLatch with pc := i.resume, runPc := i.resume } } := by
  rw [Tile.takeTrap, hv]
  rfl

end Sys2Proof.Machine

namespace Sys2Proof.Proofs
open Sys2Proof.Machine

/-- Settles O4: a prefix word is latched or raises ILLEGAL by its own check and the number of words that stand. -/
theorem prefixWordLatches : Obligations.PrefixWordLatches := by
  intro s e imm xd xa xb g2 q c b fa fb g n h latched illegal
  obtain ⟨rfl, -⟩ := State.focus_some h
  simp only [exec, execXimm, execXreg, execPage, execMemq, execNfmt, execGuard]
  refine ⟨fun hw hc => issuePrefix_latches h hw (beq_false_of_ne hc), issuePrefix_latches h, fun hw hp h0 h3 => issuePrefix_latches h hw ?page,
    fun hw hq hc => issuePrefix_latches h hw ?memq, issuePrefix_latches h, issuePrefix_latches h,
    fun hbad => issuePrefix_illegal h (hbad.imp_right beq_iff_eq.2), issuePrefix_illegal h,
    fun hbad => issuePrefix_illegal h (hbad.imp_right ?page'), fun hbad => issuePrefix_illegal h (hbad.imp_right ?memq'),
    issuePrefix_illegal h, issuePrefix_illegal h⟩
  case page => simp [hp, h0, h3]
  case memq => simp only [hq, Bool.false_or, decide_eq_false_iff_not]; omega
  case page' => simp only [Bool.or_eq_true, bne_iff_ne, beq_iff_eq, or_assoc, imp_self]
  case memq' => simp only [Bool.or_eq_true, decide_eq_true_eq, Nat.lt_iff_add_one_le, imp_self]

/-- Settles O8: each transfer by its condition and its target. -/
theorem transferTargets : Obligations.TransferTargets := by
  intro s e m n p o4 a o8 h to_ on
  obtain ⟨rfl, -⟩ := State.focus_some h
  have absolute (w : Word) : e.apply (e.jumpTo w) = if w.getLsbD 0 then e.trap (trip codeIllegal) e.now else to_ w 6 := by
    rw [Env.jumpTo]
    split <;> rfl
  refine ⟨fun hr => issue_runs h hr, fun hr => (issue_runs h hr).trans ?_, fun hr => issue_runs h hr, fun hr => issue_runs h hr,
    fun hr => (issue_runs h hr).trans (by rw [absolute]), fun hr => (issue_runs h hr).trans (by rw [absolute])⟩
  by_cases hp : e.r.pget p.toNat = n
  · simp only [hp, bne_self_eq_false, Bool.false_eq_true, if_false, if_true]
    rfl
  · simp only [bne_iff_ne.2 hp, hp, if_true, if_false]
    rfl

/-- Settles O12: TRAP's trap is taken at once, since no verdict stands before it. -/
theorem trapIsTaken : Obligations.TrapIsTaken := by
  intro s e m imm h hr i
  obtain ⟨rfl, -⟩ := State.focus_some h
  have hv := Env.runs_commit hr
  rw [Tile.takeTrap_unowed hv, Tile.regs, Tile.strand_setStrand]
  refine ⟨(issue_runs h hr).trans ?_, rfl, rfl, rfl, Tile.strand_setStrand_other ..⟩
  rw [Env.apply_hold, Env.raise_now hv, Tile.takeTrap_unowed hv]
  rfl

theorem barrierWords_holds : Sys2Proof.barrierWords := by
  intro s e m h hr arrived
  obtain ⟨rfl, -⟩ := State.focus_some h
  have arrive : exec (.arrive m) e.s = .next (e.apply
      (if !e.run.mask.getLsbD 12 then .trap (trip codeBookShape) e.now
      else if e.t.arrived then .trap (trip codeIllegal) e.now
      else .done (if e.run.members.all fun k => (arrived.tile k).arrived then
            match e.t.run with
            | some r => arrived.modRun r fun x => { x with barrier := some (e.now + 12) }
            | none => arrived
          else arrived) none 1 none)) := issue_runs h hr
  have waitb : exec (.waitb m) e.s = .next (e.apply
      (if !e.run.mask.getLsbD 12 then .trap (trip codeBookShape) e.now
      else .done (e.s.setTile e.k (e.t.setStrand e.σ { e.t.strand e.σ with waitb := e.t.arrived })) none 1 none)) := issue_runs h hr
  rw [arrive, waitb]
  refine ⟨fun hmask => ?_, fun hmask => ?_⟩ <;>
    simp only [hmask, Bool.not_false, Bool.not_true, Bool.false_eq_true, if_false, if_true, Env.apply_trap, Env.apply_done,
      Env.retired_eq, and_self, and_true]
  refine ⟨fun harr => ?_, fun harr hsome => ?_, fun r hrun harr hall => ?_⟩
  · rw [if_pos harr, Env.apply_trap]
  · have hall : (e.run.members.all fun k => (arrived.tile k).arrived) = false := by simpa using hsome
    simp only [harr, hall, Bool.false_eq_true, if_false, Env.apply_done]
  · have hall : (e.run.members.all fun k => (arrived.tile k).arrived) = true := by simpa using hall
    simp only [harr, hall, hrun, Bool.false_eq_true, if_false, if_true, Env.apply_done]

theorem restartPoints_holds : Sys2Proof.restartPoints := by
  intro s e m imm h hr hmx hended
  obtain ⟨rfl, -⟩ := State.focus_some h
  have hmx : (e.σ == .e && !e.t.mx.idle) = false := by
    cases hσ : e.σ with
    | a => rfl
    | e => rw [hmx hσ]; rfl
  have run : exec (.restartpt m imm) e.s = .next (e.apply (
      if e.σ == .e && !e.t.mx.idle then .wait
      else if (e.t.strand (sideOther e.σ)).hasEnded then .trap (trip codeIllegal) e.now
      else match (e.t.strand (sideOther e.σ)).restart with
        | some j => .hold (e.restartBoth imm.toNat j)
        | none => .hold (e.s.setTile e.k (e.t.setStrand e.σ { e.t.strand e.σ with restart := some imm.toNat })))) := issue_runs h hr
  simp only [run, hmx, hended, Bool.false_eq_true, if_false]
  refine ⟨fun hnone => ?_, fun hsome hcode hmask hres hidle => ?_⟩
  · simp only [hnone, Env.apply_hold]
  · simp only [hsome, Env.apply_hold, Env.restartBoth, bne_self_eq_false, hcode, Bool.not_true, hmask.not_gt, hres, hidle, Bool.or_self,
      Bool.false_eq_true, if_false]

/-- Settles O14: ARRIVE, WAITB and RESTARTPT, each by its checks. -/
theorem barriersAndRestartPoints : Obligations.BarriersAndRestartPoints := ⟨barrierWords_holds, restartPoints_holds⟩

end Sys2Proof.Proofs
end

section
/-!
What a word leaves alone, whatever comes of it (R85–R88, R92, R211, R212, R278): the words that have no effect of their own, and those that
write a scalar or a predicate register.
-/
namespace Sys2Proof.Machine

/-! ## Registers (R85, R92, R211) -/

/-- The registers as every word may leave them: but for the program counter, the loops, PLATCH and PPV they stand, and so does every loop
register that counts no loop which ends with the word (R85, R92). -/
structure Regs.Kept (r r' : Regs) : Prop where
  only : r' = { r with pc := r'.pc, runPc := r'.runPc, l := r'.l, loops := r'.loops, st := r'.st, platch := r'.platch }
  st : ∀ b, b ≠ 9 → r'.st.getLsbD b = r.st.getLsbD b
  lget : ∀ n, (∀ x ∈ r.loops, x.stop = r.pc → x.l ≠ n) → r'.lget n = r.lget n

theorem Regs.Kept.refl (r : Regs) : r.Kept r := ⟨rfl, fun _ _ => rfl, fun _ _ => rfl⟩

section
variable {r r' : Regs} (h : r.Kept r')
include h

theorem Regs.Kept.s : r'.s = r.s := by rw [h.only]
theorem Regs.Kept.p : r'.p = r.p := by rw [h.only]
theorem Regs.Kept.live : r'.live = r.live := by rw [h.only]

end

/-- PPV is bit 9 of st (R91, R92). -/
theorem st_clearLatch (r : Regs) {b : Nat} (h : b ≠ 9) : r.clearLatch.st.getLsbD b = r.st.getLsbD b := by
  have mask : (~~~(0x200#16)).getLsbD b = decide (b < 16) := by
    rw [show 0x200#16 = BitVec.twoPow 16 9 from rfl, BitVec.getLsbD_not, BitVec.getLsbD_twoPow]
    simp [Ne.symm h]
  rw [Regs.clearLatch, BitVec.getLsbD_and, mask]
  by_cases hb : b < 16
  · rw [decide_eq_true hb, Bool.and_true]
  · rw [BitVec.getLsbD_of_ge _ _ (Nat.le_of_not_lt hb), Bool.false_and]

theorem Regs.kept_stopped (r : Regs) (a : Word) : r.Kept { r.clearLatch with pc := a, runPc := a } :=
  ⟨rfl, fun _ h => st_clearLatch r h, fun _ _ => rfl⟩

/-- The end-of-body check changes loop registers and the loop stack only (R85, R323). -/
theorem loopCheck_only (pc : Word) : ∀ (l : List LoopEntry) (r : Regs),
    (loopCheck pc l r).2 = { r with l := (loopCheck pc l r).2.l, loops := (loopCheck pc l r).2.loops }
  | [], r => rfl
  | x :: l, r => by
    unfold loopCheck
    split
    · split
      · rfl
      · exact loopCheck_only pc l (r.lset x.l 0#64)
    · rfl

theorem Regs.kept_retire (r : Regs) : r.Kept (r.retire none) := by
  refine ⟨?_, fun b hb => ?_, fun n hn => r.retire_lget n hn⟩
  · rw [Regs.retire_none rfl, loopCheck_only]
    rfl
  · obtain ⟨-, -, -, -, hst, -⟩ := r.retire_keeps none
    rw [hst]
    exact st_clearLatch r hb

/-! ## What a word leaves of its tile -/

/-- The state that a word leaves which has changed no more than its strand and the residue checks of its tile, which are now `c`: `g` are the
strand's registers before it retired, stopped or went on waiting (R86, R211, R391). -/
structure Env.Leaves (e : Env) (c : List Nat) (g : Regs) (t : State) : Prop where
  elsewhere : SameElsewhere e.k e.s t
  errstat : t.errstat = e.s.errstat
  tile : ∃ y, t.tile e.k = { e.t.setStrand e.σ y with checks := c } ∧ g.Kept y.regs

section
variable {e : Env} (h : e.s.focus = some e)
include h

theorem Env.focus_tile : e.s.tile e.k = e.t := (State.focus_some h).2.2.1.symm

theorem Env.focus_regs : e.r = (e.t.strand e.σ).regs := (State.focus_some h).2.2.2.1

/-- A change of the strand alone. -/
theorem Env.leaves_strand {t : State} {y : Strand} (helse : SameElsewhere e.k e.s t) (herr : t.errstat = e.s.errstat)
    (htile : t.tile e.k = e.t.setStrand e.σ y) (hkept : (e.t.strand e.σ).regs.Kept y.regs) : e.Leaves e.t.checks e.r t := by
  refine ⟨helse, herr, y, ?_, ?_⟩
  · rw [htile]
    cases e.σ <;> rfl
  · rw [Env.focus_regs h]
    exact hkept

/-- A word that waits. -/
theorem Env.leaves_waiting : e.Leaves e.t.checks e.r e.s :=
  Env.leaves_strand h (.refl ..) rfl (y := e.t.strand e.σ) (by rw [Env.focus_tile h, Tile.setStrand_strand]) (.refl _)

/-- A word that retires without an effect. -/
theorem Env.leaves_retired (cost : Nat) (due : Option Nat) : e.Leaves e.t.checks e.r (e.s.retire e.k e.σ none cost due) :=
  Env.leaves_strand h (State.retire_elsewhere ..) rfl (by rw [State.retire, State.tile_modTile, Env.focus_tile h])
    (Regs.kept_retire _)

/-- A word that retires after it has changed its registers and the residue checks. -/
theorem Env.leaves_done (f : Regs → Regs) (c : List Nat) (cost : Nat) (due : Option Nat) :
    e.Leaves c (f e.r) ((e.s.setTile e.k { e.t.modRegs e.σ f with checks := c }).retire e.k e.σ none cost due) := by
  refine ⟨(SameElsewhere.setTile ..).trans (State.retire_elsewhere ..), rfl, ?_⟩
  rw [State.retire, State.tile_modTile, State.tile_setTile, Env.focus_regs h]
  cases e.σ <;> exact ⟨_, rfl, Regs.kept_retire _⟩

/-- A trap that is taken at once, or that waits behind the verdicts before it (R211, R212). -/
theorem Env.leaves_raise (i : TrapInfo) (due : Nat) : e.Leaves e.t.checks e.r (e.raise i due) := by
  rw [Env.raise]
  split
  · rename_i hv
    exact Env.leaves_strand h (.setTile ..) rfl (by rw [State.tile_setTile, Tile.takeTrap_unowed hv.2]) (Regs.kept_stopped ..)
  · exact Env.leaves_strand h (.setTile ..) rfl (State.tile_setTile ..) (.refl _)

/-- A word that traps, in its own cycle or with a later verdict (R211, R212). -/
theorem Env.leaves_trap (x : Trip) (due : Nat) : e.Leaves e.t.checks e.r (e.trap x due) := by
  rw [Env.trap]
  split
  · exact Env.leaves_raise h ..
  · obtain ⟨y, htile, hregs⟩ := e.raiseLater_tile e.s (TrapInfo.ofTrip e.r x) due none
    rw [Env.focus_tile h] at htile hregs
    refine Env.leaves_strand h (Env.raiseLater_elsewhere ..) rfl htile ?_
    rw [hregs]
    exact Regs.kept_retire _

theorem Env.leaves_trapForm {f : Form} (hf : f.stays = false) (x : Trip) : e.Leaves e.t.checks e.r (e.trapForm f x) := by
  rw [Env.trapForm, hf]
  exact Env.leaves_trap h ..

/-- A word of a form whose traps do not hold its strand: it has no effect of its own, or its own effect. -/
theorem issue_leaves {m : Bool} {f : Form} {commit : Bool} {uses : Env → List Touch} {body : Env → Effect} {t : State}
    (hf : f.stays = false) (ht : issue m f commit uses body e.s = .next t) : e.Leaves e.t.checks e.r t ∨ t = e.apply (body e) := by
  obtain ⟨e', he', hcases⟩ := issue_cases ht
  obtain rfl : e = e' := Option.some.inj (h.symm.trans he')
  rcases hcases with rfl | ⟨x, rfl⟩ | rfl | rfl
  · exact .inl (Env.leaves_waiting h)
  · exact .inl (Env.leaves_trapForm h hf _)
  · exact .inl (Env.leaves_retired h ..)
  · exact .inr rfl

end

/-! ## Register words (R328–R336) -/

section
variable {e : Env} {t : State} {n : Nat}

/-- The state that is left where at most the scalar register `n` is written or outstanding anew. -/
def Env.LeavesScalar (e : Env) (n : Nat) (t : State) : Prop :=
  ∃ c, ∃ g : Regs, e.Leaves c g t ∧ g = { e.r with s := g.s, out := g.out } ∧ ∀ j, j ≠ n → g.sget j = e.r.sget j

/-- The state that is left where at most the predicate register `n` is written. -/
def Env.LeavesPred (e : Env) (n : Nat) (t : State) : Prop :=
  ∃ c, ∃ g : Regs, e.Leaves c g t ∧ g = { e.r with p := g.p } ∧ ∀ j, j ≠ n → g.pget j = e.r.pget j

theorem Env.Leaves.scalar (h : e.Leaves e.t.checks e.r t) : e.LeavesScalar n t := ⟨_, e.r, h, rfl, fun _ _ => rfl⟩

theorem Env.Leaves.pred (h : e.Leaves e.t.checks e.r t) : e.LeavesPred n t := ⟨_, e.r, h, rfl, fun _ _ => rfl⟩

/-- The effects of words that write a scalar register (R88). -/
inductive Env.ScalarEffect (e : Env) (n : Nat) : Effect → Prop where
  | trap (x : Trip) (due : Nat) : e.ScalarEffect n (.trap x due)
  | short (v : Word) : e.ScalarEffect n (e.short (·.sset n v))
  | shortChecked (v : Word) : e.ScalarEffect n (e.shortChecked (·.sset n v))
  | laterChecked (lat : Nat) (v : Word) : e.ScalarEffect n (e.laterChecked lat (.s n v))

/-- The effects of words that write a predicate register. -/
inductive Env.PredEffect (e : Env) (n : Nat) : Effect → Prop where
  | short (b : Bool) : e.PredEffect n (e.short (·.pset n b))
  | shortChecked (b : Bool) : e.PredEffect n (e.shortChecked (·.pset n b))

variable (h : e.s.focus = some e)
include h

theorem Env.leaves_short (f : Regs → Regs) : e.Leaves e.t.checks (f e.r) (e.apply (e.short f)) := by
  have same : { e.t.modRegs e.σ f with checks := e.t.checks } = e.t.modRegs e.σ f := by cases e.σ <;> rfl
  have hleft := Env.leaves_done h f e.t.checks 1 none
  rw [same] at hleft
  exact hleft

theorem Env.leaves_shortChecked (f : Regs → Regs) : ∃ c, e.Leaves c (f e.r) (e.apply (e.shortChecked f)) :=
  ⟨_, Env.leaves_done h f ..⟩

theorem Env.leavesScalar_effect {x : Effect} (hx : e.ScalarEffect n x) : e.LeavesScalar n (e.apply x) := by
  cases hx with
  | trap x due => exact (Env.leaves_trap h x due).scalar
  | short v => exact ⟨_, _, Env.leaves_short h _, rfl, fun _ hj => Regs.sget_sset_ne _ v hj⟩
  | shortChecked v => exact (Env.leaves_shortChecked h (·.sset n v)).imp fun _ hleft => ⟨_, hleft, rfl, fun _ hj => Regs.sget_sset_ne _ v hj⟩
  | laterChecked lat v => exact ⟨_, _, Env.leaves_done h (·.post (e.now + lat) (.s n v)) .., rfl, fun _ _ => rfl⟩

theorem Env.leavesPred_effect {x : Effect} (hx : e.PredEffect n x) : e.LeavesPred n (e.apply x) := by
  have only (b : Bool) : e.r.pset n b = { e.r with p := (e.r.pset n b).p } := by
    unfold Regs.pset
    split <;> rfl
  cases hx with
  | short b => exact ⟨_, _, Env.leaves_short h _, only b, fun _ hj => Regs.pget_pset_ne _ b hj⟩
  | shortChecked b => exact (Env.leaves_shortChecked h (·.pset n b)).imp fun _ hleft => ⟨_, hleft, only b, fun _ hj => Regs.pget_pset_ne _ b hj⟩

section
variable {m commit : Bool} {f : Form} {uses : Env → List Touch} {body : Env → Effect} (hf : f.stays = false)
  (ht : issue m f commit uses body e.s = .next t)
include hf ht

theorem issue_leavesScalar (hbody : e.ScalarEffect n (body e)) : e.LeavesScalar n t := by
  rcases issue_leaves h hf ht with hleft | rfl
  · exact hleft.scalar
  · exact Env.leavesScalar_effect h hbody

theorem issue_leavesPred (hbody : e.PredEffect n (body e)) : e.LeavesPred n t := by
  rcases issue_leaves h hf ht with hleft | rfl
  · exact hleft.pred
  · exact Env.leavesPred_effect h hbody

end

/-- Whatever comes of a word that writes a scalar register, it writes no other. -/
theorem exec_leavesScalar {i : Instr} (hd : scalarDest e.pl i = some n) (ht : exec i e.s = .next t) : e.LeavesScalar n t := by
  cases i with
  | add | sub | and | or | xor | shl | shr | sra | rotl | min | max | minu | maxu | clz | popc | addi | andi | shli | shri | srai =>
    cases hd
    exact issue_leavesScalar h rfl ht (.shortChecked _)
  | mul | mulh | madd | div | rem | divu | remu => 
    cases hd
    exact issue_leavesScalar h rfl ht (.laterChecked _ _)
  | mov | movi | pget =>
    cases hd
    exact issue_leavesScalar h rfl ht (.short _)
  | ext m d a =>
    cases hd
    refine issue_leavesScalar h rfl ht ?_
    dsimp only
    split
    · exact .trap ..
    · exact .shortChecked _
  | ins m d a =>
    cases hd
    refine issue_leavesScalar h rfl ht ?_
    dsimp only
    split
    · exact .trap ..
    · exact .shortChecked _
  | _ => cases hd

/-- Whatever comes of a word that writes a predicate register, it writes no other. -/
theorem exec_leavesPred {i : Instr} (hd : predDest i = some n) (ht : exec i e.s = .next t) : e.LeavesPred n t := by
  cases i with
  | cmpeq | cmpne | cmplt | cmple | cmpltu | cmpleu | plog =>
    cases hd
    exact issue_leavesPred h rfl ht (.shortChecked _)
  | pset =>
    cases hd
    exact issue_leavesPred h rfl ht (.short _)
  | _ => cases hd

end

end Sys2Proof.Machine
end

section
/-!
Comparisons, predicates and queue counts (R11, R334–R336), and the frame of the register words.
-/
namespace Sys2Proof.Machine

theorem compare_writes {e : Env} {m : Bool} {p : BitVec 3} {a : BitVec 5} (h : e.s.focus = some e)
    (hr : e.runs m formC false ([tP p.toNat, tS a.toNat] ++ (if plXreg e.pl then [tS (bNum e.pl)] else [])) = true)
    (cond : Word → Word → Bool) : compare m p a cond e.s =
      .next (e.wrote (·.pset p.toNat (cond (e.r.sget a.toNat) (if plXreg e.pl then e.r.sget (bNum e.pl) else 0#64)))) :=
  issue_runs h hr

/-- The counts reach each strand's outstanding results, whatever the other strand's are (R336). -/
theorem Tile.takeCounts_out (t : Tile) (now : Nat) (σ : Side) :
    ((t.takeCounts now).regs σ).out = (t.regs σ).out.map (·.fill (t.queueCounts now)) := by
  cases σ <;> rfl

section
variable {e : Env} {c : List Nat} {g : Regs} {t : State} (hleft : e.Leaves c g t)
include hleft

theorem Env.Leaves.memory : SameTileMemory e.t (t.tile e.k) := by
  obtain ⟨y, htile, -⟩ := hleft.tile
  rw [htile]
  cases e.σ <;> rfl

theorem Env.Leaves.partner : (t.tile e.k).strand (sideOther e.σ) = e.t.strand (sideOther e.σ) := by
  obtain ⟨y, htile, -⟩ := hleft.tile
  rw [htile]
  cases e.σ <;> rfl

theorem Env.Leaves.kept : g.Kept ((t.tile e.k).regs e.σ) := by
  obtain ⟨y, htile, hkept⟩ := hleft.tile
  have hregs : (t.tile e.k).regs e.σ = y.regs := by
    rw [htile]
    cases e.σ <;> rfl
  rw [hregs]
  exact hkept

end

end Sys2Proof.Machine

namespace Sys2Proof.Proofs
open Sys2Proof.Machine

theorem comparisons_holds : Sys2Proof.comparisons := by
  intro s e m p q a5 o v d a h x y set
  obtain ⟨rfl, -⟩ := State.focus_some h
  refine ⟨fun hr => ?_, fun hr => issue_runs h hr, fun hr => issue_runs h hr, fun hr => issue_runs h hr, fun hr => issue_runs h hr,
    fun hr => issue_runs h hr, fun t σ f c hout => ?_⟩
  · have hne : (x != y) = decide (x ≠ y) := by rw [bne, beq_eq_decide, decide_not]
    simp only [exec, execCmpeq, execCmpne, execCmplt, execCmple, execCmpltu, execCmpleu, compare_writes h hr]
    exact ⟨rfl, by rw [← hne], rfl, rfl, rfl, rfl⟩
  · rw [Tile.takeCounts_out, hout]
    rfl

theorem predicateZeroIsTrue_holds : Sys2Proof.predicateZeroIsTrue := by
  intro s e m v t h ht
  obtain ⟨rfl, -⟩ := State.focus_some h
  refine ⟨rfl, ?_⟩
  have hleft : e.Leaves e.t.checks e.r t := by
    rcases issue_leaves h rfl ht with hleft | rfl
    · exact hleft
    · exact Env.leaves_short h (·.pset 0 v)
  exact hleft.kept.p

/-- Settles O7: each word by its own effect; whatever comes of a PSET of p0 leaves the registers it would write. -/
theorem predicateResults : Obligations.PredicateResults := ⟨comparisons_holds, predicateZeroIsTrue_holds⟩

/-- Settles O55: a register word leaves at most its destination otherwise, and retiring or trapping what every word does. -/
theorem registerWordsFrame : Obligations.RegisterWordsFrame := by
  intro s t e i h ht r
  obtain ⟨rfl, -⟩ := State.focus_some h
  refine ⟨fun hd => ?_, fun n hn => ?_, fun n hn => ?_⟩
  · have hleft : ∃ c, ∃ g : Regs, e.Leaves c g t ∧ g = { e.r with s := g.s, p := g.p, out := g.out } := by
      rcases hd with hd | hd <;> obtain ⟨n, hn⟩ := Option.isSome_iff_exists.1 hd
      · obtain ⟨c, g, hleft, honly, -⟩ := exec_leavesScalar h hn ht
        exact ⟨c, g, hleft, by rw [honly]⟩
      · obtain ⟨c, g, hleft, honly, -⟩ := exec_leavesPred h hn ht
        exact ⟨c, g, hleft, by rw [honly]⟩
    obtain ⟨c, g, hleft, honly⟩ := hleft
    refine ⟨hleft.elsewhere, hleft.errstat, hleft.memory, hleft.partner, hleft.kept.live.trans (by rw [honly]), ?_, ?_⟩
    · intro b hb
      rw [hleft.kept.st b hb, honly]
    · intro n hn
      rw [hleft.kept.lget n (by rw [honly]; exact hn), honly]
      rfl
  · obtain ⟨c, g, hleft, honly, hs⟩ := exec_leavesScalar h hn ht
    refine ⟨hleft.kept.p.trans (by rw [honly]), fun j hj => ?_⟩
    rw [← hs j hj, Regs.sget, hleft.kept.s, Regs.sget]
  · obtain ⟨c, g, hleft, honly, hp⟩ := exec_leavesPred h hn ht
    refine ⟨hleft.kept.s.trans (by rw [honly]), fun j hj => ?_⟩
    rw [← hp j hj, Regs.pget, hleft.kept.p, Regs.pget]

end Sys2Proof.Proofs
end

section
/-!
The A-core's loads and stores (R62, R79, R290, R292–R296, R392).
-/
namespace Sys2Proof.Machine

/-! ## Port A (R290) -/

section
variable {e : Env} {f n al : Nat} {read : Bool} {x : Trip} (hpipe : e.pipeTaken = false)
include hpipe

/-- An access whose check fails traps with its verdict. -/
theorem Env.portA_refused (hport : portACheck e.t e.run f n al = some x) (due : Nat) (k : Unit → Effect) :
    e.portA f n al read due k = .trap x due := by
  simp only [Env.portA, hpipe, hport, Bool.false_eq_true, if_false]

/-- A read that meets a granule which cannot be rebuilt raises POISON (R65). -/
theorem Env.portA_poisoned (hport : portACheck e.t e.run f n al = none) (hdead : e.t.isDead f n = true) (due : Nat) (k : Unit → Effect) :
    e.portA f n al true due k = .trap (tripAt codePoison (e.t.deadAt f n)) due := by
  simp only [Env.portA, hpipe, hport, poisonCheck, failIf, hdead, Bool.false_eq_true, if_false, if_true]

/-- A store whose check passes reads no granule. -/
theorem Env.portA_stores (hport : portACheck e.t e.run f n al = none) (due : Nat) (k : Unit → Effect) :
    e.portA f n al false due k = k () := by
  simp only [Env.portA, hpipe, hport, Bool.false_eq_true, if_false]

end

/-- A load whose checks fail holds its result's place until the verdict (R79, R212). -/
theorem Env.holding_trap (e : Env) (hold : Tile → Tile) (x : Trip) (due : Nat) :
    e.holding hold (.trap x due) = .trapHeld (e.s.modTile e.k hold) x due none := rfl

/-! ## Scalar loads (R292) -/

section
variable {e : Env} {n : Nat} {m : Bool} {d a : BitVec 4} {f : Nat} (h : e.s.focus = some e) (hpipe : e.pipeTaken = false)
  (hr : e.runs m formD2.aOnly false [tS (dNum e.pl d), tS (aNum e.pl a)] = true) (hf : f = (e.r.sget (aNum e.pl a)).toNat % 2 ^ 22)
include h hpipe hr hf

/-- A load whose checks pass posts what the A-core sees (R136, R292). -/
theorem execLoad_posts (hport : portACheck e.t e.run f n n = none) (hdead : e.t.isDead f n = false) :
    execLoad n m d a e.s = .next (e.retired ((e.s.repair e.k f n).modTile e.k fun t => (t.useBanks e.now (banksOf f n) false).modRegs e.σ
      (·.post (e.now + 14) (.s (dNum e.pl d) (BitVec.ofNat 64 (e.t.fieldRead true e.now f n))))) none 1 (some (e.now + 6))) := by
  subst hf
  refine (issue_runs h ((e.runs_verdictAt m formD2.aOnly 6 false _).trans hr)).trans ?_
  simp only [fieldAddr_eq, Env.portA_reads hpipe hport hdead, Env.holding, Env.apply_done, Env.retired_eq]
  rfl

/-- A load whose check fails leaves its result outstanding until the verdict (R212). -/
theorem execLoad_traps {x : Trip} (hx : portACheck e.t e.run f n n = some x ∨
      portACheck e.t e.run f n n = none ∧ e.t.isDead f n = true ∧ x = tripAt codePoison (e.t.deadAt f n)) :
    execLoad n m d a e.s = .next (e.apply (.trapHeld
      (e.s.modTile e.k fun t => t.modRegs e.σ (·.post (e.now + 14) (.s (dNum e.pl d) 0#64))) x (e.now + 6) none)) := by
  subst hf
  refine (issue_runs h ((e.runs_verdictAt m formD2.aOnly 6 false _).trans hr)).trans ?_
  rcases hx with hport | ⟨hport, hdead, rfl⟩
  · simp only [fieldAddr_eq, Env.portA_refused hpipe hport, Env.holding_trap]
  · simp only [fieldAddr_eq, Env.portA_poisoned hpipe hport hdead, Env.holding_trap]

/-! ## Scalar stores (R62, R293) -/

/-- A store into a waiting entry for its granule (R62). -/
theorem execStore_merges (hport : portACheck e.t e.run f n n = none) (hmerge : e.t.sbMergeable (f / 32) = true) :
    execStore n m d a e.s = .next (e.retired (e.s.modTile e.k fun t =>
      (t.useBanks e.now (banksOf f n) true).sbNarrow f n (e.r.sget (dNum e.pl d)).toNat (e.storeTime (e.now + 6))) none 1
      (some (e.now + 6))) := by
  subst hf
  refine (issue_runs h ((e.runs_verdictAt m formD2.aOnly 6 false _).trans hr)).trans ?_
  simp only [fieldAddr_eq, hmerge, Bool.not_true, Env.portA_stores hpipe hport, Bool.false_and, Bool.false_eq_true, if_false, if_true,
    Env.apply_done, Env.retired_eq]

section
variable (hmerge : e.t.sbMergeable (f / 32) = false)
include hmerge

/-- A store into an entry of its own, for which the granule is read (R62). -/
theorem execStore_enters (hport : portACheck e.t e.run f n n = none) (hdead : e.t.isDead f n = false) (hroom : e.t.sb.length < 16) :
    execStore n m d a e.s = .next (e.retired ((e.s.repair e.k f n).modTile e.k fun t =>
      (t.useBanks e.now (banksOf f n) false).sbNarrow f n (e.r.sget (dNum e.pl d)).toNat (e.storeTime (e.now + 6))) none 1
      (some (e.now + 6))) := by
  have room : e.t.sbRoom 1 = true := decide_eq_true hroom
  subst hf
  refine (issue_runs h ((e.runs_verdictAt m formD2.aOnly 6 false _).trans hr)).trans ?_
  simp only [fieldAddr_eq, hmerge, Bool.not_false, Env.portA_reads hpipe hport hdead, room, Bool.not_true, Bool.and_false,
    Bool.false_eq_true, if_false, Env.apply_done, Env.retired_eq]

/-- A store waits for an entry. -/
theorem execStore_waits (hport : portACheck e.t e.run f n n = none) (hdead : e.t.isDead f n = false) (hfull : 16 ≤ e.t.sb.length) :
    execStore n m d a e.s = .next e.s := by
  have full : e.t.sbRoom 1 = false := decide_eq_false (by omega)
  subst hf
  refine (issue_runs h ((e.runs_verdictAt m formD2.aOnly 6 false _).trans hr)).trans ?_
  simp only [fieldAddr_eq, hmerge, Bool.not_false, Env.portA_reads hpipe hport hdead, full, Bool.and_self, if_true, Env.apply_wait]

theorem execStore_poisoned (hport : portACheck e.t e.run f n n = none) (hdead : e.t.isDead f n = true) :
    execStore n m d a e.s = .next (e.trap (tripAt codePoison (e.t.deadAt f n)) (e.now + 6)) := by
  subst hf
  refine (issue_runs h ((e.runs_verdictAt m formD2.aOnly 6 false _).trans hr)).trans ?_
  simp only [fieldAddr_eq, hmerge, Bool.not_false, Env.portA_poisoned hpipe hport hdead, Env.apply_trap]

end

theorem execStore_refused {x : Trip} (hport : portACheck e.t e.run f n n = some x) :
    execStore n m d a e.s = .next (e.trap x (e.now + 6)) := by
  subst hf
  refine (issue_runs h ((e.runs_verdictAt m formD2.aOnly 6 false _).trans hr)).trans ?_
  simp only [fieldAddr_eq, Env.portA_refused hpipe hport, Env.apply_trap]

end

end Sys2Proof.Machine

namespace Sys2Proof.Proofs
open Sys2Proof.Machine

/-- Every width of load is the one meaning of loads. -/
theorem loadsBytes_of {n : Nat} {i : Bool → BitVec 4 → BitVec 4 → Instr} (hi : ∀ m d a s, exec (i m d a) s = execLoad n m d a s) :
    Sys2Proof.loadsBytes n i := by
  intro s e m d a h hpipe hr f trapsLater
  obtain ⟨rfl, -⟩ := State.focus_some h
  rw [hi]
  exact ⟨execLoad_posts h hpipe hr rfl, fun hport hdead => execLoad_traps h hpipe hr rfl (.inr ⟨hport, hdead, rfl⟩),
    fun x hport => execLoad_traps h hpipe hr rfl (.inl hport)⟩

/-- Settles O15: the loads of the four widths. -/
theorem scalarLoads : Obligations.ScalarLoads :=
  ⟨loadsBytes_of fun _ _ _ _ => rfl, loadsBytes_of fun _ _ _ _ => rfl, loadsBytes_of fun _ _ _ _ => rfl, loadsBytes_of fun _ _ _ _ => rfl⟩

/-- Every width of store is the one meaning of stores. -/
theorem storesBytes_of {n : Nat} {i : Bool → BitVec 4 → BitVec 4 → Instr} (hi : ∀ m d a s, exec (i m d a) s = execStore n m d a s) :
    Sys2Proof.storesBytes n i := by
  intro s e m d a h hpipe hr f v at_
  obtain ⟨rfl, -⟩ := State.focus_some h
  rw [hi]
  exact ⟨execStore_merges h hpipe hr rfl, fun hport hmerge => execStore_enters h hpipe hr rfl hmerge hport,
    fun hport hmerge => execStore_waits h hpipe hr rfl hmerge hport, fun hport hmerge => execStore_poisoned h hpipe hr rfl hmerge hport,
    fun x => execStore_refused h hpipe hr rfl⟩

/-- Settles O16: the stores of the four widths. -/
theorem scalarStores : Obligations.ScalarStores :=
  ⟨storesBytes_of fun _ _ _ _ => rfl, storesBytes_of fun _ _ _ _ => rfl, storesBytes_of fun _ _ _ _ => rfl,
    storesBytes_of fun _ _ _ _ => rfl⟩

/-- Settles O17: the first failing check of the list gives the trap. -/
theorem portAChecksInOrder : Obligations.PortAChecksInOrder := by
  intro t r f n al
  refine ⟨fun h1 => ?_, fun h1 h2 => ?_, fun h1 h2 h3 => ?_, fun h1 h2 h3 h4 h5 => ?_, fun h1 h2 h3 h4 h5 => ?_⟩
  · simp [portACheck, firstTrip, failIf, h1]
  · simp [portACheck, firstTrip, failIf, h1, h2]
  · have : (!t.inRange r f n || !r.groupsBooked f n) = true := by simpa using h3
    simp [portACheck, firstTrip, failIf, h1, h2, this]
  · simp [portACheck, firstTrip, failIf, h1, h2, h3, h4, h5]
  · simp [portACheck, firstTrip, failIf, h1, h2, h3, h4, h5]

end Sys2Proof.Proofs
end

section
/-!
Rows between the field store and the queues, and ranges of zeros (R79, R294–R296, R392).
-/
namespace Sys2Proof.Machine

/-- A store that no verdict stands before commits with its own (R212). -/
theorem Env.storeTime_unowed {e : Env} (hv : (e.t.strand e.σ).verdicts = []) (v : Nat) : e.storeTime v = { since := e.now, commit := v } := by
  rw [Env.storeTime, Strand.commitAt, hv, List.foldl_nil]

/-! ## LDV and STV (R294, R295) -/

section
variable {e : Env} {m : Bool} {q : BitVec 2} {a : BitVec 4} {f : Nat} (h : e.s.focus = some e)
  (hr : e.runs m formZ.aOnly false [tS a.toNat] = true)
include h hr

/-- LDV waits while its queue is full. -/
theorem exec_ldv_full (hroom : (e.t.lqget q.toNat).room e.now = false) : exec (.ldv m q a) e.s = .next e.s := by
  refine (issue_runs h ((e.runs_verdictAt m formZ.aOnly 6 false _).trans hr)).trans ?_
  simp only [hroom, Bool.not_false, if_true, Env.apply_wait]

variable (hroom : (e.t.lqget q.toNat).room e.now = true) (hpipe : e.pipeTaken = false) (hf : f = (e.r.sget a.toNat).toNat % 2 ^ 22)
include hroom hpipe hf

/-- LDV reserves an entry of its queue for the row that the A-core sees. -/
theorem exec_ldv_reads (hport : portACheck e.t e.run f 256 256 = none) (hdead : e.t.isDead f 256 = false) :
    exec (.ldv m q a) e.s = .next (e.retired ((e.s.repair e.k f 256).modTile e.k fun t =>
      (t.useBanks e.now (banksOf f 256) false).lqPush q.toNat (e.now + 14) (e.t.fieldRead true e.now f 256)) none 1 (some (e.now + 6))) := by
  subst hf
  refine (issue_runs h ((e.runs_verdictAt m formZ.aOnly 6 false _).trans hr)).trans ?_
  simp only [hroom, fieldAddr_eq, Env.portA_reads hpipe hport hdead, Env.holding, Bool.not_true, Bool.false_eq_true, if_false, Env.apply_done,
    Env.retired_eq]

/-- LDV holds its entry until the verdict where a check fails (R79, R212). -/
theorem exec_ldv_traps {x : Trip} (hx : portACheck e.t e.run f 256 256 = some x ∨
      portACheck e.t e.run f 256 256 = none ∧ e.t.isDead f 256 = true ∧ x = tripAt codePoison (e.t.deadAt f 256)) :
    exec (.ldv m q a) e.s =
      .next (e.apply (.trapHeld (e.s.modTile e.k (·.lqPush q.toNat (e.now + 14) 0)) x (e.now + 6) none)) := by
  subst hf
  refine (issue_runs h ((e.runs_verdictAt m formZ.aOnly 6 false _).trans hr)).trans ?_
  rcases hx with hport | ⟨hport, hdead, rfl⟩
  · simp only [hroom, fieldAddr_eq, Env.portA_refused hpipe hport, Env.holding_trap, Bool.not_true, Bool.false_eq_true, if_false]
  · simp only [hroom, fieldAddr_eq, Env.portA_poisoned hpipe hport hdead, Env.holding_trap, Bool.not_true, Bool.false_eq_true, if_false]

end

section
variable {e : Env} {m b : Bool} {a : BitVec 4} (h : e.s.focus = some e) (hr : e.runs m formZ.aOnly true [tS a.toNat] = true)
include h hr

/-- STV waits for a row. -/
theorem exec_stv_empty (hready : (e.t.sqget (b2n b)).ready 1 = false) : exec (.stv m b a) e.s = .next e.s := by
  refine (issue_runs h hr).trans ?_
  simp only [hready, Bool.not_false, if_true, Env.apply_wait]

variable {f : Nat} (hready : (e.t.sqget (b2n b)).ready 1 = true) (hpipe : e.pipeTaken = false)
  (hf : f = (e.r.sget a.toNat).toNat % 2 ^ 22)
include hready hpipe hf

/-- STV traps at once where a check fails. -/
theorem exec_stv_refused {x : Trip} (hport : portACheck e.t e.run f 256 256 = some x) :
    exec (.stv m b a) e.s = .next (e.trap x e.now) := by
  subst hf
  refine (issue_runs h hr).trans ?_
  simp only [hready, fieldAddr_eq, Env.portA_refused hpipe hport, Bool.not_true, Bool.false_eq_true, if_false, Env.apply_trap]

variable (hport : portACheck e.t e.run f 256 256 = none)
include hport

/-- STV waits for eight entries of the store buffer. -/
theorem exec_stv_full (hfull : 16 < e.t.sb.length + 8) : exec (.stv m b a) e.s = .next e.s := by
  have full : e.t.sbRoom 8 = false := decide_eq_false hfull.not_ge
  subst hf
  refine (issue_runs h hr).trans ?_
  simp only [hready, fieldAddr_eq, Env.portA_stores hpipe hport, full, Bool.not_true, Bool.not_false, Bool.false_eq_true, if_false, if_true,
    Env.apply_wait]

/-- STV stores the oldest row of its queue. -/
theorem exec_stv_stores (hroom : e.t.sb.length + 8 ≤ 16) :
    exec (.stv m b a) e.s = .next (e.retired (e.s.modTile e.k (e.storeRow (b2n b) f)) none 1 none) := by
  have room : e.t.sbRoom 8 = true := decide_eq_true hroom
  subst hf
  refine (issue_runs h hr).trans ?_
  simp only [hready, fieldAddr_eq, Env.portA_stores hpipe hport, room, Bool.not_true, Bool.false_eq_true, if_false, Env.apply_done,
    Env.retired_eq]

end

/-! ## ZEROF (R296, R392) -/

/-- The state in which `n` zero bytes at `f` have entered the store buffer. -/
def Env.zeroed (e : Env) (f n : Nat) : State := e.s.modTile e.k fun t =>
  (t.useBanks e.now (banksOf f n) true).sbWhole f n 0 (e.storeTime e.now)

/-- The state `s` with the strand held in a ZEROF that goes on at `f`. -/
def Env.zerofHeld (e : Env) (s : State) (f stop : Nat) : State :=
  s.modTile e.k fun t => t.setStrand e.σ { t.strand e.σ with zerof := some (f, stop) }

section
variable {e : Env} {f stop : Nat} (hpipe : e.pipeTaken = false)
include hpipe

/-- A row waits while the store buffer has no room for it. -/
theorem Env.zeroRow_waits (hfull : 16 < e.t.sb.length + (min stop (256 * (f / 256) + 256) - f) / 32) :
    e.apply (e.zeroRow f stop) = e.zerofHeld e.s f stop := by
  have full : e.t.sbRoom ((min stop (256 * (f / 256) + 256) - f) / 32) = false := decide_eq_false hfull.not_ge
  simp only [Env.zeroRow, hpipe, full, Bool.not_false, Bool.or_true, if_true, Env.apply_hold, Env.zerofHeld]

/-- A row that is not the last enters the buffer, and the next row follows. -/
theorem Env.zeroRow_more (hmore : 256 * (f / 256) + 256 < stop) (hroom : e.t.sb.length + (256 * (f / 256) + 256 - f) / 32 ≤ 16) :
    e.apply (e.zeroRow f stop) =
      e.zerofHeld (e.zeroed f (256 * (f / 256) + 256 - f)) (256 * (f / 256) + 256) stop := by
  have room : e.t.sbRoom ((256 * (f / 256) + 256 - f) / 32) = true := decide_eq_true hroom
  simp only [Env.zeroRow, hpipe, Nat.min_eq_right hmore.le, room, hmore, Bool.not_true, Bool.or_self, Bool.false_eq_true, if_false, if_true,
    Env.apply_hold, Env.zerofHeld, Env.zeroed]

/-- The last row enters the buffer, and the word retires. -/
theorem Env.zeroRow_last (hlast : stop ≤ 256 * (f / 256) + 256) (hroom : e.t.sb.length + (stop - f) / 32 ≤ 16) :
    e.apply (e.zeroRow f stop) = e.retired (e.zeroed f (stop - f)) none 1 none := by
  have room : e.t.sbRoom ((stop - f) / 32) = true := decide_eq_true hroom
  simp only [Env.zeroRow, hpipe, Nat.min_eq_left hlast, room, lt_self_iff_false, Bool.not_true, Bool.or_self, Bool.false_eq_true, if_false,
    Env.apply_done, Env.retired_eq, Env.zeroed]

end

section
variable {e : Env} {m : Bool} {d a : BitVec 4} (h : e.s.focus = some e)
include h

/-- A ZEROF that has begun goes on with its next row. -/
theorem exec_zerof_begun {f stop : Nat} (hz : (e.t.strand e.σ).zerof = some (f, stop)) :
    exec (.zerof m d a) e.s = .next (e.apply (e.zeroRow f stop)) := by
  simp only [exec, execZerof, h, hz]

variable {f n : Nat} (hz : (e.t.strand e.σ).zerof = none)
  (hr : e.runs m formD2.aOnly false [tS (dNum e.pl d), tS (aNum e.pl a)] = true) (hf : f = (e.r.sget (aNum e.pl a)).toNat % 2 ^ 22)
  (hn : n = (e.r.sget (dNum e.pl d)).toNat)
include hz hr hf hn

/-- The own effect of a ZEROF that begins. -/
theorem exec_zerof_begins : exec (.zerof m d a) e.s = .next (e.apply
    (if n % 32 != 0 || decide (fieldTop < n) then .trap (trip codeIllegal) e.now
    else if n = 0 then .done e.s none 1 none
    else e.portA f n 32 false e.now fun _ => e.zeroRow f (f + n))) := by
  subst hf hn
  rw [exec, execZerof]
  simp only [h, hz, ← fieldAddr_eq]
  exact issue_runs h hr

theorem exec_zerof_illegal (hbad : n % 32 ≠ 0 ∨ 0x400000 < n) : exec (.zerof m d a) e.s = .next (e.trap (trip codeIllegal) e.now) := by
  rw [exec_zerof_begins h hz hr hf hn, if_pos, Env.apply_trap]
  rw [Bool.or_eq_true, bne_iff_ne, decide_eq_true_eq]
  exact hbad

/-- A ZEROF of no bytes does nothing. -/
theorem exec_zerof_nothing (hzero : n = 0) : exec (.zerof m d a) e.s = .next (e.retired e.s none 1 none) := by
  rw [exec_zerof_begins h hz hr hf hn, hzero]
  rfl

variable (halign : n % 32 = 0) (hpos : 0 < n) (hmax : n ≤ 0x400000)
include halign hpos hmax

/-- The size of a ZEROF that is neither 0 nor illegal. -/
theorem exec_zerof_sized : exec (.zerof m d a) e.s = .next (e.apply (e.portA f n 32 false e.now fun _ => e.zeroRow f (f + n))) := by
  rw [exec_zerof_begins h hz hr hf hn, if_neg, if_neg hpos.ne']
  rw [Bool.or_eq_true, bne_iff_ne, decide_eq_true_eq, not_or, not_not, not_lt]
  exact ⟨halign, hmax⟩

variable (hpipe : e.pipeTaken = false)
include hpipe

theorem exec_zerof_refused {x : Trip} (hport : portACheck e.t e.run f n 32 = some x) :
    exec (.zerof m d a) e.s = .next (e.trap x e.now) := by
  rw [exec_zerof_sized h hz hr hf hn halign hpos hmax, Env.portA_refused hpipe hport, Env.apply_trap]

theorem exec_zerof_row (hport : portACheck e.t e.run f n 32 = none) :
    exec (.zerof m d a) e.s = .next (e.apply (e.zeroRow f (f + n))) := by
  rw [exec_zerof_sized h hz hr hf hn halign hpos hmax, Env.portA_stores hpipe hport]

end

end Sys2Proof.Machine

namespace Sys2Proof.Proofs
open Sys2Proof.Machine

/-- Settles O18: each of the two words by its waits, its checks and its effect. -/
theorem rowLoadsAndStores : Obligations.RowLoadsAndStores := by
  intro s e m q b a h hpipe f
  obtain ⟨rfl, -⟩ := State.focus_some h
  refine ⟨fun hr => ⟨exec_ldv_full h hr, fun hroom hport hdead => exec_ldv_reads h hr hroom hpipe rfl hport hdead,
      fun x hroom hx => exec_ldv_traps h hr hroom hpipe rfl hx⟩,
    fun hr => ⟨exec_stv_empty h hr, fun hready hport hfull => exec_stv_full h hr hready hpipe rfl hport hfull,
      fun x hready hport => exec_stv_refused h hr hready hpipe rfl hport, fun hready hport hroom => ?_⟩⟩
  rw [exec_stv_stores h hr hready hpipe rfl hport hroom, ← Env.storeTime_unowed (Env.runs_commit hr)]
  rfl

/-- Settles O19: a ZEROF that begins makes its checks and writes its first row; one that has begun writes the next. -/
theorem zeroFill : Obligations.ZeroFill := by
  intro s e m d a h hpipe zeros rowEnd held
  obtain ⟨rfl, -⟩ := State.focus_some h
  refine ⟨fun hz hr => ⟨exec_zerof_illegal h hz hr rfl rfl, ?refused, ?waits, exec_zerof_nothing h hz hr rfl rfl, ?last, ?more⟩,
    fun f stop hz => ⟨fun hfull => ?_, fun hmore hroom => ?_, fun hlast hroom => ?_⟩⟩
  case refused => exact fun x halign hpos hmax => exec_zerof_refused h hz hr rfl rfl halign hpos hmax hpipe
  case waits =>
    intro halign hpos hmax hport hfull
    rw [exec_zerof_row h hz hr rfl rfl halign hpos hmax hpipe hport, Env.zeroRow_waits hpipe hfull]
    rfl
  case last =>
    intro halign hpos hmax hport hlast hroom
    have hlen {f n : Nat} : f + n - f = n := Nat.add_sub_cancel_left ..
    rw [exec_zerof_row h hz hr rfl rfl halign hpos hmax hpipe hport, Env.zeroRow_last hpipe hlast (by rw [hlen]; exact hroom), hlen]
    rfl
  case more =>
    intro halign hmax hport hmore hroom
    have hpos : 0 < (e.r.sget (dNum e.pl d)).toNat := by simp only [rowEnd] at hmore; omega
    rw [exec_zerof_row h hz hr rfl rfl halign hpos hmax hpipe hport, Env.zeroRow_more hpipe hmore hroom]
    rfl
  · rw [exec_zerof_begun h hz, Env.zeroRow_waits hpipe hfull]
    rfl
  · rw [exec_zerof_begun h hz, Env.zeroRow_more hpipe hmore hroom]
    rfl
  · rw [exec_zerof_begun h hz, Env.zeroRow_last hpipe hlast hroom]
    rfl

end Sys2Proof.Proofs
end

section
/-!
Completion registers, landing counters, leases and probes (R304, R305, R309, R313–R315), far accesses and fences (R310–R312).
-/
namespace Sys2Proof.Machine

theorem wbits_zero_iff {x : Word} {lo n : Nat} (h : 64 ≤ lo + n) : wbits x lo n = x.toNat / 2 ^ lo := by
  rw [wbits, bits, Nat.shiftRight_eq_div_pow, Nat.mod_eq_of_lt]
  rw [Nat.div_lt_iff_lt_mul (Nat.two_pow_pos lo), ← Nat.pow_add, Nat.add_comm]
  exact Nat.lt_of_lt_of_le x.isLt (Nat.pow_le_pow_right (by decide) h)

theorem wbits_low (x : Word) (n : Nat) : wbits x 0 n = x.toNat % 2 ^ n := by rw [wbits, bits, Nat.shiftRight_zero]

section
variable {e : Env} {m : Bool} {d a : BitVec 4} {f : Nat} (h : e.s.focus = some e)
include h

/-- LNDSET writes its counter in the A-core's own access (R309). -/
theorem exec_lndset (hr : e.runs m formD2.aOnly true [tS (dNum e.pl d), tS (aNum e.pl a)] = true) (hpipe : e.pipeTaken = false)
    (hf : f = (e.r.sget (aNum e.pl a)).toNat % 2 ^ 22) (hhigh : (e.r.sget (dNum e.pl d)).toNat / 2 ^ 32 = 0)
    (hport : portACheck e.t e.run f 16 16 = none) (hdead : e.t.isDead f 16 = false) :
    exec (.lndset m d a) e.s = .next (e.retired ((e.s.repair e.k f 16).modTile e.k fun t =>
      let x := (t.useBanks e.now (banksOf f 16) false).atomicWrite e.now f 16
        ((e.r.sget (dNum e.pl d)).toNat + (setBits (wordAt (e.t.fieldRead true e.now f 16) 1) 16 1 0).toNat * 2 ^ 64)
      { x with
        before := some (e.t.oldBytes e.now f)
        field := { x.field with resets := mput x.field.resets f ((mget x.field.resets f).getD 0 + 1) } }) none 1 none) := by
  subst hf
  refine (issue_runs h hr).trans ?_
  simp only [wbits_zero_iff (show 64 ≤ 32 + 32 by decide), hhigh, fieldAddr_eq, Env.portA_reads hpipe hport hdead, bne_self_eq_false,
    Bool.false_eq_true, if_false, Env.apply_done, Env.retired_eq]

/-- UNLEASE gives back units that are leased to the fibre (R314). -/
theorem exec_unlease {n : Nat} (hr : e.runs m formD2.page1.aOnly true [tS (dNum e.pl d), tS (aNum e.pl a)] = true)
    (hf : f = (e.r.sget (aNum e.pl a)).toNat % 2 ^ 22) (hn : n = (e.r.sget (dNum e.pl d)).toNat) (halign : f % 65536 = 0) (hpos : 1 ≤ n)
    (hmax : f / 65536 + n ≤ 64) (hall : ∀ i ∈ List.range' (f / 65536) n, e.t.leased e.run.fibre i = true) :
    exec (.unlease m d a) e.s = .next (e.retired (e.s.setTile e.k (e.t.unlease (f / 65536) n)) none 1 none) := by
  have leased : (List.range' (f / 65536) n).any (fun i => !e.t.leased e.run.fibre i) = false := by simpa using hall
  have few : decide (64 < n) = false := decide_eq_false (by omega)
  subst hf hn
  refine (issue_runs h hr).trans ?_
  simp only [fieldAddr_eq, halign, leased, few, decide_eq_false hmax.not_gt, decide_eq_false hpos.not_gt, bne_self_eq_false, Bool.or_self,
    Bool.false_eq_true, if_false, Env.apply_done, Env.retired_eq]

section
variable (hr : e.runs m formD2.page1.aOnly false [tS (dNum e.pl d), tS (aNum e.pl a)] = true)
  (hf : f = (e.r.sget (aNum e.pl a)).toNat % 2 ^ 22)
include hr hf

/-- XPROBE reads the tags of a row and the in-flight bit of a granule (R315). -/
theorem exec_xprobe_reads (hrange : e.t.inRange e.run (32 * (f / 32)) 32 = true)
    (hgroups : e.run.groupsBooked (32 * (f / 32)) 32 = true) : exec (.xprobe m d a) e.s = .next (e.sentLater 8 (.s (dNum e.pl d)
      (w64 ((e.t.rowTagsSeen true e.now (f / 256)).2 + (e.t.rowTagsSeen true e.now (f / 256)).1 * 2 ^ 24 +
        b2n (e.t.inFlight (32 * (f / 32)) 32) * 2 ^ 48)))) := by
  subst hf
  refine (issue_runs h hr).trans ?_
  simp only [fieldAddr_eq, hrange, hgroups, Bool.not_true, Bool.or_self, Bool.false_eq_true, if_false, Env.sentLater]

theorem exec_xprobe_refused (hrange : e.t.inRange e.run (32 * (f / 32)) 32 = false) :
    exec (.xprobe m d a) e.s = .next (e.trap (tripAt codeFieldRange (32 * (f / 32))) e.now) := by
  subst hf
  refine (issue_runs h hr).trans ?_
  simp only [fieldAddr_eq, hrange, Bool.not_false, Bool.true_or, if_true, Env.apply_trap]

end

end

/-! ## Far accesses (R310, R311) -/

/-- The operation of an FLD (R310). -/
def Env.fldOp (e : Env) (c va f : Nat) : Op :=
  { e.newOp .fld c with
    length := 8, src := va, dst := f, stream := memqStream e.pl, scope := memqScope e.pl, acquire := memqBit e.pl, sendAt := e.now
    parts := [{ Part.new va 8 0 false with phase := .live, sent := e.now }] }

/-- The operation of an FST of `v` (R311). -/
def Env.fstOp (e : Env) (c va : Nat) (v : Word) : Op :=
  { e.newOp .fst c with
    length := 8, dst := va, stream := memqStream e.pl, scope := memqScope e.pl, release := memqBit e.pl, sendAt := e.now, value := v
    parts := [{ Part.new va 8 0 false with phase := .live, sent := e.now }] }

/-- The state in which a word has forked an operation under the next number, and its tile is `t` (R138). -/
def State.forking (s : State) (k : Nat) (t : Tile) (o : Op) : State :=
  { s.setTile k t with ops := mput s.ops s.seq o, seq := s.seq + 1 }

theorem State.forking_tile (s : State) (k : Nat) (t : Tile) (o : Op) : (s.forking k t o).tile k = t :=
  (State.tile_congr rfl k).trans (State.tile_setTile s k t)

/-- An FLD that has been forked and sent: its register is pending, and its operation stands under its number (R310). -/
theorem State.forking_fld (s : State) (k : Nat) (c : BitVec 3) (t : Tile) (f : Nat) (o : Op) (x : Nat) :
    let u := (s.forking k ((t.cset c.toNat (cval 1 0 0)).setFlight s.seq f 8) o).post s.seq 0 x [k]
    (u.tile k).cget c.toNat = cval 1 0 0 ∧ mget u.ops s.seq = some o := by
  obtain ⟨msgs, n, hpost⟩ := State.post_eq (s.forking k ((t.cset c.toNat (cval 1 0 0)).setFlight s.seq f 8) o) s.seq 0 x [k]
  obtain ⟨l, hflight⟩ := (t.cset c.toNat (cval 1 0 0)).setFlight_only s.seq f 8
  have htile := ((congrArg (·.tile k) hpost).trans (State.tile_congr rfl k)).trans ((s.forking_tile k _ o).trans hflight)
  exact ⟨(congrArg (Tile.cget · c.toNat) htile).trans (Tile.cget_cset c.isLt _),
    (congrArg (fun u : State => mget u.ops s.seq) hpost).trans (mget_mput_same ..)⟩

section
variable {e : Env} {m : Bool} (h : e.s.focus = some e)
include h

/-- An FLD whose checks pass forks its operation and sends it into its tile (R310). -/
theorem exec_fld {c : BitVec 3} {a : BitVec 5} {f : Nat}
    (hr : e.runs m { formZ.aOnly with memq := .all } true [tS a.toNat, tS (a.toNat + 1)] = true) (ha : a ≠ 31#5)
    (hf : f = (e.r.sget (a.toNat + 1)).toNat % 2 ^ 22) (hva : (e.r.sget a.toNat).toNat % 8 = 0) (halign : f % 8 = 0)
    (hc : e.t.cstate c.toNat ≠ 1) (hkey : e.t.keyOk = true) (hrange : e.t.inRange e.run f 8 = true) (hflight : e.t.inFlight f 8 = false) :
    exec (.fld m c a) e.s = .next (e.retired ((e.s.forking e.k ((e.t.cset c.toNat (cval 1 0 0)).setFlight e.s.seq f 8)
      (e.fldOp c.toNat (e.r.sget a.toNat).toNat f)).post e.s.seq 0 e.run.ctx [e.k]) none 1 none) := by
  have legal : (a == 31#5) = false := beq_false_of_ne ha
  subst hf
  refine (issueIf_runs (bad := fun _ => a == 31#5) (uses := fun _ => [tS a.toNat, tS (a.toNat + 1)]) h legal hr).trans ?_
  simp only [wbits_low, show 2 ^ 3 = 8 from rfl, fieldAddr_eq, hva, halign, beq_false_of_ne hc, hkey, hrange, hflight, failIf, firstTrip,
    bne_self_eq_false, Bool.or_self, Bool.not_true, Bool.false_eq_true, if_false, Env.apply_done, Env.retired_eq]
  rfl

section
variable {d a : BitVec 4}
  (hr : e.runs m { formD.aOnly with xzero := 0x18, memq := .all } true [tS (dNum e.pl d), tS (aNum e.pl a)] = true)
include hr

theorem exec_fst_illegal (hbad : (e.r.sget (aNum e.pl a)).toNat % 8 ≠ 0 ∨ e.t.cstate (bNum e.pl) = 1) :
    exec (.fst m d a) e.s = .next (e.trap (trip codeIllegal) e.now) := by
  refine (issue_runs h hr).trans ?_
  rw [if_pos, Env.apply_trap]
  rwa [wbits_low, Bool.or_eq_true, bne_iff_ne, beq_iff_eq]

/-- An FST whose checks pass forks its operation (R311). -/
theorem exec_fst (hva : (e.r.sget (aNum e.pl a)).toNat % 8 = 0) (hc : e.t.cstate (bNum e.pl) ≠ 1) :
    exec (.fst m d a) e.s = .next (e.retired (e.s.forking e.k (e.t.cset (bNum e.pl) (cval 1 0 0))
      (e.fstOp (bNum e.pl) (e.r.sget (aNum e.pl a)).toNat (e.r.sget (dNum e.pl d)))) none 1 none) := by
  refine (issue_runs h hr).trans ?_
  simp only [wbits_low, show 2 ^ 3 = 8 from rfl, hva, beq_false_of_ne hc, bne_self_eq_false, Bool.or_self, Bool.false_eq_true, if_false,
    Env.apply_done, Env.retired_eq]
  rfl

end

end

end Sys2Proof.Machine

namespace Sys2Proof.Proofs
open Sys2Proof.Machine

/-- Settles O21: each word where its checks pass, and XPROBE outside the task's range. -/
theorem countersLeasesAndProbes : Obligations.CountersLeasesAndProbes := by
  intro s e m c d a h hpipe f v u g
  obtain ⟨rfl, -⟩ := State.focus_some h
  refine ⟨fun hr => ⟨issue_runs h hr, issue_runs h hr⟩, fun hr hhigh hport hdead => exec_lndset h hr hpipe rfl hhigh hport hdead,
    fun hr hpos hmax => (issue_runs h hr).trans ?lease,
    fun hr halign hpos hmax hall => exec_unlease h hr rfl rfl halign hpos hmax hall,
    fun hr => ⟨exec_xprobe_reads h hr rfl, exec_xprobe_refused h hr rfl⟩⟩
  case lease =>
    simp only [decide_eq_false hpos.not_gt, decide_eq_false hmax.not_gt, Bool.or_self, Bool.false_eq_true, if_false]
    cases e.s.freeRun e.k (e.r.sget (aNum e.pl a)).toNat 64 0 0 <;> rfl

/-- Settles O24: the operation that FLD and FST fork, and the marker of FENCE. -/
theorem farAccessesAndFences : Obligations.FarAccessesAndFences := by
  intro s e m c a5 d a o8 h
  obtain ⟨rfl, -⟩ := State.focus_some h
  refine ⟨fun hr ha => ?fld, fun hr => ?fst,
    fun hr => ⟨fun hmask => (issue_runs h hr).trans ?_, fun hmask => (issue_runs h hr).trans ?_⟩⟩
  case fld =>
    intro va f hva halign hc hkey hrange hflight
    have word := exec_fld h hr ha rfl hva halign hc hkey hrange hflight
    obtain ⟨hcreg, hop⟩ := State.forking_fld e.s e.k c e.t f (e.fldOp c.toNat va.toNat f) e.run.ctx
    exact ⟨_, _, word, ((State.retire_memory ..).cget _).trans hcreg, (congrArg (mget · e.s.seq) (State.retire_elsewhere ..).ops).trans hop,
      rfl, rfl, rfl, rfl⟩
  case fst =>
    intro va
    refine ⟨exec_fst_illegal h hr, fun hva hc => ⟨_, e.fstOp (bNum e.pl) va.toNat (e.r.sget (dNum e.pl d)), exec_fst h hr hva hc, ?_, ?_,
      rfl, rfl, rfl, rfl⟩⟩
    · rw [Env.retired_eq, Env.retired_eq, State.retire, State.retire, State.tile_modTile, State.tile_modTile, State.forking_tile,
        State.tile_setTile]
      rfl
    · rw [Env.retired_eq]
      exact (congrArg (mget · e.s.seq) (State.retire_elsewhere ..).ops).trans (mget_mput_same ..)
  · simp only [hmask, if_true]
    rfl
  · simp only [hmask, if_false]
    rfl

end Sys2Proof.Proofs
end

section
/-!
What a scalar store changes, and that it is read back (R62, R65, R136, R290, R293).
-/
namespace Sys2Proof.Machine

/-! ## The banks hold bytes (R3) -/

theorem Memory.read_lt (m : List Host.Cell) (a n : Nat) : Memory.read m a n < 2 ^ (8 * n) := by
  have keeps (l : List Host.Cell) : ∀ x, x < 2 ^ (8 * n) →
      l.foldl (fun acc c => if a ≤ c.1 ∧ c.1 < a + n then acc ||| (c.2.toNat <<< (8 * (c.1 - a))) else acc) x < 2 ^ (8 * n) := by
    induction l with
    | nil => exact fun _ hx => hx
    | cons c l ih =>
      intro x hx
      rw [List.foldl_cons]
      refine ih _ ?_
      split
      next hin =>
        refine Nat.or_lt_two_pow hx ?_
        rw [Nat.shiftLeft_eq]
        calc c.2.toNat * 2 ^ (8 * (c.1 - a)) < 2 ^ 8 * 2 ^ (8 * (c.1 - a)) := Nat.mul_lt_mul_of_pos_right c.2.isLt (Nat.two_pow_pos _)
          _ = 2 ^ (8 + 8 * (c.1 - a)) := (Nat.pow_add ..).symm
          _ ≤ 2 ^ (8 * n) := Nat.pow_le_pow_right (by decide) (by omega)
      next => exact hx
  exact keeps m 0 (Nat.two_pow_pos _)

theorem numOfBytes_lt : ∀ bs : List Byte, numOfBytes bs < 2 ^ (8 * bs.length)
  | [] => by decide
  | b :: bs => by
    have ih := numOfBytes_lt bs
    have hb := b.isLt
    have hpow : 2 ^ (8 * (bs.length + 1)) = 256 * 2 ^ (8 * bs.length) := by rw [Nat.mul_succ, Nat.pow_add, Nat.mul_comm]
    rw [List.length_cons, hpow]
    change b.toNat + 256 * numOfBytes bs < _
    omega

theorem Tile.bankRead_lt (t : Tile) (f n : Nat) : t.bankRead f n < 2 ^ (8 * n) := by
  unfold Tile.bankRead
  split
  · exact Memory.read_lt ..
  · simpa only [List.length_map, List.length_range] using numOfBytes_lt ((List.range n).map fun i => t.fieldByte (f + i))

theorem Tile.fieldRead_lt (t : Tile) (now f n : Nat) : t.fieldRead true now f n < 2 ^ (8 * n) := overs_lt f n _ _ (t.bankRead_lt f n)

/-! ## A narrow store in the buffer (R62, R293) -/

/-- Entering the buffer changes nothing else of a tile. -/
theorem Tile.sbNarrow_only (t : Tile) (f n x : Nat) (at_ : StoreTime) :
    ∃ l i, t.sbNarrow f n x at_ = { t with sb := l, nextId := i } := by
  unfold Tile.sbNarrow
  split <;> exact ⟨_, _, rfl⟩

/-- What a reader sees rests on the buffer and the banks, and entering the buffer leaves the banks (R136). -/
theorem Tile.bankRead_sbNarrow (t : Tile) (f n x : Nat) (at_ : StoreTime) (a k : Nat) :
    (t.sbNarrow f n x at_).bankRead a k = t.bankRead a k := by
  obtain ⟨l, i, h⟩ := t.sbNarrow_only f n x at_
  rw [h]
  rfl

section
variable {f n : Nat} (hn : f % 32 + n ≤ 32) (t : Tile) (x : Nat) (at_ : StoreTime) (now : Nat)
include hn

/-- Beyond its bytes a store leaves what the A-core reads. -/
theorem Tile.fieldRead_sbNarrow_outside {b : Nat} (hb : b < f ∨ f + n ≤ b) :
    (t.sbNarrow f n x at_).fieldRead true now b 1 = t.fieldRead true now b 1 :=
  Tile.fieldRead_congr now b (t.bankRead_sbNarrow ..) (t.bankRead_lt b 1) fun i y hi => t.sbNarrow_outside f n x at_ _ hn (by omega) y

/-- The A-core reads the bytes that a store put into the buffer. -/
theorem Tile.fieldRead_sbNarrow_inside : (t.sbNarrow f n x at_).fieldRead true now f n = x % 2 ^ (8 * n) := by
  apply Nat.eq_of_testBit_eq
  intro i
  rw [Nat.testBit_mod_two_pow]
  by_cases hi : i < 8 * n
  · rw [Tile.fieldRead_testBit _ _ _ _ hi, t.sbNarrow_inside f n x at_ _ hn (by omega), decide_eq_true hi, Bool.true_and,
      Nat.add_sub_cancel_left]
  · rw [decide_eq_false hi, Bool.false_and]
    exact Nat.testBit_lt_two_pow (Nat.lt_of_lt_of_le (Tile.fieldRead_lt ..) (Nat.pow_le_pow_right (by decide) (Nat.le_of_not_lt hi)))

end

/-- The tile that a store of `x` leaves, but for its strand (R293). -/
def Env.stores (e : Env) (f n x : Nat) (merge : Bool) (t : Tile) : Tile :=
  (t.useBanks e.now (banksOf f n) merge).sbNarrow f n x (e.storeTime (e.now + 6))

/-- The state before a store retires: a store that does not merge has read its granule (R62, R65). -/
def Env.stored (e : Env) (f n x : Nat) (merge : Bool) : State :=
  (if merge then e.s else e.s.repair e.k f n).modTile e.k (e.stores f n x merge)

/-- What its own effect makes of a store: it waits, it traps, or its access has passed its checks and it enters the buffer. -/
theorem execStore_effect {e : Env} {n : Nat} {m : Bool} {d a : BitVec 4} {f : Nat} {t : State} (h : e.s.focus = some e)
    (hf : f = (e.r.sget (aNum e.pl a)).toNat % 2 ^ 22) (ht : execStore n m d a e.s = .next t) :
    e.Leaves e.t.checks e.r t ∨ portACheck e.t e.run f n n = none ∧
      t = (e.stored f n (e.r.sget (dNum e.pl d)).toNat (e.t.sbMergeable (f / 32))).retire e.k e.σ none 1 (some (e.now + 6)) := by
  subst hf
  rcases issue_leaves h rfl ht with hleft | rfl
  · exact .inl hleft
  · simp only [fieldAddr_eq]
    unfold Env.portA
    split
    · exact .inl (Env.leaves_waiting h)
    · split
      · exact .inl (Env.leaves_trap h ..)
      next hport =>
        split
        · exact .inl (Env.leaves_trap h ..)
        · split
          · exact .inl (Env.leaves_waiting h)
          · exact .inr ⟨hport, rfl⟩

/-- A tile whose granules show other errors (R65). -/
def Tile.marked (t : Tile) (w d : List Nat) : Tile := { t with field := { t.field with worn := w, dead := d } }

/-- Which errors the granules show does not matter to a store that enters the buffer (R62, R65). -/
theorem stores_marked (e : Env) (f n x : Nat) (merge : Bool) (t : Tile) (w d : List Nat) :
    e.stores f n x merge (t.marked w d) = (e.stores f n x merge t).marked w d := by
  unfold Env.stores Tile.sbNarrow
  rw [apply_ite (fun y : Tile => y.marked w d)]
  rfl

section
variable {e : Env} {f n : Nat} (h : e.s.focus = some e) (x : Nat) (merge : Bool)
include h

/-- The read that a store's new entry needs marks and repairs errors only (R65). -/
theorem Env.stored_tile : SameElsewhere e.k e.s (e.stored f n x merge) ∧ ∃ w d,
    (e.stored f n x merge).tile e.k = (e.stores f n x merge e.t).marked w d := by
  unfold Env.stored
  rw [State.tile_modTile]
  cases merge
  · obtain ⟨helse, w, d, htile⟩ := e.s.repair_cases e.k f n
    rw [Env.focus_tile h] at htile
    exact ⟨helse.trans (.modTile ..), w, d, (congrArg _ htile).trans (stores_marked ..)⟩
  · exact ⟨.modTile .., _, _, (congrArg _ (Env.focus_tile h)).trans (stores_marked (t := e.t) (w := e.t.field.worn) (d := e.t.field.dead) ..)⟩

variable (due : Option Nat)

/-- A store that has entered the buffer retires: of its tile only its strand, the buffer, the banks' uses and the marks of errors have
changed. -/
theorem Env.stored_only : ∃ w d u l i, ((e.stored f n x merge).retire e.k e.σ none 1 due).tile e.k =
    ({ e.t with sb := l, nextId := i, uses := u, field := { e.t.field with worn := w, dead := d } } : Tile).setStrand e.σ
      ((e.t.strand e.σ).retire (e.stored f n x merge).cycle none 1 due) := by
  obtain ⟨-, w, d, htile⟩ := Env.stored_tile (f := f) (n := n) h x merge
  obtain ⟨l, i, hnarrow⟩ := (e.t.useBanks e.now (banksOf f n) merge).sbNarrow_only f n x (e.storeTime (e.now + 6))
  refine ⟨w, d, (e.t.useBanks e.now (banksOf f n) merge).uses, l, i, ?_⟩
  rw [State.retire, State.tile_modTile, htile, Env.stores, hnarrow]
  cases e.σ <;> rfl

/-- What the A-core reads after a store has retired is what it reads of the tile with the store in its buffer. -/
theorem Env.stored_fieldRead (now b k : Nat) : (((e.stored f n x merge).retire e.k e.σ none 1 due).tile e.k).fieldRead true now b k =
    ((e.t.useBanks e.now (banksOf f n) merge).sbNarrow f n x (e.storeTime (e.now + 6))).fieldRead true now b k := by
  obtain ⟨-, w, d, htile⟩ := Env.stored_tile (f := f) (n := n) h x merge
  obtain ⟨l, i, hnarrow⟩ := (e.t.useBanks e.now (banksOf f n) merge).sbNarrow_only f n x (e.storeTime (e.now + 6))
  rw [State.retire, State.tile_modTile, htile, Env.stores, hnarrow]
  cases e.σ <;> rfl

end

/-- A store whose alignment check passes stays within its granule. -/
theorem granule_of_portACheck {t : Tile} {r : Run} {f n : Nat} (hn : n = 1 ∨ n = 2 ∨ n = 4 ∨ n = 8)
    (hport : portACheck t r f n n = none) : f % 32 + n ≤ 32 := by
  have halign : f % n = 0 := by
    by_contra hne
    have : portACheck t r f n n = some (trip codeIllegal) := by simp [portACheck, firstTrip, failIf, hne]
    rw [this] at hport
    cases hport
  rcases hn with rfl | rfl | rfl | rfl <;> omega

/-- The four widths of store are one meaning. -/
theorem exec_narrowStore {m : Bool} {d a : BitVec 4} {n : Nat} {i : Instr} (hi : narrowStore m d a n i) :
    (n = 1 ∨ n = 2 ∨ n = 4 ∨ n = 8) ∧ ∀ s, exec i s = execStore n m d a s := by
  rcases hi with ⟨rfl, rfl⟩ | ⟨rfl, rfl⟩ | ⟨rfl, rfl⟩ | ⟨rfl, rfl⟩ <;> exact ⟨by simp, fun _ => rfl⟩

end Sys2Proof.Machine

namespace Sys2Proof.Proofs
open Sys2Proof.Machine

/-- Settles O56: a store that waits or traps leaves its tile as every word does; one that runs changes its granule's entry of the buffer. -/
theorem storesFrame : Obligations.StoresFrame := by
  intro s t e m d a n i h hi ht f r y
  obtain ⟨rfl, -⟩ := State.focus_some h
  obtain ⟨hn, hexec⟩ := exec_narrowStore hi
  rw [hexec] at ht
  rcases execStore_effect h rfl ht with hleft | ⟨hport, rfl⟩
  · have kept := hleft.kept
    obtain ⟨z, htile, -⟩ := hleft.tile
    refine ⟨hleft.elsewhere, hleft.partner, kept.only, kept.st, kept.lget, ?_, fun now b _ => ?_⟩
    · rw [show y = _ from htile]
      cases e.σ <;> rfl
    · rw [show y = _ from htile]
      cases e.σ <;> rfl
  · have hfit := granule_of_portACheck hn hport
    obtain ⟨w, z, u, l, i, htile⟩ := Env.stored_only (f := f) (n := n) h (e.r.sget (dNum e.pl d)).toNat (e.t.sbMergeable (f / 32))
      (some (e.now + 6))
    obtain ⟨helse, -⟩ := Env.stored_tile (f := f) (n := n) h (e.r.sget (dNum e.pl d)).toNat (e.t.sbMergeable (f / 32))
    have hregs : r = e.r.retire none := by
      show Tile.regs (State.tile _ e.k) e.σ = _
      rw [htile, Env.focus_regs h]
      cases e.σ <;> rfl
    obtain ⟨honly, hst, hl⟩ := e.r.kept_retire
    rw [← hregs] at honly hst hl
    refine ⟨helse.trans (State.retire_elsewhere ..), ?_, honly, hst, hl, ?_, fun now b hb => ?_⟩
    · rw [show y = _ from htile]
      cases e.σ <;> rfl
    · rw [show y = _ from htile]
      cases e.σ <;> rfl
    · exact (Env.stored_fieldRead h ..).trans (Tile.fieldRead_sbNarrow_outside hfit _ _ _ now hb)

/-- Settles O57: a store that merges or enters puts its bytes into the buffer, over which the A-core reads. -/
theorem storesReadBack : Obligations.StoresReadBack := by
  intro s e m d a n i h hi hpipe hr f hport hway
  obtain ⟨rfl, -⟩ := State.focus_some h
  obtain ⟨hn, hexec⟩ := exec_narrowStore hi
  have hfit := granule_of_portACheck hn hport
  have runs : exec i e.s = .next ((e.stored f n (e.r.sget (dNum e.pl d)).toNat (e.t.sbMergeable (f / 32))).retire e.k e.σ none 1
      (some (e.now + 6))) := by
    rw [hexec]
    cases hmerge : e.t.sbMergeable (f / 32)
    · obtain ⟨hdead, hroom⟩ := hway.resolve_left (by simp [hmerge])
      exact execStore_enters h hpipe hr rfl hmerge hport hdead hroom
    · exact execStore_merges h hpipe hr rfl hport hmerge
  exact ⟨_, runs, fun now => (Env.stored_fieldRead h ..).trans (Tile.fieldRead_sbNarrow_inside hfit ..)⟩

end Sys2Proof.Proofs
end

section
/-!
Vector words from vector sources to a vector destination, and scalar floating point (R78–R80, R126, R337–R345, R347, R348, R350, R351, R354–R357).
-/
namespace Sys2Proof.Machine

/-! ## The one meaning of words from vectors to a vector (R337) -/

/-- What a word from vectors to a vector does once it is legal: it waits for its sources and for room, or takes the ones and fills the other. -/
def Env.vecEffect (e : Env) (d lat : Nat) (srcs : List Nat) (op : List Vec → Vec × FFlags) : Effect :=
  match e.t.vread e.now srcs with
  | none => .wait
  | some (vs, t) =>
    if e.t.vroom d e.now then .done (e.s.setTile e.k (e.vresult t d lat (op vs).1 (op vs).2)) none 1 none else .wait

section
variable {e : Env} {d lat : Nat} {srcs : List Nat} {op : List Vec → Vec × FFlags}

theorem Env.vecEffect_takes {vs : List Vec} {t : Tile} (hread : e.t.vread e.now srcs = some (vs, t)) (hroom : e.t.vroom d e.now = true) :
    e.vecEffect d lat srcs op = .done (e.s.setTile e.k (e.vresult t d lat (op vs).1 (op vs).2)) none 1 none := by
  simp only [Env.vecEffect, hread, hroom, if_true]

theorem Env.vecEffect_waits (hmiss : e.t.vread e.now srcs = none ∨ e.t.vroom d e.now = false) : e.vecEffect d lat srcs op = .wait := by
  unfold Env.vecEffect
  split
  · rfl
  next hread =>
    rw [hmiss.resolve_left (by simp [hread])]
    rfl

end

section
variable {e : Env} {m : Bool} {f : Form} {bad : BitVec 128 → Bool} {lat : Nat} {d : BitVec 128 → Nat} {srcs : BitVec 128 → List Nat}
  {old : Bool} {code : Env → Bool} {op : Env → List Vec → Vec × FFlags} {also : Env → List Touch} (h : e.s.focus = some e)
  (hbad : bad e.pl = false) (hd : if old then d e.pl < 28 else d e.pl < 30) (hcode : code e = false)
  (hr : e.runs m f.eOnly false (tV (d e.pl) ++ (srcs e.pl).flatMap tV ++ also e) = true)
include h hbad hd hcode hr

theorem vecIssue_runs : vecIssue m f bad lat d srcs old code op e.s also = .next (e.apply
    (e.vecEffect (d e.pl) lat (srcs e.pl) fun vs => op e (if old then e.t.vget (d e.pl) :: vs else vs))) := by
  have legal : (bad e.pl || decide (30 ≤ d e.pl) || (old && decide (28 ≤ d e.pl))) = false := by
    cases old
    · have target : d e.pl < 30 := hd
      simp [hbad, target]
    · have target : d e.pl < 28 := hd
      simp [hbad, target, Nat.lt_trans target (show 28 < 30 by decide)]
  refine (issueIf_runs h (by exact legal) (by exact hr)).trans ?_
  rw [hcode, if_neg Bool.false_ne_true]
  rfl

/-- The sources are taken with their pops, and the result is readable `lat` cycles later. -/
theorem vecIssue_takes {vs : List Vec} {t : Tile} (hread : e.t.vread e.now (srcs e.pl) = some (vs, t))
    (hroom : e.t.vroom (d e.pl) e.now = true) :
    let y := op e (if old then e.t.vget (d e.pl) :: vs else vs)
    vecIssue m f bad lat d srcs old code op e.s also =
      .next (e.retired (e.s.setTile e.k (e.vresult t (d e.pl) lat y.1 y.2)) none 1 none) := by
  rw [vecIssue_runs h hbad hd hcode hr, Env.vecEffect_takes hread hroom]
  rfl

/-- A word waits while a source or the destination's room is missing. -/
theorem vecIssue_waits (hmiss : e.t.vread e.now (srcs e.pl) = none ∨ e.t.vroom (d e.pl) e.now = false) :
    vecIssue m f bad lat d srcs old code op e.s also = .next e.s := by
  rw [vecIssue_runs h hbad hd hcode hr, Env.vecEffect_waits hmiss]
  rfl

end

section
variable {i : Bool → BitVec 4 → BitVec 4 → Instr} {f : Form} {lat : Nat} {srcs : BitVec 128 → BitVec 4 → BitVec 4 → List Nat} {old : Bool}
  {op : Env → List Vec → Vec × FFlags}

/-- A word whose meaning is that of words from vectors to a vector gives what R337 says. -/
theorem vectorGives_of (hi : ∀ m d a s, exec (i m d a) s =
    vecIssue m f (fun _ => false) lat (dNum · d) (srcs · d a) old (fun _ => false) op s) : vectorGives i f lat srcs old op := by
  intro s e m d a h hd hr
  obtain ⟨rfl, -⟩ := State.focus_some h
  have runs : e.runs m f.eOnly false (tV (dNum e.pl d) ++ (srcs e.pl d a).flatMap tV ++ []) = true := by rwa [List.append_nil]
  have takes := fun vs t => vecIssue_takes (bad := fun _ => false) (lat := lat) (d := (dNum · d)) (srcs := (srcs · d a)) (code := fun _ => false)
    (op := op) (also := fun _ => []) h rfl hd rfl runs (vs := vs) (t := t)
  have waits := vecIssue_waits (bad := fun _ => false) (lat := lat) (d := (dNum · d)) (srcs := (srcs · d a)) (code := fun _ => false)
    (op := op) (also := fun _ => []) h rfl hd rfl runs
  rw [hi]
  exact ⟨takes, fun _ _ _ hroom => waits (.inr hroom), fun hread => waits (.inl hread)⟩

end

/-! ## Words with a check, a table or a scalar of their own (R341, R345, R348) -/

theorem vecArg_cons_zero (x : Vec) (vs : List Vec) : vecArg (x :: vs) 0 = x := rfl

theorem vecArg_cons_succ (x : Vec) (vs : List Vec) (n : Nat) : vecArg (x :: vs) (n + 1) = vecArg vs n := rfl

/-- What every VCMP with a known condition needs of the checks on its words. -/
theorem vcmp_legal {e : Env} {m : Bool} {d a : BitVec 4} (hcond : bits (plXregByte e.pl) 0 4 < 11)
    (hr : e.runs m ({ formD3 with xzero := 0x10 } : Form).eOnly false (tV (dNum e.pl d) ++ tV (aNum e.pl a)) = true) :
    decide (11 ≤ bits (plXregByte e.pl) 0 4) = false ∧
      e.runs m ({ formD3 with xzero := 0x10 } : Form).eOnly false (tV (dNum e.pl d) ++ [aNum e.pl a].flatMap tV ++ []) = true := by
  refine ⟨decide_eq_false hcond.not_ge, ?_⟩
  rwa [List.append_nil, List.flatMap_singleton]

section
variable {e : Env} {m : Bool} {d a : BitVec 4} (h : e.s.focus = some e)
include h

section
variable (hd : dNum e.pl d < 28) (hcond : bits (plXregByte e.pl) 0 4 < 11)
  (hr : e.runs m ({ formD3 with xzero := 0x10 } : Form).eOnly false (tV (dNum e.pl d) ++ tV (aNum e.pl a)) = true)
include hd hcond hr

theorem exec_vcmp_waits (hread : e.t.vread e.now [aNum e.pl a] = none) : exec (.vcmp m d a) e.s = .next e.s := by
  obtain ⟨legal, runs⟩ := vcmp_legal hcond hr
  rw [exec, execVcmp]
  exact vecIssue_waits (d := (dNum · d)) (also := fun _ => []) h legal hd rfl runs (.inl hread)

/-- VCMP makes a mask of the lanes' conditions (R341). -/
theorem exec_vcmp {vs : List Vec} {t : Tile} (hread : e.t.vread e.now [aNum e.pl a] = some (vs, t)) :
    let y := perLane fun n =>
      let c := vcmpCond e.r.ftz (bits (plXregByte e.pl) 0 4) (laneN (e.t.vget (dNum e.pl d)) n) (laneN (vecArg vs 0) n)
      (if c.1 then 0xFFFFFFFF else 0, c.2)
    exec (.vcmp m d a) e.s = .next (e.retired (e.s.setTile e.k (e.vresult t (dNum e.pl d) 2 y.1 y.2)) none 1 none) := by
  obtain ⟨legal, runs⟩ := vcmp_legal hcond hr
  have room : e.t.vroom (dNum e.pl d) e.now = true := by simp [Tile.vroom, hd]
  rw [exec, execVcmp]
  refine (vecIssue_takes (f := { formD3 with xzero := 0x10 }) (bad := fun p => decide (11 ≤ bits (plXregByte p) 0 4)) (old := true)
    (d := (dNum · d)) (srcs := fun p => [aNum p a]) (code := fun _ => false) (also := fun _ => []) h legal hd rfl runs hread room).trans ?_
  simp only [if_true, vecArg_cons_zero, vecArg_cons_succ]

end

section
variable (hd : dNum e.pl d < 30) (hpair : badConversion (nfmtA e.pl 0) (nfmtB e.pl 0) = false)
  (hr : e.runs m ({ formD2 with nfmt := .must } : Form).eOnly false
    (tV (dNum e.pl d) ++ tV (aNum e.pl a) ++ cbTouch (nfmtA e.pl 0)) = true)
include hd hpair hr

theorem exec_vcvt_waits (hmiss : e.t.vread e.now [aNum e.pl a] = none ∨ e.t.vroom (dNum e.pl d) e.now = false) :
    exec (.vcvt m d a) e.s = .next e.s := by
  rw [exec, execVcvt]
  exact vecIssue_waits (old := false) (d := (dNum · d)) (also := fun e => cbTouch (nfmtA e.pl 0)) h rfl hd hpair
    (by rwa [List.flatMap_singleton]) hmiss

/-- VCVT converts lane by lane (R345). -/
theorem exec_vcvt {vs : List Vec} {t : Tile} (hread : e.t.vread e.now [aNum e.pl a] = some (vs, t))
    (hroom : e.t.vroom (dNum e.pl d) e.now = true) :
    let y := perLane fun n => convert e.r.rounding e.r.ftz (nfmtA e.pl 0) (nfmtB e.pl 0) (e.t.cbget (nfmtA e.pl 0 - 5))
      (laneN (vecArg vs 0) n)
    exec (.vcvt m d a) e.s = .next (e.retired (e.s.setTile e.k (e.vresult t (dNum e.pl d) 4 y.1 y.2)) none 1 none) := by
  rw [exec, execVcvt]
  exact vecIssue_takes (old := false) (d := (dNum · d)) (also := fun e => cbTouch (nfmtA e.pl 0)) h rfl hd hpair
    (by rwa [List.flatMap_singleton]) hread hroom

end

section
variable (hd : dNum e.pl d < 30) (hr : e.runs m formD2.eOnly false (tS (aNum e.pl a) :: tV (dNum e.pl d)) = true)
include hd hr

theorem exec_vbcast_waits (hroom : e.t.vroom (dNum e.pl d) e.now = false) : exec (.vbcast m d a) e.s = .next e.s := by
  rw [exec, execVbcast]
  refine (issueIf_runs h (dNum_checked hd) (by exact hr)).trans ?_
  rw [hroom, if_neg Bool.false_ne_true, Env.apply_wait]

/-- VBCAST puts the low half of a scalar into every lane (R348). -/
theorem exec_vbcast (hroom : e.t.vroom (dNum e.pl d) e.now = true) : exec (.vbcast m d a) e.s = .next (e.retired
    (e.s.setTile e.k (e.vresult e.t (dNum e.pl d) 2 (ofLanes fun _ => (e.r.sget (aNum e.pl a)).setWidth 32) 0#5)) none 1 none) := by
  rw [exec, execVbcast]
  refine (issueIf_runs h (dNum_checked hd) (by exact hr)).trans ?_
  rw [if_pos hroom, Env.apply_done, Env.retired_eq]

end

end

end Sys2Proof.Machine

namespace Sys2Proof.Proofs
open Sys2Proof.Machine

/-- Settles O25: each word is a word from vectors to a vector. -/
theorem vectorArithmetic : Obligations.VectorArithmetic := by
  refine ⟨vectorGives_of fun _ _ _ _ => rfl, vectorGives_of fun _ _ _ _ => rfl, vectorGives_of fun _ _ _ _ => rfl,
    vectorGives_of fun _ _ _ _ => rfl, vectorGives_of fun _ _ _ _ => rfl, vectorGives_of fun _ _ _ _ => rfl,
    vectorGives_of fun _ _ _ _ => rfl, vectorGives_of fun _ _ _ _ => rfl, vectorGives_of fun _ _ _ _ => rfl,
    vectorGives_of fun _ _ _ _ => rfl⟩

/-- VSEL chooses by the lanes of its mask. -/
theorem exec_vsel (m : Bool) (d a : BitVec 4) (s : State) : exec (.vsel m d a) s =
    vecIssue m formD3 (fun _ => false) 2 (dNum · d) (fun p => [aNum p a, bNum p]) true (fun _ => false)
      (fun _ vs => (ofLanes fun n => if lane (vecArg vs 0) n ≠ 0#32 then lane (vecArg vs 1) n else lane (vecArg vs 2) n, 0#5)) s := by
  simp only [exec, execVsel, bne_iff_ne]

/-- Settles O26: seven words are words from vectors to a vector; VCMP, VCVT and VBCAST have a check, a table or a scalar beside. -/
theorem vectorLanes : Obligations.VectorLanes := by
  refine ⟨vectorGives_of exec_vsel, vectorGives_of fun _ _ _ _ => rfl, vectorGives_of fun _ _ _ _ => rfl,
    vectorGives_of fun _ _ _ _ => rfl, vectorGives_of fun _ _ _ _ => rfl, vectorGives_of fun _ _ _ _ => rfl,
    vectorGives_of (i := fun m d _ => .viota m d) fun _ _ _ _ => rfl, fun s e m d a h => ?waits, fun s e m d a vs t h => ?runs⟩ <;>
    obtain ⟨rfl, -⟩ := State.focus_some h
  case waits =>
    exact ⟨fun hd hcond hread hr => exec_vcmp_waits h hd hcond hr hread, fun hd hpair hmiss hr => exec_vcvt_waits h hd hpair hr hmiss,
      fun hd hroom hr => exec_vbcast_waits h hd hr hroom⟩
  case runs =>
    exact ⟨fun hd hcond hread hr => exec_vcmp h hd hcond hr hread, fun hd hpair hread hroom hr => exec_vcvt h hd hpair hr hread hroom,
      fun hd hroom hr => exec_vbcast h hd hr hroom⟩

end Sys2Proof.Proofs
end

section
/-!
Scalar floating point (R354–R357).
-/
namespace Sys2Proof.Machine

section
variable {e : Env} {m : Bool} {d a : BitVec 4} {lat : Nat} (h : e.s.focus = some e)
include h

/-- An operation on two sources, as a result of latency `lat` with its flags. -/
theorem fpBin_posts (hr : e.runs m formD.page1.eOnly false [tS (dNum e.pl d), tS (dSources e.pl d a).1, tS (dSources e.pl d a).2] = true)
    (op : Nat → Nat → Nat → Nat × FFlags) :
    let y := op e.r.rounding (fpOf (e.r.sget (dSources e.pl d a).1)) (fpOf (e.r.sget (dSources e.pl d a).2))
    fpBin m lat d a op e.s = .next (e.posted lat (.s (dNum e.pl d) (w64 y.1)) y.2) :=
  issue_runs h hr

section
variable {f : Form} {code : Env → Bool} {op : Env → Word → Word × FFlags} {also : Env → List Touch}
  (hr : e.runs m f.page1.eOnly false ([tS (dNum e.pl d), tS (aNum e.pl a)] ++ also e) = true)
include hr

/-- An operation on one source whose code is known. -/
theorem fpUna_posts (hcode : code e = false) : let y := op e (e.r.sget (aNum e.pl a))
    fpUna m f lat d a code op e.s also = .next (e.posted lat (.s (dNum e.pl d) y.1) y.2) := by
  refine (issue_runs h (by exact hr)).trans ?_
  rw [hcode, if_neg Bool.false_ne_true]
  rfl

theorem fpUna_illegal (hcode : code e = true) : fpUna m f lat d a code op e.s also = .next (e.trap (trip codeIllegal) e.now) := by
  refine (issue_runs h (by exact hr)).trans ?_
  rw [if_pos hcode, Env.apply_trap]

end

/-- A comparison writes a predicate and its flags. -/
theorem fpCompare_writes {p : BitVec 3} {x : BitVec 5}
    (hr : e.runs m formC.page1.eOnly false ([tP p.toNat, tS x.toNat] ++ (if plXreg e.pl then [tS (bNum e.pl)] else [])) = true) (c : Nat) :
    let y := fCond fp32 false c (fpOf (e.r.sget x.toNat)) (if plXreg e.pl then fpOf (e.r.sget (bNum e.pl)) else 0)
    fpCompare m c p x e.s = .next (e.wrote fun r => (r.pset p.toNat y.1).orFlags y.2) :=
  issue_runs h hr

end

end Sys2Proof.Machine

namespace Sys2Proof.Proofs
open Sys2Proof.Machine

/-- Settles O28: each word is its operation, rounded as st says. -/
theorem scalarFloats : Obligations.ScalarFloats := by
  intro s e m d a p x h y z u md to_ q set
  obtain ⟨rfl, -⟩ := State.focus_some h
  refine ⟨fun hr => ?binary, fun hr => issue_runs h hr, fun hr => ?unary, fun hr => ⟨fun hpair => ?_, fun hpair => ?_⟩, fun hr => ?compare⟩
  case binary =>
    simp only [exec, execFadd, execFsub, execFmul, execFdiv, execFmin, execFmax, fpBin_posts h hr]
    exact ⟨rfl, rfl, rfl, rfl, rfl, rfl⟩
  case unary => 
    rw [exec, execFsqrt, exec, execFclass]
    exact ⟨fpUna_posts (also := fun _ => []) h hr rfl, fpUna_posts (also := fun _ => []) h hr rfl⟩
  case compare =>
    rw [exec, execFcmpeq, exec, execFcmplt, exec, execFcmple]
    exact ⟨fpCompare_writes h hr 0, fpCompare_writes h hr 2, fpCompare_writes h hr 3⟩
  · rw [exec, execFcvt]
    exact fpUna_posts (f := { formD2 with nfmt := .must }) (also := fun e => cbTouch (nfmtA e.pl 0)) h hr hpair
  · rw [exec, execFcvt]
    exact fpUna_illegal (f := { formD2 with nfmt := .must }) (also := fun e => cbTouch (nfmtA e.pl 0)) h hr hpair

end Sys2Proof.Proofs
end

section
/-!
System registers (R91, R367, R368).
-/
namespace Sys2Proof.Machine

/-- A word with a stage-1 check of its own that fails raises ILLEGAL. -/
theorem issueIf_illegal {e : Env} {bad : BitVec 128 → Bool} {m commit : Bool} {f : Form} {uses : Env → List Touch} {body : Env → Effect}
    (h : e.s.focus = some e) (hm : m = true → e.r.out = []) (hbad : bad e.pl = true) :
    issueIf bad m f commit uses body e.s = .next (e.trapForm f (trip codeIllegal)) := by
  rw [issueIf_checks h hm, Env.issue, hbad]
  rfl

/-- A word that executes does not park. -/
theorem Env.unparked_of_runs {e : Env} {m commit : Bool} {f : Form} {uses : List Touch} (hr : e.runs m f commit uses = true) :
    m = true → e.r.out = [] := by
  rintro rfl
  simp only [Env.runs, Bool.and_eq_true] at hr
  obtain ⟨⟨⟨⟨⟨hout, -⟩, -⟩, -⟩, -⟩, -⟩ := hr
  simpa using hout

section
variable {e : Env} {m : Bool} {d i : BitVec 4} (h : e.s.focus = some e)
include h

/-- The strand that issues is the one in focus. -/
theorem Env.focus_side : (e.s.who.map (·.2)).getD .a = e.σ := by
  obtain ⟨-, hwho, -⟩ := State.focus_some h
  rw [hwho]
  rfl

theorem State.latch_focus : e.s.latch = e.pl := by rw [State.latch, h]; rfl

/-! ## SYSRD -/

section
variable (hr : e.runs m formSys false [tS (dNum e.pl d)] = true)
include hr

theorem exec_sysrd {sc : SysScope} (hscope : sysScope (sysNum e.pl i) = some sc) (hbar : sysReadBarred (sysNum e.pl i) e.σ = false)
    (hflags : sysNum e.pl i ≠ 0 ∨ m = false ∨ e.σ = .a) :
    exec (.sysrd m d i) e.s = .next (e.sentLater sc.latency (.s (dNum e.pl d) (e.sysRead (sysNum e.pl i)))) := by
  have legal : ((sysScope (sysNum e.pl i)).isNone || sysReadBarred (sysNum e.pl i) e.σ) = false := by simp [hscope, hbar]
  have ready : (m && sysNum e.pl i == 0 && e.σ == .e && !(e.t.mx.idle && e.t.mx.flags.isEmpty)) = false := by
    rcases hflags with hn | rfl | hσ
    · simp [hn]
    · simp
    · simp [hσ]
  rw [exec, execSysrd, Env.focus_side h]
  refine (issueIf_runs h (by exact legal) (by exact hr)).trans ?_
  simp only [ready, hscope, Bool.false_eq_true, if_false, Option.getD_some, Env.sentLater]

theorem exec_sysrd_illegal (hbad : sysScope (sysNum e.pl i) = none ∨ sysReadBarred (sysNum e.pl i) e.σ = true) :
    exec (.sysrd m d i) e.s = .next (e.trap (trip codeIllegal) e.now) := by
  rw [exec, execSysrd, Env.focus_side h]
  exact issueIf_illegal h (Env.unparked_of_runs hr) (by simpa using hbad)

end

/-! ## SYSWR -/

section
variable (hr : e.runs m formSys (sysScope (sysNum e.pl i) != some .strand) [tS (dNum e.pl d)] = true) (howner : sysNum e.pl i ≠ 0x21)
include hr howner

theorem exec_syswr (hwrite : sysWritable (sysNum e.pl i) = true) (hbar : sysWriteBarred (sysNum e.pl i) e.σ = false)
    (hvalue : e.sysBad (sysNum e.pl i) (e.r.sget (dNum e.pl d)) = false) :
    exec (.syswr m d i) e.s = .next (e.retired (e.sysWrite (sysNum e.pl i) (e.r.sget (dNum e.pl d))) none
      (if sysScope (sysNum e.pl i) = some .wide then 24 else 1) none) := by
  have legal : (!sysWritable (sysNum e.pl i) || sysWriteBarred (sysNum e.pl i) e.σ) = false := by simp [hwrite, hbar]
  rw [exec, execSyswr, Env.focus_side h, State.latch_focus h, if_neg fun hsec => howner hsec.1]
  refine (issueIf_runs h (by exact legal) (by exact hr)).trans ?_
  simp only [hvalue, Bool.false_eq_true, if_false, Env.apply_done, Env.retired_eq]

theorem exec_syswr_illegal (hbad : sysWritable (sysNum e.pl i) = false ∨ sysWriteBarred (sysNum e.pl i) e.σ = true) :
    exec (.syswr m d i) e.s = .next (e.trap (trip codeIllegal) e.now) := by
  rw [exec, execSyswr, Env.focus_side h, State.latch_focus h, if_neg fun hsec => howner hsec.1]
  exact issueIf_illegal h (Env.unparked_of_runs hr) (by simpa using hbad)

end

/-- A write of OWNER raises SECURITY (R368). -/
theorem exec_syswr_owner (howner : sysNum e.pl i = 0x21) (hstage : formSys.stage1 e.pl e.σ = true) (hm : m = true → e.r.out = []) :
    exec (.syswr m d i) e.s = .next (e.trap (trip codeSecurity) e.now) := by
  rw [exec, execSyswr, Env.focus_side h, State.latch_focus h, if_pos ⟨howner, hstage⟩]
  simp only [h, not_parked hm, Bool.false_eq_true, if_false]

end

end Sys2Proof.Machine

namespace Sys2Proof.Proofs
open Sys2Proof.Machine

/-- Settles O30: SYSRD and SYSWR where the table allows them, where it does not, and on OWNER. -/
theorem systemRegisters : Obligations.SystemRegisters := by
  intro s e m d imm h n v
  obtain ⟨rfl, -⟩ := State.focus_some h
  exact ⟨fun hr => ⟨fun sc hscope hbar hflags => exec_sysrd h hr hscope hbar hflags, exec_sysrd_illegal h hr⟩,
    fun hr howner => ⟨exec_syswr h hr howner, exec_syswr_illegal h hr howner⟩, exec_syswr_owner h⟩

end Sys2Proof.Proofs
end

section
/-!
Requests to home units (R363–R366, R370–R388, R397).
-/
namespace Sys2Proof.Machine

/-- The state in which a word of the strand in focus has sent a request (R363). -/
def Env.asked (e : Env) (q : HomeReq) (s : State) : State :=
  { s with homes := mput s.homes s.seq q, seq := s.seq + 1 }.modTile e.k fun t =>
    t.setStrand e.σ { t.strand e.σ with home := some s.seq }

theorem Env.apply_send (e : Env) (s : State) (q : HomeReq) : e.apply (e.send s q) = e.asked q s := rfl

theorem Env.apply_ask (e : Env) (f : Figures) (d : Nat) (rel : Bool) (bad : Option Trip) (op : HomeOp) :
    e.apply (e.ask f d rel bad op) = e.asked (e.request f d rel bad op) e.s := rfl

section
variable {e : Env} {k : State → Option Nat → Effect}

theorem Env.reserving_some {i : Nat} {s : State} (h : e.s.reserveCont (dieOf e.k) = some (i, s)) : e.reserving k = k s (some i) := by
  rw [Env.reserving, h]

theorem Env.reserving_none (h : e.s.reserveCont (dieOf e.k) = none) : e.reserving k = k e.s none := by rw [Env.reserving, h]

end

/-- No check of a list fails where the list gives no trap. -/
theorem firstTrip_eq_none : ∀ {l : List (Option Trip)}, firstTrip l = none ↔ ∀ x ∈ l, x = none
  | [] => by simp [firstTrip]
  | some x :: l => by simp [firstTrip]
  | none :: l => by simp [firstTrip, firstTrip_eq_none (l := l)]

/-- Checks that pass leave the first as it stands. -/
theorem firstTrip_none_none (x : Option Trip) : firstTrip [x, none, none] = x := by
  cases x <;> rfl

section
variable {e : Env} {m : Bool} {d a : BitVec 4} {p : BitVec 3} {x : BitVec 5} (h : e.s.focus = some e)
include h

/-! ## FUTR, which may hold a continuation record (R374, R397) -/

section
variable (hr : e.runs m formGranX true [tS x.toNat, tP p.toNat] = true)
include hr

theorem exec_futr_reserves {i : Nat} {s : State} (hrec : e.s.reserveCont (dieOf e.k) = some (i, s)) :
    exec (.futr m p x) e.s = .next (e.asked (e.request granWait (hDie (e.r.sget x.toNat)) false e.noGran
      (.futr (e.r.sget x.toNat) x.toNat p.toNat (some i))) s) := by
  rw [exec, execFutr]
  refine (issue_runs h (by exact hr)).trans ?_
  rw [Env.reserving_some hrec, Env.apply_send]

theorem exec_futr_without (hrec : e.s.reserveCont (dieOf e.k) = none) :
    exec (.futr m p x) e.s = .next (e.asked (e.request granWait (hDie (e.r.sget x.toNat)) false e.noGran
      (.futr (e.r.sget x.toNat) x.toNat p.toNat none)) e.s) := by
  rw [exec, execFutr]
  refine (issue_runs h (by exact hr)).trans ?_
  rw [Env.reserving_none hrec, Env.apply_send]

end

/-! ## RETT, which reads the image of a trap save (R384) -/

section
variable (hr : e.runs m { formD2.page1 with guard := false } true [tS (dNum e.pl d), tS (aNum e.pl a)] = true)
include hr

theorem exec_rett_plain (hsave : e.r.sget (dNum e.pl d) = 0#64) :
    exec (.rett m d a) e.s = .next (e.asked (e.request taskFig (hDie (e.r.sget (aNum e.pl a))) false none
      (.rett 0#64 (e.r.sget (aNum e.pl a)) none none)) e.s) := by
  rw [exec, execRett]
  refine (issue_runs h (by exact hr)).trans ?_
  rw [hsave]
  rfl

/-- A RETT with a save area reads it at issue and repairs what it reads. -/
theorem exec_rett_image {f : Nat} (hsave : e.r.sget (dNum e.pl d) ≠ 0#64) (hf : f = (e.r.sget (dNum e.pl d)).toNat)
    (halign : f % 8192 = 0) (hrange : f < 2 ^ 22) :
    exec (.rett m d a) e.s = .next (e.asked (e.request taskFig (hDie (e.r.sget (aNum e.pl a))) false none
      (.rett (e.r.sget (dNum e.pl d)) (e.r.sget (aNum e.pl a))
        (some (bytesOfNum (e.t.fieldRead (e.σ == .a) e.now f saveImageBytes) saveImageBytes))
        (firstTrip [failIf (e.t.inFlight f saveImageBytes) (tripAt codeEarlyTouch f),
          failIf (e.t.isDead f saveImageBytes) (tripAt codePoison (e.t.deadAt f saveImageBytes))])))
      (if e.t.inFlight f saveImageBytes then e.s else e.s.repair e.k f saveImageBytes)) := by
  have low : wbits (e.r.sget (dNum e.pl d)) 0 22 = f := by rw [wbits_low, hf, Nat.mod_eq_of_lt (hf ▸ hrange)]
  have high : wbits (e.r.sget (dNum e.pl d)) 22 42 = 0 := by
    rw [wbits_zero_iff (by decide), ← hf, Nat.div_eq_of_lt hrange]
  have given : (e.r.sget (dNum e.pl d) != 0#64) = true := bne_iff_ne.2 hsave
  rw [exec, execRett]
  refine (issue_runs h (by exact hr)).trans ?_
  simp only [low, high, halign, hsave, given, poisonCheck, Env.apply_send, ne_eq, not_true, or_self, if_false, bne_self_eq_false,
    Bool.or_self, Bool.and_false, Bool.true_and, Option.isSome_some]
  cases e.t.inFlight f saveImageBytes <;> rfl

end

/-! ## AWAIT (R182, R183, R381, R397) -/

section
variable (hplain : awaitGran (e.r.sget x.toNat) = false) (hr : e.runs m formZ true [tP p.toNat, tS x.toNat] = true)
include hplain hr

/-- A wait that is not on a Granary cell asks its own die. -/
theorem exec_await_plain : exec (.await m p x) e.s = .next (e.asked (e.request awaitFig (dieOf e.k) false
    (e.awaitBad x.toNat (e.r.sget x.toNat)) (.await (e.r.sget x.toNat) (e.r.sget (x.toNat + 1)) x.toNat p.toNat none)) e.s) := by
  have touch : e.awaitTouch x.toNat = [tS x.toNat] := by rw [Env.awaitTouch, hplain]; rfl
  rw [exec, execAwait]
  refine (issue_runs (uses := fun e => tP p.toNat :: e.awaitTouch x.toNat) h (by rw [touch]; exact hr)).trans ?_
  dsimp only
  rw [hplain]
  rfl

end

section
variable (hgran : awaitGran (e.r.sget x.toNat) = true) (hr : e.runs m formZ true [tP p.toNat, tS x.toNat, tS (x.toNat + 1)] = true)
include hgran hr

/-- A wait on a Granary cell holds a continuation record of its die. -/
theorem exec_await_reserves {i : Nat} {s : State} (hrec : e.s.reserveCont (dieOf e.k) = some (i, s)) :
    exec (.await m p x) e.s = .next (e.asked (e.request granWait (hDie (e.r.sget (x.toNat + 1))) false
      (e.awaitBad x.toNat (e.r.sget x.toNat))
      (.await (e.r.sget x.toNat) (e.r.sget (x.toNat + 1)) x.toNat p.toNat (some i))) s) := by
  have touch : e.awaitTouch x.toNat = [tS x.toNat, tS (x.toNat + 1)] := by rw [Env.awaitTouch, hgran]; rfl
  rw [exec, execAwait]
  refine (issue_runs (uses := fun e => tP p.toNat :: e.awaitTouch x.toNat) h (by rw [touch]; exact hr)).trans ?_
  dsimp only
  rw [hgran, if_pos rfl, Env.reserving_some hrec]
  simp only [reduceCtorEq, and_false, if_false, firstTrip_none_none, Env.apply_send]

/-- A wait on a Granary cell that passes the checks of its tile falls through where its die has no record. -/
theorem exec_await_without (hrec : e.s.reserveCont (dieOf e.k) = none) (hbad : e.awaitBad x.toNat (e.r.sget x.toNat) = none)
    (hcont : e.run.cont = none) (hlive : e.t.liveCount ≤ 16)
    (hpins : pinsKind (wbits (e.r.sget x.toNat) 60 4) (e.s.task e.run.die e.run.idx) = false) :
    exec (.await m p x) e.s = .next (e.asked
      { e.request granWait (hDie (e.r.sget (x.toNat + 1))) false none
          (.await (e.r.sget x.toNat) (e.r.sget (x.toNat + 1)) x.toNat p.toNat none) with
        reply := some { trap := none, res := [.p p.toNat false], ends := false } } e.s) := by
  have touch : e.awaitTouch x.toNat = [tS x.toNat, tS (x.toNat + 1)] := by rw [Env.awaitTouch, hgran]; rfl
  have alone : e.run.secondEnding = none := by
    have single : failIf e.run.gang (trip codeIllegal) = none := firstTrip_eq_none.1 hbad _ (by simp)
    rw [Run.secondEnding, hcont, Option.isSome_none, Bool.or_false, single]
  have fits : e.s.recordTrip e.t e.run e.t.liveCount (wbits (e.r.sget x.toNat) 60 4) 0 = none := by
    have few : decide (16 < e.t.liveCount + popcount 0 8) = false := decide_eq_false (by rw [show popcount 0 8 = 0 from rfl]; omega)
    rw [State.recordTrip, few, hpins]
    rfl
  rw [exec, execAwait]
  refine (issue_runs (uses := fun e => tP p.toNat :: e.awaitTouch x.toNat) h (by rw [touch]; exact hr)).trans ?_
  dsimp only
  rw [hgran, if_pos rfl, Env.reserving_none hrec, hbad, alone, fits]
  rfl

end

end

end Sys2Proof.Machine

namespace Sys2Proof.Proofs
open Sys2Proof.Machine

/-- Settles O31: each word sends its request; FUTR, RETT and AWAIT by the cases that they tell apart. -/
theorem granaryAndTaskRequests : Obligations.GranaryAndTaskRequests := by
  intro s e m d a imm p x h asked sd sa sb sx sx1 die rel cx three two fn
  obtain ⟨rfl, -⟩ := State.focus_some h
  refine ⟨fun hr => issue_runs h hr, fun hr => ⟨issue_runs h hr, issue_runs h hr⟩, fun hr => issue_runs h hr,
    fun hr => ⟨fun i s' hrec => exec_futr_reserves h hr hrec, exec_futr_without h hr⟩,
    fun hr => ⟨issue_runs h hr, issue_runs h hr⟩, fun hr => ⟨issue_runs h hr, issue_runs h hr, issue_runs h hr⟩,
    fun hr => ⟨issue_runs h hr, issue_runs h hr⟩, fun hr => issue_runs h hr, fun hr => issue_runs h hr, fun hr => issue_runs h hr,
    fun hr => issue_runs h hr, exec_rett_plain h,
    fun hr hsave halign hrange => exec_rett_image h hr hsave rfl halign hrange,
    fun hr hplain => exec_await_plain h hplain hr, fun hr hgran => ⟨fun i s' hrec => exec_await_reserves h hgran hr hrec,
      fun hrec hbad hcont hlive hpins => exec_await_without h hgran hr hrec hbad hcont hlive hpins⟩⟩

end Sys2Proof.Proofs
end

section
/-!
Frames, beams and prefixes, and the local BHASH and CALQ (R206, R363, R364, R383, R385–R388).
-/
namespace Sys2Proof.Machine

theorem failIf_beyond {n x : Nat} (h : x ≤ n) (t : Trip) : failIf (decide (n < x)) t = none := by
  rw [decide_eq_false h.not_gt]
  rfl

section
variable {e : Env} {m : Bool} {d a : BitVec 4} {p : BitVec 3} {x : BitVec 5} (h : e.s.focus = some e)
include h

/-! ## Requests -/

/-- FPUSH takes six registers (R198). -/
theorem exec_fpush (hr : e.runs m formD2.page1 true (.fd :: tS (dNum e.pl d) :: e.pushTouch (aNum e.pl a)) = true) (hn : aNum e.pl a ≤ 26) :
    exec (.fpush m d a) e.s = .next (e.asked (e.request sheafFig e.run.fibreDie false none
      (.fpush (e.r.six (aNum e.pl a)) (dNum e.pl d))) e.s) := by
  rw [exec, execFpush]
  refine (issue_runs h (by exact hr)).trans ?_
  simp only [failIf_beyond hn, Env.apply_ask]

section
variable (hr : e.runs m { page := 1, xreg := .must, xzero := 0x60 } true [tP p.toNat, tS x.toNat, tS (bNum e.pl)] = true)
include hr

theorem exec_fcompact_reserves {i : Nat} {s : State} (hrec : e.s.reserveCont (dieOf e.k) = some (i, s)) :
    exec (.fcompact m p x) e.s = .next (e.asked (e.request sheafWait (hDie (e.r.sget x.toNat)) false none
      (.fcompact (e.r.sget x.toNat) (e.r.sget (bNum e.pl)) p.toNat (some i))) s) := by
  rw [exec, execFcompact]
  refine (issue_runs h (by exact hr)).trans ?_
  rw [Env.reserving_some hrec, Env.apply_send]

theorem exec_fcompact_without (hrec : e.s.reserveCont (dieOf e.k) = none) :
    exec (.fcompact m p x) e.s = .next (e.asked (e.request sheafWait (hDie (e.r.sget x.toNat)) false none
      (.fcompact (e.r.sget x.toNat) (e.r.sget (bNum e.pl)) p.toNat none)) e.s) := by
  rw [exec, execFcompact]
  refine (issue_runs h (by exact hr)).trans ?_
  rw [Env.reserving_none hrec, Env.apply_send]

end

/-- BEAMMAP takes as many registers as its form says (R204). -/
theorem exec_beammap {n : Nat} (hn : n = beamRegs (e.r.sget (aNum e.pl a)))
    (hr : e.runs m formDa.page1 true (tSs (aNum e.pl a) n) = true) (htop : aNum e.pl a + n ≤ 32) :
    exec (.beammap m a) e.s = .next (e.asked (e.request sheafFig (dieOf e.k) false none
      (.beammap ((List.range n).map fun i => e.r.sget (aNum e.pl a + i)))) e.s) := by
  subst hn
  rw [exec, execBeammap]
  refine (issue_runs h (by exact hr)).trans ?_
  simp only [failIf_beyond htop, Env.apply_ask]

/-- PFXLOOK takes three registers (R386). -/
theorem exec_pfxlook (hr : e.runs m formDa.page1 true (tSs (aNum e.pl a) 3) = true) (hn : aNum e.pl a ≤ 29) :
    exec (.pfxlook m a) e.s = .next (e.asked (e.request sheafFig 0 false none
      (.pfxlook (e.r.sget (aNum e.pl a)) (e.r.sget (aNum e.pl a + 1)) (e.r.sget (aNum e.pl a + 2)))) e.s) := by
  rw [exec, execPfxlook]
  refine (issue_runs h (by exact hr)).trans ?_
  simp only [failIf_beyond hn, Env.apply_ask]

/-- PFXPUT takes three registers beside its handle (R208). -/
theorem exec_pfxput (hr : e.runs m formD2.page1 true
      (tS (dNum e.pl d) :: tSs (aNum e.pl a) (if e.r.sget (aNum e.pl a) = 0#64 then 1 else 3)) = true) (hn : aNum e.pl a ≤ 29) :
    exec (.pfxput m d a) e.s = .next (e.asked (e.request sheafFig 0 false none
      (.pfxput (e.r.sget (dNum e.pl d)) (e.r.sget (aNum e.pl a)) (e.r.sget (aNum e.pl a + 1)) (e.r.sget (aNum e.pl a + 2)))) e.s) := by
  rw [exec, execPfxput]
  refine (issue_runs h (by exact hr)).trans ?_
  simp only [failIf_beyond hn, Env.apply_ask]

/-! ## Local words -/

/-- BHASH hashes the eight registers of a block (R206). -/
theorem exec_bhash (hb : bNum e.pl ≤ 24)
    (hr : e.runs m formD3.page1 false ([tS (dNum e.pl d), tS (aNum e.pl a)] ++ tSs (bNum e.pl) 8) = true) :
    exec (.bhash m d a) e.s = .next (e.sentLater 4 (.s (dNum e.pl d)
      (hashBlock (e.r.sget (aNum e.pl a)) fun i => e.r.sget (bNum e.pl + i)))) := by
  rw [exec, execBhash]
  refine (issue_runs (uses := fun e => [tS (dNum e.pl d), tS (aNum e.pl a)] ++ (if bNum e.pl ≤ 24 then tSs (bNum e.pl) 8 else [])) h
    (by rw [if_pos hb]; exact hr)).trans ?_
  simp only [hb.not_gt, if_false, Env.sentLater]

/-- The value of a CALQ of kind `k` with argument `arg` (R383). -/
def Env.calendar (e : Env) (k arg : Nat) : Word :=
  match k with
  | 0 => e.s.slice e.k (e.s.furrow + arg) e.run
  | 1 => unitMask fun u => e.t.leased e.run.fibre u
  | 2 => unitMask fun u => e.s.unitFree e.k u
  | _ => unitMask fun u => e.run.scratchUnit u

theorem exec_calq {k : Nat} (hr : e.runs m formD2.page1 false [tS (dNum e.pl d), tS (aNum e.pl a)] = true)
    (hhigh : wbits (e.r.sget (aNum e.pl a)) 16 48 = 0) (hkind : wbits (e.r.sget (aNum e.pl a)) 0 4 = k) (hknown : k < 4)
    (harg : k = 0 ∨ wbits (e.r.sget (aNum e.pl a)) 4 12 = 0) :
    exec (.calq m d a) e.s = .next (e.sentLater 8 (.s (dNum e.pl d) (e.calendar k (wbits (e.r.sget (aNum e.pl a)) 4 12)))) := by
  have legal : ¬ (4 ≤ k ∨ wbits (e.r.sget (aNum e.pl a)) 16 48 ≠ 0 ∨ (k ≠ 0 ∧ wbits (e.r.sget (aNum e.pl a)) 4 12 ≠ 0)) := by
    omega
  subst hkind
  rw [exec, execCalq]
  refine (issue_runs h (by exact hr)).trans ?_
  dsimp only
  rw [if_neg legal]
  rfl

end

end Sys2Proof.Machine

namespace Sys2Proof.Proofs
open Sys2Proof.Machine

/-- Settles O32: each word sends its request; BHASH and CALQ answer by themselves. -/
theorem frameAndPrefixRequests : Obligations.FrameAndPrefixRequests := by
  intro s e m d a p a5 h asked n sd sa sb home two sheaf
  obtain ⟨rfl, -⟩ := State.focus_some h
  refine ⟨exec_fpush h, fun hr => ?_, fun hr => ⟨?_, ?_⟩, fun hr => ⟨?_, ?_⟩, fun hr => ?_, fun hr => ?fcompact, fun hr => ?_,
    fun hr htop => ?beammap, exec_pfxlook h, exec_pfxput h, exec_bhash h, fun hr hhigh => ?calq⟩
  case fcompact => exact ⟨fun i s' hrec => exec_fcompact_reserves h hr hrec, exec_fcompact_without h hr⟩
  case beammap => exact exec_beammap h rfl hr htop
  case calq =>
    exact ⟨fun hkind => exec_calq (k := 0) h hr hhigh hkind (by decide) (.inl rfl),
      fun hkind harg => exec_calq (k := 1) h hr hhigh hkind (by decide) (.inr harg),
      fun hkind harg => exec_calq (k := 2) h hr hhigh hkind (by decide) (.inr harg),
      fun hkind harg => exec_calq (k := 3) h hr hhigh hkind (by decide) (.inr harg)⟩
  all_goals exact issue_runs h hr

end Sys2Proof.Proofs
end

section
/-!
What home units do with the requests that reach them, and the walk of a future's waiters (R185–R187, R364, R365, R372, R374, R376).
-/
namespace Sys2Proof.Machine

/-! ## A request reaches its unit (R364) -/

theorem exec_homeUnitPerform {s : State} {i : Nat} {q : HomeReq} {c : Nat} (hq : mget s.homes i = some q) (hsent : q.sentAt = some c)
    (hreply : q.reply = none) (hreach : c + q.reach ≤ s.cycle) : exec (.homeUnitPerform i) s =
      .next ({ (s.perform q).1 with homes := mput (s.perform q).1.homes i { q with reply := some (s.perform q).2 } } : State).observeTails := by
  have due : (q.reply.isSome || decide (s.cycle < c + q.reach)) = false := by simp [hreply, hreach]
  rw [exec, execHomeUnitPerform, hq]
  dsimp only
  rw [hsent]
  dsimp only
  rw [due, if_neg Bool.false_ne_true]

/-- A check that the tile's own operands failed has no effect at the unit. -/
theorem State.perform_bad {s : State} {q : HomeReq} {x : Trip} (hbad : q.bad = some x) (hslot : q.op.slot = none) :
    s.perform q = (s, { trap := some x, res := [], ends := false }) := by
  rw [State.perform, hbad]
  dsimp only
  rw [hslot]
  rfl

section
variable {s : State} {q : HomeReq} {h : Word} (hbad : q.bad = none)

/-! ## Plain cells (R186, R187, R372) -/

theorem State.setCont_cells (s : State) (d i : Nat) (c : ContRec) : SameOfDies Die.cells s (s.setCont d i c) :=
  s.modDie_sameOfDies d (f := fun y => { y with conts := mput y.conts i c }) fun _ => rfl

theorem State.meet_cells (s : State) (h : Word) (f : ContRec → ContRec) : SameOfDies Die.cells s (s.meet h f) := by
  unfold State.meet
  split
  · exact s.setCont_cells ..
  · exact .refl s

theorem State.cellAt_putCellAt (s : State) (h : Word) (c : Cell) : (s.putCellAt h c).cellAt h = c := s.cellAt_modCell h fun _ => c

/-- Meeting the waiters of a cell that is updated changes no cell (R186). -/
theorem State.updateCell_cellAt (s : State) (h : Word) (c : Cell) : ((s.updateCell h c).cellAt h).w0 = c.w0 := by
  unfold State.updateCell
  refine (foldl_proj (fun s : State => (s.cellAt h).w0)
    (fun s w => congrArg Cell.w0 ((s.meet_cells w id).cell (hDie h) (hIndex h))) _ _).trans ?_
  rw [State.cellAt_putCellAt]
  split <;> rfl

theorem State.performWord0_updates {d : Nat} {f : Word → Word} (hok : s.cellTrip (s.ctxOf q) h [.plain] = none) :
    ((s.performWord0 q h d f).1.cellAt h).w0 = f (s.cellAt h).w0 ∧
      (s.performWord0 q h d f).2 = { trap := none, res := [.s d (s.cellAt h).w0], ends := false } := by
  simp only [State.performWord0, hok]
  exact ⟨s.updateCell_cellAt .., rfl⟩

/-! ## Futures (R185, R374) -/

theorem State.performFutw_writes {v : Word} (hok : s.cellTrip (s.ctxOf q) h [.future] = none) (hempty : (s.cellAt h).futureState = 0) :
    s.performFutw q h v = answer (s.writeFuture h v) [] := by
  simp [State.performFutw, hok, hempty, firstTrip, failIf]

theorem State.performFutw_twice {v : Word} (hok : s.cellTrip (s.ctxOf q) h [.future] = none) (hfull : (s.cellAt h).futureState ≠ 0) :
    s.performFutw q h v = refuse s (trip codeDoubleWrite) := by
  simp [State.performFutw, hok, hfull, firstTrip, failIf]

theorem State.writeFuture_cellAt (s : State) (h v : Word) : (s.writeFuture h v).cellAt h = (s.cellAt h).full v := by
  rw [State.cellAt, (s.writeFuture_cells h v).cell]
  exact s.cellAt_modCell h (·.full v)

/-! ## Graph parameters (R189, R376) -/

theorem State.setGp_gpGet (s : State) {x n : Nat} (hx : x < 16) (hn : n < 64) (v : Word) : ((s.setGp x n v).ctx x).gpGet n = v := by
  rw [State.setGp, State.ctx_modCtx hx]
  simp [Ctx.gpGet, hn]

end

/-! ## The walk of a future's waiters (R185) -/

section
variable {s t : State} (hd : t.dies = s.dies)
include hd

theorem State.cont_congr (d i : Nat) : t.cont d i = s.cont d i := by rw [State.cont, State.die, hd, State.cont, State.die]

theorem State.contOk_congr (h : Word) : t.contOk h = s.contOk h := by rw [State.contOk, State.cont_congr hd, State.contOk]

theorem State.futureList_congr : ∀ (n : Nat) (h : Word), t.futureList h n = s.futureList h n
  | 0, _ => rfl
  | n + 1, h => by
    rw [State.futureList, State.futureList, State.contOk_congr hd, State.cont_congr hd, State.futureList_congr n]

theorem State.waitFuel_congr : waitFuel t = waitFuel s := by simp only [waitFuel, State.die, hd]

end

theorem State.walkWaiters_records (s : State) (w : WaitWalk) : OnlyRecords s (s.walkWaiters w) := by
  refine foldl_rel .refl .trans (fun s h => ?_) _ s
  split
  · exact s.meet_records ..
  · exact s.meet_records ..

theorem State.meet_waiting {s : State} {h : Word} (f : ContRec → ContRec) (hok : s.contOk h = true)
    (hstate : (s.cont (hDie h) (hIndex h)).state = 1) (hmet : (s.cont (hDie h) (hIndex h)).met = false) :
    (s.meet h f).cont (hDie h) (hIndex h) = { f (s.cont (hDie h) (hIndex h)) with met := true } := by
  rw [State.meet, hok, hstate, hmet, if_pos (by rfl), State.modCont, State.cont_setCont _ _ _ (hDie_lt h)]

theorem ContRec.word_setWord (c : ContRec) {k : Nat} (v : Word) (h : k < 24) : (c.setWord k v).word k = v := by
  simp [ContRec.word, ContRec.setWord, h]

/-- A single waiter takes the value, and its wait is met. -/
theorem State.walkWaiters_single {s t : State} {w : WaitWalk} {h : Word} (hd : t.dies = s.dies)
    (hlist : s.futureList w.head (waitFuel s) = [h]) (hok : s.contOk h = true) (hstate : (s.cont (hDie h) (hIndex h)).state = 1)
    (hmet : (s.cont (hDie h) (hIndex h)).met = false) (hplain : w.poison = false) : (t.walkWaiters w).cont (hDie h) (hIndex h) =
      { (s.cont (hDie h) (hIndex h)).setWord 5 w.value with met := true } := by
  rw [← State.waitFuel_congr hd, ← State.futureList_congr hd] at hlist
  rw [← State.contOk_congr hd] at hok
  rw [← State.cont_congr hd] at hstate hmet ⊢
  rw [State.walkWaiters, hlist, hplain]
  exact State.meet_waiting (fun c => c.setWord 5 w.value) hok hstate hmet

theorem exec_futureWaiterWalk {s : State} {i : Nat} {w : WaitWalk} (hw : mget s.walks i = some w) :
    exec (.futureWaiterWalk i) s = .next (({ s with walks := mdel s.walks i } : State).walkWaiters w) := by
  rw [exec, execFutureWaiterWalk, hw]

end Sys2Proof.Machine

namespace Sys2Proof.Proofs
open Sys2Proof.Machine

/-- Settles O39: the request as it is performed, and the operations that the statement names. -/
theorem homeUnitsPerform : Obligations.HomeUnitsPerform := by
  intro s i
  refine ⟨fun q c hq hsent hreply hreach => ?reach, fun q x => State.perform_bad, fun q h hbad hok => ?plain,
    fun q h v hbad hop hok => ?futw, fun q n v d hbad hx hn => ?param, fun w hw => ?walk⟩
  case reach => exact ⟨_, exec_homeUnitPerform hq hsent hreply hreach, mget_mput_same .., rfl, rfl, rfl⟩
  case plain =>
    refine ⟨fun fn v d hop => ?_, fun x y d hop => ?_⟩
    · rw [State.perform, hbad, hop]
      exact State.performWord0_updates hok
    · rw [State.perform, hbad, hop]
      exact State.performWord0_updates hok
  case futw =>
    rw [State.perform, hbad, hop]
    refine ⟨fun hempty => ?_, fun hfull => State.performFutw_twice hok hfull⟩
    dsimp only
    rw [State.performFutw_writes hok hempty]
    dsimp only [answer]
    rw [State.writeFuture_cellAt]
    exact ⟨rfl, Cell.futureState_full .., rfl⟩
  case param =>
    refine ⟨fun hgood => ⟨fun hop => ?_, fun hop => ?_⟩, fun y hlost hop => ?_⟩
    · rw [State.perform, hbad, hop]
      simp only [State.performGpset, hgood, answer]
      exact ⟨s.setGp_gpGet hx hn v, trivial⟩
    · rw [State.perform, hbad, hop]
      simp only [State.performGparam, hgood, answer]
    · rcases hop with hop | hop
      · rw [State.perform, hbad, hop]
        simp only [State.performGpset, hlost, refuse]
      · rw [State.perform, hbad, hop]
        simp only [State.performGparam, hlost, refuse]
  case walk =>
    refine ⟨_, exec_futureWaiterWalk hw, ?_, fun h hlist hok hstate hmet hplain => ?_⟩
    · rw [congrArg State.walks (State.walkWaiters_records _ w)]
      exact mget_mdel_same ..
    · rw [State.walkWaiters_single (s := s) (t := { s with walks := mdel s.walks i }) rfl hlist hok hstate hmet hplain]
      exact ⟨ContRec.word_setWord _ _ (by decide), rfl⟩

end Sys2Proof.Proofs
end

section
/-!
Mailbox commands of the contexts' streams (R189, R195, R203, R258, R259, R261).
-/
namespace Sys2Proof.Machine

/-! ## The answer to a command (R258) -/

namespace OnlyMail
variable {s t : State} (h : OnlyMail s t)
include h

theorem ctxs : t.ctxs = s.ctxs := (congrArg State.ctxs h).trans rfl
theorem compacts : t.compacts = s.compacts := (congrArg State.compacts h).trans rfl
theorem poison : t.poison = s.poison := (congrArg State.poison h).trans rfl
theorem tier : t.tier = s.tier := (congrArg State.tier h).trans rfl

theorem ctx (x : Nat) : t.ctx x = s.ctx x := by rw [State.ctx, h.ctxs, State.ctx]

theorem die (d : Nat) : t.die d = s.die d := by rw [State.die, h.dies, State.die]

theorem fibre (f : BitVec 16) : t.fibre f = s.fibre f := by rw [State.fibre, h.die, State.fibre]

theorem pool (d x : Nat) : t.pool d x = s.pool d x := by rw [State.pool, h.die, State.pool]

theorem taskAt (k : Word) : t.taskAt k = s.taskAt k := State.task_congr h.dies ..

end OnlyMail

/-- A reply changes mailboxes, interrupts and outputs only. -/
theorem State.reply_mail (s : State) (c : Cmd) (n : Nat) : OnlyMail s (s.reply c n) :=
  OnlyMail.trans (t := s.modCore c.core fun y => { y with cur := none }) rfl (State.mailDone_mail ..)

/-- The host is told the status, after what had been sent. -/
theorem State.reply_sends (s : State) (c : Cmd) (n : Nat) : Sends s (s.reply c n) [.mailDone c.core c.slot n] :=
  (State.mailDone_sends (s.modCore c.core fun y => { y with cur := none }) c.core c.slot n)

theorem State.command_core {s : State} {k : Nat} {c : Cmd} (h : s.command k = some c) : c.core = k ∧ k < 16 := by
  obtain ⟨p, hcur, rfl⟩ := Option.map_eq_some_iff.1 h
  refine ⟨rfl, Nat.lt_of_not_le fun hk => ?_⟩
  simp [State.core, hk, Core.reset] at hcur

section
variable {s : State} {k code : Nat} {c : Cmd} {tenant : Bool} {f : Cmd → State → State}

/-- A command that is ready is performed. -/
theorem mailCommand_ready (hr : mailReady s k c code tenant) : mailCommand code tenant f k s = .next (f c s) := by
  obtain ⟨hcmd, hcode, hstream, hreserved, hctx⟩ := hr
  rw [mailCommand, hcmd]
  dsimp only
  rw [if_neg (not_not.2 hcode), if_neg (not_not.2 hstream), if_neg]
  exact not_or.2 ⟨not_not.2 hreserved, Nat.not_le.2 hctx⟩

/-- A command over another stream is DENIED (R259). -/
theorem mailCommand_denied (hcmd : s.command k = some c) (hcode : c.code = code) (hstream : c.stream ≠ if tenant then some c.ctx else none) :
    mailCommand code tenant f k s = .next (s.reply c statDenied) := by
  rw [mailCommand, hcmd]
  dsimp only
  rw [if_neg (not_not.2 hcode), if_pos hstream]

/-- What a state is told that replies: its core hears the status, and nothing but mailboxes, interrupts and outputs differs. -/
theorem reply_told (hcmd : s.command k = some c) (u : State) (n : Nat) :
    .mailDone k c.slot n ∈ (u.reply c n).sent ∧ OnlyMail u (u.reply c n) := by
  obtain ⟨hcore, -⟩ := State.command_core hcmd
  obtain ⟨l, hsent, hmem⟩ := u.reply_sends c n
  refine ⟨?_, u.reply_mail c n⟩
  rw [hsent, ← hcore]
  exact List.mem_append_left _ (hmem _ (List.mem_singleton.2 rfl))

/-- A command whose effect ends with a reply tells its status, and leaves what its effect makes but for mailboxes. -/
theorem mailCommand_replies {P : State → Prop} {u : State} {n : Nat} (hr : mailReady s k c code tenant) (hf : f c s = u.reply c n)
    (hP : ∀ t, OnlyMail u t → P t) : ∃ t, mailCommand code tenant f k s = .next t ∧ .mailDone k c.slot n ∈ t.sent ∧ P t := by
  obtain ⟨htold, hmail⟩ := reply_told hr.1 u n
  exact ⟨_, (mailCommand_ready hr).trans (congrArg Host.Outcome.next hf), htold, hP _ hmail⟩

end

/-- A command whose checks pass has its effect, with OK. -/
theorem State.settle_ok {s : State} {c : Cmd} {checks : List (Bool × Nat)} (h : ∀ x ∈ checks, x.1 = false) (effect : State → State) :
    s.settle c checks effect = (effect s).reply c statOk := by
  rw [State.settle, List.find?_eq_none.2 fun x hx => by simp [h x hx]]

section
variable {s : State} {k code : Nat} {c : Cmd} {tenant : Bool} {checks : Cmd → State → List (Bool × Nat)} {effect : Cmd → State → State → State}

/-- A command that only checks and writes tells OK, and has its effect. -/
theorem mailCommand_settles {P : State → Prop} (hr : mailReady s k c code tenant) (hgood : ∀ x ∈ checks c s, x.1 = false)
    (hP : ∀ t, OnlyMail (effect c s s) t → P t) :
    ∃ t, mailCommand code tenant (fun c s => s.settle c (checks c s) (effect c s)) k s = .next t ∧ .mailDone k c.slot 0 ∈ t.sent ∧ P t :=
  mailCommand_replies hr (State.settle_ok hgood _) hP

end

/-- A command of a single check that fails. -/
theorem State.settle_fails {s : State} {c : Cmd} {b : Bool} {n : Nat} (h : b = true) (effect : State → State) :
    s.settle c [(b, n)] effect = s.reply c n := by
  rw [State.settle, h]
  rfl

/-! ## Fibres and pools (R195, R259) -/

theorem State.fibre_setFibre (s : State) (f : BitVec 16) (x : Fibre) : (s.setFibre f x).fibre f = x := by
  have die : f.toNat / 16384 < 4 := by have := f.isLt; omega
  rw [State.fibre, State.setFibre, State.die_modDie die]
  exact congrArg (·.getD Fibre.reset) (mget_mput_same ..)

theorem State.pool_setPool (s : State) {d : Nat} (hd : d < 4) (x : Nat) (p : Word × Word) : (s.setPool d x p).pool d x = p := by
  rw [State.pool, State.setPool, State.die_modDie hd]
  exact congrArg (·.getD (0#64, 0#64)) (mget_mput_same ..)

section
variable {s : State} {k : Nat} {c : Cmd}

/-- The record that a FIBRE_SETUP writes. -/
def Cmd.newFibre (c : Cmd) : Fibre :=
  { w := Vector.ofFn fun i : Fin 8 => if i.val < 6 then c.word (2 + i.val) else if i.val = 6 then w64 (wbits (c.word 1) 32 22) else 0#64
    held := none, wrote := none }

theorem Cmd.newFibre_word (c : Cmd) {i : Nat} (h : i < 6) : c.newFibre.word i = c.word (2 + i) := by
  simp [Fibre.word, Cmd.newFibre, h, Nat.lt_trans h (show 6 < 8 by decide)]

theorem exec_fibreSetup (hr : mailReady s k c 0x01 true) (hfree : wbits ((s.fibre c.fibre).word 0) 60 4 = 0)
    (hctx : wbits (c.word 2) 56 4 = c.ctx) (hgood : c.fibreBad = false) :
    ∃ t, exec (.fibreSetup k) s = .next t ∧ .mailDone k c.slot 0 ∈ t.sent ∧ t.fibre c.fibre = c.newFibre := by
  simp only [exec, execFibreSetup]
  refine mailCommand_settles hr (by simp [hfree, hctx, hgood]) fun t hmail => ?_
  exact (hmail.fibre _).trans (State.fibre_setFibre ..)

theorem exec_fibreTeardown (hr : mailReady s k c 0x02 true) (hform : wbits (c.word 1) 12 2 = 0) (hhigh : wbits (c.word 1) 16 48 = 0)
    (hctx : wbits ((s.fibre c.fibre).word 0) 56 4 = c.ctx) (hidle : s.fibreBusy c.fibre = false) :
    ∃ t, exec (.fibreTeardown k) s = .next t ∧ .mailDone k c.slot 0 ∈ t.sent ∧ t.fibre c.fibre = Fibre.reset := by
  simp only [exec, execFibreTeardown]
  refine mailCommand_settles hr (by simp [hform, hhigh, hctx, hidle]) fun t hmail => ?_
  exact (hmail.fibre _).trans (State.fibre_setFibre ..)

theorem exec_pagePool (hr : mailReady s k c 0x03 true) (hd : (c.word 1).toNat < 4) :
    ∃ t, exec (.pagePool k) s = .next t ∧ .mailDone k c.slot 0 ∈ t.sent ∧ t.pool (c.word 1).toNat c.ctx = (c.word 2, c.word 3) := by
  simp only [exec, execPagePool]
  refine mailCommand_settles hr (by simpa using Nat.le_of_lt_succ hd) fun t hmail => ?_
  exact (hmail.pool ..).trans (State.pool_setPool _ hd ..)

/-! ## Records, parameters, rings (R189, R259, R261) -/

theorem exec_recordWrite {new : Word} (hr : mailReady s k c 0x04 true) (hok : s.taskOk (c.word 1) = true)
    (hctx : (s.taskAt (c.word 1)).ctx = c.ctx) (hstate : (s.taskAt (c.word 1)).state = 1) (hi : (c.word 2).toNat < 16)
    (hnew : new = ((s.taskAt (c.word 1)).word (c.word 2).toNat &&& ~~~(c.word 4)) ||| (c.word 3 &&& c.word 4))
    (hgood : s.recordBad c.ctx (c.word 2).toNat (c.word 3 &&& c.word 4) new = false) :
    ∃ t, exec (.recordWrite k) s = .next t ∧ .mailDone k c.slot 0 ∈ t.sent ∧
      t.taskAt (c.word 1) = (s.taskAt (c.word 1)).patch (c.word 2).toNat new := by
  subst hnew
  simp only [exec, execRecordWrite]
  refine mailCommand_settles hr (by simpa [hok, hctx, hstate, hgood] using Nat.le_of_lt_succ hi) fun t hmail => ?_
  exact (hmail.taskAt _).trans (State.task_setTask _ _ _ (hDie_lt _))

theorem exec_gpWrite (hr : mailReady s k c 0x05 true) (hn : (c.word 1).toNat < 64) :
    ∃ t, exec (.gpWrite k) s = .next t ∧ .mailDone k c.slot 0 ∈ t.sent ∧ (t.ctx c.ctx).gpGet (c.word 1).toNat = c.word 2 := by
  obtain ⟨-, -, -, -, hctx⟩ := id hr
  simp only [exec, execGpWrite]
  refine mailCommand_settles hr (by simpa using Nat.le_of_lt_succ hn) fun t hmail => ?_
  exact (congrArg (Ctx.gpGet · _) (hmail.ctx _)).trans (State.setGp_gpGet _ hctx hn _)

theorem failIf_eq_none {b : Bool} {y : Trip} : failIf b y = none ↔ b = false := by cases b <;> simp [failIf]

/-- A plain cell that a context may use. -/
theorem cellTrip_plain {x : Nat} {h : Word} (hcell : s.cellTrip x h [.plain] = none) :
    s.cellOk h = true ∧ (s.cellAt h).ctx = x ∧ (s.cellAt h).kind = .plain := by
  simp only [State.cellTrip, firstTrip_eq_none, List.forall_mem_cons, failIf_eq_none, Bool.not_eq_false', bne_eq_false_iff_eq] at hcell
  obtain ⟨hok, hctx, -, hkind, -⟩ := hcell
  exact ⟨hok, hctx, by simpa using hkind⟩

theorem exec_ringSetup (hr : mailReady s k c 0x12 true) (hn : (c.word 1).toNat < 4) (hhigh : wbits (c.word 3) 35 28 = 0)
    (hcount : wbits (c.word 3) 0 8 ≠ 0) (htime : wbits (c.word 3) 8 16 ≠ 0) (hvector : wbits (c.word 3) 24 11 ≤ 2031)
    (hcell : s.cellTrip c.ctx (c.word 2) [.plain] = none) :
    ∃ t, exec (.ringSetup k) s = .next t ∧ .mailDone k c.slot 0 ∈ t.sent ∧ (t.ctx c.ctx).ring (c.word 1).toNat =
      { w0 := c.word 2, w1 := c.word 3, q := (s.cellAt (c.word 2)).w0, timer := none, seen := (s.cellAt (c.word 2)).w0 } := by
  obtain ⟨-, -, -, -, hctx⟩ := id hr
  obtain ⟨hok, howner, hkind⟩ := cellTrip_plain hcell
  simp only [exec, execRingSetup]
  refine mailCommand_settles hr ?_ fun t hmail => ?_
  · simp [Nat.le_of_lt_succ hn, hhigh, hcount, htime, hvector, hok, howner, hkind]
  · exact (congrArg (Ctx.ring · _) (hmail.ctx _)).trans (State.ring_modRing hctx hn _)

/-! ## Compactions (R203) -/

theorem exec_compactionResume {mine : Nat × CompactJob → Bool} (hr : mailReady s k c 0x0C true)
    (hmine : mine = fun j => j.2.die == hDie (c.word 1) && j.2.frame == hIndex (c.word 1) && j.2.halted)
    (hform : handleForm (c.word 1) 4 framePool = true) (hgen : (s.frameAt (c.word 1)).gen = hGen (c.word 1))
    (hstate : (s.frameAt (c.word 1)).state ≠ 0) (hctx : (s.frameAt (c.word 1)).ctx = c.ctx) (hjobs : s.compacts.any mine = true) :
    ∃ t, exec (.compactionResume k) s = .next t ∧ .mailDone k c.slot 0 ∈ t.sent ∧ t.compacts.any mine = false := by
  subst hmine
  simp only [exec, execCompactionResume]
  refine mailCommand_settles hr (by simpa [hform, hgen, hstate, hctx] using hjobs) fun t hmail => ?_
  rw [hmail.compacts, List.any_map, List.any_eq_false]
  intro j hj
  dsimp only [Function.comp_apply]
  split
  · simp
  next hne => simpa using hne

/-! ## GO (R189) -/

/-- Writing a record leaves every other. -/
theorem State.task_setTask_ne (s : State) {d i e j : Nat} (x : TaskRec) (hne : ¬ (e = d ∧ j = i)) : (s.setTask d i x).task e j = s.task e j := by
  by_cases he : e = d
  · subst he
    by_cases hd : e < 4
    · rw [State.task, State.setTask, State.die_modDie hd]
      exact congrArg (·.getD TaskRec.reset) (mget_mput_ne _ _ fun hj => hne ⟨rfl, hj⟩)
    · simp [State.task, State.die, State.setTask, State.modDie, hd]
  · simp [State.task, State.die, State.setTask, State.modDie, Ne.symm he]

/-- A record is ARMED or READY (R174). -/
def State.armed (s : State) (d i : Nat) : Prop := (s.task d i).state = 2 ∨ (s.task d i).state = 3

/-- Arming a record leaves every record ARMED or READY that was so (R177). -/
theorem State.armWith_armed (s : State) {d : Nat} (i : Nat) (n : Int) (hd : d < 4) (e j : Nat) (h : s.armed e j) :
    (s.armWith d i n).armed e j := by
  by_cases hsame : e = d ∧ j = i
  · obtain ⟨rfl, rfl⟩ := hsame
    exact s.armWith_state j n hd
  · obtain ⟨c, harm⟩ := s.armWith_eq d i n
    have other : (s.armWith d i n).task e j = s.task e j := by
      rw [harm]
      split
      · exact (State.task_congr (t := s.makeReady d i _) rfl e j).trans (s.task_setTask_ne _ hsame)
      · exact s.task_setTask_ne _ hsame
    rwa [State.armed, other]

/-- The heads of a go list armed, in list order (R189). -/
def State.armAll (s : State) (heads : List Word) : State :=
  heads.foldl (fun s h => s.armWith (hDie h) (hIndex h) (wbits ((s.taskAt h).word 0) 0 16)) s

theorem State.armAll_keeps (heads : List Word) (s : State) : ∀ e j, s.armed e j → (s.armAll heads).armed e j :=
  foldl_rel (R := fun s t => ∀ e j, s.armed e j → State.armed t e j) (fun _ _ _ h => h) (fun h g e j x => g e j (h e j x))
    (fun s h e j x => s.armWith_armed _ _ (hDie_lt h) e j x) heads s

theorem State.armAll_armed : ∀ (heads : List Word) (s : State), ∀ h ∈ heads, (s.armAll heads).armed (hDie h) (hIndex h)
  | [], _, _, hmem => absurd hmem List.not_mem_nil
  | x :: heads, s, h, hmem => by
    rcases List.mem_cons.1 hmem with rfl | hmem
    · exact State.armAll_keeps heads _ _ _ (s.armWith_state _ _ (hDie_lt h))
    · exact State.armAll_armed heads _ h hmem

section
variable {heads : List Word} (hr : mailReady s k c 0x06 true) (hmin : 1 ≤ (c.word 1).toNat) (hmax : (c.word 1).toNat ≤ 6)
  (hheads : heads = (List.range (c.word 1).toNat).map fun i => c.word (2 + i))
include hr hmin hmax hheads

theorem exec_go (hgood : s.goCheck c.ctx [] heads = none) : ∃ t, exec (.go k) s = .next t ∧ .mailDone k c.slot 0 ∈ t.sent ∧
    ∀ h ∈ heads, (t.taskAt h).state = 2 ∨ (t.taskAt h).state = 3 := by
  have count : ¬ ((c.word 1).toNat < 1 ∨ 6 < (c.word 1).toNat) := by omega
  simp only [exec, execGo]
  refine mailCommand_replies (u := s.armAll heads) hr ?_ fun t hmail h hh => ?_
  · rw [if_neg count, ← hheads, hgood]
    rfl
  · rw [hmail.taskAt]
    exact State.armAll_armed heads s h hh

theorem exec_go_refused {n : Nat} (hbad : s.goCheck c.ctx [] heads = some n) :
    ∃ t, exec (.go k) s = .next t ∧ .mailDone k c.slot n ∈ t.sent ∧ t.dies = s.dies := by
  have count : ¬ ((c.word 1).toNat < 1 ∨ 6 < (c.word 1).toNat) := by omega
  simp only [exec, execGo]
  refine mailCommand_replies (u := s) hr ?_ fun t hmail => hmail.dies
  rw [if_neg count, ← hheads, hbad]

end

end

end Sys2Proof.Machine

namespace Sys2Proof.Proofs
open Sys2Proof.Machine

/-- Settles O45: each command by its own effect. -/
theorem tenantCommands : Obligations.TenantCommands := by
  intro s k c
  refine ⟨fun hr hfree hctx hgood => ?setup, fun hr hform hhigh _ hctx hidle => exec_fibreTeardown hr hform hhigh hctx hidle,
    fun hr hd => exec_pagePool hr hd, fun hr hok hctx hstate hi => exec_recordWrite hr hok hctx hstate hi rfl, fun hr hn => exec_gpWrite hr hn,
    fun hr hmin hmax => ⟨exec_go hr hmin hmax rfl, fun e hbad => exec_go_refused hr hmin hmax rfl hbad⟩,
    fun hr hform hgen hstate hctx => exec_compactionResume hr rfl hform hgen hstate hctx,
    fun hr hn hhigh hcount htime hvector hcell => exec_ringSetup hr hn hhigh hcount htime hvector hcell⟩
  case setup =>
    obtain ⟨t, hexec, htold, hfibre⟩ := exec_fibreSetup hr hfree hctx hgood
    refine ⟨t, hexec, htold, fun i hi => ?_, ?_⟩
    · rw [hfibre, Cmd.newFibre_word _ hi]
    · rw [hfibre]
      rfl

end Sys2Proof.Proofs
end

section
/-!
Mailbox commands of the reeve's stream (R32, R35, R224, R225, R232, R252, R254, R258, R259).
-/
namespace Sys2Proof.Machine

section
variable {s : State} {k : Nat} {c : Cmd}

/-! ## Commands that complete later (R32, R224, R232, R252) -/

/-- A command that has begun gives its core free. -/
theorem mailCommand_defers {code : Nat} {tenant : Bool} {f : Cmd → State → State} {u : State} (hr : mailReady s k c code tenant)
    (hf : f c s = u.defer c) : mailCommand code tenant f k s = .next (u.modCore k fun y => { y with cur := none }) := by
  obtain ⟨hcore, -⟩ := State.command_core hr.1
  rw [mailCommand_ready hr, hf, State.defer, hcore]

section
variable {x : Nat} {va : Option Word} {i : Instr} (hr : s.command k = some c)
  (hexec : exec i s = .next ((s.invalidate (some (k, c.slot)) x va false).modCore k fun y => { y with cur := none }))
include hr hexec

/-- An invalidation that a command has begun stands under its number (R32). -/
theorem invalidation_begun : ∃ t, exec i s = .next t ∧ (t.core k).cur = none ∧ mget t.invals s.seq = some
    { core := some (k, c.slot), ctx := x, va := va, withG := false, arrived := [], waits := [], refuse := [] } := by
  obtain ⟨-, hk⟩ := State.command_core hr
  refine ⟨_, hexec, ?_, mget_mput_same ..⟩
  rw [State.core_modCore hk]

end

theorem exec_invalidateByPage (hr : mailReady s k c 0x07 false) : exec (.invalidateByPage k) s =
    .next ((s.invalidate (some (k, c.slot)) c.ctx (some (c.word 1)) false).modCore k fun y => { y with cur := none }) := by
  obtain ⟨hcore, -⟩ := State.command_core hr.1
  simp only [exec, execInvalidateByPage]
  exact mailCommand_defers hr (by rw [hcore])

theorem exec_invalidateByTenant (hr : mailReady s k c 0x08 false) : exec (.invalidateByTenant k) s =
    .next ((s.invalidate (some (k, c.slot)) c.ctx none false).modCore k fun y => { y with cur := none }) := by
  obtain ⟨hcore, -⟩ := State.command_core hr.1
  simp only [exec, execInvalidateByTenant]
  exact mailCommand_defers hr (by rw [hcore])

section
variable (hpre : (s.ctx c.ctx).pre = .none) (hlive : (s.ctx c.ctx).live = true)
include hpre hlive

/-- A pre-emption is asked for (R224). -/
theorem exec_preEmpt (hr : mailReady s k c 0x09 false) : exec (.preEmpt k) s = .next ((s.modCtx c.ctx fun y =>
    { y with pre := .asked false, preCore := some (k, c.slot), retry := false }).modCore k fun y => { y with cur := none }) := by
  obtain ⟨hcore, -⟩ := State.command_core hr.1
  simp only [exec, execPreEmpt]
  refine mailCommand_defers hr ?_
  rw [hpre, hcore]
  exact if_pos hlive

/-- A teardown is asked for (R232). -/
theorem exec_teardown (hr : mailReady s k c 0x0B false) : exec (.teardown k) s = .next ((s.modCtx c.ctx fun y =>
    { y with pre := .asked true, preCore := some (k, c.slot), retry := false }).modCore k fun y => { y with cur := none }) := by
  obtain ⟨hcore, -⟩ := State.command_core hr.1
  have may : (s.ctx c.ctx).mayDie = true := by rw [Ctx.mayDie, hlive, hpre]; rfl
  simp only [exec, execTeardown]
  refine mailCommand_defers hr ?_
  rw [hlive, may, hcore, State.askTeardown, hpre]
  rfl

end

/-- A context that is asked to stop stands as asked while its core goes on (R224, R232). -/
theorem ctx_asked {code : Nat} {tenant : Bool} (hr : mailReady s k c code tenant) (f : Ctx → Ctx) (g : Core → Core) :
    ((s.modCtx c.ctx f).modCore k g).ctx c.ctx = f (s.ctx c.ctx) := by
  obtain ⟨-, -, -, -, hctx⟩ := hr
  exact (show _ = (s.modCtx c.ctx f).ctx c.ctx from rfl).trans (State.ctx_modCtx hctx f)

/-- A drain moves the module to DRAIN, and stays outstanding (R252). -/
theorem exec_drain (hr : mailReady s k c 0x10 false) (hstate : s.mstate = .run ∨ s.mstate = .retreat) :
    exec (.drain k) s = .next (({ s.enterDrain 0#8 with drainCmd := true } : State).modCore k fun y => { y with cur := none }) := by
  simp only [exec, execDrain]
  refine mailCommand_defers hr ?_
  rcases hstate with h | h <;> rw [h]

/-! ## RESUME (R225) -/

theorem State.resumeCtx_resumed {x : Nat} {u : State} (hx : x < 16) (h : s.resumeCtx x = (u, true)) : (u.ctx x).pre = .none := by
  unfold State.resumeCtx at h
  dsimp only at h
  split at h
  next => cases h
  next =>
    cases h
    rw [State.ctx_modCtx hx]

theorem State.resumeCtx_failed {x : Nat} {u : State} (h : s.resumeCtx x = (u, false)) : u.ctxs = s.ctxs := by
  unfold State.resumeCtx at h
  dsimp only at h
  split at h
  next =>
    cases h
    rfl
  next => cases h

section
variable {u : State} (hr : mailReady s k c 0x0A false) (hpre : (s.ctx c.ctx).pre = .spilled)
include hr hpre

theorem exec_resume (hu : s.resumeCtx c.ctx = (u, true)) :
    ∃ t, exec (.resume k) s = .next t ∧ .mailDone k c.slot 0 ∈ t.sent ∧ .resumed c.ctx ∈ t.sent ∧ (t.ctx c.ctx).pre = .none := by
  obtain ⟨hcmd, -, -, -, hctx⟩ := id hr
  obtain ⟨htold, hmail⟩ := reply_told hcmd (u.send (.resumed c.ctx)) statOk
  obtain ⟨l, hsent, -⟩ := (u.send (.resumed c.ctx)).reply_sends c statOk
  refine ⟨_, ?_, htold, ?_, ?_⟩
  · simp only [exec, execResume]
    rw [mailCommand_ready hr, hpre, hu]
  · rw [hsent]
    exact List.mem_append_right _ List.mem_cons_self
  · rw [hmail.ctx]
    exact State.resumeCtx_resumed (s := s) (u := u) hctx hu

theorem exec_resume_fails (hu : s.resumeCtx c.ctx = (u, false)) :
    ∃ t, exec (.resume k) s = .next t ∧ .mailDone k c.slot 5 ∈ t.sent ∧ (t.ctx c.ctx).pre = .spilled := by
  simp only [exec, execResume]
  refine mailCommand_replies (u := u) hr ?_ fun t hmail => ?_
  · rw [hpre, hu]
    rfl
  · rw [hmail.ctx, State.ctx, State.resumeCtx_failed hu, ← State.ctx, hpre]

end

/-! ## POISON_CLEAR (R35) -/

theorem Memory.get_filter_out {m : List Host.Cell} {a : Nat} {p : Host.Cell → Bool} (h : ∀ x, p (a, x) = false) :
    Memory.get (m.filter p) a = 0#8 := by
  induction m with
  | nil => rfl
  | cons cell m ih =>
    rw [List.filter_cons]
    split
    next hp =>
      rw [Memory.get, if_neg, ih]
      rintro rfl
      simp [h cell.2] at hp
    next => exact ih

section
variable (hr : mailReady s k c 0x0D false)
include hr

theorem exec_poisonClear (hpage : (c.word 1).toNat < tierPages) (hpoison : s.poison.contains (c.word 1).toNat = true) :
    ∃ t, exec (.poisonClear k) s = .next t ∧ .mailDone k c.slot 0 ∈ t.sent ∧ (c.word 1).toNat ∉ t.poison ∧
      ∀ a, a / 65536 = (c.word 1).toNat → Memory.get t.tier a = 0#8 := by
  simp only [exec, execPoisonClear]
  refine mailCommand_settles hr (by simpa using hpage) fun t hmail => ?_
  rw [hpoison, Bool.not_true, if_neg Bool.false_ne_true] at hmail
  rw [hmail.poison, hmail.tier]
  exact ⟨by simp, fun a ha => Memory.get_filter_out fun x => by simp [ha]⟩

theorem exec_poisonClear_clean (hpage : (c.word 1).toNat < tierPages) (hclean : s.poison.contains (c.word 1).toNat = false) :
    ∃ t, exec (.poisonClear k) s = .next t ∧ .mailDone k c.slot 0 ∈ t.sent ∧ t.poison = s.poison ∧ t.tier = s.tier := by
  simp only [exec, execPoisonClear]
  refine mailCommand_settles hr (by simpa using hpage) fun t hmail => ?_
  rw [hclean, Bool.not_false, if_pos rfl] at hmail
  exact ⟨hmail.poison, hmail.tier⟩

theorem exec_poisonClear_beyond (hpage : tierPages ≤ (c.word 1).toNat) :
    ∃ t, exec (.poisonClear k) s = .next t ∧ .mailDone k c.slot 3 ∈ t.sent ∧ t.poison = s.poison ∧ t.tier = s.tier := by
  simp only [exec, execPoisonClear]
  exact mailCommand_replies (u := s) hr (State.settle_fails (decide_eq_true hpage) _) fun t hmail => ⟨hmail.poison, hmail.tier⟩

end

/-! ## Configuration and module states (R252, R254) -/

section
variable (hr : mailReady s k c 0x0E false)
include hr

theorem exec_configurationWrite {g : LockedCfg} (hopen : s.mstate = .configOpen) (hput : s.cfg.put (c.word 1).toNat (c.word 2) = some g) :
    ∃ t, exec (.configurationWrite k) s = .next t ∧ .mailDone k c.slot 0 ∈ t.sent ∧ t.cfg = g := by
  simp only [exec, execConfigurationWrite]
  refine mailCommand_replies (u := { s with cfg := g }) hr ?_ fun t hmail => hmail.cfg
  rw [if_neg (not_not.2 hopen), hput]
  rfl

theorem exec_configurationWrite_locked (hlocked : s.mstate ≠ .configOpen) :
    ∃ t, exec (.configurationWrite k) s = .next t ∧ .mailDone k c.slot 1 ∈ t.sent ∧ t.cfg = s.cfg := by
  simp only [exec, execConfigurationWrite]
  exact mailCommand_replies (u := s.send (.logCfg (c.word 1))) hr (if_pos hlocked) fun t hmail => hmail.cfg

end

theorem exec_lock (hr : mailReady s k c 0x0F false) (hopen : s.mstate = .configOpen) :
    ∃ t, exec (.lock k) s = .next t ∧ .mailDone k c.slot 0 ∈ t.sent ∧ t.mstate = .configLocked := by
  simp only [exec, execLock]
  exact mailCommand_replies hr (if_pos hopen) fun t hmail => hmail.mstate

theorem exec_shutdown (hr : mailReady s k c 0x11 false) (hstate : s.mstate = .configOpen ∨ s.mstate = .configLocked ∨ s.mstate = .park) :
    ∃ t, exec (.shutdown k) s = .next t ∧ .mailDone k c.slot 0 ∈ t.sent ∧ t.mstate = .warm ∧ t.clockOn = false := by
  simp only [exec, execShutdown]
  exact mailCommand_replies hr (if_pos hstate) fun t hmail => ⟨hmail.mstate, hmail.clockOn⟩

/-! ## Commands that are refused (R259) -/

theorem exec_unknownCommand (hcmd : s.command k = some c) (hcode : c.code = 0 ∨ 0x12 < c.code) :
    ∃ t, exec (.unknownCommand k) s = .next t ∧ .mailDone k c.slot 3 ∈ t.sent := by
  obtain ⟨htold, -⟩ := reply_told hcmd s statBad
  refine ⟨_, ?_, htold⟩
  simp only [exec, execUnknownCommand, hcmd]
  exact if_neg (by omega)

theorem exec_lock_denied (hcmd : s.command k = some c) (hcode : c.code = 0x0F) (hstream : c.stream.isSome = true) :
    ∃ t, exec (.lock k) s = .next t ∧ .mailDone k c.slot 9 ∈ t.sent ∧ t.mstate = s.mstate := by
  obtain ⟨htold, hmail⟩ := reply_told hcmd s statDenied
  have other : c.stream ≠ none := Option.isSome_iff_ne_none.1 hstream
  refine ⟨_, ?_, htold, hmail.mstate⟩
  simp only [exec, execLock]
  exact mailCommand_denied (tenant := false) hcmd hcode other

theorem exec_gpWrite_denied (hcmd : s.command k = some c) (hcode : c.code = 0x05) (hstream : c.stream ≠ some c.ctx) :
    ∃ t, exec (.gpWrite k) s = .next t ∧ .mailDone k c.slot 9 ∈ t.sent ∧ t.ctxs = s.ctxs := by
  obtain ⟨htold, hmail⟩ := reply_told hcmd s statDenied
  refine ⟨_, ?_, htold, hmail.ctxs⟩
  simp only [exec, execGpWrite]
  exact mailCommand_denied (tenant := true) hcmd hcode hstream

end

end Sys2Proof.Machine

namespace Sys2Proof.Proofs
open Sys2Proof.Machine

/-- Settles O46: each command by its own effect, and what is refused. -/
theorem reeveCommands : Obligations.ReeveCommands := by
  intro s k c
  refine ⟨fun hr => invalidation_begun hr.1 (exec_invalidateByPage hr), fun hr => invalidation_begun hr.1 (exec_invalidateByTenant hr),
    fun hr hpre hlive => ⟨_, exec_preEmpt hpre hlive hr, ?preEmpt⟩, fun hr hpre => ⟨fun u => exec_resume hr hpre, fun u => exec_resume_fails hr hpre⟩,
    fun hr hpre hlive => ⟨_, exec_teardown hpre hlive hr, ?teardown⟩,
    fun hr => ⟨exec_poisonClear hr, exec_poisonClear_clean hr, exec_poisonClear_beyond hr⟩,
    fun hr => ⟨fun g => exec_configurationWrite hr, exec_configurationWrite_locked hr⟩, exec_lock,
    fun hr hstate => ⟨_, exec_drain hr hstate, ?drain⟩, exec_shutdown, exec_unknownCommand, exec_lock_denied, exec_gpWrite_denied⟩
  case drain => exact ⟨(s.enterDrain_worked 0#8).mstate, (s.enterDrain_worked 0#8).cause, rfl⟩
  case preEmpt => exact ⟨ctx_asked hr _ _ ▸ rfl, ctx_asked hr _ _ ▸ rfl⟩
  case teardown => exact ⟨ctx_asked hr _ _ ▸ rfl, ctx_asked hr _ _ ▸ rfl⟩

end Sys2Proof.Proofs
end
